-- ==== Sys2Proof/Word.lean ====
section
/-! DEFINITION. The word types of the SH4960 and their plainest arithmetic (R6, R13, R37). -/

namespace Sys2Proof

/-- A 32-bit scalar, or one lane of a vector register (R13). -/
abbrev Word := BitVec 32

/-- A 64-bit scalar pair, an address or a 64-bit special register (R14, R16). -/
abbrev DWord := BitVec 64

/-- One byte of memory. -/
abbrev Byte := BitVec 8

/-- One bit per lane of a wave: a path's mask or a predicate (R13). -/
abbrev Lanes := BitVec 96

/-- A table of values by number, in ascending order of number and no number twice. -/
abbrev Sparse (α : Type) := List (Nat × α)

/-- Bits `[lo + n - 1 : lo]` of a number. -/
def fld (w lo n : Nat) : Nat := w / 2 ^ lo % 2 ^ n

/-- The number a word holds when its `n` low bits are read as two's complement. -/
def signedOf (n w : Nat) : Int :=
  if w % 2 ^ n < 2 ^ (n - 1) then (w % 2 ^ n : Nat) else ((w % 2 ^ n : Nat) : Int) - (2 ^ n : Nat)

/-- The low `n` bits of an integer in two's complement, as a number. -/
def wrapInt (n : Nat) (i : Int) : Nat := (i % (2 ^ n : Nat)).toNat

end Sys2Proof
end

