-- ==== Sys2Proof/Syntax.lean ====
section
/-! DEFINITION. Instructions, hint words, stream words, chunk words and events of the SH4960: one constructor of
`Instr` per row of spec/opcode_table.json. Rows 298 and up are the spec's events; they have no encoding and take the
object they happen to as an argument (log entry 3). -/

namespace Sys2Proof

/-- Memory space of an access (R26, R128). -/
inductive Space | g | s | c | v
deriving DecidableEq, Repr

/-- Width of a load or store (R26, R129). -/
inductive MemWidth | n8 | n16 | b32 | b64 | b128 | i8 | i16
deriving DecidableEq, Repr

/-- Comparison conditions (R27, R28). The n forms read their operands unsigned. -/
inductive CmpCond | eq | ne | lt | le | gt | ge | ltN | leN | gtN | geN | ord | unord
deriving DecidableEq, Repr

/-- Reduction operations (R28, R27). -/
inductive RedOp | add | min | max | and | or | xor | addDet
deriving DecidableEq, Repr

/-- Element type of a reduction (R28). -/
inductive ElemTy | i32 | n32 | f32
deriving DecidableEq, Repr

/-- Element type of a repay, in that field's own code order (R27). -/
inductive RepayTy | f32 | i32 | n32
deriving DecidableEq, Repr

/-- How a compare combines with its destination predicate (R28). -/
inductive CmpMode | write | and | or
deriving DecidableEq, Repr

/-- Partner that vnbr reads (R28). -/
inductive NbrSel | x | y | diagonal
deriving DecidableEq, Repr

/-- Scale mode of mscl (R30). -/
inductive MsclMode | row | col | rc
deriving DecidableEq, Repr

/-- Scope of a fence (R29). -/
inductive Scope | wave | block | cluster | die | package | system
deriving DecidableEq, Repr

/-- Condition of the chunk branch brd (R183). -/
inductive BrdCond | z | nz | lt | ge
deriving DecidableEq, Repr

/-- Rounding modes (R21, R41). -/
inductive Rnd | rne | rtz | rdn | rup | rna
deriving DecidableEq, Repr

/-- The fields of a mod hint word (R18, R21). -/
structure ModFields where
  vce : Bool
  vc : BitVec 7
  rnd : Rnd
  sat : Bool
  ftz : Bool
  cpol : BitVec 2
  w : Bool
  pk : BitVec 2
  split : Bool
  na : Bool
  nc : Bool
deriving DecidableEq, Repr

/-- Which control page a host register access names (R58, R202, R235, R263). -/
inductive CtlPage | dev | core | cluster
deriving DecidableEq, Repr

/-- A row in which an error was corrected, as an assay tests it (R385): the model's number of the structure (log entry 24), its row or
its DRAM frame, the cluster and the core that hold it, and in DRAM the physical address of the error (R387). -/
structure RasRow where
  structure_ : Nat
  row : Nat
  dram : Bool
  cluster : Option Nat
  core : Option Nat
  l2 : Bool
  addr : Nat
deriving DecidableEq, Repr

/-- Soft errors (R384, R305): the granules whose data is uncorrectable, as the model numbers them (log entry 24), and the rows in which
single-bit errors were corrected. Physical events, so an input (log entry 16). -/
structure SoftErrors where
  bad : List Nat
  corrected : List RasRow
deriving DecidableEq, Repr

/-- Figures of an island that its sensors and its controller give (R388): an input (log entry 16). -/
structure IslandReading where
  tj : Nat
  mhz : Nat
  mv : Nat
  vmax : Nat
deriving DecidableEq, Repr

/-- One boot image as stage ROM or firmware finds it (R393): an input (log entry 15). -/
structure BootImage where
  code : List Nat
  key : List Nat
  signature : List Nat
  version : Nat
deriving DecidableEq, Repr

/-- Types of a flit (R349). -/
inductive FlitKind | data | ack | write | wack | pause | resume | close | reserved
deriving DecidableEq, Repr

/-- Module, die and context of a clearing engine (R346, R349). -/
structure Endpoint where
  module : Nat
  die : Nat
  ctx : Nat
deriving DecidableEq, Repr

/-- A flit, header fields and payload (R349). `clean` says that its reserved bits are zero. -/
structure Flit where
  kind : FlitKind
  clean : Bool
  cls : Nat
  ch : Nat
  src : Endpoint
  dst : Endpoint
  chunk : Nat
  index : Nat
  addr : Nat
  payload : List Byte
deriving DecidableEq, Repr

/-- Why a fetched wave word does not run (R11, R12): it is not an instruction, or its fetch faulted. -/
inductive FetchReject
  | word (w : BitVec 32)
  | fetchFault (cause : Nat) (addr : Nat)
deriving DecidableEq, Repr

/-- Why a chunk program's fetch gives no instruction (R184). -/
inductive ChunkReject | word (w : BitVec 32) | outside
deriving DecidableEq, Repr

/-- An access over the host link to device memory (R317), by virtual or physical address, or to a control page (R58); and a path's
access to a control page, for which the spec gives no address (log entry 113). A page is named with its core or cluster, and a register
by its offset, and by the scalar register that takes what a path reads. -/
inductive HostAccess
  | read (virtual : Bool) (addr len : Nat)
  | write (virtual : Bool) (addr : Nat) (bytes : List Byte)
  | registerRead (page : CtlPage) (index off : Nat)
  | pathRead (pid dest : Nat) (page : CtlPage) (index off : Nat)
  | pathWrite (pid : Nat) (page : CtlPage) (index off : Nat) (value : DWord)
deriving DecidableEq, Repr

/-- A stream word as a matrix sequencer reads it (R12, R30). -/
inductive StreamOp
  | mmaE4m3E4m3 (z : Bool) (a : BitVec 7) (b : BitVec 7) (m : BitVec 3)
  | mmaE4m3E5m2 (z : Bool) (a : BitVec 7) (b : BitVec 7) (m : BitVec 3)
  | mmaE5m2E4m3 (z : Bool) (a : BitVec 7) (b : BitVec 7) (m : BitVec 3)
  | mmaE5m2E5m2 (z : Bool) (a : BitVec 7) (b : BitVec 7) (m : BitVec 3)
  | mmaI8 (z : Bool) (a : BitVec 7) (b : BitVec 7) (m : BitVec 3)
  | mmaBf16 (z : Bool) (a : BitVec 7) (b : BitVec 7) (m : BitVec 3)
  | mmaF16 (z : Bool) (a : BitVec 7) (b : BitVec 7) (m : BitVec 3)
  | mmaTriI8 (z : Bool) (a : BitVec 7) (b : BitVec 7) (m : BitVec 3)
  | mmapShape (m : BitVec 3) (x : BitVec 8) (y : BitVec 9)
  | mmapK (m : BitVec 3) (k : BitVec 13) (o : BitVec 8)
  | mmapAcc (m : BitVec 3) (r : BitVec 10) (a : Bool) (b : Bool)
  | macz (r : BitVec 10) (c : BitVec 11)
  | mscl (d : BitVec 3) (s : BitVec 3) (t : BitVec 7) (m : MsclMode)
  | mbarWait (n : BitVec 4)
  | mbarSig (n : BitVec 4)
  | mloop (c : BitVec 2) (o : BitVec 21)
  | mend
  | mhalt
  | mrel (t : BitVec 7)
  | mset (c : BitVec 2) (i : BitVec 21)
deriving DecidableEq, Repr

/-- A chunk word as a clearing engine reads it (R183). -/
inductive ChunkOp
  | send (p : BitVec 4) (b : BitVec 4) (d : BitVec 4) (c : BitVec 4)
  | recv (p : BitVec 4) (b : BitVec 4) (d : BitVec 4) (c : BitVec 4)
  | redAddF32 (m : BitVec 4) (b : BitVec 4) (d : BitVec 4) (s : BitVec 4) (e : BitVec 4) (c : BitVec 4)
  | redAddI32 (m : BitVec 4) (b : BitVec 4) (d : BitVec 4) (s : BitVec 4) (e : BitVec 4) (c : BitVec 4)
  | redMinF32 (m : BitVec 4) (b : BitVec 4) (d : BitVec 4) (s : BitVec 4) (e : BitVec 4) (c : BitVec 4)
  | redMaxF32 (m : BitVec 4) (b : BitVec 4) (d : BitVec 4) (s : BitVec 4) (e : BitVec 4) (c : BitVec 4)
  | redMinI32 (m : BitVec 4) (b : BitVec 4) (d : BitVec 4) (s : BitVec 4) (e : BitVec 4) (c : BitVec 4)
  | redMaxI32 (m : BitVec 4) (b : BitVec 4) (d : BitVec 4) (s : BitVec 4) (e : BitVec 4) (c : BitVec 4)
  | redAndB32 (m : BitVec 4) (b : BitVec 4) (d : BitVec 4) (s : BitVec 4) (e : BitVec 4) (c : BitVec 4)
  | redOrB32 (m : BitVec 4) (b : BitVec 4) (d : BitVec 4) (s : BitVec 4) (e : BitVec 4) (c : BitVec 4)
  | drafelCopy (b : BitVec 4) (d : BitVec 4) (s : BitVec 4) (e : BitVec 4)
  | waitOps (n : BitVec 6)
  | waitGe (b : BitVec 4) (d : BitVec 4) (v : BitVec 4)
  | sig (b : BitVec 4) (d : BitVec 4) (v : BitVec 4)
  | loop (d : BitVec 4) (o : BitVec 21)
  | kick (k : BitVec 2) (c : BitVec 4) (b : BitVec 4) (x : BitVec 4) (h : BitVec 4)
  | setd (d : BitVec 4) (i : BitVec 24)
  | addd (d : BitVec 4) (s : BitVec 4) (i : BitVec 20)
  | brd (d : BitVec 4) (c : BrdCond) (o : BitVec 21)
  | drafelHalt
  | drafelNop
deriving DecidableEq, Repr

/-- Instructions, hint words, stream words, chunk words and events: one constructor per row of the opcode table.
Register numbers and immediates are the encoding's own bit fields; codes are constructors. -/
inductive Instr
  /-- SADD (R65). -/
  | sadd (d : BitVec 7) (a : BitVec 7) (b : BitVec 7)
  /-- SSUB (R65). -/
  | ssub (d : BitVec 7) (a : BitVec 7) (b : BitVec 7)
  /-- SMUL (R65). -/
  | smul (d : BitVec 7) (a : BitVec 7) (b : BitVec 7)
  /-- SMULH_I32 (R65). -/
  | smulhI32 (d : BitVec 7) (a : BitVec 7) (b : BitVec 7)
  /-- SMULH_N32 (R65). -/
  | smulhN32 (d : BitVec 7) (a : BitVec 7) (b : BitVec 7)
  /-- SDIV_I32 (R66). -/
  | sdivI32 (d : BitVec 7) (a : BitVec 7) (b : BitVec 7)
  /-- SDIV_N32 (R66). -/
  | sdivN32 (d : BitVec 7) (a : BitVec 7) (b : BitVec 7)
  /-- SREM_I32 (R66). -/
  | sremI32 (d : BitVec 7) (a : BitVec 7) (b : BitVec 7)
  /-- SREM_N32 (R66). -/
  | sremN32 (d : BitVec 7) (a : BitVec 7) (b : BitVec 7)
  /-- SAND (R65). -/
  | sand (d : BitVec 7) (a : BitVec 7) (b : BitVec 7)
  /-- SOR (R65). -/
  | sor (d : BitVec 7) (a : BitVec 7) (b : BitVec 7)
  /-- SXOR (R65). -/
  | sxor (d : BitVec 7) (a : BitVec 7) (b : BitVec 7)
  /-- SANDN (R65). -/
  | sandn (d : BitVec 7) (a : BitVec 7) (b : BitVec 7)
  /-- SSHL (R65). -/
  | sshl (d : BitVec 7) (a : BitVec 7) (b : BitVec 7)
  /-- SSHR (R65). -/
  | sshr (d : BitVec 7) (a : BitVec 7) (b : BitVec 7)
  /-- SSRA (R65). -/
  | ssra (d : BitVec 7) (a : BitVec 7) (b : BitVec 7)
  /-- SMIN_I32 (R65). -/
  | sminI32 (d : BitVec 7) (a : BitVec 7) (b : BitVec 7)
  /-- SMIN_N32 (R65). -/
  | sminN32 (d : BitVec 7) (a : BitVec 7) (b : BitVec 7)
  /-- SMAX_I32 (R65). -/
  | smaxI32 (d : BitVec 7) (a : BitVec 7) (b : BitVec 7)
  /-- SMAX_N32 (R65). -/
  | smaxN32 (d : BitVec 7) (a : BitVec 7) (b : BitVec 7)
  /-- SMOV (R65). -/
  | smov (d : BitVec 7) (a : BitVec 7)
  /-- SPOPC (R65). -/
  | spopc (d : BitVec 7) (a : BitVec 7)
  /-- SCLZ (R65). -/
  | sclz (d : BitVec 7) (a : BitVec 7)
  /-- SCTZ (R65). -/
  | sctz (d : BitVec 7) (a : BitVec 7)
  /-- SBREV (R65). -/
  | sbrev (d : BitVec 7) (a : BitVec 7)
  /-- SCMP (R68). -/
  | scmp (c : CmpCond) (g : BitVec 3) (a : BitVec 7) (b : BitVec 7)
  /-- SLEA (R68). -/
  | slea (d : BitVec 7) (a : BitVec 7) (b : BitVec 7)
  /-- SBFI (R67). -/
  | sbfi (d : BitVec 7) (a : BitVec 7) (b : BitVec 7)
  /-- SSEL (R68). -/
  | ssel (d : BitVec 7) (a : BitVec 7) (b : BitVec 7) (n : BitVec 3)
  /-- SADD_IMM (R65). -/
  | saddImm (d : BitVec 7) (w : Bool) (i : BitVec 12)
  /-- SMUL_IMM (R65). -/
  | smulImm (d : BitVec 7) (w : Bool) (i : BitVec 12)
  /-- SAND_IMM (R65). -/
  | sandImm (d : BitVec 7) (w : Bool) (i : BitVec 12)
  /-- SOR_IMM (R65). -/
  | sorImm (d : BitVec 7) (w : Bool) (i : BitVec 12)
  /-- SXOR_IMM (R65). -/
  | sxorImm (d : BitVec 7) (w : Bool) (i : BitVec 12)
  /-- SSHL_IMM (R65). -/
  | sshlImm (d : BitVec 7) (w : Bool) (i : BitVec 12)
  /-- SSHR_IMM (R65). -/
  | sshrImm (d : BitVec 7) (w : Bool) (i : BitVec 12)
  /-- SSRA_IMM (R65). -/
  | ssraImm (d : BitVec 7) (w : Bool) (i : BitVec 12)
  /-- SMIN_I32_IMM (R65). -/
  | sminI32Imm (d : BitVec 7) (w : Bool) (i : BitVec 12)
  /-- SMIN_N32_IMM (R65). -/
  | sminN32Imm (d : BitVec 7) (w : Bool) (i : BitVec 12)
  /-- SMAX_I32_IMM (R65). -/
  | smaxI32Imm (d : BitVec 7) (w : Bool) (i : BitVec 12)
  /-- SMAX_N32_IMM (R65). -/
  | smaxN32Imm (d : BitVec 7) (w : Bool) (i : BitVec 12)
  /-- SMOV_IMM (R65). -/
  | smovImm (d : BitVec 7) (w : Bool) (i : BitVec 12)
  /-- SBFE_I32 (R67). -/
  | sbfeI32 (d : BitVec 7) (w : Bool) (i : BitVec 12)
  /-- SBFE_N32 (R67). -/
  | sbfeN32 (d : BitVec 7) (w : Bool) (i : BitVec 12)
  /-- SMOVI (R69). -/
  | smovi (d : BitVec 6) (i : BitVec 20)
  /-- SRD (R70). -/
  | srd (s : BitVec 7) (n : BitVec 12)
  /-- SWR (R70). -/
  | swr (s : BitVec 7) (n : BitVec 12)
  /-- NFSET (R71). -/
  | nfset (s : BitVec 7) (n : BitVec 2)
  /-- BR (R72). -/
  | br (g : BitVec 3) (o : BitVec 22)
  /-- BRN (R72). -/
  | brn (g : BitVec 3) (o : BitVec 22)
  /-- JMP (R73). -/
  | jmp (o : BitVec 23)
  /-- CALL (R73). -/
  | call (o : BitVec 23)
  /-- JMP_REG (R73). -/
  | jmpReg (a : BitVec 7)
  /-- CALL_REG (R73). -/
  | callReg (a : BitVec 7)
  /-- VBR (R74). -/
  | vbr (n : Bool) (k : BitVec 3) (t : BitVec 10) (j : BitVec 10)
  /-- VBRK (R75). -/
  | vbrk (n : Bool) (k : BitVec 3)
  /-- SPLIT (R76). -/
  | split (n : Bool) (k : BitVec 3) (t : BitVec 10) (j : BitVec 10)
  /-- LOAN (R81). -/
  | loan (d : BitVec 7) (a : BitVec 7) (x : BitVec 3) (y : BitVec 6)
  /-- LNEXT (R83). -/
  | lnext (d : BitVec 7) (x : BitVec 3)
  /-- REPAY (R84). -/
  | repay (d : BitVec 7) (a : BitVec 7) (r : RedOp) (t : RepayTy)
  /-- BAR_ARRIVE (R87). -/
  | barArrive (n : BitVec 4)
  /-- BAR_WAIT (R87). -/
  | barWait (n : BitVec 4)
  /-- BAR_SYNC (R87). -/
  | barSync (n : BitVec 4)
  /-- WAIT_C (R88). -/
  | waitC (l : BitVec 6) (s : BitVec 6) (c : BitVec 4) (t : BitVec 4)
  /-- SLEEP (R89). -/
  | sleep (i : BitVec 16)
  /-- TRAP (R92). -/
  | trap (c : BitVec 8)
  /-- CLAIM (R91). -/
  | claim (n : Bool) (g : BitVec 3) (c : BitVec 5)
  /-- GIVEBACK (R91). -/
  | giveback (c : BitVec 5)
  /-- VADD (R102). -/
  | vadd (d : BitVec 7) (a : BitVec 7) (b : BitVec 7)
  /-- VSUB (R102). -/
  | vsub (d : BitVec 7) (a : BitVec 7) (b : BitVec 7)
  /-- VMUL (R102). -/
  | vmul (d : BitVec 7) (a : BitVec 7) (b : BitVec 7)
  /-- VMULH_I32 (R102). -/
  | vmulhI32 (d : BitVec 7) (a : BitVec 7) (b : BitVec 7)
  /-- VMULH_N32 (R102). -/
  | vmulhN32 (d : BitVec 7) (a : BitVec 7) (b : BitVec 7)
  /-- VMAD (R102). -/
  | vmad (d : BitVec 7) (a : BitVec 7) (b : BitVec 7)
  /-- VAND (R102). -/
  | vand (d : BitVec 7) (a : BitVec 7) (b : BitVec 7)
  /-- VOR (R102). -/
  | vor (d : BitVec 7) (a : BitVec 7) (b : BitVec 7)
  /-- VXOR (R102). -/
  | vxor (d : BitVec 7) (a : BitVec 7) (b : BitVec 7)
  /-- VANDN (R102). -/
  | vandn (d : BitVec 7) (a : BitVec 7) (b : BitVec 7)
  /-- VSHL (R102). -/
  | vshl (d : BitVec 7) (a : BitVec 7) (b : BitVec 7)
  /-- VSHR (R102). -/
  | vshr (d : BitVec 7) (a : BitVec 7) (b : BitVec 7)
  /-- VSRA (R102). -/
  | vsra (d : BitVec 7) (a : BitVec 7) (b : BitVec 7)
  /-- VMIN_I32 (R102). -/
  | vminI32 (d : BitVec 7) (a : BitVec 7) (b : BitVec 7)
  /-- VMIN_N32 (R102). -/
  | vminN32 (d : BitVec 7) (a : BitVec 7) (b : BitVec 7)
  /-- VMAX_I32 (R102). -/
  | vmaxI32 (d : BitVec 7) (a : BitVec 7) (b : BitVec 7)
  /-- VMAX_N32 (R102). -/
  | vmaxN32 (d : BitVec 7) (a : BitVec 7) (b : BitVec 7)
  /-- VABSD_I32 (R102). -/
  | vabsdI32 (d : BitVec 7) (a : BitVec 7) (b : BitVec 7)
  /-- VABSD_N32 (R102). -/
  | vabsdN32 (d : BitVec 7) (a : BitVec 7) (b : BitVec 7)
  /-- VPOPC (R102). -/
  | vpopc (d : BitVec 7) (a : BitVec 7)
  /-- VCLZ (R102). -/
  | vclz (d : BitVec 7) (a : BitVec 7)
  /-- VBREV (R102). -/
  | vbrev (d : BitVec 7) (a : BitVec 7)
  /-- VBFE_I32 (R104). -/
  | vbfeI32 (d : BitVec 7) (a : BitVec 7) (b : BitVec 7)
  /-- VBFE_N32 (R104). -/
  | vbfeN32 (d : BitVec 7) (a : BitVec 7) (b : BitVec 7)
  /-- VBFI (R104). -/
  | vbfi (d : BitVec 7) (a : BitVec 7) (b : BitVec 7)
  /-- VADD_IMM (R102). -/
  | vaddImm (d : BitVec 7) (a : BitVec 7) (i : BitVec 8)
  /-- VMUL_IMM (R102). -/
  | vmulImm (d : BitVec 7) (a : BitVec 7) (i : BitVec 8)
  /-- VAND_IMM (R102). -/
  | vandImm (d : BitVec 7) (a : BitVec 7) (i : BitVec 8)
  /-- VOR_IMM (R102). -/
  | vorImm (d : BitVec 7) (a : BitVec 7) (i : BitVec 8)
  /-- VXOR_IMM (R102). -/
  | vxorImm (d : BitVec 7) (a : BitVec 7) (i : BitVec 8)
  /-- VANDN_IMM (R102). -/
  | vandnImm (d : BitVec 7) (a : BitVec 7) (i : BitVec 8)
  /-- VSHL_IMM (R102). -/
  | vshlImm (d : BitVec 7) (a : BitVec 7) (i : BitVec 8)
  /-- VSHR_IMM (R102). -/
  | vshrImm (d : BitVec 7) (a : BitVec 7) (i : BitVec 8)
  /-- VSRA_IMM (R102). -/
  | vsraImm (d : BitVec 7) (a : BitVec 7) (i : BitVec 8)
  /-- VMIN_I32_IMM (R102). -/
  | vminI32Imm (d : BitVec 7) (a : BitVec 7) (i : BitVec 8)
  /-- VMIN_N32_IMM (R102). -/
  | vminN32Imm (d : BitVec 7) (a : BitVec 7) (i : BitVec 8)
  /-- VMAX_I32_IMM (R102). -/
  | vmaxI32Imm (d : BitVec 7) (a : BitVec 7) (i : BitVec 8)
  /-- VMAX_N32_IMM (R102). -/
  | vmaxN32Imm (d : BitVec 7) (a : BitVec 7) (i : BitVec 8)
  /-- VABSD_I32_IMM (R102). -/
  | vabsdI32Imm (d : BitVec 7) (a : BitVec 7) (i : BitVec 8)
  /-- VABSD_N32_IMM (R102). -/
  | vabsdN32Imm (d : BitVec 7) (a : BitVec 7) (i : BitVec 8)
  /-- VFADD (R105). -/
  | vfadd (d : BitVec 7) (a : BitVec 7) (b : BitVec 7)
  /-- VFSUB (R105). -/
  | vfsub (d : BitVec 7) (a : BitVec 7) (b : BitVec 7)
  /-- VFMUL (R105). -/
  | vfmul (d : BitVec 7) (a : BitVec 7) (b : BitVec 7)
  /-- VFMIN (R106). -/
  | vfmin (d : BitVec 7) (a : BitVec 7) (b : BitVec 7)
  /-- VFMAX (R106). -/
  | vfmax (d : BitVec 7) (a : BitVec 7) (b : BitVec 7)
  /-- VFSCALE (R105). -/
  | vfscale (d : BitVec 7) (a : BitVec 7) (b : BitVec 7)
  /-- VFCLASS (R107). -/
  | vfclass (d : BitVec 7) (a : BitVec 7)
  /-- VHADD (R108). -/
  | vhadd (d : BitVec 7) (a : BitVec 7) (b : BitVec 7)
  /-- VHMUL (R108). -/
  | vhmul (d : BitVec 7) (a : BitVec 7) (b : BitVec 7)
  /-- VFFMA (R109). -/
  | vffma (d : BitVec 7) (a : BitVec 7) (b : BitVec 7)
  /-- VHFMA (R109). -/
  | vhfma (d : BitVec 7) (a : BitVec 7) (b : BitVec 7)
  /-- VFRCP (R110). -/
  | vfrcp (d : BitVec 7) (a : BitVec 7)
  /-- VFRSQ (R110). -/
  | vfrsq (d : BitVec 7) (a : BitVec 7)
  /-- VFSQRT (R110). -/
  | vfsqrt (d : BitVec 7) (a : BitVec 7)
  /-- VFDIV (R110). -/
  | vfdiv (d : BitVec 7) (a : BitVec 7) (b : BitVec 7)
  /-- VFEXP2 (R110). -/
  | vfexp2 (d : BitVec 7) (a : BitVec 7)
  /-- VFLOG2 (R110). -/
  | vflog2 (d : BitVec 7) (a : BitVec 7)
  /-- VFSIN (R110). -/
  | vfsin (d : BitVec 7) (a : BitVec 7)
  /-- VFCOS (R110). -/
  | vfcos (d : BitVec 7) (a : BitVec 7)
  /-- VFEXP (R110). -/
  | vfexp (d : BitVec 7) (a : BitVec 7)
  /-- VFCVT_F32_I32 (R45). -/
  | vfcvtF32I32 (d : BitVec 7) (a : BitVec 7)
  /-- VFCVT_F32_N32 (R45). -/
  | vfcvtF32N32 (d : BitVec 7) (a : BitVec 7)
  /-- VFCVT_I32_F32 (R45). -/
  | vfcvtI32F32 (d : BitVec 7) (a : BitVec 7)
  /-- VFCVT_N32_F32 (R45). -/
  | vfcvtN32F32 (d : BitVec 7) (a : BitVec 7)
  /-- VFCVT_F32_F16 (R45). -/
  | vfcvtF32F16 (d : BitVec 7) (a : BitVec 7) (s : BitVec 4)
  /-- VFCVT_F16_F32 (R45). -/
  | vfcvtF16F32 (d : BitVec 7) (a : BitVec 7) (s : BitVec 4)
  /-- VFCVT_F32_BF16 (R45). -/
  | vfcvtF32Bf16 (d : BitVec 7) (a : BitVec 7) (s : BitVec 4)
  /-- VFCVT_BF16_F32 (R45). -/
  | vfcvtBf16F32 (d : BitVec 7) (a : BitVec 7) (s : BitVec 4)
  /-- VFCVT_F32_E4M3 (R45). -/
  | vfcvtF32E4m3 (d : BitVec 7) (a : BitVec 7) (s : BitVec 4)
  /-- VFCVT_E4M3_F32 (R45). -/
  | vfcvtE4m3F32 (d : BitVec 7) (a : BitVec 7) (s : BitVec 4)
  /-- VFCVT_F32_E5M2 (R45). -/
  | vfcvtF32E5m2 (d : BitVec 7) (a : BitVec 7) (s : BitVec 4)
  /-- VFCVT_E5M2_F32 (R45). -/
  | vfcvtE5m2F32 (d : BitVec 7) (a : BitVec 7) (s : BitVec 4)
  /-- VFCVT_I32_I8 (R45). -/
  | vfcvtI32I8 (d : BitVec 7) (a : BitVec 7) (s : BitVec 4)
  /-- VFCVT_I8_I32 (R45). -/
  | vfcvtI8I32 (d : BitVec 7) (a : BitVec 7) (s : BitVec 4)
  /-- VFCVT_I32_TRI (R45). -/
  | vfcvtI32Tri (d : BitVec 7) (a : BitVec 7) (s : BitVec 4)
  /-- VFCVT_TRI_I32 (R45). -/
  | vfcvtTriI32 (d : BitVec 7) (a : BitVec 7) (s : BitVec 4)
  /-- VNCVT_F32 (R113). -/
  | vncvtF32 (d : BitVec 7) (a : BitVec 7) (s : BitVec 4) (n : BitVec 2)
  /-- VNCVT_NF (R113). -/
  | vncvtNf (d : BitVec 7) (a : BitVec 7) (s : BitVec 4) (n : BitVec 2)
  /-- VFCVT_I32_I16 (R45). -/
  | vfcvtI32I16 (d : BitVec 7) (a : BitVec 7) (s : BitVec 4)
  /-- VFCVT_I16_I32 (R45). -/
  | vfcvtI16I32 (d : BitVec 7) (a : BitVec 7) (s : BitVec 4)
  /-- VFCVT_N32_N8 (R45). -/
  | vfcvtN32N8 (d : BitVec 7) (a : BitVec 7) (s : BitVec 4)
  /-- VFCVT_N8_N32 (R45). -/
  | vfcvtN8N32 (d : BitVec 7) (a : BitVec 7) (s : BitVec 4)
  /-- VFCVT_N32_N16 (R45). -/
  | vfcvtN32N16 (d : BitVec 7) (a : BitVec 7) (s : BitVec 4)
  /-- VFCVT_N16_N32 (R45). -/
  | vfcvtN16N32 (d : BitVec 7) (a : BitVec 7) (s : BitVec 4)
  /-- VSHFL (R122). -/
  | vshfl (d : BitVec 7) (a : BitVec 7) (b : BitVec 7)
  /-- VBFLY (R122). -/
  | vbfly (d : BitVec 7) (a : BitVec 7) (m : BitVec 7)
  /-- VBCAST (R122). -/
  | vbcast (d : BitVec 7) (a : BitVec 7) (n : BitVec 7)
  /-- VRFL (R122). -/
  | vrfl (d : BitVec 7) (a : BitVec 7)
  /-- VRED (R123). -/
  | vred (d : BitVec 7) (a : BitVec 7) (o : RedOp) (t : ElemTy)
  /-- VREDMI (R124). -/
  | vredmi (d : BitVec 7) (a : BitVec 7) (t : ElemTy)
  /-- VSCAN (R125). -/
  | vscan (d : BitVec 7) (a : BitVec 7) (o : RedOp) (t : ElemTy) (x : Bool)
  /-- VNBR (R127). -/
  | vnbr (d : BitVec 7) (a : BitVec 7) (s : NbrSel) (k : BitVec 3)
  /-- VDDX (R127). -/
  | vddx (d : BitVec 7) (a : BitVec 7) (k : BitVec 3)
  /-- VDDY (R127). -/
  | vddy (d : BitVec 7) (a : BitVec 7) (k : BitVec 3)
  /-- VBALLOT (R122). -/
  | vballot (d : BitVec 7) (k : BitVec 3)
  /-- VCOUNT (R122). -/
  | vcount (d : BitVec 7) (k : BitVec 3)
  /-- VCMP_I32 (R117). -/
  | vcmpI32 (k : BitVec 3) (c : CmpCond) (a : BitVec 7) (b : BitVec 7) (m : CmpMode)
  /-- VCMP_N32 (R117). -/
  | vcmpN32 (k : BitVec 3) (c : CmpCond) (a : BitVec 7) (b : BitVec 7) (m : CmpMode)
  /-- VFCMP (R117). -/
  | vfcmp (k : BitVec 3) (c : CmpCond) (a : BitVec 7) (b : BitVec 7) (m : CmpMode)
  /-- KAND (R118). -/
  | kand (d : BitVec 3) (a : BitVec 3) (b : BitVec 3) (p : Bool)
  /-- KOR (R118). -/
  | kor (d : BitVec 3) (a : BitVec 3) (b : BitVec 3) (p : Bool)
  /-- KXOR (R118). -/
  | kxor (d : BitVec 3) (a : BitVec 3) (b : BitVec 3) (p : Bool)
  /-- KANDN (R118). -/
  | kandn (d : BitVec 3) (a : BitVec 3) (b : BitVec 3) (p : Bool)
  /-- KNOT (R118). -/
  | knot (d : BitVec 3) (a : BitVec 3) (p : Bool)
  /-- KMOV (R118). -/
  | kmov (d : BitVec 3) (a : BitVec 3) (p : Bool)
  /-- KMOV_FROM_SCALAR (R118). -/
  | kmovFromScalar (d : BitVec 3) (s : BitVec 7)
  /-- KMOV_TO_SCALAR (R118). -/
  | kmovToScalar (a : BitVec 3) (s : BitVec 7)
  /-- KPOP (R118). -/
  | kpop (a : BitVec 3) (s : BitVec 7)
  /-- KANY (R118). -/
  | kany (d : BitVec 3) (a : BitVec 3)
  /-- KALL (R118). -/
  | kall (d : BitVec 3) (a : BitVec 3)
  /-- VNADD (R114). -/
  | vnadd (d : BitVec 7) (a : BitVec 7) (b : BitVec 7) (n : BitVec 2)
  /-- VNMUL (R114). -/
  | vnmul (d : BitVec 7) (a : BitVec 7) (b : BitVec 7) (n : BitVec 2)
  /-- VNFMA (R114). -/
  | vnfma (d : BitVec 7) (a : BitVec 7) (b : BitVec 7) (n : BitVec 2)
  /-- VSEL (R116). -/
  | vsel (d : BitVec 7) (a : BitVec 7) (b : BitVec 7) (k : BitVec 3)
  /-- VMOV (R116). -/
  | vmov (d : BitVec 7) (a : BitVec 7)
  /-- VMOV_SCALAR (R116). -/
  | vmovScalar (d : BitVec 7) (a : BitVec 7)
  /-- VMOVI (R116). -/
  | vmovi (d : BitVec 7) (i : BitVec 14)
  /-- VSR (R116). -/
  | vsr (d : BitVec 7) (n : BitVec 12)
  /-- VLD (R133). -/
  | vld (d : BitVec 7) (a : BitVec 7) (s : BitVec 7) (w : MemWidth) (p : Space)
  /-- VST (R133). -/
  | vst (d : BitVec 7) (a : BitVec 7) (s : BitVec 7) (w : MemWidth) (p : Space)
  /-- SLD (R134). -/
  | sld (d : BitVec 7) (a : BitVec 6) (o : BitVec 7) (w : MemWidth) (p : Space)
  /-- SST (R134). -/
  | sst (d : BitVec 7) (a : BitVec 6) (o : BitVec 7) (w : MemWidth) (p : Space)
  /-- VATOM_ADD_N32 (R138). -/
  | vatomAddN32 (d : BitVec 7) (a : BitVec 7) (s : BitVec 7) (p : Bool)
  /-- VATOM_ADD_F32 (R138). -/
  | vatomAddF32 (d : BitVec 7) (a : BitVec 7) (s : BitVec 7) (p : Bool)
  /-- VATOM_MIN_I32 (R138). -/
  | vatomMinI32 (d : BitVec 7) (a : BitVec 7) (s : BitVec 7) (p : Bool)
  /-- VATOM_MIN_N32 (R138). -/
  | vatomMinN32 (d : BitVec 7) (a : BitVec 7) (s : BitVec 7) (p : Bool)
  /-- VATOM_MAX_I32 (R138). -/
  | vatomMaxI32 (d : BitVec 7) (a : BitVec 7) (s : BitVec 7) (p : Bool)
  /-- VATOM_MAX_N32 (R138). -/
  | vatomMaxN32 (d : BitVec 7) (a : BitVec 7) (s : BitVec 7) (p : Bool)
  /-- VATOM_AND (R138). -/
  | vatomAnd (d : BitVec 7) (a : BitVec 7) (s : BitVec 7) (p : Bool)
  /-- VATOM_OR (R138). -/
  | vatomOr (d : BitVec 7) (a : BitVec 7) (s : BitVec 7) (p : Bool)
  /-- VATOM_XOR (R138). -/
  | vatomXor (d : BitVec 7) (a : BitVec 7) (s : BitVec 7) (p : Bool)
  /-- VATOM_SWAP (R138). -/
  | vatomSwap (d : BitVec 7) (a : BitVec 7) (s : BitVec 7) (p : Bool)
  /-- VATOM_CAS (R138). -/
  | vatomCas (d : BitVec 7) (a : BitVec 7) (s : BitVec 7) (p : Bool)
  /-- VATOM_ADD_N64 (R138). -/
  | vatomAddN64 (d : BitVec 7) (a : BitVec 7) (s : BitVec 7) (p : Bool)
  /-- SATOM_ADD_N32 (R138). -/
  | satomAddN32 (d : BitVec 7) (a : BitVec 7) (o : BitVec 7) (p : Bool)
  /-- SATOM_ADD_F32 (R138). -/
  | satomAddF32 (d : BitVec 7) (a : BitVec 7) (o : BitVec 7) (p : Bool)
  /-- SATOM_MIN_I32 (R138). -/
  | satomMinI32 (d : BitVec 7) (a : BitVec 7) (o : BitVec 7) (p : Bool)
  /-- SATOM_MIN_N32 (R138). -/
  | satomMinN32 (d : BitVec 7) (a : BitVec 7) (o : BitVec 7) (p : Bool)
  /-- SATOM_MAX_I32 (R138). -/
  | satomMaxI32 (d : BitVec 7) (a : BitVec 7) (o : BitVec 7) (p : Bool)
  /-- SATOM_MAX_N32 (R138). -/
  | satomMaxN32 (d : BitVec 7) (a : BitVec 7) (o : BitVec 7) (p : Bool)
  /-- SATOM_AND (R138). -/
  | satomAnd (d : BitVec 7) (a : BitVec 7) (o : BitVec 7) (p : Bool)
  /-- SATOM_OR (R138). -/
  | satomOr (d : BitVec 7) (a : BitVec 7) (o : BitVec 7) (p : Bool)
  /-- SATOM_XOR (R138). -/
  | satomXor (d : BitVec 7) (a : BitVec 7) (o : BitVec 7) (p : Bool)
  /-- SATOM_SWAP (R138). -/
  | satomSwap (d : BitVec 7) (a : BitVec 7) (o : BitVec 7) (p : Bool)
  /-- SATOM_CAS (R138). -/
  | satomCas (d : BitVec 7) (a : BitVec 7) (o : BitVec 7) (p : Bool)
  /-- SATOM_ADD_N64 (R138). -/
  | satomAddN64 (d : BitVec 7) (a : BitVec 7) (o : BitVec 7) (p : Bool)
  /-- FENCE (R139). -/
  | fence (p : BitVec 4) (s : BitVec 4) (c : Scope)
  /-- FENCE_OWN (R140). -/
  | fenceOwn (c : Scope)
  /-- FENCE_FAR (R140). -/
  | fenceFar (c : Scope)
  /-- QPUSH (R142). -/
  | qpush (n : Bool) (g : BitVec 3) (q : BitVec 3) (s : BitVec 7)
  /-- QPOP (R142). -/
  | qpop (n : Bool) (g : BitVec 3) (q : BitVec 3) (s : BitVec 7)
  /-- TQ_ENQ (R144). -/
  | tqEnq (n : Bool) (g : BitVec 3) (s : BitVec 7)
  /-- TQ_DEQ (R144). -/
  | tqDeq (n : Bool) (g : BitVec 3) (s : BitVec 7)
  /-- MINT (R146). -/
  | mint (d : BitVec 7) (a : BitVec 7)
  /-- VPIN (R147). -/
  | vpin (d : BitVec 7) (a : BitVec 7)
  /-- XPUT (R149). -/
  | xput (d : BitVec 7) (a : BitVec 7) (s : BitVec 7) (w : MemWidth) (c : BitVec 2)
  /-- CP_TILE (R150). -/
  | cpTile (t : BitVec 7) (a : BitVec 7) (b : BitVec 7)
  /-- CP_BDECK (R150). -/
  | cpBdeck (t : BitVec 7) (a : BitVec 7) (b : BitVec 7)
  /-- CP_STORE (R150). -/
  | cpStore (t : BitVec 7) (a : BitVec 7) (b : BitVec 7)
  /-- CP_COPY (R151). -/
  | cpCopy (c : BitVec 7) (a : BitVec 7) (b : BitVec 7)
  /-- TDEF (R153). -/
  | tdef (t : BitVec 7) (s : BitVec 7)
  /-- TFREE (R153). -/
  | tfree (t : BitVec 7)
  /-- TSTAT (R153). -/
  | tstat (t : BitVec 7) (s : BitVec 7)
  /-- TEX3 (R154). -/
  | tex3 (d : BitVec 7) (a : BitVec 7) (b : BitVec 7)
  /-- TEXP (R154). -/
  | texp (d : BitVec 7) (a : BitVec 7) (b : BitVec 7)
  /-- ISECT_RAY (R178). -/
  | isectRay (d : BitVec 7) (a : BitVec 7) (b : BitVec 7)
  /-- ISECT_TILE (R179). -/
  | isectTile (d : BitVec 7) (a : BitVec 7) (b : BitVec 7)
  /-- ISECT_NEXT (R180). -/
  | isectNext (d : BitVec 7)
  /-- HDESC (R172). -/
  | hdesc (a : BitVec 7)
  /-- HGATH (R174). -/
  | hgath (d : BitVec 7) (a : BitVec 7)
  /-- HSCAT (R175). -/
  | hscat (a : BitVec 7) (b : BitVec 7)
  /-- VACC_RD (R155). -/
  | vaccRd (v : BitVec 7) (s : BitVec 7) (q : BitVec 2) (n : BitVec 3)
  /-- VACC_WR (R155). -/
  | vaccWr (v : BitVec 7) (s : BitVec 7) (q : BitVec 2) (n : BitVec 3)
  /-- PFX (R20). -/
  | pfx (i : BitVec 24)
  /-- MOD (R21). -/
  | mod (m : ModFields)
  /-- SCH (R23). -/
  | sch (y : Bool) (u : BitVec 3) (s : BitVec 4)
  /-- RET (R73). -/
  | ret
  /-- JOIN (R76). -/
  | join
  /-- EXIT (R77). -/
  | exit
  /-- REFILL (R79). -/
  | refill
  /-- LDONE (R85). -/
  | ldone
  /-- RGN (R80). -/
  | rgn
  /-- YIELD (R89). -/
  | yield
  /-- NOP (R89). -/
  | nop
  /-- WPRED (R90). -/
  | wpred
  /-- SUCSTART (R90). -/
  | sucstart
  /-- ERET (R93). -/
  | eret
  /-- HALT (R95). -/
  | halt
  /-- BRKPT (R94). -/
  | brkpt
  /-- MMA_E4M3_E4M3 (R164). -/
  | mmaE4m3E4m3 (z : Bool) (a : BitVec 7) (b : BitVec 7) (m : BitVec 3)
  /-- MMA_E4M3_E5M2 (R164). -/
  | mmaE4m3E5m2 (z : Bool) (a : BitVec 7) (b : BitVec 7) (m : BitVec 3)
  /-- MMA_E5M2_E4M3 (R164). -/
  | mmaE5m2E4m3 (z : Bool) (a : BitVec 7) (b : BitVec 7) (m : BitVec 3)
  /-- MMA_E5M2_E5M2 (R164). -/
  | mmaE5m2E5m2 (z : Bool) (a : BitVec 7) (b : BitVec 7) (m : BitVec 3)
  /-- MMA_I8 (R164). -/
  | mmaI8 (z : Bool) (a : BitVec 7) (b : BitVec 7) (m : BitVec 3)
  /-- MMA_BF16 (R164). -/
  | mmaBf16 (z : Bool) (a : BitVec 7) (b : BitVec 7) (m : BitVec 3)
  /-- MMA_F16 (R164). -/
  | mmaF16 (z : Bool) (a : BitVec 7) (b : BitVec 7) (m : BitVec 3)
  /-- MMA_TRI_I8 (R164). -/
  | mmaTriI8 (z : Bool) (a : BitVec 7) (b : BitVec 7) (m : BitVec 3)
  /-- MMAP_SHAPE (R163). -/
  | mmapShape (m : BitVec 3) (x : BitVec 8) (y : BitVec 9)
  /-- MMAP_K (R163). -/
  | mmapK (m : BitVec 3) (k : BitVec 13) (o : BitVec 8)
  /-- MMAP_ACC (R163). -/
  | mmapAcc (m : BitVec 3) (r : BitVec 10) (a : Bool) (b : Bool)
  /-- MACZ (R167). -/
  | macz (r : BitVec 10) (c : BitVec 11)
  /-- MSCL (R168). -/
  | mscl (d : BitVec 3) (s : BitVec 3) (t : BitVec 7) (m : MsclMode)
  /-- MBAR_WAIT (R169). -/
  | mbarWait (n : BitVec 4)
  /-- MBAR_SIG (R169). -/
  | mbarSig (n : BitVec 4)
  /-- MLOOP (R169). -/
  | mloop (c : BitVec 2) (o : BitVec 21)
  /-- MEND (R169). -/
  | mend
  /-- MHALT (R169). -/
  | mhalt
  /-- MREL (R169). -/
  | mrel (t : BitVec 7)
  /-- MSET (R169). -/
  | mset (c : BitVec 2) (i : BitVec 21)
  /-- SEND (R186). -/
  | send (p : BitVec 4) (b : BitVec 4) (d : BitVec 4) (c : BitVec 4)
  /-- RECV (R186). -/
  | recv (p : BitVec 4) (b : BitVec 4) (d : BitVec 4) (c : BitVec 4)
  /-- RED_ADD_F32 (R187). -/
  | redAddF32 (m : BitVec 4) (b : BitVec 4) (d : BitVec 4) (s : BitVec 4) (e : BitVec 4) (c : BitVec 4)
  /-- RED_ADD_I32 (R187). -/
  | redAddI32 (m : BitVec 4) (b : BitVec 4) (d : BitVec 4) (s : BitVec 4) (e : BitVec 4) (c : BitVec 4)
  /-- RED_MIN_F32 (R187). -/
  | redMinF32 (m : BitVec 4) (b : BitVec 4) (d : BitVec 4) (s : BitVec 4) (e : BitVec 4) (c : BitVec 4)
  /-- RED_MAX_F32 (R187). -/
  | redMaxF32 (m : BitVec 4) (b : BitVec 4) (d : BitVec 4) (s : BitVec 4) (e : BitVec 4) (c : BitVec 4)
  /-- RED_MIN_I32 (R187). -/
  | redMinI32 (m : BitVec 4) (b : BitVec 4) (d : BitVec 4) (s : BitVec 4) (e : BitVec 4) (c : BitVec 4)
  /-- RED_MAX_I32 (R187). -/
  | redMaxI32 (m : BitVec 4) (b : BitVec 4) (d : BitVec 4) (s : BitVec 4) (e : BitVec 4) (c : BitVec 4)
  /-- RED_AND_B32 (R187). -/
  | redAndB32 (m : BitVec 4) (b : BitVec 4) (d : BitVec 4) (s : BitVec 4) (e : BitVec 4) (c : BitVec 4)
  /-- RED_OR_B32 (R187). -/
  | redOrB32 (m : BitVec 4) (b : BitVec 4) (d : BitVec 4) (s : BitVec 4) (e : BitVec 4) (c : BitVec 4)
  /-- DRAFEL_COPY (R186). -/
  | drafelCopy (b : BitVec 4) (d : BitVec 4) (s : BitVec 4) (e : BitVec 4)
  /-- WAIT_OPS (R189). -/
  | waitOps (n : BitVec 6)
  /-- WAIT_GE (R189). -/
  | waitGe (b : BitVec 4) (d : BitVec 4) (v : BitVec 4)
  /-- SIG (R190). -/
  | sig (b : BitVec 4) (d : BitVec 4) (v : BitVec 4)
  /-- LOOP (R191). -/
  | loop (d : BitVec 4) (o : BitVec 21)
  /-- KICK (R192). -/
  | kick (k : BitVec 2) (c : BitVec 4) (b : BitVec 4) (x : BitVec 4) (h : BitVec 4)
  /-- SETD (R191). -/
  | setd (d : BitVec 4) (i : BitVec 24)
  /-- ADDD (R191). -/
  | addd (d : BitVec 4) (s : BitVec 4) (i : BitVec 20)
  /-- BRD (R191). -/
  | brd (d : BitVec 4) (c : BrdCond) (o : BitVec 21)
  /-- DRAFEL_HALT (R191). -/
  | drafelHalt
  /-- DRAFEL_NOP (R191). -/
  | drafelNop
  /-- REGISTER_WRITE (R8). -/
  | registerWrite (page : CtlPage) (index off : Nat) (value : DWord)
  /-- DEFERRED_TRAP (R307). -/
  | deferredTrap
  /-- PATH_AGE_LIMIT (R221). -/
  | pathAgeLimit (pid : Nat)
  /-- REJOIN_DEADLOCK (R211). -/
  | rejoinDeadlock (wid : Nat)
  /-- PATH_FORCE_MERGE (R212). -/
  | pathForceMerge (pid : Nat)
  /-- SLEEP_EXPIRE (R89). -/
  | sleepExpire (pid : Nat)
  /-- SCH_STALL_EXPIRE (R23). -/
  | schStallExpire (pid : Nat)
  /-- CLAIM_GRANT (R275). -/
  | claimGrant (core pipe : Nat)
  /-- QUEUE_RETRY (R142). -/
  | queueRetry (pid : Nat)
  /-- WAIT_LIMIT (R306). -/
  | waitLimit (pid : Nat)
  /-- LOAD_DATA_RETURN (R135). -/
  | loadDataReturn (op : Nat) (soft : SoftErrors)
  /-- STORE_PERFORMED (R157). -/
  | storePerformed (op : Nat)
  /-- ATOMIC_PERFORM (R138). -/
  | atomicPerform (op : Nat)
  /-- HSCAT_ADDS_PERFORMED (R175). -/
  | hscatAddsPerformed (op : Nat)
  /-- HDESC_LOADED (R172). -/
  | hdescLoaded (op : Nat)
  /-- ISECT_RESULT (R181). -/
  | isectResult (op : Nat)
  /-- TRANSLATION_WALK (R336). -/
  | translationWalk (core : Nat) (va : Nat)
  /-- DIRECTORY_RECALL (R330). -/
  | directoryRecall (line : Nat)
  /-- COPY_FILL_COMPLETE (R236). -/
  | copyFillComplete (op : Nat)
  /-- COPY_DRAIN_COMPLETE (R236). -/
  | copyDrainComplete (op : Nat)
  /-- CP_COPY_COMPLETE (R151). -/
  | cpCopyComplete (op : Nat)
  /-- ENGINE_UE_STOP (R152). -/
  | engineUeStop (op : Nat) (addr : Nat)
  /-- STREAM_FETCH (R161). -/
  | streamFetch (bid : Nat)
  /-- TELLER_GRANT (R242). -/
  | tellerGrant (cluster : Nat)
  /-- PASS_RETIRE (R243). -/
  | passRetire (cluster : Nat)
  /-- VAULT_ADDER_COMPLETE (R242). -/
  | vaultAdderComplete (bid : Nat)
  /-- PREEMPTION_REQUEST (R308). -/
  | preemptionRequest
  /-- CONTEXT_SAVE (R310). -/
  | contextSave
  /-- CONTEXT_RESTORE (R312). -/
  | contextRestore (which : Nat)
  /-- GRAPHICS_WAVE_REISSUE (R255). -/
  | graphicsWaveReissue (which : Nat)
  /-- NEV_WINDOW_END (R59). -/
  | nevWindowEnd (core cls : Nat)
  /-- NEVWIN_WRITE (R59). -/
  | nevwinWrite (core cls len : Nat)
  /-- NEVSTAT_CLEAR (R59). -/
  | nevstatClear (core : Nat) (bits : BitVec 8)
  /-- CQDESC_WRITE (R264). -/
  | cqdescWrite (ring : Nat) (addr : Nat)
  /-- CQNOT_WRITE (R264). -/
  | cqnotWrite (ring : Nat) (tail : Word) (relaxed : Bool)
  /-- CQSTAT_RESUME (R269). -/
  | cqstatResume (ring : Nat)
  /-- CQDROP_READ (R263). -/
  | cqdropRead
  /-- RING_NOP (R262). -/
  | ringNop (ring : Nat)
  /-- RING_LAUNCH (R269). -/
  | ringLaunch (ring : Nat)
  /-- RING_WAIT (R262). -/
  | ringWait (ring : Nat)
  /-- RING_WAIT_COMPLETE (R313). -/
  | ringWaitComplete (ring : Nat)
  /-- RING_FRAME (R282). -/
  | ringFrame (ring : Nat)
  /-- INDIRECT_COUNT_READ (R266). -/
  | indirectCountRead (launch : Nat)
  /-- BLOCK_DISPATCH (R256). -/
  | blockDispatch (launch index : Nat)
  /-- BLOCK_COMPLETE (R270). -/
  | blockComplete (bid : Nat)
  /-- BUDGET_EXPIRY (R283). -/
  | budgetExpiry (graph cls : Nat)
  /-- ITEM_TASK_MOVE (R279). -/
  | itemTaskMove (segment : Nat)
  /-- SEND_TRANSFER_START (R185). -/
  | sendTransferStart (cid op : Nat)
  /-- DATA (R185). -/
  | data (f : Flit)
  /-- ACK (R185). -/
  | ack (f : Flit)
  /-- WRITE (R351). -/
  | write (f : Flit)
  /-- WACK (R351). -/
  | wack (op piece : Nat)
  /-- PAUSE (R353). -/
  | pause (dst src : Nat)
  /-- RESUME (R353). -/
  | resume (dst src : Nat)
  /-- CLOSE (R353). -/
  | close (dst src : Nat)
  /-- FLIT_CRC_RETRANSMIT (R349). -/
  | flitCrcRetransmit (f : Flit)
  /-- PROGRAM_UNPARK (R195). -/
  | programUnpark (cid : Nat)
  /-- COLLECTIVE_TIMEOUT (R194). -/
  | collectiveTimeout (cid : Nat)
  /-- CLCTL_LOAD (R347). -/
  | clctlLoad (cid : Nat)
  /-- CLCTL_STOP (R348). -/
  | clctlStop (cid : Nat)
  /-- CLSTAT_IRQ_CLEAR (R347). -/
  | clstatIrqClear (cid : Nat)
  /-- PTROOT_WRITE (R338). -/
  | ptrootWrite (value : DWord)
  /-- TLBINV_WRITE (R338). -/
  | tlbinvWrite (value : DWord)
  /-- TLB_INVALIDATE_DONE (R338). -/
  | tlbInvalidateDone
  /-- HOTNESS_HALVING (R339). -/
  | hotnessHalving
  /-- MIGRATION_START (R340). -/
  | migrationStart
  /-- MIGRATION_COPY (R340). -/
  | migrationCopy
  /-- MIGRATION_FINISH (R340). -/
  | migrationFinish
  /-- MIGSTAT_READ (R337). -/
  | migstatRead
  /-- ASSAY_START (R385). -/
  | assayStart (row : RasRow)
  /-- ASSAY_END (R385). -/
  | assayEnd (row : RasRow) (mismatch : Bool)
  /-- RASCE_READ (R387). -/
  | rasceRead
  /-- RASUE_READ (R387). -/
  | rasueRead
  /-- ISLAND_DVFS (R389). -/
  | islandDvfs (island : Nat) (sensed : IslandReading)
  /-- DROOP_STRETCH (R389). -/
  | droopStretch (island : Nat)
  /-- THERMAL_THROTTLE (R390). -/
  | thermalThrottle (island : Nat) (sensed : IslandReading)
  /-- THERMAL_TRIP (R390). -/
  | thermalTrip (island : Nat) (sensed : IslandReading)
  /-- LINK_RETRAIN (R391). -/
  | linkRetrain (link : Nat)
  /-- BOOT (R393). -/
  | boot (images : List BootImage)
  /-- ATTCTL_GO (R394). -/
  | attctlGo
  /-- ATTEST_DONE (R394). -/
  | attestDone
  /-- DUMPCTL_GO (R376). -/
  | dumpctlGo
  /-- DUMP_END (R377). -/
  | dumpEnd
  /-- CLUSTER_STOP (R357). -/
  | clusterStop (cluster : Nat)
  /-- DBGCTL_STOP (R371). -/
  | dbgctlStop (cluster : Nat)
  /-- DBGCTL_RESUME (R361). -/
  | dbgctlResume (cluster : Nat)
  /-- DBGCTL_STEP (R360). -/
  | dbgctlStep (cluster core wave slot : Nat)
  /-- STEP_TIMEOUT (R360). -/
  | stepTimeout (cluster : Nat)
  /-- WHMORE_READ (R359). -/
  | whmoreRead (cluster : Nat)
  /-- WATCHPOINT_HITS_READ (R372). -/
  | watchpointHitsRead (cluster n : Nat)
  /-- BREAKPOINT_HITS_READ (R375). -/
  | breakpointHitsRead (cluster n : Nat)
  /-- DEBUG_HOLD_WRITE (R369). -/
  | debugHoldWrite (core wave : Nat) (bits : BitVec 4)
  /-- DEBUG_SS_WRITE (R370). -/
  | debugSsWrite (core wave : Nat) (bits : BitVec 4)
  /-- STALL_SAMPLE (R364). -/
  | stallSample (core : Nat)
  /-- SMPCTL_WRITE (R367). -/
  | smpctlWrite (core : Nat) (value : Word)
  /-- SMPDROP_READ (R367). -/
  | smpdropRead (core : Nat)
  /-- TRCTL_WRITE (R379). -/
  | trctlWrite (core : Nat) (value : Word)
  /-- TRSTAT_GAP_CLEAR (R379). -/
  | trstatGapClear (core : Nat)
  /-- TRLOST_READ (R379). -/
  | trlostRead (core : Nat)
  /-- NOT_AN_INSTRUCTION (R11). -/
  | notAnInstruction (why : FetchReject)
  /-- NOT_A_DRAFEL_INSTRUCTION (R184). -/
  | notADrafelInstruction (why : ChunkReject)
  /-- HOST_MEMORY_ACCESS (R317). -/
  | hostMemoryAccess (a : HostAccess)
  /-- VACC_WR_PERFORMED (R157). -/
  | vaccWrPerformed (op : Nat)
  /-- TABLE_ENTRY_UPDATED (R157). -/
  | tableEntryUpdated (op : Nat)
  /-- LOCAL_DATA_OPERATION_COMPLETE (R186). -/
  | localDataOperationComplete (cid op : Nat)
  /-- RESERVED_TYPE_FLIT (R349). -/
  | reservedTypeFlit (f : Flit)
  /-- INVALID_RING_ENTRY (R269). -/
  | invalidRingEntry (ring : Nat)
  /-- RETRAINING_END (R391). -/
  | retrainingEnd (link : Nat)
deriving DecidableEq, Repr

end Sys2Proof
end

