-- ==== Sys2Proof/WellFormed.lean ====
section
/-! DEFINITION. Which terms of `Instr` are instructions: the register-space rules (R14, R15) and the value ranges of
R11, R19, R26, R27, R28, R29 and R30 that hold of a word alone. What a modifier word or a descriptor adds is checked
where the instruction runs. -/

namespace Sys2Proof

/-- A scalar register, s0 to s95 (R13). -/
def sreg (r : BitVec 7) : Bool := decide (r.toNat < 96)

/-- An even register of a scalar pair (R14). -/
def spair (r : BitVec 7) : Bool := decide (r.toNat % 2 = 0) && decide (r.toNat < 96)

/-- The first register of a group of `n` scalars that ends at or below s95 (R14). -/
def sgroup (n : Nat) (r : BitVec 7) : Bool := decide (r.toNat + n ≤ 96)

/-- An even vector register (R15). -/
def veven (r : BitVec 7) : Bool := decide (r.toNat % 2 = 0)

/-- The vector destination of an access of this width (R15, R129). -/
def vwidth (w : MemWidth) (r : BitVec 7) : Bool :=
  match w with
  | .b64 => veven r
  | .b128 => decide (r.toNat % 4 = 0)
  | .n8 | .n16 | .b32 | .i8 | .i16 => true

/-- The scalar destination of an access of this width (R134). -/
def swidth (w : MemWidth) (r : BitVec 7) : Bool :=
  match w with
  | .b64 => spair r
  | .b128 => sgroup 4 r
  | .n8 | .n16 | .b32 | .i8 | .i16 => sreg r

/-- Widths a store accepts (R26). -/
def MemWidth.isStore : MemWidth → Bool
  | .n8 | .n16 | .b32 | .b64 | .b128 => true
  | .i8 | .i16 => false

/-- Widths xput accepts (R26). -/
def MemWidth.isPut : MemWidth → Bool
  | .b32 | .b64 | .b128 => true
  | .n8 | .n16 | .i8 | .i16 => false

/-- Conditions of scmp (R27). -/
def CmpCond.isScalar (c : CmpCond) : Bool := c != .ord && c != .unord

/-- Conditions of a signed compare (R117). -/
def CmpCond.isSigned : CmpCond → Bool
  | .eq | .ne | .lt | .le | .gt | .ge => true
  | .ltN | .leN | .gtN | .geN | .ord | .unord => false

/-- Conditions of an unsigned compare (R117). -/
def CmpCond.isUnsigned : CmpCond → Bool
  | .ltN | .leN | .gtN | .geN => true
  | .eq | .ne | .lt | .le | .gt | .ge | .ord | .unord => false

/-- Conditions of a floating compare (R117). -/
def CmpCond.isFloat (c : CmpCond) : Bool := c.isSigned || c == .ord || c == .unord

/-- Reductions a repay admits (R27). -/
def RedOp.isRepay (o : RedOp) : Bool := o != .addDet

/-- Pairs of reduction and element type that vred and vscan admit (R123). -/
def RedOp.admits (o : RedOp) (t : ElemTy) : Bool :=
  match o with
  | .add | .min | .max => true
  | .and | .or | .xor => t != .f32
  | .addDet => t == .f32

/-- Whether a term of `Instr` is an instruction of its agent (R11, R12, R184). -/
def Instr.wf : Instr → Bool
  | .sadd d a b => sreg d && sreg a && sreg b
  | .ssub d a b => sreg d && sreg a && sreg b
  | .smul d a b => sreg d && sreg a && sreg b
  | .smulhI32 d a b => sreg d && sreg a && sreg b
  | .smulhN32 d a b => sreg d && sreg a && sreg b
  | .sdivI32 d a b => sreg d && sreg a && sreg b
  | .sdivN32 d a b => sreg d && sreg a && sreg b
  | .sremI32 d a b => sreg d && sreg a && sreg b
  | .sremN32 d a b => sreg d && sreg a && sreg b
  | .sand d a b => sreg d && sreg a && sreg b
  | .sor d a b => sreg d && sreg a && sreg b
  | .sxor d a b => sreg d && sreg a && sreg b
  | .sandn d a b => sreg d && sreg a && sreg b
  | .sshl d a b => sreg d && sreg a && sreg b
  | .sshr d a b => sreg d && sreg a && sreg b
  | .ssra d a b => sreg d && sreg a && sreg b
  | .sminI32 d a b => sreg d && sreg a && sreg b
  | .sminN32 d a b => sreg d && sreg a && sreg b
  | .smaxI32 d a b => sreg d && sreg a && sreg b
  | .smaxN32 d a b => sreg d && sreg a && sreg b
  | .smov d a => sreg d && sreg a
  | .spopc d a => sreg d && sreg a
  | .sclz d a => sreg d && sreg a
  | .sctz d a => sreg d && sreg a
  | .sbrev d a => sreg d && sreg a
  | .scmp c _ a b => c.isScalar && sreg a && sreg b
  | .slea d a b => spair d && spair a && sreg b
  | .sbfi d a b => sreg d && sreg a && sreg b
  | .ssel d a b _ => sreg d && sreg a && sreg b
  | .saddImm d w _ => if w then spair d else sreg d
  | .smulImm d w _ => if w then spair d else sreg d
  | .sandImm d w _ => if w then spair d else sreg d
  | .sorImm d w _ => if w then spair d else sreg d
  | .sxorImm d w _ => if w then spair d else sreg d
  | .sshlImm d w _ => if w then spair d else sreg d
  | .sshrImm d w _ => if w then spair d else sreg d
  | .ssraImm d w _ => if w then spair d else sreg d
  | .sminI32Imm d w _ => if w then spair d else sreg d
  | .sminN32Imm d w _ => if w then spair d else sreg d
  | .smaxI32Imm d w _ => if w then spair d else sreg d
  | .smaxN32Imm d w _ => if w then spair d else sreg d
  | .smovImm d w _ => if w then spair d else sreg d
  | .sbfeI32 d w _ => if w then spair d else sreg d
  | .sbfeN32 d w _ => if w then spair d else sreg d
  | .smovi _ _ => true
  | .srd s _ => sreg s
  | .swr s _ => sreg s
  | .nfset s _ => sreg s
  | .br _ _ => true
  | .brn _ _ => true
  | .jmp _ => true
  | .call _ => true
  | .jmpReg a => spair a
  | .callReg a => spair a
  | .ret => true
  | .vbr _ _ _ _ => true
  | .vbrk _ _ => true
  | .split _ _ _ _ => true
  | .join => true
  | .exit => true
  | .refill => true
  | .loan d a _ _ => sreg d && sgroup 4 a
  | .lnext d _ => sreg d
  | .repay d _ r _ => decide (d.toNat < 112) && r.isRepay
  | .ldone => true
  | .rgn => true
  | .barArrive _ => true
  | .barWait _ => true
  | .barSync _ => true
  | .waitC _ _ _ _ => true
  | .yield => true
  | .sleep _ => true
  | .nop => true
  | .wpred => true
  | .sucstart => true
  | .trap _ => true
  | .eret => true
  | .halt => true
  | .brkpt => true
  | .claim n g c => decide (1 ≤ c.toNat) && decide (c.toNat ≤ 16) && (n || g == 0#3)
  | .giveback c => decide (1 ≤ c.toNat) && decide (c.toNat ≤ 16)
  | .vadd _ _ _ => true
  | .vsub _ _ _ => true
  | .vmul _ _ _ => true
  | .vmulhI32 _ _ _ => true
  | .vmulhN32 _ _ _ => true
  | .vmad _ _ _ => true
  | .vand _ _ _ => true
  | .vor _ _ _ => true
  | .vxor _ _ _ => true
  | .vandn _ _ _ => true
  | .vshl _ _ _ => true
  | .vshr _ _ _ => true
  | .vsra _ _ _ => true
  | .vminI32 _ _ _ => true
  | .vminN32 _ _ _ => true
  | .vmaxI32 _ _ _ => true
  | .vmaxN32 _ _ _ => true
  | .vabsdI32 _ _ _ => true
  | .vabsdN32 _ _ _ => true
  | .vpopc _ _ => true
  | .vclz _ _ => true
  | .vbrev _ _ => true
  | .vbfeI32 _ _ _ => true
  | .vbfeN32 _ _ _ => true
  | .vbfi _ _ _ => true
  | .vaddImm _ _ _ => true
  | .vmulImm _ _ _ => true
  | .vandImm _ _ _ => true
  | .vorImm _ _ _ => true
  | .vxorImm _ _ _ => true
  | .vandnImm _ _ _ => true
  | .vshlImm _ _ _ => true
  | .vshrImm _ _ _ => true
  | .vsraImm _ _ _ => true
  | .vminI32Imm _ _ _ => true
  | .vminN32Imm _ _ _ => true
  | .vmaxI32Imm _ _ _ => true
  | .vmaxN32Imm _ _ _ => true
  | .vabsdI32Imm _ _ _ => true
  | .vabsdN32Imm _ _ _ => true
  | .vfadd _ _ _ => true
  | .vfsub _ _ _ => true
  | .vfmul _ _ _ => true
  | .vfmin _ _ _ => true
  | .vfmax _ _ _ => true
  | .vfscale _ _ _ => true
  | .vfclass _ _ => true
  | .vhadd _ _ _ => true
  | .vhmul _ _ _ => true
  | .vffma _ _ _ => true
  | .vhfma _ _ _ => true
  | .vfrcp _ _ => true
  | .vfrsq _ _ => true
  | .vfsqrt _ _ => true
  | .vfdiv _ _ _ => true
  | .vfexp2 _ _ => true
  | .vflog2 _ _ => true
  | .vfsin _ _ => true
  | .vfcos _ _ => true
  | .vfexp _ _ => true
  | .vfcvtF32I32 _ _ => true
  | .vfcvtF32N32 _ _ => true
  | .vfcvtI32F32 _ _ => true
  | .vfcvtN32F32 _ _ => true
  | .vfcvtF32F16 _ _ s => decide (s.toNat ≤ 1)
  | .vfcvtF16F32 _ _ s => decide (s.toNat ≤ 1)
  | .vfcvtF32Bf16 _ _ s => decide (s.toNat ≤ 1)
  | .vfcvtBf16F32 _ _ s => decide (s.toNat ≤ 1)
  | .vfcvtF32E4m3 _ _ s => decide (s.toNat ≤ 3)
  | .vfcvtE4m3F32 _ _ s => decide (s.toNat ≤ 3)
  | .vfcvtF32E5m2 _ _ s => decide (s.toNat ≤ 3)
  | .vfcvtE5m2F32 _ _ s => decide (s.toNat ≤ 3)
  | .vfcvtI32I8 _ _ s => decide (s.toNat ≤ 3)
  | .vfcvtI8I32 _ _ s => decide (s.toNat ≤ 3)
  | .vfcvtI32Tri _ _ _ => true
  | .vfcvtTriI32 _ _ _ => true
  | .vncvtF32 _ _ _ _ => true
  | .vncvtNf _ _ _ _ => true
  | .vfcvtI32I16 _ _ s => decide (s.toNat ≤ 1)
  | .vfcvtI16I32 _ _ s => decide (s.toNat ≤ 1)
  | .vfcvtN32N8 _ _ s => decide (s.toNat ≤ 3)
  | .vfcvtN8N32 _ _ s => decide (s.toNat ≤ 3)
  | .vfcvtN32N16 _ _ s => decide (s.toNat ≤ 1)
  | .vfcvtN16N32 _ _ s => decide (s.toNat ≤ 1)
  | .vshfl _ _ _ => true
  | .vbfly _ _ m => decide (1 ≤ m.toNat)
  | .vbcast _ _ n => decide (n.toNat ≤ 95)
  | .vrfl d _ => sreg d
  | .vred d _ o t => sreg d && o.admits t
  | .vredmi d _ _ => spair d
  | .vscan _ _ o t _ => o.admits t
  | .vnbr _ _ _ _ => true
  | .vddx _ _ _ => true
  | .vddy _ _ _ => true
  | .vballot d _ => sgroup 3 d
  | .vcount d _ => sreg d
  | .vcmpI32 _ c _ _ _ => c.isSigned
  | .vcmpN32 _ c _ _ _ => c.isUnsigned
  | .vfcmp _ c _ _ _ => c.isFloat
  | .kand _ _ _ _ => true
  | .kor _ _ _ _ => true
  | .kxor _ _ _ _ => true
  | .kandn _ _ _ _ => true
  | .knot _ _ _ => true
  | .kmov _ _ _ => true
  | .kmovFromScalar _ s => sgroup 3 s
  | .kmovToScalar _ s => sgroup 3 s
  | .kpop _ s => sreg s
  | .kany _ _ => true
  | .kall _ _ => true
  | .vnadd _ _ _ _ => true
  | .vnmul _ _ _ _ => true
  | .vnfma _ _ _ _ => true
  | .vsel _ _ _ _ => true
  | .vmov _ _ => true
  | .vmovScalar _ a => sreg a
  | .vmovi _ _ => true
  | .vsr _ _ => true
  | .vld d _ s w _ => spair s && vwidth w d
  | .vst d _ s w p => spair s && vwidth w d && w.isStore && p != .v
  | .sld d a _ w _ => decide (a.toNat < 48) && swidth w d
  | .sst d a _ w p => decide (a.toNat < 48) && swidth w d && w.isStore && p != .v
  | .vatomAddN32 _ _ s _ => spair s
  | .vatomAddF32 _ _ s _ => spair s
  | .vatomMinI32 _ _ s _ => spair s
  | .vatomMinN32 _ _ s _ => spair s
  | .vatomMaxI32 _ _ s _ => spair s
  | .vatomMaxN32 _ _ s _ => spair s
  | .vatomAnd _ _ s _ => spair s
  | .vatomOr _ _ s _ => spair s
  | .vatomXor _ _ s _ => spair s
  | .vatomSwap _ _ s _ => spair s
  | .vatomCas d _ s _ => spair s && veven d
  | .vatomAddN64 d _ s _ => spair s && veven d
  | .satomAddN32 d a _ _ => spair a && sreg d
  | .satomAddF32 d a _ _ => spair a && sreg d
  | .satomMinI32 d a _ _ => spair a && sreg d
  | .satomMinN32 d a _ _ => spair a && sreg d
  | .satomMaxI32 d a _ _ => spair a && sreg d
  | .satomMaxN32 d a _ _ => spair a && sreg d
  | .satomAnd d a _ _ => spair a && sreg d
  | .satomOr d a _ _ => spair a && sreg d
  | .satomXor d a _ _ => spair a && sreg d
  | .satomSwap d a _ _ => spair a && sreg d
  | .satomCas d a _ _ => spair a && spair d
  | .satomAddN64 d a _ _ => spair a && spair d
  | .fence p s _ => p != 0#4 && s != 0#4
  | .fenceOwn _ => true
  | .fenceFar _ => true
  | .qpush n g _ s => sgroup 8 s && (n || g == 0#3)
  | .qpop n g _ s => sgroup 8 s && (n || g == 0#3)
  | .tqEnq n g s => sgroup 8 s && (n || g == 0#3)
  | .tqDeq n g s => sgroup 8 s && (n || g == 0#3)
  | .mint d a => spair d && spair a
  | .vpin d a => sreg d && spair a
  | .xput d _ s w _ => spair s && w.isPut && vwidth w d
  | .cpTile _ a b => spair a && sreg b
  | .cpBdeck _ a b => spair a && sreg b
  | .cpStore _ a b => spair a && sreg b
  | .cpCopy c a b => sreg c && spair a && spair b
  | .tdef _ s => sgroup 4 s
  | .tfree _ => true
  | .tstat _ s => sreg s
  | .tex3 _ _ b => spair b
  | .texp _ _ b => spair b
  | .isectRay _ _ b => spair b
  | .isectTile _ _ b => spair b
  | .isectNext _ => true
  | .hdesc a => spair a
  | .hgath _ _ => true
  | .hscat _ _ => true
  | .vaccRd _ s _ _ => sreg s
  | .vaccWr _ s _ _ => sreg s
  | .mmaE4m3E4m3 _ _ _ _ => true
  | .mmaE4m3E5m2 _ _ _ _ => true
  | .mmaE5m2E4m3 _ _ _ _ => true
  | .mmaE5m2E5m2 _ _ _ _ => true
  | .mmaI8 _ _ _ _ => true
  | .mmaBf16 _ _ _ _ => true
  | .mmaF16 _ _ _ _ => true
  | .mmaTriI8 _ _ _ _ => true
  | .mmapShape _ x y => decide (x.toNat ≤ 128) && decide (y.toNat ≤ 384)
  | .mmapK _ _ _ => true
  | .mmapAcc _ _ _ _ => true
  | .macz _ c => decide (c.toNat ≤ 1024)
  | .mscl _ _ _ _ => true
  | .mbarWait _ => true
  | .mbarSig _ => true
  | .mloop _ _ => true
  | .mend => true
  | .mhalt => true
  | .mrel _ => true
  | .mset _ _ => true
  | .pfx _ => true
  | .mod m => (m.vce || m.vc == 0#7) && m.pk != 3#2
  | .sch _ _ _ => true
  | .send _ _ _ _ => true
  | .recv _ _ _ _ => true
  | .redAddF32 _ _ _ _ _ _ => true
  | .redAddI32 _ _ _ _ _ _ => true
  | .redMinF32 _ _ _ _ _ _ => true
  | .redMaxF32 _ _ _ _ _ _ => true
  | .redMinI32 _ _ _ _ _ _ => true
  | .redMaxI32 _ _ _ _ _ _ => true
  | .redAndB32 _ _ _ _ _ _ => true
  | .redOrB32 _ _ _ _ _ _ => true
  | .drafelCopy _ _ _ _ => true
  | .waitOps _ => true
  | .waitGe _ _ _ => true
  | .sig _ _ _ => true
  | .loop _ _ => true
  | .kick _ _ _ _ _ => true
  | .setd _ _ => true
  | .addd _ _ _ => true
  | .brd _ _ _ => true
  | .drafelHalt => true
  | .drafelNop => true
  | .registerWrite _ _ _ _ => true
  | .deferredTrap => true
  | .pathAgeLimit _ => true
  | .rejoinDeadlock _ => true
  | .pathForceMerge _ => true
  | .sleepExpire _ => true
  | .schStallExpire _ => true
  | .claimGrant _ _ => true
  | .queueRetry _ => true
  | .waitLimit _ => true
  | .loadDataReturn _ _ => true
  | .storePerformed _ => true
  | .atomicPerform _ => true
  | .hscatAddsPerformed _ => true
  | .hdescLoaded _ => true
  | .isectResult _ => true
  | .translationWalk _ _ => true
  | .directoryRecall _ => true
  | .copyFillComplete _ => true
  | .copyDrainComplete _ => true
  | .cpCopyComplete _ => true
  | .engineUeStop _ _ => true
  | .streamFetch _ => true
  | .tellerGrant _ => true
  | .passRetire _ => true
  | .vaultAdderComplete _ => true
  | .preemptionRequest => true
  | .contextSave => true
  | .contextRestore _ => true
  | .graphicsWaveReissue _ => true
  | .nevWindowEnd _ _ => true
  | .nevwinWrite _ _ _ => true
  | .nevstatClear _ _ => true
  | .cqdescWrite _ _ => true
  | .cqnotWrite _ _ _ => true
  | .cqstatResume _ => true
  | .cqdropRead => true
  | .ringNop _ => true
  | .ringLaunch _ => true
  | .ringWait _ => true
  | .ringWaitComplete _ => true
  | .ringFrame _ => true
  | .indirectCountRead _ => true
  | .blockDispatch _ _ => true
  | .blockComplete _ => true
  | .budgetExpiry _ _ => true
  | .itemTaskMove _ => true
  | .sendTransferStart _ _ => true
  | .data _ => true
  | .ack _ => true
  | .write _ => true
  | .wack _ _ => true
  | .pause _ _ => true
  | .resume _ _ => true
  | .close _ _ => true
  | .flitCrcRetransmit _ => true
  | .programUnpark _ => true
  | .collectiveTimeout _ => true
  | .clctlLoad _ => true
  | .clctlStop _ => true
  | .clstatIrqClear _ => true
  | .ptrootWrite _ => true
  | .tlbinvWrite _ => true
  | .tlbInvalidateDone => true
  | .hotnessHalving => true
  | .migrationStart => true
  | .migrationCopy => true
  | .migrationFinish => true
  | .migstatRead => true
  | .assayStart _ => true
  | .assayEnd _ _ => true
  | .rasceRead => true
  | .rasueRead => true
  | .islandDvfs _ _ => true
  | .droopStretch _ => true
  | .thermalThrottle _ _ => true
  | .thermalTrip _ _ => true
  | .linkRetrain _ => true
  | .boot _ => true
  | .attctlGo => true
  | .attestDone => true
  | .dumpctlGo => true
  | .dumpEnd => true
  | .clusterStop _ => true
  | .dbgctlStop _ => true
  | .dbgctlResume _ => true
  | .dbgctlStep _ _ _ _ => true
  | .stepTimeout _ => true
  | .whmoreRead _ => true
  | .watchpointHitsRead _ _ => true
  | .breakpointHitsRead _ _ => true
  | .debugHoldWrite _ _ _ => true
  | .debugSsWrite _ _ _ => true
  | .stallSample _ => true
  | .smpctlWrite _ _ => true
  | .smpdropRead _ => true
  | .trctlWrite _ _ => true
  | .trstatGapClear _ => true
  | .trlostRead _ => true
  | .notAnInstruction _ => true
  | .notADrafelInstruction _ => true
  | .hostMemoryAccess _ => true
  | .vaccWrPerformed _ => true
  | .tableEntryUpdated _ => true
  | .localDataOperationComplete _ _ => true
  | .reservedTypeFlit _ => true
  | .invalidRingEntry _ => true
  | .retrainingEnd _ => true

end Sys2Proof
end

