-- ==== Sys2Proof/Decode.lean ====
section
/-! DEFINITION. Decoding of wave words, hint words, stream words and chunk words (R10 to R30, R183, R184), total and
rejecting by name, and the encoder written from the same layouts. A word is a number below 2^32. -/

namespace Sys2Proof

/-- Why a word is not an instruction for the agent that fetched it. -/
inductive DecodeError
  /-- No row of the opcode table for this agent matches: unlisted major or minor, or a reserved field (R11, R184). -/
  | unlisted
  /-- A row matches, but a field holds a register or a value that the rules forbid (R11, R14, R15). -/
  | illegalField
deriving DecidableEq, Repr

/-- A one-bit field read as a flag. -/
def flagOf (n : Nat) : Bool := n == 1

/-- The code of a Space, as its field encodes it (R21, R26 to R30, R183). -/
def Space.code : Space → Nat
  | .g => 0
  | .s => 1
  | .c => 2
  | .v => 3

/-- The Space that a code names, if it is not reserved. -/
def Space.ofCode : Nat → Option Space
  | 0 => some .g
  | 1 => some .s
  | 2 => some .c
  | 3 => some .v
  | _ => none

@[simp] theorem Space.ofCode_code (q : Space) : Space.ofCode q.code = some q := by cases q <;> rfl

theorem Space.code_lt (q : Space) : q.code < 4 := by cases q <;> decide

/-- The code of a MemWidth, as its field encodes it (R21, R26 to R30, R183). -/
def MemWidth.code : MemWidth → Nat
  | .n8 => 0
  | .n16 => 1
  | .b32 => 2
  | .b64 => 3
  | .b128 => 4
  | .i8 => 5
  | .i16 => 6

/-- The MemWidth that a code names, if it is not reserved. -/
def MemWidth.ofCode : Nat → Option MemWidth
  | 0 => some .n8
  | 1 => some .n16
  | 2 => some .b32
  | 3 => some .b64
  | 4 => some .b128
  | 5 => some .i8
  | 6 => some .i16
  | _ => none

@[simp] theorem MemWidth.ofCode_code (q : MemWidth) : MemWidth.ofCode q.code = some q := by cases q <;> rfl

theorem MemWidth.code_lt (q : MemWidth) : q.code < 7 := by cases q <;> decide

/-- The code of a CmpCond, as its field encodes it (R21, R26 to R30, R183). -/
def CmpCond.code : CmpCond → Nat
  | .eq => 0
  | .ne => 1
  | .lt => 2
  | .le => 3
  | .gt => 4
  | .ge => 5
  | .ltN => 6
  | .leN => 7
  | .gtN => 8
  | .geN => 9
  | .ord => 10
  | .unord => 11

/-- The CmpCond that a code names, if it is not reserved. -/
def CmpCond.ofCode : Nat → Option CmpCond
  | 0 => some .eq
  | 1 => some .ne
  | 2 => some .lt
  | 3 => some .le
  | 4 => some .gt
  | 5 => some .ge
  | 6 => some .ltN
  | 7 => some .leN
  | 8 => some .gtN
  | 9 => some .geN
  | 10 => some .ord
  | 11 => some .unord
  | _ => none

@[simp] theorem CmpCond.ofCode_code (q : CmpCond) : CmpCond.ofCode q.code = some q := by cases q <;> rfl

theorem CmpCond.code_lt (q : CmpCond) : q.code < 12 := by cases q <;> decide

/-- The code of a RedOp, as its field encodes it (R21, R26 to R30, R183). -/
def RedOp.code : RedOp → Nat
  | .add => 0
  | .min => 1
  | .max => 2
  | .and => 3
  | .or => 4
  | .xor => 5
  | .addDet => 6

/-- The RedOp that a code names, if it is not reserved. -/
def RedOp.ofCode : Nat → Option RedOp
  | 0 => some .add
  | 1 => some .min
  | 2 => some .max
  | 3 => some .and
  | 4 => some .or
  | 5 => some .xor
  | 6 => some .addDet
  | _ => none

@[simp] theorem RedOp.ofCode_code (q : RedOp) : RedOp.ofCode q.code = some q := by cases q <;> rfl

theorem RedOp.code_lt (q : RedOp) : q.code < 7 := by cases q <;> decide

/-- The code of a ElemTy, as its field encodes it (R21, R26 to R30, R183). -/
def ElemTy.code : ElemTy → Nat
  | .i32 => 0
  | .n32 => 1
  | .f32 => 2

/-- The ElemTy that a code names, if it is not reserved. -/
def ElemTy.ofCode : Nat → Option ElemTy
  | 0 => some .i32
  | 1 => some .n32
  | 2 => some .f32
  | _ => none

@[simp] theorem ElemTy.ofCode_code (q : ElemTy) : ElemTy.ofCode q.code = some q := by cases q <;> rfl

theorem ElemTy.code_lt (q : ElemTy) : q.code < 3 := by cases q <;> decide

/-- The code of a RepayTy, as its field encodes it (R21, R26 to R30, R183). -/
def RepayTy.code : RepayTy → Nat
  | .f32 => 0
  | .i32 => 1
  | .n32 => 2

/-- The RepayTy that a code names, if it is not reserved. -/
def RepayTy.ofCode : Nat → Option RepayTy
  | 0 => some .f32
  | 1 => some .i32
  | 2 => some .n32
  | _ => none

@[simp] theorem RepayTy.ofCode_code (q : RepayTy) : RepayTy.ofCode q.code = some q := by cases q <;> rfl

theorem RepayTy.code_lt (q : RepayTy) : q.code < 3 := by cases q <;> decide

/-- The code of a CmpMode, as its field encodes it (R21, R26 to R30, R183). -/
def CmpMode.code : CmpMode → Nat
  | .write => 0
  | .and => 1
  | .or => 2

/-- The CmpMode that a code names, if it is not reserved. -/
def CmpMode.ofCode : Nat → Option CmpMode
  | 0 => some .write
  | 1 => some .and
  | 2 => some .or
  | _ => none

@[simp] theorem CmpMode.ofCode_code (q : CmpMode) : CmpMode.ofCode q.code = some q := by cases q <;> rfl

theorem CmpMode.code_lt (q : CmpMode) : q.code < 3 := by cases q <;> decide

/-- The code of a NbrSel, as its field encodes it (R21, R26 to R30, R183). -/
def NbrSel.code : NbrSel → Nat
  | .x => 0
  | .y => 1
  | .diagonal => 2

/-- The NbrSel that a code names, if it is not reserved. -/
def NbrSel.ofCode : Nat → Option NbrSel
  | 0 => some .x
  | 1 => some .y
  | 2 => some .diagonal
  | _ => none

@[simp] theorem NbrSel.ofCode_code (q : NbrSel) : NbrSel.ofCode q.code = some q := by cases q <;> rfl

theorem NbrSel.code_lt (q : NbrSel) : q.code < 3 := by cases q <;> decide

/-- The code of a MsclMode, as its field encodes it (R21, R26 to R30, R183). -/
def MsclMode.code : MsclMode → Nat
  | .row => 0
  | .col => 1
  | .rc => 2

/-- The MsclMode that a code names, if it is not reserved. -/
def MsclMode.ofCode : Nat → Option MsclMode
  | 0 => some .row
  | 1 => some .col
  | 2 => some .rc
  | _ => none

@[simp] theorem MsclMode.ofCode_code (q : MsclMode) : MsclMode.ofCode q.code = some q := by cases q <;> rfl

theorem MsclMode.code_lt (q : MsclMode) : q.code < 3 := by cases q <;> decide

/-- The code of a Scope, as its field encodes it (R21, R26 to R30, R183). -/
def Scope.code : Scope → Nat
  | .wave => 0
  | .block => 1
  | .cluster => 2
  | .die => 3
  | .package => 4
  | .system => 5

/-- The Scope that a code names, if it is not reserved. -/
def Scope.ofCode : Nat → Option Scope
  | 0 => some .wave
  | 1 => some .block
  | 2 => some .cluster
  | 3 => some .die
  | 4 => some .package
  | 5 => some .system
  | _ => none

@[simp] theorem Scope.ofCode_code (q : Scope) : Scope.ofCode q.code = some q := by cases q <;> rfl

theorem Scope.code_lt (q : Scope) : q.code < 6 := by cases q <;> decide

/-- The code of a BrdCond, as its field encodes it (R21, R26 to R30, R183). -/
def BrdCond.code : BrdCond → Nat
  | .z => 0
  | .nz => 1
  | .lt => 2
  | .ge => 3

/-- The BrdCond that a code names, if it is not reserved. -/
def BrdCond.ofCode : Nat → Option BrdCond
  | 0 => some .z
  | 1 => some .nz
  | 2 => some .lt
  | 3 => some .ge
  | _ => none

@[simp] theorem BrdCond.ofCode_code (q : BrdCond) : BrdCond.ofCode q.code = some q := by cases q <;> rfl

theorem BrdCond.code_lt (q : BrdCond) : q.code < 4 := by cases q <;> decide

/-- The code of a Rnd, as its field encodes it (R21, R26 to R30, R183). -/
def Rnd.code : Rnd → Nat
  | .rne => 0
  | .rtz => 1
  | .rdn => 2
  | .rup => 3
  | .rna => 4

/-- The Rnd that a code names, if it is not reserved. -/
def Rnd.ofCode : Nat → Option Rnd
  | 0 => some .rne
  | 1 => some .rtz
  | 2 => some .rdn
  | 3 => some .rup
  | 4 => some .rna
  | _ => none

@[simp] theorem Rnd.ofCode_code (q : Rnd) : Rnd.ofCode q.code = some q := by cases q <;> rfl

theorem Rnd.code_lt (q : Rnd) : q.code < 5 := by cases q <;> decide

/-- Words of major SOP (R25 to R29). -/
def parseSop (word : Nat) : Option Instr :=
  if fld word 0 5 = 0 then
    some (.sadd (BitVec.ofNat 7 (fld word 19 7)) (BitVec.ofNat 7 (fld word 12 7)) (BitVec.ofNat 7 (fld word 5 7)))
  else if fld word 0 5 = 1 then
    some (.ssub (BitVec.ofNat 7 (fld word 19 7)) (BitVec.ofNat 7 (fld word 12 7)) (BitVec.ofNat 7 (fld word 5 7)))
  else if fld word 0 5 = 2 then
    some (.smul (BitVec.ofNat 7 (fld word 19 7)) (BitVec.ofNat 7 (fld word 12 7)) (BitVec.ofNat 7 (fld word 5 7)))
  else if fld word 0 5 = 3 then
    some (.smulhI32 (BitVec.ofNat 7 (fld word 19 7)) (BitVec.ofNat 7 (fld word 12 7)) (BitVec.ofNat 7 (fld word 5 7)))
  else if fld word 0 5 = 4 then
    some (.smulhN32 (BitVec.ofNat 7 (fld word 19 7)) (BitVec.ofNat 7 (fld word 12 7)) (BitVec.ofNat 7 (fld word 5 7)))
  else if fld word 0 5 = 5 then
    some (.sdivI32 (BitVec.ofNat 7 (fld word 19 7)) (BitVec.ofNat 7 (fld word 12 7)) (BitVec.ofNat 7 (fld word 5 7)))
  else if fld word 0 5 = 6 then
    some (.sdivN32 (BitVec.ofNat 7 (fld word 19 7)) (BitVec.ofNat 7 (fld word 12 7)) (BitVec.ofNat 7 (fld word 5 7)))
  else if fld word 0 5 = 7 then
    some (.sremI32 (BitVec.ofNat 7 (fld word 19 7)) (BitVec.ofNat 7 (fld word 12 7)) (BitVec.ofNat 7 (fld word 5 7)))
  else if fld word 0 5 = 8 then
    some (.sremN32 (BitVec.ofNat 7 (fld word 19 7)) (BitVec.ofNat 7 (fld word 12 7)) (BitVec.ofNat 7 (fld word 5 7)))
  else if fld word 0 5 = 9 then
    some (.sand (BitVec.ofNat 7 (fld word 19 7)) (BitVec.ofNat 7 (fld word 12 7)) (BitVec.ofNat 7 (fld word 5 7)))
  else if fld word 0 5 = 10 then
    some (.sor (BitVec.ofNat 7 (fld word 19 7)) (BitVec.ofNat 7 (fld word 12 7)) (BitVec.ofNat 7 (fld word 5 7)))
  else if fld word 0 5 = 11 then
    some (.sxor (BitVec.ofNat 7 (fld word 19 7)) (BitVec.ofNat 7 (fld word 12 7)) (BitVec.ofNat 7 (fld word 5 7)))
  else if fld word 0 5 = 12 then
    some (.sandn (BitVec.ofNat 7 (fld word 19 7)) (BitVec.ofNat 7 (fld word 12 7)) (BitVec.ofNat 7 (fld word 5 7)))
  else if fld word 0 5 = 13 then
    some (.sshl (BitVec.ofNat 7 (fld word 19 7)) (BitVec.ofNat 7 (fld word 12 7)) (BitVec.ofNat 7 (fld word 5 7)))
  else if fld word 0 5 = 14 then
    some (.sshr (BitVec.ofNat 7 (fld word 19 7)) (BitVec.ofNat 7 (fld word 12 7)) (BitVec.ofNat 7 (fld word 5 7)))
  else if fld word 0 5 = 15 then
    some (.ssra (BitVec.ofNat 7 (fld word 19 7)) (BitVec.ofNat 7 (fld word 12 7)) (BitVec.ofNat 7 (fld word 5 7)))
  else if fld word 0 5 = 16 then
    some (.sminI32 (BitVec.ofNat 7 (fld word 19 7)) (BitVec.ofNat 7 (fld word 12 7)) (BitVec.ofNat 7 (fld word 5 7)))
  else if fld word 0 5 = 17 then
    some (.sminN32 (BitVec.ofNat 7 (fld word 19 7)) (BitVec.ofNat 7 (fld word 12 7)) (BitVec.ofNat 7 (fld word 5 7)))
  else if fld word 0 5 = 18 then
    some (.smaxI32 (BitVec.ofNat 7 (fld word 19 7)) (BitVec.ofNat 7 (fld word 12 7)) (BitVec.ofNat 7 (fld word 5 7)))
  else if fld word 0 5 = 19 then
    some (.smaxN32 (BitVec.ofNat 7 (fld word 19 7)) (BitVec.ofNat 7 (fld word 12 7)) (BitVec.ofNat 7 (fld word 5 7)))
  else if fld word 0 12 = 20 then
    some (.smov (BitVec.ofNat 7 (fld word 19 7)) (BitVec.ofNat 7 (fld word 12 7)))
  else if fld word 0 12 = 52 then
    some (.spopc (BitVec.ofNat 7 (fld word 19 7)) (BitVec.ofNat 7 (fld word 12 7)))
  else if fld word 0 12 = 84 then
    some (.sclz (BitVec.ofNat 7 (fld word 19 7)) (BitVec.ofNat 7 (fld word 12 7)))
  else if fld word 0 12 = 116 then
    some (.sctz (BitVec.ofNat 7 (fld word 19 7)) (BitVec.ofNat 7 (fld word 12 7)))
  else if fld word 0 12 = 148 then
    some (.sbrev (BitVec.ofNat 7 (fld word 19 7)) (BitVec.ofNat 7 (fld word 12 7)))
  else if fld word 0 5 = 21 then
    (CmpCond.ofCode (fld word 22 4)).bind fun c => some (.scmp c (BitVec.ofNat 3 (fld word 19 3)) (BitVec.ofNat 7 (fld word 12 7)) (BitVec.ofNat 7 (fld word 5 7)))
  else if fld word 0 5 = 22 then
    some (.slea (BitVec.ofNat 7 (fld word 19 7)) (BitVec.ofNat 7 (fld word 12 7)) (BitVec.ofNat 7 (fld word 5 7)))
  else if fld word 0 5 = 23 then
    some (.sbfi (BitVec.ofNat 7 (fld word 19 7)) (BitVec.ofNat 7 (fld word 12 7)) (BitVec.ofNat 7 (fld word 5 7)))
  else if fld word 3 2 = 3 then
    some (.ssel (BitVec.ofNat 7 (fld word 19 7)) (BitVec.ofNat 7 (fld word 12 7)) (BitVec.ofNat 7 (fld word 5 7)) (BitVec.ofNat 3 (fld word 0 3)))
  else none

/-- Words of major SOPI (R25 to R29). -/
def parseSopi (word : Nat) : Option Instr :=
  if fld word 12 1 = 0 ∧ fld word 14 5 = 0 then
    some (.saddImm (BitVec.ofNat 7 (fld word 19 7)) (flagOf (fld word 13 1)) (BitVec.ofNat 12 (fld word 0 12)))
  else if fld word 12 1 = 0 ∧ fld word 14 5 = 1 then
    some (.smulImm (BitVec.ofNat 7 (fld word 19 7)) (flagOf (fld word 13 1)) (BitVec.ofNat 12 (fld word 0 12)))
  else if fld word 12 1 = 0 ∧ fld word 14 5 = 2 then
    some (.sandImm (BitVec.ofNat 7 (fld word 19 7)) (flagOf (fld word 13 1)) (BitVec.ofNat 12 (fld word 0 12)))
  else if fld word 12 1 = 0 ∧ fld word 14 5 = 3 then
    some (.sorImm (BitVec.ofNat 7 (fld word 19 7)) (flagOf (fld word 13 1)) (BitVec.ofNat 12 (fld word 0 12)))
  else if fld word 12 1 = 0 ∧ fld word 14 5 = 4 then
    some (.sxorImm (BitVec.ofNat 7 (fld word 19 7)) (flagOf (fld word 13 1)) (BitVec.ofNat 12 (fld word 0 12)))
  else if fld word 12 1 = 0 ∧ fld word 14 5 = 5 then
    some (.sshlImm (BitVec.ofNat 7 (fld word 19 7)) (flagOf (fld word 13 1)) (BitVec.ofNat 12 (fld word 0 12)))
  else if fld word 12 1 = 0 ∧ fld word 14 5 = 6 then
    some (.sshrImm (BitVec.ofNat 7 (fld word 19 7)) (flagOf (fld word 13 1)) (BitVec.ofNat 12 (fld word 0 12)))
  else if fld word 12 1 = 0 ∧ fld word 14 5 = 7 then
    some (.ssraImm (BitVec.ofNat 7 (fld word 19 7)) (flagOf (fld word 13 1)) (BitVec.ofNat 12 (fld word 0 12)))
  else if fld word 12 1 = 0 ∧ fld word 14 5 = 8 then
    some (.sminI32Imm (BitVec.ofNat 7 (fld word 19 7)) (flagOf (fld word 13 1)) (BitVec.ofNat 12 (fld word 0 12)))
  else if fld word 12 1 = 0 ∧ fld word 14 5 = 9 then
    some (.sminN32Imm (BitVec.ofNat 7 (fld word 19 7)) (flagOf (fld word 13 1)) (BitVec.ofNat 12 (fld word 0 12)))
  else if fld word 12 1 = 0 ∧ fld word 14 5 = 10 then
    some (.smaxI32Imm (BitVec.ofNat 7 (fld word 19 7)) (flagOf (fld word 13 1)) (BitVec.ofNat 12 (fld word 0 12)))
  else if fld word 12 1 = 0 ∧ fld word 14 5 = 11 then
    some (.smaxN32Imm (BitVec.ofNat 7 (fld word 19 7)) (flagOf (fld word 13 1)) (BitVec.ofNat 12 (fld word 0 12)))
  else if fld word 12 1 = 0 ∧ fld word 14 5 = 12 then
    some (.smovImm (BitVec.ofNat 7 (fld word 19 7)) (flagOf (fld word 13 1)) (BitVec.ofNat 12 (fld word 0 12)))
  else if fld word 12 1 = 0 ∧ fld word 14 5 = 13 then
    some (.sbfeI32 (BitVec.ofNat 7 (fld word 19 7)) (flagOf (fld word 13 1)) (BitVec.ofNat 12 (fld word 0 12)))
  else if fld word 12 1 = 0 ∧ fld word 14 5 = 14 then
    some (.sbfeN32 (BitVec.ofNat 7 (fld word 19 7)) (flagOf (fld word 13 1)) (BitVec.ofNat 12 (fld word 0 12)))
  else none

/-- Words of major SMOVI (R25 to R29). -/
def parseSmovi (word : Nat) : Option Instr :=
  some (.smovi (BitVec.ofNat 6 (fld word 20 6)) (BitVec.ofNat 20 (fld word 0 20)))

/-- Words of major SSR (R25 to R29). -/
def parseSsr (word : Nat) : Option Instr :=
  if fld word 12 7 = 0 then
    some (.srd (BitVec.ofNat 7 (fld word 19 7)) (BitVec.ofNat 12 (fld word 0 12)))
  else if fld word 12 7 = 32 then
    some (.swr (BitVec.ofNat 7 (fld word 19 7)) (BitVec.ofNat 12 (fld word 0 12)))
  else if fld word 2 17 = 65536 then
    some (.nfset (BitVec.ofNat 7 (fld word 19 7)) (BitVec.ofNat 2 (fld word 0 2)))
  else none

/-- Words of major BR (R25 to R29). -/
def parseBr (word : Nat) : Option Instr :=
  if fld word 25 1 = 0 then
    some (.br (BitVec.ofNat 3 (fld word 22 3)) (BitVec.ofNat 22 (fld word 0 22)))
  else if fld word 25 1 = 1 then
    some (.brn (BitVec.ofNat 3 (fld word 22 3)) (BitVec.ofNat 22 (fld word 0 22)))
  else none

/-- Words of major JMP (R25 to R29). -/
def parseJmp (word : Nat) : Option Instr :=
  if fld word 23 3 = 0 then
    some (.jmp (BitVec.ofNat 23 (fld word 0 23)))
  else if fld word 23 3 = 1 then
    some (.call (BitVec.ofNat 23 (fld word 0 23)))
  else if fld word 0 12 = 0 ∧ fld word 19 7 = 32 then
    some (.jmpReg (BitVec.ofNat 7 (fld word 12 7)))
  else if fld word 0 12 = 0 ∧ fld word 19 7 = 48 then
    some (.callReg (BitVec.ofNat 7 (fld word 12 7)))
  else if fld word 0 26 = 33554432 then
    some (.ret)
  else none

/-- Words of major VBR (R25 to R29). -/
def parseVbr (word : Nat) : Option Instr :=
  if fld word 24 2 = 0 then
    some (.vbr (flagOf (fld word 23 1)) (BitVec.ofNat 3 (fld word 20 3)) (BitVec.ofNat 10 (fld word 10 10)) (BitVec.ofNat 10 (fld word 0 10)))
  else if fld word 0 20 = 0 ∧ fld word 24 2 = 1 then
    some (.vbrk (flagOf (fld word 23 1)) (BitVec.ofNat 3 (fld word 20 3)))
  else if fld word 24 2 = 2 then
    some (.split (flagOf (fld word 23 1)) (BitVec.ofNat 3 (fld word 20 3)) (BitVec.ofNat 10 (fld word 10 10)) (BitVec.ofNat 10 (fld word 0 10)))
  else if fld word 0 26 = 50331648 then
    some (.join)
  else none

/-- Words of major PATH (R25 to R29). -/
def parsePath (word : Nat) : Option Instr :=
  if fld word 0 26 = 0 then
    some (.exit)
  else if fld word 0 26 = 8388608 then
    some (.refill)
  else if fld word 23 3 = 2 then
    some (.loan (BitVec.ofNat 7 (fld word 16 7)) (BitVec.ofNat 7 (fld word 9 7)) (BitVec.ofNat 3 (fld word 6 3)) (BitVec.ofNat 6 (fld word 0 6)))
  else if fld word 0 6 = 0 ∧ fld word 9 7 = 0 ∧ fld word 23 3 = 3 then
    some (.lnext (BitVec.ofNat 7 (fld word 16 7)) (BitVec.ofNat 3 (fld word 6 3)))
  else if fld word 0 4 = 0 ∧ fld word 23 3 = 4 then
    (RedOp.ofCode (fld word 6 3)).bind fun r => (RepayTy.ofCode (fld word 4 2)).bind fun t => some (.repay (BitVec.ofNat 7 (fld word 16 7)) (BitVec.ofNat 7 (fld word 9 7)) r t)
  else if fld word 0 26 = 41943040 then
    some (.ldone)
  else if fld word 0 26 = 50331648 then
    some (.rgn)
  else none

/-- Words of major SYNC (R25 to R29). -/
def parseSync (word : Nat) : Option Instr :=
  if fld word 4 22 = 0 then
    some (.barArrive (BitVec.ofNat 4 (fld word 0 4)))
  else if fld word 4 22 = 262144 then
    some (.barWait (BitVec.ofNat 4 (fld word 0 4)))
  else if fld word 4 22 = 524288 then
    some (.barSync (BitVec.ofNat 4 (fld word 0 4)))
  else if fld word 0 2 = 0 ∧ fld word 22 4 = 3 then
    some (.waitC (BitVec.ofNat 6 (fld word 16 6)) (BitVec.ofNat 6 (fld word 10 6)) (BitVec.ofNat 4 (fld word 6 4)) (BitVec.ofNat 4 (fld word 2 4)))
  else if fld word 0 26 = 16777216 then
    some (.yield)
  else if fld word 16 10 = 320 then
    some (.sleep (BitVec.ofNat 16 (fld word 0 16)))
  else if fld word 0 26 = 25165824 then
    some (.nop)
  else if fld word 0 26 = 29360128 then
    some (.wpred)
  else if fld word 0 26 = 33554432 then
    some (.sucstart)
  else none

/-- Words of major SYS (R25 to R29). -/
def parseSys (word : Nat) : Option Instr :=
  if fld word 8 18 = 0 then
    some (.trap (BitVec.ofNat 8 (fld word 0 8)))
  else if fld word 0 26 = 16777216 then
    some (.eret)
  else if fld word 0 26 = 33554432 then
    some (.halt)
  else if fld word 0 26 = 50331648 then
    some (.brkpt)
  else none

/-- Words of major REG (R25 to R29). -/
def parseReg (word : Nat) : Option Instr :=
  if fld word 5 16 = 0 ∧ fld word 25 1 = 0 then
    some (.claim (flagOf (fld word 24 1)) (BitVec.ofNat 3 (fld word 21 3)) (BitVec.ofNat 5 (fld word 0 5)))
  else if fld word 5 21 = 1048576 then
    some (.giveback (BitVec.ofNat 5 (fld word 0 5)))
  else none

/-- Words of major VOP (R25 to R29). -/
def parseVop (word : Nat) : Option Instr :=
  if fld word 0 5 = 0 then
    some (.vadd (BitVec.ofNat 7 (fld word 19 7)) (BitVec.ofNat 7 (fld word 12 7)) (BitVec.ofNat 7 (fld word 5 7)))
  else if fld word 0 5 = 1 then
    some (.vsub (BitVec.ofNat 7 (fld word 19 7)) (BitVec.ofNat 7 (fld word 12 7)) (BitVec.ofNat 7 (fld word 5 7)))
  else if fld word 0 5 = 2 then
    some (.vmul (BitVec.ofNat 7 (fld word 19 7)) (BitVec.ofNat 7 (fld word 12 7)) (BitVec.ofNat 7 (fld word 5 7)))
  else if fld word 0 5 = 3 then
    some (.vmulhI32 (BitVec.ofNat 7 (fld word 19 7)) (BitVec.ofNat 7 (fld word 12 7)) (BitVec.ofNat 7 (fld word 5 7)))
  else if fld word 0 5 = 4 then
    some (.vmulhN32 (BitVec.ofNat 7 (fld word 19 7)) (BitVec.ofNat 7 (fld word 12 7)) (BitVec.ofNat 7 (fld word 5 7)))
  else if fld word 0 5 = 5 then
    some (.vmad (BitVec.ofNat 7 (fld word 19 7)) (BitVec.ofNat 7 (fld word 12 7)) (BitVec.ofNat 7 (fld word 5 7)))
  else if fld word 0 5 = 6 then
    some (.vand (BitVec.ofNat 7 (fld word 19 7)) (BitVec.ofNat 7 (fld word 12 7)) (BitVec.ofNat 7 (fld word 5 7)))
  else if fld word 0 5 = 7 then
    some (.vor (BitVec.ofNat 7 (fld word 19 7)) (BitVec.ofNat 7 (fld word 12 7)) (BitVec.ofNat 7 (fld word 5 7)))
  else if fld word 0 5 = 8 then
    some (.vxor (BitVec.ofNat 7 (fld word 19 7)) (BitVec.ofNat 7 (fld word 12 7)) (BitVec.ofNat 7 (fld word 5 7)))
  else if fld word 0 5 = 9 then
    some (.vandn (BitVec.ofNat 7 (fld word 19 7)) (BitVec.ofNat 7 (fld word 12 7)) (BitVec.ofNat 7 (fld word 5 7)))
  else if fld word 0 5 = 10 then
    some (.vshl (BitVec.ofNat 7 (fld word 19 7)) (BitVec.ofNat 7 (fld word 12 7)) (BitVec.ofNat 7 (fld word 5 7)))
  else if fld word 0 5 = 11 then
    some (.vshr (BitVec.ofNat 7 (fld word 19 7)) (BitVec.ofNat 7 (fld word 12 7)) (BitVec.ofNat 7 (fld word 5 7)))
  else if fld word 0 5 = 12 then
    some (.vsra (BitVec.ofNat 7 (fld word 19 7)) (BitVec.ofNat 7 (fld word 12 7)) (BitVec.ofNat 7 (fld word 5 7)))
  else if fld word 0 5 = 13 then
    some (.vminI32 (BitVec.ofNat 7 (fld word 19 7)) (BitVec.ofNat 7 (fld word 12 7)) (BitVec.ofNat 7 (fld word 5 7)))
  else if fld word 0 5 = 14 then
    some (.vminN32 (BitVec.ofNat 7 (fld word 19 7)) (BitVec.ofNat 7 (fld word 12 7)) (BitVec.ofNat 7 (fld word 5 7)))
  else if fld word 0 5 = 15 then
    some (.vmaxI32 (BitVec.ofNat 7 (fld word 19 7)) (BitVec.ofNat 7 (fld word 12 7)) (BitVec.ofNat 7 (fld word 5 7)))
  else if fld word 0 5 = 16 then
    some (.vmaxN32 (BitVec.ofNat 7 (fld word 19 7)) (BitVec.ofNat 7 (fld word 12 7)) (BitVec.ofNat 7 (fld word 5 7)))
  else if fld word 0 5 = 17 then
    some (.vabsdI32 (BitVec.ofNat 7 (fld word 19 7)) (BitVec.ofNat 7 (fld word 12 7)) (BitVec.ofNat 7 (fld word 5 7)))
  else if fld word 0 5 = 18 then
    some (.vabsdN32 (BitVec.ofNat 7 (fld word 19 7)) (BitVec.ofNat 7 (fld word 12 7)) (BitVec.ofNat 7 (fld word 5 7)))
  else if fld word 0 12 = 19 then
    some (.vpopc (BitVec.ofNat 7 (fld word 19 7)) (BitVec.ofNat 7 (fld word 12 7)))
  else if fld word 0 12 = 20 then
    some (.vclz (BitVec.ofNat 7 (fld word 19 7)) (BitVec.ofNat 7 (fld word 12 7)))
  else if fld word 0 12 = 21 then
    some (.vbrev (BitVec.ofNat 7 (fld word 19 7)) (BitVec.ofNat 7 (fld word 12 7)))
  else if fld word 0 5 = 22 then
    some (.vbfeI32 (BitVec.ofNat 7 (fld word 19 7)) (BitVec.ofNat 7 (fld word 12 7)) (BitVec.ofNat 7 (fld word 5 7)))
  else if fld word 0 5 = 23 then
    some (.vbfeN32 (BitVec.ofNat 7 (fld word 19 7)) (BitVec.ofNat 7 (fld word 12 7)) (BitVec.ofNat 7 (fld word 5 7)))
  else if fld word 0 5 = 24 then
    some (.vbfi (BitVec.ofNat 7 (fld word 19 7)) (BitVec.ofNat 7 (fld word 12 7)) (BitVec.ofNat 7 (fld word 5 7)))
  else none

/-- Words of major VOPI (R25 to R29). -/
def parseVopi (word : Nat) : Option Instr :=
  if fld word 8 4 = 0 then
    some (.vaddImm (BitVec.ofNat 7 (fld word 19 7)) (BitVec.ofNat 7 (fld word 12 7)) (BitVec.ofNat 8 (fld word 0 8)))
  else if fld word 8 4 = 1 then
    some (.vmulImm (BitVec.ofNat 7 (fld word 19 7)) (BitVec.ofNat 7 (fld word 12 7)) (BitVec.ofNat 8 (fld word 0 8)))
  else if fld word 8 4 = 2 then
    some (.vandImm (BitVec.ofNat 7 (fld word 19 7)) (BitVec.ofNat 7 (fld word 12 7)) (BitVec.ofNat 8 (fld word 0 8)))
  else if fld word 8 4 = 3 then
    some (.vorImm (BitVec.ofNat 7 (fld word 19 7)) (BitVec.ofNat 7 (fld word 12 7)) (BitVec.ofNat 8 (fld word 0 8)))
  else if fld word 8 4 = 4 then
    some (.vxorImm (BitVec.ofNat 7 (fld word 19 7)) (BitVec.ofNat 7 (fld word 12 7)) (BitVec.ofNat 8 (fld word 0 8)))
  else if fld word 8 4 = 5 then
    some (.vandnImm (BitVec.ofNat 7 (fld word 19 7)) (BitVec.ofNat 7 (fld word 12 7)) (BitVec.ofNat 8 (fld word 0 8)))
  else if fld word 8 4 = 6 then
    some (.vshlImm (BitVec.ofNat 7 (fld word 19 7)) (BitVec.ofNat 7 (fld word 12 7)) (BitVec.ofNat 8 (fld word 0 8)))
  else if fld word 8 4 = 7 then
    some (.vshrImm (BitVec.ofNat 7 (fld word 19 7)) (BitVec.ofNat 7 (fld word 12 7)) (BitVec.ofNat 8 (fld word 0 8)))
  else if fld word 8 4 = 8 then
    some (.vsraImm (BitVec.ofNat 7 (fld word 19 7)) (BitVec.ofNat 7 (fld word 12 7)) (BitVec.ofNat 8 (fld word 0 8)))
  else if fld word 8 4 = 9 then
    some (.vminI32Imm (BitVec.ofNat 7 (fld word 19 7)) (BitVec.ofNat 7 (fld word 12 7)) (BitVec.ofNat 8 (fld word 0 8)))
  else if fld word 8 4 = 10 then
    some (.vminN32Imm (BitVec.ofNat 7 (fld word 19 7)) (BitVec.ofNat 7 (fld word 12 7)) (BitVec.ofNat 8 (fld word 0 8)))
  else if fld word 8 4 = 11 then
    some (.vmaxI32Imm (BitVec.ofNat 7 (fld word 19 7)) (BitVec.ofNat 7 (fld word 12 7)) (BitVec.ofNat 8 (fld word 0 8)))
  else if fld word 8 4 = 12 then
    some (.vmaxN32Imm (BitVec.ofNat 7 (fld word 19 7)) (BitVec.ofNat 7 (fld word 12 7)) (BitVec.ofNat 8 (fld word 0 8)))
  else if fld word 8 4 = 13 then
    some (.vabsdI32Imm (BitVec.ofNat 7 (fld word 19 7)) (BitVec.ofNat 7 (fld word 12 7)) (BitVec.ofNat 8 (fld word 0 8)))
  else if fld word 8 4 = 14 then
    some (.vabsdN32Imm (BitVec.ofNat 7 (fld word 19 7)) (BitVec.ofNat 7 (fld word 12 7)) (BitVec.ofNat 8 (fld word 0 8)))
  else none

/-- Words of major VFOP (R25 to R29). -/
def parseVfop (word : Nat) : Option Instr :=
  if fld word 0 5 = 0 then
    some (.vfadd (BitVec.ofNat 7 (fld word 19 7)) (BitVec.ofNat 7 (fld word 12 7)) (BitVec.ofNat 7 (fld word 5 7)))
  else if fld word 0 5 = 1 then
    some (.vfsub (BitVec.ofNat 7 (fld word 19 7)) (BitVec.ofNat 7 (fld word 12 7)) (BitVec.ofNat 7 (fld word 5 7)))
  else if fld word 0 5 = 2 then
    some (.vfmul (BitVec.ofNat 7 (fld word 19 7)) (BitVec.ofNat 7 (fld word 12 7)) (BitVec.ofNat 7 (fld word 5 7)))
  else if fld word 0 5 = 3 then
    some (.vfmin (BitVec.ofNat 7 (fld word 19 7)) (BitVec.ofNat 7 (fld word 12 7)) (BitVec.ofNat 7 (fld word 5 7)))
  else if fld word 0 5 = 4 then
    some (.vfmax (BitVec.ofNat 7 (fld word 19 7)) (BitVec.ofNat 7 (fld word 12 7)) (BitVec.ofNat 7 (fld word 5 7)))
  else if fld word 0 5 = 5 then
    some (.vfscale (BitVec.ofNat 7 (fld word 19 7)) (BitVec.ofNat 7 (fld word 12 7)) (BitVec.ofNat 7 (fld word 5 7)))
  else if fld word 0 12 = 6 then
    some (.vfclass (BitVec.ofNat 7 (fld word 19 7)) (BitVec.ofNat 7 (fld word 12 7)))
  else if fld word 0 5 = 7 then
    some (.vhadd (BitVec.ofNat 7 (fld word 19 7)) (BitVec.ofNat 7 (fld word 12 7)) (BitVec.ofNat 7 (fld word 5 7)))
  else if fld word 0 5 = 8 then
    some (.vhmul (BitVec.ofNat 7 (fld word 19 7)) (BitVec.ofNat 7 (fld word 12 7)) (BitVec.ofNat 7 (fld word 5 7)))
  else none

/-- Words of major VFMA (R25 to R29). -/
def parseVfma (word : Nat) : Option Instr :=
  if fld word 0 5 = 0 then
    some (.vffma (BitVec.ofNat 7 (fld word 19 7)) (BitVec.ofNat 7 (fld word 12 7)) (BitVec.ofNat 7 (fld word 5 7)))
  else if fld word 0 5 = 1 then
    some (.vhfma (BitVec.ofNat 7 (fld word 19 7)) (BitVec.ofNat 7 (fld word 12 7)) (BitVec.ofNat 7 (fld word 5 7)))
  else none

/-- Words of major VSFU (R25 to R29). -/
def parseVsfu (word : Nat) : Option Instr :=
  if fld word 0 12 = 0 then
    some (.vfrcp (BitVec.ofNat 7 (fld word 19 7)) (BitVec.ofNat 7 (fld word 12 7)))
  else if fld word 0 12 = 1 then
    some (.vfrsq (BitVec.ofNat 7 (fld word 19 7)) (BitVec.ofNat 7 (fld word 12 7)))
  else if fld word 0 12 = 2 then
    some (.vfsqrt (BitVec.ofNat 7 (fld word 19 7)) (BitVec.ofNat 7 (fld word 12 7)))
  else if fld word 0 5 = 3 then
    some (.vfdiv (BitVec.ofNat 7 (fld word 19 7)) (BitVec.ofNat 7 (fld word 12 7)) (BitVec.ofNat 7 (fld word 5 7)))
  else if fld word 0 12 = 4 then
    some (.vfexp2 (BitVec.ofNat 7 (fld word 19 7)) (BitVec.ofNat 7 (fld word 12 7)))
  else if fld word 0 12 = 5 then
    some (.vflog2 (BitVec.ofNat 7 (fld word 19 7)) (BitVec.ofNat 7 (fld word 12 7)))
  else if fld word 0 12 = 6 then
    some (.vfsin (BitVec.ofNat 7 (fld word 19 7)) (BitVec.ofNat 7 (fld word 12 7)))
  else if fld word 0 12 = 7 then
    some (.vfcos (BitVec.ofNat 7 (fld word 19 7)) (BitVec.ofNat 7 (fld word 12 7)))
  else if fld word 0 12 = 8 then
    some (.vfexp (BitVec.ofNat 7 (fld word 19 7)) (BitVec.ofNat 7 (fld word 12 7)))
  else none

/-- Words of major VCVT (R25 to R29). -/
def parseVcvt (word : Nat) : Option Instr :=
  if fld word 0 12 = 0 then
    some (.vfcvtF32I32 (BitVec.ofNat 7 (fld word 19 7)) (BitVec.ofNat 7 (fld word 12 7)))
  else if fld word 0 12 = 1 then
    some (.vfcvtF32N32 (BitVec.ofNat 7 (fld word 19 7)) (BitVec.ofNat 7 (fld word 12 7)))
  else if fld word 0 12 = 2 then
    some (.vfcvtI32F32 (BitVec.ofNat 7 (fld word 19 7)) (BitVec.ofNat 7 (fld word 12 7)))
  else if fld word 0 12 = 3 then
    some (.vfcvtN32F32 (BitVec.ofNat 7 (fld word 19 7)) (BitVec.ofNat 7 (fld word 12 7)))
  else if fld word 0 8 = 4 then
    some (.vfcvtF32F16 (BitVec.ofNat 7 (fld word 19 7)) (BitVec.ofNat 7 (fld word 12 7)) (BitVec.ofNat 4 (fld word 8 4)))
  else if fld word 0 8 = 5 then
    some (.vfcvtF16F32 (BitVec.ofNat 7 (fld word 19 7)) (BitVec.ofNat 7 (fld word 12 7)) (BitVec.ofNat 4 (fld word 8 4)))
  else if fld word 0 8 = 6 then
    some (.vfcvtF32Bf16 (BitVec.ofNat 7 (fld word 19 7)) (BitVec.ofNat 7 (fld word 12 7)) (BitVec.ofNat 4 (fld word 8 4)))
  else if fld word 0 8 = 7 then
    some (.vfcvtBf16F32 (BitVec.ofNat 7 (fld word 19 7)) (BitVec.ofNat 7 (fld word 12 7)) (BitVec.ofNat 4 (fld word 8 4)))
  else if fld word 0 8 = 8 then
    some (.vfcvtF32E4m3 (BitVec.ofNat 7 (fld word 19 7)) (BitVec.ofNat 7 (fld word 12 7)) (BitVec.ofNat 4 (fld word 8 4)))
  else if fld word 0 8 = 9 then
    some (.vfcvtE4m3F32 (BitVec.ofNat 7 (fld word 19 7)) (BitVec.ofNat 7 (fld word 12 7)) (BitVec.ofNat 4 (fld word 8 4)))
  else if fld word 0 8 = 10 then
    some (.vfcvtF32E5m2 (BitVec.ofNat 7 (fld word 19 7)) (BitVec.ofNat 7 (fld word 12 7)) (BitVec.ofNat 4 (fld word 8 4)))
  else if fld word 0 8 = 11 then
    some (.vfcvtE5m2F32 (BitVec.ofNat 7 (fld word 19 7)) (BitVec.ofNat 7 (fld word 12 7)) (BitVec.ofNat 4 (fld word 8 4)))
  else if fld word 0 8 = 12 then
    some (.vfcvtI32I8 (BitVec.ofNat 7 (fld word 19 7)) (BitVec.ofNat 7 (fld word 12 7)) (BitVec.ofNat 4 (fld word 8 4)))
  else if fld word 0 8 = 13 then
    some (.vfcvtI8I32 (BitVec.ofNat 7 (fld word 19 7)) (BitVec.ofNat 7 (fld word 12 7)) (BitVec.ofNat 4 (fld word 8 4)))
  else if fld word 0 8 = 14 then
    some (.vfcvtI32Tri (BitVec.ofNat 7 (fld word 19 7)) (BitVec.ofNat 7 (fld word 12 7)) (BitVec.ofNat 4 (fld word 8 4)))
  else if fld word 0 8 = 15 then
    some (.vfcvtTriI32 (BitVec.ofNat 7 (fld word 19 7)) (BitVec.ofNat 7 (fld word 12 7)) (BitVec.ofNat 4 (fld word 8 4)))
  else if fld word 0 6 = 16 then
    some (.vncvtF32 (BitVec.ofNat 7 (fld word 19 7)) (BitVec.ofNat 7 (fld word 12 7)) (BitVec.ofNat 4 (fld word 8 4)) (BitVec.ofNat 2 (fld word 6 2)))
  else if fld word 0 6 = 17 then
    some (.vncvtNf (BitVec.ofNat 7 (fld word 19 7)) (BitVec.ofNat 7 (fld word 12 7)) (BitVec.ofNat 4 (fld word 8 4)) (BitVec.ofNat 2 (fld word 6 2)))
  else if fld word 0 8 = 18 then
    some (.vfcvtI32I16 (BitVec.ofNat 7 (fld word 19 7)) (BitVec.ofNat 7 (fld word 12 7)) (BitVec.ofNat 4 (fld word 8 4)))
  else if fld word 0 8 = 19 then
    some (.vfcvtI16I32 (BitVec.ofNat 7 (fld word 19 7)) (BitVec.ofNat 7 (fld word 12 7)) (BitVec.ofNat 4 (fld word 8 4)))
  else if fld word 0 8 = 20 then
    some (.vfcvtN32N8 (BitVec.ofNat 7 (fld word 19 7)) (BitVec.ofNat 7 (fld word 12 7)) (BitVec.ofNat 4 (fld word 8 4)))
  else if fld word 0 8 = 21 then
    some (.vfcvtN8N32 (BitVec.ofNat 7 (fld word 19 7)) (BitVec.ofNat 7 (fld word 12 7)) (BitVec.ofNat 4 (fld word 8 4)))
  else if fld word 0 8 = 22 then
    some (.vfcvtN32N16 (BitVec.ofNat 7 (fld word 19 7)) (BitVec.ofNat 7 (fld word 12 7)) (BitVec.ofNat 4 (fld word 8 4)))
  else if fld word 0 8 = 23 then
    some (.vfcvtN16N32 (BitVec.ofNat 7 (fld word 19 7)) (BitVec.ofNat 7 (fld word 12 7)) (BitVec.ofNat 4 (fld word 8 4)))
  else none

/-- Words of major VXL (R25 to R29). -/
def parseVxl (word : Nat) : Option Instr :=
  if fld word 0 5 = 0 then
    some (.vshfl (BitVec.ofNat 7 (fld word 19 7)) (BitVec.ofNat 7 (fld word 12 7)) (BitVec.ofNat 7 (fld word 5 7)))
  else if fld word 0 5 = 1 then
    some (.vbfly (BitVec.ofNat 7 (fld word 19 7)) (BitVec.ofNat 7 (fld word 12 7)) (BitVec.ofNat 7 (fld word 5 7)))
  else if fld word 0 5 = 2 then
    some (.vbcast (BitVec.ofNat 7 (fld word 19 7)) (BitVec.ofNat 7 (fld word 12 7)) (BitVec.ofNat 7 (fld word 5 7)))
  else if fld word 0 12 = 3 then
    some (.vrfl (BitVec.ofNat 7 (fld word 19 7)) (BitVec.ofNat 7 (fld word 12 7)))
  else if fld word 0 6 = 4 then
    (RedOp.ofCode (fld word 9 3)).bind fun o => (ElemTy.ofCode (fld word 6 3)).bind fun t => some (.vred (BitVec.ofNat 7 (fld word 19 7)) (BitVec.ofNat 7 (fld word 12 7)) o t)
  else if fld word 0 6 = 5 ∧ fld word 9 3 = 0 then
    (ElemTy.ofCode (fld word 6 3)).bind fun t => some (.vredmi (BitVec.ofNat 7 (fld word 19 7)) (BitVec.ofNat 7 (fld word 12 7)) t)
  else if fld word 0 5 = 6 then
    (RedOp.ofCode (fld word 9 3)).bind fun o => (ElemTy.ofCode (fld word 6 3)).bind fun t => some (.vscan (BitVec.ofNat 7 (fld word 19 7)) (BitVec.ofNat 7 (fld word 12 7)) o t (flagOf (fld word 5 1)))
  else if fld word 0 5 = 7 ∧ fld word 8 2 = 0 then
    (NbrSel.ofCode (fld word 10 2)).bind fun s => some (.vnbr (BitVec.ofNat 7 (fld word 19 7)) (BitVec.ofNat 7 (fld word 12 7)) s (BitVec.ofNat 3 (fld word 5 3)))
  else if fld word 0 5 = 8 ∧ fld word 8 4 = 0 then
    some (.vddx (BitVec.ofNat 7 (fld word 19 7)) (BitVec.ofNat 7 (fld word 12 7)) (BitVec.ofNat 3 (fld word 5 3)))
  else if fld word 0 5 = 9 ∧ fld word 8 4 = 0 then
    some (.vddy (BitVec.ofNat 7 (fld word 19 7)) (BitVec.ofNat 7 (fld word 12 7)) (BitVec.ofNat 3 (fld word 5 3)))
  else if fld word 0 5 = 10 ∧ fld word 8 11 = 0 then
    some (.vballot (BitVec.ofNat 7 (fld word 19 7)) (BitVec.ofNat 3 (fld word 5 3)))
  else if fld word 0 5 = 11 ∧ fld word 8 11 = 0 then
    some (.vcount (BitVec.ofNat 7 (fld word 19 7)) (BitVec.ofNat 3 (fld word 5 3)))
  else none

/-- Words of major VCMP (R25 to R29). -/
def parseVcmp (word : Nat) : Option Instr :=
  if fld word 2 3 = 0 then
    (CmpCond.ofCode (fld word 19 4)).bind fun c => (CmpMode.ofCode (fld word 0 2)).bind fun m => some (.vcmpI32 (BitVec.ofNat 3 (fld word 23 3)) c (BitVec.ofNat 7 (fld word 12 7)) (BitVec.ofNat 7 (fld word 5 7)) m)
  else if fld word 2 3 = 1 then
    (CmpCond.ofCode (fld word 19 4)).bind fun c => (CmpMode.ofCode (fld word 0 2)).bind fun m => some (.vcmpN32 (BitVec.ofNat 3 (fld word 23 3)) c (BitVec.ofNat 7 (fld word 12 7)) (BitVec.ofNat 7 (fld word 5 7)) m)
  else if fld word 2 3 = 2 then
    (CmpCond.ofCode (fld word 19 4)).bind fun c => (CmpMode.ofCode (fld word 0 2)).bind fun m => some (.vfcmp (BitVec.ofNat 3 (fld word 23 3)) c (BitVec.ofNat 7 (fld word 12 7)) (BitVec.ofNat 7 (fld word 5 7)) m)
  else none

/-- Words of major KOP (R25 to R29). -/
def parseKop (word : Nat) : Option Instr :=
  if fld word 0 10 = 0 ∧ fld word 11 1 = 0 ∧ fld word 21 5 = 0 then
    some (.kand (BitVec.ofNat 3 (fld word 18 3)) (BitVec.ofNat 3 (fld word 15 3)) (BitVec.ofNat 3 (fld word 12 3)) (flagOf (fld word 10 1)))
  else if fld word 0 10 = 0 ∧ fld word 11 1 = 0 ∧ fld word 21 5 = 1 then
    some (.kor (BitVec.ofNat 3 (fld word 18 3)) (BitVec.ofNat 3 (fld word 15 3)) (BitVec.ofNat 3 (fld word 12 3)) (flagOf (fld word 10 1)))
  else if fld word 0 10 = 0 ∧ fld word 11 1 = 0 ∧ fld word 21 5 = 2 then
    some (.kxor (BitVec.ofNat 3 (fld word 18 3)) (BitVec.ofNat 3 (fld word 15 3)) (BitVec.ofNat 3 (fld word 12 3)) (flagOf (fld word 10 1)))
  else if fld word 0 10 = 0 ∧ fld word 11 1 = 0 ∧ fld word 21 5 = 3 then
    some (.kandn (BitVec.ofNat 3 (fld word 18 3)) (BitVec.ofNat 3 (fld word 15 3)) (BitVec.ofNat 3 (fld word 12 3)) (flagOf (fld word 10 1)))
  else if fld word 0 10 = 0 ∧ fld word 11 4 = 0 ∧ fld word 21 5 = 4 then
    some (.knot (BitVec.ofNat 3 (fld word 18 3)) (BitVec.ofNat 3 (fld word 15 3)) (flagOf (fld word 10 1)))
  else if fld word 0 10 = 0 ∧ fld word 11 4 = 0 ∧ fld word 21 5 = 5 then
    some (.kmov (BitVec.ofNat 3 (fld word 18 3)) (BitVec.ofNat 3 (fld word 15 3)) (flagOf (fld word 10 1)))
  else if fld word 0 3 = 0 ∧ fld word 10 8 = 2 ∧ fld word 21 5 = 5 then
    some (.kmovFromScalar (BitVec.ofNat 3 (fld word 18 3)) (BitVec.ofNat 7 (fld word 3 7)))
  else if fld word 0 3 = 0 ∧ fld word 10 5 = 3 ∧ fld word 18 8 = 40 then
    some (.kmovToScalar (BitVec.ofNat 3 (fld word 15 3)) (BitVec.ofNat 7 (fld word 3 7)))
  else if fld word 0 3 = 0 ∧ fld word 10 5 = 0 ∧ fld word 18 8 = 48 then
    some (.kpop (BitVec.ofNat 3 (fld word 15 3)) (BitVec.ofNat 7 (fld word 3 7)))
  else if fld word 0 15 = 0 ∧ fld word 21 5 = 7 then
    some (.kany (BitVec.ofNat 3 (fld word 18 3)) (BitVec.ofNat 3 (fld word 15 3)))
  else if fld word 0 15 = 0 ∧ fld word 21 5 = 8 then
    some (.kall (BitVec.ofNat 3 (fld word 18 3)) (BitVec.ofNat 3 (fld word 15 3)))
  else none

/-- Words of major VNF (R25 to R29). -/
def parseVnf (word : Nat) : Option Instr :=
  if fld word 2 3 = 0 then
    some (.vnadd (BitVec.ofNat 7 (fld word 19 7)) (BitVec.ofNat 7 (fld word 12 7)) (BitVec.ofNat 7 (fld word 5 7)) (BitVec.ofNat 2 (fld word 0 2)))
  else if fld word 2 3 = 1 then
    some (.vnmul (BitVec.ofNat 7 (fld word 19 7)) (BitVec.ofNat 7 (fld word 12 7)) (BitVec.ofNat 7 (fld word 5 7)) (BitVec.ofNat 2 (fld word 0 2)))
  else if fld word 2 3 = 2 then
    some (.vnfma (BitVec.ofNat 7 (fld word 19 7)) (BitVec.ofNat 7 (fld word 12 7)) (BitVec.ofNat 7 (fld word 5 7)) (BitVec.ofNat 2 (fld word 0 2)))
  else none

/-- Words of major VSEL (R25 to R29). -/
def parseVsel (word : Nat) : Option Instr :=
  if fld word 3 2 = 0 then
    some (.vsel (BitVec.ofNat 7 (fld word 19 7)) (BitVec.ofNat 7 (fld word 12 7)) (BitVec.ofNat 7 (fld word 5 7)) (BitVec.ofNat 3 (fld word 0 3)))
  else if fld word 0 12 = 8 then
    some (.vmov (BitVec.ofNat 7 (fld word 19 7)) (BitVec.ofNat 7 (fld word 12 7)))
  else if fld word 0 12 = 9 then
    some (.vmovScalar (BitVec.ofNat 7 (fld word 19 7)) (BitVec.ofNat 7 (fld word 12 7)))
  else if fld word 0 5 = 16 then
    some (.vmovi (BitVec.ofNat 7 (fld word 19 7)) (BitVec.ofNat 14 (fld word 5 14)))
  else if fld word 0 5 = 24 ∧ fld word 17 2 = 0 then
    some (.vsr (BitVec.ofNat 7 (fld word 19 7)) (BitVec.ofNat 12 (fld word 5 12)))
  else none

/-- Words of major VLD (R25 to R29). -/
def parseVld (word : Nat) : Option Instr :=
  (MemWidth.ofCode (fld word 2 3)).bind fun w => (Space.ofCode (fld word 0 2)).bind fun p => some (.vld (BitVec.ofNat 7 (fld word 19 7)) (BitVec.ofNat 7 (fld word 12 7)) (BitVec.ofNat 7 (fld word 5 7)) w p)

/-- Words of major VST (R25 to R29). -/
def parseVst (word : Nat) : Option Instr :=
  (MemWidth.ofCode (fld word 2 3)).bind fun w => (Space.ofCode (fld word 0 2)).bind fun p => some (.vst (BitVec.ofNat 7 (fld word 19 7)) (BitVec.ofNat 7 (fld word 12 7)) (BitVec.ofNat 7 (fld word 5 7)) w p)

/-- Words of major SMEM (R25 to R29). -/
def parseSmem (word : Nat) : Option Instr :=
  if fld word 12 1 = 0 then
    (MemWidth.ofCode (fld word 2 3)).bind fun w => (Space.ofCode (fld word 0 2)).bind fun p => some (.sld (BitVec.ofNat 7 (fld word 19 7)) (BitVec.ofNat 6 (fld word 13 6)) (BitVec.ofNat 7 (fld word 5 7)) w p)
  else if fld word 12 1 = 1 then
    (MemWidth.ofCode (fld word 2 3)).bind fun w => (Space.ofCode (fld word 0 2)).bind fun p => some (.sst (BitVec.ofNat 7 (fld word 19 7)) (BitVec.ofNat 6 (fld word 13 6)) (BitVec.ofNat 7 (fld word 5 7)) w p)
  else none

/-- Words of major VATOM (R25 to R29). -/
def parseVatom (word : Nat) : Option Instr :=
  if fld word 1 4 = 0 then
    some (.vatomAddN32 (BitVec.ofNat 7 (fld word 19 7)) (BitVec.ofNat 7 (fld word 12 7)) (BitVec.ofNat 7 (fld word 5 7)) (flagOf (fld word 0 1)))
  else if fld word 1 4 = 1 then
    some (.vatomAddF32 (BitVec.ofNat 7 (fld word 19 7)) (BitVec.ofNat 7 (fld word 12 7)) (BitVec.ofNat 7 (fld word 5 7)) (flagOf (fld word 0 1)))
  else if fld word 1 4 = 2 then
    some (.vatomMinI32 (BitVec.ofNat 7 (fld word 19 7)) (BitVec.ofNat 7 (fld word 12 7)) (BitVec.ofNat 7 (fld word 5 7)) (flagOf (fld word 0 1)))
  else if fld word 1 4 = 3 then
    some (.vatomMinN32 (BitVec.ofNat 7 (fld word 19 7)) (BitVec.ofNat 7 (fld word 12 7)) (BitVec.ofNat 7 (fld word 5 7)) (flagOf (fld word 0 1)))
  else if fld word 1 4 = 4 then
    some (.vatomMaxI32 (BitVec.ofNat 7 (fld word 19 7)) (BitVec.ofNat 7 (fld word 12 7)) (BitVec.ofNat 7 (fld word 5 7)) (flagOf (fld word 0 1)))
  else if fld word 1 4 = 5 then
    some (.vatomMaxN32 (BitVec.ofNat 7 (fld word 19 7)) (BitVec.ofNat 7 (fld word 12 7)) (BitVec.ofNat 7 (fld word 5 7)) (flagOf (fld word 0 1)))
  else if fld word 1 4 = 6 then
    some (.vatomAnd (BitVec.ofNat 7 (fld word 19 7)) (BitVec.ofNat 7 (fld word 12 7)) (BitVec.ofNat 7 (fld word 5 7)) (flagOf (fld word 0 1)))
  else if fld word 1 4 = 7 then
    some (.vatomOr (BitVec.ofNat 7 (fld word 19 7)) (BitVec.ofNat 7 (fld word 12 7)) (BitVec.ofNat 7 (fld word 5 7)) (flagOf (fld word 0 1)))
  else if fld word 1 4 = 8 then
    some (.vatomXor (BitVec.ofNat 7 (fld word 19 7)) (BitVec.ofNat 7 (fld word 12 7)) (BitVec.ofNat 7 (fld word 5 7)) (flagOf (fld word 0 1)))
  else if fld word 1 4 = 9 then
    some (.vatomSwap (BitVec.ofNat 7 (fld word 19 7)) (BitVec.ofNat 7 (fld word 12 7)) (BitVec.ofNat 7 (fld word 5 7)) (flagOf (fld word 0 1)))
  else if fld word 1 4 = 10 then
    some (.vatomCas (BitVec.ofNat 7 (fld word 19 7)) (BitVec.ofNat 7 (fld word 12 7)) (BitVec.ofNat 7 (fld word 5 7)) (flagOf (fld word 0 1)))
  else if fld word 1 4 = 11 then
    some (.vatomAddN64 (BitVec.ofNat 7 (fld word 19 7)) (BitVec.ofNat 7 (fld word 12 7)) (BitVec.ofNat 7 (fld word 5 7)) (flagOf (fld word 0 1)))
  else none

/-- Words of major SATOM (R25 to R29). -/
def parseSatom (word : Nat) : Option Instr :=
  if fld word 1 4 = 0 then
    some (.satomAddN32 (BitVec.ofNat 7 (fld word 19 7)) (BitVec.ofNat 7 (fld word 12 7)) (BitVec.ofNat 7 (fld word 5 7)) (flagOf (fld word 0 1)))
  else if fld word 1 4 = 1 then
    some (.satomAddF32 (BitVec.ofNat 7 (fld word 19 7)) (BitVec.ofNat 7 (fld word 12 7)) (BitVec.ofNat 7 (fld word 5 7)) (flagOf (fld word 0 1)))
  else if fld word 1 4 = 2 then
    some (.satomMinI32 (BitVec.ofNat 7 (fld word 19 7)) (BitVec.ofNat 7 (fld word 12 7)) (BitVec.ofNat 7 (fld word 5 7)) (flagOf (fld word 0 1)))
  else if fld word 1 4 = 3 then
    some (.satomMinN32 (BitVec.ofNat 7 (fld word 19 7)) (BitVec.ofNat 7 (fld word 12 7)) (BitVec.ofNat 7 (fld word 5 7)) (flagOf (fld word 0 1)))
  else if fld word 1 4 = 4 then
    some (.satomMaxI32 (BitVec.ofNat 7 (fld word 19 7)) (BitVec.ofNat 7 (fld word 12 7)) (BitVec.ofNat 7 (fld word 5 7)) (flagOf (fld word 0 1)))
  else if fld word 1 4 = 5 then
    some (.satomMaxN32 (BitVec.ofNat 7 (fld word 19 7)) (BitVec.ofNat 7 (fld word 12 7)) (BitVec.ofNat 7 (fld word 5 7)) (flagOf (fld word 0 1)))
  else if fld word 1 4 = 6 then
    some (.satomAnd (BitVec.ofNat 7 (fld word 19 7)) (BitVec.ofNat 7 (fld word 12 7)) (BitVec.ofNat 7 (fld word 5 7)) (flagOf (fld word 0 1)))
  else if fld word 1 4 = 7 then
    some (.satomOr (BitVec.ofNat 7 (fld word 19 7)) (BitVec.ofNat 7 (fld word 12 7)) (BitVec.ofNat 7 (fld word 5 7)) (flagOf (fld word 0 1)))
  else if fld word 1 4 = 8 then
    some (.satomXor (BitVec.ofNat 7 (fld word 19 7)) (BitVec.ofNat 7 (fld word 12 7)) (BitVec.ofNat 7 (fld word 5 7)) (flagOf (fld word 0 1)))
  else if fld word 1 4 = 9 then
    some (.satomSwap (BitVec.ofNat 7 (fld word 19 7)) (BitVec.ofNat 7 (fld word 12 7)) (BitVec.ofNat 7 (fld word 5 7)) (flagOf (fld word 0 1)))
  else if fld word 1 4 = 10 then
    some (.satomCas (BitVec.ofNat 7 (fld word 19 7)) (BitVec.ofNat 7 (fld word 12 7)) (BitVec.ofNat 7 (fld word 5 7)) (flagOf (fld word 0 1)))
  else if fld word 1 4 = 11 then
    some (.satomAddN64 (BitVec.ofNat 7 (fld word 19 7)) (BitVec.ofNat 7 (fld word 12 7)) (BitVec.ofNat 7 (fld word 5 7)) (flagOf (fld word 0 1)))
  else none

/-- Words of major FENCE (R25 to R29). -/
def parseFence (word : Nat) : Option Instr :=
  if fld word 0 13 = 0 ∧ fld word 24 2 = 0 then
    (Scope.ofCode (fld word 13 3)).bind fun c => some (.fence (BitVec.ofNat 4 (fld word 20 4)) (BitVec.ofNat 4 (fld word 16 4)) c)
  else if fld word 0 13 = 0 ∧ fld word 16 10 = 256 then
    (Scope.ofCode (fld word 13 3)).bind fun c => some (.fenceOwn c)
  else if fld word 0 13 = 0 ∧ fld word 16 10 = 512 then
    (Scope.ofCode (fld word 13 3)).bind fun c => some (.fenceFar c)
  else none

/-- Words of major QOP (R25 to R29). -/
def parseQop (word : Nat) : Option Instr :=
  if fld word 0 10 = 0 ∧ fld word 24 2 = 0 then
    some (.qpush (flagOf (fld word 23 1)) (BitVec.ofNat 3 (fld word 20 3)) (BitVec.ofNat 3 (fld word 17 3)) (BitVec.ofNat 7 (fld word 10 7)))
  else if fld word 0 10 = 0 ∧ fld word 24 2 = 1 then
    some (.qpop (flagOf (fld word 23 1)) (BitVec.ofNat 3 (fld word 20 3)) (BitVec.ofNat 3 (fld word 17 3)) (BitVec.ofNat 7 (fld word 10 7)))
  else if fld word 0 10 = 0 ∧ fld word 17 3 = 1 ∧ fld word 24 2 = 2 then
    some (.tqEnq (flagOf (fld word 23 1)) (BitVec.ofNat 3 (fld word 20 3)) (BitVec.ofNat 7 (fld word 10 7)))
  else if fld word 0 10 = 0 ∧ fld word 17 3 = 1 ∧ fld word 24 2 = 3 then
    some (.tqDeq (flagOf (fld word 23 1)) (BitVec.ofNat 3 (fld word 20 3)) (BitVec.ofNat 7 (fld word 10 7)))
  else none

/-- Words of major VER (R25 to R29). -/
def parseVer (word : Nat) : Option Instr :=
  if fld word 0 11 = 0 ∧ fld word 25 1 = 0 then
    some (.mint (BitVec.ofNat 7 (fld word 18 7)) (BitVec.ofNat 7 (fld word 11 7)))
  else if fld word 0 11 = 0 ∧ fld word 25 1 = 1 then
    some (.vpin (BitVec.ofNat 7 (fld word 18 7)) (BitVec.ofNat 7 (fld word 11 7)))
  else none

/-- Words of major XPUT (R25 to R29). -/
def parseXput (word : Nat) : Option Instr :=
  (MemWidth.ofCode (fld word 2 3)).bind fun w => some (.xput (BitVec.ofNat 7 (fld word 19 7)) (BitVec.ofNat 7 (fld word 12 7)) (BitVec.ofNat 7 (fld word 5 7)) w (BitVec.ofNat 2 (fld word 0 2)))

/-- Words of major CP (R25 to R29). -/
def parseCp (word : Nat) : Option Instr :=
  if fld word 0 3 = 0 ∧ fld word 24 2 = 0 then
    some (.cpTile (BitVec.ofNat 7 (fld word 17 7)) (BitVec.ofNat 7 (fld word 10 7)) (BitVec.ofNat 7 (fld word 3 7)))
  else if fld word 0 3 = 0 ∧ fld word 24 2 = 1 then
    some (.cpBdeck (BitVec.ofNat 7 (fld word 17 7)) (BitVec.ofNat 7 (fld word 10 7)) (BitVec.ofNat 7 (fld word 3 7)))
  else if fld word 0 3 = 0 ∧ fld word 24 2 = 2 then
    some (.cpStore (BitVec.ofNat 7 (fld word 17 7)) (BitVec.ofNat 7 (fld word 10 7)) (BitVec.ofNat 7 (fld word 3 7)))
  else if fld word 0 3 = 0 ∧ fld word 24 2 = 3 then
    some (.cpCopy (BitVec.ofNat 7 (fld word 17 7)) (BitVec.ofNat 7 (fld word 10 7)) (BitVec.ofNat 7 (fld word 3 7)))
  else none

/-- Words of major TILE (R25 to R29). -/
def parseTile (word : Nat) : Option Instr :=
  if fld word 0 10 = 0 ∧ fld word 24 2 = 0 then
    some (.tdef (BitVec.ofNat 7 (fld word 17 7)) (BitVec.ofNat 7 (fld word 10 7)))
  else if fld word 0 17 = 0 ∧ fld word 24 2 = 1 then
    some (.tfree (BitVec.ofNat 7 (fld word 17 7)))
  else if fld word 0 10 = 0 ∧ fld word 24 2 = 2 then
    some (.tstat (BitVec.ofNat 7 (fld word 17 7)) (BitVec.ofNat 7 (fld word 10 7)))
  else none

/-- Words of major TEX (R25 to R29). -/
def parseTex (word : Nat) : Option Instr :=
  if fld word 0 5 = 0 then
    some (.tex3 (BitVec.ofNat 7 (fld word 19 7)) (BitVec.ofNat 7 (fld word 12 7)) (BitVec.ofNat 7 (fld word 5 7)))
  else if fld word 0 5 = 1 then
    some (.texp (BitVec.ofNat 7 (fld word 19 7)) (BitVec.ofNat 7 (fld word 12 7)) (BitVec.ofNat 7 (fld word 5 7)))
  else none

/-- Words of major ISECT (R25 to R29). -/
def parseIsect (word : Nat) : Option Instr :=
  if fld word 0 5 = 0 then
    some (.isectRay (BitVec.ofNat 7 (fld word 19 7)) (BitVec.ofNat 7 (fld word 12 7)) (BitVec.ofNat 7 (fld word 5 7)))
  else if fld word 0 5 = 1 then
    some (.isectTile (BitVec.ofNat 7 (fld word 19 7)) (BitVec.ofNat 7 (fld word 12 7)) (BitVec.ofNat 7 (fld word 5 7)))
  else if fld word 0 19 = 2 then
    some (.isectNext (BitVec.ofNat 7 (fld word 19 7)))
  else none

/-- Words of major HASH (R25 to R29). -/
def parseHash (word : Nat) : Option Instr :=
  if fld word 0 12 = 0 ∧ fld word 19 7 = 0 then
    some (.hdesc (BitVec.ofNat 7 (fld word 12 7)))
  else if fld word 0 12 = 1 then
    some (.hgath (BitVec.ofNat 7 (fld word 19 7)) (BitVec.ofNat 7 (fld word 12 7)))
  else if fld word 0 5 = 2 ∧ fld word 19 7 = 0 then
    some (.hscat (BitVec.ofNat 7 (fld word 12 7)) (BitVec.ofNat 7 (fld word 5 7)))
  else none

/-- Words of major VAULT (R25 to R29). -/
def parseVault (word : Nat) : Option Instr :=
  if fld word 0 6 = 0 ∧ fld word 25 1 = 0 then
    some (.vaccRd (BitVec.ofNat 7 (fld word 18 7)) (BitVec.ofNat 7 (fld word 11 7)) (BitVec.ofNat 2 (fld word 9 2)) (BitVec.ofNat 3 (fld word 6 3)))
  else if fld word 0 6 = 0 ∧ fld word 25 1 = 1 then
    some (.vaccWr (BitVec.ofNat 7 (fld word 18 7)) (BitVec.ofNat 7 (fld word 11 7)) (BitVec.ofNat 2 (fld word 9 2)) (BitVec.ofNat 3 (fld word 6 3)))
  else none

/-- Stream words of major MMA (R25, R30). -/
def parseMma (word : Nat) : Option StreamOp :=
  if fld word 0 4 = 0 ∧ fld word 22 4 = 0 then
    some (.mmaE4m3E4m3 (flagOf (fld word 21 1)) (BitVec.ofNat 7 (fld word 14 7)) (BitVec.ofNat 7 (fld word 7 7)) (BitVec.ofNat 3 (fld word 4 3)))
  else if fld word 0 4 = 0 ∧ fld word 22 4 = 1 then
    some (.mmaE4m3E5m2 (flagOf (fld word 21 1)) (BitVec.ofNat 7 (fld word 14 7)) (BitVec.ofNat 7 (fld word 7 7)) (BitVec.ofNat 3 (fld word 4 3)))
  else if fld word 0 4 = 0 ∧ fld word 22 4 = 2 then
    some (.mmaE5m2E4m3 (flagOf (fld word 21 1)) (BitVec.ofNat 7 (fld word 14 7)) (BitVec.ofNat 7 (fld word 7 7)) (BitVec.ofNat 3 (fld word 4 3)))
  else if fld word 0 4 = 0 ∧ fld word 22 4 = 3 then
    some (.mmaE5m2E5m2 (flagOf (fld word 21 1)) (BitVec.ofNat 7 (fld word 14 7)) (BitVec.ofNat 7 (fld word 7 7)) (BitVec.ofNat 3 (fld word 4 3)))
  else if fld word 0 4 = 0 ∧ fld word 22 4 = 4 then
    some (.mmaI8 (flagOf (fld word 21 1)) (BitVec.ofNat 7 (fld word 14 7)) (BitVec.ofNat 7 (fld word 7 7)) (BitVec.ofNat 3 (fld word 4 3)))
  else if fld word 0 4 = 0 ∧ fld word 22 4 = 5 then
    some (.mmaBf16 (flagOf (fld word 21 1)) (BitVec.ofNat 7 (fld word 14 7)) (BitVec.ofNat 7 (fld word 7 7)) (BitVec.ofNat 3 (fld word 4 3)))
  else if fld word 0 4 = 0 ∧ fld word 22 4 = 6 then
    some (.mmaF16 (flagOf (fld word 21 1)) (BitVec.ofNat 7 (fld word 14 7)) (BitVec.ofNat 7 (fld word 7 7)) (BitVec.ofNat 3 (fld word 4 3)))
  else if fld word 0 4 = 0 ∧ fld word 22 4 = 7 then
    some (.mmaTriI8 (flagOf (fld word 21 1)) (BitVec.ofNat 7 (fld word 14 7)) (BitVec.ofNat 7 (fld word 7 7)) (BitVec.ofNat 3 (fld word 4 3)))
  else none

/-- Stream words of major MMAP (R25, R30). -/
def parseMmap (word : Nat) : Option StreamOp :=
  if fld word 0 4 = 0 ∧ fld word 24 2 = 0 then
    some (.mmapShape (BitVec.ofNat 3 (fld word 21 3)) (BitVec.ofNat 8 (fld word 13 8)) (BitVec.ofNat 9 (fld word 4 9)))
  else if fld word 24 2 = 1 then
    some (.mmapK (BitVec.ofNat 3 (fld word 21 3)) (BitVec.ofNat 13 (fld word 8 13)) (BitVec.ofNat 8 (fld word 0 8)))
  else if fld word 0 9 = 0 ∧ fld word 24 2 = 2 then
    some (.mmapAcc (BitVec.ofNat 3 (fld word 21 3)) (BitVec.ofNat 10 (fld word 11 10)) (flagOf (fld word 10 1)) (flagOf (fld word 9 1)))
  else none

/-- Stream words of major MACC (R25, R30). -/
def parseMacc (word : Nat) : Option StreamOp :=
  if fld word 0 4 = 0 ∧ fld word 25 1 = 0 then
    some (.macz (BitVec.ofNat 10 (fld word 15 10)) (BitVec.ofNat 11 (fld word 4 11)))
  else if fld word 0 10 = 0 ∧ fld word 25 1 = 1 then
    (MsclMode.ofCode (fld word 10 2)).bind fun m => some (.mscl (BitVec.ofNat 3 (fld word 22 3)) (BitVec.ofNat 3 (fld word 19 3)) (BitVec.ofNat 7 (fld word 12 7)) m)
  else none

/-- Stream words of major MCTL (R25, R30). -/
def parseMctl (word : Nat) : Option StreamOp :=
  if fld word 4 22 = 0 then
    some (.mbarWait (BitVec.ofNat 4 (fld word 0 4)))
  else if fld word 4 22 = 524288 then
    some (.mbarSig (BitVec.ofNat 4 (fld word 0 4)))
  else if fld word 23 3 = 2 then
    some (.mloop (BitVec.ofNat 2 (fld word 21 2)) (BitVec.ofNat 21 (fld word 0 21)))
  else if fld word 0 26 = 25165824 then
    some (.mend)
  else if fld word 0 26 = 33554432 then
    some (.mhalt)
  else if fld word 7 19 = 327680 then
    some (.mrel (BitVec.ofNat 7 (fld word 0 7)))
  else if fld word 23 3 = 6 then
    some (.mset (BitVec.ofNat 2 (fld word 21 2)) (BitVec.ofNat 21 (fld word 0 21)))
  else none

/-- Hint words (R18). -/
def parseHint (word : Nat) : Option Instr :=
  if fld word 24 2 = 0 then
    some (.pfx (BitVec.ofNat 24 (fld word 0 24)))
  else if fld word 24 2 = 1 ∧ fld word 0 3 = 0 then
    (Rnd.ofCode (fld word 13 3)).bind fun rnd => some (.mod { vce := flagOf (fld word 23 1), vc := BitVec.ofNat 7 (fld word 16 7), rnd := rnd, sat := flagOf (fld word 12 1), ftz := flagOf (fld word 11 1), cpol := BitVec.ofNat 2 (fld word 9 2), w := flagOf (fld word 8 1), pk := BitVec.ofNat 2 (fld word 6 2), split := flagOf (fld word 5 1), na := flagOf (fld word 4 1), nc := flagOf (fld word 3 1) })
  else if fld word 0 16 = 0 ∧ fld word 24 2 = 2 then
    some (.sch (flagOf (fld word 23 1)) (BitVec.ofNat 3 (fld word 20 3)) (BitVec.ofNat 4 (fld word 16 4)))
  else none

/-- Chunk words of operation 1 (R183). -/
def parseChunkSend (word : Nat) : Option ChunkOp :=
  if fld word 0 4 = 0 ∧ fld word 8 8 = 0 then
    some (.send (BitVec.ofNat 4 (fld word 24 4)) (BitVec.ofNat 4 (fld word 20 4)) (BitVec.ofNat 4 (fld word 16 4)) (BitVec.ofNat 4 (fld word 4 4)))
  else none

/-- Chunk words of operation 2 (R183). -/
def parseChunkRecv (word : Nat) : Option ChunkOp :=
  if fld word 0 4 = 0 ∧ fld word 8 8 = 0 then
    some (.recv (BitVec.ofNat 4 (fld word 24 4)) (BitVec.ofNat 4 (fld word 20 4)) (BitVec.ofNat 4 (fld word 16 4)) (BitVec.ofNat 4 (fld word 4 4)))
  else none

/-- Chunk words of operation 3 (R183). -/
def parseChunkRed (word : Nat) : Option ChunkOp :=
  if fld word 0 4 = 0 then
    some (.redAddF32 (BitVec.ofNat 4 (fld word 24 4)) (BitVec.ofNat 4 (fld word 20 4)) (BitVec.ofNat 4 (fld word 16 4)) (BitVec.ofNat 4 (fld word 12 4)) (BitVec.ofNat 4 (fld word 8 4)) (BitVec.ofNat 4 (fld word 4 4)))
  else if fld word 0 4 = 1 then
    some (.redAddI32 (BitVec.ofNat 4 (fld word 24 4)) (BitVec.ofNat 4 (fld word 20 4)) (BitVec.ofNat 4 (fld word 16 4)) (BitVec.ofNat 4 (fld word 12 4)) (BitVec.ofNat 4 (fld word 8 4)) (BitVec.ofNat 4 (fld word 4 4)))
  else if fld word 0 4 = 2 then
    some (.redMinF32 (BitVec.ofNat 4 (fld word 24 4)) (BitVec.ofNat 4 (fld word 20 4)) (BitVec.ofNat 4 (fld word 16 4)) (BitVec.ofNat 4 (fld word 12 4)) (BitVec.ofNat 4 (fld word 8 4)) (BitVec.ofNat 4 (fld word 4 4)))
  else if fld word 0 4 = 3 then
    some (.redMaxF32 (BitVec.ofNat 4 (fld word 24 4)) (BitVec.ofNat 4 (fld word 20 4)) (BitVec.ofNat 4 (fld word 16 4)) (BitVec.ofNat 4 (fld word 12 4)) (BitVec.ofNat 4 (fld word 8 4)) (BitVec.ofNat 4 (fld word 4 4)))
  else if fld word 0 4 = 4 then
    some (.redMinI32 (BitVec.ofNat 4 (fld word 24 4)) (BitVec.ofNat 4 (fld word 20 4)) (BitVec.ofNat 4 (fld word 16 4)) (BitVec.ofNat 4 (fld word 12 4)) (BitVec.ofNat 4 (fld word 8 4)) (BitVec.ofNat 4 (fld word 4 4)))
  else if fld word 0 4 = 5 then
    some (.redMaxI32 (BitVec.ofNat 4 (fld word 24 4)) (BitVec.ofNat 4 (fld word 20 4)) (BitVec.ofNat 4 (fld word 16 4)) (BitVec.ofNat 4 (fld word 12 4)) (BitVec.ofNat 4 (fld word 8 4)) (BitVec.ofNat 4 (fld word 4 4)))
  else if fld word 0 4 = 6 then
    some (.redAndB32 (BitVec.ofNat 4 (fld word 24 4)) (BitVec.ofNat 4 (fld word 20 4)) (BitVec.ofNat 4 (fld word 16 4)) (BitVec.ofNat 4 (fld word 12 4)) (BitVec.ofNat 4 (fld word 8 4)) (BitVec.ofNat 4 (fld word 4 4)))
  else if fld word 0 4 = 7 then
    some (.redOrB32 (BitVec.ofNat 4 (fld word 24 4)) (BitVec.ofNat 4 (fld word 20 4)) (BitVec.ofNat 4 (fld word 16 4)) (BitVec.ofNat 4 (fld word 12 4)) (BitVec.ofNat 4 (fld word 8 4)) (BitVec.ofNat 4 (fld word 4 4)))
  else none

/-- Chunk words of operation 4 (R183). -/
def parseChunkCopy (word : Nat) : Option ChunkOp :=
  if fld word 0 8 = 0 ∧ fld word 24 4 = 0 then
    some (.drafelCopy (BitVec.ofNat 4 (fld word 20 4)) (BitVec.ofNat 4 (fld word 16 4)) (BitVec.ofNat 4 (fld word 12 4)) (BitVec.ofNat 4 (fld word 8 4)))
  else none

/-- Chunk words of operation 5 (R183). Bits that the table gives to the other fn must be zero (log entry 131). -/
def parseChunkWait (word : Nat) : Option ChunkOp :=
  if fld word 6 22 = 0 then
    some (.waitOps (BitVec.ofNat 6 (fld word 0 6)))
  else if fld word 0 12 = 0 ∧ fld word 24 4 = 4 then
    some (.waitGe (BitVec.ofNat 4 (fld word 20 4)) (BitVec.ofNat 4 (fld word 16 4)) (BitVec.ofNat 4 (fld word 12 4)))
  else none

/-- Chunk words of operation 6 (R183). -/
def parseChunkSig (word : Nat) : Option ChunkOp :=
  if fld word 0 12 = 0 ∧ fld word 24 4 = 0 then
    some (.sig (BitVec.ofNat 4 (fld word 20 4)) (BitVec.ofNat 4 (fld word 16 4)) (BitVec.ofNat 4 (fld word 12 4)))
  else none

/-- Chunk words of operation 7 (R183). -/
def parseChunkLoop (word : Nat) : Option ChunkOp :=
  if fld word 21 3 = 0 then
    some (.loop (BitVec.ofNat 4 (fld word 24 4)) (BitVec.ofNat 21 (fld word 0 21)))
  else none

/-- Chunk words of operation 8 (R183). -/
def parseChunkKick (word : Nat) : Option ChunkOp :=
  if fld word 0 4 = 0 ∧ fld word 8 4 = 0 ∧ fld word 24 2 = 0 then
    some (.kick (BitVec.ofNat 2 (fld word 26 2)) (BitVec.ofNat 4 (fld word 20 4)) (BitVec.ofNat 4 (fld word 16 4)) (BitVec.ofNat 4 (fld word 12 4)) (BitVec.ofNat 4 (fld word 4 4)))
  else none

/-- Chunk words of operation 9 (R183). -/
def parseChunkSetd (word : Nat) : Option ChunkOp :=
  some (.setd (BitVec.ofNat 4 (fld word 24 4)) (BitVec.ofNat 24 (fld word 0 24)))

/-- Chunk words of operation 10 (R183). -/
def parseChunkAddd (word : Nat) : Option ChunkOp :=
  some (.addd (BitVec.ofNat 4 (fld word 24 4)) (BitVec.ofNat 4 (fld word 20 4)) (BitVec.ofNat 20 (fld word 0 20)))

/-- Chunk words of operation 11 (R183). -/
def parseChunkBrd (word : Nat) : Option ChunkOp :=
  (BrdCond.ofCode (fld word 21 3)).bind fun c => some (.brd (BitVec.ofNat 4 (fld word 24 4)) c (BitVec.ofNat 21 (fld word 0 21)))

/-- Chunk words of operation 12 (R183). -/
def parseChunkHalt (word : Nat) : Option ChunkOp :=
  if fld word 0 28 = 0 then
    some (.drafelHalt)
  else none

/-- Chunk words of operation 13 (R183). -/
def parseChunkNop (word : Nat) : Option ChunkOp :=
  if fld word 0 28 = 0 then
    some (.drafelNop)
  else none

/-- The row of the opcode table that a wave word matches, hint words apart (R11). -/
def parseWave (word : Nat) : Option Instr :=
  match fld word 26 6 with
  | 1 => parseSop word
  | 2 => parseSopi word
  | 3 => parseSmovi word
  | 4 => parseSsr word
  | 5 => parseBr word
  | 6 => parseJmp word
  | 7 => parseVbr word
  | 8 => parsePath word
  | 9 => parseSync word
  | 10 => parseSys word
  | 11 => parseReg word
  | 16 => parseVop word
  | 17 => parseVopi word
  | 18 => parseVfop word
  | 19 => parseVfma word
  | 20 => parseVsfu word
  | 21 => parseVcvt word
  | 22 => parseVxl word
  | 23 => parseVcmp word
  | 24 => parseKop word
  | 25 => parseVnf word
  | 26 => parseVsel word
  | 32 => parseVld word
  | 33 => parseVst word
  | 34 => parseSmem word
  | 35 => parseVatom word
  | 36 => parseSatom word
  | 37 => parseFence word
  | 38 => parseQop word
  | 39 => parseVer word
  | 40 => parseXput word
  | 41 => parseCp word
  | 42 => parseTile word
  | 43 => parseTex word
  | 44 => parseIsect word
  | 45 => parseHash word
  | 46 => parseVault word
  | _ => none

/-- The row that a stream word matches (R12). -/
def parseStream (word : Nat) : Option StreamOp :=
  match fld word 26 6 with
  | 48 => parseMma word
  | 49 => parseMmap word
  | 50 => parseMacc word
  | 51 => parseMctl word
  | _ => none

/-- The row that a hint word matches (R18). -/
def parseHintWord (word : Nat) : Option Instr :=
  match fld word 26 6 with
  | 63 => parseHint word
  | _ => none

/-- The row that a chunk word matches (R183, R184). -/
def parseChunk (word : Nat) : Option ChunkOp :=
  match fld word 28 4 with
  | 1 => parseChunkSend word
  | 2 => parseChunkRecv word
  | 3 => parseChunkRed word
  | 4 => parseChunkCopy word
  | 5 => parseChunkWait word
  | 6 => parseChunkSig word
  | 7 => parseChunkLoop word
  | 8 => parseChunkKick word
  | 9 => parseChunkSetd word
  | 10 => parseChunkAddd word
  | 11 => parseChunkBrd word
  | 12 => parseChunkHalt word
  | 13 => parseChunkNop word
  | _ => none

/-- The constructor of `Instr` that a StreamOp stands for. The code generator holds no constructor of that number, so this
map has no compiled code; the step uses the StreamOp itself. -/
noncomputable def StreamOp.toInstr : StreamOp → Instr
  | .mmaE4m3E4m3 z a b m => .mmaE4m3E4m3 z a b m
  | .mmaE4m3E5m2 z a b m => .mmaE4m3E5m2 z a b m
  | .mmaE5m2E4m3 z a b m => .mmaE5m2E4m3 z a b m
  | .mmaE5m2E5m2 z a b m => .mmaE5m2E5m2 z a b m
  | .mmaI8 z a b m => .mmaI8 z a b m
  | .mmaBf16 z a b m => .mmaBf16 z a b m
  | .mmaF16 z a b m => .mmaF16 z a b m
  | .mmaTriI8 z a b m => .mmaTriI8 z a b m
  | .mmapShape m x y => .mmapShape m x y
  | .mmapK m k o => .mmapK m k o
  | .mmapAcc m r a b => .mmapAcc m r a b
  | .macz r c => .macz r c
  | .mscl d s t m => .mscl d s t m
  | .mbarWait n => .mbarWait n
  | .mbarSig n => .mbarSig n
  | .mloop c o => .mloop c o
  | .mend => .mend
  | .mhalt => .mhalt
  | .mrel t => .mrel t
  | .mset c i => .mset c i

/-- The constructor of `Instr` that a ChunkOp stands for. The code generator holds no constructor of that number, so this
map has no compiled code; the step uses the ChunkOp itself. -/
noncomputable def ChunkOp.toInstr : ChunkOp → Instr
  | .send p b d c => .send p b d c
  | .recv p b d c => .recv p b d c
  | .redAddF32 m b d s e c => .redAddF32 m b d s e c
  | .redAddI32 m b d s e c => .redAddI32 m b d s e c
  | .redMinF32 m b d s e c => .redMinF32 m b d s e c
  | .redMaxF32 m b d s e c => .redMaxF32 m b d s e c
  | .redMinI32 m b d s e c => .redMinI32 m b d s e c
  | .redMaxI32 m b d s e c => .redMaxI32 m b d s e c
  | .redAndB32 m b d s e c => .redAndB32 m b d s e c
  | .redOrB32 m b d s e c => .redOrB32 m b d s e c
  | .drafelCopy b d s e => .drafelCopy b d s e
  | .waitOps n => .waitOps n
  | .waitGe b d v => .waitGe b d v
  | .sig b d v => .sig b d v
  | .loop d o => .loop d o
  | .kick k c b x h => .kick k c b x h
  | .setd d i => .setd d i
  | .addd d s i => .addd d s i
  | .brd d c o => .brd d c o
  | .drafelHalt => .drafelHalt
  | .drafelNop => .drafelNop

/-- Whether a stream word's fields hold values in range (R30). -/
def StreamOp.wf : StreamOp → Bool
  | .mmaE4m3E4m3 _ _ _ _ => true
  | .mmaE4m3E5m2 _ _ _ _ => true
  | .mmaE5m2E4m3 _ _ _ _ => true
  | .mmaE5m2E5m2 _ _ _ _ => true
  | .mmaI8 _ _ _ _ => true
  | .mmaBf16 _ _ _ _ => true
  | .mmaF16 _ _ _ _ => true
  | .mmaTriI8 _ _ _ _ => true
  | .mmapShape _ x y => decide (x.toNat ≤ 128) && decide (y.toNat ≤ 384)
  | .mmapK _ _ _ => true
  | .mmapAcc _ _ _ _ => true
  | .macz _ c => decide (c.toNat ≤ 1024)
  | .mscl _ _ _ _ => true
  | .mbarWait _ => true
  | .mbarSig _ => true
  | .mloop _ _ => true
  | .mend => true
  | .mhalt => true
  | .mrel _ => true
  | .mset _ _ => true

/-- A parsed row is an instruction when its fields are legal (R11). -/
def accepted {α : Type} (legal : α → Bool) (p : Option α) : Except DecodeError α :=
  match p with
  | none => .error .unlisted
  | some i => if legal i then .ok i else .error .illegalField

/-- What a wave's path decodes from a word: an instruction or a hint word (R11, R18). -/
def decodeWave (w : Nat) : Except DecodeError Instr :=
  accepted Instr.wf (match parseWave w with | some i => some i | none => parseHintWord w)

/-- What a matrix sequencer decodes from a word (R12). -/
def decodeStream (w : Nat) : Except DecodeError StreamOp := accepted StreamOp.wf (parseStream w)

/-- What a clearing engine decodes from a word (R184). -/
def decodeChunk (w : Nat) : Except DecodeError ChunkOp := accepted (fun _ => true) (parseChunk w)

/-- The instruction a fetched word stands for, by the agents in the order wave, matrix sequencer, clearing engine: the
three instruction sets share the bit patterns (log entry 6). -/
noncomputable def decodeAny (w : Nat) : Except DecodeError Instr :=
  match decodeWave w with
  | .ok i => .ok i
  | .error _ =>
    match decodeStream w with
    | .ok i => .ok i.toInstr
    | .error _ =>
      match decodeChunk w with
      | .ok i => .ok i.toInstr
      | .error e => .error e

/-- The four bytes of a word in memory order: every value is little-endian (R10, R37). -/
def bytesOfWord (w : Nat) : List Byte :=
  [BitVec.ofNat 8 w, BitVec.ofNat 8 (w / 2 ^ 8), BitVec.ofNat 8 (w / 2 ^ 16), BitVec.ofNat 8 (w / 2 ^ 24)]

/-- The number that bytes in memory order hold (R37). -/
def numOfBytes : List Byte → Nat
  | [] => 0
  | b :: bs => b.toNat + 256 * numOfBytes bs

/-- The instruction that a table word of `nbits` bits stands for: its bytes as the hardware stores them, decoded. -/
noncomputable def decodeTableWord (nbits w : Nat) : Option Instr :=
  match decodeAny (numOfBytes (bytesOfWord (w % 2 ^ nbits))) with
  | .ok i => some i
  | .error _ => none

/-- A word with fields added at their places (R25). -/
def enc0 (b : Nat) : Nat := b
def enc1 (b x i : Nat) : Nat := b + x * 2 ^ i
def enc2 (b x i y j : Nat) : Nat := b + x * 2 ^ i + y * 2 ^ j
def enc3 (b x i y j z k : Nat) : Nat := b + x * 2 ^ i + y * 2 ^ j + z * 2 ^ k
def enc4 (b x i y j z k u l : Nat) : Nat := b + x * 2 ^ i + y * 2 ^ j + z * 2 ^ k + u * 2 ^ l
def enc5 (b x i y j z k u l v m : Nat) : Nat := b + x * 2 ^ i + y * 2 ^ j + z * 2 ^ k + u * 2 ^ l + v * 2 ^ m
def enc6 (b x i y j z k u l v m t n : Nat) : Nat :=
  b + x * 2 ^ i + y * 2 ^ j + z * 2 ^ k + u * 2 ^ l + v * 2 ^ m + t * 2 ^ n

/-- The word of an instruction, as a number (R25 to R30, R183). Events have no word; their value here is 0, which no
agent decodes. -/
def encodeWord : Instr → Nat
  | .sadd d a b => enc3 0x04000000 d.toNat 19 a.toNat 12 b.toNat 5
  | .ssub d a b => enc3 0x04000001 d.toNat 19 a.toNat 12 b.toNat 5
  | .smul d a b => enc3 0x04000002 d.toNat 19 a.toNat 12 b.toNat 5
  | .smulhI32 d a b => enc3 0x04000003 d.toNat 19 a.toNat 12 b.toNat 5
  | .smulhN32 d a b => enc3 0x04000004 d.toNat 19 a.toNat 12 b.toNat 5
  | .sdivI32 d a b => enc3 0x04000005 d.toNat 19 a.toNat 12 b.toNat 5
  | .sdivN32 d a b => enc3 0x04000006 d.toNat 19 a.toNat 12 b.toNat 5
  | .sremI32 d a b => enc3 0x04000007 d.toNat 19 a.toNat 12 b.toNat 5
  | .sremN32 d a b => enc3 0x04000008 d.toNat 19 a.toNat 12 b.toNat 5
  | .sand d a b => enc3 0x04000009 d.toNat 19 a.toNat 12 b.toNat 5
  | .sor d a b => enc3 0x0400000A d.toNat 19 a.toNat 12 b.toNat 5
  | .sxor d a b => enc3 0x0400000B d.toNat 19 a.toNat 12 b.toNat 5
  | .sandn d a b => enc3 0x0400000C d.toNat 19 a.toNat 12 b.toNat 5
  | .sshl d a b => enc3 0x0400000D d.toNat 19 a.toNat 12 b.toNat 5
  | .sshr d a b => enc3 0x0400000E d.toNat 19 a.toNat 12 b.toNat 5
  | .ssra d a b => enc3 0x0400000F d.toNat 19 a.toNat 12 b.toNat 5
  | .sminI32 d a b => enc3 0x04000010 d.toNat 19 a.toNat 12 b.toNat 5
  | .sminN32 d a b => enc3 0x04000011 d.toNat 19 a.toNat 12 b.toNat 5
  | .smaxI32 d a b => enc3 0x04000012 d.toNat 19 a.toNat 12 b.toNat 5
  | .smaxN32 d a b => enc3 0x04000013 d.toNat 19 a.toNat 12 b.toNat 5
  | .smov d a => enc2 0x04000014 d.toNat 19 a.toNat 12
  | .spopc d a => enc2 0x04000034 d.toNat 19 a.toNat 12
  | .sclz d a => enc2 0x04000054 d.toNat 19 a.toNat 12
  | .sctz d a => enc2 0x04000074 d.toNat 19 a.toNat 12
  | .sbrev d a => enc2 0x04000094 d.toNat 19 a.toNat 12
  | .scmp c g a b => enc4 0x04000015 c.code 22 g.toNat 19 a.toNat 12 b.toNat 5
  | .slea d a b => enc3 0x04000016 d.toNat 19 a.toNat 12 b.toNat 5
  | .sbfi d a b => enc3 0x04000017 d.toNat 19 a.toNat 12 b.toNat 5
  | .ssel d a b n => enc4 0x04000018 d.toNat 19 a.toNat 12 b.toNat 5 n.toNat 0
  | .saddImm d w i => enc3 0x08000000 d.toNat 19 w.toNat 13 i.toNat 0
  | .smulImm d w i => enc3 0x08004000 d.toNat 19 w.toNat 13 i.toNat 0
  | .sandImm d w i => enc3 0x08008000 d.toNat 19 w.toNat 13 i.toNat 0
  | .sorImm d w i => enc3 0x0800C000 d.toNat 19 w.toNat 13 i.toNat 0
  | .sxorImm d w i => enc3 0x08010000 d.toNat 19 w.toNat 13 i.toNat 0
  | .sshlImm d w i => enc3 0x08014000 d.toNat 19 w.toNat 13 i.toNat 0
  | .sshrImm d w i => enc3 0x08018000 d.toNat 19 w.toNat 13 i.toNat 0
  | .ssraImm d w i => enc3 0x0801C000 d.toNat 19 w.toNat 13 i.toNat 0
  | .sminI32Imm d w i => enc3 0x08020000 d.toNat 19 w.toNat 13 i.toNat 0
  | .sminN32Imm d w i => enc3 0x08024000 d.toNat 19 w.toNat 13 i.toNat 0
  | .smaxI32Imm d w i => enc3 0x08028000 d.toNat 19 w.toNat 13 i.toNat 0
  | .smaxN32Imm d w i => enc3 0x0802C000 d.toNat 19 w.toNat 13 i.toNat 0
  | .smovImm d w i => enc3 0x08030000 d.toNat 19 w.toNat 13 i.toNat 0
  | .sbfeI32 d w i => enc3 0x08034000 d.toNat 19 w.toNat 13 i.toNat 0
  | .sbfeN32 d w i => enc3 0x08038000 d.toNat 19 w.toNat 13 i.toNat 0
  | .smovi d i => enc2 0x0C000000 d.toNat 20 i.toNat 0
  | .srd s n => enc2 0x10000000 s.toNat 19 n.toNat 0
  | .swr s n => enc2 0x10020000 s.toNat 19 n.toNat 0
  | .nfset s n => enc2 0x10040000 s.toNat 19 n.toNat 0
  | .br g o => enc2 0x14000000 g.toNat 22 o.toNat 0
  | .brn g o => enc2 0x16000000 g.toNat 22 o.toNat 0
  | .jmp o => enc1 0x18000000 o.toNat 0
  | .call o => enc1 0x18800000 o.toNat 0
  | .jmpReg a => enc1 0x19000000 a.toNat 12
  | .callReg a => enc1 0x19800000 a.toNat 12
  | .ret => enc0 0x1A000000
  | .vbr n k t j => enc4 0x1C000000 n.toNat 23 k.toNat 20 t.toNat 10 j.toNat 0
  | .vbrk n k => enc2 0x1D000000 n.toNat 23 k.toNat 20
  | .split n k t j => enc4 0x1E000000 n.toNat 23 k.toNat 20 t.toNat 10 j.toNat 0
  | .join => enc0 0x1F000000
  | .exit => enc0 0x20000000
  | .refill => enc0 0x20800000
  | .loan d a x y => enc4 0x21000000 d.toNat 16 a.toNat 9 x.toNat 6 y.toNat 0
  | .lnext d x => enc2 0x21800000 d.toNat 16 x.toNat 6
  | .repay d a r t => enc4 0x22000000 d.toNat 16 a.toNat 9 r.code 6 t.code 4
  | .ldone => enc0 0x22800000
  | .rgn => enc0 0x23000000
  | .barArrive n => enc1 0x24000000 n.toNat 0
  | .barWait n => enc1 0x24400000 n.toNat 0
  | .barSync n => enc1 0x24800000 n.toNat 0
  | .waitC l s c t => enc4 0x24C00000 l.toNat 16 s.toNat 10 c.toNat 6 t.toNat 2
  | .yield => enc0 0x25000000
  | .sleep i => enc1 0x25400000 i.toNat 0
  | .nop => enc0 0x25800000
  | .wpred => enc0 0x25C00000
  | .sucstart => enc0 0x26000000
  | .trap c => enc1 0x28000000 c.toNat 0
  | .eret => enc0 0x29000000
  | .halt => enc0 0x2A000000
  | .brkpt => enc0 0x2B000000
  | .claim n g c => enc3 0x2C000000 n.toNat 24 g.toNat 21 c.toNat 0
  | .giveback c => enc1 0x2E000000 c.toNat 0
  | .vadd d a b => enc3 0x40000000 d.toNat 19 a.toNat 12 b.toNat 5
  | .vsub d a b => enc3 0x40000001 d.toNat 19 a.toNat 12 b.toNat 5
  | .vmul d a b => enc3 0x40000002 d.toNat 19 a.toNat 12 b.toNat 5
  | .vmulhI32 d a b => enc3 0x40000003 d.toNat 19 a.toNat 12 b.toNat 5
  | .vmulhN32 d a b => enc3 0x40000004 d.toNat 19 a.toNat 12 b.toNat 5
  | .vmad d a b => enc3 0x40000005 d.toNat 19 a.toNat 12 b.toNat 5
  | .vand d a b => enc3 0x40000006 d.toNat 19 a.toNat 12 b.toNat 5
  | .vor d a b => enc3 0x40000007 d.toNat 19 a.toNat 12 b.toNat 5
  | .vxor d a b => enc3 0x40000008 d.toNat 19 a.toNat 12 b.toNat 5
  | .vandn d a b => enc3 0x40000009 d.toNat 19 a.toNat 12 b.toNat 5
  | .vshl d a b => enc3 0x4000000A d.toNat 19 a.toNat 12 b.toNat 5
  | .vshr d a b => enc3 0x4000000B d.toNat 19 a.toNat 12 b.toNat 5
  | .vsra d a b => enc3 0x4000000C d.toNat 19 a.toNat 12 b.toNat 5
  | .vminI32 d a b => enc3 0x4000000D d.toNat 19 a.toNat 12 b.toNat 5
  | .vminN32 d a b => enc3 0x4000000E d.toNat 19 a.toNat 12 b.toNat 5
  | .vmaxI32 d a b => enc3 0x4000000F d.toNat 19 a.toNat 12 b.toNat 5
  | .vmaxN32 d a b => enc3 0x40000010 d.toNat 19 a.toNat 12 b.toNat 5
  | .vabsdI32 d a b => enc3 0x40000011 d.toNat 19 a.toNat 12 b.toNat 5
  | .vabsdN32 d a b => enc3 0x40000012 d.toNat 19 a.toNat 12 b.toNat 5
  | .vpopc d a => enc2 0x40000013 d.toNat 19 a.toNat 12
  | .vclz d a => enc2 0x40000014 d.toNat 19 a.toNat 12
  | .vbrev d a => enc2 0x40000015 d.toNat 19 a.toNat 12
  | .vbfeI32 d a b => enc3 0x40000016 d.toNat 19 a.toNat 12 b.toNat 5
  | .vbfeN32 d a b => enc3 0x40000017 d.toNat 19 a.toNat 12 b.toNat 5
  | .vbfi d a b => enc3 0x40000018 d.toNat 19 a.toNat 12 b.toNat 5
  | .vaddImm d a i => enc3 0x44000000 d.toNat 19 a.toNat 12 i.toNat 0
  | .vmulImm d a i => enc3 0x44000100 d.toNat 19 a.toNat 12 i.toNat 0
  | .vandImm d a i => enc3 0x44000200 d.toNat 19 a.toNat 12 i.toNat 0
  | .vorImm d a i => enc3 0x44000300 d.toNat 19 a.toNat 12 i.toNat 0
  | .vxorImm d a i => enc3 0x44000400 d.toNat 19 a.toNat 12 i.toNat 0
  | .vandnImm d a i => enc3 0x44000500 d.toNat 19 a.toNat 12 i.toNat 0
  | .vshlImm d a i => enc3 0x44000600 d.toNat 19 a.toNat 12 i.toNat 0
  | .vshrImm d a i => enc3 0x44000700 d.toNat 19 a.toNat 12 i.toNat 0
  | .vsraImm d a i => enc3 0x44000800 d.toNat 19 a.toNat 12 i.toNat 0
  | .vminI32Imm d a i => enc3 0x44000900 d.toNat 19 a.toNat 12 i.toNat 0
  | .vminN32Imm d a i => enc3 0x44000A00 d.toNat 19 a.toNat 12 i.toNat 0
  | .vmaxI32Imm d a i => enc3 0x44000B00 d.toNat 19 a.toNat 12 i.toNat 0
  | .vmaxN32Imm d a i => enc3 0x44000C00 d.toNat 19 a.toNat 12 i.toNat 0
  | .vabsdI32Imm d a i => enc3 0x44000D00 d.toNat 19 a.toNat 12 i.toNat 0
  | .vabsdN32Imm d a i => enc3 0x44000E00 d.toNat 19 a.toNat 12 i.toNat 0
  | .vfadd d a b => enc3 0x48000000 d.toNat 19 a.toNat 12 b.toNat 5
  | .vfsub d a b => enc3 0x48000001 d.toNat 19 a.toNat 12 b.toNat 5
  | .vfmul d a b => enc3 0x48000002 d.toNat 19 a.toNat 12 b.toNat 5
  | .vfmin d a b => enc3 0x48000003 d.toNat 19 a.toNat 12 b.toNat 5
  | .vfmax d a b => enc3 0x48000004 d.toNat 19 a.toNat 12 b.toNat 5
  | .vfscale d a b => enc3 0x48000005 d.toNat 19 a.toNat 12 b.toNat 5
  | .vfclass d a => enc2 0x48000006 d.toNat 19 a.toNat 12
  | .vhadd d a b => enc3 0x48000007 d.toNat 19 a.toNat 12 b.toNat 5
  | .vhmul d a b => enc3 0x48000008 d.toNat 19 a.toNat 12 b.toNat 5
  | .vffma d a b => enc3 0x4C000000 d.toNat 19 a.toNat 12 b.toNat 5
  | .vhfma d a b => enc3 0x4C000001 d.toNat 19 a.toNat 12 b.toNat 5
  | .vfrcp d a => enc2 0x50000000 d.toNat 19 a.toNat 12
  | .vfrsq d a => enc2 0x50000001 d.toNat 19 a.toNat 12
  | .vfsqrt d a => enc2 0x50000002 d.toNat 19 a.toNat 12
  | .vfdiv d a b => enc3 0x50000003 d.toNat 19 a.toNat 12 b.toNat 5
  | .vfexp2 d a => enc2 0x50000004 d.toNat 19 a.toNat 12
  | .vflog2 d a => enc2 0x50000005 d.toNat 19 a.toNat 12
  | .vfsin d a => enc2 0x50000006 d.toNat 19 a.toNat 12
  | .vfcos d a => enc2 0x50000007 d.toNat 19 a.toNat 12
  | .vfexp d a => enc2 0x50000008 d.toNat 19 a.toNat 12
  | .vfcvtF32I32 d a => enc2 0x54000000 d.toNat 19 a.toNat 12
  | .vfcvtF32N32 d a => enc2 0x54000001 d.toNat 19 a.toNat 12
  | .vfcvtI32F32 d a => enc2 0x54000002 d.toNat 19 a.toNat 12
  | .vfcvtN32F32 d a => enc2 0x54000003 d.toNat 19 a.toNat 12
  | .vfcvtF32F16 d a s => enc3 0x54000004 d.toNat 19 a.toNat 12 s.toNat 8
  | .vfcvtF16F32 d a s => enc3 0x54000005 d.toNat 19 a.toNat 12 s.toNat 8
  | .vfcvtF32Bf16 d a s => enc3 0x54000006 d.toNat 19 a.toNat 12 s.toNat 8
  | .vfcvtBf16F32 d a s => enc3 0x54000007 d.toNat 19 a.toNat 12 s.toNat 8
  | .vfcvtF32E4m3 d a s => enc3 0x54000008 d.toNat 19 a.toNat 12 s.toNat 8
  | .vfcvtE4m3F32 d a s => enc3 0x54000009 d.toNat 19 a.toNat 12 s.toNat 8
  | .vfcvtF32E5m2 d a s => enc3 0x5400000A d.toNat 19 a.toNat 12 s.toNat 8
  | .vfcvtE5m2F32 d a s => enc3 0x5400000B d.toNat 19 a.toNat 12 s.toNat 8
  | .vfcvtI32I8 d a s => enc3 0x5400000C d.toNat 19 a.toNat 12 s.toNat 8
  | .vfcvtI8I32 d a s => enc3 0x5400000D d.toNat 19 a.toNat 12 s.toNat 8
  | .vfcvtI32Tri d a s => enc3 0x5400000E d.toNat 19 a.toNat 12 s.toNat 8
  | .vfcvtTriI32 d a s => enc3 0x5400000F d.toNat 19 a.toNat 12 s.toNat 8
  | .vncvtF32 d a s n => enc4 0x54000010 d.toNat 19 a.toNat 12 s.toNat 8 n.toNat 6
  | .vncvtNf d a s n => enc4 0x54000011 d.toNat 19 a.toNat 12 s.toNat 8 n.toNat 6
  | .vfcvtI32I16 d a s => enc3 0x54000012 d.toNat 19 a.toNat 12 s.toNat 8
  | .vfcvtI16I32 d a s => enc3 0x54000013 d.toNat 19 a.toNat 12 s.toNat 8
  | .vfcvtN32N8 d a s => enc3 0x54000014 d.toNat 19 a.toNat 12 s.toNat 8
  | .vfcvtN8N32 d a s => enc3 0x54000015 d.toNat 19 a.toNat 12 s.toNat 8
  | .vfcvtN32N16 d a s => enc3 0x54000016 d.toNat 19 a.toNat 12 s.toNat 8
  | .vfcvtN16N32 d a s => enc3 0x54000017 d.toNat 19 a.toNat 12 s.toNat 8
  | .vshfl d a b => enc3 0x58000000 d.toNat 19 a.toNat 12 b.toNat 5
  | .vbfly d a m => enc3 0x58000001 d.toNat 19 a.toNat 12 m.toNat 5
  | .vbcast d a n => enc3 0x58000002 d.toNat 19 a.toNat 12 n.toNat 5
  | .vrfl d a => enc2 0x58000003 d.toNat 19 a.toNat 12
  | .vred d a o t => enc4 0x58000004 d.toNat 19 a.toNat 12 o.code 9 t.code 6
  | .vredmi d a t => enc3 0x58000005 d.toNat 19 a.toNat 12 t.code 6
  | .vscan d a o t x => enc5 0x58000006 d.toNat 19 a.toNat 12 o.code 9 t.code 6 x.toNat 5
  | .vnbr d a s k => enc4 0x58000007 d.toNat 19 a.toNat 12 s.code 10 k.toNat 5
  | .vddx d a k => enc3 0x58000008 d.toNat 19 a.toNat 12 k.toNat 5
  | .vddy d a k => enc3 0x58000009 d.toNat 19 a.toNat 12 k.toNat 5
  | .vballot d k => enc2 0x5800000A d.toNat 19 k.toNat 5
  | .vcount d k => enc2 0x5800000B d.toNat 19 k.toNat 5
  | .vcmpI32 k c a b m => enc5 0x5C000000 k.toNat 23 c.code 19 a.toNat 12 b.toNat 5 m.code 0
  | .vcmpN32 k c a b m => enc5 0x5C000004 k.toNat 23 c.code 19 a.toNat 12 b.toNat 5 m.code 0
  | .vfcmp k c a b m => enc5 0x5C000008 k.toNat 23 c.code 19 a.toNat 12 b.toNat 5 m.code 0
  | .kand d a b p => enc4 0x60000000 d.toNat 18 a.toNat 15 b.toNat 12 p.toNat 10
  | .kor d a b p => enc4 0x60200000 d.toNat 18 a.toNat 15 b.toNat 12 p.toNat 10
  | .kxor d a b p => enc4 0x60400000 d.toNat 18 a.toNat 15 b.toNat 12 p.toNat 10
  | .kandn d a b p => enc4 0x60600000 d.toNat 18 a.toNat 15 b.toNat 12 p.toNat 10
  | .knot d a p => enc3 0x60800000 d.toNat 18 a.toNat 15 p.toNat 10
  | .kmov d a p => enc3 0x60A00000 d.toNat 18 a.toNat 15 p.toNat 10
  | .kmovFromScalar d s => enc2 0x60A00800 d.toNat 18 s.toNat 3
  | .kmovToScalar a s => enc2 0x60A00C00 a.toNat 15 s.toNat 3
  | .kpop a s => enc2 0x60C00000 a.toNat 15 s.toNat 3
  | .kany d a => enc2 0x60E00000 d.toNat 18 a.toNat 15
  | .kall d a => enc2 0x61000000 d.toNat 18 a.toNat 15
  | .vnadd d a b n => enc4 0x64000000 d.toNat 19 a.toNat 12 b.toNat 5 n.toNat 0
  | .vnmul d a b n => enc4 0x64000004 d.toNat 19 a.toNat 12 b.toNat 5 n.toNat 0
  | .vnfma d a b n => enc4 0x64000008 d.toNat 19 a.toNat 12 b.toNat 5 n.toNat 0
  | .vsel d a b k => enc4 0x68000000 d.toNat 19 a.toNat 12 b.toNat 5 k.toNat 0
  | .vmov d a => enc2 0x68000008 d.toNat 19 a.toNat 12
  | .vmovScalar d a => enc2 0x68000009 d.toNat 19 a.toNat 12
  | .vmovi d i => enc2 0x68000010 d.toNat 19 i.toNat 5
  | .vsr d n => enc2 0x68000018 d.toNat 19 n.toNat 5
  | .vld d a s w p => enc5 0x80000000 d.toNat 19 a.toNat 12 s.toNat 5 w.code 2 p.code 0
  | .vst d a s w p => enc5 0x84000000 d.toNat 19 a.toNat 12 s.toNat 5 w.code 2 p.code 0
  | .sld d a o w p => enc5 0x88000000 d.toNat 19 a.toNat 13 o.toNat 5 w.code 2 p.code 0
  | .sst d a o w p => enc5 0x88001000 d.toNat 19 a.toNat 13 o.toNat 5 w.code 2 p.code 0
  | .vatomAddN32 d a s p => enc4 0x8C000000 d.toNat 19 a.toNat 12 s.toNat 5 p.toNat 0
  | .vatomAddF32 d a s p => enc4 0x8C000002 d.toNat 19 a.toNat 12 s.toNat 5 p.toNat 0
  | .vatomMinI32 d a s p => enc4 0x8C000004 d.toNat 19 a.toNat 12 s.toNat 5 p.toNat 0
  | .vatomMinN32 d a s p => enc4 0x8C000006 d.toNat 19 a.toNat 12 s.toNat 5 p.toNat 0
  | .vatomMaxI32 d a s p => enc4 0x8C000008 d.toNat 19 a.toNat 12 s.toNat 5 p.toNat 0
  | .vatomMaxN32 d a s p => enc4 0x8C00000A d.toNat 19 a.toNat 12 s.toNat 5 p.toNat 0
  | .vatomAnd d a s p => enc4 0x8C00000C d.toNat 19 a.toNat 12 s.toNat 5 p.toNat 0
  | .vatomOr d a s p => enc4 0x8C00000E d.toNat 19 a.toNat 12 s.toNat 5 p.toNat 0
  | .vatomXor d a s p => enc4 0x8C000010 d.toNat 19 a.toNat 12 s.toNat 5 p.toNat 0
  | .vatomSwap d a s p => enc4 0x8C000012 d.toNat 19 a.toNat 12 s.toNat 5 p.toNat 0
  | .vatomCas d a s p => enc4 0x8C000014 d.toNat 19 a.toNat 12 s.toNat 5 p.toNat 0
  | .vatomAddN64 d a s p => enc4 0x8C000016 d.toNat 19 a.toNat 12 s.toNat 5 p.toNat 0
  | .satomAddN32 d a o p => enc4 0x90000000 d.toNat 19 a.toNat 12 o.toNat 5 p.toNat 0
  | .satomAddF32 d a o p => enc4 0x90000002 d.toNat 19 a.toNat 12 o.toNat 5 p.toNat 0
  | .satomMinI32 d a o p => enc4 0x90000004 d.toNat 19 a.toNat 12 o.toNat 5 p.toNat 0
  | .satomMinN32 d a o p => enc4 0x90000006 d.toNat 19 a.toNat 12 o.toNat 5 p.toNat 0
  | .satomMaxI32 d a o p => enc4 0x90000008 d.toNat 19 a.toNat 12 o.toNat 5 p.toNat 0
  | .satomMaxN32 d a o p => enc4 0x9000000A d.toNat 19 a.toNat 12 o.toNat 5 p.toNat 0
  | .satomAnd d a o p => enc4 0x9000000C d.toNat 19 a.toNat 12 o.toNat 5 p.toNat 0
  | .satomOr d a o p => enc4 0x9000000E d.toNat 19 a.toNat 12 o.toNat 5 p.toNat 0
  | .satomXor d a o p => enc4 0x90000010 d.toNat 19 a.toNat 12 o.toNat 5 p.toNat 0
  | .satomSwap d a o p => enc4 0x90000012 d.toNat 19 a.toNat 12 o.toNat 5 p.toNat 0
  | .satomCas d a o p => enc4 0x90000014 d.toNat 19 a.toNat 12 o.toNat 5 p.toNat 0
  | .satomAddN64 d a o p => enc4 0x90000016 d.toNat 19 a.toNat 12 o.toNat 5 p.toNat 0
  | .fence p s c => enc3 0x94000000 p.toNat 20 s.toNat 16 c.code 13
  | .fenceOwn c => enc1 0x95000000 c.code 13
  | .fenceFar c => enc1 0x96000000 c.code 13
  | .qpush n g q s => enc4 0x98000000 n.toNat 23 g.toNat 20 q.toNat 17 s.toNat 10
  | .qpop n g q s => enc4 0x99000000 n.toNat 23 g.toNat 20 q.toNat 17 s.toNat 10
  | .tqEnq n g s => enc3 0x9A020000 n.toNat 23 g.toNat 20 s.toNat 10
  | .tqDeq n g s => enc3 0x9B020000 n.toNat 23 g.toNat 20 s.toNat 10
  | .mint d a => enc2 0x9C000000 d.toNat 18 a.toNat 11
  | .vpin d a => enc2 0x9E000000 d.toNat 18 a.toNat 11
  | .xput d a s w c => enc5 0xA0000000 d.toNat 19 a.toNat 12 s.toNat 5 w.code 2 c.toNat 0
  | .cpTile t a b => enc3 0xA4000000 t.toNat 17 a.toNat 10 b.toNat 3
  | .cpBdeck t a b => enc3 0xA5000000 t.toNat 17 a.toNat 10 b.toNat 3
  | .cpStore t a b => enc3 0xA6000000 t.toNat 17 a.toNat 10 b.toNat 3
  | .cpCopy c a b => enc3 0xA7000000 c.toNat 17 a.toNat 10 b.toNat 3
  | .tdef t s => enc2 0xA8000000 t.toNat 17 s.toNat 10
  | .tfree t => enc1 0xA9000000 t.toNat 17
  | .tstat t s => enc2 0xAA000000 t.toNat 17 s.toNat 10
  | .tex3 d a b => enc3 0xAC000000 d.toNat 19 a.toNat 12 b.toNat 5
  | .texp d a b => enc3 0xAC000001 d.toNat 19 a.toNat 12 b.toNat 5
  | .isectRay d a b => enc3 0xB0000000 d.toNat 19 a.toNat 12 b.toNat 5
  | .isectTile d a b => enc3 0xB0000001 d.toNat 19 a.toNat 12 b.toNat 5
  | .isectNext d => enc1 0xB0000002 d.toNat 19
  | .hdesc a => enc1 0xB4000000 a.toNat 12
  | .hgath d a => enc2 0xB4000001 d.toNat 19 a.toNat 12
  | .hscat a b => enc2 0xB4000002 a.toNat 12 b.toNat 5
  | .vaccRd v s q n => enc4 0xB8000000 v.toNat 18 s.toNat 11 q.toNat 9 n.toNat 6
  | .vaccWr v s q n => enc4 0xBA000000 v.toNat 18 s.toNat 11 q.toNat 9 n.toNat 6
  | .mmaE4m3E4m3 z a b m => enc4 0xC0000000 z.toNat 21 a.toNat 14 b.toNat 7 m.toNat 4
  | .mmaE4m3E5m2 z a b m => enc4 0xC0400000 z.toNat 21 a.toNat 14 b.toNat 7 m.toNat 4
  | .mmaE5m2E4m3 z a b m => enc4 0xC0800000 z.toNat 21 a.toNat 14 b.toNat 7 m.toNat 4
  | .mmaE5m2E5m2 z a b m => enc4 0xC0C00000 z.toNat 21 a.toNat 14 b.toNat 7 m.toNat 4
  | .mmaI8 z a b m => enc4 0xC1000000 z.toNat 21 a.toNat 14 b.toNat 7 m.toNat 4
  | .mmaBf16 z a b m => enc4 0xC1400000 z.toNat 21 a.toNat 14 b.toNat 7 m.toNat 4
  | .mmaF16 z a b m => enc4 0xC1800000 z.toNat 21 a.toNat 14 b.toNat 7 m.toNat 4
  | .mmaTriI8 z a b m => enc4 0xC1C00000 z.toNat 21 a.toNat 14 b.toNat 7 m.toNat 4
  | .mmapShape m x y => enc3 0xC4000000 m.toNat 21 x.toNat 13 y.toNat 4
  | .mmapK m k o => enc3 0xC5000000 m.toNat 21 k.toNat 8 o.toNat 0
  | .mmapAcc m r a b => enc4 0xC6000000 m.toNat 21 r.toNat 11 a.toNat 10 b.toNat 9
  | .macz r c => enc2 0xC8000000 r.toNat 15 c.toNat 4
  | .mscl d s t m => enc4 0xCA000000 d.toNat 22 s.toNat 19 t.toNat 12 m.code 10
  | .mbarWait n => enc1 0xCC000000 n.toNat 0
  | .mbarSig n => enc1 0xCC800000 n.toNat 0
  | .mloop c o => enc2 0xCD000000 c.toNat 21 o.toNat 0
  | .mend => enc0 0xCD800000
  | .mhalt => enc0 0xCE000000
  | .mrel t => enc1 0xCE800000 t.toNat 0
  | .mset c i => enc2 0xCF000000 c.toNat 21 i.toNat 0
  | .pfx i => enc1 0xFC000000 i.toNat 0
  | .mod m => 0xFD000000 + m.vce.toNat * 2 ^ 23 + m.vc.toNat * 2 ^ 16 + m.rnd.code * 2 ^ 13 + m.sat.toNat * 2 ^ 12 + m.ftz.toNat * 2 ^ 11 + m.cpol.toNat * 2 ^ 9 + m.w.toNat * 2 ^ 8 + m.pk.toNat * 2 ^ 6 + m.split.toNat * 2 ^ 5 + m.na.toNat * 2 ^ 4 + m.nc.toNat * 2 ^ 3
  | .sch y u s => enc3 0xFE000000 y.toNat 23 u.toNat 20 s.toNat 16
  | .send p b d c => enc4 0x10000000 p.toNat 24 b.toNat 20 d.toNat 16 c.toNat 4
  | .recv p b d c => enc4 0x20000000 p.toNat 24 b.toNat 20 d.toNat 16 c.toNat 4
  | .redAddF32 m b d s e c => enc6 0x30000000 m.toNat 24 b.toNat 20 d.toNat 16 s.toNat 12 e.toNat 8 c.toNat 4
  | .redAddI32 m b d s e c => enc6 0x30000001 m.toNat 24 b.toNat 20 d.toNat 16 s.toNat 12 e.toNat 8 c.toNat 4
  | .redMinF32 m b d s e c => enc6 0x30000002 m.toNat 24 b.toNat 20 d.toNat 16 s.toNat 12 e.toNat 8 c.toNat 4
  | .redMaxF32 m b d s e c => enc6 0x30000003 m.toNat 24 b.toNat 20 d.toNat 16 s.toNat 12 e.toNat 8 c.toNat 4
  | .redMinI32 m b d s e c => enc6 0x30000004 m.toNat 24 b.toNat 20 d.toNat 16 s.toNat 12 e.toNat 8 c.toNat 4
  | .redMaxI32 m b d s e c => enc6 0x30000005 m.toNat 24 b.toNat 20 d.toNat 16 s.toNat 12 e.toNat 8 c.toNat 4
  | .redAndB32 m b d s e c => enc6 0x30000006 m.toNat 24 b.toNat 20 d.toNat 16 s.toNat 12 e.toNat 8 c.toNat 4
  | .redOrB32 m b d s e c => enc6 0x30000007 m.toNat 24 b.toNat 20 d.toNat 16 s.toNat 12 e.toNat 8 c.toNat 4
  | .drafelCopy b d s e => enc4 0x40000000 b.toNat 20 d.toNat 16 s.toNat 12 e.toNat 8
  | .waitOps n => enc1 0x50000000 n.toNat 0
  | .waitGe b d v => enc3 0x54000000 b.toNat 20 d.toNat 16 v.toNat 12
  | .sig b d v => enc3 0x60000000 b.toNat 20 d.toNat 16 v.toNat 12
  | .loop d o => enc2 0x70000000 d.toNat 24 o.toNat 0
  | .kick k c b x h => enc5 0x80000000 k.toNat 26 c.toNat 20 b.toNat 16 x.toNat 12 h.toNat 4
  | .setd d i => enc2 0x90000000 d.toNat 24 i.toNat 0
  | .addd d s i => enc3 0xA0000000 d.toNat 24 s.toNat 20 i.toNat 0
  | .brd d c o => enc3 0xB0000000 d.toNat 24 c.code 21 o.toNat 0
  | .drafelHalt => enc0 0xC0000000
  | .drafelNop => enc0 0xD0000000
  | .registerWrite _ _ _ _ => 0
  | .deferredTrap => 0
  | .pathAgeLimit _ => 0
  | .rejoinDeadlock _ => 0
  | .pathForceMerge _ => 0
  | .sleepExpire _ => 0
  | .schStallExpire _ => 0
  | .claimGrant _ _ => 0
  | .queueRetry _ => 0
  | .waitLimit _ => 0
  | .loadDataReturn _ _ => 0
  | .storePerformed _ => 0
  | .atomicPerform _ => 0
  | .hscatAddsPerformed _ => 0
  | .hdescLoaded _ => 0
  | .isectResult _ => 0
  | .translationWalk _ _ => 0
  | .directoryRecall _ => 0
  | .copyFillComplete _ => 0
  | .copyDrainComplete _ => 0
  | .cpCopyComplete _ => 0
  | .engineUeStop _ _ => 0
  | .streamFetch _ => 0
  | .tellerGrant _ => 0
  | .passRetire _ => 0
  | .vaultAdderComplete _ => 0
  | .preemptionRequest => 0
  | .contextSave => 0
  | .contextRestore _ => 0
  | .graphicsWaveReissue _ => 0
  | .nevWindowEnd _ _ => 0
  | .nevwinWrite _ _ _ => 0
  | .nevstatClear _ _ => 0
  | .cqdescWrite _ _ => 0
  | .cqnotWrite _ _ _ => 0
  | .cqstatResume _ => 0
  | .cqdropRead => 0
  | .ringNop _ => 0
  | .ringLaunch _ => 0
  | .ringWait _ => 0
  | .ringWaitComplete _ => 0
  | .ringFrame _ => 0
  | .indirectCountRead _ => 0
  | .blockDispatch _ _ => 0
  | .blockComplete _ => 0
  | .budgetExpiry _ _ => 0
  | .itemTaskMove _ => 0
  | .sendTransferStart _ _ => 0
  | .data _ => 0
  | .ack _ => 0
  | .write _ => 0
  | .wack _ _ => 0
  | .pause _ _ => 0
  | .resume _ _ => 0
  | .close _ _ => 0
  | .flitCrcRetransmit _ => 0
  | .programUnpark _ => 0
  | .collectiveTimeout _ => 0
  | .clctlLoad _ => 0
  | .clctlStop _ => 0
  | .clstatIrqClear _ => 0
  | .ptrootWrite _ => 0
  | .tlbinvWrite _ => 0
  | .tlbInvalidateDone => 0
  | .hotnessHalving => 0
  | .migrationStart => 0
  | .migrationCopy => 0
  | .migrationFinish => 0
  | .migstatRead => 0
  | .assayStart _ => 0
  | .assayEnd _ _ => 0
  | .rasceRead => 0
  | .rasueRead => 0
  | .islandDvfs _ _ => 0
  | .droopStretch _ => 0
  | .thermalThrottle _ _ => 0
  | .thermalTrip _ _ => 0
  | .linkRetrain _ => 0
  | .boot _ => 0
  | .attctlGo => 0
  | .attestDone => 0
  | .dumpctlGo => 0
  | .dumpEnd => 0
  | .clusterStop _ => 0
  | .dbgctlStop _ => 0
  | .dbgctlResume _ => 0
  | .dbgctlStep _ _ _ _ => 0
  | .stepTimeout _ => 0
  | .whmoreRead _ => 0
  | .watchpointHitsRead _ _ => 0
  | .breakpointHitsRead _ _ => 0
  | .debugHoldWrite _ _ _ => 0
  | .debugSsWrite _ _ _ => 0
  | .stallSample _ => 0
  | .smpctlWrite _ _ => 0
  | .smpdropRead _ => 0
  | .trctlWrite _ _ => 0
  | .trstatGapClear _ => 0
  | .trlostRead _ => 0
  | .notAnInstruction _ => 0
  | .notADrafelInstruction _ => 0
  | .hostMemoryAccess _ => 0
  | .vaccWrPerformed _ => 0
  | .tableEntryUpdated _ => 0
  | .localDataOperationComplete _ _ => 0
  | .reservedTypeFlit _ => 0
  | .invalidRingEntry _ => 0
  | .retrainingEnd _ => 0

/-- The words of an instruction: one word, and none for an event. -/
def encode (i : Instr) : List Word :=
  if encodeWord i = 0 then [] else [BitVec.ofNat 32 (encodeWord i)]

end Sys2Proof
end

