-- ==== Sys2Proof/Config.lean ====
section
/-! DEFINITION. What an implementation fixes: the figures of R1 and the free values of the spec's open points. -/

namespace Sys2Proof.Config

/-- Lanes of a wave (R1). -/
def lanes : Nat := 96
/-- Compute dies of the package (R1). -/
def dies : Nat := 4
/-- Clusters of the package, eight a die (R1). -/
def clusters : Nat := 32
/-- Cores of the package, four a cluster (R1). -/
def cores : Nat := 128
/-- Wave slots of a core (R1, R355). -/
def waveSlots : Nat := 32
/-- Wave-registers of one pipe's pool (R1, R275). -/
def pipePool : Nat := 512
/-- Bytes of a core's SRAM (R1, R128). -/
def sramBytes : Nat := 1048576
/-- Entries of a cluster's tile table (R231). -/
def tileEntries : Nat := 128
/-- Vault rows and columns (R1, R244). -/
def vaultRows : Nat := 1024
def vaultCols : Nat := 384
/-- Bytes of one B-deck column slice (R239). -/
def sliceBytes : Nat := 16384
/-- Escrow entries of a core for replay regions and for loans (R291). -/
def replayEntries : Nat := 1024
def loanEntries : Nat := 2048
/-- Helper-path entries of a core (R292). -/
def helperEntries : Nat := 16
/-- Tokens a wave may hold, and entries of a helper path's own stack (R204, R64). -/
def waveTokens : Nat := 64
def helperTokens : Nat := 16
/-- Entries of a stream's dependency table (R161). -/
def streamEntries : Nat := 32
/-- Teller reservations of a cluster (R241). -/
def reservations : Nat := 8
/-- Commands a copy engine holds (R238). -/
def copyCommands : Nat := 64
/-- Entries of a core's item queue (R143). -/
def itemEntries : Nat := 256
/-- Contexts of a clearing engine (R346). -/
def clearContexts : Nat := 16
/-- Data operations a chunk program may have outstanding (R182). -/
def chunkOps : Nat := 64
/-- Entries of a core's TLB, a cluster's TLB and a die's walk cache (R336). -/
def coreTlb : Nat := 256
def clusterTlb : Nat := 8192
def walkCache : Nat := 512
/-- Whether the part is cooling variant Q, not X: the spec gives both (R392, log 15). -/
opaque coolingQ : Bool
/-- DEVID (R392). -/
def devId : Nat := if coolingQ then 0x4960B151 else 0x4960B158

/-- Memory requests a core may have outstanding (R1). -/
def memRequests : Nat := 2048
/-- FREE VALUE (R332, log 101): what eight bytes read from a physical address outside the ranges give. -/
opaque unreached : Nat → BitVec 64
/-- FREE VALUE (R346, log 27): the number of this package's own module, as its flits carry it. -/
opaque ownModule : BitVec 10
/-- FREE VALUE (R185, log 115): whether a context of another module has another chunk size than the one that it is paired with, by
endpoint and draw. -/
opaque chunkDiffers : Nat → Nat → Bool
/-- FREE VALUE (R311, log 17): the address that the host driver gives for the n-th save. -/
opaque saveArea : Nat → Nat
/-- FREE VALUE (R311, log 17): the bytes of the n-th save, whose layout is the device's own. -/
opaque saveImage : Nat → List (BitVec 8)

/-- How the model numbers this package's own module: no other module has this number (R346, log 27). -/
def here : Nat := 1024

/-- FREE VALUE (R335, R351, log 28): a byte that a read of another module's page gives, by module, address and draw. -/
opaque remoteByte : Nat → Nat → Nat → BitVec 8
/-- FREE VALUE (R339, log 29): whether an access to a line reads or writes its frame's DRAM, by line and draw. -/
opaque dramAccess : Nat → Nat → Bool
/-- FREE VALUE (R136, log 9): whether a line is present in a core's L1 when the n-th open value is taken. -/
opaque l1Present : Nat → Nat → Bool
/-- FREE VALUE (R304, log 21): the sr.eaux of a trap for whose cause the spec states no sr.eaux. -/
opaque openAux : Nat → BitVec 64
/-- FREE VALUE (R387, log 24): the code by which a log entry names a structure; the spec lists no codes. -/
opaque structureCode : Nat → BitVec 8
/-- FREE VALUE (R385, log 24): the L2 row that holds a line. -/
opaque l2Row : Nat → Nat
/-- FREE VALUE (R386, log 24): the bank of an L2 row. -/
opaque l2Bank : Nat → Nat
/-- FREE VALUE (R384, log 24): what a word of storage without a consumer's rule holds after an uncorrectable error, by draw. -/
opaque spoiled : Nat → BitVec 64
/-- FREE VALUE (R393, log 15): the bytes of the boot ROM. -/
opaque romCode : List Nat
/-- FREE VALUE (R394, log 15): the device identity key. -/
opaque identityKey : Nat
/-- FREE VALUE (R394, log 15): the secret number of a signature, by draw. -/
opaque signatureNonce : Nat → Nat
/-- FREE VALUE (R394, log 15): the fused serial number. -/
opaque serial : Nat → BitVec 256
/-- FREE VALUE (R393, log 15): the fused digest of the signing public key. -/
opaque fusedKeyDigest : BitVec 512
/-- FREE VALUE (R393, log 15): the key digest that the manifest of a stage-1 image gives for a later stage. -/
opaque manifestKeyDigest : List Nat → Nat → BitVec 512
/-- FREE VALUE (R366, log 31): the reason that a sample gives where none of the listed ones applies. -/
opaque openReason : Nat → BitVec 5
/-- FREE VALUE (R393, log 15): the fused rollback counter. -/
opaque fusedRollback : Nat

end Sys2Proof.Config
end

