-- ==== Sys2Proof/Machine/Numbers.lean ====
section
/-! DEFINITION. Number formats, rounding and exact arithmetic (R37 to R49, R52 to R55, R105 to R115). A value is an exact
dyadic, an infinity or NaN; every operation computes exactly and rounds once. -/

namespace Sys2Proof.Machine

/-- Numerical events of one lane or one operation, one bit a class (R56). -/
abbrev Events := BitVec 8

def evNone : Events := 0#8
def evInvalid : Events := 1#8
def evDivZero : Events := 2#8
def evOverflow : Events := 4#8
def evUnderflow : Events := 8#8
def evSaturation : Events := 16#8
def evNarrowNan : Events := 32#8
def evTernary : Events := 64#8
def evDescriptor : Events := 128#8

/-- An exact value: NaN, an infinity, or a signed magnitude `m * 2 ^ e` (zeros keep their sign). -/
inductive FV
  | nan
  | inf (neg : Bool)
  | fin (neg : Bool) (m : Nat) (e : Int)
deriving DecidableEq, Repr

/-- A binary floating format (R38, R47): widths, bias, sign bit, infinity, and NaN pattern (0 none, 1 every all-ones
exponent with a nonzero fraction, 2 the single all-ones magnitude). -/
structure Fmt where
  ew : Nat
  mw : Nat
  bias : Nat
  sgn : Bool
  hasInf : Bool
  nanKind : Nat
deriving DecidableEq, Repr

def fp32 : Fmt := ⟨8, 23, 127, true, true, 1⟩
def fp16 : Fmt := ⟨5, 10, 15, true, true, 1⟩
def bf16 : Fmt := ⟨8, 7, 127, true, true, 1⟩
def e4m3 : Fmt := ⟨4, 3, 7, true, false, 2⟩
def e5m2 : Fmt := ⟨5, 2, 15, true, true, 1⟩

/-- Exponent and fraction bits of the largest finite magnitude (R38, R49). -/
def Fmt.maxMag (f : Fmt) : Nat :=
  if f.hasInf then (2 ^ f.ew - 1) * 2 ^ f.mw - 1
  else if f.nanKind = 2 then 2 ^ (f.ew + f.mw) - 2
  else 2 ^ (f.ew + f.mw) - 1

/-- Magnitude bits of infinity (R38). -/
def Fmt.infMag (f : Fmt) : Nat := (2 ^ f.ew - 1) * 2 ^ f.mw

/-- The canonical NaN: positive, and its fraction 1 followed by zeros, or the all-ones magnitude (R38, R115). -/
def Fmt.nanCode (f : Fmt) : Nat :=
  if f.nanKind = 2 then 2 ^ (f.ew + f.mw) - 1
  else (2 ^ f.ew - 1) * 2 ^ f.mw + 2 ^ (f.mw - 1)

/-- The sign bit of a code. -/
def Fmt.signBit (f : Fmt) (neg : Bool) : Nat := if neg && f.sgn then 2 ^ (f.ew + f.mw) else 0

/-- The exact value of a code (R38, R49). -/
def Fmt.value (f : Fmt) (c : Nat) : FV :=
  let neg := f.sgn && fld c (f.ew + f.mw) 1 == 1
  let x := fld c f.mw f.ew
  let fr := fld c 0 f.mw
  let top := 2 ^ f.ew - 1
  if f.nanKind = 1 ∧ x = top ∧ fr ≠ 0 then .nan
  else if f.nanKind = 2 ∧ x = top ∧ fr = 2 ^ f.mw - 1 then .nan
  else if f.hasInf ∧ x = top ∧ fr = 0 then .inf neg
  else if x = 0 then .fin neg fr (1 - (f.bias : Int) - f.mw)
  else .fin neg (2 ^ f.mw + fr) ((x : Int) - f.bias - f.mw)

/-- The integer nearest to `m / 2 ^ s` under a rounding mode, for a value of this sign (R41). A tie under .rne goes to the even
significand; of a format without fraction bits, for which R41 names no bit, that is the upper value (DESIGN CHOICE, log entry 109). -/
def roundShift (rnd : Rnd) (neg : Bool) (m s : Nat) : Nat :=
  let q := m / 2 ^ s
  let r := m % 2 ^ s
  let up : Bool :=
    match rnd with
    | .rne => decide (2 * r > 2 ^ s) || (decide (2 * r = 2 ^ s) && decide (q % 2 = 1))
    | .rtz => false
    | .rdn => neg && decide (r ≠ 0)
    | .rup => !neg && decide (r ≠ 0)
    | .rna => decide (2 * r ≥ 2 ^ s)
  if up then q + 1 else q

/-- `m * 2 ^ e` as an integer count of `2 ^ q`, rounded, and whether the rounding changed the value. -/
def roundTo (rnd : Rnd) (neg : Bool) (m : Nat) (e q : Int) : Nat × Bool :=
  if q ≤ e then (m * 2 ^ (e - q).toNat, false)
  else
    let s := (q - e).toNat
    (roundShift rnd neg m s, decide (m % 2 ^ s ≠ 0))

/-- Whether a mode rounds toward zero for this sign (R42). -/
def towardZero (rnd : Rnd) (neg : Bool) : Bool :=
  match rnd with
  | .rtz => true
  | .rdn => !neg
  | .rup => neg
  | .rne | .rna => false

/-- An overflowed result (R42). -/
def Fmt.overflowed (f : Fmt) (rnd : Rnd) (sat neg : Bool) : Nat × Events :=
  if sat then (f.signBit neg + f.maxMag, evSaturation)
  else if towardZero rnd neg then (f.signBit neg + f.maxMag, evOverflow)
  else if f.hasInf then (f.signBit neg + f.infMag, evOverflow)
  else (f.nanCode, evOverflow)

/-- A value rounded once into a format, with the events that the rounding counts (R41, R42, R44, R45). -/
def Fmt.pack (f : Fmt) (rnd : Rnd) (sat : Bool) (v : FV) : Nat × Events :=
  match v with
  | .nan => if f.nanKind = 0 then (0, evInvalid) else (f.nanCode, evNone)
  | .inf neg => if f.hasInf then (f.signBit neg + f.infMag, evNone) else f.overflowed rnd sat neg
  | .fin neg m e =>
    if m = 0 then (f.signBit neg, evNone)
    else
      let low : Int := 1 - (f.bias : Int) - f.mw
      let top : Int := (Nat.log2 m : Int) + e
      let q := max (top - f.mw) low
      let (k, inexact) := roundTo rnd neg m e q
      let code := (q - low).toNat * 2 ^ f.mw + k
      if code > f.maxMag then f.overflowed rnd sat neg
      else (f.signBit neg + code, if decide (top < 1 - (f.bias : Int)) && inexact then evUnderflow else evNone)

/-- FP32 as an input: with ftz a denormal reads as a zero of its sign (R43). -/
def fin32 (ftz : Bool) (w : Word) : FV :=
  if ftz && fld w.toNat 23 8 == 0 then .fin (fld w.toNat 31 1 == 1) 0 0 else fp32.value w.toNat

/-- FP32 as a result: rounded, and with ftz a denormal is written as a zero of its sign (R41 to R44). -/
def out32 (rnd : Rnd) (ftz : Bool) (v : FV) : Word × Events :=
  let (c, ev) := fp32.pack rnd false v
  if ftz && fld c 23 8 == 0 && fld c 0 23 != 0 then (BitVec.ofNat 32 (c - fld c 0 23), ev ||| evUnderflow)
  else (BitVec.ofNat 32 c, ev)

def nan32 : Word := 0x7FC00000#32

/-! Exact operations on values. -/

/-- A signed sum of magnitudes on a common exponent; a zero sum is +0, or −0 under rdn (R41). -/
def ofSigned (rnd : Rnd) (i : Int) (e : Int) : FV :=
  if i = 0 then .fin (rnd == .rdn) 0 0 else .fin (decide (i < 0)) i.natAbs e

/-- A signed magnitude scaled to a lower exponent. -/
def scaled (neg : Bool) (m : Nat) (e low : Int) : Int :=
  let k : Int := ((m * 2 ^ (e - low).toNat : Nat) : Int)
  if neg then -k else k

/-- Exact sum, with the invalid event of opposite infinities (R105, R109). -/
def FV.add (rnd : Rnd) (a b : FV) : FV × Events :=
  match a, b with
  | .nan, _ => (.nan, evNone)
  | _, .nan => (.nan, evNone)
  | .inf x, .inf y => if x == y then (.inf x, evNone) else (.nan, evInvalid)
  | .inf x, .fin _ _ _ => (.inf x, evNone)
  | .fin _ _ _, .inf y => (.inf y, evNone)
  | .fin x m e, .fin y n f =>
    if m = 0 ∧ n = 0 then (if x == y then .fin x 0 0 else .fin (rnd == .rdn) 0 0, evNone)
    else
      let low := if m = 0 then f else if n = 0 then e else min e f
      let p := if m = 0 then 0 else scaled x m e low
      let q := if n = 0 then 0 else scaled y n f low
      (ofSigned rnd (p + q) low, evNone)

def FV.neg : FV → FV
  | .nan => .nan
  | .inf x => .inf (!x)
  | .fin x m e => .fin (!x) m e

/-- Exact product, with the invalid event of 0 × ∞ (R105, R109). -/
def FV.mul (a b : FV) : FV × Events :=
  match a, b with
  | .nan, _ => (.nan, evNone)
  | _, .nan => (.nan, evNone)
  | .inf x, .inf y => (.inf (x != y), evNone)
  | .inf x, .fin y n _ => if n = 0 then (.nan, evInvalid) else (.inf (x != y), evNone)
  | .fin x m _, .inf y => if m = 0 then (.nan, evInvalid) else (.inf (x != y), evNone)
  | .fin x m e, .fin y n f => (.fin (x != y) (m * n) (e + f), evNone)

/-- Exact product plus addend (R109). A NaN addend gives NaN and counts nothing, whatever the product (R39, R56). -/
def FV.fma (rnd : Rnd) (a b c : FV) : FV × Events :=
  let (p, e1) := FV.mul a b
  let (s, e2) := FV.add rnd p c
  (s, if c = .nan then evNone else e1 ||| e2)

/-- A quotient carried to enough bits, its lowest bit set when a remainder is left over. -/
def ratio (neg : Bool) (n d : Nat) (e : Int) : FV :=
  if n = 0 ∨ d = 0 then .fin neg 0 0
  else
    let k := 80 + Nat.log2 d
    let q := n * 2 ^ k / d
    let r := n * 2 ^ k % d
    .fin neg (2 * q + if r = 0 then 0 else 1) (e - k - 1)

/-- Division (R110, R111). -/
def FV.div (a b : FV) : FV × Events :=
  match a, b with
  | .nan, _ => (.nan, evNone)
  | _, .nan => (.nan, evNone)
  | .inf _, .inf _ => (.nan, evInvalid)
  | .inf x, .fin y _ _ => (.inf (x != y), evNone)
  | .fin x _ _, .inf y => (.fin (x != y) 0 0, evNone)
  | .fin x m e, .fin y n f =>
    if n = 0 then (if m = 0 then (.nan, evInvalid) else (.inf (x != y), evDivZero))
    else (ratio (x != y) m n (e - f), evNone)

/-- Integer square root, one result bit a step from the highest. -/
def isqrtFrom : Nat → Nat → Nat → Nat
  | 0, _, r => r
  | k + 1, n, r =>
    let t := r + 2 ^ k
    if t * t ≤ n then isqrtFrom k n t else isqrtFrom k n r

def isqrt (n : Nat) : Nat := isqrtFrom (Nat.log2 n / 2 + 1) n 0

/-- √(m·2^e) of a positive magnitude, its lowest bit set when the root is inexact. -/
def rootOf (m : Nat) (e : Int) : FV :=
  let k : Nat := if (e % 2 = 0) then 80 else 81
  let n := m * 2 ^ k
  let r := isqrt n
  .fin false (2 * r + if r * r = n then 0 else 1) ((e - k) / 2 - 1)

/-- 1 / √(m·2^e) of a positive magnitude, its lowest bit set when the result is inexact. -/
def rrootOf (m : Nat) (e : Int) : FV :=
  let e' : Int := if e % 2 = 0 then e else e - 1
  let m' : Nat := if e % 2 = 0 then m else 2 * m
  let k := 80 + Nat.log2 m'
  let q := 2 ^ (2 * k) / m'
  let r := isqrt q
  .fin false (2 * r + if r * r * m' = 2 ^ (2 * k) then 0 else 1) (-(e' / 2) - k - 1)

/-! Transcendental functions in fixed point: 256 fraction bits, far below half a unit in the last place of any FP32
result that is not exact (log entry 11). -/

def fixBits : Nat := 256
def fixOne : Nat := 2 ^ fixBits

/-- Σ x^k / k! for x in [0, 1), Horner's rule from the k-th term down. -/
def expFix (x : Nat) : Nat → Nat → Nat
  | 0, acc => acc
  | k + 1, acc => expFix x k (fixOne + x * acc / (fixOne * (k + 1)))

/-- Σ over odd j of z^j / j, the series of atanh z. -/
def atanhFix (z2 : Nat) : Nat → Nat → Nat → Nat → Nat
  | 0, _, _, acc => acc
  | n + 1, j, t, acc => atanhFix z2 n (j + 2) (t * z2 / fixOne) (acc + t / j)

/-- ln x for a fixed-point x in [1, 2]. -/
def lnFix (x : Nat) : Nat :=
  let z := (x - fixOne) * fixOne / (x + fixOne)
  2 * atanhFix (z * z / fixOne) 90 1 z 0

def ln2Fix : Nat := lnFix (2 * fixOne)

/-- Σ ± 1 / (j · k^j) over odd j, the series of arctan (1/k), scaled by `one`. -/
def arctanInv (k2 : Nat) : Nat → Nat → Nat → Bool → Int → Int
  | 0, _, _, _, acc => acc
  | n + 1, j, t, pos, acc =>
    arctanInv k2 n (j + 2) (t / k2) (!pos) (if pos then acc + ((t / j : Nat) : Int) else acc - ((t / j : Nat) : Int))

/-- π scaled by 2 ^ 448, by Machin's formula. -/
def piBits : Nat := 448
def piFix : Nat :=
  let one := 2 ^ (piBits + 32)
  ((16 * arctanInv 25 110 1 (one / 5) true 0 - 4 * arctanInv 57121 40 1 (one / 239) true 0) / (2 ^ 32 : Nat)).toNat

/-- Alternating series of sin (from `j = 1`, term x) or cos (from `j = 0`, term 1) at x in [0, 1]. -/
def trigFix (x2 : Nat) : Nat → Nat → Nat → Bool → Int → Int
  | 0, _, _, _, acc => acc
  | n + 1, j, t, pos, acc =>
    trigFix x2 n (j + 2) (t * x2 / (fixOne * ((j + 1) * (j + 2)))) (!pos)
      (if pos then acc + (t : Int) else acc - (t : Int))

def sinFix (x : Nat) : Nat := (trigFix (x * x / fixOne) 45 1 x true 0).toNat
def cosFix (x : Nat) : Nat := (trigFix (x * x / fixOne) 45 0 fixOne true 0).toNat

/-- An irrational result: the fixed-point digits with the lowest bit set, so that it is no tie and not exact. -/
def irrational (neg : Bool) (m : Nat) (e : Int) : FV := .fin neg (2 * m + 1) (e - 1)

/-- 2^f·2^n for a fixed-point f in [0, 1). -/
def pow2Fix (f : Nat) (n : Int) : FV :=
  irrational false (expFix (f * ln2Fix / fixOne) 70 fixOne) (n - fixBits)

/-- 2^a (R110, R111). Beyond the format's range the value is replaced by one that overflows or underflows alike. -/
def FV.exp2 : FV → FV × Events
  | .nan => (.nan, evNone)
  | .inf neg => (if neg then .fin false 0 0 else .inf false, evNone)
  | .fin neg m e =>
    if m = 0 then (.fin false 1 0, evNone)
    else if (Nat.log2 m : Int) + e ≥ 8 then (if neg then irrational false 1 (-400) else irrational false 1 400, evNone)
    else
      let x := scaled neg m e (min e (-160))
      let s := (-(min e (-160))).toNat
      let n := x / (2 ^ s : Nat)
      let f := (x % (2 ^ s : Nat)).toNat
      (if f = 0 then .fin false 1 n else pow2Fix (f * fixOne / 2 ^ s) n, evNone)

/-- e^a (R110, R111). -/
def FV.exp : FV → FV × Events
  | .nan => (.nan, evNone)
  | .inf neg => (if neg then .fin false 0 0 else .inf false, evNone)
  | .fin neg m e =>
    if m = 0 then (.fin false 1 0, evNone)
    else if (Nat.log2 m : Int) + e ≥ 8 then (if neg then irrational false 1 (-400) else irrational false 1 400, evNone)
    else
      let x : Int := if e ≥ -(fixBits : Int) then scaled neg m e (-(fixBits : Int)) else 0
      let n := x / (ln2Fix : Int)
      let r := (x - n * (ln2Fix : Int)).toNat
      (irrational false (expFix r 70 fixOne) (n - fixBits), evNone)

/-- log₂ a (R110, R111). -/
def FV.log2 : FV → FV × Events
  | .nan => (.nan, evNone)
  | .inf neg => if neg then (.nan, evInvalid) else (.inf false, evNone)
  | .fin neg m e =>
    if m = 0 then (.inf true, evDivZero)
    else if neg then (.nan, evInvalid)
    else
      let k := Nat.log2 m
      let n : Int := (k : Int) + e
      if m = 2 ^ k then (ofSigned .rne n 0, evNone)
      else
        let y : Int := n * (fixOne : Int) + ((lnFix (m * fixOne / 2 ^ k) * fixOne / ln2Fix : Nat) : Int)
        (irrational (decide (y < 0)) y.natAbs (-(fixBits : Int)), evNone)

/-- The quadrant and the fixed-point remainder, at most π/4 from a multiple of π/2, of a magnitude in radians. -/
def reduceAngle (m : Nat) (e : Int) : Nat × Bool × Nat :=
  let x := if e ≥ -(fixBits : Int) then m * 2 ^ (e + fixBits).toNat else m / 2 ^ (-(e + fixBits)).toNat
  let half := piFix / 2
  let big := x * 2 ^ (piBits - fixBits)
  let q := big / half
  let r := big % half
  if 2 * r ≤ half then (q % 4, false, r / 2 ^ (piBits - fixBits))
  else ((q + 1) % 4, true, (half - r) / 2 ^ (piBits - fixBits))

/-- sin a (R110, R111). A small angle's sine lies just below the angle (R44). -/
def FV.sin : FV → FV × Events
  | .nan => (.nan, evNone)
  | .inf _ => (.nan, evInvalid)
  | .fin neg m e =>
    if m = 0 then (.fin neg 0 0, evNone)
    else if (Nat.log2 m : Int) + e < -60 then (.fin neg (m * 2 ^ 64 - 1) (e - 64), evNone)
    else
      let (q, below, r) := reduceAngle m e
      let s := if q % 2 = 0 then sinFix r else cosFix r
      let flip := (decide (q = 2) || decide (q = 3)) != (decide (q % 2 = 0) && below)
      (irrational (neg != flip) s (-(fixBits : Int)), evNone)

/-- cos a (R110, R111). -/
def FV.cos : FV → FV × Events
  | .nan => (.nan, evNone)
  | .inf _ => (.nan, evInvalid)
  | .fin _ m e =>
    if m = 0 then (.fin false 1 0, evNone)
    else
      let (q, below, r) := reduceAngle m e
      let s := if q % 2 = 0 then cosFix r else sinFix r
      let flip := (decide (q = 1) || decide (q = 2)) != (decide (q % 2 = 1) && below)
      (irrational flip s (-(fixBits : Int)), evNone)

/-- √a (R110, R111). -/
def FV.sqrt : FV → FV × Events
  | .nan => (.nan, evNone)
  | .inf neg => if neg then (.nan, evInvalid) else (.inf false, evNone)
  | .fin neg m e => if m = 0 then (.fin neg 0 0, evNone) else if neg then (.nan, evInvalid) else (rootOf m e, evNone)

/-- 1 / √a (R110, R111). -/
def FV.rsqrt : FV → FV × Events
  | .nan => (.nan, evNone)
  | .inf neg => if neg then (.nan, evInvalid) else (.fin false 0 0, evNone)
  | .fin neg m e => if m = 0 then (.inf neg, evNone) else if neg then (.nan, evInvalid) else (rrootOf m e, evNone)

/-- 1 / a (R110, R111). -/
def FV.recip (a : FV) : FV × Events := FV.div (.fin false 1 0) a

/-- a × 2^n; infinities, NaN and zeros pass unchanged (R105). -/
def FV.scale (n : Int) : FV → FV
  | .nan => .nan
  | .inf x => .inf x
  | .fin x m e => if m = 0 then .fin x m e else .fin x m (e + max (min n 100000) (-100000))

/-! Comparisons. -/

/-- A key by which non-NaN FP32 codes are ordered with −0 below +0 (R106). -/
def orderKey (w : Word) : Int :=
  let m := fld w.toNat 0 31
  if fld w.toNat 31 1 = 1 then -(m : Int) - 1 else m

/-- A key by which non-NaN FP32 codes are ordered with −0 equal to +0 (R117, R177). -/
def valueKey (w : Word) : Int :=
  let m := fld w.toNat 0 31
  if fld w.toNat 31 1 = 1 then -(m : Int) else m

def isNan32 (w : Word) : Bool := fp32.value w.toNat == .nan

/-- A denormal read as a zero of its sign when ftz is set (R43). -/
def flush32 (ftz : Bool) (w : Word) : Word :=
  if ftz && fld w.toNat 23 8 == 0 then BitVec.ofNat 32 (fld w.toNat 31 1 * 2 ^ 31) else w

/-- Minimum or maximum of FP32 values (R106). -/
def minmax32 (isMax ftz : Bool) (a b : Word) : Word :=
  let a := flush32 ftz a
  let b := flush32 ftz b
  if isNan32 a && isNan32 b then nan32
  else if isNan32 a then b
  else if isNan32 b then a
  else if decide (orderKey a ≤ orderKey b) != isMax then a else b

/-- The class mask of vfclass (R107). -/
def class32 (w : Word) : Nat :=
  let neg := fld w.toNat 31 1 = 1
  match fp32.value w.toNat with
  | .nan => 256
  | .inf _ => if neg then 1 else 128
  | .fin _ m _ =>
    if m = 0 then (if neg then 8 else 16)
    else if fld w.toNat 23 8 = 0 then (if neg then 4 else 32)
    else if neg then 2 else 64

/-! Integers and conversions. -/

/-- An integer as an exact value. -/
def FV.ofInt (i : Int) : FV := .fin (decide (i < 0)) i.natAbs 0

/-- A float rounded to an integer and clamped to a range (R45): the result and its events. -/
def toIntClamped (rnd : Rnd) (lo hi : Int) : FV → Int × Events
  | .nan => (0, evInvalid)
  | .inf neg => (if neg then lo else hi, evSaturation)
  | .fin neg m e =>
    let (k, _) := roundTo rnd neg m e 0
    let i : Int := if neg then -(k : Int) else k
    if i < lo then (lo, evSaturation) else if i > hi then (hi, evSaturation) else (i, evNone)

/-- An integer clamped to the signed or unsigned range of `n` bits, and whether it clamped. -/
def clampInt (signed : Bool) (n : Nat) (i : Int) : Int × Bool :=
  let lo : Int := if signed then -(2 ^ (n - 1) : Nat) else 0
  let hi : Int := if signed then ((2 ^ (n - 1) : Nat) : Int) - 1 else ((2 ^ n : Nat) : Int) - 1
  if i < lo then (lo, true) else if i > hi then (hi, true) else (i, false)

/-- The value of a TRI code, and its reserved-ternary event (R40). -/
def triValue (c : Nat) : Int × Events :=
  match c with
  | 0 => (0, evNone)
  | 1 => (1, evNone)
  | 3 => (-1, evNone)
  | _ => (0, evTernary)

/-- The TRI code of an integer (R45). -/
def triCode (i : Int) : Nat × Events :=
  if i = 0 then (0, evNone) else if i = 1 then (1, evNone) else if i = -1 then (3, evNone)
  else if i > 0 then (1, evSaturation) else (3, evSaturation)

/-! Narrow-format descriptors (R47 to R51). -/

/-- A narrow-format descriptor's fields (R47). -/
structure Desc where
  wid : Nat
  ew : Nat
  mw : Nat
  sgn : Bool
  bias : Nat
  inf : Nat
  nan : Nat
  ovf : Bool
  reserved : Bool
deriving DecidableEq, Repr

def Desc.ofWord (w : Word) : Desc :=
  let n := w.toNat
  { wid := fld n 20 4, ew := fld n 17 3, mw := fld n 14 3, sgn := fld n 13 1 == 1, bias := fld n 8 5, inf := fld n 6 2,
    nan := fld n 4 2, ovf := fld n 3 1 == 1, reserved := fld n 24 8 != 0 || fld n 0 3 != 0 }

/-- The validity rules of a descriptor (R47, R48). -/
def Desc.valid (d : Desc) : Bool :=
  (d.wid == 4 || d.wid == 6 || d.wid == 8) && d.wid == d.sgn.toNat + d.ew + d.mw && !d.reserved
    && decide (d.ew ≤ 5) && decide (d.inf ≤ 1) && decide (d.nan ≤ 2)
    && (d.ew != 0 || (d.inf == 0 && d.nan == 0))
    && (d.inf != 1 || (d.nan == 1 && decide (d.ew ≥ 2) && decide (d.mw ≥ 1)))
    && (d.nan != 1 || d.inf == 1)
    && (d.nan != 2 || decide (d.ew ≥ 1))
    && (!(decide (d.ew ≥ 1) && d.ovf) || d.inf == 1)

def Desc.fmt (d : Desc) : Fmt := ⟨d.ew, d.mw, d.bias, d.sgn, d.inf == 1, d.nan⟩

/-- Elements that a 32-bit lane packs (R37). -/
def Desc.count (d : Desc) : Nat := if d.wid = 4 then 8 else if d.wid = 6 then 5 else 4

/-- The exact value of an element, with the NaN-from-narrow event (R49, R56). -/
def Desc.value (d : Desc) (c : Nat) : FV × Events :=
  if d.ew = 0 then
    let i : Int := if d.sgn then signedOf d.wid c else (c : Nat)
    (.fin (decide (i < 0)) i.natAbs (-(d.bias : Int)), evNone)
  else
    let v := d.fmt.value c
    (v, if v == .nan then evNarrowNan else evNone)

/-- A value encoded into a descriptor's element (R49, R115). A negative value that a descriptor without a sign bit cannot hold and that
rounds to a nonzero one counts saturation alone, also where the rounding of a tiny value was inexact (DESIGN CHOICE, log entry 110). -/
def Desc.pack (d : Desc) (rnd : Rnd) (sat : Bool) (v : FV) : Nat × Events :=
  if d.ew = 0 then
    let lo : Int := if d.sgn then -(2 ^ (d.wid - 1) : Nat) else 0
    let hi : Int := if d.sgn then ((2 ^ (d.wid - 1) : Nat) : Int) - 1 else ((2 ^ d.wid : Nat) : Int) - 1
    match v with
    | .nan => (0, evInvalid)
    | .inf neg => (wrapInt d.wid (if neg then lo else hi), evSaturation)
    | .fin neg m e =>
      let (k, _) := roundTo rnd neg m (e + d.bias) 0
      let i : Int := if neg then -(k : Int) else k
      if lo ≤ i ∧ i ≤ hi then (wrapInt d.wid i, evNone)
      else if !d.ovf || sat then (wrapInt d.wid (if i < lo then lo else hi), evSaturation)
      else (wrapInt d.wid i, evNone)
  else if d.sgn then d.fmt.pack rnd (!d.ovf || sat) v
  else
    match v with
    | .nan => d.fmt.pack rnd (!d.ovf || sat) .nan
    | .inf neg => if neg then (0, evSaturation) else d.fmt.pack rnd (!d.ovf || sat) (.inf false)
    | .fin neg m e =>
      if neg then
        if m = 0 then (0, evNone)
        else
          let (c, ev) := ({ d.fmt with sgn := true } : Fmt).pack rnd true (.fin true m e)
          if fld c 0 (d.ew + d.mw) = 0 then (0, ev) else (0, evSaturation)
      else d.fmt.pack rnd (!d.ovf || sat) (.fin false m e)

/-! Sums of many terms. -/

/-- Largest floor(log2 |t|) over the nonzero finite members of a list. -/
def topExp : List FV → Option Int
  | [] => none
  | .fin _ m e :: ts =>
    if m = 0 then topExp ts
    else
      let k := (Nat.log2 m : Int) + e
      match topExp ts with
      | none => some k
      | some j => some (max k j)
  | _ :: ts => topExp ts

def hasNan (ts : List FV) : Bool := ts.any fun t => t == .nan
def hasInf (neg : Bool) (ts : List FV) : Bool := ts.any fun t => t == .inf neg
def allNegZero (ts : List FV) : Bool :=
  ts.all fun t => match t with | .fin neg m _ => neg && m == 0 | _ => false

/-- Exact sum of the members cut to multiples of 2^g: truncated toward zero (R52) or rounded to nearest even (R54). -/
def gridSum (nearest : Bool) (g : Int) : List FV → Int
  | [] => 0
  | .fin neg m e :: ts =>
    let (k, _) := roundTo (if nearest then .rne else .rtz) false m e g
    (if neg then -(k : Int) else k) + gridSum nearest g ts
  | _ :: ts => gridSum nearest g ts

/-- The shared shape of R52 and R54: specials, zeros, and otherwise a sum on a grid `depth` bits below the top member,
rounded once to FP32 under rne. -/
def gridTotal (nearest : Bool) (depth : Nat) (ts : List FV) : Word × Events :=
  if hasNan ts then (nan32, evNone)
  else if hasInf false ts && hasInf true ts then (nan32, evInvalid)
  else if hasInf false ts then (0x7F800000#32, evNone)
  else if hasInf true ts then (0xFF800000#32, evNone)
  else
    match topExp ts with
    | none => (if allNegZero ts then 0x80000000#32 else 0#32, evNone)
    | some k =>
      let g := k - depth
      out32 .rne false (ofSigned .rne (gridSum nearest g ts) g)

/-- The binned sum of FP32 contributions (R54), with ftz as R54 applies it. The empty sum is +0. -/
def binnedSum (ftz : Bool) (ws : List Word) : Word × Events :=
  match ws with
  | [] => (0#32, evNone)
  | _ =>
    let (r, ev) := gridTotal true 38 (ws.map (fin32 ftz))
    if ftz && fld r.toNat 23 8 == 0 && fld r.toNat 0 23 != 0 then (flush32 true r, ev ||| evUnderflow) else (r, ev)

/-- One element of a floating matrix pass (R52): products and accumulator. A product of zero and an infinity is a NaN
member. The NaN that the pass makes from opposite infinities or from 0 × ∞, with no NaN among its inputs, counts invalid (R39, R56). -/
def passElement (products : List (FV × FV)) (c : FV) : Word × Events :=
  let ps := products.map fun p => FV.mul p.1 p.2
  let nan := c == .nan || products.any fun p => p.1 == .nan || p.2 == .nan
  let made := if nan then evNone else ps.foldl (fun ev p => ev ||| p.2) evNone
  let (r, ev) := gridTotal false 48 (ps.map (·.1) ++ [c])
  (r, ev ||| made)

end Sys2Proof.Machine
end

