-- ==== Sys2Proof/Machine/State.lean ====
section
/-! DEFINITION. The state of the SH4960 as plain data: every register, memory, table, queue and operation in flight that
the spec gives the machine. Objects are numbered: core 0 to 127 = 32·die + 4·cluster + core; wave = 32·core + core wave
slot; path = 4·wave + slot, and 16384 + 16·core + entry for a helper path; block = 32·cluster + resident slot; tile entry =
128·cluster + entry; clearing context = 16·die + context. Register tables are keyed by owner: a wave, or 4096 + 16·core +
entry for a helper path. -/

namespace Sys2Proof.Machine

/-! Who moves (log entry 3). -/

/-- The agent whose turn it is (R317). -/
inductive Agent
  | idle
  | path (pid : Nat)
  | stream (bid : Nat)
  | clearing (cid : Nat)
deriving DecidableEq, Repr

/-- What one entry of the schedule does: an agent issues, a pipe picks the path that issues (R198), an event happens, or soft errors
strike storage (R384; log entry 16). -/
inductive Act
  | agent (a : Agent)
  | pipe (core pipe : Nat)
  | event (i : Instr)
  | strike (e : SoftErrors)
deriving DecidableEq, Repr

/-- One entry of the schedule: the cc in which it happens and what it does. -/
structure Move where
  cc : Nat
  act : Act
deriving DecidableEq, Repr

/-- Interrupts to the host (R59, R162, R269, R270, R302, R347, R357, R387, R390, R393). -/
inductive Irq
  | waveStopped (wid slot pc cause : Nat)
  | numeric (core : Nat)
  | streamStopped (bid addr cause : Nat)
  | ringStopped (ring : Nat)
  | launchDone (launch : Nat)
  | clearing (cid : Nat)
  | clusterStopped (cluster : Nat)
  | ras (outcome row : Nat)
  | thermal
  | bootStopped
  | pageRequest (addr : Nat)
deriving DecidableEq, Repr

/-! Paths and waves. -/

/-- Where a byte lies once its address is translated: physical memory, a COMP page's frame and offset, a core's SRAM,
another module, or a B-deck byte
(R128, R239, R335, R341, R351). -/
inductive Loc
  | phys (pa : Nat)
  | comp (frame off : Nat)
  | sram (core off : Nat)
  | remote (module addr : Nat)
  | bdeck (index : Nat)
deriving DecidableEq, Repr

/-- A token of the reconvergence stack (R203, R205). `awaits` says that a forced merge is tested when a path next arrives (R212),
`spilled` that it lies in the spill area (R204). -/
structure Token where
  id : Nat
  parent : Option Nat
  rejoin : Nat
  mask : Lanes
  arrived : Lanes
  loop : Bool
  split : Bool
  ppc : Nat
  pmask : Lanes
  forced : Bool
  awaits : Bool
  spilled : Bool
deriving DecidableEq, Repr

/-- State of a path slot (R201, R202). -/
inductive PathState | ready | waiting | parkedRejoin | parkedMeeting
deriving DecidableEq, Repr

/-- What a waiting path waits for, in the order of the reasons of R366, with the PC to blame where one applies: `barrier`
is a wait in bar.wait or bar.sync at that barrier, `arrival` a bar.arrive whose own arrival is pending, `data` the wait of
the path that a splitting load makes (R136), `breakpoint` a path left at a bundle whose match stops its cluster (R375). -/
inductive WaitFor
  | none | register (blame : Nat) | waitc (blame : Nat) | counter (blame : Nat) | line (blame : Nat) | vault | translation
  | barrier (n : Nat) | arrival | queue | loan | hold | data (op : Nat) | breakpoint
deriving DecidableEq, Repr

/-- A trap that is due at a later boundary (R307): its rank in that rule's order, its cause, its sr.eaux, the lane that raised it
where one lane did, and the cc in which it was raised (R296). -/
structure DueTrap where
  rank : Nat
  cause : Nat
  eaux : DWord
  lane : Option Nat
  cc : Nat
deriving DecidableEq, Repr

/-- A hint word of the bundle that the path has begun (R18, R24). -/
structure HintWord where
  addr : Nat
  word : Word
deriving DecidableEq, Repr

/-- One repay register of a loan and the contributions committed to it (R84, R85). -/
structure Repay where
  reg : Nat
  red : RedOp
  ty : RepayTy
  values : List Word
deriving DecidableEq, Repr

/-- What an access will record when it is performed, if it matches armed watchpoints: WHSRC without its wp field, WHHLP,
and each matching watchpoint with its first matching byte (R359, R373). -/
structure Watch where
  cluster : Nat
  src : DWord
  hlp : Word
  hits : List (Nat × Nat)
deriving DecidableEq, Repr

/-- An uncommitted entry of an iteration: a store with its number among operations, or a contribution to a repay register (R83, R84,
R291). -/
inductive Held
  | store (id : Nat) (cells : List (Loc × Byte)) (watch : Option Watch)
  | repay (reg : Nat) (value : Word)
deriving DecidableEq, Repr

/-- A pending loan, held with its recruiter path (R81, R294). `dropped` counts the contributions beyond the 2^24th that the lnext or
ldone in progress has dropped so far (R60, R84). -/
structure Loan where
  lane : Nat
  next : Nat
  last : Nat
  pool : List Nat
  snapshot : Sparse Word
  entry : Nat
  demand : Nat
  repays : List Repay
  current : Option Nat
  held : List Held
  closing : Bool
  dropped : Nat
deriving DecidableEq, Repr

/-- A store held by an open replay region: one instruction, all its lanes, with its number among operations (R80, R291). -/
structure HeldStore where
  id : Nat
  cells : List (Loc × Byte)
  watch : Option Watch
deriving DecidableEq, Repr

/-- An open replay region (R80, R254, R300). -/
structure Region where
  start : Nat
  token : Option Nat
  entry : Bool
  stores : List HeldStore
deriving DecidableEq, Repr

/-- A path of a wave, or a helper path (R61, R64, R202). `helperTrap` is the level at which the path took a helper fault whose eret
has not come: 1 or 2 (R302), 0 for none (R296). `readyAt` and `issuedAt` count cycles of the path's island (R7). `prior` holds the
operations in flight that precede the path's next access in path order (R319, R327). `resident` is the cycle of its last restore
(R365), and `parkedTrap` the token at which it was parked when it took a trap, with that trap's level, 1 or 2 (R212).
`traceSync` says that it owes a SYNC (R382), `traceMute` that its records wait for that SYNC, and `traceNew` that its creation is not
announced yet (R381). `arrivedAt` is the barrier instruction at which its wait has been counted (R96), and `begun` says that this is a bar.sync, whose bundle has issued (R358). -/
structure Path where
  pc : Nat
  mask : Lanes
  flags : BitVec 8
  token : Option Nat
  st : PathState
  wait : WaitFor
  sys : Bool
  epc : DWord
  ecause : Word
  eaux : DWord
  emask : Lanes
  loanst : Word
  loan : Option Loan
  hints : List HintWord
  sleep : Nat
  waitFrom : Option Nat
  readyAt : Nat
  issuedAt : Nat
  lastFirst : Nat
  due : List DueTrap
  exempt : Bool
  hold : Bool
  ss : Bool
  region : Option Region
  arrivedAt : Option Nat
  begun : Bool
  passOver : Bool
  parkedTrap : Option (Nat × Nat)
  helperTrap : Nat
  ended : Bool
  traceSync : Bool
  traceMute : Bool
  traceNew : Bool
  prior : List Nat
  resident : Nat
deriving DecidableEq, Repr

/-- What a helper path has beyond its `Path` (R64, R292): its recruiter, its lender, the lanes it holds and what each holds. -/
structure Helper where
  recruiter : Nat
  lender : Nat
  lanes : Lanes
  iters : Sparse Nat
  held : Sparse (List Held)
  blocks : Nat
deriving DecidableEq, Repr

/-- A wave's pin (R147). -/
structure Pin where
  record : Nat
  version : Word
  delta : DWord
deriving DecidableEq, Repr

/-- What a pixel or .replay wave restarts from (R254): its start mask and registers v0 to v7, sr.item and sr.nbr by lane. -/
structure StartRecord where
  mask : Lanes
  vregs : Sparse Word
  items : Sparse Word
  nbrs : Sparse Word
deriving DecidableEq, Repr

/-- A wave (R61, R201, R310). Its core and core wave slot are its number. `reissues` counts the consecutive re-issues of a
killed graphics wave that faulted at one address (R255); `skid` and `last` count the bundles of a stop and hold the first word of
the last one issued, `lastAt` being the island cycle of that issue (R358); `idled` holds the lanes that became idle by an exit in the
island cycle `idledAt` (R286); `due` holds the traps directed to a killed wave, which has no path, until it is issued again
(R162); `issuedIn` is the island cycle in which it last issued (R219), and `freed` that in which a merge freed each of its slots
(R199). -/
structure Wave where
  block : Nat
  index : Nat
  role : Nat
  lanesL : Nat
  live : Lanes
  lent : Lanes
  regCount : Nat
  tvec : DWord
  pin : Option Pin
  positions : List Word
  counts : List Word
  arrivals : BitVec 16
  seen : Sparse Word
  reservation : Nat
  start : Option StartRecord
  entry : Nat
  killed : Bool
  reissues : Nat × Nat
  skid : Nat
  last : Nat
  lastAt : Option Nat
  idled : Lanes
  idledAt : Nat
  due : List DueTrap
  issuedIn : Option Nat
  freed : Sparse Nat
deriving DecidableEq, Repr

/-! Blocks, streams, tiles. -/

/-- An operand map of a stream (R160, R163). -/
structure OperandMap where
  m : Nat
  n : Nat
  k : Nat
  kofs : Nat
  row : Nat
  ta : Bool
  tb : Bool
deriving DecidableEq, Repr

/-- An entry of a stream's dependency table (R161, R162): its number, its word's address, its operation or the cause of
its defect, the value of its pfx word, the operand maps captured at entry, how far it has got, and the island cycle in which its
next pass became eligible (R242). -/
structure StreamEntry where
  id : Nat
  addr : Nat
  op : Option StreamOp
  cause : Nat
  pfx : Option Nat
  map : OperandMap
  map2 : OperandMap
  issued : Bool
  begun : Bool
  nextPass : Nat
  inFlight : Nat
  since : Option Nat
deriving DecidableEq, Repr

/-- State of a block's stream (R160, R162, R169). -/
inductive StreamState | running | ended | stopped
deriving DecidableEq, Repr

/-- A stream context (R160). -/
structure Stream where
  pc : Nat
  maps : Sparse OperandMap
  counters : Sparse Word
  seen : Sparse Word
  entries : List StreamEntry
  state : StreamState
  nextId : Nat
  reservation : Option Nat
deriving DecidableEq, Repr

/-- One level of a hash-grid descriptor (R171). -/
structure HashLevel where
  base : Nat
  shadow : Nat
  res : Nat
  pinned : Bool
  four : Bool
  lt : Nat
deriving DecidableEq, Repr

/-- A numbered barrier of a block (R86). -/
structure Barrier where
  phase : Word
  count : Nat
deriving DecidableEq, Repr

/-- A resident block (R231, R267, R310); `first` is the core wave slot of its wave 0 (R378). -/
structure Block where
  launch : Nat
  index : Nat
  core : Nat
  waves : List Nat
  first : Nat
  base : Nat
  scratch : Nat
  allotment : Nat
  tiles : Nat
  nf : Sparse Word
  awb : Word
  awl : Word
  barriers : Sparse Barrier
  hash : Option (List HashLevel)
  stream : Option Stream
  sucstart : Bool
  wpredDone : Bool
deriving DecidableEq, Repr

/-- State of a tile (R153, R236). -/
inductive TileState | empty | filling | ready | draining
deriving DecidableEq, Repr

/-- An allotted entry of a cluster's tile table (R235). -/
structure Tile where
  base : Nat
  rows : Nat
  cols : Nat
  pitch : Nat
  bdeck : Bool
  fmt : Nat
  defined : Bool
  st : TileState
  rel : Bool
  refs : Nat
  own : Nat
  tn : Nat
deriving DecidableEq, Repr

/-- A lane's intersection query (R177, R252): the ray's eight words or the pixel's two, the root, and the key of the last
hit written. -/
structure Query where
  tile : Bool
  words : List Word
  root : Nat
  last : Option (Word × Word)
deriving DecidableEq, Repr

/-- The context that runs: all state that a save captures with its waves and blocks (R310). `queryFrom` holds, by lane, the number of
the first operation that is younger than the last clearing of the lane's query state (R177). -/
structure Context where
  running : Bool
  halted : Bool
  waves : Sparse Wave
  paths : Sparse Path
  helpers : Sparse Helper
  sregs : Sparse Word
  vregs : Sparse Word
  kregs : Sparse Lanes
  items : Sparse Word
  nbrs : Sparse Word
  queries : Sparse Query
  queryFrom : Sparse Nat
  tokens : Sparse (List Token)
  blocks : Sparse Block
  tiles : Sparse Tile
deriving DecidableEq, Repr

/-! Operations in flight. -/

/-- Wait counter classes, and the class of a held store that commits, which no counter covers (R157). -/
inductive OpClass | ld | st | cp | tl | held
deriving DecidableEq, Repr

/-- Destination registers of an operation: vector or scalar registers of an owner (R135). -/
inductive Dest
  | vector (first count : Nat)
  | scalar (first count : Nat)
  | none
deriving DecidableEq, Repr

/-- Operations of an atomic (R29, R138). -/
inductive AtomOp | add32 | addF32 | minI | minN | maxI | maxN | and | or | xor | swap | cas | add64
deriving DecidableEq, Repr

/-- What an operation does when it is performed (R157). -/
inductive OpKind
  | load (w : MemWidth) (accs : List (Nat × Loc)) (held : List (Nat × Loc × Byte))
  | store (cells : List (Loc × Byte))
  | atomic (a : AtomOp) (accs : List (Nat × Loc × DWord))
  | values (vals : List (Nat × List Word)) (bad : Option (DWord × Option Nat))
  | texel (nearest : Bool) (lanes : List (Nat × List Word × List (Option Loc) × Word))
  | gather (fours : List Bool) (lanes : List (Nat × List (List Word × List Loc)))
  | scatter (adds : List (Loc × Word × Word))
  | hashDesc (levels : List HashLevel)
  | query (states : List (Nat × Query)) (next : Bool)
  | copyFill (tile : Nat) (pairs : List (Loc × Loc))
  | copyDrain (tile : Nat) (pairs : List (Loc × Loc))
  | copyMem (pairs : List (Loc × Loc))
  | put (pieces : List (Loc × List Byte)) (left : List Nat)
  | vaultRead (vals : List (Nat × List Word))
  | vaultWrite (words : List (Nat × Word))
  | table (entry : Nat) (desc : Option Tile)
deriving DecidableEq, Repr

/-- An operation that has issued and is not complete, or that its counter has not yet released (R157, R226). `first` is the first
word of its bundle, and `vas` gives the virtual address of each place that a read of it names, for sr.eaux (R304). `after` holds the
operations that precede it in path order (R319, R327). `seen` is the scope at which a fence or a release has made a pending store
visible (R320), and `own` says that a fence.own follows it (R140). `due` is the island cycle in which a scratchpad access is performed
at the own core's bank and `far` that at another core's (R356), 0 where there is none left, and `got` what the lanes have received whose
bank has performed theirs, with the place of uncorrectable data. `slots` is how many of its core's memory requests it holds (R1). -/
structure Op where
  id : Nat
  owner : Nat
  pid : Nat
  pc : Nat
  first : Nat
  sys : Bool
  cls : OpClass
  dest : Dest
  mask : Lanes
  kind : OpKind
  done : Bool
  dropped : Bool
  vas : List (Loc × Nat)
  watch : Option Watch
  after : List Nat
  seen : Option Scope
  own : Bool
  due : Nat
  far : Nat
  got : List (Nat × List Word × Option Loc)
  slots : Nat
deriving DecidableEq, Repr

/-! Control pages. -/

/-- A translation held by a TLB (R336): page number in units of 64 KiB or 2 MiB, and the leaf entry. -/
structure TlbEntry where
  big : Bool
  page : Nat
  pte : DWord
deriving DecidableEq, Repr

/-- An entry of a walk cache (R336): level, table index path, and the pointer entry. -/
structure WalkEntry where
  level : Nat
  index : Nat
  pte : DWord
deriving DecidableEq, Repr

/-- A claim that waits for registers (R275). -/
structure Claim where
  pid : Nat
  count : Nat
deriving DecidableEq, Repr

/-- A core's registers and queues: numerical events (R58), wait limit (R306), skid records (R358), sampling (R367), trace
(R379), item queue (R143), register pools and claims (R275), escrow (R291), TLB (R336). `trLostPage` holds the page at which the
last loss of trace records began and the page whose records are being lost (R383). -/
structure Core where
  nevAct : BitVec 8
  nevEn : BitVec 8
  nevFrz : Bool
  nevHit : BitVec 8
  nevCnt : Sparse Word
  nevWin : Sparse Nat
  nevThr : Sparse Word
  nevStart : Sparse Nat
  wlim : Word
  skid : Sparse (Nat × Nat)
  smpEn : Bool
  smpLsz : Nat
  smpPer : Nat
  smpBase : Nat
  smpWp : Nat
  smpRp : Nat
  smpDrop : Nat
  smpLast : Nat
  trEn : Bool
  trWrap : Bool
  trLsz : Nat
  trBase : Nat
  trWp : Nat
  trGap : Bool
  trFull : Bool
  trLost : Nat
  trCount : Nat
  trLostPage : Option (Nat × Nat)
  trOwed : Nat
  q0 : List (Word × List Word)
  itemCounter : Word
  claims : List (Nat × Claim)
  tlb : List TlbEntry
deriving DecidableEq, Repr

/-- A watchpoint (R372). -/
structure Watchpoint where
  adr : DWord
  ctl : Word
  hits : Nat
deriving DecidableEq, Repr

/-- An instruction breakpoint (R375). -/
structure Breakpoint where
  adr : Nat
  en : Bool
  stp : Bool
  hits : Nat
deriving DecidableEq, Repr

/-- A granted matrix pass in flight (R242, R243): stream context, table entry, pass index. -/
structure Pass where
  bid : Nat
  entry : Nat
  index : Nat
deriving DecidableEq, Repr

/-- A cluster's registers and engines: hit record (R359), debug control (R371), watchpoints, breakpoints, teller (R241),
TLB (R336), degraded mark (R386). `stopping` is the island cycle in which a stop began (R357), and `asked` a stop that was met while
the cluster was stopped: its cc and its hit record (R371). -/
structure Cluster where
  whClk : Nat
  whSrc : DWord
  whAdr : DWord
  whMore : Nat
  whHlp : Word
  stopped : Bool
  stepping : Option Nat
  stepFrom : Nat
  stepNoIssue : Bool
  dbgPath : BitVec 9
  stopping : Option Nat
  asked : Option (Nat × DWord × DWord × Word)
  watch : Sparse Watchpoint
  breaks : Sparse Breakpoint
  reservations : Sparse Nat
  passes : List Pass
  tlb : List TlbEntry
  degraded : Bool
deriving DecidableEq, Repr

/-! Clearing engines. -/

/-- State of a clearing context (R347). -/
inductive ClearState | idle | running | parked | halted | faulted | stopped
deriving DecidableEq, Repr

/-- A buffer of a clearing context (R182). -/
structure Buffer where
  wr : Bool
  base : Nat
  len : Nat
deriving DecidableEq, Repr

/-- A launch counter (R192). -/
structure KickCounter where
  count : Word
  ch : Nat
  record : Nat
deriving DecidableEq, Repr

/-- Kinds of data operation of a chunk program (R186, R187). -/
inductive ChunkKind
  | send (peer ch nth : Nat)
  | recv (peer ch nth : Nat)
  | red (shares : List (Nat × Nat)) (ch : Nat) (rop : Nat)
  | copy
deriving DecidableEq, Repr

/-- A data operation that a chunk program has issued and not completed (R185, R186): its source and destination bytes, and
for each share the payloads received so far. `stamp` is its number among the module's operations (R338). -/
structure ChunkOperation where
  id : Nat
  stamp : Nat
  pc : Nat
  kind : ChunkKind
  src : List Loc
  dst : List Loc
  srcVa : Nat
  dstVa : Nat
  started : Bool
  got : Sparse (List Byte)
  flits : Nat
deriving DecidableEq, Repr

/-- A clearing context (R182, R346, R347). -/
structure Clear where
  desc : Nat
  hie : Bool
  st : ClearState
  irq : Bool
  cause : Nat
  statPc : Nat
  pc : Nat
  d : Sparse Word
  buffers : Sparse Buffer
  peers : Sparse Endpoint
  chunk : Nat
  program : List Word
  counters : Sparse KickCounter
  ops : List ChunkOperation
  nextOp : Nat
  tmo : Nat
  timer : Nat
  timerFrom : Option Nat
  cls : Nat
  pausedBy : List Endpoint
  closed : List Endpoint
  sent : Sparse Nat
  used : Sparse Nat
  root : Nat
deriving DecidableEq, Repr

/-! Scheduler. -/

/-- What writing 1 to stp does (R269): go on at the head, after the rejected entry, or after reading the descriptor again. -/
inductive ResumeAs | next | skip | reread
deriving DecidableEq, Repr

/-- A command ring (R262, R263). `waiting` says that a wait entry holds it. `owed` is a read of the descriptor's tail that waits for a
page that is moving, with whether the notified value is to be checked first (R264, R340). -/
structure Ring where
  desc : Nat
  notTail : Word
  stp : Bool
  cause : Nat
  err : Nat
  resume : ResumeAs
  tail : Word
  waiting : Bool
  owed : Option Bool
deriving DecidableEq, Repr

/-- A launch that has been accepted (R265, R267): its ring, the address of its entry, its record, the counts of its levels
(an unread indirect count is 0) and whether they have been read (R266), its blocks B once known, the core of each block dispatched,
the blocks that have completed or executed sucstart, whether it is deferred (R283), and whether a frame entry has made it
dispatchable again (R282). -/
structure Launch where
  id : Nat
  ring : Nat
  entry : Nat
  record : List Byte
  counts : List Nat
  counted : Bool
  blocks : Nat
  known : Bool
  placed : List (Nat × Nat)
  completed : List Nat
  sucstarted : List Nat
  deferred : Bool
  requeued : Bool
deriving DecidableEq, Repr

/-- A move of the migration engine in progress (R340). -/
structure PageMove where
  pte : Nat
  old : Nat
  new : Nat
  copied : Bool
deriving DecidableEq, Repr

/-- Registers of the device control page; `tlbMark` is the number of the first operation issued after the last invalidation
began, `halvedAt` the cc of the last halving of the hotness table, `migTimes` when the moves of the last ms began, and `preempt` says that a pre-emption
request waits for the end of a dump (R377) (R263, R278, R281, R303, R337, R376, R387, R388, R392, R394). -/
structure Device where
  cqdrop : Nat
  tqbase : Nat
  tqEn : Bool
  tqLseg : Nat
  fgbase : Nat
  ptroot : Nat
  tlbinv : DWord
  tlbBusy : Bool
  tlbMark : Nat
  hotbase : Nat
  rmapbase : Nat
  migEn : Bool
  migUp : Nat
  migDn : Nat
  migRate : Nat
  poolh : Nat
  pooll : Nat
  migstat : Nat
  halvedAt : Nat
  migTimes : List Nat
  tvec : Nat
  dumpadr : Nat
  dumplen : Nat
  dumpBusy : Bool
  dumpSt : Nat
  rasEn : Bool
  rasIrq : Bool
  raslog : Nat
  rasce : Nat
  rasue : Nat
  attadr : Nat
  attBusy : Bool
  attSt : Nat
  preempt : Bool
deriving DecidableEq, Repr

/-- An island's reading (R388), and its clock: the cycles counted up to the reference cc `since` (R7). -/
structure Island where
  tj : Nat
  hr : Nat
  mhz : Nat
  mv : Nat
  stretched : Bool
  throttled : Bool
  cycles : Nat
  since : Nat
deriving DecidableEq, Repr

/-- Repair state (R384 to R386): corrected errors by row with their times, assays running, each on a core, and waiting, spares used by
structure and bank, rows withdrawn, frames retired, granules that hold uncorrectable data, and log entries that wait to be written
(R340, R387). -/
structure Ras where
  history : List (RasRow × Nat)
  running : List (RasRow × Nat)
  waiting : List RasRow
  spares : List ((Nat × Nat) × Nat)
  withdrawn : List RasRow
  retired : List Nat
  bad : List Nat
  log : List (List Byte)
deriving DecidableEq, Repr

/-- Boot (R393): stages passed, whether boot has stopped, and the measurements of stages 0 to 3. -/
structure Boot where
  stage : Nat
  stopped : Bool
  measurements : List (BitVec 512)
deriving DecidableEq, Repr

/-- A context that has been saved (R310): the address of its save area (R311), its page tables' root as PTROOT was, its waves and
blocks, and copies of the memories that a save captures. -/
structure SavedContext where
  area : Nat
  root : Nat
  context : Context
  sram : Sparse Byte
  vault : Sparse Word
  bdeck : Sparse Byte
  q0 : Sparse (List (Word × List Word))
  itemCounter : Sparse Word
  wlim : Sparse Word
  stoppedClusters : List Nat
deriving DecidableEq, Repr

/-- The whole machine; `dumpClk` is sr.clk at the halt of the dump in progress (R378). -/
structure State where
  clk : Nat
  schedule : List Move
  cur : Agent
  free : Nat
  nextOp : Nat
  irqs : List Irq
  hostData : List Byte
  stopped : Bool
  run : Context
  saved : List SavedContext
  mem : List Host.Cell
  sram : Sparse Byte
  vault : Sparse Word
  bdeck : Sparse Byte
  ops : List Op
  cores : Sparse Core
  clusters : Sparse Cluster
  walks : Sparse (List WalkEntry)
  clears : Sparse Clear
  flits : List Flit
  slots : List (Endpoint × Endpoint × Nat)
  rings : Sparse Ring
  inner : Sparse (List Nat)
  tq : Sparse (Nat × Nat)
  launches : List Launch
  dev : Device
  islands : Sparse Island
  ras : Ras
  scanAt : Nat
  move : Option PageMove
  linksDown : List Nat
  boot : Boot
  dumpClk : Nat
deriving DecidableEq, Repr

/-- Why the machine stops. -/
inductive Fault
  /-- Every clock of the module has stopped at 115 °C and only a host reset starts it again (R390). Raised by `step`. Safe:
  the spec gives no further effect. -/
  | clocksStopped
deriving DecidableEq, Repr

/-- Why the model gives an instruction no meaning. -/
inductive Refusal
  /-- The instruction has no meaning in this model yet. Raised by an arm of `exec`. Safe: nothing is claimed of it. -/
  | notModelled (mnemonic : String)
deriving DecidableEq, Repr

/-! Reset values. Where a register's rule gives a reset value it is that one; log entry 2 lists the others. -/

def Context.empty : Context :=
  { running := false, halted := false, waves := [], paths := [], helpers := [], sregs := [], vregs := [], kregs := [],
    items := [], nbrs := [], queries := [], queryFrom := [], tokens := [], blocks := [], tiles := [] }

def Core.reset : Core :=
  { nevAct := 0, nevEn := 0xFF, nevFrz := false, nevHit := 0, nevCnt := [], nevWin := [], nevThr := [], nevStart := [],
    wlim := 0, skid := [], smpEn := false, smpLsz := 0, smpPer := 0, smpBase := 0, smpWp := 0, smpRp := 0, smpDrop := 0,
    smpLast := 31, trEn := false, trWrap := false, trLsz := 0, trBase := 0, trWp := 0, trGap := false, trFull := false,
    trLost := 0, trCount := 0, trLostPage := none, trOwed := 0, q0 := [], itemCounter := 0, claims := [], tlb := [] }

def Watchpoint.reset : Watchpoint := ⟨0, 0, 0⟩

def Breakpoint.reset : Breakpoint := ⟨0, false, false, 0⟩

def Cluster.reset : Cluster :=
  { whClk := 0, whSrc := 0, whAdr := 0, whMore := 0, whHlp := 0, stopped := false, stepping := none, stepFrom := 0, stepNoIssue := false,
    dbgPath := 0, stopping := none, asked := none, watch := [], breaks := [], reservations := [], passes := [], tlb := [],
    degraded := false }

def Clear.reset : Clear :=
  { desc := 0, hie := false, st := .idle, irq := false, cause := 0, statPc := 0, pc := 0, d := [], buffers := [],
    peers := [], chunk := 256, program := [], counters := [], ops := [], nextOp := 0, tmo := 0, timer := 0,
    timerFrom := none, cls := 0, pausedBy := [], closed := [], sent := [], used := [], root := 0 }

def Ring.reset : Ring := ⟨0, 0, false, 0, 0, .next, 0, false, none⟩

def Device.reset : Device :=
  { cqdrop := 0, tqbase := 0, tqEn := false, tqLseg := 0, fgbase := 0, ptroot := 0, tlbinv := 0, tlbBusy := false, tlbMark := 0,
    hotbase := 0, rmapbase := 0, migEn := false, migUp := 0, migDn := 0, migRate := 0, poolh := 0, pooll := 0,
    migstat := 0, halvedAt := 0, migTimes := [], tvec := 0, dumpadr := 0, dumplen := 0, dumpBusy := false, dumpSt := 0, rasEn := true, rasIrq := false,
    raslog := 0, rasce := 0, rasue := 0, attadr := 0, attBusy := false, attSt := 0, preempt := false }

/-- A cluster's island runs at the reference clock, any other at the uncore's 2.4 GHz, until its controller sets another (R1, R389; log
entry 99). -/
def Island.reset (i : Nat) : Island := ⟨0, 0, if i < 32 then 3600 else 2400, 0, false, false, 0, 0⟩

def OperandMap.zero : OperandMap := ⟨0, 0, 0, 0, 0, false, false⟩

def Barrier.reset : Barrier := ⟨0, 0⟩

/-- The module right after reset: nothing resident, memories and tables empty, registers at their reset values. -/
def State.reset : State :=
  { clk := 0, schedule := [], cur := .idle, free := 0, nextOp := 0, irqs := [], hostData := [], stopped := false,
    run := Context.empty, saved := [], mem := [], sram := [], vault := [], bdeck := [], ops := [], cores := [],
    clusters := [], walks := [], clears := [], flits := [], slots := [], rings := [], inner := [], tq := [], launches := [],
    dev := Device.reset, islands := [],
    ras := { history := [], running := [], waiting := [], spares := [], withdrawn := [], retired := [], bad := [], log := [] },
    scanAt := 0, move := none, linksDown := [], boot := ⟨0, false, []⟩, dumpClk := 0 }

end Sys2Proof.Machine
end

