-- ==== Sys2Proof/Machine/Tables.lean ====
section
/-! DEFINITION. Tables by number, and global memory as a canonical list of cells (R318, R332). -/

namespace Sys2Proof.Machine

/-- The entry of number `n`, if the table has one. -/
def tget {α : Type} : Sparse α → Nat → Option α
  | [], _ => none
  | (k, v) :: m, n => if n = k then some v else if n < k then none else tget m n

/-- The table with entry `n` set. -/
def tset {α : Type} : Sparse α → Nat → α → Sparse α
  | [], n, v => [(n, v)]
  | (k, w) :: m, n, v =>
    if n = k then (n, v) :: m else if n < k then (n, v) :: (k, w) :: m else (k, w) :: tset m n v

/-- The table without entry `n`. -/
def tdel {α : Type} (m : Sparse α) (n : Nat) : Sparse α := m.filter fun e => e.1 != n

/-- The table without the entries of numbers `lo` to `hi - 1`. -/
def tdrop {α : Type} (m : Sparse α) (lo hi : Nat) : Sparse α := m.filter fun e => e.1 < lo || hi ≤ e.1

/-- The entries of numbers `lo` to `hi - 1`. -/
def trange {α : Type} (m : Sparse α) (lo hi : Nat) : Sparse α := m.filter fun e => lo ≤ e.1 && e.1 < hi

/-- The entry of number `n`, or a default. -/
def tgetD {α : Type} (d : α) (m : Sparse α) (n : Nat) : α := (tget m n).getD d

/-- Several entries set in turn. -/
def tsets {α : Type} (m : Sparse α) : List (Nat × α) → Sparse α
  | [] => m
  | (n, v) :: es => tsets (tset m n v) es

/-- An element put into a sorted list, before those that it may precede. -/
def insertBy {α : Type} (le : α → α → Bool) (x : α) : List α → List α
  | [] => [x]
  | y :: ys => if le x y then x :: y :: ys else y :: insertBy le x ys

/-- A list in order; equals keep their order. -/
def sortBy {α : Type} (le : α → α → Bool) : List α → List α
  | [] => []
  | x :: xs => insertBy le x (sortBy le xs)

/-- What a byte of memory that nothing has written reads as (log entry 1). -/
def unlistedByte : Byte := 0#8

/-- Cells of strictly rising address, each of them above `lo`, none equal to what an unlisted address reads as. -/
def cellsAbove : Option Nat → List Host.Cell → Bool
  | _, [] => true
  | none, (a, b) :: m => b != unlistedByte && cellsAbove (some a) m
  | some lo, (a, b) :: m => decide (lo < a) && b != unlistedByte && cellsAbove (some a) m

/-- The canonical form of memory. -/
def Memory.wf (m : List Host.Cell) : Bool := cellsAbove none m

/-- The byte at a physical address. -/
def Memory.byte (m : List Host.Cell) (a : Nat) : Byte :=
  match m with
  | [] => unlistedByte
  | (k, v) :: m => if a = k then v else if a < k then unlistedByte else Memory.byte m a

/-- Memory with one byte written; a byte that reads as an unlisted one is not listed. -/
def Memory.setByte (m : List Host.Cell) (a : Nat) (b : Byte) : List Host.Cell :=
  match m with
  | [] => if b = unlistedByte then [] else [(a, b)]
  | (k, v) :: m =>
    if a = k then (if b = unlistedByte then m else (a, b) :: m)
    else if a < k then (if b = unlistedByte then (k, v) :: m else (a, b) :: (k, v) :: m)
    else (k, v) :: Memory.setByte m a b

/-- `n` bytes from a physical address, lowest address first. -/
def Memory.bytes (m : List Host.Cell) : Nat → Nat → List Byte
  | _, 0 => []
  | a, n + 1 => Memory.byte m a :: Memory.bytes m (a + 1) n

/-- Memory with bytes written from a physical address. -/
def Memory.write (m : List Host.Cell) : Nat → List Byte → List Host.Cell
  | _, [] => m
  | a, b :: bs => Memory.write (Memory.setByte m a b) (a + 1) bs

/-- A little-endian number (R37). -/
def numOf : List Byte → Nat
  | [] => 0
  | b :: bs => b.toNat + 256 * numOf bs

/-- The low `n` bytes of a number, little-endian (R37). -/
def bytesOf : Nat → Nat → List Byte
  | 0, _ => []
  | n + 1, v => BitVec.ofNat 8 v :: bytesOf n (v / 256)

/-- An `n`-byte little-endian number in memory. -/
def Memory.num (m : List Host.Cell) (a n : Nat) : Nat := numOf (Memory.bytes m a n)

/-- Whether a physical address range lies in one of the ranges of R332. -/
def physValid (a : Nat) : Bool :=
  decide (a < 0x8000000000)
    || (decide (0x20000000000 ≤ a) && decide (a < 0x40000000000))
    || (decide (0x8000000000000 ≤ a) && decide (a < 0x10000000000000))

/-- Whether a physical address lies in host-coherent memory (R332). -/
def physHost (a : Nat) : Bool := decide (0x8000000000000 ≤ a)

end Sys2Proof.Machine
end

