-- ==== Sys2Proof/Machine/Operands.lean ====
section
/-! DEFINITION. Operand forms: which registers an instruction reads and writes, which hint words it takes, and the classes
that the rules of issue, helpers, counters and replay regions put it in (R14, R15, R20, R22, R62 to R64, R80, R157, R158,
R176, R208, R306). -/

namespace Sys2Proof

open Machine

/-- Register ranges of an instruction, each a first register and a count: vector read and written, scalar read and written. -/
structure Regs where
  vr : List (Nat × Nat)
  vw : List (Nat × Nat)
  sr : List (Nat × Nat)
  sw : List (Nat × Nat)
deriving DecidableEq, Repr

def Regs.none : Regs := ⟨[], [], [], []⟩

/-- A scalar operation on operands of `n` registers. -/
def sForm (n d : Nat) (as : List Nat) : Regs := ⟨[], [], as.map (·, n), [(d, n)]⟩
/-- A vector operation on single registers. -/
def vForm (d : Nat) (as : List Nat) : Regs := ⟨as.map (·, 1), [(d, 1)], [], []⟩

/-- Registers that one lane's element of this width fills (R129). -/
def MemWidth.regs : MemWidth → Nat
  | .b64 => 2
  | .b128 => 4
  | .n8 | .n16 | .b32 | .i8 | .i16 => 1

/-- Bytes of an access of this width (R129). -/
def MemWidth.bytes : MemWidth → Nat
  | .n8 | .i8 => 1
  | .n16 | .i16 => 2
  | .b32 => 4
  | .b64 => 8
  | .b128 => 16

/-- A special register's kind and width in scalars (R16). -/
inductive SrKind | perLane | scalar (width : Nat)
deriving DecidableEq, Repr

/-- The special register table (R16): kind, whether its reads and writes are for system mode, and whether it has writes. -/
def srKind (n : Nat) : Option SrKind :=
  if n ≤ 0x002 then some .perLane
  else if 0x010 ≤ n ∧ n ≤ 0x014 then some (.scalar 1)
  else if 0x018 ≤ n ∧ n ≤ 0x027 then some (.scalar 1)
  else if 0x030 ≤ n ∧ n ≤ 0x032 then some (.scalar 1)
  else if n = 0x038 then some (.scalar 2)
  else if n = 0x042 then some (.scalar 1)
  else if n = 0x040 ∨ n = 0x041 ∨ n = 0x043 then some (.scalar 2)
  else if n = 0x044 then some (.scalar 3)
  else none

def srWidth (n : Nat) : Nat :=
  match srKind n with
  | some (.scalar w) => w
  | _ => 1

/-- Registers an instruction reads and writes, with the mod fields and the number of pfx words of its bundle. -/
def Instr.regs (i : Instr) (m : ModFields) (npfx : Nat) : Regs :=
  let w := if m.w then 2 else 1
  let vc := if m.vce then [m.vc.toNat] else []
  match i with
  | .sadd d a b | .ssub d a b | .smul d a b | .smulhI32 d a b | .smulhN32 d a b | .sdivI32 d a b | .sdivN32 d a b
  | .sremI32 d a b | .sremN32 d a b | .sand d a b | .sor d a b | .sxor d a b | .sandn d a b | .sshl d a b | .sshr d a b
  | .ssra d a b | .sminI32 d a b | .sminN32 d a b | .smaxI32 d a b | .smaxN32 d a b => sForm w d.toNat [a.toNat, b.toNat]
  | .smov d a | .spopc d a | .sclz d a | .sctz d a | .sbrev d a => sForm w d.toNat [a.toNat]
  | .scmp _ _ a b => ⟨[], [], [(a.toNat, w), (b.toNat, w)], []⟩
  | .slea d a b => ⟨[], [], [(a.toNat, 2), (b.toNat, 1)], [(d.toNat, 2)]⟩
  | .sbfi d a b => sForm 1 d.toNat [d.toNat, a.toNat, b.toNat]
  | .ssel d a b _ => sForm 1 d.toNat [a.toNat, b.toNat]
  | .saddImm d w _ | .smulImm d w _ | .sandImm d w _ | .sorImm d w _ | .sxorImm d w _ | .sshlImm d w _ | .sshrImm d w _
  | .ssraImm d w _ | .sminI32Imm d w _ | .sminN32Imm d w _ | .smaxI32Imm d w _ | .smaxN32Imm d w _ | .smovImm d w _
  | .sbfeI32 d w _ | .sbfeN32 d w _ => sForm (if w then 2 else 1) d.toNat [d.toNat]
  | .smovi d _ => sForm (if npfx ≥ 2 then 2 else 1) d.toNat []
  | .srd s n => sForm (srWidth n.toNat) s.toNat []
  | .swr s n => ⟨[], [], [(s.toNat, srWidth n.toNat)], []⟩
  | .nfset s _ => ⟨[], [], [(s.toNat, 1)], []⟩
  | .call _ => ⟨[], [], [], [(90, 2)]⟩
  | .jmpReg a => ⟨[], [], [(a.toNat, 2)], []⟩
  | .callReg a => ⟨[], [], [(a.toNat, 2)], [(90, 2)]⟩
  | .ret => ⟨[], [], [(90, 2)], []⟩
  | .loan d a _ _ => ⟨[], [], [(a.toNat, 4), (32, 58), (92, 1)], [(d.toNat, 1)]⟩
  | .lnext d _ => sForm 1 d.toNat []
  | .repay d a _ _ => ⟨[(a.toNat, 1), (d.toNat, 1)], [], [], []⟩
  | .vadd d a b | .vsub d a b | .vmul d a b | .vmulhI32 d a b | .vmulhN32 d a b | .vand d a b | .vor d a b | .vxor d a b
  | .vandn d a b | .vshl d a b | .vshr d a b | .vsra d a b | .vminI32 d a b | .vminN32 d a b | .vmaxI32 d a b
  | .vmaxN32 d a b | .vabsdI32 d a b | .vabsdN32 d a b | .vbfeI32 d a b | .vbfeN32 d a b | .vfadd d a b | .vfsub d a b
  | .vfmul d a b | .vfmin d a b | .vfmax d a b | .vfscale d a b | .vhadd d a b | .vhmul d a b | .vfdiv d a b
  | .vshfl d a b => vForm d.toNat [a.toNat, b.toNat]
  | .vmad d a b | .vffma d a b | .vhfma d a b =>
    vForm d.toNat ([a.toNat, b.toNat] ++ (if m.vce then vc else [d.toNat]))
  | .vbfi d a b | .vnfma d a b _ => vForm d.toNat [a.toNat, b.toNat, d.toNat]
  | .vnadd d a b _ | .vnmul d a b _ | .vsel d a b _ => vForm d.toNat [a.toNat, b.toNat]
  | .vpopc d a | .vclz d a | .vbrev d a | .vfclass d a | .vfrcp d a | .vfrsq d a | .vfsqrt d a | .vfexp2 d a
  | .vflog2 d a | .vfsin d a | .vfcos d a | .vfexp d a | .vfcvtF32I32 d a | .vfcvtF32N32 d a | .vfcvtI32F32 d a
  | .vfcvtN32F32 d a | .vmov d a => vForm d.toNat [a.toNat]
  | .vaddImm d a _ | .vmulImm d a _ | .vandImm d a _ | .vorImm d a _ | .vxorImm d a _ | .vandnImm d a _ | .vshlImm d a _
  | .vshrImm d a _ | .vsraImm d a _ | .vminI32Imm d a _ | .vminN32Imm d a _ | .vmaxI32Imm d a _ | .vmaxN32Imm d a _
  | .vabsdI32Imm d a _ | .vabsdN32Imm d a _ => vForm d.toNat [a.toNat]
  | .vfcvtF32F16 d a _ | .vfcvtF32Bf16 d a _ | .vfcvtF32E4m3 d a _ | .vfcvtF32E5m2 d a _ | .vfcvtI32I8 d a _
  | .vfcvtI32Tri d a _ | .vfcvtI32I16 d a _ | .vfcvtN32N8 d a _ | .vfcvtN32N16 d a _ | .vncvtF32 d a _ _ =>
    vForm d.toNat [a.toNat]
  | .vfcvtF16F32 d a _ | .vfcvtBf16F32 d a _ | .vfcvtE4m3F32 d a _ | .vfcvtE5m2F32 d a _ | .vfcvtI8I32 d a _
  | .vfcvtTriI32 d a _ | .vfcvtI16I32 d a _ | .vfcvtN8N32 d a _ | .vfcvtN16N32 d a _ | .vncvtNf d a _ _ =>
    vForm d.toNat [a.toNat, d.toNat]
  | .vbfly d a _ | .vbcast d a _ | .vnbr d a _ _ | .vddx d a _ | .vddy d a _ => vForm d.toNat [a.toNat]
  | .vrfl d a | .vred d a _ _ => ⟨[(a.toNat, 1)], [], [], [(d.toNat, 1)]⟩
  | .vredmi d a _ => ⟨[(a.toNat, 1)], [], [], [(d.toNat, 2)]⟩
  | .vscan d a _ _ _ => vForm d.toNat [a.toNat, d.toNat]
  | .vballot d _ => ⟨[], [], [], [(d.toNat, 3)]⟩
  | .vcount d _ => ⟨[], [], [], [(d.toNat, 1)]⟩
  | .vcmpI32 _ _ a b _ | .vcmpN32 _ _ a b _ | .vfcmp _ _ a b _ => ⟨[(a.toNat, 1), (b.toNat, 1)], [], [], []⟩
  | .kmovFromScalar _ s => ⟨[], [], [(s.toNat, 3)], []⟩
  | .kmovToScalar _ s => ⟨[], [], [], [(s.toNat, 3)]⟩
  | .kpop _ s => ⟨[], [], [], [(s.toNat, 1)]⟩
  | .vmovScalar d a => ⟨[], [(d.toNat, 1)], [(a.toNat, 1)], []⟩
  | .vmovi d _ | .vsr d _ => vForm d.toNat []
  | .vld d a s w _ => ⟨[(a.toNat, 1)], [(d.toNat, w.regs)], [(s.toNat, 2)], []⟩
  | .vst d a s w _ | .xput d a s w _ => ⟨[(a.toNat, 1), (d.toNat, w.regs)], [], [(s.toNat, 2)], []⟩
  | .sld d a _ w _ => ⟨[], [], [(2 * a.toNat, 2)], [(d.toNat, w.regs)]⟩
  | .sst d a _ w _ => ⟨[], [], [(2 * a.toNat, 2), (d.toNat, w.regs)], []⟩
  | .vatomAddN32 d a s _ | .vatomAddF32 d a s _ | .vatomMinI32 d a s _ | .vatomMinN32 d a s _ | .vatomMaxI32 d a s _
  | .vatomMaxN32 d a s _ | .vatomAnd d a s _ | .vatomOr d a s _ | .vatomXor d a s _ | .vatomSwap d a s _ =>
    ⟨[(a.toNat, 1), (d.toNat, 1)], [(d.toNat, 1)], [(s.toNat, 2)], []⟩
  | .vatomCas d a s _ => ⟨[(a.toNat, 1), (d.toNat, 2)], [(d.toNat, 1)], [(s.toNat, 2)], []⟩
  | .vatomAddN64 d a s _ => ⟨[(a.toNat, 1), (d.toNat, 2)], [(d.toNat, 2)], [(s.toNat, 2)], []⟩
  | .satomAddN32 d a _ _ | .satomAddF32 d a _ _ | .satomMinI32 d a _ _ | .satomMinN32 d a _ _ | .satomMaxI32 d a _ _
  | .satomMaxN32 d a _ _ | .satomAnd d a _ _ | .satomOr d a _ _ | .satomXor d a _ _ | .satomSwap d a _ _ =>
    ⟨[], [], [(a.toNat / 2 * 2, 2), (d.toNat, 1)], [(d.toNat, 1)]⟩
  | .satomCas d a _ _ => ⟨[], [], [(a.toNat / 2 * 2, 2), (d.toNat, 2)], [(d.toNat, 1)]⟩
  | .satomAddN64 d a _ _ => ⟨[], [], [(a.toNat / 2 * 2, 2), (d.toNat, 2)], [(d.toNat, 2)]⟩
  | .qpush _ _ _ s | .tqEnq _ _ s => ⟨[], [], [(s.toNat, 8)], []⟩
  | .qpop _ _ _ s | .tqDeq _ _ s => ⟨[], [], [], [(s.toNat, 8)]⟩
  | .mint d a => sForm 2 d.toNat [a.toNat]
  | .vpin d a => ⟨[], [], [(a.toNat, 2)], [(d.toNat, 1)]⟩
  | .cpTile _ a b | .cpBdeck _ a b | .cpStore _ a b => ⟨[], [], [(a.toNat, 2), (b.toNat, 1)], []⟩
  | .cpCopy c a b => ⟨[], [], [(a.toNat, 2), (b.toNat, 2), (c.toNat, 1)], []⟩
  | .tdef _ s => ⟨[], [], [(s.toNat, 4)], []⟩
  | .tstat _ s => ⟨[], [], [], [(s.toNat, 1)]⟩
  | .tex3 d a b | .texp d a b => ⟨[(a.toNat, 3)], [(d.toNat, 1)], [(b.toNat, 2)], []⟩
  | .isectRay d a b => ⟨[(a.toNat, 8)], [(d.toNat, 4)], [(b.toNat, 2)], []⟩
  | .isectTile d a b => ⟨[(a.toNat, 2)], [(d.toNat, 4)], [(b.toNat, 2)], []⟩
  | .isectNext d => ⟨[], [(d.toNat, 4)], [], []⟩
  | .hdesc a => ⟨[], [], [(a.toNat, 2)], []⟩
  | .hgath d a => ⟨[(a.toNat, 3)], [(d.toNat, 1)], [], []⟩
  | .hscat a b => ⟨[(a.toNat, 3), (b.toNat, 2)], [], [], []⟩
  | .vaccRd v s _ n => ⟨[], [(v.toNat, n.toNat + 1)], [(s.toNat, 1)], []⟩
  | .vaccWr v s _ n => ⟨[(v.toNat, n.toNat + 1)], [], [(s.toNat, 1)], []⟩
  | _ => .none

/-- The most pfx words that a target's bundle may hold (R20, R67). -/
def Instr.pfxLimit : Instr → Nat
  | .saddImm _ _ _ | .smulImm _ _ _ | .sandImm _ _ _ | .sorImm _ _ _ | .sxorImm _ _ _ | .sshlImm _ _ _ | .sshrImm _ _ _
  | .ssraImm _ _ _ | .sminI32Imm _ _ _ | .sminN32Imm _ _ _ | .smaxI32Imm _ _ _ | .smaxN32Imm _ _ _ | .smovImm _ _ _
  | .smovi _ _ => 2
  | .br _ _ | .brn _ _ | .jmp _ | .call _ | .vbr _ _ _ _ | .split _ _ _ _ | .loan _ _ _ _ | .sleep _ => 1
  | .vaddImm _ _ _ | .vmulImm _ _ _ | .vandImm _ _ _ | .vorImm _ _ _ | .vxorImm _ _ _ | .vandnImm _ _ _ | .vshlImm _ _ _
  | .vshrImm _ _ _ | .vsraImm _ _ _ | .vminI32Imm _ _ _ | .vminN32Imm _ _ _ | .vmaxI32Imm _ _ _ | .vmaxN32Imm _ _ _
  | .vabsdI32Imm _ _ _ | .vabsdN32Imm _ _ _ | .vmovi _ _ => 1
  | .vld _ _ _ _ _ | .vst _ _ _ _ _ | .xput _ _ _ _ _ | .sld _ _ _ _ _ | .sst _ _ _ _ _ => 2
  | .vatomAddN32 _ _ _ _ | .vatomAddF32 _ _ _ _ | .vatomMinI32 _ _ _ _ | .vatomMinN32 _ _ _ _ | .vatomMaxI32 _ _ _ _
  | .vatomMaxN32 _ _ _ _ | .vatomAnd _ _ _ _ | .vatomOr _ _ _ _ | .vatomXor _ _ _ _ | .vatomSwap _ _ _ _
  | .vatomCas _ _ _ _ | .vatomAddN64 _ _ _ _ => 2
  | .satomAddN32 _ _ _ _ | .satomAddF32 _ _ _ _ | .satomMinI32 _ _ _ _ | .satomMinN32 _ _ _ _ | .satomMaxI32 _ _ _ _
  | .satomMaxN32 _ _ _ _ | .satomAnd _ _ _ _ | .satomOr _ _ _ _ | .satomXor _ _ _ _ | .satomSwap _ _ _ _
  | .satomCas _ _ _ _ | .satomAddN64 _ _ _ _ => 2
  | _ => 0

/-- Which mod fields a target accepts (R22), one flag a field. -/
structure Accepts where
  vc : Bool
  rnd : Bool
  sat : Bool
  ftz : Bool
  cpol : Bool
  w : Bool
  pk : Bool
  split : Bool
  neg : Bool
deriving DecidableEq, Repr

def Accepts.none : Accepts := ⟨false, false, false, false, false, false, false, false, false⟩

def Instr.accepts : Instr → Accepts
  | .sadd _ _ _ | .ssub _ _ _ | .smul _ _ _ | .smulhI32 _ _ _ | .smulhN32 _ _ _ | .sdivI32 _ _ _ | .sdivN32 _ _ _
  | .sremI32 _ _ _ | .sremN32 _ _ _ | .sand _ _ _ | .sor _ _ _ | .sxor _ _ _ | .sandn _ _ _ | .sshl _ _ _ | .sshr _ _ _
  | .ssra _ _ _ | .smov _ _ | .scmp _ _ _ _ => { Accepts.none with w := true }
  | .vadd _ _ _ | .vsub _ _ _ | .vmul _ _ _ | .vaddImm _ _ _ | .vmulImm _ _ _ =>
    { Accepts.none with sat := true, pk := true }
  | .vmad _ _ _ => { Accepts.none with vc := true }
  | .vand _ _ _ | .vor _ _ _ | .vxor _ _ _ | .vandn _ _ _ | .vshl _ _ _ | .vshr _ _ _ | .vsra _ _ _ | .vminI32 _ _ _
  | .vminN32 _ _ _ | .vmaxI32 _ _ _ | .vmaxN32 _ _ _ | .vabsdI32 _ _ _ | .vabsdN32 _ _ _ | .vandImm _ _ _ | .vorImm _ _ _
  | .vxorImm _ _ _ | .vandnImm _ _ _ | .vshlImm _ _ _ | .vshrImm _ _ _ | .vsraImm _ _ _ | .vminI32Imm _ _ _
  | .vminN32Imm _ _ _ | .vmaxI32Imm _ _ _ | .vmaxN32Imm _ _ _ | .vabsdI32Imm _ _ _ | .vabsdN32Imm _ _ _ =>
    { Accepts.none with pk := true }
  | .vfadd _ _ _ | .vfsub _ _ _ | .vfmul _ _ _ | .vfmin _ _ _ | .vfmax _ _ _ | .vfscale _ _ _ | .vfclass _ _
  | .vhadd _ _ _ | .vhmul _ _ _ => { Accepts.none with rnd := true, ftz := true }
  | .vffma _ _ _ | .vhfma _ _ _ => { Accepts.none with vc := true, rnd := true, ftz := true, neg := true }
  | .vfrcp _ _ | .vfrsq _ _ | .vfsqrt _ _ | .vfdiv _ _ _ | .vfexp2 _ _ | .vflog2 _ _ | .vfsin _ _ | .vfcos _ _
  | .vfexp _ _ => { Accepts.none with ftz := true }
  | .vfcvtF32I32 _ _ | .vfcvtF32N32 _ _ | .vfcvtI32F32 _ _ | .vfcvtN32F32 _ _ | .vfcvtF32F16 _ _ _ | .vfcvtF16F32 _ _ _
  | .vfcvtF32Bf16 _ _ _ | .vfcvtBf16F32 _ _ _ | .vfcvtF32E4m3 _ _ _ | .vfcvtE4m3F32 _ _ _ | .vfcvtF32E5m2 _ _ _
  | .vfcvtE5m2F32 _ _ _ | .vfcvtI32I8 _ _ _ | .vfcvtI8I32 _ _ _ | .vfcvtI32Tri _ _ _ | .vfcvtTriI32 _ _ _
  | .vncvtF32 _ _ _ _ | .vncvtNf _ _ _ _ | .vfcvtI32I16 _ _ _ | .vfcvtI16I32 _ _ _ | .vfcvtN32N8 _ _ _
  | .vfcvtN8N32 _ _ _ | .vfcvtN32N16 _ _ _ | .vfcvtN16N32 _ _ _ =>
    { Accepts.none with rnd := true, sat := true, ftz := true }
  | .vred _ _ o t => { Accepts.none with rnd := t == .f32 && o != .addDet, ftz := t == .f32 }
  | .vredmi _ _ t => { Accepts.none with ftz := t == .f32 }
  | .vscan _ _ o t _ => { Accepts.none with rnd := t == .f32 && o != .addDet, ftz := t == .f32 }
  | .vddx _ _ _ | .vddy _ _ _ => { Accepts.none with rnd := true, ftz := true }
  | .vfcmp _ _ _ _ _ => { Accepts.none with ftz := true }
  | .vnadd _ _ _ _ | .vnmul _ _ _ _ | .vnfma _ _ _ _ => { Accepts.none with rnd := true, sat := true }
  | .vld _ _ _ _ _ => { Accepts.none with cpol := true, split := true }
  | .vst _ _ _ _ _ | .sld _ _ _ _ _ | .sst _ _ _ _ _ | .xput _ _ _ _ _ | .tex3 _ _ _ | .texp _ _ _ =>
    { Accepts.none with cpol := true }
  | .vatomAddN32 _ _ _ _ | .vatomAddF32 _ _ _ _ | .vatomMinI32 _ _ _ _ | .vatomMinN32 _ _ _ _ | .vatomMaxI32 _ _ _ _
  | .vatomMaxN32 _ _ _ _ | .vatomAnd _ _ _ _ | .vatomOr _ _ _ _ | .vatomXor _ _ _ _ | .vatomSwap _ _ _ _
  | .vatomCas _ _ _ _ | .vatomAddN64 _ _ _ _ | .satomAddN32 _ _ _ _ | .satomAddF32 _ _ _ _ | .satomMinI32 _ _ _ _
  | .satomMinN32 _ _ _ _ | .satomMaxI32 _ _ _ _ | .satomMaxN32 _ _ _ _ | .satomAnd _ _ _ _ | .satomOr _ _ _ _
  | .satomXor _ _ _ _ | .satomSwap _ _ _ _ | .satomCas _ _ _ _ | .satomAddN64 _ _ _ _ =>
    { Accepts.none with cpol := true }
  | _ => .none

/-- The mod word with every field zero (R21). -/
def ModFields.zero : ModFields :=
  { vce := false, vc := 0, rnd := .rne, sat := false, ftz := false, cpol := 0, w := false, pk := 0, split := false,
    na := false, nc := false }

/-- Whether a target accepts every field that a mod word sets, no field being reserved (R21, R22). -/
def Instr.admitsMod (i : Instr) (m : ModFields) : Bool :=
  let a := i.accepts
  (a.vc || !m.vce) && (m.vce || m.vc == 0) && m.pk != 3 && (a.rnd || m.rnd == .rne) && (a.sat || !m.sat) && (a.ftz || !m.ftz)
    && (a.cpol || m.cpol == 0) && (a.w || !m.w) && (a.pk || m.pk == 0) && (a.split || !m.split)
    && (a.neg || (!m.na && !m.nc))

/-- How helper mode treats an instruction (R64, R158, R176). -/
inductive HelperUse | allowed | outOfContext
deriving DecidableEq, Repr

def Instr.helperUse : Instr → HelperUse
  | .swr _ _ | .nfset _ _ | .split _ _ _ _ | .join | .refill | .rgn | .loan _ _ _ _ | .ldone | .barArrive _ | .barWait _
  | .barSync _ | .wpred | .sucstart | .claim _ _ _ | .giveback _ | .eret | .halt => .outOfContext
  | .vatomAddN32 _ _ _ _ | .vatomAddF32 _ _ _ _ | .vatomMinI32 _ _ _ _ | .vatomMinN32 _ _ _ _ | .vatomMaxI32 _ _ _ _
  | .vatomMaxN32 _ _ _ _ | .vatomAnd _ _ _ _ | .vatomOr _ _ _ _ | .vatomXor _ _ _ _ | .vatomSwap _ _ _ _
  | .vatomCas _ _ _ _ | .vatomAddN64 _ _ _ _ | .satomAddN32 _ _ _ _ | .satomAddF32 _ _ _ _ | .satomMinI32 _ _ _ _
  | .satomMinN32 _ _ _ _ | .satomMaxI32 _ _ _ _ | .satomMaxN32 _ _ _ _ | .satomAnd _ _ _ _ | .satomOr _ _ _ _
  | .satomXor _ _ _ _ | .satomSwap _ _ _ _ | .satomCas _ _ _ _ | .satomAddN64 _ _ _ _ | .xput _ _ _ _ _
  | .vaccRd _ _ _ _ | .vaccWr _ _ _ _ | .fence _ _ _ | .fenceOwn _ | .fenceFar _ | .qpush _ _ _ _ | .qpop _ _ _ _
  | .tqEnq _ _ _ | .tqDeq _ _ _ | .mint _ _ | .vpin _ _ | .cpTile _ _ _ | .cpBdeck _ _ _ | .cpStore _ _ _ | .cpCopy _ _ _
  | .tdef _ _ | .tfree _ | .tstat _ _ | .hdesc _ | .hscat _ _ => .outOfContext
  | _ => .allowed

/-- The counter class an instruction is charged to at issue (R157). -/
def Instr.opClass : Instr → Option OpClass
  | .vld _ _ _ _ _ | .sld _ _ _ _ _ | .tex3 _ _ _ | .texp _ _ _ | .hgath _ _ => some .ld
  | .vatomAddN32 _ _ _ _ | .vatomAddF32 _ _ _ _ | .vatomMinI32 _ _ _ _ | .vatomMinN32 _ _ _ _ | .vatomMaxI32 _ _ _ _
  | .vatomMaxN32 _ _ _ _ | .vatomAnd _ _ _ _ | .vatomOr _ _ _ _ | .vatomXor _ _ _ _ | .vatomSwap _ _ _ _
  | .vatomCas _ _ _ _ | .vatomAddN64 _ _ _ _ | .satomAddN32 _ _ _ _ | .satomAddF32 _ _ _ _ | .satomMinI32 _ _ _ _
  | .satomMinN32 _ _ _ _ | .satomMaxI32 _ _ _ _ | .satomMaxN32 _ _ _ _ | .satomAnd _ _ _ _ | .satomOr _ _ _ _
  | .satomXor _ _ _ _ | .satomSwap _ _ _ _ | .satomCas _ _ _ _ | .satomAddN64 _ _ _ _ => some .ld
  | .vst _ _ _ _ _ | .sst _ _ _ _ _ | .hscat _ _ => some .st
  | .xput _ _ _ _ _ | .cpTile _ _ _ | .cpBdeck _ _ _ | .cpStore _ _ _ | .cpCopy _ _ _ => some .cp
  | .hdesc _ | .isectRay _ _ _ | .isectTile _ _ _ | .isectNext _ | .vaccRd _ _ _ _ | .vaccWr _ _ _ _ | .tdef _ _
  | .tfree _ => some .tl
  | _ => none

/-- Instructions that neither run under exec, nor read it, nor change it. -/
def Instr.execFree : Instr → Bool
  | .sadd _ _ _ | .ssub _ _ _ | .smul _ _ _ | .smulhI32 _ _ _ | .smulhN32 _ _ _ | .sdivI32 _ _ _ | .sdivN32 _ _ _
  | .sremI32 _ _ _ | .sremN32 _ _ _ | .sand _ _ _ | .sor _ _ _ | .sxor _ _ _ | .sandn _ _ _ | .sshl _ _ _ | .sshr _ _ _
  | .ssra _ _ _ | .sminI32 _ _ _ | .sminN32 _ _ _ | .smaxI32 _ _ _ | .smaxN32 _ _ _ | .smov _ _ | .spopc _ _ | .sclz _ _
  | .sctz _ _ | .sbrev _ _ | .scmp _ _ _ _ | .slea _ _ _ | .sbfi _ _ _ | .ssel _ _ _ _ | .saddImm _ _ _ | .smulImm _ _ _
  | .sandImm _ _ _ | .sorImm _ _ _ | .sxorImm _ _ _ | .sshlImm _ _ _ | .sshrImm _ _ _ | .ssraImm _ _ _ | .sminI32Imm _ _ _
  | .sminN32Imm _ _ _ | .smaxI32Imm _ _ _ | .smaxN32Imm _ _ _ | .smovImm _ _ _ | .sbfeI32 _ _ _ | .sbfeN32 _ _ _ | .smovi _ _
  | .srd _ _ | .swr _ _ | .nfset _ _ | .br _ _ | .brn _ _ | .jmp _ | .call _ | .jmpReg _ | .callReg _ | .ret | .join | .ldone | .rgn
  | .barArrive _ | .barWait _ | .barSync _ | .waitC _ _ _ _ | .sleep _ | .yield | .nop | .wpred | .sucstart | .claim _ _ _
  | .giveback _ | .halt => true
  | .sld _ _ _ _ _ | .sst _ _ _ _ _ | .satomAddN32 _ _ _ _ | .satomAddF32 _ _ _ _ | .satomMinI32 _ _ _ _ | .satomMinN32 _ _ _ _
  | .satomMaxI32 _ _ _ _ | .satomMaxN32 _ _ _ _ | .satomAnd _ _ _ _ | .satomOr _ _ _ _ | .satomXor _ _ _ _ | .satomSwap _ _ _ _
  | .satomCas _ _ _ _ | .satomAddN64 _ _ _ _ | .fence _ _ _ | .fenceOwn _ | .fenceFar _ | .qpush _ _ _ _ | .qpop _ _ _ _
  | .tqEnq _ _ _ | .tqDeq _ _ _ | .mint _ _ | .vpin _ _ | .cpTile _ _ _ | .cpBdeck _ _ _ | .cpStore _ _ _ | .cpCopy _ _ _
  | .tdef _ _ | .tfree _ | .tstat _ _ | .hdesc _ => true
  | .kand _ _ _ _ | .kor _ _ _ _ | .kxor _ _ _ _ | .kandn _ _ _ _ | .knot _ _ _ | .kmov _ _ _ | .kmovFromScalar _ _
  | .kmovToScalar _ _ | .kpop _ _ | .kany _ _ | .kall _ _ => true
  | _ => false

/-- The registers that a pending load holds an instruction for (R135): its own, and exec0 to exec2, which are s93 to s95 (R14), where it
runs under exec or changes it (log entry 105). -/
def Instr.waitsOn (i : Instr) (m : ModFields) (npfx : Nat) : Regs :=
  let r := i.regs m npfx
  if i.execFree then r else { r with sr := (93, 3) :: r.sr }

/-- How many requests to memory an instruction makes at most, with this many active lanes (R1; log entry 106): a lane one, of a volume
sample eight, of a hash gather eight for each of 16 levels; an access to a scratchpad none. -/
def Instr.requests (i : Instr) (lanes : Nat) : Nat :=
  match i with
  | .vld _ _ _ _ sp | .vst _ _ _ _ sp => if sp = .g ∨ sp = .v then lanes else 0
  | .sld _ _ _ _ sp | .sst _ _ _ _ sp => if sp = .g ∨ sp = .v then 1 else 0
  | .vatomAddN32 _ _ _ p | .vatomAddF32 _ _ _ p | .vatomMinI32 _ _ _ p | .vatomMinN32 _ _ _ p | .vatomMaxI32 _ _ _ p
  | .vatomMaxN32 _ _ _ p | .vatomAnd _ _ _ p | .vatomOr _ _ _ p | .vatomXor _ _ _ p | .vatomSwap _ _ _ p | .vatomCas _ _ _ p
  | .vatomAddN64 _ _ _ p => if p then 0 else lanes
  | .satomAddN32 _ _ _ p | .satomAddF32 _ _ _ p | .satomMinI32 _ _ _ p | .satomMinN32 _ _ _ p | .satomMaxI32 _ _ _ p
  | .satomMaxN32 _ _ _ p | .satomAnd _ _ _ p | .satomOr _ _ _ p | .satomXor _ _ _ p | .satomSwap _ _ _ p | .satomCas _ _ _ p
  | .satomAddN64 _ _ _ p => if p then 0 else 1
  | .xput _ _ _ _ _ => lanes
  | .tex3 _ _ _ | .texp _ _ _ | .hscat _ _ => 8 * lanes
  | .hgath _ _ => 128 * lanes
  | _ => 0

/-- Meeting points of top-level paths (R208). -/
def Instr.meets : Instr → Bool
  | .barArrive _ | .barWait _ | .barSync _ | .refill | .halt => true
  | _ => false

/-- Instructions that commit an open replay region (R80, R158, R176). -/
def Instr.commits : Instr → Bool
  | .vatomAddN32 _ _ _ _ | .vatomAddF32 _ _ _ _ | .vatomMinI32 _ _ _ _ | .vatomMinN32 _ _ _ _ | .vatomMaxI32 _ _ _ _
  | .vatomMaxN32 _ _ _ _ | .vatomAnd _ _ _ _ | .vatomOr _ _ _ _ | .vatomXor _ _ _ _ | .vatomSwap _ _ _ _
  | .vatomCas _ _ _ _ | .vatomAddN64 _ _ _ _ | .satomAddN32 _ _ _ _ | .satomAddF32 _ _ _ _ | .satomMinI32 _ _ _ _
  | .satomMinN32 _ _ _ _ | .satomMaxI32 _ _ _ _ | .satomMaxN32 _ _ _ _ | .satomAnd _ _ _ _ | .satomOr _ _ _ _
  | .satomXor _ _ _ _ | .satomSwap _ _ _ _ | .satomCas _ _ _ _ | .satomAddN64 _ _ _ _ | .xput _ _ _ _ _
  | .vaccWr _ _ _ _ | .fence _ _ _ | .fenceOwn _ | .fenceFar _ | .qpush _ _ _ _ | .qpop _ _ _ _ | .tqEnq _ _ _
  | .tqDeq _ _ _ | .mint _ _ | .vpin _ _ | .cpTile _ _ _ | .cpBdeck _ _ _ | .cpStore _ _ _ | .cpCopy _ _ _ | .tdef _ _
  | .tfree _ | .hdesc _ | .hscat _ _ | .barArrive _ | .barWait _ | .barSync _ | .halt => true
  | _ => false

/-- Instructions whose waiting counts towards WLIM (R306). -/
def Instr.limited : Instr → Bool
  | .barWait _ | .barSync _ | .waitC _ _ _ _ | .wpred | .claim _ _ _ | .lnext _ _ | .ldone => true
  | .qpush n _ _ _ | .qpop n _ _ _ | .tqEnq n _ _ | .tqDeq n _ _ => !n
  | _ => false

/-- An immediate of `w` bits widened by the bundle's pfx words (R20), as a signed number. -/
def widened (pfx : List Nat) (w imm : Nat) : Int :=
  let raw := pfx.foldl (fun a p => a * 2 ^ 24 + p) 0 * 2 ^ w + imm
  signedOf (w + 24 * pfx.length) raw

/-- A flag of a path (R13). -/
def flagAt (f : BitVec 8) (g : BitVec 3) : Bool := f.getLsbD g.toNat

/-- A path's flags with one flag written. -/
def setFlag (f : BitVec 8) (g : BitVec 3) (v : Bool) : BitVec 8 :=
  if v then f ||| (1#8 <<< g.toNat) else f &&& ~~~(1#8 <<< g.toNat)

/-- Conditions of scmp on operands of `n` bits (R27, R68). -/
def scalarCond (c : CmpCond) (n a b : Nat) : Bool :=
  let x := signedOf n a
  let y := signedOf n b
  match c with
  | .eq => a == b
  | .ne => a != b
  | .lt => decide (x < y)
  | .le => decide (x ≤ y)
  | .gt => decide (x > y)
  | .ge => decide (x ≥ y)
  | .ltN => decide (a < b)
  | .leN => decide (a ≤ b)
  | .gtN => decide (a > b)
  | .geN => decide (a ≥ b)
  | .ord => true
  | .unord => false

end Sys2Proof
end

