-- ==== Sys2Proof/Machine/Access.lean ====
section
/-! DEFINITION. Numbers of objects, and the one place through which registers, paths, waves and blocks are read and
written (R13 to R16, R61, R64, R100, R355). -/

namespace Sys2Proof.Machine

/-! Numbers of objects. -/

/-- The first number of a helper path. -/
def helperBase : Nat := 16384

def isHelper (pid : Nat) : Bool := decide (helperBase ≤ pid)

/-- The owner of a path's registers: its wave, or the helper path itself (R64). -/
def ownerOf (pid : Nat) : Nat := if isHelper pid then 4096 + (pid - helperBase) else pid / 4

/-- The core on which a path runs. -/
def coreOf (pid : Nat) : Nat := if isHelper pid then (pid - helperBase) / 16 else pid / 128

def clusterOf (core : Nat) : Nat := core / 4
def dieOf (core : Nat) : Nat := core / 32

/-- Lanes of a mask, in ascending order. -/
def lanesOf (m : Lanes) : List Nat := (List.range 96).filter fun l => m.getLsbD l

def lowestLane (m : Lanes) : Option Nat := (lanesOf m).head?

/-- The mask that holds one lane. -/
def laneBit (l : Nat) : Lanes := 1#96 <<< l

/-- The mask of lanes 0 to n − 1. -/
def lowLanes (n : Nat) : Lanes := BitVec.ofNat 96 (2 ^ min n 96 - 1)

def maskOf (ls : List Nat) : Lanes := ls.foldl (fun m l => m ||| laneBit l) 0

/-! Island clocks (R7, R388, R389). -/

def State.island (s : State) (i : Nat) : Island := tgetD (Island.reset i) s.islands i

/-- Cycles of an island's clock at a reference cc: those counted before, and those since at its clock in MHz. -/
def Island.count (i : Island) (clk : Nat) : Nat := i.cycles + (clk - i.since) * i.mhz / 3600

/-- Cycles of the clock of the island that holds a core. -/
def State.icc (s : State) (core : Nat) : Nat := (s.island (clusterOf core)).count s.clk

/-- The reference cc at which an island's clock reached a cycle, as its clock in MHz has been since the last change. -/
def Island.refAt (i : Island) (cycle : Nat) : Nat := i.since + ((cycle - i.cycles) * 3600 + (i.mhz - 1)) / i.mhz

/-- Whether a cluster has stopped by an island cycle: 12 cycles after the hit that stops it (R357). -/
def Cluster.stoppedBy (k : Cluster) (now : Nat) : Bool :=
  k.stopped || (match k.stopping with | some h => decide (h + 12 ≤ now) | none => false)

def State.clusterStopped (s : State) (cluster : Nat) : Bool :=
  (tgetD Cluster.reset s.clusters cluster).stoppedBy (s.icc (4 * cluster))

/-! Tables of the running context. -/

def State.path (s : State) (pid : Nat) : Option Path := tget s.run.paths pid
def State.wave (s : State) (wid : Nat) : Option Wave := tget s.run.waves wid
def State.block (s : State) (bid : Nat) : Option Block := tget s.run.blocks bid
def State.helper (s : State) (pid : Nat) : Option Helper := tget s.run.helpers pid
def State.core (s : State) (c : Nat) : Core := tgetD Core.reset s.cores c
def State.cluster (s : State) (c : Nat) : Cluster := tgetD Cluster.reset s.clusters c
def State.clear (s : State) (c : Nat) : Clear := tgetD Clear.reset s.clears c
def State.ring (s : State) (n : Nat) : Ring := tgetD Ring.reset s.rings n
def State.tokensOf (s : State) (owner : Nat) : List Token := tgetD [] s.run.tokens owner

def State.setPath (s : State) (pid : Nat) (p : Path) : State :=
  { s with run := { s.run with paths := tset s.run.paths pid p } }
def State.delPath (s : State) (pid : Nat) : State := { s with run := { s.run with paths := tdel s.run.paths pid } }
def State.setWave (s : State) (wid : Nat) (w : Wave) : State :=
  { s with run := { s.run with waves := tset s.run.waves wid w } }
def State.setBlock (s : State) (bid : Nat) (b : Block) : State :=
  { s with run := { s.run with blocks := tset s.run.blocks bid b } }
def State.setHelper (s : State) (pid : Nat) (h : Helper) : State :=
  { s with run := { s.run with helpers := tset s.run.helpers pid h } }
def State.setCore (s : State) (c : Nat) (v : Core) : State := { s with cores := tset s.cores c v }
def State.setCluster (s : State) (c : Nat) (v : Cluster) : State := { s with clusters := tset s.clusters c v }
def State.setClear (s : State) (c : Nat) (v : Clear) : State := { s with clears := tset s.clears c v }
def State.setRing (s : State) (n : Nat) (v : Ring) : State := { s with rings := tset s.rings n v }
def State.setTokens (s : State) (owner : Nat) (ts : List Token) : State :=
  { s with run := { s.run with tokens := if ts.isEmpty then tdel s.run.tokens owner else tset s.run.tokens owner ts } }
def State.setTile (s : State) (e : Nat) (t : Tile) : State :=
  { s with run := { s.run with tiles := tset s.run.tiles e t } }

/-- A path changed by a function, if it exists. -/
def State.onPath (s : State) (pid : Nat) (f : Path → Path) : State :=
  match s.path pid with
  | some p => s.setPath pid (f p)
  | none => s

def State.onWave (s : State) (wid : Nat) (f : Wave → Wave) : State :=
  match s.wave wid with
  | some w => s.setWave wid (f w)
  | none => s

def State.onBlock (s : State) (bid : Nat) (f : Block → Block) : State :=
  match s.block bid with
  | some b => s.setBlock bid (f b)
  | none => s

def State.onHelper (s : State) (pid : Nat) (f : Helper → Helper) : State :=
  match s.helper pid with
  | some h => s.setHelper pid (f h)
  | none => s

/-- The wave whose block, pin and vector registers a path works with: its own, or for a helper its recruiter's (R64). -/
def State.waveOf (s : State) (pid : Nat) : Nat :=
  match s.helper pid with
  | some h => h.recruiter / 4
  | none => pid / 4

/-- The number and contents of a path's block. -/
def State.bidOf (s : State) (pid : Nat) : Nat :=
  match s.wave (s.waveOf pid) with
  | some w => w.block
  | none => 0

def State.blockOf (s : State) (pid : Nat) : Option Block := s.block (s.bidOf pid)

/-- Live paths of a wave, in ascending slot order. -/
def State.pathsOf (s : State) (wid : Nat) : List (Nat × Path) := trange s.run.paths (4 * wid) (4 * wid + 4)

/-- The slots of a wave that hold no path, in ascending order (R198); one that a merge has freed is free from the next cycle (R199). -/
def State.freeSlots (s : State) (wid : Nat) : List Nat :=
  let freed := match s.wave wid with | some w => w.freed | none => []
  ([0, 1, 2, 3].map (4 * wid + ·)).filter fun pid => (s.path pid).isNone && tget freed (pid % 4) != some (s.icc (wid / 32))

/-- A host interrupt raised. -/
def State.interrupt (s : State) (i : Irq) : State := { s with irqs := s.irqs ++ [i] }

/-! Tokens. -/

def findToken (ts : List Token) (id : Nat) : Option Token := ts.find? fun t => t.id == id

def replaceToken (ts : List Token) (t : Token) : List Token := ts.map fun u => if u.id == t.id then t else u

/-- The innermost token of a path. -/
def State.innermost (s : State) (pid : Nat) (p : Path) : Option Token :=
  p.token.bind (findToken (s.tokensOf (ownerOf pid)))

/-- A path's chain of tokens, from its innermost token to the root; `fuel` bounds a malformed chain. -/
def chainFrom (ts : List Token) : Nat → Option Nat → List Token
  | 0, _ => []
  | _, none => []
  | fuel + 1, some id =>
    match findToken ts id with
    | some t => t :: chainFrom ts fuel t.parent
    | none => []

def State.chain (s : State) (pid : Nat) (p : Path) : List Token :=
  let ts := s.tokensOf (ownerOf pid)
  chainFrom ts ts.length p.token

/-! Scalar registers (R13, R14, R61, R64). -/

/-- 32 lanes of a mask as exec0, exec1 or exec2. -/
def maskWord (m : Lanes) (i : Nat) : Word := m.extractLsb' (32 * i) 32

/-- A mask with exec0, exec1 or exec2 written. -/
def setMaskWord (m : Lanes) (i : Nat) (w : Word) : Lanes :=
  (m &&& ~~~((0xFFFFFFFF#96) <<< (32 * i))) ||| ((w.zeroExtend 96) <<< (32 * i))

/-- The lanes that a path may hold (R61). -/
def State.mayHold (s : State) (pid : Nat) (p : Path) : Lanes :=
  match s.innermost pid p with
  | some t => t.mask
  | none =>
    match s.helper pid with
    | some h => h.lanes
    | none =>
      match s.wave (pid / 4) with
      | some w =>
        let others := ((s.pathsOf (pid / 4)).filter fun q => q.1 != pid).foldl (fun m q => m ||| q.2.mask) 0#96
        let held := (s.tokensOf (pid / 4)).foldl (fun m t => m ||| t.mask) 0#96
        w.live &&& ~~~w.lent &&& ~~~others &&& ~~~held
      | none => 0

/-- Scalar registers of a helper that read the recruiter's snapshot (R64). -/
def snapshotReg (r : Nat) : Bool := (decide (32 ≤ r) && decide (r ≤ 89)) || r == 92

/-- The recruiter path's loan that a helper works for. -/
def State.loanOf (s : State) (pid : Nat) : Option Loan :=
  match s.helper pid with
  | some h => (s.path h.recruiter).bind (·.loan)
  | none => none

/-- The key of a scalar register. -/
def skey (owner r : Nat) : Nat := owner * 128 + r

/-- The scalar register `r` as a path reads it. -/
def State.readS (s : State) (pid : Nat) (p : Path) (r : Nat) : Word :=
  if r = 0 then 0
  else if 93 ≤ r then maskWord p.mask (r - 93)
  else if isHelper pid && snapshotReg r then
    match s.loanOf pid with
    | some l => tgetD 0 l.snapshot r
    | none => 0
  else tgetD 0 s.run.sregs (skey (ownerOf pid) r)

/-- A 64-bit scalar pair as a path reads it (R14). -/
def State.readS64 (s : State) (pid : Nat) (p : Path) (r : Nat) : DWord :=
  (s.readS pid p (r + 1)) ++ (s.readS pid p r)

/-- The state after a path writes scalar register `r` (R14, R61). -/
def State.writeS (s : State) (pid : Nat) (r : Nat) (v : Word) : State :=
  if r = 0 then s
  else if 93 ≤ r then
    s.onPath pid fun p => { p with mask := setMaskWord p.mask (r - 93) v &&& s.mayHold pid p }
  else { s with run := { s.run with sregs := tset s.run.sregs (skey (ownerOf pid) r) v } }

/-- Consecutive scalar registers written in turn. -/
def State.writeSs (s : State) (pid : Nat) : Nat → List Word → State
  | _, [] => s
  | r, v :: vs => (s.writeS pid r v).writeSs pid (r + 1) vs

def State.writeS64 (s : State) (pid : Nat) (r : Nat) (v : DWord) : State :=
  (s.writeS pid r (v.extractLsb' 0 32)).writeS pid (r + 1) (v.extractLsb' 32 32)

/-! Vector registers (R13, R15, R97, R100). -/

/-- The key of a lane of a vector register. -/
def vkey (owner r lane : Nat) : Nat := (owner * 128 + r) * 96 + lane

/-- Lane `l` of vector register `r` as a path reads it: a helper reads its recruiter's lane below v112 (R100). -/
def State.readV (s : State) (pid : Nat) (r l : Nat) : Word :=
  if isHelper pid && decide (r < 112) then
    match s.loanOf pid with
    | some ln => tgetD 0 s.run.vregs (vkey (s.waveOf pid) r ln.lane)
    | none => 0
  else tgetD 0 s.run.vregs (vkey (ownerOf pid) r l)

/-- The state after a path writes lane `l` of vector register `r`. -/
def State.writeV (s : State) (pid : Nat) (r l : Nat) (v : Word) : State :=
  { s with run := { s.run with vregs := tset s.run.vregs (vkey (ownerOf pid) r l) v } }

/-- The state after a path writes a value in each lane of a mask; the other lanes keep theirs (R97). -/
def State.writeLanes (s : State) (pid : Nat) (r : Nat) (m : Lanes) (f : Nat → Word) : State :=
  { s with run := { s.run with
      vregs := tsets s.run.vregs ((lanesOf m).map fun l => (vkey (ownerOf pid) r l, f l)) } }

/-! Predicates and per-lane special registers. -/

def kkey (owner k : Nat) : Nat := owner * 8 + k

def State.readK (s : State) (pid : Nat) (k : Nat) : Lanes := tgetD 0 s.run.kregs (kkey (ownerOf pid) k)

def State.writeK (s : State) (pid : Nat) (k : Nat) (v : Lanes) : State :=
  { s with run := { s.run with kregs := tset s.run.kregs (kkey (ownerOf pid) k) v } }

/-- sr.nbr of a lane that the tile walker did not pack (R126). -/
def nbrReset : Word := 0x007F7F7F#32

/-- The key of a lane's entry in a per-lane table. -/
def lkey (owner lane : Nat) : Nat := owner * 96 + lane

def State.itemOf (s : State) (pid : Nat) (l : Nat) : Word :=
  match s.helper pid with
  | some h => BitVec.ofNat 32 (tgetD 0 h.iters l)
  | none => tgetD 0 s.run.items (lkey (pid / 4) l)

def State.nbrOf (s : State) (pid : Nat) (l : Nat) : Word :=
  if isHelper pid then 0 else tgetD nbrReset s.run.nbrs (lkey (pid / 4) l)

/-! A path's start. -/

/-- A path with nothing pending (R197, R303). -/
def Path.fresh (pc : Nat) (mask : Lanes) (clk : Nat) : Path :=
  { pc := pc, mask := mask, flags := 0, token := none, st := .ready, wait := .none, sys := false, epc := 0, ecause := 0,
    eaux := 0, emask := 0, loanst := 0, loan := none, hints := [], sleep := 0, waitFrom := none, readyAt := clk,
    issuedAt := clk, lastFirst := 0, due := [], exempt := false, hold := false, ss := false, region := none,
    arrivedAt := none, begun := false, passOver := false, parkedTrap := none, helperTrap := 0, ended := false, traceSync := true,
    traceMute := true, traceNew := false,
    prior := [], resident := 0 }

/-- A path created from a parent: flags, trap registers and mode copied, tokens shared, no loan (R61). The parent's accesses
before its creation precede its own (R319; log entry 100). A path created within an open replay region holds its stores in that region
(R80, R254; log entry 125). -/
def Path.child (p : Path) (pc : Nat) (mask : Lanes) (clk : Nat) : Path :=
  { Path.fresh pc mask clk with
    flags := p.flags, token := p.token, sys := p.sys, epc := p.epc, ecause := p.ecause, eaux := p.eaux,
    emask := p.emask, helperTrap := p.helperTrap, prior := p.prior, region := p.region.map fun r => { r with stores := [] },
    traceNew := true }

end Sys2Proof.Machine
end

