-- ==== Sys2Proof/Machine/Translate.lean ====
section
/-! DEFINITION. Translation, protection and the bytes behind an address (R128 to R130, R332 to R336, R340 to R342). -/

namespace Sys2Proof.Machine

/-- `n` bytes at a physical address. An address outside the ranges reaches nothing: what a read there gives is a free value
(R332; log entry 101). -/
def State.physRead (s : State) (a n : Nat) : Nat :=
  if physValid a then Memory.num s.mem a n else (Config.unreached a).toNat % 256 ^ n

/-- Granules of physical memory that no longer hold an uncorrectable error, since bytes in them are written (R384). -/
def State.mended (s : State) (a n : Nat) : State :=
  if s.ras.bad.isEmpty then s
  else { s with ras := { s.ras with bad := s.ras.bad.filter fun g => decide (g < a / 8) || decide ((a + n - 1) / 8 < g) } }

/-- `n` bytes written at a physical address; a write outside the ranges reaches nothing (R332). -/
def State.physWrite (s : State) (a n v : Nat) : State :=
  if physValid a then { s.mended a n with mem := Memory.write s.mem a (bytesOf n v) } else s

/-- The page-table entry at a physical address. -/
def State.pteAt (s : State) (a : Nat) : Nat := s.physRead a 8

/-- Whether an entry is a well-formed pointer to a table aligned to 2^n bytes (R333, R334, R335). -/
def pointerOk (e n : Nat) : Bool :=
  fld e 0 1 == 1 && fld e 63 1 == 0 && fld e 52 11 == 0 && fld e 1 7 == 0 && fld e 8 44 * 256 % 2 ^ n == 0

/-- The table that a pointer entry names. -/
def tableOf (e : Nat) : Nat := fld e 8 44 * 256

/-- What a walk finds: a leaf entry with its address and page size, or a page-table fault, or a page that is moving. -/
inductive Walk
  | leaf (pte addr : Nat) (big : Bool)
  | absent
  | bad
  | busy
deriving DecidableEq, Repr

/-- A leaf entry's own fields (R334, R335): reserved bits, frame, alignment and migration. -/
def leafKind (s : State) (e addr : Nat) (big : Bool) : Walk :=
  let frame := fld e 8 44 * 256
  if fld e 0 1 = 0 then .absent
  else if fld e 63 1 = 0 ∨ fld e 52 11 ≠ 0 ∨ fld e 3 2 = 3 ∨ frame % (if big then 2 ^ 21 else 2 ^ 16) ≠ 0 then .bad
  else if fld e 3 2 = 2 then
    (if fld e 7 1 = 0 ∧ physValid (fld e 16 26 * 65536) && !physHost (fld e 16 26 * 65536) then .leaf e addr big else .bad)
  else if !physValid frame || (physHost frame && fld e 3 2 != 1) then .bad
  else if fld e 7 1 = 1 then
    match s.move with
    | some mv => if mv.pte = addr then .busy else .bad
    | none => .bad
  else .leaf e addr big

/-- The pointer entry at a level: the walk cache's copy where it holds one, else memory's (R336). -/
def pointerEntry (s : State) (cache : List WalkEntry) (level index addr : Nat) : Nat :=
  match cache.find? fun w => w.level == level && w.index == index with
  | some w => w.pte.toNat
  | none => s.pteAt addr

/-- A walk of up to four levels from a root (R333 to R335). -/
def State.walkFrom (s : State) (root : Nat) (cache : List WalkEntry) (va : Nat) : Walk :=
  if 2 ^ 49 ≤ va then .bad
  else
    let e3 := pointerEntry s cache 3 (fld va 39 10) (root + 8 * fld va 39 10)
    if fld e3 0 1 = 0 then .absent
    else if !pointerOk e3 12 then .bad
    else
      let e2 := pointerEntry s cache 2 (fld va 30 19) (tableOf e3 + 8 * fld va 30 9)
      if fld e2 0 1 = 0 then .absent
      else if !pointerOk e2 12 then .bad
      else
        let a1 := tableOf e2 + 8 * fld va 21 9
        let e1 := pointerEntry s cache 1 (fld va 21 28) a1
        if fld e1 0 1 = 0 then .absent
        else if fld e1 63 1 = 1 then leafKind s e1 a1 true
        else if !pointerOk e1 8 then .bad
        else
          let a0 := tableOf e1 + 8 * fld va 16 5
          leafKind s (s.pteAt a0) a0 false

/-- The pointer entries that a walk uses, for the walk cache (R336). -/
def State.walkPointers (s : State) (root : Nat) (cache : List WalkEntry) (va : Nat) : List WalkEntry :=
  let e3 := pointerEntry s cache 3 (fld va 39 10) (root + 8 * fld va 39 10)
  if !pointerOk e3 12 then []
  else
    let e2 := pointerEntry s cache 2 (fld va 30 19) (tableOf e3 + 8 * fld va 30 9)
    let w3 : WalkEntry := ⟨3, fld va 39 10, BitVec.ofNat 64 e3⟩
    if !pointerOk e2 12 then [w3]
    else
      let e1 := pointerEntry s cache 1 (fld va 21 28) (tableOf e2 + 8 * fld va 21 9)
      let w2 : WalkEntry := ⟨2, fld va 30 19, BitVec.ofNat 64 e2⟩
      if fld e1 63 1 = 1 ∨ !pointerOk e1 8 then [w3, w2] else [w3, w2, ⟨1, fld va 21 28, BitVec.ofNat 64 e1⟩]

/-- The entries that a walk reads from memory: those of its levels that the cache does not hold (R336, R339). -/
def State.walkReads (s : State) (root : Nat) (cache : List WalkEntry) (va : Nat) : List Nat :=
  let read (level index a : Nat) : List Nat := if cache.any fun w => w.level == level && w.index == index then [] else [a]
  let a3 := root + 8 * fld va 39 10
  let e3 := pointerEntry s cache 3 (fld va 39 10) a3
  let a2 := tableOf e3 + 8 * fld va 30 9
  let e2 := pointerEntry s cache 2 (fld va 30 19) a2
  let a1 := tableOf e2 + 8 * fld va 21 9
  let e1 := pointerEntry s cache 1 (fld va 21 28) a1
  read 3 (fld va 39 10) a3 ++ read 2 (fld va 30 19) a2 ++ read 1 (fld va 21 28) a1
    ++ (if fld e1 63 1 = 1 then [] else [tableOf e1 + 8 * fld va 16 5])

/-- Whether a TLB entry translates an address. -/
def TlbEntry.hits (t : TlbEntry) (va : Nat) : Bool := t.page == (if t.big then va / 2 ^ 21 else va / 2 ^ 16)

/-- The translation of an address by a core: its TLB, then its cluster's, then a walk (R336, R338). -/
def State.translate (s : State) (core va : Nat) : Walk :=
  if 2 ^ 49 ≤ va then .bad
  else
    match (s.core core).tlb.find? (·.hits va) with
    | some t => .leaf t.pte.toNat 0 t.big
    | none =>
      match (s.cluster (clusterOf core)).tlb.find? (·.hits va) with
      | some t => .leaf t.pte.toNat 0 t.big
      | none => s.walkFrom s.dev.ptroot (tgetD [] s.walks (dieOf core)) va

/-- What an access asks of a page (R335): system mode, a write, and an access that may reach a fabric page. -/
structure Access where
  sys : Bool
  write : Bool
  far : Bool
deriving DecidableEq, Repr

/-- Where an access arrives: a place, a fault with its cause, or a wait for a move (R335, R340). -/
inductive Reach
  | at_ (l : Loc)
  | fault (cause : Nat)
  | absent
  | wait
deriving DecidableEq, Repr

/-- The place that a leaf entry gives an address, or its protection fault (R335, R341, R351). -/
def placeOf (e : Nat) (big : Bool) (acc : Access) (va : Nat) : Reach :=
  let off := if big then va % 2 ^ 21 else va % 2 ^ 16
  let pa := fld e 8 44 * 256 + off
  if !acc.sys && fld e 1 1 == 0 then .fault 5
  else if acc.write && (fld e 2 1 == 0 || fld e 5 1 == 1) then .fault 5
  else if fld e 3 2 = 2 then (if acc.far then .at_ (.remote (fld e 42 10) (fld e 16 26 * 65536 + off)) else .fault 5)
  else if fld e 5 1 = 1 then .at_ (.comp (pa / 65536 * 65536) (pa % 65536))
  else .at_ (.phys pa)

def Walk.place (w : Walk) (acc : Access) (va : Nat) : Reach :=
  match w with
  | .leaf e _ big => placeOf e big acc va
  | .absent => .absent
  | .bad => .fault 4
  | .busy => .wait

/-- A global access by a core: an absent page is a translation fault (R335). -/
def State.reach (s : State) (core : Nat) (acc : Access) (va : Nat) : Reach :=
  match (s.translate core va).place acc va with
  | .absent => .fault 4
  | r => r

/-! Bytes. -/

/-- A place moved on by some bytes. -/
def Loc.plus (l : Loc) (n : Nat) : Loc :=
  match l with
  | .phys a => .phys (a + n)
  | .comp f o => .comp f (o + n)
  | .sram c o => .sram c (o + n)
  | .remote m a => .remote m (a + n)
  | .bdeck i => .bdeck (i + n)

/-- Consecutive places. -/
def Loc.span (l : Loc) (n : Nat) : List Loc := (List.range n).map l.plus

/-- Mode of line `i` of a compressed block's header (R341). -/
def lineMode (hdr i : Nat) : Nat := fld hdr (2 * i) 2

def modeBytes (m : Nat) : Nat := if m = 1 then 128 else if m = 2 then 36 else 0

/-- Payload bytes of lines 0 to n − 1 (R341). -/
def payloadBefore (hdr : Nat) : Nat → Nat
  | 0 => 0
  | n + 1 => payloadBefore hdr n + modeBytes (lineMode hdr n)

/-- The line whose payload gives line `i` its contents: line `i`, or the nearest earlier line not in mode 11. -/
def sourceLine (hdr : Nat) : Nat → Nat
  | 0 => 0
  | n + 1 => if lineMode hdr (n + 1) = 3 then sourceLine hdr n else n + 1

/-- One byte of a COMP frame at an offset of its expanded bytes; none where its block is malformed (R341, R342). -/
def compByte (m : List Host.Cell) (frame off : Nat) : Option Byte :=
  let blk := off / 4096
  let h := Memory.num m (frame + 4 * blk) 4
  let hdr := Memory.num m (frame + h) 8
  if h + 8 + payloadBefore hdr 32 > 65536 ∨ lineMode hdr 0 = 3 then none
  else
    let line := sourceLine hdr (off % 4096 / 128)
    let pay := frame + h + 8 + payloadBefore hdr line
    let i := off % 128
    if lineMode hdr line = 0 then some 0
    else if lineMode hdr line = 1 then some (Memory.byte m (pay + i))
    else
      let w := Memory.num m pay 4 + wrapInt 32 (signedOf 8 (Memory.byte m (pay + 4 + i / 4)).toNat)
      some (BitVec.ofNat 8 (w / 256 ^ (i % 4)))

/-- The physical addresses that a read of a byte of a COMP frame reads: its block's table word and header, and its payload bytes
(R341). -/
def compReads (m : List Host.Cell) (frame off : Nat) : List Nat :=
  let table := frame + 4 * (off / 4096)
  let head := frame + Memory.num m table 4
  let hdr := Memory.num m head 8
  let line := sourceLine hdr (off % 4096 / 128)
  let pay := head + 8 + payloadBefore hdr line
  let i := off % 128
  (List.range 4).map (table + ·) ++ (List.range 8).map (head + ·)
    ++ (if lineMode hdr line = 1 then [pay + i]
        else if lineMode hdr line = 2 then (List.range 4).map (pay + ·) ++ [pay + 4 + i / 4]
        else [])

/-- The byte at a place; none where a compressed block is malformed. -/
def State.readLoc (s : State) (l : Loc) : Option Byte :=
  match l with
  | .phys a => some (Memory.byte s.mem a)
  | .comp f o => compByte s.mem f o
  | .sram c o => some (tgetD 0 s.sram (c * 1048576 + o))
  | .remote m a => some (Config.remoteByte m a s.free)
  | .bdeck i => some (tgetD 0 s.bdeck i)

/-- The number of the 64-bit granule that protects a place (R384): physical memory, then SRAM, then the B-decks. A byte of a COMP page
has several, by what its block's bytes hold. -/
def Loc.granule (l : Loc) : Option Nat :=
  match l with
  | .phys a => some (a / 8)
  | .sram c o => some (2 ^ 60 + (c * 1048576 + o) / 8)
  | .bdeck i => some (2 ^ 61 + i / 8)
  | .comp _ _ | .remote _ _ => none

/-- The granules that a read of a place reads (R341, R384). -/
def State.granules (s : State) (l : Loc) : List Nat :=
  match l with
  | .comp f o => ((compReads s.mem f o).map (· / 8)).eraseDups
  | _ => l.granule.toList

/-- Whether a read of a place meets uncorrectable data (R384). -/
def State.locBad (s : State) (l : Loc) : Bool := !s.ras.bad.isEmpty && (s.granules l).any s.ras.bad.contains

/-- Bytes of an access of an atomic (R138). -/
def AtomOp.bytes (a : AtomOp) : Nat := if a = .add64 then 8 else 4

/-- The state after a byte is written at a place; a granule that held an uncorrectable error loses it (R384). -/
def State.writeLoc (s : State) (l : Loc) (b : Byte) : State :=
  match l with
  | .phys a => { s with mem := Memory.setByte s.mem a b, ras := { s.ras with bad := s.ras.bad.filter (some · != l.granule) } }
  | .comp _ _ => s
  | .sram c o =>
    { s with
      sram := tset s.sram (c * 1048576 + o) b, ras := { s.ras with bad := s.ras.bad.filter (some · != l.granule) } }
  | .remote _ _ => s
  | .bdeck i =>
    { s with bdeck := tset s.bdeck i b, ras := { s.ras with bad := s.ras.bad.filter (some · != l.granule) } }

def State.writeLocs (s : State) : List (Loc × Byte) → State
  | [] => s
  | (l, b) :: cs => (s.writeLoc l b).writeLocs cs

/-- The bytes at consecutive places; a malformed byte reads as 0. -/
def State.readSpan (s : State) (l : Loc) (n : Nat) : List Byte := (l.span n).map fun x => (s.readLoc x).getD 0

def State.spanBad (s : State) (l : Loc) (n : Nat) : Bool := (l.span n).any fun x => (s.readLoc x).isNone

/-- A little-endian number at a place. -/
def State.readNum (s : State) (l : Loc) (n : Nat) : Nat := numOf (s.readSpan l n)

def State.writeNum (s : State) (l : Loc) (n v : Nat) : State := s.writeLocs ((l.span n).zip (bytesOf n v))

/-! Ownership and tiles that an access waits for (R137, R330). -/

/-- The places that an operation of an engine owns until it completes. -/
def OpKind.owns : OpKind → List Loc
  | .copyFill _ ps | .copyDrain _ ps | .copyMem ps => ps.map (·.2)
  | _ => []

/-- The 128-byte line of a place in global memory. -/
def Loc.line : Loc → Option Nat
  | .phys a => some (a / 128)
  | _ => none

/-- Whether an operation numbered below `limit` owns a place's line (R238, R330). -/
def State.ownedBelow (s : State) (limit : Nat) (l : Loc) : Bool :=
  match l.line with
  | none => false
  | some n => s.ops.any fun o => !o.done && decide (o.id < limit) && o.kind.owns.any fun x => x.line == some n

/-- Whether a clearing engine's operation owns a place's line (R186). -/
def State.ownedByClearing (s : State) (l : Loc) : Bool :=
  match l.line with
  | none => false
  | some n => s.clears.any fun c => c.2.ops.any fun o => o.dst.any fun x => x.line == some n

/-- Whether a clearing engine's operation that issued before an operation of this number owns a place's line (R330). -/
def State.clearingBelow (s : State) (limit : Nat) (l : Loc) : Bool :=
  match l.line with
  | none => false
  | some n => s.clears.any fun c => c.2.ops.any fun o => decide (o.stamp < limit) && o.dst.any fun x => x.line == some n

/-- The table entry of a filling or draining tile that holds a scratchpad byte (R137). -/
def State.busyTile (s : State) (core off : Nat) : Option Nat :=
  (s.run.tiles.find? fun e =>
    (e.2.st == .filling || e.2.st == .draining) && !e.2.bdeck &&
      (match s.block (e.1 / 128 * 32 + e.2.own) with
       | some b => b.core == core && decide (b.base + e.2.base ≤ off)
           && decide (off < b.base + e.2.base + e.2.rows * e.2.pitch)
       | none => false)).map (·.1)

/-- Whether a scratchpad byte lies in a tile that is filling or draining (R137). -/
def State.tileBusy (s : State) (core off : Nat) : Bool := (s.busyTile core off).isSome

/-- Numbers of the structures whose rows the model places: a core's SRAM, the vault and the B-decks (log entry 24). -/
def rasSram : Nat := 1
def rasVault : Nat := 3
def rasDeck : Nat := 4

/-- Whether an assay runs on a row of one of the device's SRAM structures, of 1 KiB each (R385). -/
def State.rowTested (s : State) (structure_ row : Nat) : Bool :=
  s.ras.running.any fun r => !r.1.dram && !r.1.l2 && r.1.structure_ == structure_ && r.1.row == row

/-- Whether an address lies in a DRAM row under assay, or its line in an L2 row under assay; which L2 row holds a line is open (R385; log
entry 24). -/
def State.physTested (s : State) (a : Nat) : Bool :=
  s.ras.running.any fun r => (r.1.dram && r.1.row == a / 65536) || (r.1.l2 && r.1.row == Config.l2Row (a / 128))

/-- Whether a place lies in a row under assay (R385). -/
def State.underAssay (s : State) (l : Loc) : Bool :=
  !s.ras.running.isEmpty && (match l with
    | .phys a => s.physTested a
    | .comp f o => (compReads s.mem f o).any s.physTested
    | .sram c o => s.rowTested rasSram ((c * 1048576 + o) / 1024)
    | .bdeck i => s.rowTested rasDeck (i / 1024)
    | .remote _ _ => false)

/-- The model's number of the host link, above those of the other links (R391; log entry 32). -/
def hostLink : Nat := 2064

/-- Whether a place is held back: by an assay on its row, or by a retrain of the host link, behind which host-coherent memory lies (R332,
R385, R391). -/
def State.heldBack (s : State) (l : Loc) : Bool :=
  s.underAssay l || (match l with
    | .phys a => physHost a && s.linksDown.contains hostLink
    | .comp _ _ | .sram _ _ | .remote _ _ | .bdeck _ => false)

/-- Whether an access to a place must wait (R137, R385, R391). -/
def State.mustWait (s : State) (l : Loc) : Bool :=
  (match l with
   | .phys _ => s.ownedBelow s.nextOp l || s.ownedByClearing l
   | .sram c o => s.tileBusy c o
   | .comp _ _ | .remote _ _ | .bdeck _ => false) || s.heldBack l

/-- Whether an operation is an engine command that holds a place: it owns its line, or fills or drains its tile (R137, R366). -/
def State.holdsPlace (s : State) (l : Loc) (o : Op) : Bool :=
  match l, o.kind with
  | .sram c x, .copyFill e _ | .sram c x, .copyDrain e _ => s.busyTile c x == some e
  | _, _ =>
    match l.line with
    | some n => o.kind.owns.any fun x => x.line == some n
    | none => false

/-- The PC of the wave instruction on a core that issued the command which holds a place, or 0 (R366). -/
def State.ownerPc (s : State) (core : Nat) (l : Loc) : Nat :=
  match s.ops.find? fun o => !o.done && s.holdsPlace l o with
  | some o => if coreOf o.pid = core then o.pc else 0
  | none => 0

end Sys2Proof.Machine
end

