-- ==== Sys2Proof/Machine/Observe.lean ====
section
/-! DEFINITION. Counting numerical events (R56 to R60) and writing trace records (R379 to R383). -/

namespace Sys2Proof.Machine

/-! Numerical events. -/

/-- One class counted: the core after `n` more events, and whether the count crossed its threshold (R58, R59). -/
def bumpClass (k : Core) (c n : Nat) : Core × Bool :=
  if n = 0 ∨ k.nevFrz ∨ !k.nevEn.getLsbD c then (k, false)
  else
    let old := (tgetD 0 k.nevCnt c).toNat
    let new := min (old + n) 0xFFFFFFFF
    let thr := (tgetD 0 k.nevThr c).toNat
    let crossed := decide (thr ≠ 0) && decide (old < thr) && decide (thr ≤ new)
    ({ k with
        nevCnt := tset k.nevCnt c (BitVec.ofNat 32 new),
        nevHit := if crossed then k.nevHit ||| (1#8 <<< c) else k.nevHit }, crossed)

/-- All eight classes counted: the core, and the classes that crossed. -/
def bumpClasses (k : Core) (n : Nat → Nat) : Core × Events :=
  [0, 1, 2, 3, 4, 5, 6, 7].foldl
    (fun a c =>
      let (k', x) := bumpClass a.1 c (n c)
      (k', if x then a.2 ||| (1#8 <<< c) else a.2)) (k, 0#8)

/-- Whether a core asserts its interrupt: some hit bit whose act bit is 1 is set (R59). -/
def Core.numericIrq (k : Core) : Bool := k.nevHit &&& k.nevAct != 0

/-- A core's registers changed, and its interrupt asserted or dropped as they now say (R59). -/
def State.setNumeric (s : State) (core : Nat) (k : Core) : State :=
  let irqs :=
    if k.numericIrq then (if s.irqs.contains (.numeric core) then s.irqs else s.irqs ++ [.numeric core])
    else s.irqs.filter (· != .numeric core)
  { s.setCore core k with irqs := irqs }

/-- Events counted on a core: the state, and if a crossing raises trap 0x0C all the classes that crossed (R59, R60). -/
def State.countEvents (s : State) (core : Nat) (n : Nat → Nat) : State × Events :=
  if [0, 1, 2, 3, 4, 5, 6, 7].all fun c => n c == 0 then (s, 0)
  else
    let (k, x) := bumpClasses (s.core core) n
    (s.setNumeric core k, if x &&& ~~~k.nevAct = 0 then 0 else x)

/-- How many lanes raised a class (R57). -/
def laneCount (evs : List Events) (c : Nat) : Nat := (evs.filter fun e => e.getLsbD c).length

/-! Hotness (R339). -/

/-- The address of a frame's hotness byte. -/
def State.hotAddr (s : State) (frame : Nat) : Nat := s.dev.hotbase + frame / 65536

/-- Bytes of the hotness table: one a frame. -/
def hotBytes : Nat := 2 ^ 36

/-- Every byte of the table halved, once every ms, 3,600,000 cc, of the time passed. -/
def State.halveHot (s : State) : State :=
  let lo := s.dev.hotbase
  let d := 2 ^ min ((s.clk - s.dev.halvedAt) / 3600000) 8
  if s.clk < s.dev.halvedAt + 3600000 then s
  else
    { s with
      dev := { s.dev with halvedAt := s.clk / 3600000 * 3600000 },
      mem := if lo = 0 then s.mem else s.mem.filterMap fun (c : Host.Cell) =>
        if lo ≤ c.1 ∧ c.1 < lo + hotBytes ∧ physValid c.1 then
          (if c.2.toNat / d = 0 then none else some (c.1, BitVec.ofNat 8 (c.2.toNat / d)))
        else some c }

/-- The lines of DRAM that an access to a place reads or writes: for a COMP page those of its table, header and payload (R341). -/
def State.dramLines (s : State) (l : Loc) : List Nat :=
  match l with
  | .phys a => [a / 128]
  | .comp f o => (compReads s.mem f o).map (· / 128)
  | .sram _ _ | .remote _ _ | .bdeck _ => []

/-- One line's access counted in its frame's hotness byte if it reaches DRAM, which the spec's caches leave open. -/
def State.dramLine (s : State) (line : Nat) : State :=
  let a := s.hotAddr (line * 128)
  let s1 : State := { s with free := s.free + 1 }
  if Config.dramAccess line s.free then s1.physWrite a 1 (min (s.physRead a 1 + 1) 255) else s1

/-- The lines of an access counted, after the halving that is due (R339); no table is kept while HOTBASE is 0 (log entry 29). -/
def State.dramTouch (s : State) (ls : List Loc) : State :=
  if s.dev.hotbase = 0 then s else (((ls.map s.dramLines).flatten).eraseDups).foldl State.dramLine s.halveHot

/-! Trace. -/

/-- One bit-serial step of CRC-16 with polynomial 0x1021 (R380). -/
def crcBits : Nat → BitVec 16 → BitVec 16
  | 0, c => c
  | n + 1, c => crcBits n (if c.msb then (c <<< 1) ^^^ 0x1021#16 else c <<< 1)

def crc16 (bs : List Byte) : BitVec 16 :=
  bs.foldl (fun c b => crcBits 8 (c ^^^ BitVec.ofNat 16 (b.toNat * 256))) 0xFFFF#16

/-- The bytes of a trace record (R380). -/
def traceRecord (ty who : Nat) (payload : List Byte) : List Byte :=
  let len := payload.length + 6
  let body := [BitVec.ofNat 8 len, BitVec.ofNat 8 ty, BitVec.ofNat 8 who] ++ payload
  [0xA5#8] ++ body ++ bytesOf 2 (crc16 body).toNat

/-- A leaf entry with its address field replaced and `mg` clear, as a move leaves it (R340). -/
def pteMoved (e frame : Nat) : Nat := fld e 52 12 * 2 ^ 52 + frame + (e % 256 - fld e 7 1 * 128)

/-- Where a system-mode write of the device's own arrives. On a page that is moving it has its effect in the frame that holds the page's
bytes now: every other access to the page waits for the end of the move, so none can tell this from a write that waits (R340). -/
def State.reachStill (s : State) (core va : Nat) : Reach :=
  match s.reach core ⟨true, true, false⟩ va, s.move with
  | .wait, some mv =>
    ({ s.physWrite mv.pte 8 (pteMoved (s.pteAt mv.pte) (if mv.copied then mv.new else mv.old)) with move := none } : State).reach core
      ⟨true, true, false⟩ va
  | r, _ => r

/-- Bytes written at a virtual address as a system-mode write; none where a byte's page faults. -/
def State.writeVirtual (s : State) (core va : Nat) (bs : List Byte) : Option State :=
  let places := (List.range bs.length).map fun i => s.reachStill core (va + i)
  if places.all fun r => match r with | .at_ _ => true | _ => false then
    some (s.writeLocs ((places.zip bs).filterMap fun x => match x.1 with | .at_ l => some (l, x.2) | _ => none))
  else none

/-- Bytes of the trace ring (R379). -/
def Core.ringBytes (k : Core) : Nat := 65536 * 2 ^ k.trLsz

/-- A lost record: the write pointer passes over its bytes, so that later records reach the next page (R383). -/
def State.traceLose (s : State) (core wp len : Nat) : State :=
  let k := s.core core
  let page := wp / 65536 * 65536
  let began := match k.trLostPage with | some l => l.1 | none => page
  s.setCore core { k with
    trWp := wp + len, trLost := min (k.trLost + 1) 0xFFFFFFFF, trGap := true, trLostPage := some (began, page), trOwed := k.trOwed + 1 }

/-- Every live path of a core owes a SYNC; after a gap, or where the trace is enabled, its records wait for that (R381 to R383). -/
def State.owePaths (s : State) (core : Nat) (mute : Bool) : State :=
  { s with run := { s.run with
      paths := s.run.paths.map fun e =>
        if e.1 / 128 == core then (e.1, { e.2 with traceSync := true, traceMute := e.2.traceMute || mute }) else e } }

/-- A record placed at a ring position: the state, or none where its page faults. -/
def State.tracePlace (s : State) (core wp : Nat) (bs : List Byte) : Option State :=
  s.writeVirtual core ((s.core core).trBase + wp % (s.core core).ringBytes) bs

/-- Where a record of `len` bytes goes: a record that would cross a 64 KiB boundary starts on the next page (R380). -/
def Core.traceAim (k : Core) (len : Nat) : Nat :=
  let left := 65536 - k.trWp % 65536
  if len ≤ left then k.trWp else k.trWp + left

/-- A record would be aimed at a page one of whose records has been lost (R383). -/
def Core.traceLosing (k : Core) (len : Nat) : Bool :=
  match k.trLostPage with
  | some l => l.2 == k.traceAim len / 65536 * 65536
  | none => false

/-- Nothing is written: trace is off, or has stopped at the end of a full ring (R379). -/
def Core.traceOff (k : Core) : Bool := !k.trEn || (k.trFull && !k.trWrap)

/-- One record placed at the write pointer, with the padding of a page that it would cross and the loss rules
(R379, R380, R383). -/
def State.tracePut (s : State) (core : Nat) (bs : List Byte) : State :=
  let k := s.core core
  let wp := k.traceAim bs.length
  if k.traceOff then s
  else if k.traceLosing bs.length then s.traceLose core wp bs.length
  else if !k.trWrap && decide (wp + bs.length > k.ringBytes) then s.setCore core { k with trFull := true }
  else
    let pad := wp - k.trWp
    let s1 := if pad = 0 ∨ k.trLostPage.isSome then some s else s.tracePlace core k.trWp (List.replicate pad 0)
    match (s1.getD s).tracePlace core wp bs with
    | some s2 =>
      let s3 := s2.setCore core { s2.core core with trWp := wp + bs.length, trCount := if 4096 ≤ k.trCount + 1 then 0 else k.trCount + 1 }
      if 4096 ≤ k.trCount + 1 then s3.owePaths core false else s3
    | none => s.traceLose core wp bs.length

/-- Before a record of `len` bytes: where it is aimed past a page that lost records, a LOSS comes first and every path owes
a SYNC (R383). A LOSS that is lost itself leaves the records owed. -/
def State.traceResume (s : State) (core len : Nat) : State :=
  let k := s.core core
  match k.trLostPage with
  | none => s
  | some l =>
    if k.traceOff || k.traceLosing len then s
    else
      let at_ := k.traceAim len
      let s1 := (s.setCore core { k with trWp := at_ }).tracePut core
        (traceRecord 4 1 (bytesOf 4 k.trOwed ++ bytesOf 8 (k.trBase + l.1 % k.ringBytes) ++ [0, 0]))
      if (s1.core core).traceLosing len || (s1.core core).traceOff then s1
      else (s1.setCore core { s1.core core with trLostPage := none, trOwed := 0 }).owePaths core true

/-- One record of a core written, a LOSS before it where one is due (R379, R380, R383). -/
def State.traceWrite (s : State) (core : Nat) (bs : List Byte) : State := (s.traceResume core bs.length).tracePut core bs

/-- The v and st of the four slots of a wave (R380). -/
def PathState.code : PathState → Nat
  | .ready => 0
  | .waiting => 1
  | .parkedRejoin => 2
  | .parkedMeeting => 3

def State.slotStates (s : State) (wid : Nat) : Nat :=
  (s.pathsOf wid).foldl (fun n q => n + (8 + q.2.st.code) * 16 ^ (q.1 % 4)) 0

def who (pid : Nat) : Nat := pid / 4 % 32 * 8 + pid % 4 * 2

/-- The SYNC that a path owes (R381, R382). Helper paths are not traced. -/
def State.traceSync (s : State) (pid : Nat) : State :=
  if isHelper pid || !(s.core (coreOf pid)).trEn then s
  else
    match s.path pid with
    | some p =>
      if p.traceSync then
        ((s.traceResume (coreOf pid) 32).onPath pid fun q => { q with traceSync := false, traceMute := false }).tracePut (coreOf pid)
          (traceRecord 1 (who pid) (bytesOf 8 p.pc ++ bytesOf 4 s.clk ++ bytesOf 12 p.mask.toNat
            ++ bytesOf 2 (s.slotStates (pid / 4))))
      else s
    | none => s

/-- A record of a path that needs a SYNC before it: while it waits for one, the record is not written (R381, R383). -/
def State.traceAfterSync (s : State) (pid : Nat) (bs : List Byte) : State :=
  let t := s.traceResume (coreOf pid) bs.length
  match t.path pid with
  | some p => if p.traceMute then t else t.tracePut (coreOf pid) bs
  | none => t

/-- A FLOW record (R380). That of a new path announces it and needs no SYNC (R381). -/
def State.traceFlow (s : State) (pid kind pc slot : Nat) : State :=
  if isHelper pid || !(s.core (coreOf pid)).trEn then s
  else
    let bs := traceRecord 2 (who pid) (bytesOf 8 pc ++ [BitVec.ofNat 8 kind, BitVec.ofNat 8 slot])
    if kind = 6 then s.traceWrite (coreOf pid) bs else s.traceAfterSync pid bs

/-- A MASK record where a path's mask has changed (R380). That of a new path, whose mask was empty, needs no SYNC (R381). -/
def State.traceMask (s : State) (pid : Nat) (old : Lanes) : State :=
  if isHelper pid || !(s.core (coreOf pid)).trEn then s
  else
    match s.path pid with
    | some p =>
      let bs := traceRecord 3 (who pid) (bytesOf 12 p.mask.toNat ++ [0, 0])
      if p.mask = old then s
      else if old = 0 then s.traceWrite (coreOf pid) bs
      else s.traceAfterSync pid bs
    | none => s

/-- New paths of a wave whose slots satisfy a test announced in ascending slot order, each by a FLOW of kind 6 and a MASK (R380,
R381). -/
def State.announce (s : State) (wid : Nat) (which : Nat → Bool) : State :=
  (s.pathsOf wid).foldl (fun t q =>
    if q.2.traceNew && which q.1 then
      ((t.traceFlow q.1 6 q.2.pc (q.1 % 4)).traceMask q.1 0).onPath q.1 fun p => { p with traceNew := false }
    else t) s

/-- The records of a path's change of flow and of mask, among those of the paths that its wave has just begun: by slot (R380). -/
def State.traceTurn (s : State) (pid : Nat) (flow : Option (Nat × Nat)) (old : Lanes) : State :=
  let s1 := if isHelper pid then s else s.announce (pid / 4) fun q => decide (q < pid)
  let s2 := match flow with | some (kind, pc) => s1.traceFlow pid kind pc (pid % 4) | none => s1
  let s3 := s2.traceMask pid old
  if isHelper pid then s3 else s3.announce (pid / 4) fun _ => true

/-- An EVENT record of a core (R380). -/
def State.traceEvent (s : State) (core kind wp : Nat) : State :=
  s.traceWrite core (traceRecord 5 1 (bytesOf 8 s.clk ++ [BitVec.ofNat 8 kind, BitVec.ofNat 8 wp]))

end Sys2Proof.Machine
end

