-- ==== Sys2Proof/Machine/Ops.lean ====
section
/-! DEFINITION. The named operations on paths, waves and operations in flight: counters, escrow, ending helpers, paths and
waves, taking a trap and returning from one, arriving and merging (R77, R80, R93, R95, R199, R206 to R208, R226, R291 to
R307). -/

namespace Sys2Proof.Machine

/-- Every path of the context changed by a function. -/
def State.mapPaths (s : State) (f : Nat → Path → Path) : State :=
  { s with run := { s.run with paths := s.run.paths.map fun (e : Nat × Path) => (e.1, f e.1 e.2) } }

/-! Counters and pending registers (R88, R135, R157, R226). -/

/-- The largest value of a counter, at which an instruction of its class waits at issue (R88). -/
def OpClass.top : OpClass → Nat
  | .ld | .st | .held => 63
  | .cp | .tl => 15

/-- The value of a wait counter: ld and st release in issue order, cp and tl in any order (R226). -/
def State.counter (s : State) (owner : Nat) (c : OpClass) : Nat :=
  let mine := s.ops.filter fun o => o.owner == owner && o.cls == c
  match c with
  | .ld | .st => (mine.dropWhile (·.done)).length
  | .cp | .tl | .held => (mine.filter fun o => !o.done).length

/-- The operations that a counter still covers, oldest first. -/
def State.outstanding (s : State) (owner : Nat) (c : OpClass) : List Op :=
  s.ops.filter fun o => o.owner == owner && o.cls == c && !o.done

/-- Whether an operation may be forgotten: it is done, and its counter has released it. -/
def released (ops : List Op) (o : Op) : Bool :=
  o.done && (match o.cls with
    | .cp | .tl | .held => true
    | .ld | .st => !(ops.any fun q => q.owner == o.owner && q.cls == o.cls && decide (q.id < o.id) && !q.done))

/-- The operations without those that may be forgotten. -/
def State.prune (s : State) : State := { s with ops := s.ops.filter fun o => !released s.ops o }

def State.findOp (s : State) (id : Nat) : Option Op := s.ops.find? fun o => o.id == id && !o.done

/-- An operation marked done, and forgotten once its counter releases it. -/
def State.finishOp (s : State) (id : Nat) : State :=
  ({ s with ops := s.ops.map fun (o : Op) => if o.id == id then { o with done := true } else o } : State).prune

/-! Path order (R319, R327). -/

/-- The operations still in flight that precede a path's next access in path order. -/
def State.priorOf (s : State) (pid : Nat) : List Nat :=
  match s.path pid with
  | some p => p.prior.filter fun n => s.ops.any fun o => o.id == n && !o.done
  | none => []

/-- An operation in flight with its own number, which some operations precede; it precedes what follows in its path. -/
def State.putOp (s : State) (before : List Nat) (o : Op) : State :=
  ({ s with ops := s.ops ++ [{ o with after := before }] } : State).onPath o.pid fun p => { p with prior := s.priorOf o.pid ++ [o.id] }

/-- The 128-byte line of memory that an access requests (R225): of device memory, of a COMP page, or of another module. -/
def Loc.request : Loc → Option (Nat × Nat)
  | .phys a => some (0, a / 128)
  | .comp f o => some (1, (f + o) / 128)
  | .remote m a => some (m + 2, a / 128)
  | .sram _ _ | .bdeck _ => none

/-- How many lines an operation of a wave requests (R1, R225). -/
def OpKind.slots (k : OpKind) : Nat :=
  let at_ : List Loc := match k with
    | .load _ accs _ => accs.map (·.2)
    | .store cs => cs.map (·.1)
    | .atomic _ accs => accs.map (·.2.1)
    | .texel _ ls => (ls.map fun x => x.2.2.1.filterMap id).flatten
    | .gather _ ls => (ls.map fun x => (x.2.map (·.2)).flatten).flatten
    | .scatter adds => adds.map (·.1)
    | .put ps _ => ps.map (·.1)
    | .values _ _ | .hashDesc _ | .query _ _ | .copyFill _ _ | .copyDrain _ _ | .copyMem _ | .vaultRead _ | .vaultWrite _
    | .table _ _ => []
  ((at_.filterMap Loc.request).eraseDups).length

/-- A new operation in flight, which some operations precede. A committed store holds no request: it stays in the escrow until it is
performed. -/
def State.addOpAfter (s : State) (before : List Nat) (o : Op) : State :=
  ({ s with nextOp := s.nextOp + 1 } : State).putOp before
    { o with id := s.nextOp, slots := if o.cls = .held then 0 else o.kind.slots }

/-- A new operation in flight of a path: what is still in flight of the path precedes it. -/
def State.addOp (s : State) (o : Op) : State := s.addOpAfter (s.priorOf o.pid) o

/-- The kinds of an operation among r, w, a, e that is not performed: bits 3, 2, 1 and 0 of a fence's set (R139). Values on their way
back have been fixed, so that their load or atomic is performed (R321). -/
def OpKind.kinds : OpKind → Nat
  | .load _ _ _ | .texel _ _ | .gather _ _ | .vaultRead _ | .query _ _ => 8
  | .store _ | .vaultWrite _ | .put _ _ => 4
  | .atomic _ _ | .scatter _ => 2
  | .values _ _ => 0
  | .copyFill _ _ | .copyDrain _ _ | .copyMem _ | .hashDesc _ | .table _ _ => 1

/-- The bytes that an operation of a wave reads or writes. -/
def OpKind.touches : OpKind → List Loc
  | .load w accs _ => (accs.map fun x => x.2.span w.bytes).flatten
  | .store cs => cs.map (·.1)
  | .atomic a accs => (accs.map fun x => x.2.1.span a.bytes).flatten
  | .texel _ ls => (ls.map fun x => (x.2.2.1.filterMap id).map fun l => l.span 4).flatten.flatten
  | .gather fs ls => (ls.map fun x => (x.2.zip fs).map fun y => (y.1.2.map fun l => l.span (if y.2 then 8 else 4)).flatten).flatten.flatten
  | .scatter adds => (adds.map fun x => x.1.span 4).flatten
  | .put ps _ => (ps.map fun p => p.1.span p.2.length).flatten
  | .values _ _ | .hashDesc _ | .query _ _ | .copyFill _ _ | .copyDrain _ _ | .copyMem _ | .vaultRead _ | .vaultWrite _
  | .table _ _ => []

/-- Whether an operation changes the bytes that it touches. -/
def OpKind.changes : OpKind → Bool
  | .store _ | .atomic _ _ | .scatter _ | .put _ _ => true
  | _ => false

/-- The bytes that an engine command still has to read (R229). -/
def OpKind.sources : OpKind → List Loc
  | .copyFill _ ps | .copyDrain _ ps | .copyMem ps => ps.map (·.1)
  | _ => []

/-- Whether an operation that precedes another in path order and is not performed touches one of its bytes, or an earlier engine command
of its wave still reads a byte which it changes (R229, R319). -/
def State.overlapsEarlier (s : State) (o : Op) : Bool :=
  let mine := o.kind.touches
  s.ops.any fun q => !q.done &&
    ((o.after.contains q.id && q.kind.touches.any mine.contains)
      || (o.kind.changes && q.owner == o.owner && decide (q.id < o.id) && q.kind.sources.any mine.contains))

/-- Whether a load or atomic that precedes an operation in path order has not returned (R319). -/
def State.loadsBefore (s : State) (o : Op) : Bool :=
  s.ops.any fun q => !q.done && o.after.contains q.id && q.kind.kinds &&& 10 != 0

/-- Whether the cycles of a scratchpad access have come (R356). -/
def State.bankTurn (s : State) (o : Op) : Bool := decide (o.due ≤ s.icc (coreOf o.pid)) && decide (o.far ≤ s.icc (coreOf o.pid))

/-- Whether an operation may be performed now: not while a line or tile that it reaches is owned, or a row of it under assay (R137, R319,
R330, R356, R385). -/
def State.mayPerform (s : State) (o : Op) : Bool :=
  !s.overlapsEarlier o && !((o.kind.changes || o.kind.kinds &&& 4 != 0) && s.loadsBefore o) && s.bankTurn o
    && !o.kind.touches.any s.mustWait

/-- The first of a path's earlier operations of these kinds that is not performed. -/
def State.unperformed (s : State) (pid set : Nat) : Option Op :=
  let before := s.priorOf pid
  s.ops.find? fun o => !o.done && before.contains o.id && o.kind.kinds &&& set != 0

/-! Scopes (R5, R320, R323, R324). -/

/-- The owner of stores and commands left by waves of a block that have ended. -/
def orphanOwner (bid : Nat) : Nat := 8192 + bid

/-- The block of an operation. -/
def State.opBlock (s : State) (o : Op) : Nat := if 8192 ≤ o.owner then o.owner - 8192 else s.bidOf o.pid

/-- Whether a path lies in an operation's instance of a scope. -/
def State.sharesScope (s : State) (k : Scope) (o : Op) (pid : Nat) : Bool :=
  match k with
  | .wave => s.waveOf o.pid == s.waveOf pid && decide (o.owner < 8192)
  | .block => s.opBlock o == s.bidOf pid && clusterOf (coreOf o.pid) == clusterOf (coreOf pid)
  | .cluster => clusterOf (coreOf o.pid) == clusterOf (coreOf pid)
  | .die => dieOf (coreOf o.pid) == dieOf (coreOf pid)
  | .package | .system => true

/-- A scope's place in the order from the narrowest. -/
def scopeRank : Scope → Nat
  | .wave => 0
  | .block => 1
  | .cluster => 2
  | .die => 3
  | .package => 4
  | .system => 5

/-- Whether a pending store has been made visible to a path by a fence or a release of its own scope (R320, R323). -/
def State.shownTo (s : State) (pid : Nat) (o : Op) : Bool :=
  !o.done && (match o.seen with | some k => s.sharesScope k o pid | none => false)

/-- The store, made visible to a path by another one, that is still to write one of some bytes: an access waits for it at issue (R320;
log entry 10). -/
def State.unseenStore (s : State) (pid : Nat) (ls : List Loc) : Option Op :=
  let before := s.priorOf pid
  s.ops.find? fun o => s.shownTo pid o && !before.contains o.id && o.kind.touches.any ls.contains

def State.unseen (s : State) (pid : Nat) (ls : List Loc) : Bool := (s.unseenStore pid ls).isSome

/-- An operation in flight that precedes a path's next access and touches one of some bytes. -/
def State.touchedBefore (s : State) (pid : Nat) (ls : List Loc) : Option Op :=
  let before := s.priorOf pid
  s.ops.find? fun o => !o.done && before.contains o.id && o.kind.touches.any ls.contains

/-- What an indivisible access to some bytes waits for, by the PC to blame: a line that an engine owns, and for a path's access also an
earlier access of the path to one of the bytes, or a store that is visible to it (R137, R318, R319, R330). -/
def State.heldBy (s : State) (pid : Option Nat) (ls : List Loc) : Option Nat :=
  match ls.find? s.mustWait, pid with
  | some l, _ => some (s.ownerPc (coreOf (pid.getD 0)) l)
  | none, some p => (s.touchedBefore p ls <|> s.unseenStore p ls).map (·.pc)
  | none, none => none

/-- A path's pending stores, and those visible to it, made visible in a scope (R320, R323). -/
def State.showIn (s : State) (pid : Nat) (k : Scope) : State :=
  let before := s.priorOf pid
  let wider (o : Op) : Op := match o.seen with
    | some j => if scopeRank j < scopeRank k then { o with seen := some k } else o
    | none => { o with seen := some k }
  { s with ops := s.ops.map fun (o : Op) =>
      if !o.done && o.kind.kinds == 4 && (before.contains o.id || s.shownTo pid o) then wider o else o }

/-- The PC of the first access that a release of package scope must wait for: the path's loads, stores and atomics, and the stores
visible to it (R323; log entry 10). -/
def State.unreleased (s : State) (pid : Nat) : Option Nat :=
  match s.unperformed pid 14 with
  | some o => some o.pc
  | none => (s.ops.find? (s.shownTo pid)).map (·.pc)

/-- The PC of the first of a path's earlier operations of some kinds for which an order at a scope within the package waits: all but
stores, which are made visible in that scope instead; a store to the vault has no byte at which another access could wait for it (R321,
R328; log entry 10). -/
def State.unfenced (s : State) (pid set : Nat) : Option Nat :=
  let before := s.priorOf pid
  (s.ops.find? fun o => !o.done && before.contains o.id && o.kind.kinds &&& set != 0
    && (o.kind.kinds != 4 || o.kind.touches.isEmpty)).map (·.pc)

/-- Whether two register ranges meet. -/
def rangesMeet (a b : Nat × Nat) : Bool := decide (a.1 < b.1 + b.2) && decide (b.1 < a.1 + a.2)

/-- Whether an operation will still write one of these registers (R135). -/
def Op.writes (o : Op) (vs ss : List (Nat × Nat)) : Bool :=
  !o.done && !o.dropped && (match o.dest with
    | .vector f n => vs.any (rangesMeet (f, n))
    | .scalar f n => ss.any (rangesMeet (f, n))
    | .none => false)

/-- Whether a path that a splitting load made waits for an operation's data; only that path waits for it (R136). -/
def State.splitWaits (s : State) (owner id : Nat) : Bool :=
  decide (owner < 4096) && (s.pathsOf owner).any fun q => q.2.wait == .data id

/-- The PC of the earliest operation on which an instruction waits at the scoreboard, if it waits (R135, R366). -/
def State.registersPending (s : State) (owner : Nat) (r : Regs) : Option Nat :=
  (s.ops.find? fun o => o.owner == owner && o.writes (r.vr ++ r.vw) (r.sr ++ r.sw) && !s.splitWaits owner o.id).map (·.pc)

/-- The PC of the oldest outstanding operation of a class (R366). -/
def State.oldest (s : State) (owner : Nat) (k : OpClass) : Nat :=
  match s.outstanding owner k with
  | o :: _ => o.pc
  | [] => 0

/-! Wave-registers (R275, R292). -/

/-- Free wave-registers of a pipe of a core. -/
def State.poolFree (s : State) (core pipe : Nat) : Nat :=
  Config.pipePool
    - ((s.run.waves.filter fun w => w.1 / 32 == core && w.1 % 4 == pipe).map fun w => w.2.regCount).sum
    - ((s.run.helpers.filter fun h => coreOf h.1 == core && h.2.lender % 4 == pipe).map fun h => 8 * h.2.blocks).sum

/-! Escrow (R80, R291). -/

/-- Replay entries of a core that no wave has reserved. -/
def State.freeReplay (s : State) (core : Nat) : Nat :=
  Config.replayEntries - ((s.run.waves.filter fun w => w.1 / 32 == core).map fun w => w.2.reservation).sum

/-- Loan entries of a core that no helper lane has reserved: eight a lane. -/
def State.freeLoan (s : State) (core : Nat) : Nat :=
  Config.loanEntries - ((s.run.helpers.filter fun h => coreOf h.1 == core).map fun h => 8 * (lanesOf h.2.lanes).length).sum

/-- Held stores of a path that its own later loads see, newest first (R80, R158). -/
def State.heldCells (s : State) (pid lane : Nat) : List (Loc × Byte) :=
  match s.helper pid with
  | some h => ((tgetD [] h.held lane).filterMap fun e => match e with | .store _ cs _ => some cs | .repay _ _ => none).flatten.reverse
  | none =>
    match s.path pid with
    | some p => (match p.region with | some r => (r.stores.map (·.cells)).flatten.reverse | none => [])
    | none => []

/-- The PC of the first earlier load or atomic of a path that has not returned, which performing its stores waits for (R319). -/
def State.pendingLoad (s : State) (pid : Nat) : Option Nat := (s.unperformed pid 10).map (·.pc)

/-! Watchpoint hits (R357 to R359, R373). -/

/-- Skid counts of a cluster's waves restarted: a bundle issued in this cc counts (R358). -/
def State.restartSkids (s : State) (cluster : Nat) : State :=
  { s with run := { s.run with
      waves := s.run.waves.map fun w =>
        if w.1 / 128 == cluster then (w.1, { w.2 with skid := if w.2.lastAt = some (s.icc (w.1 / 32)) then 1 else 0 }) else w } }

/-- A stop of a cluster begins in this cc, with its hit record (R357, R359). -/
def State.beginStop (s : State) (cluster : Nat) (src : DWord) (adr : Nat) (hlp : Word) : State :=
  (s.setCluster cluster { s.cluster cluster with
    whClk := s.clk, whSrc := src, whAdr := BitVec.ofNat 64 adr, whMore := 0, whHlp := hlp,
    stopping := some (s.icc (4 * cluster)) }).restartSkids cluster

/-- Matches counted, one a watchpoint (R373). -/
def Cluster.countHits (k : Cluster) : List (Nat × Nat) → Cluster
  | [] => k
  | (n, _) :: hs =>
    let p := tgetD Watchpoint.reset k.watch n
    ({ k with watch := tset k.watch n { p with hits := min (p.hits + 1) 0xFFFFFFFF } } : Cluster).countHits hs

/-- The matches of a performed access (R357, R359): a stop-action match stops the cluster, the lowest-numbered of one cc being
recorded; while the cluster is stopping or stopped any matching access counts once in WHMORE, whatever its watchpoint. A stop met while
the cluster is stopped is kept, for a resume in the same cc (R371). -/
def State.watchHits (s : State) (w : Watch) (hits : List (Nat × Nat)) : State :=
  let k := (s.cluster w.cluster).countHits hits
  let s1 := s.setCluster w.cluster k
  let more := s1.setCluster w.cluster { k with
    whMore := min (k.whMore + 1) 0xFFFFFFFF,
    asked := match k.asked, hits.find? fun h => fld (tgetD Watchpoint.reset k.watch h.1).ctl.toNat 22 2 == 0 with
      | some a, some (n, x) =>
        if a.1 = s.clk then some a else some (s.clk, w.src ||| BitVec.ofNat 64 (2 ^ 63 + n * 2 ^ 60), BitVec.ofNat 64 x, w.hlp)
      | none, some (n, x) => some (s.clk, w.src ||| BitVec.ofNat 64 (2 ^ 63 + n * 2 ^ 60), BitVec.ofNat 64 x, w.hlp)
      | a, none => a }
  let begun (n a : Nat) : State := s1.beginStop w.cluster (w.src ||| BitVec.ofNat 64 (2 ^ 63 + n * 2 ^ 60)) a w.hlp
  if hits.isEmpty then s
  else if k.stopped then more
  else
    match k.stopping, hits.find? fun h => fld (tgetD Watchpoint.reset k.watch h.1).ctl.toNat 22 2 == 0 with
    | none, none => s1
    | none, some (n, a) => begun n a
    | some h, some (n, a) =>
      if h < s.icc (4 * w.cluster) then more else if n < fld k.whSrc.toNat 60 3 then begun n a else s1
    | some h, none => if h < s.icc (4 * w.cluster) then more else s1

/-- The hits of a performed access. -/
def State.performed (s : State) (w : Option Watch) : State :=
  match w with
  | some w => s.watchHits w w.hits
  | none => s

/-- A held store as an operation of a path (R80, R329). -/
def heldOp (id owner pid pc : Nat) (cells : List (Loc × Byte)) (w : Option Watch) : Op :=
  { id := id, owner := owner, pid := pid, pc := pc, first := pc, sys := false, cls := .held, dest := .none, mask := 0,
    kind := .store cells, done := false, dropped := false, vas := [], watch := w, after := [], seen := none, own := false,
    due := 0, far := 0, got := [], slots := 0 }

/-- A held store performed at its commit; where an access that precedes it, an engine or another agent's visible store still holds
one of its bytes it is performed after that (R319, R329, R330). -/
def State.commitStore (s : State) (id owner pid pc : Nat) (before : List Nat) (cells : List (Loc × Byte)) (w : Option Watch) : State :=
  let o : Op := { heldOp id owner pid pc cells w with after := before }
  if s.overlapsEarlier o || s.loadsBefore o || cells.any (fun c => s.mustWait c.1) || s.unseen pid (cells.map (·.1)) then
    s.putOp before o
  else ((s.writeLocs cells).performed w).dramTouch (cells.map (·.1))

/-- A region's held stores committed in order. -/
def State.performHeld (s : State) (pid pc : Nat) : List HeldStore → State
  | [] => s
  | h :: hs => (s.commitStore h.id (ownerOf pid) pid pc (s.priorOf pid) h.cells h.watch).performHeld pid pc hs

/-- A path's part of an open region committed and left. -/
def State.commitPart (s : State) (pid : Nat) : State :=
  match s.path pid with
  | some p =>
    match p.region with
    | some r => (s.performHeld pid p.pc r.stores).onPath pid fun p => { p with region := none }
    | none => s
  | none => s

/-- Whether two paths hold parts of one region: one of them was created within it (R80, R254; log entry 125). -/
def Region.same (a b : Region) : Bool := a.start == b.start && a.entry == b.entry

/-- A path's open region committed and left, by every path that was created within it too (R80, R254). -/
def State.commitRegion (s : State) (pid : Nat) : State :=
  match (s.path pid).bind (·.region) with
  | some r =>
    ((s.pathsOf (pid / 4)).filter fun q => match q.2.region with | some x => x.same r | none => false).foldl
      (fun t q => t.commitPart q.1) s
  | none => s

/-- Whether a due trap comes before another: in the order of R307, and of helper faults the earlier, then the lower lane (R296). -/
def DueTrap.before (d e : DueTrap) : Bool :=
  decide (d.rank < e.rank) || (d.rank == e.rank && (decide (d.cc < e.cc)
    || (d.cc == e.cc && d.rank == 4 && decide (d.lane.getD 0 < e.lane.getD 0))))

/-- A trap that becomes due for a path, kept in order. -/
def dueInsert : List DueTrap → DueTrap → List DueTrap
  | [], d => [d]
  | e :: es, d => if d.before e then d :: e :: es else e :: dueInsert es d

def State.addDue (s : State) (pid : Nat) (d : DueTrap) : State :=
  s.onPath pid fun p => { p with due := dueInsert p.due d }

/-- A contribution added to a loan's repay record; one beyond the 2^24th is dropped (R84). -/
def addRepay (l : Loan) (reg : Nat) (v : Word) : Loan :=
  { l with repays := l.repays.map fun r =>
      if r.reg == reg && decide (r.values.length < 2 ^ 24) then { r with values := r.values ++ [v] } else r }

/-- Whether a contribution to a register would be one beyond the 2^24th (R84). -/
def State.repayFull (s : State) (recruiter reg : Nat) : Bool :=
  match (s.path recruiter).bind (·.loan) with
  | some l => l.repays.any fun r => r.reg == reg && decide (2 ^ 24 ≤ r.values.length)
  | none => false

/-- Whether a path's exec mask is empty. -/
def State.maskEmpty (s : State) (pid : Nat) : Bool := match s.path pid with | some p => p.mask == 0 | none => true

/-- Events counted on a path's core; a crossing that traps becomes due for the path. A path with an empty exec mask counts nothing (R57,
R60). -/
def State.countFor (s : State) (pid : Nat) (n : Nat → Nat) : State :=
  if s.maskEmpty pid then s
  else
    let r := s.countEvents (coreOf pid) n
    if r.2 = 0 then r.1 else r.1.addDue pid ⟨5, 0x0C, r.2.zeroExtend 64, none, s.clk⟩

/-- The saturation events of contributions dropped beyond the 2^24th (R84). -/
def dropEvents (n k : Nat) : Nat := if k = 4 then n else 0

/-- The committed stores of a loan that are still to be performed: they come before what is committed later (R318, R329). -/
def State.committedBefore (s : State) (recruiter : Nat) : List Nat :=
  (s.ops.filter fun o => !o.done && o.cls == .held && o.pid == recruiter).map (·.id)

/-- Held entries of an iteration committed: stores performed as the lending wave's, contributions added to the recruiter's loan; and how
many contributions were dropped as beyond the 2^24th (R83, R84, R329). `own` says that the iteration is the recruiter's. -/
def State.commitHeld (s : State) (own : Bool) (owner recruiter : Nat) : List Held → State × Nat
  | [] => (s, 0)
  | .store n cs w :: es =>
    (s.commitStore n owner recruiter 0 (if own then s.priorOf recruiter else s.committedBefore recruiter) cs w).commitHeld own owner recruiter es
  | .repay reg v :: es =>
    if s.repayFull recruiter reg then
      let r := s.commitHeld own owner recruiter es
      (r.1, r.2 + 1)
    else (s.onPath recruiter fun p => { p with loan := p.loan.map fun l => addRepay l reg v }).commitHeld own owner recruiter es

/-- Sorted insertion into the pool of returned iterations (R297). -/
def poolInsert : List Nat → Nat → List Nat
  | [], n => [n]
  | k :: ks, n => if n < k then n :: k :: ks else k :: poolInsert ks n

/-- Bits of sr.loanst (R82). -/
def loanstAct : Word := 1#32
def loanstRcl : Word := 0x100#32
def loanstOvf : Word := 0x200#32

/-- A status bit of a loan set (R82). -/
def State.markLoan (s : State) (recruiter : Nat) (bit : Word) : State :=
  s.onPath recruiter fun p => { p with loanst := p.loanst ||| bit }

/-- An iteration returned to its loan's pool, with a status bit set (R297, R298). -/
def State.returnIteration (s : State) (recruiter it : Nat) (bit : Word) : State :=
  (s.onPath recruiter fun p => { p with loan := p.loan.map fun l => { l with pool := poolInsert l.pool it } }).markLoan recruiter bit

/-! Ending helpers (R77, R297, R298). -/

/-- A helper path gone: its registers, predicates, tokens and loads forgotten, its pool registers free (R292). -/
def State.dropHelper (s : State) (pid : Nat) : State :=
  let o := ownerOf pid
  { s with
    ops := s.ops.filter fun q => q.owner != o || !(q.cls == .ld || q.cls == .tl),
    run := { s.run with
      paths := tdel s.run.paths pid, helpers := tdel s.run.helpers pid,
      sregs := tdrop s.run.sregs (o * 128) (o * 128 + 128),
      vregs := tdrop s.run.vregs (vkey o 0 0) (vkey (o + 1) 0 0),
      kregs := tdrop s.run.kregs (o * 8) (o * 8 + 8), tokens := tdel s.run.tokens o,
      queries := tdrop s.run.queries (lkey o 0) (lkey (o + 1) 0),
      queryFrom := tdrop s.run.queryFrom (lkey o 0) (lkey (o + 1) 0) } }

/-- Intersection query states of an owner's lanes cleared (R177, R181), those too that queries in flight would leave. -/
def State.clearQueries (s : State) (owner : Nat) (m : Lanes) : State :=
  { s with run := { s.run with
      queries := s.run.queries.filter fun (q : Nat × Query) =>
        !(decide (lkey owner 0 ≤ q.1) && decide (q.1 < lkey owner 96) && m.getLsbD (q.1 - lkey owner 0)),
      queryFrom := tsets s.run.queryFrom ((lanesOf m).map fun l => (lkey owner l, s.nextOp)) } }

/-- A lane taken out of a helper path and returned to its lender. Its uncommitted entries are dropped; an iteration that it
still holds goes back to the pool with a status bit. -/
def State.releaseLane (s : State) (pid lane : Nat) (bit : Word) : State :=
  match s.helper pid with
  | none => s
  | some h =>
    let s1 :=
      match tget h.iters lane with
      | some it => s.returnIteration h.recruiter it bit
      | none => s
    let s2 := (s1.clearQueries (ownerOf pid) (laneBit lane)).setHelper pid { h with
      lanes := h.lanes &&& ~~~laneBit lane, iters := tdel h.iters lane, held := tdel h.held lane }
    let s3 := s2.onPath pid fun p => { p with mask := p.mask &&& ~~~laneBit lane }
    let s4 := s3.setTokens (ownerOf pid) ((s3.tokensOf (ownerOf pid)).map fun t =>
      { t with mask := t.mask &&& ~~~laneBit lane, arrived := t.arrived &&& ~~~laneBit lane,
               pmask := t.pmask &&& ~~~laneBit lane })
    s4.onWave h.lender fun w => { w with lent := w.lent &&& ~~~laneBit lane }

/-- Several lanes released. -/
def State.releaseLanes (s : State) (pid : Nat) (bit : Word) : List Nat → State
  | [] => s
  | l :: ls => (s.releaseLane pid l bit).releaseLanes pid bit ls

/-- What a helper fault puts into sr.eaux (R296). -/
def Helper.faultAux (h : Helper) (cause lane : Nat) : DWord :=
  BitVec.ofNat 64 (tgetD 0 h.iters lane * 2 ^ 32 + h.lender % 32 * 2 ^ 16 + lane * 256 + cause)

/-- A helper lane's uncommitted entries committed, and how many contributions were dropped; the lane holds no iteration any more
(R83, R84). -/
def State.commitLane (s : State) (pid lane : Nat) : State × Nat :=
  match s.helper pid with
  | none => (s, 0)
  | some h =>
    let r := s.commitHeld false h.lender h.recruiter (tgetD [] h.held lane)
    ((r.1.clearQueries (ownerOf pid) (laneBit lane)).onHelper pid fun h =>
      { h with iters := tdel h.iters lane, held := tdel h.held lane }, r.2)

/-- Lanes committed one after the other, with the lanes that had contributions dropped. -/
def State.commitEach (s : State) (pid : Nat) : List Nat → State × List (Nat × Nat)
  | [] => (s, [])
  | l :: ls =>
    let r := s.commitLane pid l
    let rest := r.1.commitEach pid ls
    (rest.1, if r.2 = 0 then rest.2 else (l, r.2) :: rest.2)

/-- Helper lanes committed. A crossing that the dropped contributions cause is charged to the recruiter as 0x09, naming the lowest
such lane and the iteration that it held (R60, R296). -/
def State.commitLanes (s : State) (pid : Nat) (lanes : List Nat) : State :=
  let r := s.commitEach pid lanes
  match r.2, s.helper pid with
  | (l, _) :: _, some h =>
    let e := r.1.countEvents (coreOf pid) (dropEvents (r.2.map (·.2)).sum)
    if e.2 = 0 then e.1 else e.1.addDue h.recruiter ⟨4, 0x09, h.faultAux 0x0C l, some l, s.clk⟩
  | _, _ => r.1

/-- An entry taken into a helper lane's escrow; a ninth entry abandons the iteration and releases the lane (R298). -/
def State.holdEntry (s : State) (pid lane : Nat) (e : Held) : State :=
  match s.helper pid with
  | none => s
  | some h =>
    let es := tgetD [] h.held lane
    if 8 ≤ es.length then (s.markLoan h.recruiter loanstOvf).releaseLane pid lane 0
    else s.setHelper pid { h with held := tset h.held lane (es ++ [e]) }

/-- The lanes that a helper path holds in its mask, its pending records or its tokens (R77). -/
def State.helperHolds (s : State) (pid : Nat) : Lanes :=
  (s.tokensOf (ownerOf pid)).foldl (fun m t => m ||| t.mask ||| t.arrived ||| t.pmask)
    (match s.path pid with | some p => p.mask | none => 0)

/-- A helper path that holds no lane any more ends; lanes that it had dropped from its mask go back to their lender (R77). -/
def State.reapHelper (s : State) (pid : Nat) : State :=
  match s.helper pid with
  | some h =>
    if h.lanes &&& s.helperHolds pid = 0 then (s.releaseLanes pid 0 (lanesOf h.lanes)).dropHelper pid else s
  | none => s

/-- A helper path recalled: every iteration abandoned, every lane returned (R297). -/
def State.recallHelper (s : State) (pid : Nat) : State :=
  match s.helper pid with
  | some h => (s.releaseLanes pid loanstRcl (lanesOf h.lanes)).dropHelper pid
  | none => s

def State.recallAll (s : State) : List Nat → State
  | [] => s
  | pid :: ps => (s.recallHelper pid).recallAll ps

/-- Helper paths that satisfy a test. -/
def State.helpersWhere (s : State) (f : Helper → Bool) : List Nat :=
  (s.run.helpers.filter fun h => f h.2).map (·.1)

/-- A pending loan ended without results (R299). -/
def State.dropLoan (s : State) (pid : Nat) : State :=
  (s.recallAll (s.helpersWhere fun h => h.recruiter == pid)).onPath pid fun p =>
    match p.loan with
    | some _ => { p with loan := none, loanst := p.loanst &&& ~~~loanstAct }
    | none => p

/-! Barriers (R86). -/

def Block.barrier (b : Block) (n : Nat) : Barrier := tgetD Barrier.reset b.barriers n

/-- A phase completed: ph rises by one, arrivals and pending bits clear, lanes lent by the waiting waves are recalled
(R86, R87, R297). -/
def State.completePhase (s : State) (bid n : Nat) : State :=
  match s.block bid with
  | none => s
  | some b =>
    let s1 := s.setBlock bid { b with
      barriers := tset b.barriers n { phase := (b.barrier n).phase + 1, count := 0 } }
    let s2 : State := { s1 with run := { s1.run with
      waves := s1.run.waves.map fun w =>
        if w.2.block == bid then (w.1, { w.2 with arrivals := w.2.arrivals &&& ~~~(1#16 <<< n) }) else w } }
    s2.recallAll (s2.helpersWhere fun h =>
      (match s2.wave h.lender with
       | some w => w.block == bid && (s2.pathsOf h.lender).any fun p => p.2.st == .waiting && p.2.wait == .barrier n
       | none => false))

/-- The number of waves of a block that have not ended (R86). -/
def State.expected (s : State) (bid : Nat) : Nat := (s.run.waves.filter fun w => w.2.block == bid).length

/-- Phases whose arrivals have reached the expected count complete. -/
def State.checkPhases (s : State) (bid : Nat) : State :=
  (List.range 16).foldl (fun t n =>
    match t.block bid with
    | some b => if 1 ≤ t.expected bid ∧ t.expected bid ≤ (b.barrier n).count then t.completePhase bid n else t
    | none => t) s

/-! Ending waves (R95). -/

/-- Where a pin's count lies (R145). -/
def Pin.countAt (p : Pin) : Nat := p.record + 16 + 4 * (p.version.toNat % 2)

/-- Where a pin's count is reached by a core. -/
def State.reachPin (s : State) (core : Nat) (p : Pin) : Reach := s.reach core ⟨true, true, false⟩ p.countAt

/-- A pin's count lowered by one, in global memory (R145, R147); where an engine owns its line, once the line is released (R330). A
count whose page does not translate any more is left as it is (log entry 103). -/
def State.unpin (s : State) (wid : Nat) (p : Pin) : State :=
  match s.reachPin (wid / 32) p with
  | .at_ l =>
    if s.mustWait l then
      s.addOpAfter [] { heldOp 0 wid (4 * wid) 0 [] none with
        kind := .atomic .add32 [(0, l, 0xFFFFFFFF#64)], dropped := true, sys := true }
    else s.writeNum l 4 (wrapInt 32 ((s.readNum l 4 : Int) - 1))
  | _ => s

/-- Whether a wave's pinned record waits for a move of its page (R147, R340). -/
def State.pinWaits (s : State) (wid : Nat) : Bool :=
  match (s.wave wid).bind (·.pin) with
  | some p => s.reachPin (wid / 32) p == .wait
  | none => false

/-- A wave's operations after it ends: loads, queries and values on their way back are discarded, an atomic not yet performed is
still performed without a destination, stores and engine commands complete for the block (R95). -/
def orphan (wid bid : Nat) (o : Op) : Option Op :=
  if o.owner != wid then some o
  else
    match o.kind with
    | .load _ _ _ | .texel _ _ | .gather _ _ | .query _ _ | .vaultRead _ | .values _ _ => none
    | _ => if o.done then none else some { o with owner := orphanOwner bid, dest := .none, dropped := true }

/-- The end of a wave, by halt or by a stop (R95, R302): regions committed, arrivals withdrawn, helpers recalled, registers
returned, the pin released. -/
def State.endWave (s : State) (wid : Nat) : State :=
  match s.wave wid with
  | none => s
  | some w =>
    let pids := (s.pathsOf wid).map (·.1)
    let s1 := pids.foldl (fun t p => (t.commitRegion p).dropLoan p) s
    let s2 := s1.recallAll (s1.helpersWhere fun h => h.lender == wid)
    let s3 := match w.pin with | some p => s2.unpin wid p | none => s2
    let s4 := s3.onBlock w.block fun b => { b with
      waves := b.waves.filter (· != wid),
      barriers := (List.range 16).foldl (fun m n =>
        if w.arrivals.getLsbD n then tset m n { b.barrier n with count := (b.barrier n).count - 1 } else m) b.barriers }
    let s5 : State := { s4 with
      ops := s4.ops.filterMap (orphan wid w.block),
      run := { s4.run with
        waves := tdel s4.run.waves wid, paths := tdrop s4.run.paths (4 * wid) (4 * wid + 4),
        sregs := tdrop s4.run.sregs (wid * 128) (wid * 128 + 128),
        vregs := tdrop s4.run.vregs (vkey wid 0 0) (vkey (wid + 1) 0 0),
        kregs := tdrop s4.run.kregs (wid * 8) (wid * 8 + 8),
        items := tdrop s4.run.items (lkey wid 0) (lkey (wid + 1) 0),
        nbrs := tdrop s4.run.nbrs (lkey wid 0) (lkey (wid + 1) 0),
        queries := tdrop s4.run.queries (lkey wid 0) (lkey (wid + 1) 0),
        queryFrom := tdrop s4.run.queryFrom (lkey wid 0) (lkey (wid + 1) 0),
        tokens := tdel s4.run.tokens wid } }
    let s6 := s5.setCore (wid / 32) { s5.core (wid / 32) with
      claims := (s5.core (wid / 32)).claims.filter fun c => c.2.pid / 4 != wid }
    s6.checkPhases w.block

/-- A wave stopped by the trap mechanism (R302). -/
def State.stopWave (s : State) (pid cause : Nat) : State :=
  match s.path pid with
  | some p => (s.interrupt (.waveStopped (pid / 4) (pid % 4) p.pc cause)).endWave (pid / 4)
  | none => s

/-! Kill and replay (R254, R255, R300). -/

/-- The path and the region of a killable wave: its only path, in an open region, at the token of the region's start. -/
def State.killable (s : State) (wid : Nat) : Option (Nat × Region) :=
  match s.pathsOf wid with
  | [(pid, p)] =>
    match p.region with
    | some r => if p.token = r.token then some (pid, r) else none
    | none => none
  | _ => none

/-- Whether a wave is killable back to its entry (R254). -/
def State.killableAtEntry (s : State) (wid : Nat) : Bool :=
  match s.wave wid, s.killable wid with
  | some w, some (_, r) => w.start.isSome && r.entry
  | _, _ => false

/-- A wave killed back to its entry: escrow, registers, tokens and pending operations dropped, but for stores that helpers on its lanes
have committed (R299, R329); it waits to be issued again. -/
def State.killToEntry (s : State) (wid : Nat) : State :=
  let s1 := ((s.pathsOf wid).map (·.1)).foldl (fun t p => t.dropLoan p) s
  let s2 := s1.recallAll (s1.helpersWhere fun h => h.lender == wid)
  let s3 := s2.onWave wid fun w => { w with killed := true, seen := [] }
  { s3 with
    ops := s3.ops.filter fun o => o.owner != wid || o.cls == .held,
    run := { s3.run with
      paths := tdrop s3.run.paths (4 * wid) (4 * wid + 4),
      sregs := tdrop s3.run.sregs (wid * 128) (wid * 128 + 128),
      vregs := tdrop s3.run.vregs (vkey wid 0 0) (vkey (wid + 1) 0 0),
      kregs := tdrop s3.run.kregs (wid * 8) (wid * 8 + 8),
      items := tdrop s3.run.items (lkey wid 0) (lkey (wid + 1) 0),
      nbrs := tdrop s3.run.nbrs (lkey wid 0) (lkey (wid + 1) 0),
      queries := tdrop s3.run.queries (lkey wid 0) (lkey (wid + 1) 0),
      queryFrom := tdrop s3.run.queryFrom (lkey wid 0) (lkey (wid + 1) 0),
      tokens := tdel s3.run.tokens wid } }

/-- Whether a translation fault at an address kills a wave instead of trapping: at most eight re-issues in a row fault at
one address (R255). -/
def State.faultKills (s : State) (wid addr : Nat) : Bool :=
  s.killableAtEntry wid && (match s.wave wid with
    | some w => !(w.reissues.2 == addr && decide (8 ≤ w.reissues.1))
    | none => false)

/-- The kill of a graphics wave that faulted, with its page request (R255). -/
def State.faultKill (s : State) (wid addr : Nat) : State :=
  ((s.killToEntry wid).onWave wid fun w =>
    { w with reissues := (if w.reissues.2 = addr then w.reissues.1 + 1 else 1, addr) }).interrupt (.pageRequest addr)

/-! Traps (R296, R302 to R307). -/

/-- The lane that a helper fault names when no lane raised it alone: the lowest of the mask, else of those in pending records and tokens
(R77, R296). -/
def State.faultLane (s : State) (pid : Nat) (p : Path) : Nat :=
  match lowestLane p.mask with
  | some l => l
  | none => (lowestLane (s.helperHolds pid)).getD 0

/-- A helper fault (R296): the helper path ends, except for 0x0C, and its recruiter is due trap 0x09. -/
def State.helperFault (s : State) (pid cause lane : Nat) : State :=
  match s.helper pid with
  | none => s
  | some h =>
    let s1 := s.addDue h.recruiter ⟨4, 0x09, h.faultAux cause lane, some lane, s.clk⟩
    if cause = 0x0C then s1
    else (s1.releaseLanes pid 0 (lanesOf h.lanes)).dropHelper pid

/-- A waiting claim withdrawn. -/
def State.dropClaim (s : State) (pid : Nat) : State :=
  let k := s.core (coreOf pid)
  if k.claims.any fun c => c.2.pid == pid then
    s.setCore (coreOf pid) { k with claims := k.claims.filter fun c => c.2.pid != pid }
  else s

/-- The instruction address in a 64-bit register: bits [48:2], as TVEC lays them out (R10, R303; log entry 23). -/
def codeAddr (v : DWord) : Nat := v.toNat % 2 ^ 49 / 4 * 4

/-- Taking a trap (R302): sr.epc, sr.ecause, sr.eaux and sr.emask written, system mode entered, PC at sr.tvec; a third
level, or sr.tvec = 0, stops the wave; a helper path's trap is a helper fault (R296). -/
def State.takeTrap (s : State) (pid cause epc : Nat) (eaux : DWord) (lane : Option Nat) : State :=
  match s.path pid with
  | none => s
  | some p =>
    if isHelper pid then s.helperFault pid cause (lane.getD (s.faultLane pid p))
    else
      match s.wave (pid / 4) with
      | none => s
      | some w =>
        if w.tvec = 0 ∨ (p.sys ∧ p.ecause.getLsbD 8) then s.stopWave pid cause
        else
          (((s.traceSync pid).dropClaim pid).onPath pid fun p => { p with
            epc := BitVec.ofNat 64 epc, eaux := eaux, emask := p.mask,
            ecause := BitVec.ofNat 32 (cause + if p.sys then 256 else 0),
            sys := true, pc := codeAddr w.tvec, hints := [], st := .ready, wait := .none, waitFrom := none,
            sleep := 0, readyAt := s.icc (coreOf pid) + 1, exempt := false,
            helperTrap := if cause = 0x09 then (if p.sys then 2 else 1) else p.helperTrap }).traceFlow pid 4 (codeAddr w.tvec) (pid % 4)

/-- The address of the bundle's first word. -/
def Path.bundleStart (p : Path) : Nat :=
  match p.hints with
  | h :: _ => h.addr
  | [] => p.pc

/-- The first of a path's due traps that its next boundary takes (R307). A helper fault waits for the eret of the one before it
(R296). -/
def Path.nextDue (p : Path) : Option DueTrap := p.due.find? fun d => d.cause != 0x09 || p.helperTrap == 0

/-- The first due trap of a path taken at its boundary, with sr.epc at its next instruction (R307), which is
its bundle's first word (R24). -/
def State.takeDue (s : State) (pid : Nat) : State :=
  match s.path pid with
  | none => s
  | some p =>
    match p.nextDue with
    | none => s
    | some d => (s.setPath pid { p with due := p.due.erase d }).takeTrap pid d.cause p.bundleStart d.eaux d.lane

/-- Returning from a trap (R93): PC, mask, mode and pm restored. The return's own retirement sets the PC. -/
def Path.returned (p : Path) (may : Lanes) : Path :=
  { p with
    mask := p.emask &&& may, sys := p.ecause.getLsbD 8, ecause := p.ecause &&& ~~~(0x100#32),
    parkedTrap := if p.ecause.getLsbD 8 then p.parkedTrap.filter fun t => t.2 == 1 else none,
    helperTrap := if p.ecause.getLsbD 8 && p.helperTrap == 1 then 1 else 0 }

/-! Arriving and merging (R199, R206 to R208, R212). -/

/-- A path arrives at its innermost token: it takes the pending record, or parks. A forced merge that waited for an arrival is tested
from now on (R212). -/
def State.arrive (s : State) (pid : Nat) : State :=
  match s.path pid with
  | none => s
  | some p =>
    match s.innermost pid p with
    | none => s
    | some x =>
      if x.pmask ≠ 0 then
        let s1 := s.setTokens (ownerOf pid) (replaceToken (s.tokensOf (ownerOf pid))
          { x with arrived := x.arrived ||| p.mask, pmask := 0, awaits := false })
        let s2 := s1.setPath pid { p with
          pc := x.ppc, mask := x.pmask, st := .ready, sleep := 0, readyAt := s.icc (coreOf pid) + 1 }
        (s2.traceFlow pid 7 x.ppc (pid % 4)).traceMask pid p.mask
      else
        (s.setTokens (ownerOf pid) (replaceToken (s.tokensOf (ownerOf pid)) { x with awaits := false })).setPath pid
          { p with st := .parkedRejoin, pc := x.rejoin, sleep := 0, readyAt := s.icc (coreOf pid) }

/-- The paths of an owner, helper or wave. -/
def State.ownerPaths (s : State) (owner : Nat) : List (Nat × Path) :=
  if owner < 4096 then s.pathsOf owner
  else trange s.run.paths (helperBase + (owner - 4096)) (helperBase + (owner - 4096) + 1)

/-- Lanes of an owner that have not exited. -/
def State.liveOf (s : State) (owner : Nat) : Lanes :=
  if owner < 4096 then (match s.wave owner with | some w => w.live | none => 0)
  else (match s.helper (helperBase + (owner - 4096)) with | some h => h.lanes | none => 0)

/-- Whether a token's chain membership holds: the token is in the path's chain. -/
def inChain (ts : List Token) (p : Path) (id : Nat) : Bool := (chainFrom ts ts.length p.token).any fun t => t.id == id

/-- Whether a token completes now (R207, R212). R212 lifts only R207's third condition; that a forced completion does not ask the second
either (a path still running under the token would hold it open for ever) is the model's choice (log entry 133). -/
def State.completes (s : State) (owner : Nat) (x : Token) : Bool :=
  let ts := s.tokensOf owner
  let ps := s.ownerPaths owner
  let here := ps.filter fun q => q.2.token == some x.id && q.2.st == .parkedRejoin
  let under := ps.filter fun q => inChain ts q.2 x.id
  let lanes := here.foldl (fun m q => m ||| q.2.mask) x.arrived
  !here.isEmpty && !(here.any fun q => q.2.hold) &&
    (if x.forced && !x.awaits then x.pmask == 0 || !(s.freeSlots owner).isEmpty
     else x.pmask == 0 && under.length == here.length && x.mask &&& s.liveOf owner &&& ~~~lanes == 0)

/-- The later issued of two records of a path's last bundle. -/
def laterBundle (a b : Path) : Nat × Nat :=
  if a.issuedAt < b.issuedAt then (b.issuedAt, b.lastFirst) else (a.issuedAt, a.lastFirst)

/-- What a merged path takes from another of the merging paths: every access of each precedes those of the merged path (R327). A
pending loan goes with the merged path together with its sr.loanst; else sr.loanst is that of the lowest slot (log entry 102). -/
def Path.absorb (p q : Path) : Path :=
  let lb := laterBundle p q
  { p with
    mask := p.mask ||| q.mask, hold := p.hold || q.hold, ss := p.ss || q.ss, loan := p.loan <|> q.loan,
    loanst := if p.loan.isNone && q.loan.isSome then q.loanst else p.loanst,
    prior := p.prior ++ q.prior, due := q.due.foldl dueInsert p.due, helperTrap := max p.helperTrap q.helperTrap, issuedAt := lb.1, lastFirst := lb.2 }

/-- What named a path that ends by merging names the merged path: its helpers and its operations in flight (R64, R294). Its slot is free
from the next cycle (R199). -/
def State.mergeInto (s : State) (into old : Nat) : State :=
  let t := (s.delPath old).onWave (old / 4) fun w => { w with freed := tset w.freed (old % 4) (s.icc (coreOf old)) }
  { t with
    ops := t.ops.map fun (o : Op) => if o.pid = old then { o with pid := into } else o,
    run := { t.run with helpers := t.run.helpers.map fun (h : Nat × Helper) =>
      if h.2.recruiter = old then (h.1, { h.2 with recruiter := into }) else h } }

/-- Stores of one region in the order in which they issued. -/
def mergeStores (a b : List HeldStore) : List HeldStore := sortBy (fun x y => decide (x.id ≤ y.id)) (a ++ b)

/-- A path before it ends by merging into another: of two pending loans its own ends without results, and its region is committed unless
the other path is in the same region, which then takes its stores (R80, R254, R299; log entries 102, 125). -/
def State.endPath (s : State) (p : Path) (old : Nat) : State × List HeldStore :=
  let s1 := if p.loan.isSome then s.dropLoan old else s
  match p.region, (s1.path old).bind (·.region) with
  | some a, some b => if a.same b then (s1, b.stores) else (s1.commitRegion old, [])
  | none, some _ => (s1.commitRegion old, [])
  | _, none => (s1, [])

/-- Paths made one: the first takes what the others have. -/
def State.mergePaths (s : State) (pid : Nat) (p : Path) : List (Nat × Path) → State × Path
  | [] => (s, p)
  | (old, q) :: rest =>
    let t := s.endPath p old
    let m := p.absorb ((t.1.path old).getD q)
    (t.1.mergeInto pid old).mergePaths pid { m with region := m.region.map fun r => { r with stores := mergeStores r.stores t.2 } } rest

/-- The marker of a region whose start's innermost token has been popped: no token has it (R300). -/
def poppedToken : Nat := 64

/-- A path after a token is popped: its chain runs through the parent, and a region that began under the token is not killable
any more (R300). -/
def Path.popped (p : Path) (x : Token) : Path :=
  { p with
    token := if p.token = some x.id then x.parent else p.token,
    region := p.region.map fun r => if r.token = some x.id then { r with token := some poppedToken } else r }

/-- A token completed: the parked paths become one, in the lowest slot, and the token is popped (R199, R207, R212). -/
def State.completeToken (s : State) (owner : Nat) (x : Token) : State :=
  let here := (s.ownerPaths owner).filter fun q => q.2.token == some x.id && q.2.st == .parkedRejoin
  match here with
  | [] => s
  | (pid, p) :: rest =>
    let (s0, merged) := s.mergePaths pid p rest
    let now := s.icc (coreOf pid)
    -- a forced completion with a pending record starts it as a path, in a slot that was free before (R199, R212)
    let slot := if x.pmask = 0 then none else (s.freeSlots owner).head?
    let s1 := match slot with
      | some f => s0.setPath f { merged.child x.ppc x.pmask (now + 1) with token := x.parent }
      | none => s0
    -- chains that ran through the token run through its parent
    let s2 : State := { s1 with run := { s1.run with
      paths := s1.run.paths.map fun e => if ownerOf e.1 == owner then (e.1, e.2.popped x) else e } }
    let ts := ((s2.tokensOf owner).filter fun t => t.id != x.id).map fun t =>
      if t.parent == some x.id then { t with parent := x.parent } else t
    let ts := ts.map fun t => if some t.id == x.parent then { t with spilled := false } else t
    let pc := if x.split then (x.rejoin + 4) % 2 ^ 49 else x.rejoin
    let m := { merged.popped x with
      mask := (merged.mask ||| x.arrived) &&& s.liveOf owner, token := x.parent, st := .ready, wait := .none, pc := pc,
      sleep := 0, readyAt := now + 1, hints := [] }
    let s3 := (s2.setTokens owner ts).setPath pid m
    let s4 := s3.traceTurn pid (some (5, pc)) p.mask
    match x.parent.bind (findToken ts) with
    | some y =>
      let s5 := if (x.rejoin = y.rejoin ∧ (!y.split ∨ x.split)) ∨ (!y.split ∧ pc = y.rejoin) then s4.arrive pid else s4
      match slot with
      | some f => if !y.split ∧ x.ppc = y.rejoin then s5.arrive f else s5
      | none => s5
    | none => s4

/-- Tokens of an owner completed until none can; `fuel` bounds the chain of completions. -/
def State.completeTokens (s : State) (owner : Nat) : Nat → State
  | 0 => s
  | fuel + 1 =>
    match (s.tokensOf owner).find? (s.completes owner) with
    | some x => (s.completeToken owner x).completeTokens owner fuel
    | none => s

/-- A path that stands at its innermost token's rejoin arrives; a path that takes a pending record there arrives again. -/
def State.arriveIfThere (s : State) (pid : Nat) : Nat → State
  | 0 => s
  | fuel + 1 =>
    match s.path pid with
    | none => s
    | some p =>
      match s.innermost pid p with
      | none => s
      | some x => if (p.st == .ready || p.sleep != 0) && !x.split && p.pc == x.rejoin && p.hints.isEmpty && !p.hold then (s.arrive pid).arriveIfThere pid fuel else s

/-- Arrivals and completions after a path's PC or an owner's lanes have changed. -/
def State.settle (s : State) (pid : Nat) : State :=
  if (s.tokensOf (ownerOf pid)).isEmpty then s
  else (s.arriveIfThere pid 2).completeTokens (ownerOf pid) 65

/-! Top-level meeting points (R208). -/

/-- Other top-level paths of a path's wave. -/
def State.topPeers (s : State) (pid : Nat) : List (Nat × Path) :=
  if isHelper pid then []
  else (s.pathsOf (pid / 4)).filter fun q => q.1 != pid && q.2.token.isNone && !q.2.ended

/-- The order in which parked groups are released: barriers and refill before halt, then by address. -/
def meetKey (p : Path) : Nat × Nat := (if p.wait == .hold then 1 else 0, p.pc)

def keyLess (a b : Nat × Nat) : Bool := decide (a.1 < b.1) || (a.1 == b.1 && decide (a.2 < b.2))

/-- The top-level paths of a wave once each is parked at a meeting point; else none (R208). -/
def State.allMet (s : State) (wid : Nat) : List (Nat × Path) :=
  let tops := (s.pathsOf wid).filter fun q => q.2.token.isNone && !q.2.ended
  if tops.all fun q => q.2.st == .parkedMeeting then tops else []

/-- The group that is released first of the paths parked at meeting points. -/
def meetGroup (tops : List (Nat × Path)) : List (Nat × Path) :=
  tops.filter fun q => !tops.any fun r => keyLess (meetKey r.2) (meetKey q.2)

/-- Once every top-level path of a wave is parked at a meeting point, the first group merges into one path, which issues there (R208). -/
def State.releaseMeeting (s : State) (wid : Nat) : State :=
  match meetGroup (s.allMet wid) with
  | [] => s
  | (first, q) :: rest =>
    let (t, merged) := s.mergePaths first q rest
    let t := t.setPath first { merged with st := .ready, wait := .none, readyAt := s.icc (wid / 32) + 1 }
    if rest.isEmpty then t else t.traceTurn first (some (5, merged.pc)) q.mask

/-- A top-level path at a meeting point: none if it may issue there, else the state after it parks and the next group is
released (R208). -/
def State.meet (s : State) (pid : Nat) (p : Path) (isHalt : Bool) : Option State :=
  if p.token.isSome || (s.topPeers pid).isEmpty then none
  else
    let t := s.setPath pid { p with st := .parkedMeeting, wait := if isHalt then .hold else .arrival }
    if (meetGroup (t.allMet (pid / 4))).map (·.1) = [pid] then none else some (t.releaseMeeting (pid / 4))

end Sys2Proof.Machine
end

