-- ==== Sys2Proof/Machine/Issue.lean ====
section
/-! DEFINITION. Issuing one instruction of a path: the bundle's hints, the checks that every instruction shares, and how it
ends (R15, R18 to R24, R62 to R64, R88, R130, R135, R206, R208, R221, R292, R296, R307, R368 to R370). -/

namespace Sys2Proof.Machine

/-- The outcome of a step. -/
abbrev Result := Host.Outcome State Fault Refusal

/-- What an issuing instruction knows: its path as it stands, the fields of its bundle's hint words (R19 to R23), the
address of the bundle's first word, and its own word. -/
structure Ctx where
  pid : Nat
  p : Path
  wid : Nat
  mods : ModFields
  pfx : List Nat
  yields : Bool
  first : Nat
  word : Nat
deriving DecidableEq, Repr

def Ctx.owner (c : Ctx) : Nat := ownerOf c.pid
def Ctx.core (c : Ctx) : Nat := coreOf c.pid
def Ctx.helper (c : Ctx) : Bool := isHelper c.pid
/-- The cycle of the path's island (R7). -/
def Ctx.now (c : Ctx) (s : State) : Nat := s.icc c.core
def Ctx.lanes (c : Ctx) : List Nat := lanesOf c.p.mask
/-- A target `n` words from the instruction (R20, R72). -/
def Ctx.target (c : Ctx) (n : Int) : Nat := wrapInt 49 ((c.p.pc : Int) + 4 * n)
def Ctx.nextPc (c : Ctx) : Nat := (c.p.pc + 4) % 2 ^ 49

/-- How an instruction ends once it has issued. -/
inductive Fate
  /-- Complete; the path goes on in sequence. -/
  | done (s : State)
  /-- Complete; the path goes to an address, with the kind of its FLOW record (R380). -/
  | jump (s : State) (pc kind : Nat)
  /-- A precise trap with sr.epc at the bundle, naming a helper lane where one lane raised it (R130, R296). -/
  | trap (cause : Nat) (eaux : DWord) (lane : Option Nat)
  /-- A trap with sr.epc at the next instruction (R92). -/
  | trapNext (cause : Nat) (eaux : DWord)
  /-- A precise trap that leaves counts behind (R374, R375). -/
  | trapIn (s : State) (cause : Nat) (eaux : DWord) (lane : Option Nat)
  /-- A translation fault of a load: a killable graphics wave is killed, else the trap is taken (R255). -/
  | pageFault (addr : Nat) (lane : Option Nat)
  /-- A precise trap whose sr.eaux the spec does not state (log entry 21). -/
  | trapOpen (cause : Nat)
  /-- Not yet: the path keeps its PC. -/
  | wait (s : State) (w : WaitFor)
  /-- Out of context (R63). -/
  | outOfContext
  /-- Nothing more to do: the path has ended, parked or been moved. -/
  | gone (s : State)

/-! The bundle (R18 to R24). -/

/-- The first defective hint word of a bundle, for a target of this pfx limit and these mod fields (R19). -/
def bundleDefect (limit : Nat) (admits : ModFields → Bool) : List HintWord → Nat → Bool → Bool → Option HintWord
  | [], _, _, _ => none
  | h :: hs, n, haveMod, haveSch =>
    match parseHintWord h.word.toNat with
    | some (.pfx _) => if limit ≤ n then some h else bundleDefect limit admits hs (n + 1) haveMod haveSch
    | some (.mod m) => if haveMod || !admits m then some h else bundleDefect limit admits hs n true haveSch
    | some (.sch _ _ _) => if haveSch then some h else bundleDefect limit admits hs n haveMod true
    | _ => some h

def bundlePfx (hs : List HintWord) : List Nat :=
  hs.filterMap fun h => match parseHintWord h.word.toNat with | some (.pfx i) => some i.toNat | _ => none

def bundleMod (hs : List HintWord) : ModFields :=
  (hs.findSome? fun h => match parseHintWord h.word.toNat with | some (.mod m) => some m | _ => none).getD ModFields.zero

def bundleSch (hs : List HintWord) : Bool × Nat :=
  (hs.findSome? fun h => match parseHintWord h.word.toNat with
    | some (.sch y _ n) => some (y, n.toNat)
    | _ => none).getD (false, 0)

/-! The checks that every instruction shares. -/

/-- A 64-bit scalar operand at an odd register, or a group past s95 (R14). -/
def scalarBad (rs : List (Nat × Nat)) : Bool := rs.any fun r => (r.2 == 2 && r.1 % 2 == 1) || decide (96 < r.1 + r.2)

/-- A vector register that the path's wave does not hold (R15). -/
def vectorBad (rs : List (Nat × Nat)) (count : Nat) : Bool := rs.any fun r => decide (count < r.1 + r.2)

/-- A vector register that a helper cannot reach (R292). -/
def helperBad (rs : List (Nat × Nat)) (count demand : Nat) : Bool :=
  rs.any fun r => (List.range r.2).any fun i =>
    if r.1 + i < 112 then decide (count ≤ r.1 + i) else decide (demand ≤ r.1 + i - 112)

/-- The wait of a bar.sync counts its bundle as it begins, in the cc in which the barrier counts the path (R87, R363; log entry 90). -/
def Ctx.counted (c : Ctx) : Bool := c.p.arrivedAt == some c.p.pc && c.p.begun

/-- A register that a helper may not write (R64, R100). -/
def helperWriteBad (r : Regs) : Bool :=
  (r.vw.any fun v => decide (v.1 < 112)) || (r.sw.any fun w => (List.range w.2).any fun i => snapshotReg (w.1 + i))

/-- Whether a path is the one that its cluster steps, within the 4,096 cycles of the step (R360). -/
def State.stepped (s : State) (pid : Nat) : Bool :=
  let k := s.cluster (clusterOf (coreOf pid))
  k.stepping == some pid && decide (s.icc (coreOf pid) < k.stepFrom + 4096)

/-- Whether a path's wave has issued in this cycle; a wave issues in at most one slot (R219). -/
def State.waveIssued (s : State) (pid : Nat) : Bool :=
  !isHelper pid && (match s.wave (pid / 4) with | some w => w.issuedIn == some (s.icc (coreOf pid)) | none => false)

/-- Whether a path may issue now: its context runs, its cluster is not stopped but for the stepped path and for the rest of a bundle
that has begun, it is ready by this cycle, its wave has not issued in it, and it is neither held, parked, asleep nor waiting for data
(R24, R219, R308, R357, R360, R369). -/
def State.mayIssue (s : State) (pid : Nat) (p : Path) : Bool :=
  let step := s.stepped pid
  let begun := !p.hints.isEmpty
  decide (p.readyAt ≤ s.icc (coreOf pid)) && !s.waveIssued pid &&
  s.run.running && !s.run.halted && !p.ended && (!s.clusterStopped (clusterOf (coreOf pid)) || step || begun) && (!p.hold || step || begun)
    && (p.st == .ready || p.st == .waiting) && p.sleep == 0
    && (match p.wait with | .data _ => false | .queue => p.st == .ready | _ => true)

/-- What the shared checks find. -/
inductive Gate
  | go (c : Ctx) (s : State)
  | stay (s : State)
  | trap (c : Ctx) (cause : Nat) (eaux : DWord) (s : State)

/-- The path waits at its instruction and is not ready in this cc (R221); what counts towards WLIM starts its wait (R306). In a
stopped cluster `waitFrom` holds the time waited. -/
def State.waitAt (s : State) (pid : Nat) (limited : Bool) (w : WaitFor) : State :=
  s.onPath pid fun p =>
    { p with st := .waiting, wait := w, readyAt := s.icc (coreOf pid) + 1, waitFrom :=
      if limited then some (p.waitFrom.getD (if (s.cluster (clusterOf (coreOf pid))).stopped then 0 else s.clk)) else p.waitFrom }

/-- A free value for an sr.eaux that the spec does not state (log entry 21). -/
def State.openAux (s : State) : DWord := Config.openAux s.free
def State.takeFree (s : State) : State := { s with free := s.free + 1 }

/-- The register bounds of a context (R15, R292): whether they are kept, and whether a helper's write is allowed. -/
def State.boundsBad (s : State) (pid wid : Nat) (r : Regs) : Bool :=
  let count := match s.wave wid with | some w => w.regCount | none => 0
  if isHelper pid then helperBad (r.vr ++ r.vw) count (match s.loanOf pid with | some l => l.demand | none => 0)
  else vectorBad (r.vr ++ r.vw) count

/-- The operations on which an instruction waits at the scoreboard (R135): those that will write its registers, and for a helper also
those that will write the recruiter's registers which it reads (R64, R100). -/
def State.operandsPending (s : State) (pid : Nat) (r : Regs) : Option Nat :=
  s.registersPending (ownerOf pid) r <|>
    (if isHelper pid then s.registersPending (s.waveOf pid) ⟨r.vr.filter fun v => decide (v.1 < 112), [], [], []⟩ else none)

/-- Memory requests that a core has outstanding, one a line (R1, R225; log entry 106). -/
def State.requestsOf (s : State) (core : Nat) : Nat :=
  ((s.ops.filter fun o => coreOf o.pid == core && !o.done).map (·.slots)).sum

/-- Whether one more operation of a class must wait: at its counter's limit, or where the requests that it may make do not fit beside the
core's outstanding ones; with none outstanding it goes on (R1, R88). -/
def State.classFull (s : State) (pid : Nat) (k : OpClass) (requests : Nat) : Bool :=
  decide (k.top ≤ s.counter (ownerOf pid) k)
    || (decide (0 < requests) && decide (0 < s.requestsOf (coreOf pid)) && decide (Config.memRequests < s.requestsOf (coreOf pid) + requests))

/-- A numerical descriptor of the path's block, if it is valid (R50, R51). -/
def State.descOf (s : State) (pid n : Nat) : Option Desc :=
  match s.blockOf pid with
  | some b =>
    let d := Desc.ofWord (tgetD 0 b.nf n)
    if d.valid then some d else none
  | none => none

/-- Whether a field names a special register that is not listed or of the other kind, so that the word is no instruction (R11, R17). -/
def misnames (i : Instr) : Bool :=
  match i with
  | .srd _ n | .swr _ n => (match srKind n.toNat with | some (.scalar _) => false | _ => true)
  | .vsr _ n => srKind n.toNat != some .perLane
  | _ => false

/-- Whether an instruction that issues selects an element beyond those of the descriptor as it stands (R113). -/
def State.selectsBeyond (s : State) (pid : Nat) (i : Instr) : Bool :=
  match i with
  | .vncvtF32 _ _ k n | .vncvtNf _ _ k n =>
    (match s.descOf pid n.toNat with | some q => decide (q.count ≤ k.toNat) | none => decide (7 < k.toNat))
  | _ => false

/-- The shared checks of an instruction that a path issues, in order: turn, due traps, bundle and fields, stall, helper mode, meeting
point, scoreboard, element, register bounds, helper writes, escrow, counter. `aux` gives sr.eaux for 0x02 where the instruction has one. A
helper's write to a register that it may not write is found before exec is looked at (R100, R296; log entry 107). -/
def gate (i : Instr) (aux : Ctx → State → Option DWord) (s : State) : Gate :=
  match s.cur with
  | .path pid =>
    match s.path pid with
    | none => .stay s
    | some p =>
      if !s.mayIssue pid p then .stay s
      else if p.nextDue.isSome && (p.hints.isEmpty || p.st == .waiting) then .stay (s.takeDue pid)
      else
        let m := bundleMod p.hints
        let sch := bundleSch p.hints
        let pf := bundlePfx p.hints
        let c : Ctx := ⟨pid, p, s.waveOf pid, m, pf, sch.1, p.bundleStart, encodeWord i⟩
        let r := i.regs m pf.length
        match bundleDefect i.pfxLimit i.admitsMod p.hints 0 false false with
        | some h => .trap c 0x01 (h.word.zeroExtend 64) s
        | none =>
          if scalarBad (r.sr ++ r.sw) || misnames i then .trap c 0x01 (BitVec.ofNat 64 c.word) s
          else if !c.counted && decide (s.icc (coreOf pid) < p.issuedAt + sch.2) then .stay (s.waitAt pid false .hold)
          else if isHelper pid && i.helperUse == .outOfContext then .trap c 0x01 (BitVec.ofNat 64 c.word) s
          else
            match (if i.meets then s.meet pid p (i == .halt) else none) with
            | some t => .stay t
            | none =>
              match s.operandsPending pid (i.waitsOn m pf.length) with
              | some pc => .stay (s.waitAt pid false (.register pc))
              | none =>
                if s.selectsBeyond pid i then .trap c 0x01 (BitVec.ofNat 64 c.word) s
                else if s.boundsBad pid c.wid r then .trap c 0x02 ((aux c s).getD s.openAux) s.takeFree
                else if isHelper pid && helperWriteBad r then .trap c 0x05 s.openAux s.takeFree
                else
                  match (if i.commits && p.region.isSome then s.pendingLoad pid else none) with
                  | some pc => .stay (s.waitAt pid false (.counter pc))
                  | none =>
                    match i.opClass with
                    | some k =>
                      if s.classFull pid k (i.requests c.lanes.length) then .stay (s.waitAt pid false (.counter (s.oldest c.owner k)))
                      else .go c (if i.commits then s.commitRegion pid else s)
                    | none => .go c (if i.commits then s.commitRegion pid else s)
  | .idle | .stream _ | .clearing _ => .stay s

/-! How an instruction ends. -/

/-- The step that a debugger asked of a path is over (R360). -/
def State.unstep (s : State) (pid : Nat) : State :=
  let k := s.cluster (clusterOf (coreOf pid))
  if k.stepping = some pid then s.setCluster (clusterOf (coreOf pid)) { k with stepping := none, stepNoIssue := false }
  else s

/-- The due traps of a path after it issues a bundle: a user-mode path that single-steps is due 0x0F (R370). -/
def Ctx.stepDue (c : Ctx) (p : Path) (clk : Nat) : List DueTrap :=
  if p.ss && !c.p.sys && !c.helper then dueInsert p.due ⟨6, 0x0F, BitVec.ofNat 64 c.first, none, clk⟩ else p.due

/-- The skid record that a stop has written for a wave, after one more bundle that had begun before the stop (R357, R358). -/
def State.lateSkid (s : State) (c : Ctx) : State :=
  let k := s.core c.core
  match tget k.skid (c.pid / 4 % 32) with
  | some r => s.setCore c.core { k with skid := tset k.skid (c.pid / 4 % 32) (min (r.1 + 1) 0xFFFF, c.first) }
  | none => s

/-- A bundle of a wave counted: its first word, and the skid of a stop that has begun (R357, R358). -/
def State.countBundle (s : State) (c : Ctx) : State :=
  let k := s.cluster (clusterOf c.core)
  if c.helper then s
  else if k.stopped then (if k.stepping = some c.pid then s else s.lateSkid c)
  else s.onWave (c.pid / 4) fun w =>
    { w with
      last := c.first, lastAt := some (c.now s),
      skid := if k.stopping.isSome then min (w.skid + 1) 0xFFFF else w.skid }

/-- A wave has issued in this cycle (R219). -/
def State.issued (s : State) (pid : Nat) : State :=
  if isHelper pid then s else s.onWave (pid / 4) fun w => { w with issuedIn := some (s.icc (coreOf pid)) }

/-- A bundle issued: the path's next PC, its hints consumed, single-stepping, the skid count, the trace, arrivals at a rejoin, paths
released at a meeting point, and the end of a helper path that holds no lane any more (R77, R206, R208, R357, R370, R381). -/
def State.retire (s : State) (c : Ctx) (pc : Nat) (flow : Option Nat) : State :=
  let s1 := s.traceSync c.pid
  let s2 := s1.onPath c.pid fun p =>
    { p with
      pc := pc, hints := [], st := if p.sleep = 0 then .ready else .waiting, wait := .none, waitFrom := none,
      exempt := flow == some 3, issuedAt := if c.counted then p.issuedAt else c.now s, lastFirst := c.first,
      readyAt := c.now s + 1, passOver := p.passOver || c.yields,
      arrivedAt := if p.arrivedAt = some c.p.pc then none else p.arrivedAt, begun := false,
      due := c.stepDue p s.clk }
  let s3 := if c.counted then s2 else (s2.countBundle c).issued c.pid
  let s4 := (s3.traceTurn c.pid (flow.map fun kd => (kd, pc)) c.p.mask).settle c.pid
  if c.helper then (s4.unstep c.pid).reapHelper c.pid else (s4.releaseMeeting (c.pid / 4)).unstep c.pid

/-- The state in which an instruction leaves the machine. -/
def conclude (i : Instr) (c : Ctx) : Fate → State → State
  | .done t, _ => t.retire c c.nextPc none
  | .jump t pc kind, _ => t.retire c pc (some kind)
  | .trap cause eaux lane, s => (s.takeTrap c.pid cause c.first eaux lane).unstep c.pid
  | .trapIn t cause eaux lane, _ => (t.takeTrap c.pid cause c.first eaux lane).unstep c.pid
  | .trapNext cause eaux, s =>
    let issued (p : Path) : Path := { p with due := c.stepDue p s.clk, issuedAt := c.now s, lastFirst := c.first }
    ((((s.onPath c.pid issued).countBundle c).issued c.pid).takeTrap c.pid cause c.nextPc eaux none).unstep c.pid
  | .pageFault addr lane, s =>
    if !c.helper && s.faultKills (c.pid / 4) addr then (s.faultKill (c.pid / 4) addr).unstep c.pid
    else (s.takeTrap c.pid 0x04 c.first (BitVec.ofNat 64 addr) lane).unstep c.pid
  | .trapOpen cause, s => (s.takeFree.takeTrap c.pid cause c.first s.openAux none).unstep c.pid
  | .wait t w, _ => t.waitAt c.pid i.limited w
  | .outOfContext, s => (s.takeTrap c.pid 0x01 c.first (BitVec.ofNat 64 c.word) none).unstep c.pid
  | .gone t, _ => t.unstep c.pid

/-- Issuing an instruction whose 0x02 has its own sr.eaux. -/
def issueWith (i : Instr) (aux : Ctx → State → Option DWord) (body : Ctx → State → Fate) (s : State) :
    Result :=
  match gate i aux s with
  | .stay t => .next t
  | .trap c cause eaux t => .next ((t.takeTrap c.pid cause c.first eaux none).unstep c.pid)
  | .go c t => .next (conclude i c (body c t) t)

/-- Issuing an instruction. -/
def issue (i : Instr) (body : Ctx → State → Fate) (s : State) : Result :=
  issueWith i (fun _ _ => none) body s

/-- Events of the active lanes, in their order, counted on the core of the path; a crossing that traps becomes due, and one of a
helper is charged to its recruiter, naming the lowest lane that raised a class which crossed (R57, R60, R296). -/
def State.countLanes (s : State) (c : Ctx) (evs : List Events) : State :=
  if c.helper then
    let r := s.countEvents c.core (laneCount evs)
    let lane := (c.lanes.zip evs).find? fun x => x.2 &&& r.2 != 0
    if r.2 = 0 then r.1
    else r.1.helperFault c.pid 0x0C (match lane with | some x => x.1 | none => (lowestLane c.p.mask).getD 0)
  else s.countFor c.pid (laneCount evs)

/-- The end of an instruction that may have taken a helper path's last lane (R77, R298). -/
def helperDone (c : Ctx) (s : State) : Fate :=
  let t := s.reapHelper c.pid
  if c.helper && (t.helper c.pid).isNone then .gone t else .done t

end Sys2Proof.Machine
end

