-- ==== Sys2Proof/Machine/Control.lean ====
section
/-! DEFINITION. Branches, calls and structured divergence (R72 to R76, R79, R80, R203, R204, R210). -/

namespace Sys2Proof.Machine

/-! Branches and calls (R72, R73). -/

/-- The offset of a branch or jump in words (R20). -/
def Ctx.offset (c : Ctx) (w imm : Nat) : Int := widened c.pfx w imm

/-- A jump through a register: a target that is not a multiple of 4 raises 0x03 at the jump (R10). A target's bits [63:49], of which the
spec says nothing here, are dropped, as R10 drops those of an offset's result (DESIGN CHOICE, log entry 104). -/
def jumpTo (s : State) (target : DWord) (kind : Nat) : Fate :=
  if target.toNat % 4 ≠ 0 then .trap 0x03 target none else .jump s (target.toNat % 2 ^ 49) kind

/-- The return address of a call. -/
def Ctx.link (c : Ctx) (s : State) : State := s.writeS64 c.pid 90 (BitVec.ofNat 64 c.nextPc)

/-- BR (R72). -/
def execBr (g : BitVec 3) (o : BitVec 22) (s : State) : Result :=
  issue (.br g o) (fun c s =>
    if flagAt c.p.flags g then .jump s (c.target (c.offset 22 o.toNat)) 0 else .done s) s

/-- BRN (R72). -/
def execBrn (g : BitVec 3) (o : BitVec 22) (s : State) : Result :=
  issue (.brn g o) (fun c s =>
    if flagAt c.p.flags g then .done s else .jump s (c.target (c.offset 22 o.toNat)) 0) s

/-- JMP (R73). -/
def execJmp (o : BitVec 23) (s : State) : Result :=
  issue (.jmp o) (fun c s => .jump s (c.target (c.offset 23 o.toNat)) 0) s

/-- CALL (R73). -/
def execCall (o : BitVec 23) (s : State) : Result :=
  issue (.call o) (fun c s => .jump (c.link s) (c.target (c.offset 23 o.toNat)) 1) s

/-- JMP_REG (R73). -/
def execJmpReg (a : BitVec 7) (s : State) : Result :=
  issue (.jmpReg a) (fun c s => jumpTo s (s.readS64 c.pid c.p a.toNat) 0) s

/-- CALL_REG (R73). The target is read before the link is written, so that call s90 goes to the old s90:s91 (DESIGN CHOICE, log entry
104). -/
def execCallReg (a : BitVec 7) (s : State) : Result :=
  issue (.callReg a) (fun c s => jumpTo (c.link s) (s.readS64 c.pid c.p a.toNat) 1) s

/-- RET (R73). -/
def execRet (s : State) : Result := issue .ret (fun c s => jumpTo s (s.readS64 c.pid c.p 90) 2) s

/-! Pushing a token (R203, R204). -/

/-- The lowest identifier that no live token has. -/
def freeTokenId (ts : List Token) : Nat := ((List.range 64).find? fun i => (findToken ts i).isNone).getD 0

/-- The tokens after one is moved to the spill area: the oldest in the pool that is no path's innermost. -/
def spillOne (innermost : List (Option Nat)) : List Token → List Token
  | [] => []
  | t :: ts =>
    if !t.spilled && !innermost.contains (some t.id) then { t with spilled := true } :: ts
    else t :: spillOne innermost ts

/-- A token pushed for a path, or none where its stack is full. -/
def State.pushToken (s : State) (c : Ctx) (rejoin : Nat) (loop split : Bool) : Option (State × Nat) :=
  let ts := s.tokensOf c.owner
  let limit := if c.helper then Config.helperTokens else Config.waveTokens
  if limit ≤ ts.length then none
  else
    let id := freeTokenId ts
    let full := !c.helper && decide (16 ≤ (ts.filter fun t => !t.spilled).length)
    let ts := if full then spillOne ((s.ownerPaths c.owner).map fun q => q.2.token) ts else ts
    let t : Token :=
      { id := id, parent := c.p.token, rejoin := rejoin, mask := c.p.mask, arrived := 0, loop := loop, split := split,
        ppc := 0, pmask := 0, forced := false, awaits := false, spilled := false }
    some ((s.setTokens c.owner (ts ++ [t])).onPath c.pid fun p => { p with token := some id }, id)

/-- One token of an owner changed. -/
def State.onToken (s : State) (owner id : Nat) (f : Token → Token) : State :=
  s.setTokens owner ((s.tokensOf owner).map fun t => if t.id == id then f t else t)

/-- The lanes of a path that a predicate selects (R74). -/
def Ctx.taken (c : Ctx) (s : State) (neg : Bool) (k : BitVec 3) : Lanes :=
  c.p.mask &&& (if neg then ~~~s.readK c.pid k.toNat else s.readK c.pid k.toNat)

/-- The taken lanes leave for an address: with the whole path, as a new path in the lowest free slot, or as the token's
pending side (R74, R198). -/
def branchOff (c : Ctx) (s : State) (id : Nat) (t n : Lanes) (tpc : Nat) : Fate :=
  if t = 0 then .done s
  else if n = 0 then .jump s tpc 0
  else
    let s1 := s.onPath c.pid fun p => { p with mask := n }
    match (if c.helper then none else (s.freeSlots (c.pid / 4)).head?), s.path c.pid with
    | some q, some p => .done (s1.setPath q (p.child tpc t (c.now s + 1)))
    | _, _ => .done (s1.onToken c.owner id fun x => { x with ppc := tpc, pmask := t })

/-- The taken offset and the rejoin offset of VBR, in words (R20). -/
def vbrOffsets (pfx : List Nat) (t j : BitVec 10) : Int × Nat :=
  match pfx with
  | p :: _ => (signedOf 22 (fld p 12 12 * 1024 + t.toNat), fld p 0 12 * 1024 + j.toNat)
  | [] => (signedOf 10 t.toNat, j.toNat)

/-- VBR (R74). -/
def execVbr (n : Bool) (k : BitVec 3) (t j : BitVec 10) (s : State) : Result :=
  issue (.vbr n k t j) (fun c s =>
    let (tgt, rj) := vbrOffsets c.pfx t j
    let tpc := c.target tgt
    let jpc := c.target rj
    let take := c.taken s n k
    let keep := c.p.mask &&& ~~~take
    if rj = 0 then .outOfContext
    else
      let s := s.traceSync c.pid
      let reused := (s.innermost c.pid c.p).filter fun x => x.rejoin == jpc && !x.split && x.pmask == 0
      match (match reused with | some x => some (s, x.id) | none => s.pushToken c jpc (tpc == jpc) false) with
      | none => .trap 0x0B 64 none
      | some (s, id) =>
        if tpc = jpc then
          let s := (s.onToken c.owner id fun x => { x with arrived := x.arrived ||| take }).onPath c.pid fun p =>
            { p with mask := keep }
          if keep = 0 ∧ take ≠ 0 then .jump s jpc 0 else .done s
        else branchOff c s id take keep tpc) s

/-- VBRK (R75). -/
def execVbrk (n : Bool) (k : BitVec 3) (s : State) : Result :=
  issue (.vbrk n k) (fun c s =>
    let out := c.taken s n k
    let chain := s.chain c.pid c.p
    match chain.find? (·.loop) with
    | none => .outOfContext
    | some lp =>
      let above := (chain.takeWhile fun t => !t.loop).map (·.id)
      let s := s.setTokens c.owner ((s.tokensOf c.owner).map fun t =>
        if t.id = lp.id then { t with arrived := t.arrived ||| out }
        else if above.contains t.id then { t with mask := t.mask &&& ~~~out } else t)
      let s := s.onPath c.pid fun p => { p with mask := p.mask &&& ~~~out }
      match s.innermost c.pid c.p with
      | some x => if out ≠ 0 ∧ c.p.mask &&& ~~~out = 0 then .jump s x.rejoin 0 else .done s
      | none => .done s) s

/-- SPLIT (R76). -/
def execSplit (n : Bool) (k : BitVec 3) (t j : BitVec 10) (s : State) : Result :=
  issue (.split n k t j) (fun c s =>
    let (tgt, rj) := vbrOffsets c.pfx t j
    let take := c.taken s n k
    if rj = 0 then .outOfContext
    else
      match (s.traceSync c.pid).pushToken c (c.target rj) false true with
      | none => .trap 0x0B 64 none
      | some (s, id) => branchOff c s id take (c.p.mask &&& ~~~take) (c.target tgt)) s

/-- JOIN (R76): an arrival at the path's innermost token where that is a split token with this rejoin, else a nop. -/
def execJoin (s : State) : Result :=
  issue .join (fun c s =>
    match s.innermost c.pid c.p with
    | some x =>
      if x.split ∧ x.rejoin = c.p.pc then .gone (((s.retire c c.p.pc none).arrive c.pid).settle c.pid) else .done s
    | none => .done s) s

/-! Refill and replay regions (R79, R80, R210). -/

/-- Lanes of an owner's vector registers emptied. -/
def State.zeroLanes (s : State) (owner : Nat) (m : Lanes) : State :=
  { s with run := { s.run with
      vregs := s.run.vregs.filter fun e => !(e.1 / (128 * 96) == owner && m.getLsbD (e.1 % 96)) } }

/-- One lane refilled with an item. -/
def State.refillLane (s : State) (pid lane : Nat) (item : Word × List Word) : State :=
  let wid := pid / 4
  let s1 := s.zeroLanes wid (laneBit lane)
  let s2 : State := { s1 with run := { s1.run with
    vregs := tsets s1.run.vregs ((item.2.zipIdx).map fun e => (vkey wid e.2 lane, e.1)),
    kregs := (List.range 8).foldl (fun m k => tset m (kkey wid k) (tgetD 0 m (kkey wid k) &&& ~~~laneBit lane)) s1.run.kregs,
    items := tset s1.run.items (lkey wid lane) item.1,
    nbrs := tdel s1.run.nbrs (lkey wid lane),
    queries := tdel s1.run.queries (lkey wid lane), queryFrom := tdel s1.run.queryFrom (lkey wid lane) } }
  (s2.onWave wid fun w => { w with live := w.live ||| laneBit lane }).onPath pid fun p =>
    { p with mask := p.mask ||| laneBit lane }

/-- Idle lanes refilled in ascending order while the core's q0 holds items. -/
def State.refillLanes (s : State) (pid : Nat) : List Nat → State
  | [] => s
  | l :: ls =>
    match (s.core (coreOf pid)).q0 with
    | [] => s
    | it :: rest =>
      ((s.setCore (coreOf pid) { s.core (coreOf pid) with q0 := rest }).refillLane pid l it).refillLanes pid ls

/-- The PC of the first operation that will still write a vector register of the wave, before a refill writes them all (R79, R135), or
will still set the query state of one of its lanes (R177). -/
def State.refillWaits (s : State) (wid : Nat) : Option Nat :=
  (s.ops.find? fun o => o.owner == wid && (o.writes [(0, 256)] [] || (!o.done && (match o.kind with | .query _ _ => true | _ => false)))).map
    (·.pc)

/-- REFILL (R79). -/
def execRefill (s : State) : Result :=
  issue .refill (fun c s =>
    if (s.pathsOf (c.pid / 4)).length = 1 ∧ c.p.token = none then
      match s.refillWaits (c.pid / 4) with
      | some pc => .wait s (.register pc)
      | none =>
        let s := s.recallAll (s.helpersWhere fun h => h.lender == c.pid / 4)
        match s.wave (c.pid / 4) with
        | some w => .done (s.refillLanes c.pid (lanesOf (~~~w.live)))
        | none => .done s
    else .done s) s

/-- RGN (R80). A region's stores commit once the earlier loads have returned (R319). -/
def execRgn (s : State) : Result :=
  issue .rgn (fun c s =>
    match (if c.p.region.isSome then s.pendingLoad c.pid else none) with
    | some pc => .wait s (.counter pc)
    | none =>
      .done ((s.commitRegion c.pid).onPath c.pid fun p =>
        { p with region := some ⟨c.nextPc, c.p.token, false, []⟩ })) s

end Sys2Proof.Machine
end

