-- ==== Sys2Proof/Machine/Scalar.lean ====
section
/-! DEFINITION. Scalar arithmetic (R65 to R69). -/

namespace Sys2Proof.Machine

/-- Bits of a scalar operand: 64 when w is set (R65). -/
def opBits (w : Bool) : Nat := if w then 64 else 32

/-- A scalar operand as a number. -/
def Ctx.scalar (c : Ctx) (s : State) (w : Bool) (r : Nat) : Nat :=
  if w then (s.readS64 c.pid c.p r).toNat else (s.readS c.pid c.p r).toNat

/-- The state after a scalar result is written, its low 32 or 64 bits. -/
def State.writeScalar (s : State) (pid : Nat) (w : Bool) (r v : Nat) : State :=
  if w then s.writeS64 pid r (BitVec.ofNat 64 v) else s.writeS pid r (BitVec.ofNat 32 v)

/-! What the operations compute on `n`-bit numbers (R65, R66, R67). -/

def aluAdd (n a b : Nat) : Nat := (a + b) % 2 ^ n
def aluSub (n a b : Nat) : Nat := wrapInt n ((a : Int) - b)
def aluMul (n a b : Nat) : Nat := (a * b) % 2 ^ n
def aluMulhI (n a b : Nat) : Nat := wrapInt n (signedOf n a * signedOf n b / (2 ^ n : Nat))
def aluMulhN (n a b : Nat) : Nat := a * b / 2 ^ n
def aluDivI (n a b : Nat) : Nat := if b = 0 then 2 ^ n - 1 else wrapInt n ((signedOf n a).tdiv (signedOf n b))
def aluDivN (n a b : Nat) : Nat := if b = 0 then 2 ^ n - 1 else a / b
def aluRemI (n a b : Nat) : Nat := if b = 0 then a else wrapInt n ((signedOf n a).tmod (signedOf n b))
def aluRemN (_n a b : Nat) : Nat := if b = 0 then a else a % b
def aluAnd (_n a b : Nat) : Nat := a &&& b
def aluOr (_n a b : Nat) : Nat := a ||| b
def aluXor (_n a b : Nat) : Nat := a ^^^ b
def aluAndn (n a b : Nat) : Nat := a &&& (2 ^ n - 1 - b)
def aluShl (n a b : Nat) : Nat := a * 2 ^ (b % n) % 2 ^ n
def aluShr (n a b : Nat) : Nat := a / 2 ^ (b % n)
def aluSra (n a b : Nat) : Nat := wrapInt n (signedOf n a / (2 ^ (b % n) : Nat))
def aluMinI (n a b : Nat) : Nat := if signedOf n a ≤ signedOf n b then a else b
def aluMinN (_n a b : Nat) : Nat := min a b
def aluMaxI (n a b : Nat) : Nat := if signedOf n a ≤ signedOf n b then b else a
def aluMaxN (_n a b : Nat) : Nat := max a b
def aluSecond (_n _a b : Nat) : Nat := b

/-- Ones among the low `n` bits. -/
def popc (n a : Nat) : Nat := ((List.range n).filter fun i => a.testBit i).length

/-- Leading zeros of an `n`-bit number; `n` for zero. -/
def clz (n a : Nat) : Nat := if a % 2 ^ n = 0 then n else n - 1 - Nat.log2 (a % 2 ^ n)

/-- Trailing zeros of an `n`-bit number; `n` for zero. -/
def ctz (n a : Nat) : Nat := ((List.range n).find? fun i => a.testBit i).getD n

/-- An `n`-bit number with its bits in the opposite order. -/
def brev (n a : Nat) : Nat := (List.range n).foldl (fun r i => 2 * r + fld a i 1) 0

/-- The field of sbfe and vbfe (R67, R104): bits at and above the operand's width read as zero or as its top bit. -/
def bitField (signed : Bool) (n a pos wid : Nat) : Nat :=
  let w := min wid n
  if w = 0 then 0
  else if signed then wrapInt n (signedOf w (wrapInt 256 (signedOf n a / (2 ^ pos : Nat))))
  else fld a pos w

/-- The field of sbfi and vbfi replaced (R67, R104): bits of the field at and above `n` are dropped. -/
def insertField (n old new pos wid : Nat) : Nat :=
  let mask := (2 ^ wid - 1) * 2 ^ pos % 2 ^ n
  (old &&& (2 ^ n - 1 - mask)) ||| (new % 2 ^ wid * 2 ^ pos % 2 ^ n)

/-! Forms. -/

/-- SOP: sd ← f(sa, sb), 64 bits when the mod word sets w (R65). -/
def sop (i : Instr) (f : Nat → Nat → Nat → Nat) (d a b : BitVec 7) (s : State) : Result :=
  issue i (fun c s => .done (s.writeScalar c.pid c.mods.w d.toNat
    (f (opBits c.mods.w) (c.scalar s c.mods.w a.toNat) (c.scalar s c.mods.w b.toNat)))) s

/-- SOP of one source that takes no w (R65). -/
def sop1 (i : Instr) (f : Nat → Nat) (d a : BitVec 7) (s : State) : Result :=
  issue i (fun c s => .done (s.writeScalar c.pid false d.toNat (f (c.scalar s false a.toNat)))) s

/-- SOPI: sd ← f(sd, value) (R20, R65). -/
def sopi (i : Instr) (f : Nat → Nat → Nat → Nat) (d : BitVec 7) (w : Bool) (imm : BitVec 12) (s : State) : Result :=
  issue i (fun c s => .done (s.writeScalar c.pid w d.toNat
    (f (opBits w) (c.scalar s w d.toNat) (wrapInt (opBits w) (widened c.pfx 12 imm.toNat))))) s

/-! Instructions. -/

/-- SADD (R65). -/
def execSadd (d a b : BitVec 7) (s : State) : Result := sop (.sadd d a b) aluAdd d a b s

/-- SSUB (R65). -/
def execSsub (d a b : BitVec 7) (s : State) : Result := sop (.ssub d a b) aluSub d a b s

/-- SMUL (R65). -/
def execSmul (d a b : BitVec 7) (s : State) : Result := sop (.smul d a b) aluMul d a b s

/-- SMULH_I32 (R65). -/
def execSmulhI32 (d a b : BitVec 7) (s : State) : Result := sop (.smulhI32 d a b) aluMulhI d a b s

/-- SMULH_N32 (R65). -/
def execSmulhN32 (d a b : BitVec 7) (s : State) : Result := sop (.smulhN32 d a b) aluMulhN d a b s

/-- SDIV_I32 (R66). -/
def execSdivI32 (d a b : BitVec 7) (s : State) : Result := sop (.sdivI32 d a b) aluDivI d a b s

/-- SDIV_N32 (R66). -/
def execSdivN32 (d a b : BitVec 7) (s : State) : Result := sop (.sdivN32 d a b) aluDivN d a b s

/-- SREM_I32 (R66). -/
def execSremI32 (d a b : BitVec 7) (s : State) : Result := sop (.sremI32 d a b) aluRemI d a b s

/-- SREM_N32 (R66). -/
def execSremN32 (d a b : BitVec 7) (s : State) : Result := sop (.sremN32 d a b) aluRemN d a b s

/-- SAND (R65). -/
def execSand (d a b : BitVec 7) (s : State) : Result := sop (.sand d a b) aluAnd d a b s

/-- SOR (R65). -/
def execSor (d a b : BitVec 7) (s : State) : Result := sop (.sor d a b) aluOr d a b s

/-- SXOR (R65). -/
def execSxor (d a b : BitVec 7) (s : State) : Result := sop (.sxor d a b) aluXor d a b s

/-- SANDN (R65). -/
def execSandn (d a b : BitVec 7) (s : State) : Result := sop (.sandn d a b) aluAndn d a b s

/-- SSHL (R65). -/
def execSshl (d a b : BitVec 7) (s : State) : Result := sop (.sshl d a b) aluShl d a b s

/-- SSHR (R65). -/
def execSshr (d a b : BitVec 7) (s : State) : Result := sop (.sshr d a b) aluShr d a b s

/-- SSRA (R65). -/
def execSsra (d a b : BitVec 7) (s : State) : Result := sop (.ssra d a b) aluSra d a b s

/-- SMIN_I32 (R65). -/
def execSminI32 (d a b : BitVec 7) (s : State) : Result := sop (.sminI32 d a b) aluMinI d a b s

/-- SMIN_N32 (R65). -/
def execSminN32 (d a b : BitVec 7) (s : State) : Result := sop (.sminN32 d a b) aluMinN d a b s

/-- SMAX_I32 (R65). -/
def execSmaxI32 (d a b : BitVec 7) (s : State) : Result := sop (.smaxI32 d a b) aluMaxI d a b s

/-- SMAX_N32 (R65). -/
def execSmaxN32 (d a b : BitVec 7) (s : State) : Result := sop (.smaxN32 d a b) aluMaxN d a b s

/-- SMOV (R65). -/
def execSmov (d a : BitVec 7) (s : State) : Result :=
  issue (.smov d a) (fun c s => .done (s.writeScalar c.pid c.mods.w d.toNat (c.scalar s c.mods.w a.toNat))) s

/-- SPOPC (R65). -/
def execSpopc (d a : BitVec 7) (s : State) : Result := sop1 (.spopc d a) (popc 32) d a s

/-- SCLZ (R65). -/
def execSclz (d a : BitVec 7) (s : State) : Result := sop1 (.sclz d a) (clz 32) d a s

/-- SCTZ (R65). -/
def execSctz (d a : BitVec 7) (s : State) : Result := sop1 (.sctz d a) (ctz 32) d a s

/-- SBREV (R65). -/
def execSbrev (d a : BitVec 7) (s : State) : Result := sop1 (.sbrev d a) (brev 32) d a s

/-- SCMP (R68). -/
def execScmp (k : CmpCond) (g : BitVec 3) (a b : BitVec 7) (s : State) : Result :=
  issue (.scmp k g a b) (fun c s =>
    let v := scalarCond k (opBits c.mods.w) (c.scalar s c.mods.w a.toNat) (c.scalar s c.mods.w b.toNat)
    .done (s.onPath c.pid fun p => { p with flags := setFlag p.flags g v })) s

/-- SLEA (R68). -/
def execSlea (d a b : BitVec 7) (s : State) : Result :=
  issue (.slea d a b) (fun c s =>
    .done (s.writeS64 c.pid d.toNat (s.readS64 c.pid c.p a.toNat + (s.readS c.pid c.p b.toNat).signExtend 64))) s

/-- SBFI (R67). -/
def execSbfi (d a b : BitVec 7) (s : State) : Result :=
  issue (.sbfi d a b) (fun c s =>
    let k := c.scalar s false b.toNat
    .done (s.writeScalar c.pid false d.toNat
      (insertField 32 (c.scalar s false d.toNat) (c.scalar s false a.toNat) (fld k 8 6) (fld k 0 6)))) s

/-- SSEL (R68). -/
def execSsel (d a b : BitVec 7) (g : BitVec 3) (s : State) : Result :=
  issue (.ssel d a b g) (fun c s =>
    .done (s.writeS c.pid d.toNat (s.readS c.pid c.p (if flagAt c.p.flags g then a.toNat else b.toNat)))) s

/-- SADD_IMM (R65). -/
def execSaddImm (d : BitVec 7) (w : Bool) (k : BitVec 12) (s : State) : Result := sopi (.saddImm d w k) aluAdd d w k s

/-- SMUL_IMM (R65). -/
def execSmulImm (d : BitVec 7) (w : Bool) (k : BitVec 12) (s : State) : Result := sopi (.smulImm d w k) aluMul d w k s

/-- SAND_IMM (R65). -/
def execSandImm (d : BitVec 7) (w : Bool) (k : BitVec 12) (s : State) : Result := sopi (.sandImm d w k) aluAnd d w k s

/-- SOR_IMM (R65). -/
def execSorImm (d : BitVec 7) (w : Bool) (k : BitVec 12) (s : State) : Result := sopi (.sorImm d w k) aluOr d w k s

/-- SXOR_IMM (R65). -/
def execSxorImm (d : BitVec 7) (w : Bool) (k : BitVec 12) (s : State) : Result := sopi (.sxorImm d w k) aluXor d w k s

/-- SSHL_IMM (R65). -/
def execSshlImm (d : BitVec 7) (w : Bool) (k : BitVec 12) (s : State) : Result := sopi (.sshlImm d w k) aluShl d w k s

/-- SSHR_IMM (R65). -/
def execSshrImm (d : BitVec 7) (w : Bool) (k : BitVec 12) (s : State) : Result := sopi (.sshrImm d w k) aluShr d w k s

/-- SSRA_IMM (R65). -/
def execSsraImm (d : BitVec 7) (w : Bool) (k : BitVec 12) (s : State) : Result := sopi (.ssraImm d w k) aluSra d w k s

/-- SMIN_I32_IMM (R65). -/
def execSminI32Imm (d : BitVec 7) (w : Bool) (k : BitVec 12) (s : State) : Result := sopi (.sminI32Imm d w k) aluMinI d w k s

/-- SMIN_N32_IMM (R65). -/
def execSminN32Imm (d : BitVec 7) (w : Bool) (k : BitVec 12) (s : State) : Result := sopi (.sminN32Imm d w k) aluMinN d w k s

/-- SMAX_I32_IMM (R65). -/
def execSmaxI32Imm (d : BitVec 7) (w : Bool) (k : BitVec 12) (s : State) : Result := sopi (.smaxI32Imm d w k) aluMaxI d w k s

/-- SMAX_N32_IMM (R65). -/
def execSmaxN32Imm (d : BitVec 7) (w : Bool) (k : BitVec 12) (s : State) : Result := sopi (.smaxN32Imm d w k) aluMaxN d w k s

/-- SMOV_IMM (R65). -/
def execSmovImm (d : BitVec 7) (w : Bool) (k : BitVec 12) (s : State) : Result := sopi (.smovImm d w k) aluSecond d w k s

/-- SBFE_I32 (R67). -/
def execSbfeI32 (d : BitVec 7) (w : Bool) (k : BitVec 12) (s : State) : Result :=
  issue (.sbfeI32 d w k) (fun c s => .done (s.writeScalar c.pid w d.toNat
    (bitField true (opBits w) (c.scalar s w d.toNat) (fld k.toNat 6 6) (fld k.toNat 0 6)))) s

/-- SBFE_N32 (R67). -/
def execSbfeN32 (d : BitVec 7) (w : Bool) (k : BitVec 12) (s : State) : Result :=
  issue (.sbfeN32 d w k) (fun c s => .done (s.writeScalar c.pid w d.toNat
    (bitField false (opBits w) (c.scalar s w d.toNat) (fld k.toNat 6 6) (fld k.toNat 0 6)))) s

/-- SMOVI (R69). -/
def execSmovi (d : BitVec 6) (k : BitVec 20) (s : State) : Result :=
  issue (.smovi d k) (fun c s =>
    let w := decide (2 ≤ c.pfx.length)
    .done (s.writeScalar c.pid w d.toNat (wrapInt (opBits w) (widened c.pfx 20 k.toNat)))) s

end Sys2Proof.Machine
end

