-- ==== Sys2Proof/Machine/VectorInt.lean ====
section
/-! DEFINITION. Lane-wise forms, and vector integer arithmetic (R97 to R104). -/

namespace Sys2Proof.Machine

/-! Lane-wise forms (R97, R101). -/

/-- Values written into lanes of a vector register. -/
def State.putLanes (s : State) (pid r : Nat) (vs : List (Nat × Word)) : State :=
  { s with run := { s.run with vregs := tsets s.run.vregs (vs.map fun e => (vkey (ownerOf pid) r e.1, e.2)) } }

/-- A lane-wise instruction: every active lane's result from the state before, then all written and their events counted. -/
def lanewise (i : Instr) (d : BitVec 7) (f : Ctx → State → Nat → Word × Events) (s : State) : Result :=
  issue i (fun c s =>
    let rs := c.lanes.map fun l => (l, f c s l)
    .done ((s.putLanes c.pid d.toNat (rs.map fun r => (r.1, r.2.1))).countLanes c (rs.map (·.2.2)))) s

/-- A lane-wise instruction that counts nothing. -/
def lanewisePlain (i : Instr) (d : BitVec 7) (f : Ctx → State → Nat → Word) (s : State) : Result :=
  lanewise i d (fun c s l => (f c s l, evNone)) s

/-- Element width that the mod pk field selects (R103). -/
def pkWidth (pk : BitVec 2) : Nat := if pk = 0 then 32 else if pk = 1 then 16 else 8

/-- Element `i` of width `n` (R37). -/
def element (n : Nat) (w : Word) (i : Nat) : Nat := fld w.toNat (n * i) n

/-- A word with element `i` of width `n` replaced (R37). -/
def setElement (n : Nat) (w : Word) (i v : Nat) : Word :=
  BitVec.ofNat 32 (w.toNat - element n w i * 2 ^ (n * i) + v % 2 ^ n * 2 ^ (n * i))

/-- The elements of width `n` of a lane computed one by one; the events of the lane are those of any element. -/
def packed (n : Nat) (f : Nat → Nat × Events) : Word × Events :=
  (List.range (32 / n)).foldl
    (fun r i =>
      let e := f i
      (r.1 ||| BitVec.ofNat 32 (e.1 % 2 ^ n * 2 ^ (n * i)), r.2 ||| e.2)) (0#32, evNone)

/-! What the operations compute on `n`-bit elements. -/

/-- An exact result clamped to the signed range with sat, else wrapped (R103). -/
def satOrWrap (sat : Bool) (n : Nat) (i : Int) : Nat × Events :=
  if sat then
    let (v, clamped) := clampInt true n i
    (wrapInt n v, if clamped then evSaturation else evNone)
  else (wrapInt n i, evNone)

def aluAbsdI (n a b : Nat) : Nat := (signedOf n a - signedOf n b).natAbs
def aluAbsdN (_n a b : Nat) : Nat := ((a : Int) - b).natAbs

/-! Forms. -/

/-- VOP with sat and pk. -/
def vopSat (i : Instr) (f : Int → Int → Int) (d a b : BitVec 7) (s : State) : Result :=
  lanewise i d (fun c s l =>
    let n := pkWidth c.mods.pk
    let x := s.readV c.pid a.toNat l
    let y := s.readV c.pid b.toNat l
    packed n fun k => satOrWrap c.mods.sat n (f (signedOf n (element n x k)) (signedOf n (element n y k)))) s

/-- VOP with pk. -/
def vop (i : Instr) (f : Nat → Nat → Nat → Nat) (d a b : BitVec 7) (s : State) : Result :=
  lanewise i d (fun c s l =>
    let n := pkWidth c.mods.pk
    let x := s.readV c.pid a.toNat l
    let y := s.readV c.pid b.toNat l
    packed n fun k => (f n (element n x k) (element n y k), evNone)) s

/-- VOP on 32-bit lanes only. -/
def vop32 (i : Instr) (f : Nat → Nat → Nat → Nat) (d a b : BitVec 7) (s : State) : Result :=
  lanewisePlain i d (fun c s l =>
    BitVec.ofNat 32 (f 32 (s.readV c.pid a.toNat l).toNat (s.readV c.pid b.toNat l).toNat)) s

/-- VOP of one source. -/
def vop1 (i : Instr) (f : Nat → Nat) (d a : BitVec 7) (s : State) : Result :=
  lanewisePlain i d (fun c s l => BitVec.ofNat 32 (f (s.readV c.pid a.toNat l).toNat)) s

/-- The immediate of VOPI, widened to 32 bits (R20). -/
def Ctx.vimm (c : Ctx) (w : Nat) (k : Nat) : Word := BitVec.ofNat 32 (wrapInt 32 (widened c.pfx w k))

/-- VOPI with sat and pk; the value's low bits serve every element (R103). -/
def vopiSat (i : Instr) (f : Int → Int → Int) (d a : BitVec 7) (k : BitVec 8) (s : State) : Result :=
  lanewise i d (fun c s l =>
    let n := pkWidth c.mods.pk
    let x := s.readV c.pid a.toNat l
    let y := element n (c.vimm 8 k.toNat) 0
    packed n fun j => satOrWrap c.mods.sat n (f (signedOf n (element n x j)) (signedOf n y))) s

/-- VOPI with pk. -/
def vopi (i : Instr) (f : Nat → Nat → Nat → Nat) (d a : BitVec 7) (k : BitVec 8) (s : State) : Result :=
  lanewise i d (fun c s l =>
    let n := pkWidth c.mods.pk
    let x := s.readV c.pid a.toNat l
    let y := element n (c.vimm 8 k.toNat) 0
    packed n fun j => (f n (element n x j) y, evNone)) s

/-! Instructions. -/

/-- VADD (R102). -/
def execVadd (d a b : BitVec 7) (s : State) : Result := vopSat (.vadd d a b) (· + ·) d a b s

/-- VSUB (R102). -/
def execVsub (d a b : BitVec 7) (s : State) : Result := vopSat (.vsub d a b) (· - ·) d a b s

/-- VMUL (R102). -/
def execVmul (d a b : BitVec 7) (s : State) : Result := vopSat (.vmul d a b) (· * ·) d a b s

/-- VMULH_I32 (R102). -/
def execVmulhI32 (d a b : BitVec 7) (s : State) : Result := vop32 (.vmulhI32 d a b) aluMulhI d a b s

/-- VMULH_N32 (R102). -/
def execVmulhN32 (d a b : BitVec 7) (s : State) : Result := vop32 (.vmulhN32 d a b) aluMulhN d a b s

/-- VMAD (R102). -/
def execVmad (d a b : BitVec 7) (s : State) : Result :=
  lanewisePlain (.vmad d a b) d (fun c s l =>
    s.readV c.pid a.toNat l * s.readV c.pid b.toNat l
      + s.readV c.pid (if c.mods.vce then c.mods.vc.toNat else d.toNat) l) s

/-- VAND (R102). -/
def execVand (d a b : BitVec 7) (s : State) : Result := vop (.vand d a b) aluAnd d a b s

/-- VOR (R102). -/
def execVor (d a b : BitVec 7) (s : State) : Result := vop (.vor d a b) aluOr d a b s

/-- VXOR (R102). -/
def execVxor (d a b : BitVec 7) (s : State) : Result := vop (.vxor d a b) aluXor d a b s

/-- VANDN (R102). -/
def execVandn (d a b : BitVec 7) (s : State) : Result := vop (.vandn d a b) aluAndn d a b s

/-- VSHL (R102). -/
def execVshl (d a b : BitVec 7) (s : State) : Result := vop (.vshl d a b) aluShl d a b s

/-- VSHR (R102). -/
def execVshr (d a b : BitVec 7) (s : State) : Result := vop (.vshr d a b) aluShr d a b s

/-- VSRA (R102). -/
def execVsra (d a b : BitVec 7) (s : State) : Result := vop (.vsra d a b) aluSra d a b s

/-- VMIN_I32 (R102). -/
def execVminI32 (d a b : BitVec 7) (s : State) : Result := vop (.vminI32 d a b) aluMinI d a b s

/-- VMIN_N32 (R102). -/
def execVminN32 (d a b : BitVec 7) (s : State) : Result := vop (.vminN32 d a b) aluMinN d a b s

/-- VMAX_I32 (R102). -/
def execVmaxI32 (d a b : BitVec 7) (s : State) : Result := vop (.vmaxI32 d a b) aluMaxI d a b s

/-- VMAX_N32 (R102). -/
def execVmaxN32 (d a b : BitVec 7) (s : State) : Result := vop (.vmaxN32 d a b) aluMaxN d a b s

/-- VABSD_I32 (R102). -/
def execVabsdI32 (d a b : BitVec 7) (s : State) : Result := vop (.vabsdI32 d a b) aluAbsdI d a b s

/-- VABSD_N32 (R102). -/
def execVabsdN32 (d a b : BitVec 7) (s : State) : Result := vop (.vabsdN32 d a b) aluAbsdN d a b s

/-- VPOPC (R102). -/
def execVpopc (d a : BitVec 7) (s : State) : Result := vop1 (.vpopc d a) (popc 32) d a s

/-- VCLZ (R102). -/
def execVclz (d a : BitVec 7) (s : State) : Result := vop1 (.vclz d a) (clz 32) d a s

/-- VBREV (R102). -/
def execVbrev (d a : BitVec 7) (s : State) : Result := vop1 (.vbrev d a) (brev 32) d a s

/-- VBFE_I32 (R104). -/
def execVbfeI32 (d a b : BitVec 7) (s : State) : Result :=
  vop32 (.vbfeI32 d a b) (fun n x y => bitField true n x (fld y 8 6) (fld y 0 6)) d a b s

/-- VBFE_N32 (R104). -/
def execVbfeN32 (d a b : BitVec 7) (s : State) : Result :=
  vop32 (.vbfeN32 d a b) (fun n x y => bitField false n x (fld y 8 6) (fld y 0 6)) d a b s

/-- VBFI (R104). -/
def execVbfi (d a b : BitVec 7) (s : State) : Result :=
  lanewisePlain (.vbfi d a b) d (fun c s l =>
    let y := (s.readV c.pid b.toNat l).toNat
    BitVec.ofNat 32 (insertField 32 (s.readV c.pid d.toNat l).toNat (s.readV c.pid a.toNat l).toNat (fld y 8 6) (fld y 0 6))) s

/-- VADD_IMM (R102). -/
def execVaddImm (d a : BitVec 7) (k : BitVec 8) (s : State) : Result := vopiSat (.vaddImm d a k) (· + ·) d a k s

/-- VMUL_IMM (R102). -/
def execVmulImm (d a : BitVec 7) (k : BitVec 8) (s : State) : Result := vopiSat (.vmulImm d a k) (· * ·) d a k s

/-- VAND_IMM (R102). -/
def execVandImm (d a : BitVec 7) (k : BitVec 8) (s : State) : Result := vopi (.vandImm d a k) aluAnd d a k s

/-- VOR_IMM (R102). -/
def execVorImm (d a : BitVec 7) (k : BitVec 8) (s : State) : Result := vopi (.vorImm d a k) aluOr d a k s

/-- VXOR_IMM (R102). -/
def execVxorImm (d a : BitVec 7) (k : BitVec 8) (s : State) : Result := vopi (.vxorImm d a k) aluXor d a k s

/-- VANDN_IMM (R102). -/
def execVandnImm (d a : BitVec 7) (k : BitVec 8) (s : State) : Result := vopi (.vandnImm d a k) aluAndn d a k s

/-- VSHL_IMM (R102). -/
def execVshlImm (d a : BitVec 7) (k : BitVec 8) (s : State) : Result := vopi (.vshlImm d a k) aluShl d a k s

/-- VSHR_IMM (R102). -/
def execVshrImm (d a : BitVec 7) (k : BitVec 8) (s : State) : Result := vopi (.vshrImm d a k) aluShr d a k s

/-- VSRA_IMM (R102). -/
def execVsraImm (d a : BitVec 7) (k : BitVec 8) (s : State) : Result := vopi (.vsraImm d a k) aluSra d a k s

/-- VMIN_I32_IMM (R102). -/
def execVminI32Imm (d a : BitVec 7) (k : BitVec 8) (s : State) : Result := vopi (.vminI32Imm d a k) aluMinI d a k s

/-- VMIN_N32_IMM (R102). -/
def execVminN32Imm (d a : BitVec 7) (k : BitVec 8) (s : State) : Result := vopi (.vminN32Imm d a k) aluMinN d a k s

/-- VMAX_I32_IMM (R102). -/
def execVmaxI32Imm (d a : BitVec 7) (k : BitVec 8) (s : State) : Result := vopi (.vmaxI32Imm d a k) aluMaxI d a k s

/-- VMAX_N32_IMM (R102). -/
def execVmaxN32Imm (d a : BitVec 7) (k : BitVec 8) (s : State) : Result := vopi (.vmaxN32Imm d a k) aluMaxN d a k s

/-- VABSD_I32_IMM (R102). -/
def execVabsdI32Imm (d a : BitVec 7) (k : BitVec 8) (s : State) : Result := vopi (.vabsdI32Imm d a k) aluAbsdI d a k s

/-- VABSD_N32_IMM (R102). -/
def execVabsdN32Imm (d a : BitVec 7) (k : BitVec 8) (s : State) : Result := vopi (.vabsdN32Imm d a k) aluAbsdN d a k s

end Sys2Proof.Machine
end

