-- ==== Sys2Proof/Machine/VectorFloat.lean ====
section
/-! DEFINITION. Vector floating-point arithmetic, transcendentals, conversions and descriptor arithmetic (R45, R49, R51, R105 to
R115). -/

namespace Sys2Proof.Machine

/-! Forms. -/

/-- An FP32 lane as an input, flushed where the bundle sets ftz (R43). -/
def Ctx.f32 (c : Ctx) (s : State) (r l : Nat) : FV := fin32 c.mods.ftz (s.readV c.pid r l)

/-- An FP32 result of an exact value and its events, rounded under the bundle's rnd (R105). -/
def Ctx.out (c : Ctx) (v : FV × Events) : Word × Events :=
  let r := out32 c.mods.rnd c.mods.ftz v.1
  (r.1, r.2 ||| v.2)

/-- VFOP of two FP32 sources. -/
def vfop (i : Instr) (f : Rnd → FV → FV → FV × Events) (d a b : BitVec 7) (s : State) : Result :=
  lanewise i d (fun c s l => c.out (f c.mods.rnd (c.f32 s a.toNat l) (c.f32 s b.toNat l))) s

/-- Two BF16 elements a lane, each rounded once (R108). -/
def bf16Pair (rnd : Rnd) (f : Nat → FV × Events) : Word × Events :=
  packed 16 fun k =>
    let v := f k
    let r := bf16.pack rnd false v.1
    (r.1, r.2 ||| v.2)

/-- A BF16 element of a lane. -/
def bfElem (w : Word) (k : Nat) : FV := bf16.value (element 16 w k)

/-- A value negated where a mod bit says so (R109). -/
def negIf (n : Bool) (v : FV) : FV := if n then v.neg else v

/-- ±(a × b) ± c (R109). -/
def fmaOf (m : ModFields) (a b c : FV) : FV × Events := FV.fma m.rnd (negIf m.na a) b (negIf m.nc c)

/-- The addend's register of a fused form (R21, R109). -/
def Ctx.addend (c : Ctx) (d : BitVec 7) : Nat := if c.mods.vce then c.mods.vc.toNat else d.toNat

/-- VSFU of one source (R110). -/
def vsfu (i : Instr) (f : FV → FV × Events) (d a : BitVec 7) (s : State) : Result :=
  lanewise i d (fun c s l =>
    let v := f (c.f32 s a.toNat l)
    let r := out32 .rne c.mods.ftz v.1
    (r.1, r.2 ||| v.2)) s

/-! Floating arithmetic (R105 to R109). -/

/-- VFADD (R105). -/
def execVfadd (d a b : BitVec 7) (s : State) : Result := vfop (.vfadd d a b) FV.add d a b s

/-- VFSUB (R105). -/
def execVfsub (d a b : BitVec 7) (s : State) : Result := vfop (.vfsub d a b) (fun r x y => FV.add r x y.neg) d a b s

/-- VFMUL (R105). -/
def execVfmul (d a b : BitVec 7) (s : State) : Result := vfop (.vfmul d a b) (fun _ x y => FV.mul x y) d a b s

/-- VFMIN (R106). -/
def execVfmin (d a b : BitVec 7) (s : State) : Result :=
  lanewisePlain (.vfmin d a b) d (fun c s l =>
    minmax32 false c.mods.ftz (s.readV c.pid a.toNat l) (s.readV c.pid b.toNat l)) s

/-- VFMAX (R106). -/
def execVfmax (d a b : BitVec 7) (s : State) : Result :=
  lanewisePlain (.vfmax d a b) d (fun c s l =>
    minmax32 true c.mods.ftz (s.readV c.pid a.toNat l) (s.readV c.pid b.toNat l)) s

/-- VFSCALE (R105). -/
def execVfscale (d a b : BitVec 7) (s : State) : Result :=
  lanewise (.vfscale d a b) d (fun c s l =>
    c.out ((c.f32 s a.toNat l).scale (s.readV c.pid b.toNat l).toInt, evNone)) s

/-- VFCLASS (R107). -/
def execVfclass (d a : BitVec 7) (s : State) : Result :=
  lanewisePlain (.vfclass d a) d (fun c s l => BitVec.ofNat 32 (class32 (s.readV c.pid a.toNat l))) s

/-- VHADD (R108). -/
def execVhadd (d a b : BitVec 7) (s : State) : Result :=
  lanewise (.vhadd d a b) d (fun c s l =>
    let x := s.readV c.pid a.toNat l
    let y := s.readV c.pid b.toNat l
    bf16Pair c.mods.rnd fun k => FV.add c.mods.rnd (bfElem x k) (bfElem y k)) s

/-- VHMUL (R108). -/
def execVhmul (d a b : BitVec 7) (s : State) : Result :=
  lanewise (.vhmul d a b) d (fun c s l =>
    let x := s.readV c.pid a.toNat l
    let y := s.readV c.pid b.toNat l
    bf16Pair c.mods.rnd fun k => FV.mul (bfElem x k) (bfElem y k)) s

/-- VFFMA (R109). -/
def execVffma (d a b : BitVec 7) (s : State) : Result :=
  lanewise (.vffma d a b) d (fun c s l =>
    c.out (fmaOf c.mods (c.f32 s a.toNat l) (c.f32 s b.toNat l) (c.f32 s (c.addend d) l))) s

/-- VHFMA (R109). -/
def execVhfma (d a b : BitVec 7) (s : State) : Result :=
  lanewise (.vhfma d a b) d (fun c s l =>
    let x := s.readV c.pid a.toNat l
    let y := s.readV c.pid b.toNat l
    let z := s.readV c.pid (c.addend d) l
    bf16Pair c.mods.rnd fun k => fmaOf c.mods (bfElem x k) (bfElem y k) (bfElem z k)) s

/-! Transcendentals (R110, R111). -/

/-- VFRCP (R110). -/
def execVfrcp (d a : BitVec 7) (s : State) : Result := vsfu (.vfrcp d a) FV.recip d a s

/-- VFRSQ (R110). -/
def execVfrsq (d a : BitVec 7) (s : State) : Result := vsfu (.vfrsq d a) FV.rsqrt d a s

/-- VFSQRT (R110). -/
def execVfsqrt (d a : BitVec 7) (s : State) : Result := vsfu (.vfsqrt d a) FV.sqrt d a s

/-- VFEXP2 (R110). -/
def execVfexp2 (d a : BitVec 7) (s : State) : Result := vsfu (.vfexp2 d a) FV.exp2 d a s

/-- VFLOG2 (R110). -/
def execVflog2 (d a : BitVec 7) (s : State) : Result := vsfu (.vflog2 d a) FV.log2 d a s

/-- VFSIN (R110). -/
def execVfsin (d a : BitVec 7) (s : State) : Result := vsfu (.vfsin d a) FV.sin d a s

/-- VFCOS (R110). -/
def execVfcos (d a : BitVec 7) (s : State) : Result := vsfu (.vfcos d a) FV.cos d a s

/-- VFEXP (R110). -/
def execVfexp (d a : BitVec 7) (s : State) : Result := vsfu (.vfexp d a) FV.exp d a s

/-- VFDIV (R110). -/
def execVfdiv (d a b : BitVec 7) (s : State) : Result :=
  lanewise (.vfdiv d a b) d (fun c s l =>
    let v := FV.div (c.f32 s a.toNat l) (c.f32 s b.toNat l)
    let r := out32 .rne c.mods.ftz v.1
    (r.1, r.2 ||| v.2)) s

/-! Conversions (R45, R112). -/

/-- Widening: an element of `n` bits to a 32-bit result. -/
def widen (i : Instr) (n : Nat) (f : Ctx → Nat → Word × Events) (d a : BitVec 7) (k : BitVec 4) (s : State) : Result :=
  lanewise i d (fun c s l => f c (element n (s.readV c.pid a.toNat l) k.toNat)) s

/-- Narrowing: element `k` of vd replaced, the others kept. -/
def narrow (i : Instr) (n : Nat) (f : Ctx → Word → Nat × Events) (d a : BitVec 7) (k : BitVec 4) (s : State) : Result :=
  lanewise i d (fun c s l =>
    let r := f c (s.readV c.pid a.toNat l)
    (setElement n (s.readV c.pid d.toNat l) k.toNat r.1, r.2)) s

/-- A narrow float to FP32: exact; a NaN of E4M3 or E5M2 counts NaN-from-narrow. -/
def fromFloat (f : Fmt) (counts : Bool) (c : Ctx) (e : Nat) : Word × Events :=
  let v := f.value e
  let r := out32 .rne c.mods.ftz v
  (r.1, r.2 ||| if counts && v == .nan then evNarrowNan else evNone)

/-- FP32 to a narrow float. -/
def toFloat (f : Fmt) (c : Ctx) (w : Word) : Nat × Events := f.pack c.mods.rnd c.mods.sat (fin32 c.mods.ftz w)

/-- An integer narrowed: clamped with sat, else its low bits. -/
def toInt (signed : Bool) (n : Nat) (c : Ctx) (w : Word) : Nat × Events :=
  let i : Int := if signed then w.toInt else (w.toNat : Int)
  if c.mods.sat then
    let (v, clamped) := clampInt signed n i
    (wrapInt n v, if clamped then evSaturation else evNone)
  else (wrapInt n i, evNone)

def fromInt (signed : Bool) (n : Nat) (_c : Ctx) (e : Nat) : Word × Events :=
  (BitVec.ofNat 32 (if signed then wrapInt 32 (signedOf n e) else e), evNone)

/-- VFCVT_F32_I32 (R45). -/
def execVfcvtF32I32 (d a : BitVec 7) (s : State) : Result :=
  lanewise (.vfcvtF32I32 d a) d (fun c s l => c.out (FV.ofInt (s.readV c.pid a.toNat l).toInt, evNone)) s

/-- VFCVT_F32_N32 (R45). -/
def execVfcvtF32N32 (d a : BitVec 7) (s : State) : Result :=
  lanewise (.vfcvtF32N32 d a) d (fun c s l => c.out (FV.ofInt (s.readV c.pid a.toNat l).toNat, evNone)) s

/-- VFCVT_I32_F32 (R45). -/
def execVfcvtI32F32 (d a : BitVec 7) (s : State) : Result :=
  lanewise (.vfcvtI32F32 d a) d (fun c s l =>
    let r := toIntClamped c.mods.rnd (-2147483648) 2147483647 (c.f32 s a.toNat l)
    (BitVec.ofNat 32 (wrapInt 32 r.1), r.2)) s

/-- VFCVT_N32_F32 (R45). -/
def execVfcvtN32F32 (d a : BitVec 7) (s : State) : Result :=
  lanewise (.vfcvtN32F32 d a) d (fun c s l =>
    let r := toIntClamped c.mods.rnd 0 4294967295 (c.f32 s a.toNat l)
    (BitVec.ofNat 32 (wrapInt 32 r.1), r.2)) s

/-- VFCVT_F32_F16 (R45). -/
def execVfcvtF32F16 (d a : BitVec 7) (k : BitVec 4) (s : State) : Result := widen (.vfcvtF32F16 d a k) 16 (fromFloat fp16 false) d a k s

/-- VFCVT_F16_F32 (R45). -/
def execVfcvtF16F32 (d a : BitVec 7) (k : BitVec 4) (s : State) : Result := narrow (.vfcvtF16F32 d a k) 16 (toFloat fp16) d a k s

/-- VFCVT_F32_BF16 (R45). -/
def execVfcvtF32Bf16 (d a : BitVec 7) (k : BitVec 4) (s : State) : Result := widen (.vfcvtF32Bf16 d a k) 16 (fromFloat bf16 false) d a k s

/-- VFCVT_BF16_F32 (R45). -/
def execVfcvtBf16F32 (d a : BitVec 7) (k : BitVec 4) (s : State) : Result := narrow (.vfcvtBf16F32 d a k) 16 (toFloat bf16) d a k s

/-- VFCVT_F32_E4M3 (R45). -/
def execVfcvtF32E4m3 (d a : BitVec 7) (k : BitVec 4) (s : State) : Result := widen (.vfcvtF32E4m3 d a k) 8 (fromFloat e4m3 true) d a k s

/-- VFCVT_E4M3_F32 (R45). -/
def execVfcvtE4m3F32 (d a : BitVec 7) (k : BitVec 4) (s : State) : Result := narrow (.vfcvtE4m3F32 d a k) 8 (toFloat e4m3) d a k s

/-- VFCVT_F32_E5M2 (R45). -/
def execVfcvtF32E5m2 (d a : BitVec 7) (k : BitVec 4) (s : State) : Result := widen (.vfcvtF32E5m2 d a k) 8 (fromFloat e5m2 true) d a k s

/-- VFCVT_E5M2_F32 (R45). -/
def execVfcvtE5m2F32 (d a : BitVec 7) (k : BitVec 4) (s : State) : Result := narrow (.vfcvtE5m2F32 d a k) 8 (toFloat e5m2) d a k s

/-- VFCVT_I32_I8 (R45). -/
def execVfcvtI32I8 (d a : BitVec 7) (k : BitVec 4) (s : State) : Result := widen (.vfcvtI32I8 d a k) 8 (fromInt true 8) d a k s

/-- VFCVT_I8_I32 (R45). -/
def execVfcvtI8I32 (d a : BitVec 7) (k : BitVec 4) (s : State) : Result := narrow (.vfcvtI8I32 d a k) 8 (toInt true 8) d a k s

/-- VFCVT_I32_I16 (R45). -/
def execVfcvtI32I16 (d a : BitVec 7) (k : BitVec 4) (s : State) : Result := widen (.vfcvtI32I16 d a k) 16 (fromInt true 16) d a k s

/-- VFCVT_I16_I32 (R45). -/
def execVfcvtI16I32 (d a : BitVec 7) (k : BitVec 4) (s : State) : Result := narrow (.vfcvtI16I32 d a k) 16 (toInt true 16) d a k s

/-- VFCVT_N32_N8 (R45). -/
def execVfcvtN32N8 (d a : BitVec 7) (k : BitVec 4) (s : State) : Result := widen (.vfcvtN32N8 d a k) 8 (fromInt false 8) d a k s

/-- VFCVT_N8_N32 (R45). -/
def execVfcvtN8N32 (d a : BitVec 7) (k : BitVec 4) (s : State) : Result := narrow (.vfcvtN8N32 d a k) 8 (toInt false 8) d a k s

/-- VFCVT_N32_N16 (R45). -/
def execVfcvtN32N16 (d a : BitVec 7) (k : BitVec 4) (s : State) : Result := widen (.vfcvtN32N16 d a k) 16 (fromInt false 16) d a k s

/-- VFCVT_N16_N32 (R45). -/
def execVfcvtN16N32 (d a : BitVec 7) (k : BitVec 4) (s : State) : Result := narrow (.vfcvtN16N32 d a k) 16 (toInt false 16) d a k s

/-- VFCVT_I32_TRI (R45). -/
def execVfcvtI32Tri (d a : BitVec 7) (k : BitVec 4) (s : State) : Result :=
  widen (.vfcvtI32Tri d a k) 2 (fun _ e => (BitVec.ofNat 32 (wrapInt 32 (triValue e).1), (triValue e).2)) d a k s

/-- VFCVT_TRI_I32 (R45). -/
def execVfcvtTriI32 (d a : BitVec 7) (k : BitVec 4) (s : State) : Result :=
  narrow (.vfcvtTriI32 d a k) 2 (fun _ w => triCode w.toInt) d a k s

/-! Descriptors (R49 to R51, R113 to R115). -/

/-- What an unset descriptor gives: zero in every active lane, and one event a lane (R51). -/
def unsetDesc (c : Ctx) (d : BitVec 7) (s : State) : Fate :=
  .done ((s.putLanes c.pid d.toNat (c.lanes.map fun l => (l, 0))).countLanes c (c.lanes.map fun _ => evDescriptor))

/-- A lane-wise result under a descriptor. -/
def descLanes (c : Ctx) (d : BitVec 7) (s : State) (f : Nat → Word × Events) : Fate :=
  let rs := c.lanes.map fun l => (l, f l)
  .done ((s.putLanes c.pid d.toNat (rs.map fun r => (r.1, r.2.1))).countLanes c (rs.map (·.2.2)))

/-- The elements of a lane under a descriptor, the unused bits zero (R37). -/
def descElements (q : Desc) (f : Nat → Nat × Events) : Word × Events :=
  (List.range q.count).foldl
    (fun r i =>
      let e := f i
      (r.1 ||| BitVec.ofNat 32 (e.1 % 2 ^ q.wid * 2 ^ (q.wid * i)), r.2 ||| e.2)) (0#32, evNone)

/-- Descriptor arithmetic on the elements of each lane (R114). -/
def vnf (i : Instr) (f : Ctx → State → Nat → Desc → Nat → FV × Events) (d : BitVec 7) (n : BitVec 2) (s : State) : Result :=
  issue i (fun c s =>
    match s.descOf c.pid n.toNat with
    | none => unsetDesc c d s
    | some q =>
      descLanes c d s fun l => descElements q fun k =>
        let v := f c s l q k
        let r := q.pack c.mods.rnd c.mods.sat v.1
        (r.1, r.2 ||| v.2)) s

/-- An element of a lane, decoded (R49). -/
def Desc.elem (q : Desc) (w : Word) (k : Nat) : FV × Events := q.value (element q.wid w k)

/-- VNCVT_F32 (R113). -/
def execVncvtF32 (d a : BitVec 7) (k : BitVec 4) (n : BitVec 2) (s : State) : Result :=
  issue (.vncvtF32 d a k n) (fun c s =>
    match s.descOf c.pid n.toNat with
    | none => if 7 < k.toNat then .outOfContext else unsetDesc c d s
    | some q =>
      if q.count ≤ k.toNat then .outOfContext
      else
        descLanes c d s fun l =>
          let v := q.elem (s.readV c.pid a.toNat l) k.toNat
          let r := out32 .rne c.mods.ftz v.1
          (r.1, r.2 ||| v.2)) s

/-- VNCVT_NF (R113). -/
def execVncvtNf (d a : BitVec 7) (k : BitVec 4) (n : BitVec 2) (s : State) : Result :=
  issue (.vncvtNf d a k n) (fun c s =>
    match s.descOf c.pid n.toNat with
    | none => if 7 < k.toNat then .outOfContext else unsetDesc c d s
    | some q =>
      if q.count ≤ k.toNat then .outOfContext
      else
        descLanes c d s fun l =>
          let r := q.pack c.mods.rnd c.mods.sat (c.f32 s a.toNat l)
          let w := setElement q.wid (s.readV c.pid d.toNat l) k.toNat r.1
          (if q.wid = 6 then w &&& 0x3FFFFFFF#32 else w, r.2)) s

/-- VNADD (R114). -/
def execVnadd (d a b : BitVec 7) (n : BitVec 2) (s : State) : Result :=
  vnf (.vnadd d a b n) (fun c s l q k =>
    let x := q.elem (s.readV c.pid a.toNat l) k
    let y := q.elem (s.readV c.pid b.toNat l) k
    let v := FV.add c.mods.rnd x.1 y.1
    (v.1, v.2 ||| x.2 ||| y.2)) d n s

/-- VNMUL (R114). -/
def execVnmul (d a b : BitVec 7) (n : BitVec 2) (s : State) : Result :=
  vnf (.vnmul d a b n) (fun c s l q k =>
    let x := q.elem (s.readV c.pid a.toNat l) k
    let y := q.elem (s.readV c.pid b.toNat l) k
    let v := FV.mul x.1 y.1
    (v.1, v.2 ||| x.2 ||| y.2)) d n s

/-- VNFMA (R114). -/
def execVnfma (d a b : BitVec 7) (n : BitVec 2) (s : State) : Result :=
  vnf (.vnfma d a b n) (fun c s l q k =>
    let x := q.elem (s.readV c.pid a.toNat l) k
    let y := q.elem (s.readV c.pid b.toNat l) k
    let z := q.elem (s.readV c.pid d.toNat l) k
    let v := FV.fma c.mods.rnd x.1 y.1 z.1
    (v.1, v.2 ||| x.2 ||| y.2 ||| z.2)) d n s

end Sys2Proof.Machine
end

