-- ==== Sys2Proof/Machine/Cross.lean ====
section
/-! DEFINITION. Selection and moves, compares and predicates, and cross-lane instructions (R116 to R127). -/

namespace Sys2Proof.Machine

/-! Selection and moves (R116). -/

/-- VSEL (R116). -/
def execVsel (d a b : BitVec 7) (k : BitVec 3) (s : State) : Result :=
  lanewisePlain (.vsel d a b k) d (fun c s l =>
    s.readV c.pid (if (s.readK c.pid k.toNat).getLsbD l then a.toNat else b.toNat) l) s

/-- VMOV (R116). -/
def execVmov (d a : BitVec 7) (s : State) : Result :=
  lanewisePlain (.vmov d a) d (fun c s l => s.readV c.pid a.toNat l) s

/-- VMOV_SCALAR (R116). -/
def execVmovScalar (d a : BitVec 7) (s : State) : Result :=
  lanewisePlain (.vmovScalar d a) d (fun c s _ => s.readS c.pid c.p a.toNat) s

/-- VMOVI (R116). -/
def execVmovi (d : BitVec 7) (k : BitVec 14) (s : State) : Result :=
  lanewisePlain (.vmovi d k) d (fun c _ _ => c.vimm 14 k.toNat) s

/-- A per-lane special register (R16, R116). -/
def State.laneSr (s : State) (pid n l : Nat) : Word :=
  if n = 0 then BitVec.ofNat 32 l else if n = 1 then s.itemOf pid l else s.nbrOf pid l

/-- VSR (R16, R17, R116). -/
def execVsr (d : BitVec 7) (n : BitVec 12) (s : State) : Result :=
  issue (.vsr d n) (fun c s =>
    if srKind n.toNat = some .perLane then
      .done (s.putLanes c.pid d.toNat (c.lanes.map fun l => (l, s.laneSr c.pid n.toNat l)))
    else .outOfContext) s

/-! Compares (R117). -/

/-- A compare's bits written into a predicate under cmb; bits of inactive lanes are kept. -/
def State.writeCompare (s : State) (c : Ctx) (k : BitVec 3) (m : CmpMode) (f : Nat → Bool) : State :=
  let old := s.readK c.pid k.toNat
  let r := maskOf (c.lanes.filter f)
  let new := match m with
    | .write => r
    | .and => old &&& r
    | .or => old ||| r
  s.writeK c.pid k.toNat ((old &&& ~~~c.p.mask) ||| (new &&& c.p.mask))

/-- Conditions of vfcmp (R117). -/
def floatCond (k : CmpCond) (ftz : Bool) (a b : Word) : Bool :=
  let a := flush32 ftz a
  let b := flush32 ftz b
  let un := isNan32 a || isNan32 b
  let x := valueKey a
  let y := valueKey b
  match k with
  | .eq => !un && x == y
  | .ne => un || x != y
  | .lt | .ltN => !un && decide (x < y)
  | .le | .leN => !un && decide (x ≤ y)
  | .gt | .gtN => !un && decide (x > y)
  | .ge | .geN => !un && decide (x ≥ y)
  | .ord => !un
  | .unord => un

/-- An integer compare of each active lane. -/
def vcmp (i : Instr) (k : BitVec 3) (cond : CmpCond) (a b : BitVec 7) (m : CmpMode) (s : State) : Result :=
  issue i (fun c s =>
    .done (s.writeCompare c k m fun l =>
      scalarCond cond 32 (s.readV c.pid a.toNat l).toNat (s.readV c.pid b.toNat l).toNat)) s

/-- VCMP_I32 (R117). -/
def execVcmpI32 (k : BitVec 3) (q : CmpCond) (a b : BitVec 7) (m : CmpMode) (s : State) : Result :=
  vcmp (.vcmpI32 k q a b m) k q a b m s

/-- VCMP_N32 (R117). -/
def execVcmpN32 (k : BitVec 3) (q : CmpCond) (a b : BitVec 7) (m : CmpMode) (s : State) : Result :=
  vcmp (.vcmpN32 k q a b m) k q a b m s

/-- VFCMP (R117). -/
def execVfcmp (k : BitVec 3) (q : CmpCond) (a b : BitVec 7) (m : CmpMode) (s : State) : Result :=
  issue (.vfcmp k q a b m) (fun c s =>
    .done (s.writeCompare c k m fun l =>
      floatCond q c.mods.ftz (s.readV c.pid a.toNat l) (s.readV c.pid b.toNat l))) s

/-! Predicates (R118). -/

/-- A KOP of two sources: on whole predicates, or on the path's flags. -/
def kop (i : Instr) (f : Lanes → Lanes → Lanes) (g : Bool → Bool → Bool) (d a b : BitVec 3) (flags : Bool) (s : State) :
    Result :=
  issue i (fun c s =>
    if flags then
      .done (s.onPath c.pid fun p => { p with flags := setFlag p.flags d (g (flagAt c.p.flags a) (flagAt c.p.flags b)) })
    else .done (s.writeK c.pid d.toNat (f (s.readK c.pid a.toNat) (s.readK c.pid b.toNat)))) s

/-- KAND (R118). -/
def execKand (d a b : BitVec 3) (p : Bool) (s : State) : Result := kop (.kand d a b p) (· &&& ·) (· && ·) d a b p s

/-- KOR (R118). -/
def execKor (d a b : BitVec 3) (p : Bool) (s : State) : Result := kop (.kor d a b p) (· ||| ·) (· || ·) d a b p s

/-- KXOR (R118). -/
def execKxor (d a b : BitVec 3) (p : Bool) (s : State) : Result := kop (.kxor d a b p) (· ^^^ ·) (· != ·) d a b p s

/-- KANDN (R118). -/
def execKandn (d a b : BitVec 3) (p : Bool) (s : State) : Result := kop (.kandn d a b p) (fun x y => x &&& ~~~y) (fun x y => x && !y) d a b p s

/-- KNOT (R118). -/
def execKnot (d a : BitVec 3) (p : Bool) (s : State) : Result := kop (.knot d a p) (fun x _ => ~~~x) (fun x _ => !x) d a a p s

/-- KMOV (R118). -/
def execKmov (d a : BitVec 3) (p : Bool) (s : State) : Result := kop (.kmov d a p) (fun x _ => x) (fun x _ => x) d a a p s

/-- A group of three scalars as a mask. -/
def State.readMask (s : State) (c : Ctx) (r : Nat) : Lanes :=
  s.readS c.pid c.p (r + 2) ++ (s.readS c.pid c.p (r + 1) ++ s.readS c.pid c.p r)

/-- A mask as three scalars. -/
def maskWords (m : Lanes) : List Word := [maskWord m 0, maskWord m 1, maskWord m 2]

/-- KMOV_FROM_SCALAR (R118). -/
def execKmovFromScalar (d : BitVec 3) (r : BitVec 7) (s : State) : Result :=
  issue (.kmovFromScalar d r) (fun c s => .done (s.writeK c.pid d.toNat (s.readMask c r.toNat))) s

/-- KMOV_TO_SCALAR (R118). -/
def execKmovToScalar (a : BitVec 3) (r : BitVec 7) (s : State) : Result :=
  issue (.kmovToScalar a r) (fun c s => .done (s.writeSs c.pid r.toNat (maskWords (s.readK c.pid a.toNat)))) s

/-- KPOP (R118). -/
def execKpop (a : BitVec 3) (r : BitVec 7) (s : State) : Result :=
  issue (.kpop a r) (fun c s =>
    .done (s.writeS c.pid r.toNat (BitVec.ofNat 32 (lanesOf (s.readK c.pid a.toNat)).length))) s

/-- A flag written from a whole predicate. -/
def kflag (i : Instr) (f : Lanes → Bool) (d a : BitVec 3) (s : State) : Result :=
  issue i (fun c s =>
    .done (s.onPath c.pid fun p => { p with flags := setFlag p.flags d (f (s.readK c.pid a.toNat)) })) s

/-- KANY (R118). -/
def execKany (d a : BitVec 3) (s : State) : Result := kflag (.kany d a) (fun m => m != 0) d a s

/-- KALL (R118). -/
def execKall (d a : BitVec 3) (s : State) : Result := kflag (.kall d a) (fun m => m == BitVec.allOnes 96) d a s

/-! Movement and ballots (R121, R122). -/

/-- What a cross-lane move reads: the lane's value if the lane is present, else 0 (R121). -/
def State.fromLane (s : State) (c : Ctx) (r l : Nat) : Word :=
  if l < 96 ∧ c.p.mask.getLsbD l then s.readV c.pid r l else 0

/-- VSHFL (R122). -/
def execVshfl (d a b : BitVec 7) (s : State) : Result :=
  lanewisePlain (.vshfl d a b) d (fun c s l => s.fromLane c a.toNat (s.readV c.pid b.toNat l).toNat) s

/-- VBFLY (R122). -/
def execVbfly (d a : BitVec 7) (m : BitVec 7) (s : State) : Result :=
  lanewisePlain (.vbfly d a m) d (fun c s l => s.fromLane c a.toNat (l ^^^ m.toNat)) s

/-- VBCAST (R122). -/
def execVbcast (d a : BitVec 7) (n : BitVec 7) (s : State) : Result :=
  lanewisePlain (.vbcast d a n) d (fun c s _ => s.fromLane c a.toNat n.toNat) s

/-- VRFL (R122). -/
def execVrfl (d a : BitVec 7) (s : State) : Result :=
  issue (.vrfl d a) (fun c s =>
    .done (s.writeS c.pid d.toNat (match c.lanes with | l :: _ => s.readV c.pid a.toNat l | [] => 0))) s

/-- VBALLOT (R122). -/
def execVballot (d : BitVec 7) (k : BitVec 3) (s : State) : Result :=
  issue (.vballot d k) (fun c s => .done (s.writeSs c.pid d.toNat (maskWords (s.readK c.pid k.toNat &&& c.p.mask)))) s

/-- VCOUNT (R122). -/
def execVcount (d : BitVec 7) (k : BitVec 3) (s : State) : Result :=
  issue (.vcount d k) (fun c s =>
    .done (s.writeS c.pid d.toNat (BitVec.ofNat 32 (lanesOf (s.readK c.pid k.toNat &&& c.p.mask)).length))) s

/-! Reductions (R123 to R125). -/

/-- The empty-set value of a reduction (R123). -/
def emptyValue (op : RedOp) (t : ElemTy) : Word :=
  match op, t with
  | .min, .i32 => 0x7FFFFFFF#32
  | .min, .n32 => 0xFFFFFFFF#32
  | .min, .f32 => 0x7F800000#32
  | .max, .i32 => 0x80000000#32
  | .max, .n32 => 0
  | .max, .f32 => 0xFF800000#32
  | .and, _ => 0xFFFFFFFF#32
  | .add, _ | .addDet, _ | .or, _ | .xor, _ => 0

/-- A lane value as a reduction reads it: flushed under ftz, a NaN made canonical (R123). -/
def redInput (t : ElemTy) (ftz : Bool) (w : Word) : Word :=
  if t = .f32 then (if isNan32 w then nan32 else flush32 ftz w) else w

/-- One node of a reduction: two values combined, with the events of its rounding. -/
def redNode (op : RedOp) (t : ElemTy) (rnd : Rnd) (ftz : Bool) (a b : Word) : Word × Events :=
  match op, t with
  | .add, .f32 | .addDet, .f32 =>
    let v := FV.add rnd (fin32 ftz a) (fin32 ftz b)
    let r := out32 rnd ftz v.1
    (r.1, r.2 ||| v.2)
  | .add, _ | .addDet, _ => (a + b, evNone)
  | .min, .f32 => (minmax32 false ftz a b, evNone)
  | .max, .f32 => (minmax32 true ftz a b, evNone)
  | .min, .i32 => (if a.toInt ≤ b.toInt then a else b, evNone)
  | .max, .i32 => (if a.toInt ≤ b.toInt then b else a, evNone)
  | .min, .n32 => (if a.toNat ≤ b.toNat then a else b, evNone)
  | .max, .n32 => (if a.toNat ≤ b.toNat then b else a, evNone)
  | .and, _ => (a &&& b, evNone)
  | .or, _ => (a ||| b, evNone)
  | .xor, _ => (a ^^^ b, evNone)

/-- Two partial results of the tree, either of which may be absent (R123). -/
def redJoin (f : Word → Word → Word × Events) : Option (Word × Events) → Option (Word × Events) → Option (Word × Events)
  | none, b => b
  | a, none => a
  | some a, some b =>
    let r := f a.1 b.1
    some (r.1, r.2 ||| a.2 ||| b.2)

/-- The tree over 2^k lanes from `lo` (R123). -/
def tsum (f : Word → Word → Word × Events) (v : Nat → Option Word) : Nat → Nat → Option (Word × Events)
  | 0, lo => (v lo).map fun w => (w, evNone)
  | k + 1, lo => redJoin f (tsum f v k lo) (tsum f v k (lo + 2 ^ k))

/-- A reduction over the active lanes (R123). -/
def reduce (op : RedOp) (t : ElemTy) (rnd : Rnd) (ftz : Bool) (v : Nat → Option Word) : Word × Events :=
  if op = .addDet then binnedSum ftz ((List.range 96).filterMap v)
  else
    let f := redNode op t rnd ftz
    let x := redJoin f (redJoin f (tsum f v 5 0) (tsum f v 5 32)) (tsum f v 5 64)
    x.getD (emptyValue op t, evNone)

/-- The active lanes' values as a reduction reads them. -/
def State.redValues (s : State) (c : Ctx) (a : BitVec 7) (t : ElemTy) (l : Nat) : Option Word :=
  if c.p.mask.getLsbD l then some (redInput t c.mods.ftz (s.readV c.pid a.toNat l)) else none

/-- VRED (R123). -/
def execVred (d a : BitVec 7) (op : RedOp) (t : ElemTy) (s : State) : Result :=
  issue (.vred d a op t) (fun c s =>
    let r := reduce op t c.mods.rnd c.mods.ftz (s.redValues c a t)
    .done ((s.writeS c.pid d.toNat r.1).countLanes c [r.2])) s

/-- Whether `a` comes before `b` in the order of vredmi. -/
def miLess (t : ElemTy) (a b : Word) : Bool :=
  match t with
  | .i32 => decide (a.toInt < b.toInt)
  | .n32 => decide (a.toNat < b.toNat)
  | .f32 => !isNan32 a && (isNan32 b || decide (orderKey a < orderKey b))

/-- The minimum of lane values and the lowest lane that holds it (R124). -/
def minIndex (t : ElemTy) : List (Nat × Word) → Option (Nat × Word)
  | [] => none
  | x :: xs =>
    match minIndex t xs with
    | none => some x
    | some y => if miLess t y.2 x.2 then some y else some x

/-- VREDMI (R124). -/
def execVredmi (d a : BitVec 7) (t : ElemTy) (s : State) : Result :=
  issue (.vredmi d a t) (fun c s =>
    let r := (minIndex t (c.lanes.map fun l => (l, redInput t c.mods.ftz (s.readV c.pid a.toNat l)))).getD
      (0x7F, emptyValue .min t)
    .done (s.writeSs c.pid d.toNat [r.2, BitVec.ofNat 32 r.1])) s

/-- The running reduction: for each lane the value at it and the events of the step that made that value. -/
def scanFrom (f : Word → Word → Word × Events) : Option (Word × Events) → List (Nat × Word) →
    List (Nat × Option (Word × Events) × (Word × Events))
  | _, [] => []
  | acc, (l, v) :: vs =>
    let now := match acc with
      | none => (v, evNone)
      | some a => f a.1 v
    (l, acc, now) :: scanFrom f (some now) vs

/-- The prefixes of a list, each with its lane: what comes before it, and what it includes. -/
def prefixes : List Word → List (Nat × Word) → List (Nat × List Word × List Word)
  | _, [] => []
  | acc, (l, v) :: vs => (l, acc, acc ++ [v]) :: prefixes (acc ++ [v]) vs

/-- VSCAN (R125). -/
def execVscan (d a : BitVec 7) (op : RedOp) (t : ElemTy) (x : Bool) (s : State) : Result :=
  issue (.vscan d a op t x) (fun c s =>
    let vs := c.lanes.map fun l => (l, redInput t c.mods.ftz (s.readV c.pid a.toNat l))
    let rs : List (Nat × Word × Events) :=
      if op = .addDet then
        (prefixes [] vs).map fun e => (e.1, binnedSum c.mods.ftz (if x then e.2.1 else e.2.2))
      else
        (scanFrom (redNode op t c.mods.rnd c.mods.ftz) none vs).map fun e =>
          (e.1, if x then e.2.1.getD (emptyValue op t, evNone) else e.2.2)
    .done ((s.putLanes c.pid d.toNat (rs.map fun r => (r.1, r.2.1))).countLanes c (rs.map (·.2.2)))) s

/-! Pixel quads (R126, R127). -/

/-- The partner of a lane, if it is valid (R127). -/
def State.partner (s : State) (c : Ctx) (l : Nat) (lo : Nat) : Option Nat :=
  let n := (s.nbrOf c.pid l).toNat
  let q := fld n lo 7
  if fld n 31 1 = 1 ∧ q < 96 ∧ c.p.mask.getLsbD q then some q else none

/-- The predicate bits of the active lanes: 1 where the partner is not valid. -/
def State.markPartners (s : State) (c : Ctx) (k : BitVec 3) (lo : Nat) : State :=
  s.writeCompare c k .write fun l => (s.partner c l lo).isNone

/-- Where a partner's field lies in sr.nbr (R126). -/
def partnerField : NbrSel → Nat
  | .x => 16
  | .y => 8
  | .diagonal => 0

/-- VNBR (R127). -/
def execVnbr (d a : BitVec 7) (q : NbrSel) (k : BitVec 3) (s : State) : Result :=
  issue (.vnbr d a q k) (fun c s =>
    let rs := c.lanes.map fun l => (l, s.readV c.pid a.toNat ((s.partner c l (partnerField q)).getD l))
    .done ((s.markPartners c k (partnerField q)).putLanes c.pid d.toNat rs)) s

/-- A difference within a quad: the odd lane's value less the even lane's (R127). -/
def quadDiff (i : Instr) (lo odd : Nat) (d a : BitVec 7) (k : BitVec 3) (s : State) : Result :=
  issue i (fun c s =>
    let rs := c.lanes.map fun l =>
      match s.partner c l lo with
      | none => (l, 0#32, evNone)
      | some q =>
        let me := c.f32 s a.toNat l
        let other := c.f32 s a.toNat q
        let isOdd := fld (s.nbrOf c.pid l).toNat odd 1 = 1
        let r := c.out (if isOdd then FV.add c.mods.rnd me other.neg else FV.add c.mods.rnd other me.neg)
        (l, r.1, r.2)
    .done (((s.markPartners c k lo).putLanes c.pid d.toNat (rs.map fun r => (r.1, r.2.1))).countLanes c
      (rs.map (·.2.2)))) s

/-- VDDX (R127). -/
def execVddx (d a : BitVec 7) (k : BitVec 3) (s : State) : Result := quadDiff (.vddx d a k) 16 29 d a k s

/-- VDDY (R127). -/
def execVddy (d a : BitVec 7) (k : BitVec 3) (s : State) : Result := quadDiff (.vddy d a k) 8 30 d a k s

end Sys2Proof.Machine
end

