-- ==== Sys2Proof/Machine/Flits.lean ====
section
/-! DEFINITION. The 128-bit header of a flit: its fields and their places (R349). -/

namespace Sys2Proof

/-- An endpoint's number, as bits [16:6], [5:4] and [3:0]. -/
def Endpoint.number (e : Endpoint) : Nat := (e.module * 4 + e.die) * 16 + e.ctx

/-! The header of a flit (R349). -/

/-- The code of a flit's type. -/
def FlitKind.code : FlitKind → Nat
  | .data => 1
  | .ack => 2
  | .write => 3
  | .wack => 4
  | .pause => 5
  | .resume => 6
  | .close => 7
  | .reserved => 0

/-- The type that a code names. -/
def flitKind (n : Nat) : FlitKind :=
  match n with
  | 1 => .data
  | 2 => .ack
  | 3 => .write
  | 4 => .wack
  | 5 => .pause
  | 6 => .resume
  | 7 => .close
  | _ => .reserved

/-- The module number in a flit's header: this package's own is free (log entry 27). -/
def moduleBits (m : Nat) : Nat := if m = Config.here then Config.ownModule.toNat else m

/-- The module that a number in a header names. -/
def moduleNumbered (n : Nat) : Nat := if n = Config.ownModule.toNat then Config.here else n

/-- The sixteen bits of an endpoint in a header: module [9:0], die [11:10] and context [15:12]. -/
def Endpoint.bits (e : Endpoint) : Nat := moduleBits e.module + e.die * 2 ^ 10 + e.ctx * 2 ^ 12

def endpointOfBits (n : Nat) : Endpoint := ⟨moduleNumbered (n % 2 ^ 10), fld n 10 2, fld n 12 4⟩

/-- Bits [127:64] of a header. -/
def Flit.body (f : Flit) : Nat :=
  match f.kind with
  | .data => f.chunk + f.index * 2 ^ 32
  | .write => f.addr + (f.payload.length - 1) * 2 ^ 52
  | .ack | .wack | .pause | .resume | .close | .reserved => 0

/-- The 128-bit header of a flit whose reserved bits are zero. -/
def Flit.header (f : Flit) : BitVec 128 :=
  BitVec.ofNat 128 (f.kind.code + f.cls * 2 ^ 4 + f.dst.bits * 2 ^ 8 + f.src.bits * 2 ^ 24 + f.ch * 2 ^ 40 + f.body * 2 ^ 64)

/-- Whether a header's reserved bits are zero. -/
def headerClean (n : Nat) : Bool :=
  fld n 6 2 == 0 && fld n 44 20 == 0 && (match flitKind (fld n 0 4) with
    | .data => fld n 112 16 == 0
    | .write => fld n 124 4 == 0
    | .ack | .wack | .pause | .resume | .close | .reserved => fld n 64 64 == 0)

/-- The flit that a header and a payload of 256 bytes make. -/
def flitOfHeader (h : BitVec 128) (payload : List Byte) : Flit :=
  let n := h.toNat
  let k := flitKind (fld n 0 4)
  { kind := k, clean := headerClean n, cls := fld n 4 2, ch := fld n 40 4, src := endpointOfBits (fld n 24 16),
    dst := endpointOfBits (fld n 8 16), chunk := if k = .data then fld n 64 32 else 0, index := if k = .data then fld n 96 16 else 0,
    addr := if k = .write then fld n 64 52 else 0,
    payload := match k with
      | .data => payload.take 256
      | .write => payload.take (fld n 116 8 + 1)
      | _ => [] }

/-- Whether a flit's fields fit its header. -/
def Flit.fits (f : Flit) : Bool :=
  let end_ (e : Endpoint) : Bool := decide (e.module ≤ Config.here) && decide (e.die < 4) && decide (e.ctx < 16)
  decide (f.cls < 4) && decide (f.ch < 16) && end_ f.src && end_ f.dst && decide (f.chunk < 2 ^ 32) && decide (f.index < 2 ^ 16)
    && decide (f.addr < 2 ^ 52) && decide (f.payload.length ≤ 256)

end Sys2Proof
end

