-- ==== Sys2Proof/Machine/Memory.lean ====
section
/-! DEFINITION. Addresses, loads, stores, atomics, puts and fences at issue (R128 to R140, R147, R149, R158, R373, R374). Data
moves in the completion events. -/

namespace Sys2Proof.Machine

/-! Addresses (R26, R128). -/

/-- A base, an index and an offset as a 64-bit address (R26). -/
def addrOf (base : DWord) (index : Nat) (off : Int) : Nat := wrapInt 64 ((base.toNat : Int) + index + off)

/-- The offset that a bundle's pfx words give to an instruction without an immediate (R20). -/
def Ctx.byteOffset (c : Ctx) : Int := widened c.pfx 0 0

/-- The pin that a path's .v accesses use (R147, R158). -/
def State.pinOf (s : State) (pid : Nat) : Option Pin := (s.wave (s.waveOf pid)).bind (·.pin)

/-- An address redirected to the pinned buffer (R147). -/
def Pin.redirect (p : Pin) (a : Nat) : Nat :=
  if p.version.toNat % 2 = 1 then (BitVec.ofNat 64 a + p.delta).toNat else a

/-- Where an `n`-byte access arrives in a space (R128). -/
def State.reachSpace (s : State) (c : Ctx) (sp : Space) (acc : Access) (n a : Nat) : Reach :=
  match sp with
  | .g | .v => s.reach c.core acc a
  | .s =>
    match s.blockOf c.pid with
    | some b => if b.scratch < a + n then .fault 5 else .at_ (.sram b.core (b.base + a))
    | none => .fault 5
  | .c =>
    let core := clusterOf c.core * 4 + a / 1048576
    let off := a % 1048576
    if 4194304 ≤ a then .fault 5
    else if s.run.blocks.any fun e =>
        e.2.core == core && decide (e.2.base ≤ off) && decide (off + n ≤ e.2.base + e.2.scratch) then .at_ (.sram core off)
    else .fault 5

/-! The checks of R130. -/

/-- One lane's access: the address that sr.eaux reports, and where it arrives. -/
structure LaneAcc where
  lane : Nat
  addr : Nat
  loc : Loc
deriving DecidableEq, Repr

/-- What the checks find. -/
inductive Checked
  | ok (accs : List LaneAcc)
  | trap (cause addr : Nat) (lane : Option Nat)
  | wait (w : WaitFor)
deriving DecidableEq, Repr

/-- Lanes that arrive, each with its place. -/
def arrived : List (Nat × Nat × Reach) → List LaneAcc
  | [] => []
  | (l, a, .at_ x) :: rs => ⟨l, a, x⟩ :: arrived rs
  | _ :: rs => arrived rs

/-- The first lane that meets a cause. -/
def firstFault (cause : Nat) (rs : List (Nat × Nat × Reach)) : Option (Nat × Nat × Reach) :=
  rs.find? fun r => r.2.2 == .fault cause

/-- The checks of an access by every lane, before any lane takes effect (R130); a lane whose page is being moved waits before a cause
that it could still come before is raised (R340). `vec` says that lanes raise causes alone. -/
def State.checkAll (s : State) (c : Ctx) (sp : Space) (acc : Access) (n : Nat) (vec : Bool) (as : List (Nat × Nat)) :
    Checked :=
  let name (l : Nat) : Option Nat := if vec then some l else none
  match as with
  | [] => .ok []
  | (l0, a0) :: _ =>
    if sp = .v ∧ (s.pinOf c.pid).isNone then .trap 0x13 a0 (name l0)
    else
      let bs : List (Nat × Nat) :=
        match s.pinOf c.pid with
        | some p => if sp = Space.v then as.map (fun (x : Nat × Nat) => (x.1, p.redirect x.2)) else as
        | none => as
      match bs.find? fun (x : Nat × Nat) => x.2 % n != 0 with
      | some x => .trap 0x03 x.2 (name x.1)
      | none =>
        let rs : List (Nat × Nat × Reach) := bs.map fun (x : Nat × Nat) => (x.1, x.2, s.reachSpace c sp acc n x.2)
        let moving (xs : List (Nat × Nat × Reach)) : Bool := xs.any fun x => x.2.2 == Reach.wait
        match firstFault 4 rs with
        | some x => if moving (rs.takeWhile (· != x)) then .wait .translation else .trap 0x04 x.2.1 (name x.1)
        | none =>
          if moving rs then .wait .translation
          else
            match firstFault 5 rs with
            | some x => .trap 0x05 x.2.1 (name x.1)
            | none =>
              let accs := arrived rs
              match accs.find? fun x => s.mustWait x.loc with
              | some x => .wait (.line (s.ownerPc c.core x.loc))
              | none =>
                match s.unseenStore c.pid (accs.map fun x => x.loc.span n).flatten with
                | some o => .wait (.line o.pc)
                | none => .ok accs

/-! Watchpoints at issue (R373, R374). -/

/-- The first byte that a range of addresses has in a range of granules. -/
def overlapFirst (a n lo hi : Nat) : Option Nat := if max a lo < min (a + n) hi then some (max a lo) else none

/-- The first byte of one access that a watchpoint of a cluster matches, as a .g virtual address or a .c address (R373). -/
def Watchpoint.first (w : Watchpoint) (cluster : Nat) (x : LaneAcc) (n : Nat) : Option Nat :=
  let ctl := w.ctl.toNat
  let lo := w.adr.toNat / 8 * 8
  let len := 8 * (fld ctl 0 8 + 1)
  match x.loc with
  | .sram core off =>
    if fld ctl 30 1 = 1 ∧ core = cluster * 4 + fld ctl 28 2 then
      (overlapFirst off n lo (lo + len)).map fun b => core % 4 * 1048576 + b
    else none
  | .phys _ | .comp _ _ | .remote _ _ => if fld ctl 30 1 = 0 then overlapFirst x.addr n lo (lo + len) else none
  | .bdeck _ => none

/-- A match: the watchpoint, its action, its first matching byte and the lane of that byte. -/
structure Match where
  wp : Nat
  act : Nat
  addr : Nat
  lane : Nat
deriving DecidableEq, Repr

/-- The armed watchpoints of a core's cluster that an access of this kind matches, each once (R373). -/
def State.matchesOf (s : State) (core kind n : Nat) (accs : List LaneAcc) : List Match :=
  let cluster := clusterOf core
  (s.cluster cluster).watch.filterMap fun e =>
    let ctl := e.2.ctl.toNat
    if fld ctl 31 1 = 1 ∧ fld ctl (24 + kind) 1 = 1 then
      (accs.findSome? fun x => (e.2.first cluster x n).map fun b => (b, x.lane)).map fun b =>
        ⟨e.1, fld ctl 22 2, b.1, b.2⟩
    else none

/-- What a hit of this instruction will record (R359). -/
def Ctx.watch (c : Ctx) (s : State) (kind : Nat) (ms : List Match) : Option Watch :=
  if ms.isEmpty then none
  else
    let slot := match s.helper c.pid with | some h => h.lender % 32 | none => c.pid / 4 % 32
    some
      { cluster := clusterOf c.core,
        src := BitVec.ofNat 64 (kind * 2 ^ 58 + c.core % 4 * 2 ^ 56 + slot * 2 ^ 51
          + (if c.helper then 0 else c.pid % 4) * 2 ^ 49 + c.first),
        hlp := BitVec.ofNat 32 (if c.helper then 2 ^ 31 + (c.pid - helperBase) % 16 else 0),
        hits := ms.map fun m => (m.wp, m.addr) }

/-- The hits of trap-action watchpoints counted. -/
def State.countTraps (s : State) (cluster : Nat) (ms : List Match) : State :=
  s.setCluster cluster { s.cluster cluster with
    watch := (s.cluster cluster).watch.map fun e =>
      if ms.any fun m => m.wp == e.1 then (e.1, { e.2 with hits := min (e.2.hits + 1) 0xFFFFFFFF }) else e }

/-- An access that passed its checks: a trap-action match prevents it, all matches of one that goes on go with it, those of an access
exempt from the trap too (R373, R374). -/
def watched (c : Ctx) (s : State) (kind n : Nat) (vec : Bool) (accs : List LaneAcc) (k : List Match → Fate) : Fate :=
  let ms := s.matchesOf c.core kind n accs
  let traps := if c.p.exempt then [] else ms.filter fun m => m.act == 1
  match traps with
  | t :: _ =>
    .trapIn (s.countTraps (clusterOf c.core) traps) 0x0D (BitVec.ofNat 64 t.addr) (if vec then some t.lane else none)
  | [] => k ms

/-- The shared shape of an access: its checks, its watchpoints, then its effect. -/
def access (c : Ctx) (s : State) (sp : Space) (acc : Access) (kind n : Nat) (vec : Bool) (as : List (Nat × Nat))
    (k : List LaneAcc → List Match → Fate) : Fate :=
  match s.checkAll c sp acc n vec as with
  | .trap cause a lane =>
    if cause = 4 ∧ kind = 0 ∧ (sp = .g ∨ sp = .v) then .pageFault a lane else .trap cause (BitVec.ofNat 64 a) lane
  | .wait w => .wait s w
  | .ok accs => watched c s kind n vec accs (k accs)

/-- The addresses of the active lanes (R26, R133). -/
def State.laneAddrs (s : State) (c : Ctx) (a sa : BitVec 7) : List (Nat × Nat) :=
  let base := s.readS64 c.pid c.p sa.toNat
  c.lanes.map fun l => (l, addrOf base (s.readV c.pid a.toNat l).toNat c.byteOffset)

/-- The address of a scalar access: an offset in units of its size (R26, R134). -/
def State.scalarAddr (s : State) (c : Ctx) (sa size : Nat) (off : BitVec 7) : Nat :=
  addrOf (s.readS64 c.pid c.p sa) 0 (widened c.pfx 7 off.toNat * size)

/-- sr.eaux of 0x02 for a vector access: A of the lowest active lane, where its registers can be read (R15, R130). -/
def vecAux (a sa : BitVec 7) (c : Ctx) (s : State) : Option DWord :=
  if s.boundsBad c.pid c.wid ⟨[(a.toNat, 1)], [], [], []⟩ then none
  else (s.laneAddrs c a sa).head?.map fun x => BitVec.ofNat 64 x.2

/-! Loads (R129, R133 to R136). -/

/-- The registers that a loaded number fills (R129). -/
def loadedWords (w : MemWidth) (v : Nat) : List Word :=
  match w with
  | .n8 | .n16 | .b32 => [BitVec.ofNat 32 v]
  | .i8 => [BitVec.ofNat 32 (wrapInt 32 (signedOf 8 v))]
  | .i16 => [BitVec.ofNat 32 (wrapInt 32 (signedOf 16 v))]
  | .b64 => [BitVec.ofNat 32 v, BitVec.ofNat 32 (v / 2 ^ 32)]
  | .b128 => [BitVec.ofNat 32 v, BitVec.ofNat 32 (v / 2 ^ 32), BitVec.ofNat 32 (v / 2 ^ 64), BitVec.ofNat 32 (v / 2 ^ 96)]

/-- The held bytes that a path's own load sees, of those it reads (R80, R158). -/
def State.overlay (s : State) (pid n : Nat) (accs : List LaneAcc) : List (Nat × Loc × Byte) :=
  (accs.map fun x =>
    let held := s.heldCells pid x.lane
    if held.isEmpty then []
    else (x.loc.span n).filterMap fun b => (held.find? fun h => h.1 == b).map fun h => (x.lane, b, h.2)).flatten

/-- An operation that an instruction issues. -/
def Ctx.op (c : Ctx) (cls : OpClass) (dest : Dest) (mask : Lanes) (kind : OpKind) (w : Option Watch) : Op :=
  { id := 0, owner := c.owner, pid := c.pid, pc := c.p.pc, first := c.first, sys := c.p.sys, cls := cls, dest := dest, mask := mask,
    kind := kind, done := false, dropped := false, vas := [], watch := w, after := [], seen := none, own := false, due := 0, far := 0,
    got := [], slots := 0 }

/-- The cycle in which a scratchpad access is performed at its own core's bank, the one after its issue, or at another core's, 20 cycles
after it; an access that writes follows the path's earlier scratchpad loads and atomics (R319, R356; log entry 112). Zero where it
reaches no such bank. -/
def State.bankDue (s : State) (c : Ctx) (kind : OpKind) (own : Bool) : Nat :=
  if !(kind.touches.any fun l => match l with | .sram k _ => (k == c.core) == own | _ => false) then 0
  else
    let at_ := c.now s + (if own then 1 else 20)
    let before := s.priorOf c.pid
    if kind.changes then
      (s.ops.filter fun o => !o.done && before.contains o.id && o.kind.kinds &&& 10 != 0).foldl (fun d o => max d (max o.due o.far + 1)) at_
    else at_

/-- A load, store or atomic issued. -/
def State.addAccess (s : State) (c : Ctx) (o : Op) : State :=
  s.addOp { o with due := s.bankDue c o.kind true, far := s.bankDue c o.kind false }

/-- An operation with the addresses of its places. -/
def Op.withVas (o : Op) (accs : List LaneAcc) : Op := { o with vas := accs.map fun x => (x.loc, x.addr) }

/-- Whether a lane of a splitting load belongs to H: its bytes are in the core's L1, which is open, and nothing stands
between them and the lane (R136, log entry 9). -/
def State.hitsL1 (s : State) (c : Ctx) (n : Nat) (x : LaneAcc) : Bool :=
  Config.l1Present s.free (x.addr / 128) && !s.spanBad x.loc n
    && (s.touchedBefore c.pid (x.loc.span n)).isNone
    && !(x.loc.span n).any s.locBad

/-- The lanes' values written at once. -/
def State.loadNow (s : State) (c : Ctx) (d n : Nat) (w : MemWidth) (accs : List LaneAcc) : State :=
  let held := s.overlay c.pid n accs
  let byte (l : Nat) (b : Loc) : Byte :=
    match held.find? fun h => h.1 == l && h.2.1 == b with
    | some h => h.2.2
    | none => (s.readLoc b).getD 0
  let vs := (accs.map fun x =>
    (loadedWords w (numOf ((x.loc.span n).map (byte x.lane)))).zipIdx.map fun v => (vkey c.owner (d + v.2) x.lane, v.1)).flatten
  { s with run := { s.run with vregs := tsets s.run.vregs vs } }

/-- A load issued as one operation. -/
def plainLoad (c : Ctx) (s : State) (d : Nat) (w : MemWidth) (accs : List LaneAcc) (ms : List Match) : Fate :=
  .done (s.addAccess c ((c.op .ld (.vector d w.regs) c.p.mask
    (.load w (accs.map fun x => (x.lane, x.loc)) (s.overlay c.pid w.bytes accs)) (c.watch s 0 ms)).withVas accs))

/-- A splitting load: the lanes that hit go on with their data, the others wait as a new path (R136). -/
def splitLoad (c : Ctx) (s : State) (d : Nat) (w : MemWidth) (accs : List LaneAcc) (ms : List Match) (q : Nat) : Fate :=
  let hit := accs.filter (s.hitsL1 c w.bytes)
  let miss := accs.filter fun x => !s.hitsL1 c w.bytes x
  let s := s.takeFree
  if hit.isEmpty ∨ miss.isEmpty then plainLoad c s d w accs ms
  else
    let mm := maskOf (miss.map (·.lane))
    let hm := maskOf (hit.map (·.lane))
    let s1 := (s.traceSync c.pid).loadNow c d w.bytes w hit
    let op := (c.op .ld (.vector d w.regs) mm
      (.load w (miss.map fun x => (x.lane, x.loc)) (s.overlay c.pid w.bytes miss)) (c.watch s 0 ms)).withVas miss
    let child : Path := { c.p.child c.nextPc mm (c.now s + 1) with st := .waiting, wait := .data s.nextOp }
    let s2 := ((s1.setPath q child).addOpAfter (s.priorOf c.pid) { op with pid := q }).onPath c.pid fun p => { p with mask := hm }
    .done s2

/-- VLD (R133, R136). -/
def execVld (d a sa : BitVec 7) (w : MemWidth) (sp : Space) (s : State) : Result :=
  issueWith (.vld d a sa w sp) (vecAux a sa) (fun c s =>
    access c s sp ⟨c.p.sys, false, false⟩ 0 w.bytes true (s.laneAddrs c a sa) fun accs ms =>
      if accs.isEmpty then .done s
      else
        let slot := if c.mods.split && !c.helper && c.mods.cpol != 3 && (sp == .g || sp == .v)
          then (s.freeSlots (c.pid / 4)).head? else none
        match slot with
        | some q => splitLoad c s d.toNat w accs ms q
        | none => plainLoad c s d.toNat w accs ms) s

/-- SLD (R134). -/
def execSld (d : BitVec 7) (a : BitVec 6) (o : BitVec 7) (w : MemWidth) (sp : Space) (s : State) : Result :=
  issue (.sld d a o w sp) (fun c s =>
    let lane := (lowestLane c.p.mask).getD 96
    access c s sp ⟨c.p.sys, false, false⟩ 0 w.bytes false [(lane, s.scalarAddr c (2 * a.toNat) w.bytes o)] fun accs ms =>
      .done (s.addAccess c ((c.op .ld (.scalar d.toNat w.regs) c.p.mask
        (.load w (accs.map fun x => (x.lane, x.loc)) (s.overlay c.pid w.bytes accs)) (c.watch s 0 ms)).withVas accs))) s

/-! Stores (R131, R133, R134, R158, R291). -/

/-- The bytes that a lane stores. -/
def storeCells (n v : Nat) (x : LaneAcc) : List (Loc × Byte) := (x.loc.span n).zip (bytesOf n v)

/-- A number in consecutive vector registers of a lane, lowest first. -/
def State.readVs (s : State) (pid r l : Nat) : Nat → Nat
  | 0 => 0
  | k + 1 => (s.readV pid r l).toNat + 2 ^ 32 * s.readVs pid (r + 1) l k

/-- A number in consecutive scalar registers, lowest first. -/
def State.readSs (s : State) (pid : Nat) (p : Path) (r : Nat) : Nat → Nat
  | 0 => 0
  | k + 1 => (s.readS pid p r).toNat + 2 ^ 32 * s.readSs pid p (r + 1) k

/-- Each helper lane's store taken into escrow. -/
def State.holdStores (s : State) (c : Ctx) (ms : List Match) : List (Nat × List (Loc × Byte)) → State
  | [] => s
  | (l, cs) :: ls =>
    (({ s with nextOp := s.nextOp + 1 } : State).holdEntry c.pid l
      (.store s.nextOp cs (c.watch s 1 (ms.filter fun m => m.lane == l)))).holdStores c ms ls

/-- Stores that the open regions of a wave's paths hold (R80, R291). -/
def State.regionStores (s : State) (wid : Nat) : Nat :=
  ((s.pathsOf wid).map fun q => match q.2.region with | some r => r.stores.length | none => 0).sum

/-- A store: held with its iteration in a helper, held by an open region while the wave's escrow has room, else issued. A held store leaves
st at once, but not before the path's earlier ones (R157, R226). -/
def storeFate (c : Ctx) (s : State) (ms : List Match) (byLane : List (Nat × List (Loc × Byte))) : Fate :=
  let cells := (byLane.map (·.2)).flatten
  let w := c.watch s 1 ms
  let op := c.op .st .none c.p.mask (.store cells) w
  if c.helper then helperDone c (s.holdStores c ms byLane)
  else
    match c.p.region with
    | none => .done (s.addAccess c op)
    | some r =>
      let room := match s.wave c.wid with | some v => decide (s.regionStores c.wid < v.reservation) | none => false
      if room then
        .done (((s.addOp { op with kind := .store [], done := true, watch := none }).prune).onPath c.pid fun p =>
          { p with region := some { r with stores := r.stores ++ [⟨s.nextOp, cells, w⟩] } })
      else
        match s.pendingLoad c.pid with
        | some pc => .wait s (.counter pc)
        | none => .done ((s.commitRegion c.pid).addAccess c op)

/-- VST (R133). -/
def execVst (d a sa : BitVec 7) (w : MemWidth) (sp : Space) (s : State) : Result :=
  issueWith (.vst d a sa w sp) (vecAux a sa) (fun c s =>
    access c s sp ⟨c.p.sys, true, false⟩ 1 w.bytes true (s.laneAddrs c a sa) fun accs ms =>
      if accs.isEmpty then .done s
      else
        storeFate c s ms (accs.map fun x => (x.lane, storeCells w.bytes (s.readVs c.pid d.toNat x.lane w.regs) x))) s

/-- SST (R134, R158). -/
def execSst (d : BitVec 7) (a : BitVec 6) (o : BitVec 7) (w : MemWidth) (sp : Space) (s : State) : Result :=
  issue (.sst d a o w sp) (fun c s =>
    match (if c.helper then lowestLane c.p.mask else some 96) with
    | none => .done s
    | some lane =>
      access c s sp ⟨c.p.sys, true, false⟩ 1 w.bytes false [(lane, s.scalarAddr c (2 * a.toNat) w.bytes o)] fun accs ms =>
        storeFate c s ms (accs.map fun x => (x.lane, storeCells w.bytes (s.readSs c.pid c.p d.toNat w.regs) x))) s

/-! Atomics (R138). -/

/-- The registers of an atomic's operand and of its result. -/
def AtomOp.operands (a : AtomOp) : Nat := if a = .add64 ∨ a = .cas then 2 else 1
def AtomOp.results (a : AtomOp) : Nat := if a = .add64 then 2 else 1

/-- The space that sp selects. -/
def atomSpace (p : Bool) : Space := if p then .c else .g

/-- The vector form. -/
def vatom (i : Instr) (op : AtomOp) (d a sa : BitVec 7) (p : Bool) (s : State) : Result :=
  issueWith i (vecAux a sa) (fun c s =>
    access c s (atomSpace p) ⟨c.p.sys, true, false⟩ 2 op.bytes true (s.laneAddrs c a sa) fun accs ms =>
      if accs.isEmpty then .done s
      else
        .done (s.addAccess c ((c.op .ld (.vector d.toNat op.results) c.p.mask
          (.atomic op (accs.map fun x => (x.lane, x.loc, BitVec.ofNat 64 (s.readVs c.pid d.toNat x.lane op.operands))))
          (c.watch s 2 ms)).withVas accs))) s

/-- The scalar form. -/
def satom (i : Instr) (op : AtomOp) (d a o : BitVec 7) (p : Bool) (s : State) : Result :=
  issue i (fun c s =>
    access c s (atomSpace p) ⟨c.p.sys, true, false⟩ 2 op.bytes false
        [(96, s.scalarAddr c (a.toNat / 2 * 2) op.bytes o)] fun accs ms =>
      .done (s.addAccess c ((c.op .ld (.scalar d.toNat op.results) c.p.mask
        (.atomic op (accs.map fun x => (x.lane, x.loc, BitVec.ofNat 64 (s.readSs c.pid c.p d.toNat op.operands))))
        (c.watch s 2 ms)).withVas accs))) s

/-- VATOM_ADD_N32 (R138). -/
def execVatomAddN32 (d a sa : BitVec 7) (p : Bool) (s : State) : Result := vatom (.vatomAddN32 d a sa p) .add32 d a sa p s

/-- VATOM_ADD_F32 (R138). -/
def execVatomAddF32 (d a sa : BitVec 7) (p : Bool) (s : State) : Result := vatom (.vatomAddF32 d a sa p) .addF32 d a sa p s

/-- VATOM_MIN_I32 (R138). -/
def execVatomMinI32 (d a sa : BitVec 7) (p : Bool) (s : State) : Result := vatom (.vatomMinI32 d a sa p) .minI d a sa p s

/-- VATOM_MIN_N32 (R138). -/
def execVatomMinN32 (d a sa : BitVec 7) (p : Bool) (s : State) : Result := vatom (.vatomMinN32 d a sa p) .minN d a sa p s

/-- VATOM_MAX_I32 (R138). -/
def execVatomMaxI32 (d a sa : BitVec 7) (p : Bool) (s : State) : Result := vatom (.vatomMaxI32 d a sa p) .maxI d a sa p s

/-- VATOM_MAX_N32 (R138). -/
def execVatomMaxN32 (d a sa : BitVec 7) (p : Bool) (s : State) : Result := vatom (.vatomMaxN32 d a sa p) .maxN d a sa p s

/-- VATOM_AND (R138). -/
def execVatomAnd (d a sa : BitVec 7) (p : Bool) (s : State) : Result := vatom (.vatomAnd d a sa p) .and d a sa p s

/-- VATOM_OR (R138). -/
def execVatomOr (d a sa : BitVec 7) (p : Bool) (s : State) : Result := vatom (.vatomOr d a sa p) .or d a sa p s

/-- VATOM_XOR (R138). -/
def execVatomXor (d a sa : BitVec 7) (p : Bool) (s : State) : Result := vatom (.vatomXor d a sa p) .xor d a sa p s

/-- VATOM_SWAP (R138). -/
def execVatomSwap (d a sa : BitVec 7) (p : Bool) (s : State) : Result := vatom (.vatomSwap d a sa p) .swap d a sa p s

/-- VATOM_CAS (R138). -/
def execVatomCas (d a sa : BitVec 7) (p : Bool) (s : State) : Result := vatom (.vatomCas d a sa p) .cas d a sa p s

/-- VATOM_ADD_N64 (R138). -/
def execVatomAddN64 (d a sa : BitVec 7) (p : Bool) (s : State) : Result := vatom (.vatomAddN64 d a sa p) .add64 d a sa p s

/-- SATOM_ADD_N32 (R138). -/
def execSatomAddN32 (d a o : BitVec 7) (p : Bool) (s : State) : Result := satom (.satomAddN32 d a o p) .add32 d a o p s

/-- SATOM_ADD_F32 (R138). -/
def execSatomAddF32 (d a o : BitVec 7) (p : Bool) (s : State) : Result := satom (.satomAddF32 d a o p) .addF32 d a o p s

/-- SATOM_MIN_I32 (R138). -/
def execSatomMinI32 (d a o : BitVec 7) (p : Bool) (s : State) : Result := satom (.satomMinI32 d a o p) .minI d a o p s

/-- SATOM_MIN_N32 (R138). -/
def execSatomMinN32 (d a o : BitVec 7) (p : Bool) (s : State) : Result := satom (.satomMinN32 d a o p) .minN d a o p s

/-- SATOM_MAX_I32 (R138). -/
def execSatomMaxI32 (d a o : BitVec 7) (p : Bool) (s : State) : Result := satom (.satomMaxI32 d a o p) .maxI d a o p s

/-- SATOM_MAX_N32 (R138). -/
def execSatomMaxN32 (d a o : BitVec 7) (p : Bool) (s : State) : Result := satom (.satomMaxN32 d a o p) .maxN d a o p s

/-- SATOM_AND (R138). -/
def execSatomAnd (d a o : BitVec 7) (p : Bool) (s : State) : Result := satom (.satomAnd d a o p) .and d a o p s

/-- SATOM_OR (R138). -/
def execSatomOr (d a o : BitVec 7) (p : Bool) (s : State) : Result := satom (.satomOr d a o p) .or d a o p s

/-- SATOM_XOR (R138). -/
def execSatomXor (d a o : BitVec 7) (p : Bool) (s : State) : Result := satom (.satomXor d a o p) .xor d a o p s

/-- SATOM_SWAP (R138). -/
def execSatomSwap (d a o : BitVec 7) (p : Bool) (s : State) : Result := satom (.satomSwap d a o p) .swap d a o p s

/-- SATOM_CAS (R138). -/
def execSatomCas (d a o : BitVec 7) (p : Bool) (s : State) : Result := satom (.satomCas d a o p) .cas d a o p s

/-- SATOM_ADD_N64 (R138). -/
def execSatomAddN64 (d a o : BitVec 7) (p : Bool) (s : State) : Result := satom (.satomAddN64 d a o p) .add64 d a o p s

/-! Puts (R149). -/

/-- Bytes of all lanes by virtual address, the higher lane's byte last (R131). -/
def putBytes (n : Nat) : List (LaneAcc × Nat) → Sparse (Loc × Byte) → Sparse (Loc × Byte)
  | [], m => m
  | (x, v) :: xs, m =>
    putBytes n xs (tsets m ((bytesOf n v).zipIdx.map fun b => (x.addr + b.2, (x.loc.plus b.2, b.1))))

/-- Bytes in address order cut into pieces: where the addresses do not follow on, and at each multiple of 256. -/
def cutPieces : Sparse (Loc × Byte) → Option Nat → List (Loc × List Byte) → List (Loc × List Byte)
  | [], _, acc => acc.reverse
  | (a, l, b) :: m, before, acc =>
    match acc with
    | (l0, bs) :: rest =>
      if before = some a ∧ a % 256 ≠ 0 then cutPieces m (some (a + 1)) ((l0, bs ++ [b]) :: rest)
      else cutPieces m (some (a + 1)) ((l, [b]) :: acc)
    | [] => cutPieces m (some (a + 1)) [(l, [b])]

/-- The WRITE flit of a piece for another module (R351); a piece of this package's memory leaves none. -/
def writeFlit (src : Endpoint) (cls : Nat) (l : Loc) (bs : List Byte) : Option Flit :=
  match l with
  | .remote m a => some ⟨.write, true, cls, 0, src, ⟨m, 0, 0⟩, 0, 0, a, bs⟩
  | _ => none

/-- XPUT (R149, R351): the pieces of the put wait in flight until each is acknowledged. -/
def execXput (d a sa : BitVec 7) (w : MemWidth) (k : BitVec 2) (s : State) : Result :=
  issueWith (.xput d a sa w k) (vecAux a sa) (fun c s =>
    access c s .g ⟨c.p.sys, true, true⟩ 1 w.bytes true (s.laneAddrs c a sa) fun accs ms =>
      if accs.isEmpty then .done s
      else
        let pieces := cutPieces
          (putBytes w.bytes (accs.map fun x => (x, s.readVs c.pid d.toNat x.lane w.regs)) []) none []
        let s1 := s.addOp (c.op .cp .none c.p.mask (.put pieces (List.range pieces.length)) (c.watch s 1 ms))
        .done { s1 with
          flits := s1.flits ++ pieces.filterMap fun p => writeFlit ⟨Config.here, dieOf c.core, 0⟩ k.toNat p.1 p.2 }) s

/-! Fences (R139, R140; log entry 10). -/

/-- Whether a core lies in a core's instance of a scope (R5, R320). -/
def inScope (k : Scope) (core other : Nat) : Bool :=
  match k with
  | .wave | .block => core == other
  | .cluster => clusterOf core == clusterOf other
  | .die => dieOf core == dieOf other
  | .package | .system => true

/-- A fence waits for the operations of its kinds. Stores of a fence within the package are not waited for but made visible in its scope,
unless engine commands follow it; one of package or system scope also waits for the stores visible to the path (R139, R320, R323). -/
def fenceFate (c : Ctx) (s : State) (pred succ : Nat) (k : Scope) : Fate :=
  let wide := decide (4 ≤ scopeRank k) || succ &&& 1 != 0
  match (if wide then (s.unperformed c.pid pred).map (·.pc) else s.unfenced c.pid pred) with
  | some pc => .wait s (.counter pc)
  | none =>
    if pred &&& 4 = 0 then .done s
    else if wide then
      match s.ops.find? (s.shownTo c.pid) with
      | some o => .wait s (.counter o.pc)
      | none => .done s
    else .done (s.showIn c.pid k)

/-- FENCE (R139). -/
def execFence (p q : BitVec 4) (k : Scope) (s : State) : Result :=
  issue (.fence p q k) (fun c s => fenceFate c s p.toNat q.toNat k) s

/-- FENCE_OWN (R140): it waits for nothing; a fence.far in whose scope it lies waits for the accesses before it. -/
def execFenceOwn (k : Scope) (s : State) : Result :=
  issue (.fenceOwn k) (fun c s =>
    let before := s.priorOf c.pid
    .done { s with ops := s.ops.map fun (o : Op) =>
      if before.contains o.id && o.kind.kinds &&& 14 != 0 then { o with own := true } else o }) s

/-- FENCE_FAR (R140): also waits until the stores of every core within its scope are performed, and the accesses there that precede a
fence.own. -/
def execFenceFar (k : Scope) (s : State) : Result :=
  issue (.fenceFar k) (fun c s =>
    match s.ops.find? fun o => !o.done && (o.own || o.kind.kinds == 4) && inScope k c.core (coreOf o.pid) with
    | some o => .wait s (.counter o.pc)
    | none => fenceFate c s 14 14 k) s

end Sys2Proof.Machine
end

