-- ==== Sys2Proof/Machine/Isect.lean ====
section
/-! DEFINITION. Intersection queries: the ray and screen-tile hierarchies, the exact tests, the ranking, and the traversal
that answers a query (R177 to R181, R247 to R252). -/

namespace Sys2Proof.Machine

/-! Exact numbers. A finite FP32 value is a multiple of 2^−149. -/

/-- A finite FP32 value in units of 2^−149. -/
def fix149 (w : Word) : Option Int :=
  match fp32.value w.toNat with
  | .fin neg m e => some (scaled neg m e (-149))
  | _ => none

/-- A ratio with a positive denominator, or an infinity. -/
inductive Ext
  | ninf
  | fin (n : Int) (d : Nat)
  | pinf
deriving DecidableEq, Repr

def Ext.le : Ext → Ext → Bool
  | .ninf, _ => true
  | _, .pinf => true
  | .fin a b, .fin c d => decide (a * d ≤ c * b)
  | .fin _ _, .ninf => false
  | .pinf, _ => false

def Ext.max (a b : Ext) : Ext := if Ext.le a b then b else a
def Ext.min (a b : Ext) : Ext := if Ext.le a b then a else b

/-- n / d of integers, with d not 0. -/
def Ext.ofRatio (n d : Int) : Ext := if d < 0 then .fin (-n) d.natAbs else .fin n d.natAbs

/-- An FP32 value that is not NaN. -/
def Ext.ofWord (w : Word) : Ext :=
  match fp32.value w.toNat with
  | .fin neg m e => .fin (scaled neg m e (-149)) (2 ^ 149)
  | .inf true => .ninf
  | _ => .pinf

/-- A ratio rounded once to FP32 under rne. -/
def Ext.round : Ext → Word
  | .ninf => 0xFF800000#32
  | .pinf => 0x7F800000#32
  | .fin n d => (out32 .rne false (ratio (decide (n < 0)) n.natAbs d 0)).1

/-- A rank: distance or depth as rounded to FP32, then triangle index (R177). -/
abbrev Rank := Int × Nat

def Rank.lt (a b : Rank) : Bool := decide (a.1 < b.1) || (a.1 == b.1 && decide (a.2 < b.2))

/-- An accepted hit: t or z as rounded, index, u and v. -/
structure Hit where
  t : Word
  index : Nat
  u : Word
  v : Word
deriving DecidableEq, Repr

def Hit.rank (h : Hit) : Rank := (valueKey h.t, h.index)

/-! Reading the hierarchy. -/

/-- What reading bytes of a hierarchy finds. -/
inductive TreeRead
  | ok (b : List Byte)
  | fault (cause addr : Nat)
  | wait
deriving DecidableEq, Repr

/-- `n` groups of 16 bytes from an address, in the mode of the query's path; a line that an engine owns is waited for (R137). -/
def State.readTree (s : State) (core : Nat) (sys : Bool) : Nat → Nat → TreeRead
  | _, 0 => .ok []
  | a, n + 1 =>
    match s.reach core ⟨sys, false, false⟩ a with
    | .at_ l =>
      if (l.span 16).any s.mustWait then .wait
      else
        (match s.readTree core sys (a + 16) n with
         | .ok b => .ok (s.readSpan l 16 ++ b)
         | r => r)
    | .fault c => .fault c a
    | .absent => .fault 4 a
    | .wait => .wait

/-- How one lane's traversal ends, with the 16-byte groups that it has read. -/
inductive Traversal
  | hit (h : Hit)
  | none
  | fault (cause addr : Nat)
  | wait
deriving DecidableEq, Repr

/-- A number of `n` bytes at an offset. -/
def field (b : List Byte) (o n : Nat) : Nat := numOf ((b.drop o).take n)
def fieldW (b : List Byte) (o : Nat) : Word := BitVec.ofNat 32 (field b o 4)

/-- A 16-byte-aligned range as groups. -/
def groups (a n : Nat) : List Nat := (List.range n).map fun i => a + 16 * i

/-! Triangles (R248, R249). -/

/-- Three exact coordinates. -/
structure Vec where
  x : Int
  y : Int
  z : Int
deriving DecidableEq, Repr

def Vec.sub (a b : Vec) : Vec := ⟨a.x - b.x, a.y - b.y, a.z - b.z⟩
def Vec.cross (a b : Vec) : Vec := ⟨a.y * b.z - a.z * b.y, a.z * b.x - a.x * b.z, a.x * b.y - a.y * b.x⟩
def Vec.dot (a b : Vec) : Int := a.x * b.x + a.y * b.y + a.z * b.z

/-- A point at three consecutive words; none where a coordinate is not finite. -/
def vecOf (b : List Byte) (o : Nat) : Option Vec :=
  match fix149 (fieldW b o), fix149 (fieldW b (o + 4)), fix149 (fieldW b (o + 8)) with
  | some x, some y, some z => some ⟨x, y, z⟩
  | _, _, _ => none

/-- A ray (R178). -/
structure Ray where
  o : Vec
  d : Vec
  tmin : Ext
  tmax : Ext
deriving DecidableEq, Repr

/-- A ray from its eight words; none for a ray that writes no hit (R178). -/
def rayOf (ws : List Word) : Option Ray :=
  let w (i : Nat) : Word := ws.getD i 0
  match fix149 (w 0), fix149 (w 1), fix149 (w 2), fix149 (w 3), fix149 (w 4), fix149 (w 5) with
  | some a, some b, some c, some d, some e, some f =>
    if isNan32 (w 6) || isNan32 (w 7) || (d == 0 && e == 0 && f == 0) || !Ext.le (.ofWord (w 6)) (.ofWord (w 7)) then none
    else some ⟨⟨a, b, c⟩, ⟨d, e, f⟩, .ofWord (w 6), .ofWord (w 7)⟩
  | _, _, _, _, _, _ => none

/-- The exact test of a ray and a triangle, both faces (R249). -/
def Ray.triangle (r : Ray) (b : List Byte) : Option Hit :=
  match vecOf b 0, vecOf b 12, vecOf b 24 with
  | some v0, some v1, some v2 =>
    let e1 := v1.sub v0
    let e2 := v2.sub v0
    let p := r.d.cross e2
    let det := e1.dot p
    if det = 0 then none
    else
      let q := r.o.sub v0
      let sgn : Int := if det < 0 then -1 else 1
      let dd := det * sgn
      let u := q.dot p * sgn
      let v := r.d.dot (q.cross e1) * sgn
      let t := e2.dot (q.cross e1) * sgn
      let te : Ext := .ofRatio t dd
      if u < 0 ∨ v < 0 ∨ dd < u + v ∨ !Ext.le r.tmin te ∨ !Ext.le te r.tmax then none
      else some ⟨te.round, field b 0x24 4, (Ext.ofRatio u dd).round, (Ext.ofRatio v dd).round⟩
  | _, _, _ => none

/-! Ray nodes (R247, R249). -/

/-- A box on one axis. -/
structure Slab where
  lo : Ext
  hi : Ext
deriving DecidableEq, Repr

/-- What a child slot holds: a node, or `count` triangles from an address. -/
inductive ChildKind
  | node (addr : Nat)
  | leaf (addr count : Nat)
deriving DecidableEq, Repr

/-- A child: its kind, slot and box. -/
structure Child where
  kind : ChildKind
  slot : Nat
  box : List Slab
deriving DecidableEq, Repr

/-- A signed exponent byte. -/
def expByte (b : List Byte) (i : Nat) : Int := signedOf 8 (field b (0x0C + i) 1)

/-- A child's box on an axis, its bounds rounded outwards to FP32. -/
def slabOf (b : List Byte) (i axis : Nat) : Slab :=
  let org := fp32.value (field b (4 * axis) 4)
  let bound (rnd : Rnd) (o : Nat) : Ext :=
    Ext.ofWord (out32 rnd false (FV.add rnd org (.fin false (field b (0x28 + 6 * i + o + axis) 1) (expByte b axis))).1).1
  ⟨bound .rdn 0, bound .rup 3⟩

/-- The children of a node; the address of leaf triangles runs on from slot to slot. -/
def childrenFrom (b : List Byte) (cbase : Nat) : List Nat → Nat → List Child
  | [], _ => []
  | i :: is, tri =>
    let sl := field b (0x20 + i) 1
    let box := [slabOf b i 0, slabOf b i 1, slabOf b i 2]
    if sl / 64 = 1 then ⟨.node (cbase + 128 * (sl % 64)), i, box⟩ :: childrenFrom b cbase is tri
    else if sl / 64 = 2 then ⟨.leaf tri (sl % 64), i, box⟩ :: childrenFrom b cbase is (tri + 48 * (sl % 64))
    else childrenFrom b cbase is tri

/-- A node decoded; none where it is malformed (R252). -/
def nodeOf (b : List Byte) : Option (List Child) :=
  let slots := (List.range 8).map fun i => field b (0x20 + i) 1
  if field b 0x0F 1 ≠ 0 ∨ (b.drop 0x58).any (· != 0) ∨ field b 0x10 8 % 128 ≠ 0 ∨ field b 0x18 8 % 16 ≠ 0
      ∨ (slots.any fun x => x / 64 == 3 || x == 128) ∨ ([0, 1, 2].any fun i => decide (expByte b i < -126))
      ∨ ([0, 4, 8].any fun o => (fix149 (fieldW b o)).isNone) then none
  else some (childrenFrom b (field b 0x10 8) (List.range 8) (field b 0x18 8))

/-- The distances at which a ray is inside a slab, which is empty where its bounds cross; none where it never is. -/
def Ray.slab (o d : Int) (s : Slab) : Option (Ext × Ext) :=
  let off (x : Ext) : Ext :=
    match x with
    | .fin n k => .ofRatio (n * 2 ^ 149 - o * k) (d * k)
    | .pinf => if d < 0 then .ninf else .pinf
    | .ninf => if d < 0 then .pinf else .ninf
  if !Ext.le s.lo s.hi then none
  else if d = 0 then
    if Ext.le s.lo (.fin o (2 ^ 149)) && Ext.le (.fin o (2 ^ 149)) s.hi then some (.ninf, .pinf) else none
  else some (Ext.min (off s.lo) (off s.hi), Ext.max (off s.lo) (off s.hi))

/-- The entry distance of a box, if the ray meets it (R249). -/
def Ray.enter (r : Ray) (box : List Slab) : Option Ext :=
  let axis (k : Nat) : Option (Ext × Ext) :=
    Ray.slab (match k with | 0 => r.o.x | 1 => r.o.y | _ => r.o.z) (match k with | 0 => r.d.x | 1 => r.d.y | _ => r.d.z)
      (box.getD k ⟨.ninf, .pinf⟩)
  match axis 0, axis 1, axis 2 with
  | some a, some b, some c =>
    let lo := Ext.max r.tmin (Ext.max a.1 (Ext.max b.1 c.1))
    let hi := Ext.min r.tmax (Ext.min a.2 (Ext.min b.2 c.2))
    if Ext.le lo hi then some lo else none
  | _, _, _ => none

/-- An entry of a lane's stack: where the ray enters it, its slot, what it is, and the node that names it. -/
structure StackEntry where
  dist : Ext
  slot : Nat
  kind : ChildKind
  node : Nat
deriving DecidableEq, Repr

/-- Nearer first, then by slot. -/
def stackLess (a b : StackEntry) : Bool :=
  if Ext.le b.dist a.dist then (Ext.le a.dist b.dist && decide (a.slot < b.slot)) else true

def stackInsert (e : StackEntry) : List StackEntry → List StackEntry
  | [] => [e]
  | x :: xs => if stackLess e x then e :: x :: xs else x :: stackInsert e xs

/-- Whether a box or hit at a distance cannot come before the last accepted hit. -/
def beyondHit (best : Option Hit) (d : Ext) : Bool :=
  match best with
  | some h => decide (valueKey h.t < valueKey d.round)
  | none => false

/-- A hit kept if it ranks after the last one written and before the best so far. -/
def keepHit (after : Option Rank) (best : Option Hit) (h : Option Hit) : Option Hit :=
  match h with
  | none => best
  | some h =>
    if (match after with | some k => Rank.lt k h.rank | none => true)
        && (match best with | some b => Rank.lt h.rank b.rank | none => true) then some h
    else best

/-- The triangles of a leaf tested in turn: the best hit, or the fault of a triangle that cannot be read or is malformed. -/
def State.leafHits (s : State) (core : Nat) (sys : Bool) (test : List Byte → Option Hit) (after : Option Rank) (node : Nat) :
    Nat → Nat → Option Hit → Option Hit × Option Traversal
  | _, 0, best => (best, none)
  | a, n + 1, best =>
    match s.readTree core sys a 3 with
    | .fault c x => (best, some (.fault c x))
    | .wait => (best, some .wait)
    | .ok b =>
      if field b 0x28 8 ≠ 0 then (best, some (.fault 0x13 node))
      else s.leafHits core sys test after node (a + 48) n (keepHit after best (test b))

/-- Depth of a lane's stack (R252). -/
def stackDepth : Nat := 128

/-- The traversal of a ray hierarchy, with the groups read (R249, R252). `fuel` bounds the visits of a hierarchy that never
ends; where it runs out the query does not return (log entry 12). -/
def State.rayTraverse (s : State) (core : Nat) (sys : Bool) (r : Ray) (after : Option Rank) :
    Nat → List StackEntry → Option Hit → List Nat → Traversal × List Nat
  | 0, _, _, seen => (.wait, seen)
  | _ + 1, [], best, seen => ((match best with | some h => .hit h | none => .none), seen)
  | fuel + 1, e :: st, best, seen =>
    if beyondHit best e.dist then s.rayTraverse core sys r after fuel st best seen
    else
      match e.kind with
      | .leaf a n =>
        let x := s.leafHits core sys r.triangle after e.node a n best
        let seen := seen ++ groups a (3 * n)
        (match x.2 with
         | some f => (f, seen)
         | none => s.rayTraverse core sys r after fuel st x.1 seen)
      | .node a =>
        let seen := seen ++ groups a 8
        if a % 128 ≠ 0 then (.fault 0x13 a, seen)
        else
          match s.readTree core sys a 8 with
          | .fault c x => (.fault c x, seen)
          | .wait => (.wait, seen)
          | .ok b =>
            match nodeOf b with
            | none => (.fault 0x13 a, seen)
            | some cs =>
              let kids := (cs.filterMap fun k => (r.enter k.box).map fun d => (⟨d, k.slot, k.kind, a⟩ : StackEntry)).filter
                fun k => !beyondHit best k.dist
              if stackDepth < st.length + kids.length then (.fault 0x13 a, seen)
              else s.rayTraverse core sys r after fuel (kids.foldr stackInsert [] ++ st) best seen

/-! Screen tiles (R250, R251). -/

/-- Twice the signed area of three points. -/
def area2 (ax ay bx by_ cx cy : Int) : Int := (bx - ax) * (cy - ay) - (by_ - ay) * (cx - ax)

/-- Whether the edge from a to b, with third vertex c, is a top or a left edge; y grows downward (R251). -/
def topLeft (ax ay bx by_ cx cy : Int) : Bool :=
  if ay = by_ then decide (ay < cy)
  else if ay < by_ then decide ((cy - ay) * (bx - ax) < (cx - ax) * (by_ - ay))
  else decide ((cx - ax) * (by_ - ay) < (cy - ay) * (bx - ax))

/-- The coverage of a pixel centre by a triangle (R251). -/
def pixelHit (px py : Nat) (b : List Byte) : Option Hit :=
  match vecOf b 0, vecOf b 12, vecOf b 24 with
  | some v0, some v1, some v2 =>
    let cx : Int := (2 * px + 1 : Nat) * 2 ^ 148
    let cy : Int := (2 * py + 1 : Nat) * 2 ^ 148
    let whole := area2 v0.x v0.y v1.x v1.y v2.x v2.y
    if whole = 0 then none
    else
      let sgn : Int := if whole < 0 then -1 else 1
      let d := whole * sgn
      let w0 := area2 v1.x v1.y v2.x v2.y cx cy * sgn
      let u := area2 v2.x v2.y v0.x v0.y cx cy * sgn
      let v := area2 v0.x v0.y v1.x v1.y cx cy * sgn
      let inside (w : Int) (tl : Bool) : Bool := decide (0 < w) || (w == 0 && tl)
      if inside w0 (topLeft v1.x v1.y v2.x v2.y v0.x v0.y) && inside u (topLeft v2.x v2.y v0.x v0.y v1.x v1.y)
          && inside v (topLeft v0.x v0.y v1.x v1.y v2.x v2.y) then
        some ⟨(Ext.ofRatio (w0 * v0.z + u * v1.z + v * v2.z) (d * 2 ^ 149)).round, field b 0x24 4,
          (Ext.ofRatio u d).round, (Ext.ofRatio v d).round⟩
      else none
  | _, _, _ => none

/-- The descent to a pixel's quadrant (R251), with the groups read. -/
def State.tileTraverse (s : State) (core : Nat) (sys : Bool) (px py : Nat) (after : Option Rank) :
    Nat → Nat → List Nat → Traversal × List Nat
  | 0, _, seen => (.wait, seen)
  | fuel + 1, a, seen =>
    let seen := seen ++ groups a 8
    if a % 128 ≠ 0 then (.fault 0x13 a, seen)
    else
      match s.readTree core sys a 8 with
      | .fault c x => (.fault c x, seen)
      | .wait => (.wait, seen)
      | .ok b =>
        let x0 := field b 0 4
        let y0 := field b 4 4
        let sd := field b 8 4
        let quads := (List.range 4).map fun q => field b (0x20 + 4 * q) 4
        let quadBad (w : Nat) : Bool :=
          fld w 30 2 == 3 || (fld w 30 2 == 2 && fld w 24 6 == 0) || (fld w 30 2 == 1 && sd == 0)
        if 16 < sd ∨ field b 0x0C 4 ≠ 0 ∨ (b.drop 0x30).any (· != 0) ∨ field b 0x10 8 % 128 ≠ 0 ∨ field b 0x18 8 % 16 ≠ 0
            ∨ quads.any quadBad then (.fault 0x13 a, seen)
        else if px < x0 ∨ x0 + 2 ^ sd ≤ px ∨ py < y0 ∨ y0 + 2 ^ sd ≤ py then (.none, seen)
        else
          let half (p o : Nat) : Nat := if 2 ^ sd ≤ 2 * (p - o) + 1 then 1 else 0
          let w := quads.getD (half px x0 + 2 * half py y0) 0
          if fld w 30 2 = 1 then s.tileTraverse core sys px py after fuel (field b 0x10 8 + 128 * fld w 0 24) seen
          else if fld w 30 2 = 2 then
            let t := field b 0x18 8 + 48 * fld w 0 24
            let x := s.leafHits core sys (pixelHit px py) after a t (fld w 24 6) none
            let seen := seen ++ groups t (3 * fld w 24 6)
            (match x.2, x.1 with
             | some f, _ => (f, seen)
             | none, some h => (.hit h, seen)
             | none, none => (.none, seen))
          else (.none, seen)

/-! Queries (R177 to R181). -/

/-- Visits after which a traversal is taken never to end (log entry 12). -/
def traversalFuel : Nat := 2 ^ 40

/-- The next hit of a lane's query. -/
def State.answer (s : State) (core : Nat) (sys : Bool) (q : Query) : Traversal × List Nat :=
  let after : Option Rank := q.last.map fun k => (valueKey k.1, k.2.toNat)
  if q.tile then s.tileTraverse core sys (q.words.getD 0 0).toNat (q.words.getD 1 0).toNat after traversalFuel q.root []
  else
    match rayOf q.words with
    | none => (.none, [])
    | some r => s.rayTraverse core sys r after traversalFuel [⟨.ninf, 0, .node q.root, q.root⟩] none []

/-- Query instructions of a cluster whose results are not written (R252). -/
def State.queriesOf (s : State) (cluster : Nat) : Nat :=
  (s.ops.filter fun o => !o.done && clusterOf (coreOf o.pid) == cluster && (match o.kind with | .query _ _ => true | _ => false)).length

/-- Query states set for active lanes. -/
def State.setQueries (s : State) (owner : Nat) (qs : List (Nat × Query)) : State :=
  { s with run := { s.run with queries := tsets s.run.queries (qs.map fun (q : Nat × Query) => (lkey owner q.1, q.2)) } }

/-- A query in flight of an owner for a lane. -/
def Op.queries (o : Op) (owner lane : Nat) : Bool :=
  o.owner == owner && !o.done && o.mask.getLsbD lane && (match o.kind with | .query _ _ => true | _ => false)

/-- The state that a query in flight answers for a lane. -/
def Op.queryState (o : Op) (lane : Nat) : Option Query :=
  match o.kind with
  | .query qs _ => tget qs lane
  | _ => none

/-- The first operation that is younger than the last clearing of a lane's query state (R177). -/
def State.queriesFrom (s : State) (owner lane : Nat) : Nat := tgetD 0 s.run.queryFrom (lkey owner lane)

/-- A lane's query state as an isect.next issued now takes it: that of the latest query in flight since the state was last cleared, else
the lane's own. -/
def State.queryOf (s : State) (owner lane : Nat) : Option Query :=
  match s.ops.reverse.find? fun o => o.queries owner lane && decide (s.queriesFrom owner lane ≤ o.id) with
  | some o => o.queryState lane
  | none => tget s.run.queries (lkey owner lane)

/-- The shared shape of the query instructions: with no active lane nothing happens; a fifth query waits (R181, R252), and so does one
before which a store visible to the path is still to be performed (R320). The states of its lanes, set here by isect.ray and isect.tile,
travel with it, so that a lane which is lent while its query is in flight still receives its answer (R177). -/
def isect (i : Instr) (d : Nat) (next : Bool) (states : Ctx → State → List (Nat × Query)) (s : State) : Result :=
  issue i (fun c s =>
    if c.p.mask = 0 then .done s
    else if 4 ≤ s.queriesOf (clusterOf c.core) then .wait s .hold
    else
      let before := s.priorOf c.pid
      match s.ops.find? fun o => s.shownTo c.pid o && !before.contains o.id with
      | some o => .wait s (.line o.pc)
      | none =>
        let qs := states c s
        let s1 := if next then s else s.setQueries c.owner qs
        .done (s1.addOp (c.op .tl (.vector d 4) c.p.mask (.query qs next) none))) s

/-- The query states that a ray or pixel instruction sets: `n` words a lane from register `a`, the root in a scalar pair. -/
def newQueries (tile : Bool) (n : Nat) (a b : BitVec 7) (c : Ctx) (s : State) : List (Nat × Query) :=
  c.lanes.map fun l =>
    (l, ⟨tile, (List.range n).map fun k => s.readV c.pid (a.toNat + k) l, (s.readS64 c.pid c.p b.toNat).toNat, none⟩)

/-- ISECT_RAY (R178). -/
def execIsectRay (d a b : BitVec 7) (s : State) : Result := isect (.isectRay d a b) d.toNat false (newQueries false 8 a b) s

/-- ISECT_TILE (R179). -/
def execIsectTile (d a b : BitVec 7) (s : State) : Result := isect (.isectTile d a b) d.toNat false (newQueries true 2 a b) s

/-- ISECT_NEXT (R180). -/
def execIsectNext (d : BitVec 7) (s : State) : Result := isect (.isectNext d) d.toNat true (fun c s =>
  c.lanes.filterMap fun l => (s.queryOf c.owner l).map fun q => (l, q)) s

/-- What one lane writes: distance or depth, index, u and v (R177). -/
def resultWords : Traversal → List Word
  | .hit h => [h.t, BitVec.ofNat 32 h.index, h.u, h.v]
  | .fault _ _ => [0x7F800000#32, 0xFFFFFFFE#32, 0, 0]
  | .none | .wait => [0x7F800000#32, 0xFFFFFFFF#32, 0, 0]

end Sys2Proof.Machine
end

