-- ==== Sys2Proof/Machine/Rings.lean ====
section
/-! DEFINITION. Rings in memory: the descriptor, one entry pushed or popped, and the events at which the scheduler reads a
command ring's tail (R141, R142, R262 to R264, R269). -/

namespace Sys2Proof.Machine

/-- How an agent's reads and writes reach memory: whether it writes, and the address. -/
abbrev Reacher := Bool → Nat → Reach

/-- The scheduler and the device's other agents translate through PTROOT in system mode (R269). -/
def State.reachDev (s : State) : Reacher := fun write va =>
  match (s.walkFrom s.dev.ptroot [] va).place ⟨true, write, false⟩ va with
  | .absent => .fault 4
  | r => r

/-- A path's accesses to a queue, in its mode (R142). -/
def State.reachMode (s : State) (core : Nat) (sys : Bool) : Reacher := fun write va => s.reach core ⟨sys, write, false⟩ va

/-- Physical addresses reached as they stand. -/
def reachPhys : Reacher := fun _ pa => if physValid pa then .at_ (.phys pa) else .fault 4

/-- A ring descriptor as read (R141). -/
structure RingDesc where
  loc : Loc
  base : Nat
  lcap : Nat
  head : Nat
  tail : Nat
deriving DecidableEq, Repr

/-- Entries in use, and whether the tail is beyond the capacity. -/
def RingDesc.used (d : RingDesc) : Nat := (d.tail + 2 ^ 32 - d.head) % 2 ^ 32
def RingDesc.beyond (d : RingDesc) : Bool := decide (2 ^ d.lcap < d.used)
/-- The address of entry `i`. -/
def RingDesc.entryAddr (d : RingDesc) (i : Nat) : Nat := (d.base + 32 * (i % 2 ^ d.lcap)) % 2 ^ 64

/-- What reading a descriptor finds. -/
inductive RingRead
  | ok (d : RingDesc)
  | fault (cause addr : Nat)
  | bad
  | wait
deriving DecidableEq, Repr

/-- The descriptor at a place. -/
def State.ringAt (s : State) (l : Loc) : RingRead :=
  let base := s.readNum l 8
  let capWord := s.readNum (l.plus 8) 8
  if capWord = 0 ∨ 20 < capWord ∨ base % 32 ≠ 0 ∨ s.readNum (l.plus 0x18) 8 ≠ 0 then .bad
  else .ok ⟨l, base, capWord, s.readNum (l.plus 0x10) 4, s.readNum (l.plus 0x14) 4⟩

/-- The descriptor at an address. -/
def State.readRing (s : State) (f : Reacher) (write : Bool) (a : Nat) : RingRead :=
  match f write a with
  | .at_ l => s.ringAt l
  | .fault c => .fault c a
  | .absent => .fault 4 a
  | .wait => .wait

/-- The outcome of a push or pop: a wait is for a page that is moving, or for the access of an instruction whose PC it names. -/
inductive RingMove
  | done (s : State) (entry : List Byte)
  | no
  | fault (cause addr : Nat)
  | bad
  | wait (on : Option Nat)

/-- A step on a ring: its descriptor, then the entry that it moves, both free of what their accesses wait for (R137, R142). -/
def State.ringMove (s : State) (f : Reacher) (pid : Option Nat) (a : Nat) (blocked : RingDesc → Bool) (write : Bool)
    (entry : RingDesc → Nat) (move : RingDesc → Loc → State × List Byte) : RingMove :=
  match f true a with
  | .fault c => .fault c a
  | .absent => .fault 4 a
  | .wait => .wait none
  | .at_ dl =>
    match s.heldBy pid (dl.span 32), s.ringAt dl with
    | some pc, _ => .wait (some pc)
    | none, .ok d =>
      if blocked d then .no
      else
        (match f write (entry d) with
         | .at_ l =>
           (match s.heldBy pid (l.span 32) with
            | some pc => .wait (some pc)
            | none =>
              let r := move d l
              .done (r.1.dramTouch (dl.span 32 ++ l.span 32)) r.2)
         | .fault c => .fault c (entry d)
         | .absent => .fault 4 (entry d)
         | .wait => .wait none)
    | none, _ => .bad

/-- One entry pushed by a path or by the device (R142). -/
def State.ringPush (s : State) (f : Reacher) (pid : Option Nat) (a : Nat) (e : List Byte) : RingMove :=
  s.ringMove f pid a (fun d => d.used == 2 ^ d.lcap) true (fun d => d.entryAddr d.tail) fun d l =>
    ((s.writeLocs ((l.span 32).zip e)).writeNum (d.loc.plus 0x14) 4 (d.tail + 1), e)

/-- One entry popped by a path or by the device (R142). -/
def State.ringPop (s : State) (f : Reacher) (pid : Option Nat) (a : Nat) : RingMove :=
  s.ringMove f pid a (fun d => d.used == 0) false (fun d => d.entryAddr d.head) fun d l =>
    (s.writeNum (d.loc.plus 0x10) 4 (d.head + 1), s.readSpan l 32)

/-! Launch records (R265). -/

/-- The launch that a block belongs to. -/
def State.launchOf (s : State) (b : Block) : Option Launch := s.launches.find? fun l => l.id == b.launch

/-- An `n`-byte field of a launch record. -/
def Launch.num (l : Launch) (off n : Nat) : Nat := numOf ((l.record.drop off).take n)

/-- The class, 0 the highest. -/
def Launch.cls (l : Launch) : Nat := fld (l.num 0x20 4) 28 2

/-- The descriptor address that a launch maps to queue n; 0 when it maps none (R265). -/
def Launch.queue (l : Launch) (n : Nat) : Nat :=
  l.num (0xD8 + 6 * (n - 2)) 6 % 2 ^ 44 * 32

/-! Command rings. -/

/-- A ring stopped with a cause (R269). -/
def State.stopRing (s : State) (n cause addr : Nat) (resume : ResumeAs) : State :=
  (s.setRing n { s.ring n with stp := true, cause := cause, err := addr, resume := resume }).interrupt (.ringStopped n)

/-- Whether a value that the host has notified is more than the ring's capacity ahead of its head; one behind the head is not ahead of
it (R264). -/
def RingDesc.notifiedBeyond (d : RingDesc) (tail : Word) : Bool :=
  let ahead := tail - BitVec.ofNat 32 d.head
  !ahead.msb && decide (2 ^ d.lcap < ahead.toNat)

/-- An event at which a ring's tail is read: the descriptor checked, the notified value where `check` says so, and the ring stopped if it
fails (R264, R269). A ring that has already stopped keeps its cause. A read that must wait is owed (R340). -/
def State.ringEvent (s : State) (n : Nat) (check : Bool) : State :=
  let r := { s.ring n with owed := none }
  let check := check || (s.ring n).owed == some true
  let stop (cause addr : Nat) : State := if r.stp then s.setRing n r else (s.setRing n r).stopRing n cause addr .reread
  if r.desc = 0 then s.setRing n r
  else
    match s.reachDev false r.desc with
    | .fault _ | .absent => stop 0x0A r.desc
    | .wait => s.setRing n { r with owed := some check }
    | .at_ l =>
      match s.heldBy none (l.span 32), s.ringAt l with
      | some _, _ => s.setRing n { r with owed := some check }
      | none, .ok d =>
        if (check && d.notifiedBeyond r.notTail) || d.beyond then stop 0x08 (d.entryAddr d.head)
        else (s.setRing n { r with tail := BitVec.ofNat 32 d.tail }).dramTouch (l.span 32)
      | none, _ => stop 0x09 r.desc

/-- Whether a scheduler access to `n` bytes at an address must wait, for a page that is moving or a line that an engine owns (R137,
R340). -/
def State.devWaits (s : State) (write : Bool) (a n : Nat) : Bool :=
  (List.range ((a % 128 + n + 127) / 128)).any fun i =>
    match s.reachDev write (if i = 0 then a else (a / 128 + i) * 128) with
    | .at_ l => s.mustWait l
    | .wait => true
    | .fault _ | .absent => false

/-- The lines of `n` bytes that the scheduler has read at an address counted (R339). -/
def State.touchDev (s : State) (a n : Nat) : State :=
  s.dramTouch ((List.range n).filterMap fun i => match s.reachDev false (a + i) with | .at_ l => some l | _ => none)

/-- A ring moved past the entry at its head, which has been read. -/
def State.ringAdvance (s : State) (n : Nat) : State :=
  if 8 ≤ n then { s with inner := tset s.inner (n - 8) ((tgetD [] s.inner (n - 8)).drop 1) }
  else
    match s.readRing s.reachDev true (s.ring n).desc with
    | .ok d =>
      (((s.setRing n { s.ring n with waiting := false }).writeNum (d.loc.plus 0x10) 4 (d.head + 1)).dramTouch (d.loc.span 32)).touchDev
        (d.entryAddr d.head) 32
    | _ => s.stopRing n 0x0A (s.ring n).desc .reread

/-- What a ring still owes done, if it can be: the move past a rejected entry after its resumption (R269), and the read of its tail. -/
def State.settleRing (s : State) (n : Nat) : State :=
  let r := s.ring n
  if n < 8 && (r.desc == 0 || s.devWaits true r.desc 32) then s
  else
    let s1 := if !r.stp && r.resume == .skip then (s.setRing n { r with resume := .next }).ringAdvance n else s
    if r.owed.isSome then s1.ringEvent n false else s1

/-- A push performed at a place is an event of every ring whose descriptor is there (R264). -/
def State.pushEvent (s : State) (l : Loc) : List Nat → State
  | [] => s
  | n :: ns =>
    let t := if (s.ring n).desc ≠ 0 ∧ s.reachDev false (s.ring n).desc = .at_ l then s.ringEvent n false else s
    t.pushEvent l ns

end Sys2Proof.Machine
end

