-- ==== Sys2Proof/Machine/Queue.lean ====
section
/-! DEFINITION. Queues, the package task queue, the mint and the pin (R141 to R147, R277 to R279). -/

namespace Sys2Proof.Machine

/-! Releases. -/

/-- The PC of the first load, store, atomic or engine command that a mint vote must wait for, those of the path and the stores visible to
it (R146; log entry 10). -/
def State.unreleasedAll (s : State) (pid : Nat) : Option Nat :=
  match s.unperformed pid 15 with
  | some o => some o.pc
  | none => s.unreleased pid

/-- A step that is a release goes on once the path's earlier accesses are performed. -/
def afterRelease (s : State) (pending : Option Nat) (k : Fate) : Fate :=
  match pending with
  | some pc => .wait s (.counter pc)
  | none => k

/-! Queues (R141 to R143). -/

/-- The eight words of an entry. -/
def wordsOf : Nat → List Byte → List Word
  | 0, _ => []
  | n + 1, b => BitVec.ofNat 32 (numOf (b.take 4)) :: wordsOf n (b.drop 4)

/-- A scalar group as bytes. -/
def State.groupBytes (s : State) (c : Ctx) (r n : Nat) : List Byte :=
  ((List.range n).map fun k => bytesOf 4 (s.readS c.pid c.p (r + k)).toNat).flatten

/-- A queue step that succeeded: with .nb the flag says so. -/
def queueDone (c : Ctx) (nb : Bool) (g : BitVec 3) (s : State) : Fate :=
  .done (if nb then s.onPath c.pid fun p => { p with flags := setFlag p.flags g true } else s)

/-- A queue that is full or empty: with .nb the flag says so, else the path waits (R142). -/
def queueFails (c : Ctx) (nb : Bool) (g : BitVec 3) (s : State) : Fate :=
  if nb then .done (s.onPath c.pid fun p => { p with flags := setFlag p.flags g false }) else .wait s .queue

/-- sr.eaux of 0x08 for a queue: its number. -/
def queueTrap (q : BitVec 3) : Fate := .trap 0x08 (q.zeroExtend 64) none

/-- An entry placed in a core's item queue with the next stamp (R143). -/
def State.pushItem (s : State) (core : Nat) (ws : List Word) : State :=
  let k := s.core core
  s.setCore core { k with q0 := k.q0 ++ [(k.itemCounter, ws)], itemCounter := k.itemCounter + 1 }

/-- A step on a mapped queue: its descriptor, then the move (R142). -/
def ringStep (c : Ctx) (s : State) (nb : Bool) (g q : BitVec 3) (move : Nat → RingMove) (after : State → List Byte → State) :
    Fate :=
  match (s.blockOf c.pid).bind s.launchOf with
  | none => queueTrap q
  | some l =>
    let a := l.queue q.toNat
    if q = 1 ∨ a = 0 then queueTrap q
    else
      match s.reachMode c.core c.p.sys true a with
      | .fault cause => .trap cause (BitVec.ofNat 64 a) none
      | .absent => .trap 4 (BitVec.ofNat 64 a) none
      | .wait => .wait s .translation
      | .at_ loc =>
        match s.heldBy (some c.pid) (loc.span 32) with
        | some pc => .wait s (.line pc)
        | none =>
          match move a with
          | .fault cause x => .trap cause (BitVec.ofNat 64 x) none
          | .bad => queueTrap q
          | .wait none => .wait s .translation
          | .wait (some pc) => .wait s (.line pc)
          | .no => queueFails c nb g s
          | .done t e => queueDone c nb g (after t e)

/-- QPUSH (R142, R143): a release at block scope for q0, of package scope for the other queues. -/
def execQpush (nb : Bool) (g q : BitVec 3) (r : BitVec 7) (s : State) : Result :=
  issue (.qpush nb g q r) (fun c s =>
    if q = 0 then
      afterRelease s (s.unfenced c.pid 14)
        (if Config.itemEntries ≤ (s.core c.core).q0.length then queueFails c nb g s
         else
          queueDone c nb g ((s.showIn c.pid .block).pushItem c.core
            ((List.range 8).map fun k => s.readS c.pid c.p (r.toNat + k))))
    else
      afterRelease s (s.unreleased c.pid)
        (ringStep c s nb g q
          (fun a => s.ringPush (s.reachMode c.core c.p.sys) (some c.pid) a (s.groupBytes c r.toNat 8)) fun t _ =>
            match (s.blockOf c.pid).bind s.launchOf with
            | some l =>
              (match s.reachMode c.core c.p.sys true (l.queue q.toNat) with
               | .at_ loc => t.pushEvent loc (List.range 8)
               | _ => t)
            | none => t)) s

/-- QPOP (R142, R143). -/
def execQpop (nb : Bool) (g q : BitVec 3) (r : BitVec 7) (s : State) : Result :=
  issue (.qpop nb g q r) (fun c s =>
    if q = 0 then
      match (s.core c.core).q0 with
      | [] => queueFails c nb g s
      | it :: rest =>
        queueDone c nb g ((s.setCore c.core { s.core c.core with q0 := rest }).writeSs c.pid r.toNat
          ((List.range 8).map fun k => it.2.getD k 0))
    else
      ringStep c s nb g q (fun a => s.ringPop (s.reachMode c.core c.p.sys) (some c.pid) a) fun t e =>
        t.writeSs c.pid r.toNat (wordsOf 8 e)) s

/-- QUEUE_RETRY (R142): a path that waits at a queue tries again. -/
def execQueueRetry (pid : Nat) (s : State) : Result :=
  match s.path pid with
  | some p =>
    if p.st = .waiting ∧ p.wait = .queue then .next (s.setPath pid { p with st := .ready, readyAt := s.icc (coreOf pid) + 1 }) else .next s
  | none => .next s

/-! The task queue (R144, R277 to R279). -/

/-- Head and tail counts of a segment. -/
def State.segment (s : State) (g : Nat) : Nat × Nat := tgetD (0, 0) s.tq g

def State.setSegment (s : State) (g head tail : Nat) : State := { s with tq := tset s.tq g (head, tail) }

/-- Entries that a segment can hold, and the address of its entry i. -/
def State.segEntries (s : State) : Nat := 2 ^ s.dev.tqLseg
def State.segAddr (s : State) (g i : Nat) : Nat := (s.dev.tqbase + 32 * s.segEntries * g + 32 * (i % s.segEntries)) % 2 ^ 49

/-- Segments owned by a core, lower slot first (R277). -/
def coreSegments (core : Nat) : List Nat := [2 * core, 2 * core + 1]

/-- The order in which tq.deq searches, each segment with whether only tasks that may leave their die count (R279). -/
def searchOrder (core : Nat) : List (Nat × Bool) :=
  let own := coreSegments core
  let cl := (List.range 8).map fun i => 8 * (core / 4) + i
  let die := (List.range 64).map fun i => 64 * (core / 32) + i
  let near := own ++ (cl.filter fun g => !own.contains g) ++ (die.filter fun g => !cl.contains g)
  near.map (·, false) ++ ((List.range 256).filter fun g => !die.contains g).map (·, true)

/-- What a segment holds at an index: its entry, a fault with its address, or a wait for a moving page or an owned line. -/
inductive SegRead
  | ok (e : List Byte)
  | fault (cause addr : Nat)
  | wait
deriving DecidableEq, Repr

def State.segReach (s : State) (f : Reacher) (pid : Option Nat) (write : Bool) (g i : Nat) : SegRead :=
  match f write (s.segAddr g i) with
  | .at_ l => if (s.heldBy pid (l.span 32)).isSome then .wait else .ok (s.readSpan l 32)
  | .fault c => .fault c (s.segAddr g i)
  | .absent => .fault 4 (s.segAddr g i)
  | .wait => .wait

/-- Word 0 of a task entry: kind and mig. -/
def taskKind (e : List Byte) : Nat := fld (numOf (e.take 4)) 8 8
def taskMig (e : List Byte) : Bool := fld (numOf (e.take 4)) 7 1 == 1

/-- The first entry from index `i` that satisfies a test, among `n`: its index and bytes. -/
def State.segFind (s : State) (f : Reacher) (pid : Option Nat) (g : Nat) (want : List Byte → Bool) : Nat → Nat → Option (Nat × SegRead)
  | _, 0 => none
  | i, n + 1 =>
    match s.segReach f pid false g i with
    | .ok e => if want e then some (i, .ok e) else s.segFind f pid g want (i + 1) n
    | r => some (i, r)

/-- An entry of a segment written. -/
def State.segWrite (s : State) (f : Reacher) (g i : Nat) (e : List Byte) : State :=
  match f true (s.segAddr g i) with
  | .at_ l => (s.writeLocs ((l.span 32).zip e)).dramTouch (l.span 32)
  | _ => s

/-- Entries before index `i` moved up one place, `n` of them, so that they keep their order. -/
def State.segShift (s : State) (f : Reacher) (g : Nat) : Nat → Nat → State
  | _, 0 => s
  | i, n + 1 =>
    match f false (s.segAddr g (i - 1)) with
    | .at_ l => (s.segWrite f g i (s.readSpan l 32)).segShift f g (i - 1) n
    | _ => s

/-- What taking entry `i` finds among the places that it writes, which are those of the entries passed over but the first and its own: the
first that cannot be written, or that must wait. -/
def State.segBlocked (s : State) (f : Reacher) (pid : Option Nat) (g i : Nat) : Option SegRead :=
  let head := (s.segment g).1
  ((List.range (i - head)).map fun k => s.segReach f pid true g (head + 1 + k)).find? fun r =>
    match r with | .ok _ => false | _ => true

/-- An entry taken out of a segment. -/
def State.segTake (s : State) (f : Reacher) (g i : Nat) : State :=
  let ht := s.segment g
  (s.segShift f g i (i - ht.1)).setSegment g (ht.1 + 1) ht.2

/-- What a search of the segments finds. -/
inductive TaskFound
  | some_ (g i : Nat) (e : List Byte)
  | fault (cause addr : Nat)
  | wait
  | none
deriving DecidableEq, Repr

/-- The first task along a search order (R279), where it can be taken. Item tasks are never taken. -/
def State.findTask (s : State) (f : Reacher) (pid : Option Nat) : List (Nat × Bool) → TaskFound
  | [] => .none
  | (g, far) :: gs =>
    let ht := s.segment g
    match s.segFind f pid g (fun e => taskKind e != 0xFF && (!far || taskMig e)) ht.1 (ht.2 - ht.1) with
    | some (i, .ok e) =>
      (match s.segBlocked f pid g i with
       | some (.fault c a) => .fault c a
       | some _ => .wait
       | none => .some_ g i e)
    | some (_, .fault c a) => .fault c a
    | some (_, .wait) => .wait
    | none => s.findTask f pid gs

/-- TQ_ENQ (R144, R277, R278). -/
def execTqEnq (nb : Bool) (g : BitVec 3) (r : BitVec 7) (s : State) : Result :=
  issue (.tqEnq nb g r) (fun c s =>
    afterRelease s (s.unreleased c.pid)
      (let w0 := (s.readS c.pid c.p r.toNat).toNat
       let seg := fld w0 16 8
       let ht := s.segment seg
       let f := s.reachMode c.core c.p.sys
       if !s.dev.tqEn || fld w0 3 4 != 0 then .trapOpen 0x08
       else if s.segEntries ≤ ht.2 - ht.1 then queueFails c nb g s
       else
         match s.segReach f (some c.pid) true seg ht.2 with
         | .fault cause a => .trap cause (BitVec.ofNat 64 a) none
         | .wait => .wait s .translation
         | .ok _ => queueDone c nb g ((s.segWrite f seg ht.2 (s.groupBytes c r.toNat 8)).setSegment seg ht.1 (ht.2 + 1)))) s

/-- TQ_DEQ (R144, R279). -/
def execTqDeq (nb : Bool) (g : BitVec 3) (r : BitVec 7) (s : State) : Result :=
  issue (.tqDeq nb g r) (fun c s =>
    let f := s.reachMode c.core c.p.sys
    if !s.dev.tqEn then .trapOpen 0x08
    else
      match s.findTask f (some c.pid) (searchOrder c.core) with
      | .fault cause a => .trap cause (BitVec.ofNat 64 a) none
      | .wait => .wait s .translation
      | .none => queueFails c nb g s
      | .some_ seg i e => queueDone c nb g ((s.segTake f seg i).writeSs c.pid r.toNat (wordsOf 8 e))) s

/-- ITEM_TASK_MOVE (R279): the oldest item task of a segment goes to the lowest core of its cluster with room. -/
def execItemTaskMove (segment : Nat) (s : State) : Result :=
  let ht := s.segment segment
  let f := s.reachDev
  if !s.dev.tqEn || decide (256 ≤ segment) then .next s
  else
    match s.segFind f none segment (fun e => taskKind e == 0xFF) ht.1 (ht.2 - ht.1) with
    | some (i, .ok e) =>
      if (s.segBlocked f none segment i).isSome then .next s
      else
      (match ((List.range 4).map fun k => 4 * (segment / 8) + k).find? fun k =>
          decide ((s.core k).q0.length < Config.itemEntries) with
       | some k => .next ((s.segTake f segment i).pushItem k (wordsOf 8 e))
       | none => .next s)
    | _ => .next s

/-! Versions (R145 to R147). -/

/-- The completion test of a mint word (R146). -/
def mintComplete (m : Nat) : Nat :=
  if fld m 16 16 = fld m 1 15 ∧ fld m 0 1 = 0 then (fld m 32 32 + 1) % 2 ^ 32 * 2 ^ 32 + m % 2 ^ 16 else m

/-- A vote on a mint word (R146). -/
def mintVote (m : Nat) : Nat :=
  let rcv := min (fld m 16 16 + 1) (fld m 1 15)
  mintComplete (fld m 32 32 * 2 ^ 32 + rcv * 2 ^ 16 + m % 2 ^ 16)

/-- A record reached for one indivisible step of `n` bytes: its place, or how the instruction ends. -/
def recordStep (c : Ctx) (s : State) (a n : Nat) (k : Loc → Fate) : Fate :=
  if a % 8 ≠ 0 then .trap 0x03 (BitVec.ofNat 64 a) none
  else
    match s.reachMode c.core c.p.sys true a with
    | .fault cause => .trap cause (BitVec.ofNat 64 a) none
    | .absent => .trap 4 (BitVec.ofNat 64 a) none
    | .wait => .wait s .translation
    | .at_ l =>
      match s.heldBy (some c.pid) (l.span n) with
      | some pc => .wait s (.line pc)
      | none => k l

/-- MINT (R146). -/
def execMint (d a : BitVec 7) (s : State) : Result :=
  issue (.mint d a) (fun c s =>
    afterRelease s (s.unreleasedAll c.pid)
      (recordStep c s (s.readS64 c.pid c.p a.toNat).toNat 8 fun l =>
        let old := s.readNum l 8
        if fld old 1 15 = 0 then .trapOpen 0x13
        else .done (((s.writeNum l 8 (mintVote old)).dramTouch (l.span 8)).writeS64 c.pid d.toNat (BitVec.ofNat 64 (mintVote old))))) s

/-- VPIN (R147). -/
def execVpin (d a : BitVec 7) (s : State) : Result :=
  issue (.vpin d a) (fun c s =>
    let ra := (s.readS64 c.pid c.p a.toNat).toNat
    recordStep c s ra 8 fun l =>
      recordStep c s (ra + 16) 8 fun pins =>
        match s.reachMode c.core c.p.sys false (ra + 8) with
        | .at_ dl =>
          match s.heldBy (some c.pid) (dl.span 8) with
          | some pc => .wait s (.line pc)
          | none =>
          if s.pinWaits c.wid then .wait s .translation
          else
          let v := s.readNum (l.plus 4) 4
          let pin : Pin := ⟨ra, BitVec.ofNat 32 v, BitVec.ofNat 64 (s.readNum dl 8)⟩
          let s1 := (s.writeNum (pins.plus (4 * (v % 2))) 4 (s.readNum (pins.plus (4 * (v % 2))) 4 + 1)).dramTouch
            (l.span 8 ++ dl.span 8 ++ pins.span 8)
          let s2 := match s.pinOf c.pid with
            | some p => s1.unpin c.wid p
            | none => s1
          .done ((s2.onWave c.wid fun w => { w with pin := some pin }).writeS c.pid d.toNat (BitVec.ofNat 32 v))
        | .fault cause => .trap cause (BitVec.ofNat 64 (ra + 8)) none
        | .absent => .trap 4 (BitVec.ofNat 64 (ra + 8)) none
        | .wait => .wait s .translation) s

end Sys2Proof.Machine
end

