-- ==== Sys2Proof/Machine/Ras.lean ====
section
/-! DEFINITION. Corrected and uncorrectable errors: counters, the log, and what asks for an assay (R384 to R387). -/

namespace Sys2Proof.Machine

/-- Outcomes that a log entry records (R387). -/
def outTransient : Nat := 0
def outSpared : Nat := 1
def outWithdrawn : Nat := 2
def outDegraded : Nat := 3
def outRetired : Nat := 4
def outUncorrectable : Nat := 5

/-- Log entries that wait for the ring's memory written, oldest first, while they can be (R330, R340, R387). -/
def State.writeLog (s : State) : List (List Byte) → State
  | [] => { s with ras := { s.ras with log := [] } }
  | e :: es =>
    match s.ringPush s.reachDev none s.dev.raslog e with
    | .done t _ => t.writeLog es
    | .wait _ => { s with ras := { s.ras with log := e :: es } }
    | _ => s.writeLog es

/-- One log entry (R387): dropped when the ring is full or cannot be written; the host is interrupted for lasting and
uncorrectable errors, and for every entry while irq is set. -/
def State.logRas (s : State) (cls outcome row : Nat) : State :=
  let entry := bytesOf 8 ((Config.structureCode cls).toNat * 256 + outcome) ++ bytesOf 8 row ++ bytesOf 8 s.clk ++ bytesOf 8 0
  let s1 :=
    if s.dev.raslog = 0 then s else s.writeLog (s.ras.log ++ [entry])
  if s.dev.rasIrq || outcome != outTransient then s1.interrupt (.ras outcome row) else s1

/-- How the model numbers granules (R384; log entry 24): those of physical memory, SRAM and the B-decks as `Loc.granule` has them, then
from these numbers on those of the vaults, of the vector and the scalar register files, of the escrow, of the tile tables, one an entry,
and of the program stores. -/
def granVault : Nat := 2 ^ 62
def granVector : Nat := 2 ^ 63
def granScalar : Nat := 2 ^ 64
def granEscrow : Nat := 2 ^ 65
def granTile : Nat := 2 ^ 66
def granProgram : Nat := 2 ^ 67

/-- The model's number of the structure that holds a granule, and its row or physical address (log entry 24). -/
def granuleRow (g : Nat) : Nat × Nat :=
  if g < 2 ^ 60 then (if 8 * g < 2 ^ 39 then 8 else 9, 8 * g)
  else if g < 2 ^ 61 then (rasSram, (g - 2 ^ 60) / 128)
  else if g < granVault then (rasDeck, (g - 2 ^ 61) / 128)
  else if g < granVector then (rasVault, (g - granVault) / 128)
  else if g < granScalar then (5, (g - granVector) / 128)
  else if g < granEscrow then (6, (g - granScalar) / 128)
  else if g < granTile then (7, (g - granEscrow) / 128)
  else if g < granProgram then (10, (g - granTile) / 128)
  else (11, (g - granProgram) / 128)

/-- What a log entry names a row by (R387): the physical address of an error in DRAM, or the row's index. -/
def rowLogged (r : RasRow) : Nat := if r.dram then r.addr else r.row

/-- Whether two errors lie in one row, wherever in it. -/
def sameRow (a b : RasRow) : Bool := { a with addr := 0 } == { b with addr := 0 }

/-- Whether a row is under assay. -/
def State.assayed (s : State) (r : RasRow) : Bool := s.ras.running.any fun q => sameRow q.1 r

/-- A corrected error in a row: counted, and an assay asked for unless assays are off or the row has one (R385, R387). -/
def State.corrected (s : State) (r : RasRow) : State :=
  let s1 : State := { s with
    dev := { s.dev with rasce := min (s.dev.rasce + 1) 0xFFFFFFFF },
    ras := { s.ras with history := s.ras.history ++ [(r, s.clk)] } }
  if s.dev.rasEn && !(s.assayed r || s.ras.waiting.any (sameRow r)) then
    { s1 with ras := { s1.ras with waiting := s1.ras.waiting ++ [r] } }
  else s1.logRas r.structure_ outTransient (rowLogged r)

def State.correctedAll (s : State) : List RasRow → State
  | [] => s
  | r :: rs => (s.corrected r).correctedAll rs

/-- The two words of a granule in a table of words. -/
def putGranule (m : Sparse Word) (n : Nat) (v : DWord) : Sparse Word :=
  tset (tset m (2 * n) (v.extractLsb' 0 32)) (2 * n + 1) (v.extractLsb' 32 32)

/-- Whether an owner of registers is resident. -/
def State.ownerLives (s : State) (owner : Nat) : Bool := (s.wave owner).isSome || (s.helper (helperBase + (owner - 4096))).isSome

/-- A held entry with eight bytes of its data, from byte 8·`j` on, replaced. -/
def Held.spoil (e : Held) (id j : Nat) (bs : List Byte) : Held :=
  match e with
  | .store n cs w =>
    if n = id then .store n (cs.zipIdx.map fun c => if c.2 / 8 = j then (c.1.1, bs.getD (c.2 % 8) 0) else c.1) w else e
  | .repay _ _ => e

/-- The data of a held store with this number replaced, in a helper's escrow and in an open region. -/
def State.spoilEscrow (s : State) (id j : Nat) (bs : List Byte) : State :=
  let region (h : HeldStore) : HeldStore :=
    if h.id = id then { h with cells := h.cells.zipIdx.map fun c => if c.2 / 8 = j then (c.1.1, bs.getD (c.2 % 8) 0) else c.1 } else h
  let t := s.mapPaths fun _ p => { p with region := p.region.map fun r => { r with stores := r.stores.map region } }
  { t with run := { t.run with
      helpers := t.run.helpers.map fun h =>
        (h.1, { h.2 with held := h.2.held.map fun e => (e.1, e.2.map fun x => x.spoil id j bs) }) } }

/-- The word that a granule without a consumer's rule holds after an uncorrectable error, a free value, until it is next written (R384; log
entry 24). Memory, the B-decks and the tile table are marked instead: their readers meet the error. -/
def State.spoil (s : State) (g : Nat) : State :=
  let v := Config.spoiled s.free
  let t := { s with free := s.free + 1 }
  if g < granVault then { s with ras := { s.ras with bad := if s.ras.bad.contains g then s.ras.bad else s.ras.bad ++ [g] } }
  else if g < granVector then { t with vault := putGranule s.vault (g - granVault) v }
  else if g < granScalar then
    if s.ownerLives ((g - granVector) / (64 * 96)) then { t with run := { s.run with vregs := putGranule s.run.vregs (g - granVector) v } }
    else s
  else if g < granEscrow then
    if s.ownerLives ((g - granScalar) / 64) then { t with run := { s.run with sregs := putGranule s.run.sregs (g - granScalar) v } }
    else s
  else if g < granTile then t.spoilEscrow ((g - granEscrow) / 256) (g % 256) (bytesOf 8 v.toNat)
  else if g < granProgram then { s with ras := { s.ras with bad := if s.ras.bad.contains g then s.ras.bad else s.ras.bad ++ [g] } }
  else
    let n := g - granProgram
    let c := s.clear (n / 2048)
    let lo := 2 * (n % 2048)
    t.setClear (n / 2048) { c with program := c.program.zipIdx.map fun w =>
      if w.2 = lo then v.extractLsb' 0 32 else if w.2 = lo + 1 then v.extractLsb' 32 32 else w.1 }

/-- An uncorrectable error met in a granule: counted and logged; the granule keeps it until it is next written (R384). -/
def State.uncorrectable (s : State) (g : Nat) : State :=
  (({ s with dev := { s.dev with rasue := min (s.dev.rasue + 1) 0xFFFFFFFF } } : State).spoil g).logRas (granuleRow g).1 outUncorrectable
    (granuleRow g).2

def State.uncorrectableAll (s : State) : List Nat → State
  | [] => s
  | g :: gs => (s.uncorrectable g).uncorrectableAll gs

/-- Soft errors strike storage (R384; log entry 16): single-bit errors are corrected, others leave their granules uncorrectable. -/
def State.struck (s : State) (e : SoftErrors) : State := (s.correctedAll e.corrected).uncorrectableAll e.bad

/-- Whether a tile's entry of the table holds an uncorrectable error (R384). -/
def State.tileBad (s : State) (entry : Nat) : Bool := s.ras.bad.contains (granTile + entry)

end Sys2Proof.Machine
end

