-- ==== Sys2Proof/Machine/Vault.lean ====
section
/-! DEFINITION. The vault as waves reach it: rows, their owners, vacc.rd and vacc.wr (R155, R156, R244, R245). -/

namespace Sys2Proof.Machine

/-- The key of a vault word. -/
def vaultKey (cluster row col : Nat) : Nat := (cluster * 1024 + row) * 384 + col

def State.vaultWord (s : State) (cluster row col : Nat) : Word := tgetD 0 s.vault (vaultKey cluster row col)

/-- Rows that a stream instruction reads or writes, each a first row and a count (R161, R244). -/
def StreamEntry.rows (e : StreamEntry) : List (Nat × Nat) :=
  match e.op with
  | some op =>
    match op with
    | .mmaE4m3E4m3 _ _ _ _ | .mmaE4m3E5m2 _ _ _ _ | .mmaE5m2E4m3 _ _ _ _ | .mmaE5m2E5m2 _ _ _ _ | .mmaI8 _ _ _ _
    | .mmaBf16 _ _ _ _ | .mmaF16 _ _ _ _ | .mmaTriI8 _ _ _ _ => [(e.map.row, e.map.m)]
    | .macz r c => [(r.toNat, c.toNat)]
    | .mscl _ _ _ _ => [(e.map.row, e.map.m), (e.map2.row, e.map.m)]
    | .mmapShape _ _ _ | .mmapK _ _ _ | .mmapAcc _ _ _ _ | .mbarWait _ | .mbarSig _ | .mloop _ _ | .mend | .mhalt
    | .mrel _ | .mset _ _ => []
  | none => []

/-- Rows of a cluster that are owned: by granted passes and by macz and mscl that have issued (R244). -/
def State.ownedRows (s : State) (cluster : Nat) : List (Nat × Nat) :=
  ((trange s.run.blocks (32 * cluster) (32 * cluster + 32)).map fun b =>
    match b.2.stream with
    | some st => ((st.entries.filter (·.begun)).map fun e =>
        if e.inFlight = 0 ∧ e.nextPass ≠ 0 then [] else e.rows).flatten
    | none => []).flatten

/-- Whether an operation is a vacc.wr in flight to a row of a cluster. -/
def Op.writesRow (o : Op) (cluster row : Nat) : Bool :=
  !o.done && (match o.kind with
    | .vaultWrite ws => ws.any fun w => w.1 / 384 == cluster * 1024 + row
    | _ => false)

/-- Whether a vault row lies in a row of 1 KiB under assay (R385). -/
def State.vaultTested (s : State) (cluster row : Nat) : Bool :=
  !s.ras.running.isEmpty && (s.rowTested rasVault (vaultKey cluster row 0 / 256) || s.rowTested rasVault (vaultKey cluster row 383 / 256))

/-- Whether a row of a cluster is owned (R156, R244), or under assay (R385). -/
def State.rowOwned (s : State) (cluster row : Nat) : Bool :=
  s.vaultTested cluster row ||
  (s.ownedRows cluster).any (fun r => decide (r.1 ≤ row) && decide (row < r.1 + r.2))
    || s.ops.any fun o => o.writesRow cluster row

/-- The shared shape of vacc.rd and vacc.wr: the rows checked against the window, then waited for. -/
def vacc (i : Instr) (srow : BitVec 7) (n : BitVec 3) (body : Ctx → State → List Nat → Fate) (s : State) : Result :=
  issue i (fun c s =>
    if c.p.mask = 0 then .done s
    else
      match s.blockOf c.pid with
      | none => .done s
      | some b =>
        let r0 := (s.readS c.pid c.p srow.toNat).toNat
        let rows := (List.range (n.toNat + 1)).map fun k => r0 + k
        match rows.find? fun r => decide (r < b.awb.toNat) || decide (b.awb.toNat + b.awl.toNat ≤ r) || decide (1024 ≤ r) with
        | some r => .trap 0x06 (BitVec.ofNat 64 r) none
        | none =>
          if rows.any (s.rowOwned (clusterOf c.core)) then .wait s .vault else body c s rows) s

/-- VACC_RD (R155). The rows are read as the retired instructions left them. -/
def execVaccRd (v : BitVec 7) (srow : BitVec 7) (q : BitVec 2) (n : BitVec 3) (s : State) : Result :=
  vacc (.vaccRd v srow q n) srow n (fun c s rows =>
    let vals : List (Nat × List Word) := c.lanes.map fun l =>
      (l, rows.map fun r => s.vaultWord (clusterOf c.core) r (96 * q.toNat + l))
    .done (s.addOp (c.op .tl (.vector v.toNat (n.toNat + 1)) c.p.mask (.vaultRead vals) none))) s

/-- VACC_WR (R155). -/
def execVaccWr (v : BitVec 7) (srow : BitVec 7) (q : BitVec 2) (n : BitVec 3) (s : State) : Result :=
  vacc (.vaccWr v srow q n) srow n (fun c s rows =>
    let words : List (Nat × Word) := (c.lanes.map fun l => rows.zipIdx.map fun r =>
      (vaultKey (clusterOf c.core) r.1 (96 * q.toNat + l), s.readV c.pid (v.toNat + r.2) l)).flatten
    .done (s.addOp (c.op .tl .none c.p.mask (.vaultWrite words) none))) s

end Sys2Proof.Machine
end

