-- ==== Sys2Proof/Machine/Teller.lean ====
section
/-! DEFINITION. What a stream's table offers the teller: entries and the rows and tiles they use, eligible passes, and the cycles from which
they have been eligible (R161, R164, R231, R240, R242). -/

namespace Sys2Proof.Machine

/-! Streams and their entries (R160, R161, R164). -/

def State.onStream (s : State) (bid : Nat) (f : Stream → Stream) : State :=
  s.onBlock bid fun b => { b with stream := b.stream.map f }

def State.streamOf (s : State) (bid : Nat) : Option Stream := (s.block bid).bind (·.stream)

/-- An entry of the table changed. -/
def Stream.onEntry (st : Stream) (id : Nat) (f : StreamEntry → StreamEntry) : Stream :=
  { st with entries := st.entries.map fun e => if e.id == id then f e else e }

/-- An entry gone from the table. -/
def Stream.dropEntry (st : Stream) (id : Nat) : Stream := { st with entries := st.entries.filter fun e => e.id != id }

/-- An mma's formats, Kp, clearing bit, tiles and map (R163, R164). -/
structure Mma where
  fa : Nat
  fb : Nat
  kp : Nat
  z : Bool
  ta : Nat
  tb : Nat
  m : Nat
deriving DecidableEq, Repr

def mmaOf (op : StreamOp) : Option Mma :=
  match op with
  | .mmaE4m3E4m3 z a b m => some ⟨0, 0, 32, z, a.toNat, b.toNat, m.toNat⟩
  | .mmaE4m3E5m2 z a b m => some ⟨0, 1, 32, z, a.toNat, b.toNat, m.toNat⟩
  | .mmaE5m2E4m3 z a b m => some ⟨1, 0, 32, z, a.toNat, b.toNat, m.toNat⟩
  | .mmaE5m2E5m2 z a b m => some ⟨1, 1, 32, z, a.toNat, b.toNat, m.toNat⟩
  | .mmaI8 z a b m => some ⟨2, 2, 32, z, a.toNat, b.toNat, m.toNat⟩
  | .mmaBf16 z a b m => some ⟨4, 4, 16, z, a.toNat, b.toNat, m.toNat⟩
  | .mmaF16 z a b m => some ⟨5, 5, 16, z, a.toNat, b.toNat, m.toNat⟩
  | .mmaTriI8 z a b m => some ⟨3, 2, 64, z, a.toNat, b.toNat, m.toNat⟩
  | _ => none

/-- Passes of an entry (R164). -/
def passesOf (g : Mma) (m : OperandMap) : Nat := (m.k + g.kp - 1) / g.kp

/-- The tiles that an entry names, each once. -/
def StreamEntry.tiles (e : StreamEntry) : List Nat :=
  match e.op with
  | some op =>
    (match op, mmaOf op with
     | _, some g => [g.ta, g.tb].eraseDups
     | .mscl _ _ t _, none => [t.toNat]
     | .mrel t, none => [t.toNat]
     | _, none => [])
  | none => []

/-- Whether two ranges meet. -/
def spansMeet (a n b m : Nat) : Bool := decide (a < b + m) && decide (b < a + n)

/-- Two entries' rows that meet (R161). -/
def StreamEntry.meets (e f : StreamEntry) : Bool :=
  e.rows.any fun r => f.rows.any fun q => decide (0 < r.2) && decide (0 < q.2) && spansMeet r.1 r.2 q.1 q.2

/-- Entries that entered before another. -/
def Stream.before (st : Stream) (id : Nat) : List StreamEntry := st.entries.filter fun e => decide (e.id < id)

/-- The entry of tile `t` of a block: its number in the table and its contents (R231). -/
def State.tileOf (s : State) (bid t : Nat) : Option (Nat × Tile) :=
  (trange s.run.tiles (128 * (bid / 32)) (128 * (bid / 32) + 128)).find? fun e => e.2.own == bid % 32 && e.2.tn == t

/-! Tiles (R150, R233, R239). -/

/-- Bits of an element of a format; 0 for a reserved code (R233). -/
def formatBits (f : Nat) : Nat :=
  if f = 0 ∨ f = 1 ∨ f = 2 then 8 else if f = 3 then 2 else if f = 4 ∨ f = 5 then 16 else if f = 6 ∨ f = 7 then 32 else 0

/-- Bytes of a tile's row (R233). -/
def Tile.rowBytes (t : Tile) : Nat := (t.cols * formatBits t.fmt + 7) / 8

/-- The scratchpad or B-deck bytes of a tile, row by row in the order of the rows' memory bytes (R150, R239). -/
def Tile.places (t : Tile) (b : Block) : List Loc :=
  let per := formatBits t.fmt / 8
  ((List.range t.rows).map fun r => (List.range t.rowBytes).map fun j =>
    if t.bdeck then
      .bdeck ((b.core / 4 * 384 + t.pitch + j / per) * Config.sliceBytes + t.base + r * per + j % per)
    else .sram b.core (b.base + t.base + r * t.pitch + j)).flatten

/-! Eligible passes (R240, R242). -/

/-- Whether an outstanding vacc.wr of the cluster writes one of these rows (R156). -/
def State.vaccWrites (s : State) (cluster row n : Nat) : Bool :=
  (List.range n).any fun i => s.ops.any fun o => o.writesRow cluster (row + i)

/-- Whether an earlier entry stands before an entry's first access to its rows: one that shares rows and has not retired,
or, for two matrix instructions, has not had its last pass granted (R161, R240). -/
def Stream.blockedRows (st : Stream) (e : StreamEntry) (passes : Bool) : Bool :=
  (st.before e.id).any fun f => f.meets e &&
    (match f.op.bind mmaOf with
     | some g => !(passes && f.issued && decide (0 < passesOf g f.map) && decide (passesOf g f.map ≤ f.nextPass))
     | none => true)

/-- Whether a tile may be read by an instruction that begins to read it. -/
def Tile.readable (t : Tile) : Bool := t.st == .ready && !t.rel

/-- Whether a row or a tile byte that an instruction uses lies in a row under assay, at which its accesses wait (R385). -/
def State.entryTested (s : State) (bid : Nat) (b : Block) (e : StreamEntry) : Bool :=
  !s.ras.running.isEmpty &&
    (e.rows.any (fun r => (List.range r.2).any fun i => s.vaultTested (b.core / 4) (r.1 + i))
      || e.tiles.any fun t => match s.tileOf bid t with | some u => (u.2.places b).any s.underAssay | none => false)

/-- Whether an entry's next pass may be granted (R240). -/
def State.eligible (s : State) (bid : Nat) (b : Block) (st : Stream) (e : StreamEntry) : Bool :=
  match e.op.bind mmaOf with
  | none => false
  | some g =>
    e.issued && decide (e.nextPass < passesOf g e.map) && !st.blockedRows e true
      && !s.vaccWrites (b.core / 4) e.map.row e.map.m && !s.entryTested bid b e
      && (e.begun || e.tiles.all fun t => match s.tileOf bid t with | some u => u.2.readable | none => false)

/-- The entry whose next pass a stream offers (R240): the oldest eligible one. A stream that has stopped still offers the passes of entries
that had issued (R12, R162). -/
def State.offers (s : State) (bid : Nat) (b : Block) (st : Stream) : Option StreamEntry :=
  if st.state == .ended then none else st.entries.find? (s.eligible bid b st)

/-- The cycles from which a stream's entries have been eligible brought up to date (R242). -/
def State.refreshStream (s : State) (bid : Nat) : State :=
  match s.block bid with
  | none => s
  | some b =>
    match b.stream with
    | none => s
    | some st =>
      let now := s.icc b.core
      s.setBlock bid { b with stream := some { st with entries := st.entries.map fun (e : StreamEntry) =>
        { e with since := if s.eligible bid b st e then some (e.since.getD now) else none } } }

/-- Contexts of a cluster. -/
def State.clusterBlocks (s : State) (cluster : Nat) : List Nat :=
  (trange s.run.blocks (32 * cluster) (32 * cluster + 32)).map (·.1)

/-- The streams of a cluster brought up to date. -/
def State.refreshCluster (s : State) (cluster : Nat) : State := (s.clusterBlocks cluster).foldl State.refreshStream s

end Sys2Proof.Machine
end

