-- ==== Sys2Proof/Machine/Texture.lean ====
section
/-! DEFINITION. Volumes: tex3 and texp (R154, R343 to R345), and hash grids: hdesc, hgath and hscat (R171 to R176). The
bytes are read and the sums are made when the data returns. -/

namespace Sys2Proof.Machine

/-! Corner weights, shared by volumes and hash grids (R174, R345). -/

/-- A value rounded once to FP32 under rne. -/
def round32 (v : FV) : FV := fin32 false (out32 .rne false v).1

/-- ⌊p⌋ of a finite value. -/
def floorOf (p : FV) : Int := (toIntClamped .rdn (-(2 ^ 200 : Nat)) (2 ^ 200 : Nat) p).1

/-- One axis of a sample: the lower index, its exact weight w and the rounded weight v. -/
structure Axis where
  i : Int
  w : FV
  v : FV
deriving DecidableEq, Repr

def axisOf (p : FV) : Axis :=
  let i := floorOf p
  let w := (FV.add .rne p (FV.ofInt (-i))).1
  ⟨i, w, round32 (FV.add .rne (.fin false 1 0) w.neg).1⟩

/-- Whether bit `k` of corner `c` is set. -/
def cornerBit (c k : Nat) : Bool := c / 2 ^ k % 2 == 1

/-- The weight of corner `c` (R174, R345). -/
def cornerWeight (x y z : Axis) (c : Nat) : Word :=
  let side (a : Axis) (k : Nat) : FV := if cornerBit c k then a.w else a.v
  (out32 .rne false (FV.mul (round32 (FV.mul (side x 0) (side y 1)).1) (side z 2)).1).1

/-- The index that corner `c` has on axis `k`. -/
def cornerIndex (a : Axis) (c k : Nat) : Int := a.i + if cornerBit c k then 1 else 0

/-- Weighted values accumulated from +0, one rounding each. -/
def weighted : List (Word × FV) → Word → Word
  | [], acc => acc
  | (w, v) :: ps, acc => weighted ps (out32 .rne false (FV.fma .rne (fin32 false w) v (fin32 false acc)).1).1

/-! Volumes (R343, R344). -/

/-- A volume descriptor. -/
structure Volume where
  base : Nat
  n : List Nat
  mode : List Nat
  bord : Word
deriving DecidableEq, Repr

/-- A descriptor decoded from its 32 bytes. -/
def volumeOf (b : List Byte) : Option Volume :=
  let at_ (o n : Nat) : Nat := numOf ((b.drop o).take n)
  let n := [at_ 8 2, at_ 10 2, at_ 12 2]
  let modes := at_ 0x10 4
  let m := [fld modes 0 2, fld modes 2 2, fld modes 4 2]
  if at_ 0 8 % 2048 ≠ 0 ∨ at_ 14 2 ≠ 0 ∨ 64 ≤ modes ∨ at_ 0x18 8 ≠ 0 ∨ (n.any fun k => k == 0 || decide (32768 < k))
      ∨ m.contains 3 then none
  else some ⟨at_ 0 8, n, m, BitVec.ofNat 32 (at_ 0x14 4)⟩

/-- An index resolved on an axis; none outside a border (R344). -/
def resolveIndex (mode n : Nat) (i : Int) : Option Nat :=
  let i := max (-(2 ^ 31 : Nat) : Int) (min i ((2 ^ 31 : Nat) - 1 : Int))
  if mode = 0 then some (min (max i 0) ((n : Int) - 1)).toNat
  else if mode = 1 then some (i % (n : Int)).toNat
  else if 0 ≤ i ∧ i < (n : Int) then some i.toNat
  else none

/-- The address of a texel; none where it lies outside a border (R344). -/
def Volume.texel (v : Volume) (x y z : Int) : Option Nat :=
  let axis (k : Nat) (i : Int) : Option Nat := resolveIndex (v.mode.getD k 0) (v.n.getD k 1) i
  match axis 0 x, axis 1 y, axis 2 z with
  | some x, some y, some z =>
    let nbx := (v.n.getD 0 1 + 7) / 8
    let nby := (v.n.getD 1 1 + 7) / 8
    some ((v.base + 2048 * (x / 8 + nbx * (y / 8 + nby * (z / 8))) + 4 * (x % 8 + 8 * (y % 8) + 64 * (z % 8))) % 2 ^ 64)
  | _, _, _ => none

/-- A finite coordinate. -/
def isFinite32 (w : Word) : Bool := fld w.toNat 23 8 != 255

/-- The weights and the texel addresses of a lane's sample (R345); no texel where a coordinate is NaN or infinite. -/
def Volume.sample (v : Volume) (nearest : Bool) (cs : List Word) : List Word × List (Option Nat) :=
  if cs.any fun w => !isFinite32 w then ([], [])
  else
    let f (k : Nat) : FV := fin32 false (cs.getD k 0)
    if nearest then ([], [v.texel (floorOf (f 0)) (floorOf (f 1)) (floorOf (f 2))])
    else
      let ax (k : Nat) : Axis := axisOf (round32 (FV.add .rne (f k) (.fin true 1 (-1))).1)
      let corners := List.range 8
      (corners.map (cornerWeight (ax 0) (ax 1) (ax 2)),
       corners.map fun c => v.texel (cornerIndex (ax 0) c 0) (cornerIndex (ax 1) c 1) (cornerIndex (ax 2) c 2))

/-- A sample's result from its texels (R345). -/
def texelResult (nearest : Bool) (weights : List Word) (texels : List Word) : Word :=
  if nearest then
    match texels with
    | [t] => if isNan32 t then nan32 else t
    | _ => nan32
  else if texels.isEmpty then nan32
  else weighted (weights.zip (texels.map (fin32 false))) 0

/-- The bytes of a descriptor that a scalar pair names with their places, or how the read ends. -/
inductive DescRead
  | ok (bytes : List Byte) (locs : List Loc)
  | stop (f : Fate)

/-- A descriptor of `n` bytes read at issue; `a` is a multiple of 32. `kills` says that a translation fault may kill a graphics wave
(R255). -/
def State.readDesc (s : State) (c : Ctx) (kills : Bool) (a n : Nat) : DescRead :=
  match s.checkAll c .g ⟨c.p.sys, false, false⟩ 32 false ((List.range (n / 32)).map fun i => (96, a + 32 * i)) with
  | .trap cause x lane => .stop (if cause = 4 ∧ kills then .pageFault x lane else .trap cause (BitVec.ofNat 64 x) lane)
  | .wait w => .stop (.wait s w)
  | .ok accs =>
    match s.touchedBefore c.pid (accs.map fun x => x.loc.span 32).flatten with
    | some o => .stop (.wait s (.counter o.pc))
    | none => .ok (accs.map fun x => s.readSpan x.loc 32).flatten (accs.map fun x => x.loc.span 32).flatten

/-- The place of an address among a lane's checked accesses. -/
def placeIn (accs : List LaneAcc) (l a : Nat) : Option Loc :=
  (accs.find? fun x => x.lane == l && x.addr == a).map (·.loc)

/-- tex3 and texp (R154). -/
def tex (i : Instr) (nearest : Bool) (d a b : BitVec 7) (s : State) : Result :=
  issue i (fun c s =>
    if c.p.mask = 0 then .done s
    else
      let da := (s.readS64 c.pid c.p b.toNat).toNat
      if da % 32 ≠ 0 then .trapOpen 0x13
      else
        match s.readDesc c true da 32 with
        | .stop f => f
        | .ok bytes locs =>
          match volumeOf bytes with
          | none => .trapOpen 0x13
          | some v =>
            let lanes : List (Nat × List Word × List (Option Nat)) := c.lanes.map fun l =>
              (l, v.sample nearest ((List.range 3).map fun k => s.readV c.pid (a.toNat + k) l))
            let addrs : List (Nat × Nat) :=
              (lanes.map fun x => x.2.2.filterMap fun t => t.map fun (q : Nat) => (x.1, q)).flatten
            match s.checkAll c .g ⟨c.p.sys, false, false⟩ 4 true addrs with
            | .trap cause x lane => if cause = 4 then .pageFault x lane else .trap cause (BitVec.ofNat 64 x) lane
            | .wait w => .wait s w
            | .ok accs =>
              let kind : OpKind := .texel nearest (lanes.map fun x =>
                (x.1, x.2.1, x.2.2.map fun t => t.bind (placeIn accs x.1), v.bord))
              .done ((s.dramTouch locs).addOp ((c.op .ld (.vector d.toNat 1) c.p.mask kind
                (c.watch s 0 (s.matchesOf c.core 0 4 accs))).withVas accs))) s

/-- TEX3 (R154, R345). -/
def execTex3 (d a b : BitVec 7) (s : State) : Result := tex (.tex3 d a b) false d a b s

/-- TEXP (R154, R345). -/
def execTexp (d a b : BitVec 7) (s : State) : Result := tex (.texp d a b) true d a b s

/-! Hash grids (R171 to R173). -/

/-- A level entry decoded from its 32 bytes. -/
def hashLevelOf (b : List Byte) : Option HashLevel :=
  let at_ (o n : Nat) : Nat := numOf ((b.drop o).take n)
  let w := at_ 0x14 4
  let res := at_ 0x10 4
  if 256 ≤ w ∨ fld w 5 1 = 1 ∨ 22 < fld w 0 5 ∨ res = 0 ∨ 2 ^ 20 < res ∨ at_ 0x18 8 ≠ 0 ∨ at_ 0 8 % 128 ≠ 0
      ∨ at_ 8 8 % 128 ≠ 0 then none
  else some ⟨at_ 0 8, at_ 8 8, res, fld w 7 1 == 1, fld w 6 1 == 1, fld w 0 5⟩

/-- Levels decoded in turn. -/
def hashLevels : Nat → List Byte → Option (List HashLevel)
  | 0, _ => some []
  | n + 1, b =>
    match hashLevelOf (b.take 32), hashLevels n (b.drop 32) with
    | some l, some ls => some (l :: ls)
    | _, _ => none

/-- Features of an entry. -/
def HashLevel.features (l : HashLevel) : Nat := if l.four then 4 else 2

/-- Whether a range of .c addresses lies in declared scratchpads of a cluster's resident blocks (R128). -/
def State.coversC (s : State) (cluster : Nat) : Nat → Nat → Nat → Bool
  | 0, lo, hi => decide (hi ≤ lo)
  | fuel + 1, lo, hi =>
    if hi ≤ lo then true
    else if 4194304 < hi then false
    else
      match s.run.blocks.find? fun e =>
        e.2.core == cluster * 4 + lo / 1048576 && decide (e.2.base ≤ lo % 1048576)
          && decide (lo % 1048576 < e.2.base + e.2.scratch) with
      | some e => s.coversC cluster fuel (lo / 1048576 * 1048576 + e.2.base + e.2.scratch) hi
      | none => false

/-- Whether a level's pinned tables lie in the cluster's .c space (R172). -/
def State.pinnedOk (s : State) (cluster : Nat) (l : HashLevel) : Bool :=
  let fuel := s.run.blocks.length + 1
  !l.pinned || (s.coversC cluster fuel l.base (l.base + 2 * l.features * 2 ^ l.lt)
    && s.coversC cluster fuel l.shadow (l.shadow + 4 * l.features * 2 ^ l.lt))

/-- A trap 0x13 at hdesc, with the descriptor's address (R172). -/
def badHash (a : Nat) : Fate := .trap 0x13 (BitVec.ofNat 64 a) none

/-- HDESC (R172). -/
def execHdesc (a : BitVec 7) (s : State) : Result :=
  issue (.hdesc a) (fun c s =>
    let da := (s.readS64 c.pid c.p a.toNat).toNat
    if da % 32 ≠ 0 then badHash da
    else
      match s.readDesc c false da 32 with
      | .stop f => f
      | .ok head hl =>
        let nlev := numOf (head.take 8)
        if nlev = 0 ∨ 16 < nlev ∨ (head.drop 8).any (· != 0) then badHash da
        else
          match s.readDesc c false (da + 32) (32 * nlev) with
          | .stop f => f
          | .ok body bl =>
            match hashLevels nlev body with
            | none => badHash da
            | some ls =>
              if ls.all (s.pinnedOk (clusterOf c.core)) then
                .done ((s.dramTouch (hl ++ bl)).addOp (c.op .tl .none c.p.mask (.hashDesc ls) none))
              else badHash da) s

/-- The hash context that an instruction of a path uses: the latest hdesc issued in its block, else the one held (R172). -/
def State.hashContext (s : State) (pid : Nat) : Option (List HashLevel) :=
  match (s.ops.filter fun o => !o.done && (o.owner == orphanOwner (s.bidOf pid)
      || decide (o.owner < 4096) && s.bidOf (4 * o.owner) == s.bidOf pid)).reverse.findSome? fun o =>
      (match o.kind with
       | .hashDesc ls => some ls
       | _ => none) with
  | some ls => some ls
  | none => (s.blockOf pid).bind (·.hash)

/-- The hash of a corner modulo 2^lt (R173). -/
def hashIndex (lt : Nat) (x y z : Int) : Nat :=
  let m (i : Int) (k : Nat) : Nat := wrapInt 32 i * k % 2 ^ 32
  ((m x 1 ^^^ m y 0x6F2A3B15) ^^^ m z 0xC3E8D947) % 2 ^ lt

/-- A coordinate clamped to [0, 1]. -/
def clampUnit (w : Word) : FV :=
  match fin32 false w with
  | .fin true _ _ => .fin false 0 0
  | .inf true => .fin false 0 0
  | .inf false => .fin false 1 0
  | v => if valueKey w > valueKey 0x3F800000#32 then .fin false 1 0 else v

/-- The eight weights and entries of a lane at a level (R174). -/
def HashLevel.corners (l : HashLevel) (cs : List Word) : List (Word × Nat) :=
  let ax (k : Nat) : Axis := axisOf (round32 (FV.mul (clampUnit (cs.getD k 0)) (FV.ofInt l.res)).1)
  (List.range 8).map fun c =>
    (cornerWeight (ax 0) (ax 1) (ax 2) c,
     hashIndex l.lt (cornerIndex (ax 0) c 0) (cornerIndex (ax 1) c 1) (cornerIndex (ax 2) c 2))

/-- Where the entries of a lane's level lie: their addresses, of feature or of shadow entries. -/
def HashLevel.entryAt (l : HashLevel) (shadow : Bool) (e : Nat) : Nat :=
  ((if shadow then l.shadow else l.base) + e * ((if shadow then 4 else 2) * l.features)) % 2 ^ 64

/-- Bytes of an entry, of features or of their shadows. -/
def HashLevel.entryBytes (l : HashLevel) (shadow : Bool) : Nat := (if shadow then 4 else 2) * l.features

/-- Active lanes with their coordinates, those with a NaN apart. -/
def State.hashLanes (s : State) (c : Ctx) (a : BitVec 7) : List (Nat × List Word) :=
  c.lanes.map fun l => (l, (List.range 3).map fun k => s.readV c.pid (a.toNat + k) l)

/-- The shared checks of hgath and hscat (R174, R175): each lane's levels as weights and entry places, level by level. -/
def hashAccess (c : Ctx) (s : State) (ls : List HashLevel) (a : BitVec 7) (shadow : Bool)
    (k : List LaneAcc → List (Nat × List (List (Word × Loc))) → Fate) : Fate :=
  let lanes := s.hashLanes c a
  let live := lanes.filter fun x => !(x.2.any isNan32)
  let all : List (Nat × List (HashLevel × List (Word × Nat))) := live.map fun x => (x.1, ls.map fun l => (l, l.corners x.2))
  let addrs : List (Nat × Nat) := (all.map fun x => (x.2.map fun y =>
    if y.1.pinned then [] else y.2.map fun z => (x.1, y.1.entryAt shadow z.2)).flatten).flatten
  let pinned (l : HashLevel) (e : Nat) : Loc :=
    let p := l.entryAt shadow e
    .sram (clusterOf c.core * 4 + p / 1048576) (p % 1048576)
  match s.checkAll c .g ⟨c.p.sys, shadow, false⟩ 4 true addrs with
  | .trap cause x lane => .trap cause (BitVec.ofNat 64 x) lane
  | .wait w => .wait s w
  | .ok accs =>
    let place (l : Nat) (y : HashLevel) (e : Nat) : Loc :=
      if y.pinned then pinned y e else (placeIn accs l (y.entryAt shadow e)).getD (.phys 0)
    let placed : List (Nat × List (List (Word × Loc))) := all.map fun x => (x.1, x.2.map fun y =>
      y.2.map fun z => (z.1, place x.1 y.1 z.2))
    let seen : List LaneAcc := (all.map fun x => (x.2.map fun y => (y.2.map fun z =>
      (List.range (y.1.entryBytes shadow / 4)).map fun i =>
        (⟨x.1, y.1.entryAt shadow z.2 + 4 * i, (place x.1 y.1 z.2).plus (4 * i)⟩ : LaneAcc)).flatten).flatten).flatten
    let held := (seen.map fun x => x.loc.span 4).flatten
    match held.find? s.mustWait, s.unseenStore c.pid held with
    | some l, _ => .wait s (.line (s.ownerPc c.core l))
    | none, some o => .wait s (.line o.pc)
    | none, none => k seen placed

/-- Total features of a grid. -/
def totalFeatures (ls : List HashLevel) : Nat := (ls.map (·.features)).sum

/-- The shared shape of hgath and hscat: the context, then the registers that depend on it. -/
def hashOp (i : Instr) (regs : Nat → Regs) (body : Ctx → State → List HashLevel → Fate) (s : State) : Result :=
  issue i (fun c s =>
    if c.p.mask = 0 then .done s
    else
      match s.hashContext c.pid with
      | none => .trapOpen 0x13
      | some ls =>
        let r := regs (totalFeatures ls)
        if s.boundsBad c.pid c.wid r then .trapOpen 0x02
        else if c.helper && helperWriteBad r then .trapOpen 0x05
        else
          match s.registersPending c.owner r with
          | some pc => .wait s (.register pc)
          | none => body c s ls) s

/-- HGATH (R174). -/
def execHgath (d a : BitVec 7) (s : State) : Result :=
  hashOp (.hgath d a) (fun n => ⟨[], [(d.toNat, n / 2)], [], []⟩) (fun c s ls =>
    hashAccess c s ls a false fun accs placed =>
      let lanes : List (Nat × List (List Word × List Loc)) := c.lanes.map fun l =>
        match placed.find? fun x => x.1 == l with
        | some x => (l, x.2.map fun y => (y.map (·.1), y.map (·.2)))
        | none => (l, [])
      .done (s.addOp ((c.op .ld (.vector d.toNat (totalFeatures ls / 2)) c.p.mask
        (.gather (ls.map (·.four)) lanes) (c.watch s 0 (s.matchesOf c.core 0 4 accs))).withVas accs))) s

/-- The adds of one lane's level: for each corner, each feature (R175). -/
def levelAdds (features : Nat) (grads : List Word) (cs : List (Word × Loc)) : List (Loc × Word × Word) :=
  (cs.map fun x => (List.range features).map fun e => (x.2.plus (4 * e), x.1, grads.getD e 0)).flatten

/-- The adds of hscat in their order: level, lane, corner, feature (R175). -/
def State.scatterAdds (s : State) (c : Ctx) (b : Nat) (placed : List (Nat × List (List (Word × Loc)))) :
    List HashLevel → Nat → Nat → List (Loc × Word × Word)
  | [], _, _ => []
  | l :: ls, n, o =>
    (placed.map fun x => levelAdds l.features
      ((List.range l.features).map fun e => s.readV c.pid (b + o + e) x.1) (x.2.getD n [])).flatten
      ++ s.scatterAdds c b placed ls (n + 1) (o + l.features)

/-- HSCAT (R175). -/
def execHscat (a b : BitVec 7) (s : State) : Result :=
  hashOp (.hscat a b) (fun n => ⟨[(b.toNat, n)], [], [], []⟩) (fun c s ls =>
    hashAccess c s ls a true fun accs placed =>
      .done (s.addOp (c.op .st .none c.p.mask (.scatter (s.scatterAdds c b.toNat placed ls 0 0))
        (c.watch s 2 (s.matchesOf c.core 2 4 accs))))) s

end Sys2Proof.Machine
end

