-- ==== Sys2Proof/Machine/MemEvents.lean ====
section
/-! DEFINITION. Memory operations performed: loads return, stores, atomics and adds are performed, queries are answered
(R131, R135, R138, R157, R172, R174, R175, R181, R305, R319, R345, R384). An event whose operation may not complete yet leaves
the state as it is (log entry 5). -/

namespace Sys2Proof.Machine

/-! Stores and atomics. -/

/-- STORE_PERFORMED (R131, R157). -/
def execStorePerformed (op : Nat) (s : State) : Result :=
  match s.findOp op with
  | none => .next s
  | some o =>
    match o.kind with
    | .store cells =>
      if !s.mayPerform o then .next s
      else .next ((((s.writeLocs cells).performed o.watch).dramTouch o.kind.touches).finishOp op)
    | _ => .next s

/-- What an atomic leaves in memory, of what it held and its operand (R138). -/
def AtomOp.apply (a : AtomOp) (m x : Nat) : Nat :=
  let sm := signedOf 32 m
  let sx := signedOf 32 x
  let lo := x % 2 ^ 32
  match a with
  | .add32 => (m + x) % 2 ^ 32
  | .addF32 => (out32 .rne false (FV.add .rne (fp32.value m) (fp32.value lo)).1).1.toNat
  | .minI => if sm ≤ sx then m else lo
  | .minN => min m lo
  | .maxI => if sx ≤ sm then m else lo
  | .maxN => max m lo
  | .and => m &&& lo
  | .or => m ||| lo
  | .xor => m ^^^ lo
  | .swap => lo
  | .cas => if m = lo then x / 2 ^ 32 else m
  | .add64 => (m + x) % 2 ^ 64

/-- The words of an atomic's result. -/
def AtomOp.words (a : AtomOp) (m : Nat) : List Word :=
  if a.results = 2 then [BitVec.ofNat 32 m, BitVec.ofNat 32 (m / 2 ^ 32)] else [BitVec.ofNat 32 m]

/-- The lanes of an atomic applied in ascending order, each with the value it receives; a lane whose data is uncorrectable
receives 0 and changes nothing, and its place is reported (R138, R305). -/
def State.applyAtomic (s : State) (a : AtomOp) : List (Nat × Loc × DWord) → State × List (Nat × List Word × Option Loc)
  | [] => (s, [])
  | (l, loc, x) :: ls =>
    if (loc.span a.bytes).any s.locBad then
      let r := s.applyAtomic a ls
      (r.1, (l, a.words 0, some loc) :: r.2)
    else
      let m := s.readNum loc a.bytes
      let r := (s.writeNum loc a.bytes (a.apply m x.toNat)).applyAtomic a ls
      (r.1, (l, a.words m, none) :: r.2)

/-- The virtual address of a place of an operation. -/
def Op.vaOf (o : Op) (l : Loc) : Nat :=
  match o.vas.find? fun v => v.1 == l with
  | some v => v.2
  | none => 0

/-- sr.eaux of an uncorrectable load (R304, R342). -/
def loadAux (va : Nat) (malformed : Bool) : DWord := BitVec.ofNat 64 (va + 2 ^ 60 + if malformed then 2 ^ 58 else 0)

/-- The lane that a fault names; a scalar access's place among lanes is none. -/
def laneName (l : Nat) : Option Nat := if l < 96 then some l else none

/-- What an operation's lanes have received, as values on their way back, with what the first uncorrectable lane will raise (R305). -/
def Op.back (o : Op) (rs : List (Nat × List Word × Option Loc)) : OpKind :=
  let all := sortBy (fun x y => decide (x.1 ≤ y.1)) (o.got ++ rs)
  .values (all.map fun x => (x.1, x.2.1)) (all.findSome? fun x => x.2.2.map fun l => (loadAux (o.vaOf l) false, laneName x.1))

/-- ATOMIC_PERFORM (R138). -/
def execAtomicPerform (op : Nat) (s : State) : Result :=
  match s.findOp op with
  | none => .next s
  | some o =>
    match o.kind with
    | .atomic a accs =>
      if !s.mayPerform o then .next s
      else
        let r := s.applyAtomic a accs
        let s1 := (r.1.performed o.watch).dramTouch o.kind.touches
        if o.dropped then .next (s1.finishOp op)
        else
          .next { s1 with ops := s1.ops.map fun (q : Op) =>
            if q.id == op then { q with kind := q.back r.2 } else q }
    | _ => .next s

/-- The adds of an hscat, each in its order; a word that is uncorrectable is left alone (R175). -/
def State.applyAdds (s : State) : List (Loc × Word × Word) → State
  | [] => s
  | (l, w, g) :: as =>
    if (l.span 4).any s.locBad then s.applyAdds as
    else
      let v := FV.fma .rne (fin32 false w) (fin32 false g) (fp32.value (s.readNum l 4))
      (s.writeNum l 4 (out32 .rne false v.1).1.toNat).applyAdds as

/-- HSCAT_ADDS_PERFORMED (R175). -/
def execHscatAddsPerformed (op : Nat) (s : State) : Result :=
  match s.findOp op with
  | none => .next s
  | some o =>
    match o.kind with
    | .scatter adds =>
      if !s.mayPerform o then .next s
      else .next ((((s.applyAdds adds).performed o.watch).dramTouch o.kind.touches).finishOp op)
    | _ => .next s

/-! Data returned (R135, R157, R305). -/

/-- What a lane receives, and where its data was uncorrectable or its compressed block malformed: the place, and whether it
was malformed (R305, R342). -/
structure Returned where
  lane : Nat
  words : List Word
  bad : Option (Loc × Bool)
deriving DecidableEq, Repr

/-- The first place of a list that cannot be read. -/
def State.firstBad (s : State) (ls : List Loc) : Option (Loc × Bool) :=
  ls.findSome? fun l => if (s.readLoc l).isNone then some (l, true) else if s.locBad l then some (l, false) else none

/-- One lane of a load, with the held stores that it sees (R80). -/
def State.loadLane (s : State) (w : MemWidth) (held : List (Nat × Loc × Byte)) (x : Nat × Loc) : Returned :=
  let own (b : Loc) : Option Byte := (held.find? fun h => h.1 == x.1 && h.2.1 == b).map (·.2.2)
  let span := x.2.span w.bytes
  match s.firstBad (span.filter fun b => (own b).isNone) with
  | some (_, m) => ⟨x.1, loadedWords w 0, some (x.2, m)⟩
  | none => ⟨x.1, loadedWords w (numOf (span.map fun b => (own b).getD ((s.readLoc b).getD 0))), none⟩

/-- One lane of a volume sample (R345). -/
def State.texelLane (s : State) (nearest : Bool) (x : Nat × List Word × List (Option Loc) × Word) : Returned :=
  match (x.2.2.1.filterMap id).findSome? fun l => (s.firstBad (l.span 4)).map fun b => (l, b.2) with
  | some b => ⟨x.1, [0], some b⟩
  | none =>
    ⟨x.1, [texelResult nearest x.2.1 (x.2.2.1.map fun t =>
      match t with
      | some l => BitVec.ofNat 32 (s.readNum l 4)
      | none => x.2.2.2)], none⟩

/-- The features of one level of a lane, BF16 codes (R174). -/
def State.levelFeatures (s : State) (four : Bool) (ws : List Word) (ls : List Loc) : List Nat :=
  (List.range (if four then 4 else 2)).map fun e =>
    if ls.isEmpty then 0x7FC0
    else
      let acc := weighted (ws.zip (ls.map fun l => bf16.value (s.readNum (l.plus (2 * e)) 2))) 0
      (bf16.pack .rne false (fp32.value acc.toNat)).1

/-- Two 16-bit features a word. -/
def packPairs : List Nat → List Word
  | a :: b :: r => BitVec.ofNat 32 (a + b * 65536) :: packPairs r
  | [a] => [BitVec.ofNat 32 a]
  | [] => []

/-- One lane of a hash gather (R174); a lane without coordinates gets NaN features. -/
def State.gatherLane (s : State) (fours : List Bool) (x : Nat × List (List Word × List Loc)) : Returned :=
  let levels : List (Bool × List Word × List Loc) := fours.zipIdx.map fun f => (f.1, x.2.getD f.2 ([], []))
  let feats := (levels.map fun f => s.levelFeatures f.1 f.2.1 f.2.2).flatten
  match (levels.map fun f => f.2.2.map fun l => (l, if f.1 then 8 else 4)).flatten.findSome? fun (y : Loc × Nat) =>
      (s.firstBad (y.1.span y.2)).map fun b => (y.1, b.2) with
  | some b => ⟨x.1, packPairs (feats.map fun _ => 0), some b⟩
  | none => ⟨x.1, packPairs feats, none⟩

/-- What an operation returns to its lanes; none for an operation that returns nothing. What a scratchpad's bank has given already stands
before the rest. -/
def State.returns (s : State) (o : Op) : Option (List Returned) :=
  match o.kind with
  | .load w accs held => some ((o.got.map fun g => ⟨g.1, g.2.1, g.2.2.map fun l => (l, false)⟩) ++ accs.map (s.loadLane w held))
  | .values vals _ => some (vals.map fun v => ⟨v.1, v.2, none⟩)
  | .texel nearest ls => some (ls.map (s.texelLane nearest))
  | .gather fours ls => some (ls.map (s.gatherLane fours))
  | .vaultRead vals => some (vals.map fun v => ⟨v.1, v.2, none⟩)
  | .store _ | .atomic _ _ | .scatter _ | .hashDesc _ | .query _ _ | .copyFill _ _ | .copyDrain _ _ | .copyMem _
  | .put _ _ | .vaultWrite _ | .table _ _ => none

/-- Lanes' words written to the destination (R135). -/
def State.writeDest (s : State) (o : Op) (rs : List Returned) : State :=
  match o.dest with
  | .vector f _ =>
    let vs : List (Nat × Word) := (rs.map fun r => r.words.zipIdx.map fun v => (vkey o.owner (f + v.2) r.lane, v.1)).flatten
    { s with run := { s.run with vregs := tsets s.run.vregs vs } }
  | .scalar f _ =>
    match rs with
    | r :: _ => s.writeSs o.pid f r.words
    | [] => s
  | .none => s

/-- A deferred trap directed to an operation's path, or to the lowest live path of its wave (R305, R307). -/
def State.deferTo (s : State) (pid : Nat) (d : DueTrap) : State :=
  if (s.path pid).isSome then s.addDue pid d
  else
    match s.pathsOf (pid / 4) with
    | q :: _ => if isHelper pid then s else s.addDue q.1 d
    | [] => s

/-- A path that waited for an operation's data goes on (R136). -/
def State.wakeSplit (s : State) (pid op : Nat) : State :=
  match s.path pid with
  | some p =>
    if p.wait = .data op then
      (s.setPath pid { p with st := .ready, wait := .none, readyAt := s.icc (coreOf pid) + 1 }).settle pid
    else s
  | none => s

/-- A load has written a path's registers: where exec is among them, what a change of the mask brings (R77, R207, R380). -/
def State.loaded (s : State) (pid : Nat) (d : Dest) : State :=
  match d, s.path pid with
  | .scalar f n, some _ => if 93 < f + n then (s.settle pid).reapHelper pid else s
  | _, _ => s

/-- LOAD_DATA_RETURN (R135, R305). -/
def execLoadDataReturn (op : Nat) (soft : SoftErrors) (s : State) : Result :=
  match s.findOp op with
  | none => .next s
  | some o =>
    if o.dropped || !s.mayPerform o then .next s
    else
      let touched := o.kind.touches
      let s0 := (s.correctedAll soft.corrected).uncorrectableAll
        (soft.bad.filter fun g => touched.any fun l => (s.granules l).contains g)
      match s0.returns o with
      | none => .next s
      | some rs =>
        let s1 := s0.writeDest o rs
        let bad : Option (DWord × Option Nat) :=
          match o.kind with
          | .values _ b => b
          | _ => rs.findSome? fun r => r.bad.map fun b => (loadAux (o.vaOf b.1) b.2, laneName r.lane)
        let s2 := match bad with
          | some b => s1.deferTo o.pid ⟨1, 0x11, b.1, b.2, s.clk⟩
          | none => s1
        let s3 := match o.kind with
          | .values _ _ => s2
          | _ => (s2.performed o.watch).dramTouch touched
        let s4 := s3.finishOp op
        .next (((match s.path o.pid with | some p => s4.traceTurn o.pid none p.mask | none => s4).loaded o.pid o.dest).wakeSplit o.pid op)

/-! Scratchpad banks (R356). -/

/-- Whether a byte lies at a core's own bank; other memory is no bank's. -/
def Loc.ownBank (l : Loc) (core : Nat) : Bool := match l with | .sram k _ => k == core | _ => true

/-- The part of an access at its own core's bank, or at the others'. -/
def OpKind.part (k : OpKind) (core : Nat) (own : Bool) : OpKind :=
  match k with
  | .load w accs held => .load w (accs.filter fun x => x.2.ownBank core == own) held
  | .store cs => .store (cs.filter fun x => x.1.ownBank core == own)
  | .atomic a accs => .atomic a (accs.filter fun x => x.2.1.ownBank core == own)
  | k => k

/-- The hits of a part: a watched scratchpad byte is named by its core (R359, R373). -/
def Watch.part (w : Watch) (core : Nat) (own : Bool) : Watch :=
  { w with hits := w.hits.filter fun h => (h.2 / 1048576 == core % 4) == own }

/-- A part of an access as an operation of its own, and what is left of the access. -/
def Op.partOf (o : Op) (own : Bool) : Op :=
  { o with kind := o.kind.part (coreOf o.pid) own, watch := o.watch.map fun w => w.part (coreOf o.pid) own, due := 0, far := 0 }
def Op.leftOf (o : Op) (own : Bool) : Op :=
  { o.partOf (!own) with due := if own then 0 else o.due, far := if own then o.far else 0 }

/-- The parts of scratchpad accesses whose cycle has come by a reference cc, each with the cc in which it is performed: that of its cycle, or
now where it has been held up. -/
def State.bankParts (s : State) (upto : Nat) : List (Nat × Op × Bool) :=
  (s.ops.map fun o =>
    let i := s.island (clusterOf (coreOf o.pid))
    let part (n : Nat) (own : Bool) : List (Nat × Op × Bool) :=
      if o.done || n == 0 || decide (i.count upto < n) then [] else [(max s.clk (i.refAt n), o, own)]
    part o.due true ++ part o.far false).flatten

/-- The order of parts: by cc; what reads before what writes, so that it gets the last write before its cc; the own core's before the
others' in ascending number (R356; log entry 112). -/
def partKey (x : Nat × Op × Bool) : Nat :=
  (((x.1 * 2 + (if x.2.1.kind.changes then 1 else 0)) * 2 + (if x.2.2 then 0 else 1)) * 128 + coreOf x.2.1.pid) * 2 ^ 64 + x.2.1.id

/-- The next part to be performed by a cc. -/
def State.nextPart (s : State) (upto : Nat) : Option (Nat × Op × Bool) :=
  ((s.bankParts upto).filter fun x => ({ s with clk := x.1 } : State).mayPerform (x.2.1.partOf x.2.2)).foldl
    (fun b x => match b with
      | some y => if partKey x < partKey y then some x else b
      | none => some x) none

/-- An operation in flight replaced by its next form. -/
def State.replaceOp (s : State) (o : Op) : State := { s with ops := s.ops.map fun (q : Op) => if q.id == o.id then o else q }

/-- A part performed at its bank: bytes written, values taken, hits counted; an access without a part left is performed. -/
def State.performPart (s : State) (o : Op) (own : Bool) : State :=
  let here := o.partOf own
  let left := o.leftOf own
  let last := left.due == 0 && left.far == 0
  let took (t : State) (rs : List (Nat × List Word × Option Loc)) : State :=
    if !last then t.replaceOp { left with got := o.got ++ rs }
    else if o.dropped then t.finishOp o.id
    else t.replaceOp { left with kind := left.back rs }
  match here.kind with
  | .load w accs held =>
    (took s (accs.map fun x => let r := s.loadLane w held x; (r.lane, r.words, r.bad.map (·.1)))).performed here.watch
  | .store cells =>
    let t := (s.writeLocs cells).performed here.watch
    if last then t.finishOp o.id else t.replaceOp left
  | .atomic a accs =>
    let r := s.applyAtomic a accs
    took (r.1.performed here.watch) r.2
  | _ => s

/-- The scratchpad accesses performed whose cycles come by a cc, each in its cc; `fuel` bounds their parts. -/
def State.banks (s : State) (upto : Nat) : Nat → State
  | 0 => s
  | fuel + 1 =>
    match s.nextPart upto with
    | some (cc, o, own) => (({ s with clk := cc } : State).performPart o own).banks upto fuel
    | none => s

/-- Forced merges that have waited for a slot to become free (R199, R212). -/
def State.retryMerges (s : State) : State :=
  if !s.run.running || s.run.halted then s
  else s.run.tokens.foldl (fun t e =>
    if e.2.any (fun x => x.forced && !x.awaits) && decide (e.1 < 4096) && !t.clusterStopped (e.1 / 128) then t.completeTokens e.1 65 else t) s

/-- What time brings by itself up to a cc: scratchpad accesses at their banks, then, in that cc, merges that have waited for a slot and log
entries that have waited for memory (R199, R356, R387). -/
def State.elapse (s : State) (cc : Nat) : State :=
  let t := s.banks cc (2 * s.ops.length)
  let u := ({ t with clk := max t.clk cc } : State).retryMerges
  if u.ras.log.isEmpty then u else u.writeLog u.ras.log

/-! Hash contexts (R172). -/

/-- HDESC_LOADED (R172). -/
def execHdescLoaded (op : Nat) (s : State) : Result :=
  match s.findOp op with
  | none => .next s
  | some o =>
    match o.kind with
    | .hashDesc ls =>
      let bid := s.opBlock o
      if s.ops.any fun q => !q.done && decide (q.id < op) && s.opBlock q == bid && (match q.kind with
          | .hashDesc _ => true
          | _ => false) then .next s
      else .next ((s.onBlock bid fun b => { b with hash := some ls }).finishOp op)
    | _ => .next s

/-! Queries (R177 to R181). -/

/-- The answers of an instruction's lanes in ascending order, up to the first that faults or does not return. -/
def State.answers (s : State) (o : Op) : List Nat → List (Nat × Traversal) × List Nat
  | [] => ([], [])
  | l :: ls =>
    let r : Traversal × List Nat := match o.queryState l with
      | some q => s.answer (coreOf o.pid) o.sys q
      | none => (.none, [])
    match r.1 with
    | .fault _ _ | .wait => ([(l, r.1)], r.2)
    | _ =>
      let rest := s.answers o ls
      ((l, r.1) :: rest.1, r.2 ++ rest.2)

/-- The isect.next instructions in flight that follow a query of a lane, up to the next isect.ray or isect.tile (R180). -/
def State.nextsAfter (s : State) (o : Op) (lane : Nat) : List Nat :=
  ((s.ops.filter fun p => decide (o.id < p.id) && p.queries o.owner lane).takeWhile fun p =>
    match p.kind with | .query _ next => next | _ => false).map (·.id)

/-- The state of a query with the key of a written hit. -/
def Query.after (q : Query) (h : Hit) : Query := { q with last := some (h.t, BitVec.ofNat 32 h.index) }

/-- The key of a written hit kept: in the lane's query state, unless it has been cleared or set anew since, and in every isect.next in
flight that goes on with the query (R177, R180, R252). -/
def State.noteHit (s : State) (o : Op) (x : Nat × Traversal) : State :=
  match x.2, o.queryState x.1 with
  | .hit h, some q =>
    let s1 :=
      if tget s.run.queries (lkey o.owner x.1) = some q ∧ s.queriesFrom o.owner x.1 ≤ o.id then s.setQueries o.owner [(x.1, q.after h)] else s
    let later := s.nextsAfter o x.1
    { s1 with ops := s1.ops.map fun (r : Op) =>
        match r.kind with
        | .query qs true =>
          if later.contains r.id && (tget qs x.1).isSome then { r with kind := .query (tset qs x.1 (q.after h)) true } else r
        | _ => r }
  | _, _ => s

/-- The places that a traversal has read. -/
def State.treeLocs (s : State) (o : Op) (seen : List Nat) : List Loc :=
  (seen.map fun a => match s.reach (coreOf o.pid) ⟨o.sys, false, false⟩ a with | .at_ l => l.span 16 | _ => []).flatten

/-- Watchpoint matches of a traversal's reads, which count as loads (R373). -/
def State.traversalMatches (s : State) (o : Op) (seen : List Nat) : Option Watch :=
  let ms := s.matchesOf (coreOf o.pid) 0 16 (seen.map fun a => ⟨0, a, .phys 0⟩)
  if ms.isEmpty then none
  else
    some
      { cluster := clusterOf (coreOf o.pid),
        src := BitVec.ofNat 64 (coreOf o.pid % 4 * 2 ^ 56
          + (match s.helper o.pid with | some h => h.lender % 32 | none => o.pid / 4 % 32) * 2 ^ 51
          + (if isHelper o.pid then 0 else o.pid % 4) * 2 ^ 49 + o.first),
        hlp := BitVec.ofNat 32 (if isHelper o.pid then 2 ^ 31 + (o.pid - helperBase) % 16 else 0),
        hits := ms.map fun m => (m.wp, m.addr) }

/-- The deferred trap of a query that faulted, or the kill of a graphics wave (R181, R252, R255). -/
def State.queryFault (s : State) (o : Op) (lane cause a : Nat) : State :=
  if cause = 4 ∧ !isHelper o.pid ∧ s.faultKills (o.pid / 4) a then s.faultKill (o.pid / 4) a
  else s.deferTo o.pid ⟨2, cause, BitVec.ofNat 64 (a % 2 ^ 49 + 2 ^ 61), some lane, s.clk⟩

/-- ISECT_RESULT (R181). -/
def execIsectResult (op : Nat) (s : State) : Result :=
  match s.findOp op with
  | none => .next s
  | some o =>
    match o.kind with
    | .query _ _ =>
      if s.ops.any fun q => q.owner == o.owner && !q.done && decide (q.id < op) && (match q.kind with
          | .query _ _ => true
          | _ => false) then .next s
      else
        let r := s.answers o (lanesOf o.mask)
        let read := s.treeLocs o r.2
        -- an earlier store of the path to what the query reads comes first (R319)
        if s.ops.any fun q => !q.done && o.after.contains q.id && q.kind.changes && q.kind.touches.any read.contains then .next s
        else
          let s1 := (s.performed (s.traversalMatches o r.2)).dramTouch read
          match r.1.find? fun x => (match x.2 with | .fault _ _ | .wait => true | _ => false) with
          | some (_, .wait) => .next s
          | some (l, .fault c a) =>
            let s2 := s1.writeDest o ((lanesOf o.mask).map fun l => ⟨l, resultWords (.fault c a), none⟩)
            .next ((s2.finishOp op).queryFault o l c a)
          | _ =>
            let s2 := s1.writeDest o (r.1.map fun x => ⟨x.1, resultWords x.2, none⟩)
            .next ((r.1.foldl (fun t x => t.noteHit o x) s2).finishOp op)
    | _ => .next s

/-! The vault (R155, R157). -/

/-- VACC_WR_PERFORMED (R157). -/
def execVaccWrPerformed (op : Nat) (s : State) : Result :=
  match s.findOp op with
  | none => .next s
  | some o =>
    match o.kind with
    | .vaultWrite ws =>
      let cl := clusterOf (coreOf o.pid)
      if !s.mayPerform o || ws.any fun w => s.vaultTested (w.1 / 384 / 1024) (w.1 / 384 % 1024) then .next s
      else
        let t := s.refreshCluster cl
        .next ((({ t with vault := tsets t.vault ws } : State).finishOp op).refreshCluster cl)
    | _ => .next s

end Sys2Proof.Machine
end

