-- ==== Sys2Proof/Machine/Engine.lean ====
section
/-! DEFINITION. Tiles and the copy engine: tdef, tfree, tstat, the cp commands and their completion (R150 to R153, R227, R231 to
R239, R330). Data moves when a command completes, or line by line when the directory recalls a line (log entry 13). -/

namespace Sys2Proof.Machine

/-! Tiles (R231 to R236). -/

/-- Whether a B-deck tile takes a format (R233). -/
def bdeckFormat (f : Nat) : Bool := f == 0 || f == 1 || f == 2 || f == 4 || f == 5

/-- A tile after a change, with rel cleared when it becomes empty (R236). -/
def Tile.become (t : Tile) (st : TileState) : Tile := { t with st := st, rel := if st = .empty then false else t.rel }

/-- A release of a tile (R236): at once where nothing reads it, else when the readers end. -/
def Tile.release (t : Tile) : Tile :=
  if t.st = .ready then (if t.refs = 0 then t.become .empty else { t with rel := true }) else t

/-- One read reference returned (R236). -/
def Tile.unref (t : Tile) : Tile :=
  let u := { t with refs := t.refs - 1 }
  if u.refs = 0 ∧ u.rel ∧ u.st = .ready then u.become .empty else u

def State.onTile (s : State) (e : Nat) (f : Tile → Tile) : State :=
  match tget s.run.tiles e with
  | some t => s.setTile e (f t)
  | none => s

/-- The tile that an instruction names, or trap 0x02 with its number (R150). -/
def withTile (c : Ctx) (s : State) (t : BitVec 7) (k : Nat → Tile → Fate) : Fate :=
  match s.tileOf (s.bidOf c.pid) t.toNat with
  | some e => k e.1 e.2
  | none => .trap 0x02 (t.zeroExtend 64) none

/-- Whether two defined tiles of a cluster overlap (R234). -/
def Tile.overlaps (t u : Tile) : Bool :=
  u.defined && t.bdeck == u.bdeck &&
    (if t.bdeck then
      spansMeet t.pitch t.cols u.pitch u.cols
        && spansMeet t.base (t.rows * (formatBits t.fmt / 8)) u.base (u.rows * (formatBits u.fmt / 8))
     else t.own == u.own && spansMeet t.base (t.rows * t.pitch) u.base (u.rows * u.pitch))

/-- The description in a group of four scalars (R227, R232), for an entry of a block; none where R234 refuses it. -/
def describeTile (b : Block) (e : Tile) (w : List Nat) : Option Tile :=
  let g (k : Nat) : Nat := w.getD k 0
  let t : Tile :=
    { e with
      base := g 0, rows := fld (g 1) 16 16, cols := fld (g 1) 0 16, pitch := g 2, bdeck := fld (g 3) 31 1 == 1,
      fmt := fld (g 3) 0 4, defined := true }
  if fld (g 3) 4 27 ≠ 0 ∨ formatBits t.fmt = 0 ∨ t.rows = 0 ∨ t.cols = 0 then none
  else if t.bdeck then
    if 512 ≤ t.pitch ∨ !bdeckFormat t.fmt ∨ t.base % 32 ≠ 0 ∨ 384 < t.pitch + t.cols
        ∨ 16384 < t.base + t.rows * (formatBits t.fmt / 8) then none
    else some t
  else if t.base % 128 ≠ 0 ∨ t.pitch % 16 ≠ 0 ∨ t.pitch < t.rowBytes
      ∨ b.scratch < t.base + (t.rows - 1) * t.pitch + t.rowBytes then none
  else some t

/-- Whether a table operation of a cluster is in flight. -/
def State.tableBusy (s : State) (cluster : Nat) : Bool :=
  s.ops.any fun o => !o.done && (match o.kind with
    | .table e _ => e / 128 == cluster
    | _ => false)

/-- TDEF (R153, R234). -/
def execTdef (t r : BitVec 7) (s : State) : Result :=
  issue (.tdef t r) (fun c s =>
    withTile c s t fun e u =>
      match s.blockOf c.pid with
      | none => .done s
      | some b =>
        if s.tableBusy (clusterOf c.core) then .wait s .hold
        else if u.st ≠ .empty then .trap 0x07 (t.zeroExtend 64) none
        else
          match describeTile b u ((List.range 4).map fun k => (s.readS c.pid c.p (r.toNat + k)).toNat) with
          | none => .trapOpen 0x13
          | some v =>
            if (trange s.run.tiles (128 * clusterOf c.core) (128 * clusterOf c.core + 128)).any fun x =>
                x.1 != e && v.overlaps x.2 then .trapOpen 0x13
            else .done (s.addOp (c.op .tl .none c.p.mask (.table e (some v)) none))) s

/-- Whether an engine command fills or drains a tile (R137). -/
def OpKind.holdsTile (k : OpKind) (entry : Nat) : Bool :=
  match k with
  | .copyFill e _ | .copyDrain e _ => e == entry
  | _ => false

/-- TFREE (R153, R236). -/
def execTfree (t : BitVec 7) (s : State) : Result :=
  issue (.tfree t) (fun c s =>
    withTile c s t fun e u =>
      if u.st = .filling ∨ u.st = .draining then
        .wait s (.line (match s.ops.find? fun o => !o.done && o.kind.holdsTile e with
          | some o => if coreOf o.pid = c.core then o.pc else 0
          | none => 0))
      else if s.tableBusy (clusterOf c.core) then .wait s .hold
      else .done (s.addOp (c.op .tl .none c.p.mask (.table e none) none))) s

/-- The code of a tile's state (R153). -/
def TileState.code : TileState → Nat
  | .empty => 0
  | .filling => 1
  | .ready => 2
  | .draining => 3

/-- TSTAT (R153). -/
def execTstat (t d : BitVec 7) (s : State) : Result :=
  issue (.tstat t d) (fun c s =>
    withTile c s t fun _ u => .done (s.writeS c.pid d.toNat (BitVec.ofNat 32 u.st.code))) s

/-- TABLE_ENTRY_UPDATED (R157). A description is written into an empty entry only, and no entry is released while its tile is copied
(R153, R236); what is written ends an uncorrectable error of the entry (R384). -/
def execTableEntryUpdated (op : Nat) (s : State) : Result :=
  match s.findOp op with
  | none => .next s
  | some o =>
    match o.kind with
    | .table e (some d) =>
      (match tget s.run.tiles e with
       | some t =>
         if t.st ≠ .empty then .next s
         else
           let s1 := (s.setTile e { d with st := t.st, rel := t.rel, refs := t.refs }).finishOp op
           .next { s1 with ras := { s1.ras with bad := s1.ras.bad.filter (· != granTile + e) } }
       | none => .next (s.finishOp op))
    | .table e none =>
      (match tget s.run.tiles e with
       | some t =>
         if t.st = .filling ∨ t.st = .draining then .next s else .next ((s.setTile e t.release).finishOp op)
       | none => .next (s.finishOp op))
    | _ => .next s

/-! Issuing copies (R150, R151, R238). -/

/-- A range in pieces of at most 16 bytes, each with its address and length. -/
def chunks (a n : Nat) : List (Nat × Nat) := (List.range ((n + 15) / 16)).map fun i => (a + 16 * i, min 16 (n - 16 * i))

/-- Rows of `n` bytes, `step` bytes apart. -/
def rowChunks (a step n rows : Nat) : List (Nat × Nat) := ((List.range rows).map fun r => chunks (a + r * step) n).flatten

/-- A piece of memory: its address, and the places of its bytes. -/
structure Piece where
  addr : Nat
  locs : List Loc
deriving DecidableEq, Repr

/-- What checking ranges finds. -/
inductive RangeCheck
  | ok (ps : List Piece)
  | stop (f : Fate)

/-- Pieces read or written, each with its length, checked in turn: translation first, then protection (R130, R151). A piece whose page is
moving is waited for before a cause that it could still come before (R340), and a store that is visible to the path and still to be
performed before the command reads or writes its bytes (R320). -/
def State.checkRanges (s : State) (c : Ctx) (rs : List (Bool × Nat × Nat)) : RangeCheck :=
  let found : List (Nat × Nat × Reach) := rs.map fun r => (r.2.2, r.2.1, s.reach c.core ⟨c.p.sys, r.1, false⟩ r.2.1)
  let moving (xs : List (Nat × Nat × Reach)) : Bool := xs.any fun x => x.2.2 == Reach.wait
  match firstFault 4 found with
  | some x =>
    if moving (found.takeWhile (· != x)) then .stop (.wait s .translation)
    else .stop (.trap 0x04 (BitVec.ofNat 64 x.2.1) none)
  | none =>
    if moving found then .stop (.wait s .translation)
    else
      match firstFault 5 found with
      | some x => .stop (.trap 0x05 (BitVec.ofNat 64 x.2.1) none)
      | none =>
        let ps : List Piece := found.filterMap fun x => match x.2.2 with | .at_ l => some ⟨x.2.1, l.span x.1⟩ | _ => none
        match s.unseenStore c.pid (ps.map (·.locs)).flatten with
        | some o => .stop (.wait s (.line o.pc))
        | none => .ok ps

/-- Commands that a cluster's copy engine holds (R238). -/
def State.copiesHeld (s : State) (cluster : Nat) : Nat :=
  (s.ops.filter fun o => !o.done && clusterOf (coreOf o.pid) == cluster && (match o.kind with
    | .copyFill _ _ | .copyDrain _ _ | .copyMem _ => true
    | _ => false)).length

/-- Accesses of a command that watchpoints compare: memory pieces and scratchpad bytes (R374). -/
def copyAccesses (ps : List Piece) (tile : List Loc) : List LaneAcc :=
  (ps.map fun p => p.locs.zipIdx.map fun l => (⟨96, p.addr + l.2, l.1⟩ : LaneAcc)).flatten
    ++ tile.map fun l => ⟨96, 0, l⟩

/-- A command accepted once its watchpoints allow it, after the stores to the tile's bytes that are visible to the path (R320, R328). -/
def acceptCopy (c : Ctx) (s : State) (ps : List Piece) (tile : List Loc) (kind : OpKind) (vas : List (Loc × Nat))
    (then_ : State → State) : Fate :=
  if Config.copyCommands ≤ s.copiesHeld (clusterOf c.core) then .wait s .hold
  else if let some o := s.unseenStore c.pid tile then .wait s (.line o.pc)
  else
    watched c s 3 1 false (copyAccesses ps tile) fun ms =>
      .done (then_ (s.addOp { c.op .cp .none c.p.mask kind (c.watch s 3 ms) with vas := vas }))

/-- Places of pieces with their addresses. -/
def pieceVas (ps : List Piece) : List (Loc × Nat) := (ps.map fun p => p.locs.zipIdx.map fun l => (l.1, p.addr + l.2)).flatten

/-- The operands of a tile copy: aligned, and rows at least a tile row apart (R150). -/
def tileCopyBad (sa sb row : Nat) : Option Nat :=
  if sa % 16 ≠ 0 then some sa else if sb % 16 ≠ 0 ∨ sb < row then some sb else none

/-- The shared shape of the tile copies: the table's updates waited for (R157, R236; log entry 52), the tile's state and kind, alignment,
the memory range. -/
def tileCopy (i : Instr) (t a b : BitVec 7) (bdeck : Bool) (from_ : TileState) (store : Bool) (s : State) : Result :=
  issue i (fun c s =>
    withTile c s t fun e u =>
      match s.blockOf c.pid with
      | none => .done s
      | some blk =>
        if s.tableBusy (clusterOf c.core) then .wait s .hold
        else if !u.defined || u.bdeck != bdeck || u.st != from_ then .trap 0x07 (t.zeroExtend 64) none
        else
          let sa := (s.readS64 c.pid c.p a.toNat).toNat
          let sb := (s.readS c.pid c.p b.toNat).toNat
          match tileCopyBad sa sb u.rowBytes with
          | some x => .trap 0x03 (BitVec.ofNat 64 x) none
          | none =>
            match s.checkRanges c ((rowChunks sa sb u.rowBytes u.rows).map fun r => (store, r)) with
            | .stop f => f
            | .ok ps =>
              let mem := (ps.map (·.locs)).flatten
              let tile := u.places blk
              if store then
                acceptCopy c s ps tile (.copyDrain e (tile.zip mem))
                  (tile.map fun l => (l, match l with | .sram _ o => o - blk.base | _ => 0))
                  fun s => s.onTile e fun v => v.become .draining
              else
                acceptCopy c s ps tile (.copyFill e (mem.zip tile)) (pieceVas ps)
                  fun s => s.onTile e fun v => v.become .filling) s

/-- CP_TILE (R150). -/
def execCpTile (t a b : BitVec 7) (s : State) : Result := tileCopy (.cpTile t a b) t a b false .empty false s

/-- CP_BDECK (R150, R239). -/
def execCpBdeck (t a b : BitVec 7) (s : State) : Result := tileCopy (.cpBdeck t a b) t a b true .empty false s

/-- CP_STORE (R150). -/
def execCpStore (t a b : BitVec 7) (s : State) : Result := tileCopy (.cpStore t a b) t a b false .ready true s

/-- CP_COPY (R151). -/
def execCpCopy (n a b : BitVec 7) (s : State) : Result :=
  issue (.cpCopy n a b) (fun c s =>
    let dst := (s.readS64 c.pid c.p a.toNat).toNat
    let src := (s.readS64 c.pid c.p b.toNat).toNat
    let len := (s.readS c.pid c.p n.toNat).toNat
    match [dst, src, len].find? fun x => x % 16 != 0 with
    | some x => .trap 0x03 (BitVec.ofNat 64 x) none
    | none =>
      match s.checkRanges c ((chunks src len).map (fun r => (false, r)) ++ (chunks dst len).map fun r => (true, r)) with
      | .stop f => f
      | .ok ps =>
        let half := ps.length / 2
        let from_ := ps.take half
        acceptCopy c s ps [] (.copyMem ((from_.map (·.locs)).flatten.zip (((ps.drop half).map (·.locs)).flatten)))
          (pieceVas from_) id) s

/-! Completing copies (R152, R236, R238, R330). -/

/-- The bytes that a copy has still to move. -/
def OpKind.pairs : OpKind → List (Loc × Loc)
  | .copyFill _ ps | .copyDrain _ ps | .copyMem ps => ps
  | _ => []

/-- Whether bytes may move: no command and no clearing engine's operation that issued earlier owns their source or destination lines (log
entry 13), none of them is held back, and their sources can be read. -/
def State.mayMove (s : State) (op : Nat) (ps : List (Loc × Loc)) : Bool :=
  !(ps.any fun p => s.ownedBelow op p.1 || s.ownedBelow op p.2 || s.clearingBelow op p.1 || s.clearingBelow op p.2 || s.heldBack p.1
    || s.heldBack p.2 || s.locBad p.1 || (s.readLoc p.1).isNone)

/-- Whether a command's tile has an entry of the table that holds an uncorrectable error (R152, R384). -/
def State.entryBad (s : State) (k : OpKind) : Bool :=
  match k with
  | .copyFill e _ | .copyDrain e _ => s.tileBad e
  | _ => false

/-- Bytes moved: every source is read before any destination is written. -/
def State.moveBytes (s : State) (ps : List (Loc × Loc)) : State :=
  s.writeLocs (ps.map fun p => (p.2, (s.readLoc p.1).getD 0))

/-- A copy completed, with what becomes of its tile. -/
def State.completeCopy (s : State) (o : Op) (tile : State → State) : State :=
  (((tile (s.moveBytes o.kind.pairs)).performed o.watch).dramTouch
    ((o.kind.pairs.map (·.1)) ++ o.kind.pairs.map (·.2))).finishOp o.id

/-- COPY_FILL_COMPLETE (R236). -/
def execCopyFillComplete (op : Nat) (s : State) : Result :=
  match s.findOp op with
  | none => .next s
  | some o =>
    match o.kind with
    | .copyFill e ps =>
      if s.mayMove op ps && !s.tileBad e then
        let cl := clusterOf (coreOf o.pid)
        .next (((s.refreshCluster cl).completeCopy o fun s => s.onTile e fun t => t.become .ready).refreshCluster cl)
      else .next s
    | _ => .next s

/-- A draining tile after its store: empty, or ready with rel while it is read (R236). -/
def Tile.drained (t : Tile) : Tile := if t.refs = 0 then t.become .empty else { t with st := .ready, rel := true }

/-- COPY_DRAIN_COMPLETE (R236). -/
def execCopyDrainComplete (op : Nat) (s : State) : Result :=
  match s.findOp op with
  | none => .next s
  | some o =>
    match o.kind with
    | .copyDrain e ps =>
      if s.mayMove op ps && !s.tileBad e then .next (s.completeCopy o fun s => s.onTile e Tile.drained) else .next s
    | _ => .next s

/-- CP_COPY_COMPLETE (R151). -/
def execCpCopyComplete (op : Nat) (s : State) : Result :=
  match s.findOp op with
  | none => .next s
  | some o =>
    match o.kind with
    | .copyMem ps => if s.mayMove op ps then .next (s.completeCopy o id) else .next s
    | _ => .next s

/-- What is left of a copy after some of its bytes have moved. -/
def OpKind.without (k : OpKind) (f : Loc × Loc → Bool) : OpKind :=
  match k with
  | .copyFill e ps => .copyFill e (ps.filter fun p => !f p)
  | .copyDrain e ps => .copyDrain e (ps.filter fun p => !f p)
  | .copyMem ps => .copyMem (ps.filter fun p => !f p)
  | k => k

/-- DIRECTORY_RECALL (R330): the oldest command that owns a line writes it and releases it. -/
def execDirectoryRecall (line : Nat) (s : State) : Result :=
  let inLine (p : Loc × Loc) : Bool := p.2.line == some line
  match s.ops.find? fun o => !o.done && o.kind.pairs.any inLine with
  | none => .next s
  | some o =>
    let ps := o.kind.pairs.filter inLine
    if s.mayMove o.id ps then
      let t := (s.moveBytes ps).dramTouch (ps.map (·.1) ++ ps.map (·.2))
      .next { t with ops := t.ops.map fun (q : Op) => if q.id == o.id then { q with kind := q.kind.without inLine } else q }
    else .next s

/-- The state of a tile whose copy has stopped (R236). -/
def OpKind.stopTile (k : OpKind) (s : State) : State :=
  match k with
  | .copyFill e _ => s.onTile e fun t => t.become .empty
  | .copyDrain e _ => s.onTile e fun t => { t with st := .ready }
  | _ => s

/-- A command stopped by an error at an address (R152): its lines and its tile released, trap 0x11 due in its wave's lowest path, and the
streams of the cluster offered what they may read again (R242). -/
def State.stopCommand (s : State) (o : Op) (addr : Nat) (malformed : Bool) : State :=
  let cl := clusterOf (coreOf o.pid)
  let s1 := ((o.kind.stopTile (s.refreshCluster cl)).finishOp o.id).refreshCluster cl
  let d : DueTrap := ⟨1, 0x11, BitVec.ofNat 64 (addr % 2 ^ 49 + 2 ^ 62 + if malformed then 2 ^ 58 else 0), none, s.clk⟩
  if o.owner < 4096 then
    match s1.pathsOf o.owner with
    | q :: _ => s1.addDue q.1 d
    | [] => s1
  else s1

/-- ENGINE_UE_STOP (R152): a command that reads uncorrectable data or a malformed compressed block at an address stops, and one whose tile's
entry of the table is uncorrectable, with an address that the spec does not state (log entry 24). -/
def execEngineUeStop (op addr : Nat) (s : State) : Result :=
  match s.findOp op with
  | none => .next s
  | some o =>
    if s.entryBad o.kind then .next (s.takeFree.stopCommand o s.openAux.toNat false)
    else
      match o.kind.pairs.find? fun p => o.vaOf p.1 == addr && o.vas.any fun v => v.1 == p.1 with
      | none => .next s
      | some p =>
        let malformed := (s.readLoc p.1).isNone
        let s1 := if malformed || s.locBad p.1 then s else (s.granules p.1).head?.elim s s.uncorrectable
        .next (s1.stopCommand o addr malformed)

end Sys2Proof.Machine
end

