-- ==== Sys2Proof/Machine/Stream.lean ====
section
/-! DEFINITION. The matrix sequencer: a block's stream, its dependency table, operand maps, matrix passes, the vault's adders
and the teller (R12, R52, R53, R55, R57, R60, R160 to R170, R239 to R244). -/

namespace Sys2Proof.Machine

/-! A stream and its table (R160, R161). -/

/-- A stream at its start (R160). -/
def Stream.start (entry : Nat) (reservation : Option Nat) : Stream :=
  { pc := entry, maps := [], counters := [], seen := [], entries := [], state := .running, nextId := 0,
    reservation := reservation }

def Stream.map (st : Stream) (m : Nat) : OperandMap := tgetD OperandMap.zero st.maps m

/-- A map as an MMAP word leaves it (R163). -/
def mapAfter (op : StreamOp) (ms : Sparse OperandMap) : Sparse OperandMap :=
  match op with
  | .mmapShape m x y => tset ms m.toNat { tgetD OperandMap.zero ms m.toNat with m := x.toNat, n := y.toNat }
  | .mmapK m k o => tset ms m.toNat { tgetD OperandMap.zero ms m.toNat with k := k.toNat, kofs := o.toNat }
  | .mmapAcc m r ta tb => tset ms m.toNat { tgetD OperandMap.zero ms m.toNat with row := r.toNat, ta := ta, tb := tb }
  | _ => ms

/-- The maps as every word fetched so far leaves them, which an entry captures (R161). -/
def Stream.mapsAhead (st : Stream) : Sparse OperandMap :=
  (st.entries.filter fun e => !e.issued).foldl (fun ms e => match e.op with | some op => mapAfter op ms | none => ms) st.maps

/-! Faults (R162). -/

/-- The lowest-numbered live wave of a block. -/
def State.firstWave (s : State) (bid : Nat) : Option Nat :=
  let best := (s.run.waves.filter fun w => w.2.block == bid).foldl (fun (m : Option (Nat × Nat)) w => match m with
    | some x => if w.2.index < x.1 then some (w.2.index, w.1) else some x
    | none => some (w.2.index, w.1)) none
  best.map (·.2)

/-- A trap made due in a wave, at the next instruction boundary of its lowest path; a wave that has been killed and not issued again has no
path yet, and keeps it (R162, R255). -/
def State.dueWave (s : State) (wid : Nat) (d : DueTrap) : State :=
  match s.pathsOf wid with
  | q :: _ => s.addDue q.1 d
  | [] => s.onWave wid fun w => { w with due := dueInsert w.due d }

/-- Read references of an entry returned. -/
def State.unrefTiles (s : State) (bid : Nat) : List Nat → State
  | [] => s
  | t :: ts =>
    (match s.tileOf bid t with
     | some e => s.setTile e.1 e.2.unref
     | none => s).unrefTiles bid ts

/-- A stream stopped, with its trap or, where no wave lives, its interrupt: entries not yet issued are discarded, the others take effect
(R12, R162). -/
def State.stopStream (s : State) (bid addr cause : Nat) : State :=
  let s1 := s.onStream bid fun st => { st with state := .stopped, entries := st.entries.filter (·.issued) }
  match s1.firstWave bid with
  | some wid => s1.dueWave wid ⟨3, cause, BitVec.ofNat 64 (addr % 2 ^ 49 + 2 ^ 63), none, s.clk⟩
  | none => s1.interrupt (.streamStopped bid addr cause)

/-! Work that follows an entry's issue (R164, R167, R168, R242). -/

/-- The vault with a block of zeros. -/
def zeroVault (s : State) (cluster row rows cols : Nat) : State :=
  let zeros := (List.range rows).map fun i => (List.range cols).map fun j => (vaultKey cluster (row + i) j, (0 : Word))
  { s with vault := tsets s.vault zeros.flatten }

/-- References taken on tiles. -/
def State.refTiles (s : State) (bid : Nat) : List Nat → State
  | [] => s
  | t :: ts =>
    (match s.tileOf bid t with
     | some e => s.setTile e.1 { e.2 with refs := e.2.refs + 1 }
     | none => s).refTiles bid ts

/-- Whether the vault's adders work on an entry: macz and mscl, one at a time. -/
def StreamEntry.adding (e : StreamEntry) : Bool := (e.op.bind mmaOf).isNone && e.inFlight != 0

/-- Whether an issued entry may take effect on its rows now: no earlier entry stands before it, no vacc.wr writes them, and the tile whose
scales it reads is ready. -/
def State.mayAct (s : State) (bid : Nat) (b : Block) (st : Stream) (e : StreamEntry) : Bool :=
  e.issued && !st.blockedRows e false && !s.entryTested bid b e && !(e.rows.any fun r => s.vaccWrites (b.core / 4) r.1 r.2)
    && ((e.op.bind mmaOf).isSome || e.tiles.all fun t => match s.tileOf bid t with | some u => u.2.readable | none => false)

/-- The adders of a stream begin its oldest macz or mscl that may act, if they are free: it holds a reference on its tile until it retires
(R168, R236). -/
def State.startAdder (s : State) (bid : Nat) : State :=
  match s.block bid with
  | none => s
  | some b =>
    match b.stream with
    | none => s
    | some st =>
      if st.entries.any StreamEntry.adding || !s.run.running || s.run.halted then s
      else
        match st.entries.find? fun e => (e.op.bind mmaOf).isNone && e.begun && s.mayAct bid b st e with
        | none => s
        | some e => (s.refTiles bid e.tiles).onStream bid fun st => st.onEntry e.id fun e => { e with nextPass := 1, inFlight := 1 }

/-- The oldest issued mma without a pass, which clears its rows when it may (R164). -/
def State.clearRows (s : State) (bid : Nat) : Option State :=
  match s.block bid with
  | none => none
  | some b =>
    match b.stream with
    | none => none
    | some st =>
      (st.entries.find? fun e => (match e.op.bind mmaOf with
        | some g => passesOf g e.map == 0
        | none => false) && s.mayAct bid b st e).map fun e =>
          (zeroVault s (b.core / 4) e.map.row e.map.m e.map.n).onStream bid fun st => st.dropEntry e.id

/-- Every mma without a pass that may act, in turn. -/
def State.clearAll (s : State) (bid : Nat) : Nat → State
  | 0 => s
  | fuel + 1 =>
    match s.clearRows bid with
    | some t => t.clearAll bid fuel
    | none => s

/-- What follows at once from a change of a stream's entries, its tiles or its rows: clearing instructions take effect, the adders begin
the next entry, and the cycles from which passes are eligible are noted. -/
def State.settleStream (s : State) (bid : Nat) : State :=
  ((s.clearAll bid Config.streamEntries).startAdder bid).refreshStream bid

/-! Fetching (R12, R161). -/

/-- What fetching a stream word gives. -/
inductive StreamFetch
  | word (w : Nat)
  | fault (cause : Nat)
  | wait

/-- A word fetched as a user-mode read (R12). -/
def State.fetchStream (s : State) (core a : Nat) : StreamFetch :=
  match s.reach core ⟨false, false, false⟩ a with
  | .at_ l => if (l.span 4).any s.mustWait then .wait else .word (s.readNum l 4)
  | .fault c => .fault c
  | .absent => .fault 4
  | .wait => .wait

/-- Whether a stream word takes a pfx (R12). -/
def streamWidens : StreamOp → Bool
  | .mloop _ _ | .mset _ _ => true
  | _ => false

/-- Whether fetching stops until an entry has issued: what changes the order, ends the stream or is defective. -/
def StreamEntry.holdsFetch (e : StreamEntry) : Bool :=
  !e.issued && (match e.op with
    | some (.mloop _ _) | some .mend | some .mhalt | none => true
    | _ => false)

/-- A new entry. -/
def Stream.enter (st : Stream) (addr next : Nat) (op : Option StreamOp) (cause : Nat) (pfx : Option Nat) : Stream :=
  let ms := st.mapsAhead
  let which : Nat × Nat :=
    match op with
    | some op =>
      (match op, mmaOf op with
       | _, some g => (g.m, g.m)
       | .mscl d a _ _, none => (d.toNat, a.toNat)
       | _, none => (0, 0))
    | none => (0, 0)
  { st with
    pc := next, nextId := st.nextId + 1,
    entries := st.entries ++ [{
      id := st.nextId, addr := addr, op := op, cause := cause, pfx := pfx, map := tgetD OperandMap.zero ms which.1,
      map2 := tgetD OperandMap.zero ms which.2, issued := false, begun := false, nextPass := 0, inFlight := 0,
      since := none }] }

/-- One fetch into the table. Of two pfx words the second is the defective one, as R12's list has it (log entry 126). -/
def State.streamEnter (s : State) (bid core : Nat) (st : Stream) : State :=
  let enter (addr next : Nat) (op : Option StreamOp) (cause : Nat) (pfx : Option Nat) : State :=
    s.onStream bid fun st => st.enter addr next op cause pfx
  match s.fetchStream core st.pc with
  | .wait => s
  | .fault c => enter st.pc st.pc none c none
  | .word w =>
    match parseHintWord w with
    | some (.pfx i) =>
      (match s.fetchStream core (st.pc + 4) with
       | .wait => s
       | .fault c => enter (st.pc + 4) st.pc none c none
       | .word v =>
         match parseHintWord v, decodeStream v with
         | some (.pfx _), _ => enter (st.pc + 4) st.pc none 1 none
         | _, .ok op => if streamWidens op then enter st.pc (st.pc + 8) (some op) 0 (some i.toNat) else enter st.pc st.pc none 1 none
         | _, .error _ => enter st.pc st.pc none 1 none)
    | _ =>
      match decodeStream w with
      | .ok op => enter st.pc (st.pc + 4) (some op) 0 none
      | .error _ => enter st.pc st.pc none 1 none

/-- The line of a stream word read, if it is read now (R339). -/
def State.touchStream (s : State) (core a : Nat) : State :=
  match s.fetchStream core a, s.reach core ⟨false, false, false⟩ a with
  | .word _, .at_ l => s.dramTouch (l.span 4)
  | _, _ => s

/-- STREAM_FETCH (R161). -/
def execStreamFetch (bid : Nat) (s : State) : Result :=
  match s.block bid with
  | none => .next s
  | some b =>
    match b.stream with
    | none => .next s
    | some st =>
      if st.state = .running ∧ s.run.running ∧ !s.run.halted ∧ st.entries.length < Config.streamEntries
          ∧ !st.entries.any StreamEntry.holdsFetch then .next ((s.streamEnter bid b.core st).touchStream b.core st.pc)
      else .next s

/-! Issuing (R161, R165, R169). -/

/-- What a stream instruction knows as it issues. -/
structure SCtx where
  bid : Nat
  b : Block
  st : Stream
  e : StreamEntry
deriving DecidableEq, Repr

/-- How a stream instruction's turn ends. -/
inductive StreamFate
  | issued (s : State)
  | retired (s : State)
  | stay (s : State)
  | stop (cause : Nat)

/-- The first entry that has not issued. -/
def Stream.head (st : Stream) : Option StreamEntry := st.entries.find? fun e => !e.issued

/-- The turn of a stream instruction: it acts when its stream's turn comes and it is the first entry not issued. -/
def streamIssue (op : StreamOp) (body : SCtx → State → StreamFate) (s : State) : Result :=
  match s.cur with
  | .stream bid =>
    match s.block bid with
    | none => .next s
    | some b =>
      match b.stream with
      | none => .next s
      | some st =>
        match st.head with
        | none => .next s
        | some e =>
          if e.op = some op ∧ st.state = .running ∧ s.run.running ∧ !s.run.halted then
            match body ⟨bid, b, st, e⟩ s with
            | .issued t => .next ((t.onStream bid fun st => st.onEntry e.id fun e => { e with issued := true }).settleStream bid)
            | .retired t => .next ((t.onStream bid fun st => st.dropEntry e.id).settleStream bid)
            | .stay t => .next t
            | .stop cause => .next (s.stopStream bid e.addr cause)
          else .next s
  | .idle | .path _ | .clearing _ => .next s

/-- Whether rows lie in a block's vault window (R162). -/
def Block.rowsOk (b : Block) (row n : Nat) : Bool :=
  decide (b.awb.toNat ≤ row) && decide (row + n ≤ b.awb.toNat + b.awl.toNat) && decide (row + n ≤ 1024)

/-- The extent of an operand in a tile (R165). -/
def Tile.covers (t : Tile) (rows cols : Nat) (tr : Bool) : Bool :=
  if tr then decide (cols ≤ t.rows) && decide (rows ≤ t.cols) else decide (rows ≤ t.rows) && decide (cols ≤ t.cols)

/-- The check of an mma (R165): its cause, if it fails. -/
def SCtx.mmaCheck (c : SCtx) (s : State) (g : Mma) : Option Nat :=
  let m := c.e.map
  match s.tileOf c.bid g.ta, s.tileOf c.bid g.tb with
  | some a, some b =>
    let k := m.kofs * g.kp + m.k
    if !a.2.defined || !b.2.defined || a.2.bdeck || (b.2.bdeck && (m.tb || g.fa == 3)) || a.2.fmt != g.fa || b.2.fmt != g.fb
        || !a.2.covers m.m k m.ta || !b.2.covers k m.n m.tb then some 0x07
    else if !c.b.rowsOk m.row m.m then some 0x06
    else none
  | _, _ => some 0x02

/-- Every mma (R164, R165): checked as it issues, its passes granted by the teller; one with K = 0 has none and clears its rows once they
are free. -/
def mma (op : StreamOp) (s : State) : Result :=
  streamIssue op (fun c s =>
    match mmaOf op with
    | none => .retired s
    | some g =>
      let m := c.e.map
      if m.m = 0 ∨ m.n = 0 ∨ (m.k = 0 ∧ !g.z) then .retired s
      else
        match c.mmaCheck s g with
        | some cause => .stop cause
        | none =>
          .issued s) s

/-- MMA_E4M3_E4M3 (R164). -/
def execMmaE4m3E4m3 (z : Bool) (a b : BitVec 7) (m : BitVec 3) (s : State) : Result := mma (.mmaE4m3E4m3 z a b m) s

/-- MMA_E4M3_E5M2 (R164). -/
def execMmaE4m3E5m2 (z : Bool) (a b : BitVec 7) (m : BitVec 3) (s : State) : Result := mma (.mmaE4m3E5m2 z a b m) s

/-- MMA_E5M2_E4M3 (R164). -/
def execMmaE5m2E4m3 (z : Bool) (a b : BitVec 7) (m : BitVec 3) (s : State) : Result := mma (.mmaE5m2E4m3 z a b m) s

/-- MMA_E5M2_E5M2 (R164). -/
def execMmaE5m2E5m2 (z : Bool) (a b : BitVec 7) (m : BitVec 3) (s : State) : Result := mma (.mmaE5m2E5m2 z a b m) s

/-- MMA_I8 (R164). -/
def execMmaI8 (z : Bool) (a b : BitVec 7) (m : BitVec 3) (s : State) : Result := mma (.mmaI8 z a b m) s

/-- MMA_BF16 (R164). -/
def execMmaBf16 (z : Bool) (a b : BitVec 7) (m : BitVec 3) (s : State) : Result := mma (.mmaBf16 z a b m) s

/-- MMA_F16 (R164). -/
def execMmaF16 (z : Bool) (a b : BitVec 7) (m : BitVec 3) (s : State) : Result := mma (.mmaF16 z a b m) s

/-- MMA_TRI_I8 (R164). -/
def execMmaTriI8 (z : Bool) (a b : BitVec 7) (m : BitVec 3) (s : State) : Result := mma (.mmaTriI8 z a b m) s

/-- A map written in program order (R163). -/
def mmap (op : StreamOp) (s : State) : Result :=
  streamIssue op (fun c s => .retired (s.onStream c.bid fun st => { st with maps := mapAfter op st.maps })) s

/-- MMAP_SHAPE (R163). -/
def execMmapShape (m : BitVec 3) (x : BitVec 8) (y : BitVec 9) (s : State) : Result := mmap (.mmapShape m x y) s

/-- MMAP_K (R163). -/
def execMmapK (m : BitVec 3) (k : BitVec 13) (o : BitVec 8) (s : State) : Result := mmap (.mmapK m k o) s

/-- MMAP_ACC (R163). -/
def execMmapAcc (m : BitVec 3) (r : BitVec 10) (a b : Bool) (s : State) : Result := mmap (.mmapAcc m r a b) s

/-- An entry that the vault's adders work on from its issue (R242, R244). -/
def onAdders (c : SCtx) (s : State) : StreamFate :=
  .issued (s.onStream c.bid fun st => st.onEntry c.e.id fun e => { e with begun := true })

/-- MACZ (R167). -/
def execMacz (r : BitVec 10) (n : BitVec 11) (s : State) : Result :=
  streamIssue (.macz r n) (fun c s =>
    if n = 0 then .retired s
    else if !c.b.rowsOk r.toNat n.toNat then .stop 0x06
    else onAdders c s) s

/-- Scales that an mscl reads fit its tile (R168). -/
def scalesFit (t : Tile) (mode : MsclMode) (m n : Nat) : Bool :=
  match mode with
  | .row => decide (m ≤ t.cols)
  | .col => decide (n ≤ t.cols)
  | .rc => decide (2 ≤ t.rows) && decide (max m n ≤ t.cols)

/-- MSCL (R168). -/
def execMscl (d a : BitVec 3) (t : BitVec 7) (mode : MsclMode) (s : State) : Result :=
  streamIssue (.mscl d a t mode) (fun c s =>
    let m := c.e.map
    if m.m = 0 ∨ m.n = 0 then .retired s
    else
      match s.tileOf c.bid t.toNat with
      | none => .stop 0x02
      | some u =>
        if !u.2.defined || u.2.bdeck || u.2.fmt != 6 || !scalesFit u.2 mode m.m m.n then .stop 0x07
        else if !c.b.rowsOk m.row m.m || !c.b.rowsOk c.e.map2.row m.m then .stop 0x06
        else onAdders c s) s

/-- MBAR_WAIT (R162, R169). -/
def execMbarWait (n : BitVec 4) (s : State) : Result :=
  streamIssue (.mbarWait n) (fun c s =>
    let s1 := if c.e.begun then s else s.onStream c.bid fun st =>
      ({ st with seen := tset st.seen n.toNat (tgetD 0 st.seen n.toNat + 1) } : Stream).onEntry c.e.id fun e => { e with begun := true }
    let seen := tgetD 0 c.st.seen n.toNat + if c.e.begun then 0 else 1
    if !((c.b.barrier n.toNat).phase - seen).msb then .retired s1
    else if (s.firstWave c.bid).isNone then .stop 0x12
    else .stay s1) s

/-- MBAR_SIG (R86, R169). -/
def execMbarSig (n : BitVec 4) (s : State) : Result :=
  streamIssue (.mbarSig n) (fun c s =>
    if (c.st.before c.e.id).isEmpty then .retired (s.completePhase c.bid n.toNat) else .stay s) s

/-- MLOOP (R169): a taken loop sets the fetch address from its own word's. -/
def execMloop (n : BitVec 2) (o : BitVec 21) (s : State) : Result :=
  streamIssue (.mloop n o) (fun c s =>
    let k := tgetD 0 c.st.counters n.toNat
    let at_ := c.e.addr + if c.e.pfx.isSome then 4 else 0
    let off := widened (match c.e.pfx with | some x => [x] | none => []) 21 o.toNat
    if k = 0 then .retired s
    else
      .retired (s.onStream c.bid fun st => { st with
        counters := tset st.counters n.toNat (k - 1),
        pc := if k = 1 then st.pc else wrapInt 49 ((at_ : Int) + 4 * off) })) s

/-- The teller reservation of a stream released (R241). -/
def State.releaseReservation (s : State) (bid : Nat) : State :=
  match (s.streamOf bid).bind (·.reservation) with
  | some r =>
    let k := s.cluster (bid / 32)
    (s.setCluster (bid / 32) { k with reservations := tdel k.reservations r }).onStream bid fun st => { st with reservation := none }
  | none => s

/-- MEND (R169). -/
def execMend (s : State) : Result :=
  streamIssue .mend (fun c s =>
    if (c.st.before c.e.id).isEmpty then
      .retired ((s.onStream c.bid fun st => { st with state := .ended }).releaseReservation c.bid)
    else .stay s) s

/-- MHALT (R169). -/
def execMhalt (s : State) : Result :=
  streamIssue .mhalt (fun c s => if (c.st.before c.e.id).isEmpty then .stop 0x10 else .stay s) s

/-- MREL (R169, R236). -/
def execMrel (t : BitVec 7) (s : State) : Result :=
  streamIssue (.mrel t) (fun c s =>
    match s.tileOf c.bid t.toNat with
    | none => .stop 0x02
    | some u =>
      if !u.2.defined then .stop 0x07
      else if u.2.st = .filling ∨ u.2.st = .draining ∨ (c.st.before c.e.id).any fun f => f.tiles.contains t.toNat then .stay s
      else .retired (s.setTile u.1 u.2.release)) s

/-- MSET (R169). -/
def execMset (n : BitVec 2) (i : BitVec 21) (s : State) : Result :=
  streamIssue (.mset n i) (fun c s =>
    let v := wrapInt 32 (widened (match c.e.pfx with | some x => [x] | none => []) 21 i.toNat)
    .retired (s.onStream c.bid fun st => { st with counters := tset st.counters n.toNat (BitVec.ofNat 32 v) })) s

/-! Tile elements (R233, R239). -/

/-- The code of element (r, c) of a tile. -/
def State.element (s : State) (b : Block) (t : Tile) (r c : Nat) : Nat :=
  let bits := formatBits t.fmt
  if t.bdeck then
    s.readNum (.bdeck ((b.core / 4 * 384 + t.pitch + c) * Config.sliceBytes + t.base + r * (bits / 8))) (bits / 8)
  else if bits = 2 then fld (s.readNum (.sram b.core (b.base + t.base + r * t.pitch + c / 4)) 1) (2 * (c % 4)) 2
  else s.readNum (.sram b.core (b.base + t.base + r * t.pitch + c * (bits / 8))) (bits / 8)

/-- An element of an operand, transposed where the map says so. -/
def State.operand (s : State) (b : Block) (t : Tile) (tr : Bool) (r c : Nat) : Nat :=
  if tr then s.element b t c r else s.element b t r c

/-- A floating element and the NaN-from-narrow event that it may raise (R53, R56). -/
def floatElement (f x : Nat) : FV × Events :=
  if f = 0 then (e4m3.value x, if e4m3.value x = .nan then evNarrowNan else evNone)
  else if f = 1 then (e5m2.value x, if e5m2.value x = .nan then evNarrowNan else evNone)
  else if f = 4 then (bf16.value x, evNone)
  else if f = 5 then (fp16.value x, evNone)
  else (fp32.value x, evNone)

/-- An integer element: INT8, or a TRI weight (R40, R53). -/
def intElement (f x : Nat) : Int × Events := if f = 3 then triValue x else (signedOf 8 x, evNone)

/-! Passes (R52, R53, R164). -/

/-- The members of a pass (R164). -/
def passMembers (g : Mma) (m : OperandMap) (p : Nat) : List Nat :=
  ((List.range g.kp).filter fun q => decide (p * g.kp + q < m.k)).map fun q => m.kofs * g.kp + p * g.kp + q

/-- One element of a pass: its new word and its events. -/
def passWord (g : Mma) (as bs : List Nat) (c : Word) : Word × Events :=
  if g.fb = 2 then
    let ps := (as.zip bs).map fun x => (intElement g.fa x.1, intElement g.fb x.2)
    let sum : Int := ps.foldl (fun t p => t + p.1.1 * p.2.1) c.toInt
    let ev := ps.foldl (fun e p => e ||| p.1.2 ||| p.2.2) evNone
    (BitVec.ofInt 32 sum, if -(2 ^ 31 : Nat) ≤ sum ∧ sum < (2 ^ 31 : Nat) then ev else ev ||| evOverflow)
  else
    let ps := (as.zip bs).map fun x => (floatElement g.fa x.1, floatElement g.fb x.2)
    let ev := ps.foldl (fun e p => e ||| p.1.2 ||| p.2.2) evNone
    let r := passElement (ps.map fun p => (p.1.1, p.2.1)) (fp32.value c.toNat)
    (r.1, r.2 ||| ev)

/-- A pass: the vault words that it writes, with its events (R164). -/
def State.runPass (s : State) (b : Block) (g : Mma) (m : OperandMap) (p : Nat) (ta tb : Tile) : List (Nat × Word × Events) :=
  let ks := passMembers g m p
  let cl := b.core / 4
  let rows := (List.range m.m).map fun i => (i, ks.map fun k => s.operand b ta m.ta i k)
  let cols := (List.range m.n).map fun j => (j, ks.map fun k => s.operand b tb m.tb k j)
  (rows.map fun r => cols.map fun c =>
    let key := vaultKey cl (m.row + r.1) c.1
    (key, passWord g r.2 c.2 (if g.z && p == 0 then 0 else tgetD 0 s.vault key))).flatten

/-- Events of a pass or an mscl counted once a class on a block's core; a crossing goes to the block's first wave (R57,
R60). With no live wave it traps nowhere and only sets its hit bit: the spec names no other place (DESIGN CHOICE, log entry 127). -/
def State.countPass (s : State) (bid core : Nat) (ev : Events) : State :=
  let r := s.countEvents core fun k => if ev.getLsbD k then 1 else 0
  if r.2 = 0 then r.1
  else
    match r.1.firstWave bid with
    | some wid => r.1.dueWave wid ⟨5, 0x0C, BitVec.ofNat 64 (r.2.toNat + 2 ^ 63), none, s.clk⟩
    | none => r.1

/-- A context's place in the teller's choice: effective class, then age, then reservation (R242). -/
def State.bidKey (s : State) (bid : Nat) : Option (Nat × Nat × Nat) :=
  match s.block bid with
  | some b =>
    (match b.stream with
     | some st =>
       (match s.offers bid b st with
        | some e =>
          let age := s.icc b.core - e.since.getD (s.icc b.core)
          let cls := match s.launchOf b with | some l => l.cls | none => 0
          some (cls - age / 4096, age, st.reservation.getD 8)
        | none => none)
     | none => none)
  | none => none

def keyBetter (a b : Nat × Nat × Nat) : Bool :=
  decide (a.1 < b.1) || (a.1 == b.1 && (decide (b.2.1 < a.2.1) || (a.2.1 == b.2.1 && decide (a.2.2 < b.2.2))))

/-- The context that wins the slot. -/
def State.winner (s : State) (bids : List Nat) : Option Nat :=
  (bids.foldl (fun (m : Option (Nat × (Nat × Nat × Nat))) bid =>
    match s.bidKey bid, m with
    | some k, some x => if keyBetter k x.2 then some (bid, k) else some x
    | some k, none => some (bid, k)
    | none, m => m) none).map (·.1)

/-- A pass granted: the context's age starts anew (R242). -/
def State.grantPass (s : State) (cluster bid : Nat) (e : StreamEntry) : State :=
  let s1 := if e.begun then s else s.refTiles bid e.tiles
  let s2 := s1.onStream bid fun st =>
    ({ st with entries := st.entries.map fun (e : StreamEntry) => { e with since := none } } : Stream).onEntry e.id fun e =>
      { e with begun := true, nextPass := e.nextPass + 1, inFlight := e.inFlight + 1 }
  s2.setCluster cluster { s2.cluster cluster with passes := (s2.cluster cluster).passes ++ [⟨bid, e.id, e.nextPass⟩] }

/-- TELLER_GRANT (R242). -/
def execTellerGrant (cluster : Nat) (s : State) : Result :=
  if 32 ≤ (s.cluster cluster).passes.length ∨ !s.run.running ∨ s.run.halted ∨ s.clusterStopped cluster then .next s
  else
    let s1 := s.refreshCluster cluster
    match s1.winner (s.clusterBlocks cluster) with
    | none => .next s1
    | some bid =>
      match s1.block bid with
      | none => .next s1
      | some b =>
        match b.stream.bind (s1.offers bid b) with
        | none => .next s1
        | some e => .next ((s1.grantPass cluster bid e).refreshStream bid)

/-- PASS_RETIRE (R243): the oldest pass in flight writes its rows. -/
def execPassRetire (cluster : Nat) (s : State) : Result :=
  match (s.cluster cluster).passes with
  | [] => .next s
  | p :: rest =>
    let s1 := s.setCluster cluster { s.cluster cluster with passes := rest }
    match s1.block p.bid with
    | none => .next s1
    | some b =>
      match b.stream.bind fun st => st.entries.find? fun e => e.id == p.entry with
      | none => .next s1
      | some e =>
        match e.op.bind mmaOf with
        | none => .next s1
        | some g =>
          match s1.tileOf p.bid g.ta, s1.tileOf p.bid g.tb with
          | some ta, some tb =>
            let ws := s1.runPass b g e.map p.index ta.2 tb.2
            let s2 : State := { s1 with vault := tsets s1.vault (ws.map fun w => (w.1, w.2.1)) }
            let s3 := s2.countPass p.bid b.core (ws.foldl (fun ev w => ev ||| w.2.2) evNone)
            if e.inFlight = 1 ∧ passesOf g e.map ≤ e.nextPass then
              .next (((s3.unrefTiles p.bid e.tiles).onStream p.bid fun st => st.dropEntry e.id).settleStream p.bid)
            else .next ((s3.onStream p.bid fun st => st.onEntry e.id fun e => { e with inFlight := e.inFlight - 1 }).settleStream p.bid)
          | _, _ => .next s1

/-! The vault's adders (R167, R168). -/

/-- The scale of element (i, j) (R168). -/
def State.scaleOf (s : State) (b : Block) (t : Tile) (mode : MsclMode) (i j : Nat) : FV × Events :=
  let v (r c : Nat) : FV := fp32.value (s.element b t r c)
  match mode with
  | .row => (v 0 i, evNone)
  | .col => (v 0 j, evNone)
  | .rc => FV.mul (v 0 i) (v 1 j)

/-- The FP32 scales that one element of an mscl reads (R168). -/
def State.scalesOf (s : State) (b : Block) (t : Tile) (mode : MsclMode) (i j : Nat) : List FV :=
  let v (r c : Nat) : FV := fp32.value (s.element b t r c)
  match mode with
  | .row => [v 0 i]
  | .col => [v 0 j]
  | .rc => [v 0 i, v 1 j]

/-- The words that an mscl writes, every source read first (R168). A NaN input counts no invalid event (R39). -/
def State.runMscl (s : State) (b : Block) (t : Tile) (mode : MsclMode) (d a : OperandMap) : List (Nat × Word × Events) :=
  let cl := b.core / 4
  ((List.range d.m).map fun i => (List.range d.n).map fun j =>
    let key := vaultKey cl (d.row + i) j
    let sc := s.scaleOf b t mode i j
    let p := FV.mul (fp32.value (s.vaultWord cl (a.row + i) j).toNat) sc.1
    let v := FV.add .rne p.1 (fp32.value (tgetD 0 s.vault key).toNat)
    let r := out32 .rne false v.1
    let nan := fp32.value (s.vaultWord cl (a.row + i) j).toNat == .nan || fp32.value (tgetD 0 s.vault key).toNat == .nan
      || (s.scalesOf b t mode i j).any (· == .nan)
    (key, r.1, r.2 ||| v.2 ||| (if nan then evNone else p.2 ||| sc.2))).flatten

/-- VAULT_ADDER_COMPLETE (R242): the oldest macz or mscl that has begun to work on its rows finishes; where none has, the oldest that may
does both. -/
def execVaultAdderComplete (bid : Nat) (s : State) : Result :=
  let s := s.startAdder bid
  match s.block bid with
  | none => .next s
  | some b =>
    match b.stream.bind fun st => st.entries.find? StreamEntry.adding with
    | none => .next s
    | some e =>
      match e.op with
      | some (.macz r n) =>
        .next (((zeroVault s (b.core / 4) r.toNat n.toNat 384).onStream bid fun st => st.dropEntry e.id).settleStream bid)
      | some (.mscl _ _ t mode) =>
        (match s.tileOf bid t.toNat with
         | some u =>
           let ws := s.runMscl b u.2 mode e.map e.map2
           let s1 : State := { s with vault := tsets s.vault (ws.map fun w => (w.1, w.2.1)) }
           let s2 := s1.countPass bid b.core (ws.foldl (fun ev w => ev ||| w.2.2) evNone)
           .next (((s2.unrefTiles bid e.tiles).onStream bid fun st => st.dropEntry e.id).settleStream bid)
         | none => .next s)
      | _ => .next s

end Sys2Proof.Machine
end

