-- ==== Sys2Proof/Machine/Launch.lean ====
section
/-! DEFINITION. Launches: acceptance of a record, dependences, placement and dispatch, completion, frames, and wpred and
sucstart (R90, R197, R214 to R216, R231, R241, R253, R254, R256, R257, R262 to R276, R280 to R285, R303). -/

namespace Sys2Proof.Machine

/-! The record (R265, R266). -/

def Launch.kind (l : Launch) : Nat := fld (l.num 0x20 4) 30 2
def Launch.gv (l : Launch) : Bool := fld (l.num 0x20 4) 27 1 == 1
def Launch.irq (l : Launch) : Bool := fld (l.num 0x20 4) 26 1 == 1
def Launch.nlev (l : Launch) : Nat := fld (l.num 0x20 4) 20 4
def Launch.graph (l : Launch) : Nat := fld (l.num 0x20 4) 0 16
def Launch.regs (l : Launch) : Nat := fld (l.num 0x24 4) 24 8
def Launch.tiles (l : Launch) : Nat := fld (l.num 0x24 4) 16 8
def Launch.scratch (l : Launch) : Nat := fld (l.num 0x24 4) 12 4
def Launch.replay (l : Launch) : Nat := fld (l.num 0x24 4) 0 9
def Launch.entryPc (l : Launch) : Nat := l.num 0x00 8
def Launch.streamPc (l : Launch) : Nat := l.num 0x08 8
def Launch.proot (l : Launch) : Nat := l.num 0x28 8
def Launch.signal (l : Launch) : Nat := l.num 0xB0 8
def Launch.bmap (l : Launch) : Nat := l.num 0xB8 8
def Launch.pbmap (l : Launch) : Nat := l.num 0xC0 8
def Launch.width (l : Launch) : Nat := l.num 0xD0 4
def Launch.porg (l : Launch) : Nat := l.num 0xD4 4
def Launch.psize (l : Launch) : Nat := l.num 0xFC 4
/-- The role of wave `w`. -/
def Launch.role (l : Launch) (w : Nat) : Nat := fld (l.num 0x10 16) (4 * w) 4
def Launch.pixel (l : Launch) : Bool := l.kind == 1
def Launch.persistent (l : Launch) : Bool := l.kind == 2

/-- The fields of level `n`: its count, whether it is indirect, its domain and the address of its count (R266). -/
def Launch.levelCount (l : Launch) (n : Nat) : Nat := l.num (0x30 + 16 * n) 4
def Launch.levelWord (l : Launch) (n : Nat) : Nat := l.num (0x34 + 16 * n) 4
def Launch.levelInd (l : Launch) (n : Nat) : Bool := fld (l.levelWord n) 7 1 == 1
def Launch.levelDom (l : Launch) (n : Nat) : Nat := fld (l.levelWord n) 0 3
def Launch.levelAddr (l : Launch) (n : Nat) : Nat := l.num (0x38 + 16 * n) 8
def Launch.levels (l : Launch) : List Nat := List.range l.nlev
/-- Whether some level's count is read from memory. -/
def Launch.indirect (l : Launch) : Bool := l.levels.any l.levelInd
def Launch.count (l : Launch) (n : Nat) : Nat := l.counts.getD n 1

/-- B: the product of the counts of level 2 and above (R267). -/
def blocksOf (counts : List Nat) : Nat := (counts.drop 2).foldl (· * ·) 1

/-! Checks at acceptance (R269). -/

/-- Reserved fields, the kind, and the alignment of the record and the kernel entry: cause 0x01. -/
def Launch.formBad (l : Launch) (addr : Nat) : Bool :=
  addr % 128 != 0 || l.entryPc % 4 != 0 || l.kind == 3
    || [0x00, 0x08, 0x28, 0xB0, 0xB8, 0xC0].any (fun o => fld (l.num o 8) 49 15 != 0)
    || fld (l.num 0x20 4) 24 2 != 0 || fld (l.num 0x20 4) 16 4 != 0 || fld (l.num 0x24 4) 9 3 != 0
    || (List.range 8).any (fun n =>
        if n < l.nlev then fld (l.levelWord n) 3 4 != 0 || fld (l.levelWord n) 8 24 != 0 || fld (l.levelAddr n) 49 15 != 0
        else l.num (0x30 + 16 * n) 16 != 0)
    || (List.range 6).any fun n => fld (l.num (0xD8 + 6 * n) 6) 44 4 != 0

/-- The level rules of R214 and R266: cause 0x02. -/
def Launch.levelsBad (l : Launch) : Bool :=
  decide (l.nlev < 3) || decide (8 < l.nlev)
    || l.levels.any (fun n =>
        let d := l.levelDom n
        (if n < 3 then d != n else decide (d < n) || decide (d < l.levelDom (n - 1)))
          || (if l.levelInd n then
                decide (n < 2) || l.levelCount n != 0 || l.levelAddr n % 4 != 0
              else l.levelCount n == 0 || l.levelAddr n != 0))
    || decide (96 < l.levelCount 0) || decide (32 < l.levelCount 1)

/-- Demands: cause 0x03. -/
def Launch.demandBad (l : Launch) : Bool :=
  decide (l.regs < 8) || decide (128 < l.regs) || l.regs % 8 != 0 || decide (128 < l.tiles) || decide (7 < l.scratch)
    || decide (256 < l.replay) || decide (512 < (l.levelCount 1 + 3) / 4 * l.regs)
    || (List.range 32).any fun w => decide (l.levelCount 1 ≤ w) && l.role w != 0

/-- Dependences: cause 0x04. -/
def Launch.dependenceBad (l : Launch) : Bool :=
  l.pbmap % 128 != 0 || l.bmap % 128 != 0
    || (if l.pbmap = 0 then l.width != 0 else decide (l.width < 1) || decide (65536 < l.width))

/-- Pixel fields: cause 0x05. -/
def Launch.pixelBad (l : Launch) : Bool :=
  if l.pixel then l.proot == 0 || l.proot % 128 != 0 || fld l.psize 0 16 == 0 || fld l.psize 16 16 == 0
  else l.proot != 0 || l.porg != 0 || l.psize != 0

/-! What a block needs (R204, R231, R241, R267, R275, R285). -/

/-- Waves of a block that run on a pipe. -/
def wavesOnPipe (cnt1 pipe : Nat) : Nat := (cnt1 + 3 - pipe) / 4

/-- Bytes of SRAM of a block: declared scratch and 3 KiB of spill area a wave, in steps of 128 KiB (R128, R204). -/
def Launch.allotment (l : Launch) : Nat := (l.scratch * 131072 + 3072 * l.count 1 + 131071) / 131072 * 131072

/-- The least of quotients of capacities by needs. -/
def leastQuotient : List (Nat × Nat) → Nat
  | [] => 4096
  | (have_, need) :: rs => if need = 0 then leastQuotient rs else min (have_ / need) (leastQuotient rs)

/-- Blocks that an idle core, and an idle cluster, can hold. -/
def Launch.perCore (l : Launch) : Nat :=
  leastQuotient ((8 * 131072, l.allotment) :: ([0, 1, 2, 3].map fun p =>
    (min 8 (512 / max l.regs 1), wavesOnPipe (l.count 1) p)))
def Launch.perCluster (l : Launch) : Nat :=
  leastQuotient [(4 * l.perCore, 1), (128, l.tiles), (8, if l.streamPc = 0 then 0 else 1)]

/-- Groups that a core, a cluster, a die and the package can hold, from those of the level below: `m` of them make one
group inside one instance of a domain (R215). -/
def groupCapacity (dom m : Nat) (cap : List Nat) : List Nat :=
  let whole := cap.getD (min dom 5 - 2) 0 / max m 1
  let scale : List Nat := [1, 4, 32, 128]
  scale.zipIdx.map fun x => if x.2 + 2 < min dom 5 then 0 else whole * (x.1 / scale.getD (min dom 5 - 2) 1)

/-- Whether B blocks can all be resident on an idle package (R269): cause 0x06 where they cannot. -/
def Launch.residentOk (l : Launch) : Bool :=
  let core := l.perCore
  let start := [core, l.perCluster, 8 * l.perCluster, 32 * l.perCluster]
  let cap := (List.range (l.nlev - 3)).foldl (fun c k => groupCapacity (l.levelDom (k + 3)) (l.count (k + 2)) c) start
  decide (l.count (l.nlev - 1) ≤ cap.getD 3 0)

/-- The check of what the record declares. -/
def Launch.check (l : Launch) (addr : Nat) : Option Nat :=
  if l.formBad addr then some 0x01
  else if l.levelsBad then some 0x02
  else if l.demandBad then some 0x03
  else if l.dependenceBad then some 0x04
  else if l.pixelBad then some 0x05
  else none

/-- The check of B once it is known: 0x02 or 0x06. -/
def Launch.checkCount (l : Launch) : Option Nat :=
  if l.pixel then none
  else if 2 ^ 32 ≤ blocksOf l.counts then some 0x02
  else if l.persistent && !l.residentOk then some 0x06
  else none

/-! Scheduler accesses (R269). -/

/-- What a read of the scheduler finds. -/
inductive DevRead
  | ok (v : Nat)
  | fault
  | wait
deriving DecidableEq, Repr

/-- A number read through PTROOT in system mode. -/
def State.devRead (s : State) (a n : Nat) : DevRead :=
  match s.reachDev false a with
  | .at_ l => if s.mustWait l then .wait else .ok (s.readNum l n)
  | .fault _ | .absent => .fault
  | .wait => .wait

/-- A number written through PTROOT in system mode, by an event that has found that it need not wait; nothing is written where the page
faults. -/
def State.devWrite (s : State) (a n v : Nat) : State :=
  match s.reachDev true a with
  | .at_ l => (s.writeNum l n v).dramTouch (l.span n)
  | _ => s

/-- Several bytes of zero written. -/
def State.devZero (s : State) (a : Nat) : Nat → State
  | 0 => s
  | n + 1 => (s.devZero a n).devWrite (a + n) 1 0

/-- A launch changed. -/
def State.onLaunch (s : State) (id : Nat) (f : Launch → Launch) : State :=
  { s with launches := s.launches.map fun (l : Launch) => if l.id == id then f l else l }

def State.launchBy (s : State) (id : Nat) : Option Launch := s.launches.find? fun l => l.id == id

def State.dropLaunch (s : State) (id : Nat) : State := { s with launches := s.launches.filter fun l => l.id != id }

/-! Bitmaps and completion (R270 to R274). -/

/-- The header of a launch's own bitmap: B, and the count of blocks marked or completed; the mark of an unknown B. -/
def Launch.header (l : Launch) : Nat :=
  if l.known then l.blocks + 2 ^ 32 * ((l.completed ++ l.sucstarted).eraseDups.length % 2 ^ 32) else 0xFFFFFFFF * 2 ^ 32

/-- The header written where the launch has a bitmap. -/
def State.putHeader (s : State) (id : Nat) : State :=
  match s.launchBy id with
  | some l => if l.bmap = 0 then s else s.devWrite l.bmap 8 l.header
  | none => s

/-- The bits of B blocks cleared, then the header written. -/
def State.openBitmap (s : State) (id : Nat) : State :=
  match s.launchBy id with
  | some l => if l.bmap = 0 then s else (s.devZero (l.bmap + 8) (if l.known then (l.blocks + 7) / 8 else 0)).putHeader id
  | none => s

/-- Whether writing a launch's bitmap from its header on, with `n` bits, or its signal must wait. -/
def State.launchWaits (s : State) (l : Launch) (n : Nat) : Bool :=
  (l.bmap != 0 && s.devWaits true l.bmap (8 + (n + 7) / 8)) || (l.signal != 0 && s.devWaits true l.signal 8)

/-- The bit of a block of a pixel launch, whose B is not known at acceptance, cleared before the block is dispatched (R272; log entry
111). -/
def State.clearBit (s : State) (l : Launch) (i : Nat) : State :=
  if l.bmap = 0 ∨ !l.pixel then s
  else
    match s.devRead (l.bmap + 8 + i / 8) 1 with
    | .ok v => s.devWrite (l.bmap + 8 + i / 8) 1 (v - fld v (i % 8) 1 * 2 ^ (i % 8))
    | _ => s

/-- A block's completion bit set (R274). -/
def State.setBit (s : State) (l : Launch) (i : Nat) : State :=
  if l.bmap = 0 then s
  else
    match s.devRead (l.bmap + 8 + i / 8) 1 with
    | .ok v => s.devWrite (l.bmap + 8 + i / 8) 1 (v ||| 2 ^ (i % 8))
    | _ => s

/-- The end of a launch: its signal raised by one, then the interrupt it asks for (R270). -/
def State.finishLaunch (s : State) (l : Launch) : State :=
  let s1 :=
    if l.signal = 0 then s
    else
      match s.devRead l.signal 8 with
      | .ok v => s.devWrite l.signal 8 (v + 1)
      | _ => s
  let s2 := if l.irq then s1.interrupt (.launchDone l.id) else s1
  s2.dropLaunch l.id

/-- A launch whose blocks have all completed ends. -/
def State.settleLaunch (s : State) (id : Nat) : State :=
  match s.launchBy id with
  | some l => if l.known && l.completed.length == l.blocks then s.finishLaunch l else s
  | none => s

/-- A launch rejected after its ring moved past its entry (R269): the ring stops where it stands. -/
def State.rejectLate (s : State) (l : Launch) (cause : Nat) : State :=
  let s1 := s.dropLaunch l.id
  if (s.ring l.ring).stp then s1 else s1.stopRing l.ring cause l.entry .next

/-! Dependences (R256, R257, R271, R273). -/

/-- What a producer's bitmap says for a set of its blocks. -/
inductive Ready
  | yes
  | no
  | fault
deriving DecidableEq, Repr

/-- Whether the bits of blocks lo, lo + 1, … (n of them) are all set. -/
def State.bitsSet (s : State) (bmap lo : Nat) : Nat → Bool
  | 0 => true
  | n + 1 =>
    (match s.devRead (bmap + 8 + (lo + n) / 8) 1 with
     | .ok v => fld v ((lo + n) % 8) 1 == 1
     | _ => false) && s.bitsSet bmap lo n

/-- The producer blocks that block `i` names among `b`: the first and how many (R273). -/
def Launch.names (l : Launch) (i b : Nat) : Nat × Nat :=
  let base : Int := signedOf 32 (l.num 0xC8 4) * i + signedOf 32 (l.num 0xCC 4)
  let lo := max base 0
  let hi := min (base + (l.width : Int) - 1) ((b : Int) - 1)
  (lo.toNat, (hi - lo + 1).toNat)

/-- Whether every producer block that block `i` names has completed (R257). -/
def State.namedDone (s : State) (l : Launch) (i : Nat) : Ready :=
  if l.pbmap = 0 then .yes
  else
    match s.devRead l.pbmap 8 with
    | .ok h =>
      if fld h 0 32 = 0 ∧ fld h 32 32 = 0xFFFFFFFF then .no
      else
        let n := l.names i (fld h 0 32)
        if s.bitsSet l.pbmap n.1 n.2 then .yes else .no
    | .wait => .no
    | .fault => .fault

/-- Whether block `i` may be dispatched: its producers have completed, or every block of the producer has been marked or has
completed (R256, R273). -/
def State.mayDispatch (s : State) (l : Launch) (i : Nat) : Ready :=
  match s.namedDone l i with
  | .no =>
    (match s.devRead l.pbmap 8 with
     | .ok h => if fld h 32 32 = fld h 0 32 then .yes else .no
     | _ => .no)
  | r => r

/-- Whether every block of a launch's producer has completed (R266, R271). -/
def State.producerDone (s : State) (l : Launch) : Ready :=
  if l.pbmap = 0 then .yes
  else
    match s.devRead l.pbmap 8 with
    | .ok h =>
      if fld h 0 32 = 0 ∧ fld h 32 32 = 0xFFFFFFFF then .no
      else if s.bitsSet l.pbmap 0 (fld h 0 32) then .yes else .no
    | .wait => .no
    | .fault => .fault

/-! Frames (R281 to R284). -/

/-- The address of a graph's entry. -/
def State.frameAddr (s : State) (g : Nat) : Nat := s.dev.fgbase + 64 * g

/-- Whether a graph's entry or its mint record must be waited for. -/
def State.frameWaits (s : State) (g : Nat) : Bool :=
  s.devWaits true (s.frameAddr g) 64
    || (match s.devRead (s.frameAddr g) 8 with
        | .ok m => s.devWaits true (m % 2 ^ 49) 8
        | _ => false)

/-- Withhold set or cleared in a graph's mint record; clearing runs the completion test (R146). -/
def State.withhold (s : State) (g : Nat) (on : Bool) : State :=
  match s.devRead (s.frameAddr g) 8 with
  | .ok m =>
    (match s.devRead (m % 2 ^ 49) 8 with
     | .ok w => s.devWrite (m % 2 ^ 49) 8 (if on then w ||| 1 else mintComplete (w - w % 2))
     | _ => s)
  | _ => s

/-- Whether class `c` of a graph has reached its expiry in this frame (R283). -/
def State.pastBudget (s : State) (g c : Nat) : Bool :=
  match s.devRead (s.frameAddr g + 8 + 4 * c) 4, s.devRead (s.frameAddr g + 0x18) 8 with
  | .ok b, .ok f => b != 0 && decide (f + b ≤ s.clk)
  | _, _ => false

/-- Whether the expiry of class `c` has been applied in this frame. -/
def State.expiryDone (s : State) (g c : Nat) : Bool :=
  match s.devRead (s.frameAddr g + 0x24) 4 with
  | .ok v => fld v c 1 == 1
  | _ => true

/-- Launches that the expiry of class `c` of a graph defers: those not started, and every later one of the graph in their
ring. -/
def State.deferredBy (s : State) (g c : Nat) : List Nat :=
  let of_ := s.launches.filter fun l => l.gv && l.graph == g && !l.deferred
  let first := of_.filter fun l => l.cls == c && l.placed.isEmpty
  (of_.filter fun l => l.placed.isEmpty && first.any fun f => f.ring == l.ring && decide (f.id ≤ l.id)).map (·.id)

/-- Launches of a graph deferred to its next frame, counted, with flags set in its entry; where there are any, withhold is set (R283). -/
def State.deferAll (s : State) (g flags : Nat) (ids : List Nat) : State :=
  let s1 := ids.foldl (fun t id => t.onLaunch id fun l => { l with deferred := true }) s
  let old := match s.devRead (s.frameAddr g + 0x24) 4 with | .ok v => v | _ => 0
  let ndef := match s.devRead (s.frameAddr g + 0x28) 4 with | .ok v => v | _ => 0
  let s2 := s1.devWrite (s.frameAddr g + 0x24) 4 (old ||| flags ||| if ids.isEmpty then 0 else 16)
  if ids.isEmpty then s2 else (s2.devWrite (s.frameAddr g + 0x28) 4 (ndef + ids.length)).withhold g true

/-- An expiry applied (R283). -/
def State.expire (s : State) (g c : Nat) : State :=
  if !s.pastBudget g c || s.expiryDone g c then s else s.deferAll g (2 ^ c) (s.deferredBy g c)

/-- BUDGET_EXPIRY (R283). -/
def execBudgetExpiry (graph cls : Nat) (s : State) : Result :=
  if cls < 4 ∧ graph < 65536 ∧ !s.frameWaits graph then .next (s.expire graph cls) else .next s

/-- A launch accepted in a frame in which its class has expired, or after a deferred launch of its graph in its ring, is deferred as it is
accepted (R283, R315). -/
def State.deferLate (s : State) (l : Launch) : State :=
  let after := s.launches.any fun m => m.deferred && m.gv && m.graph == l.graph && m.ring == l.ring && decide (m.id < l.id)
  if l.gv && (s.pastBudget l.graph l.cls || after) then s.deferAll l.graph 0 [l.id] else s

/-- A frame entry's steps, after the expiries of the ending frame (R282, R283). Deferred launches are dispatchable again, ahead of later
ones of the graph. -/
def State.startFrame (s : State) (g : Nat) : State :=
  let s1 := ([0, 1, 2, 3].foldl (fun t c => t.expire g c) s).withhold g false
  let a := s.frameAddr g
  let frame := match s1.devRead (a + 0x20) 4 with | .ok v => v | _ => 0
  let s2 := (((s1.devWrite (a + 0x18) 8 s.clk).devWrite (a + 0x20) 4 (frame + 1)).devWrite (a + 0x24) 4 0).devWrite (a + 0x28) 4 0
  { s2 with launches := s2.launches.map fun (l : Launch) => if l.gv && l.graph == g && l.deferred then { l with deferred := false, requeued := true } else l }

/-! Ring entries (R262, R269). -/

/-- What stands at a ring's head. -/
inductive HeadEntry
  | none
  | stop (cause addr : Nat) (resume : ResumeAs)
  | entry (addr : Nat) (bytes : List Byte)
  | kicked (record : Nat)
deriving DecidableEq, Repr

/-- The entry that a ring offers: rings 8 to 11 are the dies' internal rings, whose entries are the addresses of launch records (R192). -/
def State.ringHead (s : State) (n : Nat) : HeadEntry :=
  let r := s.ring n
  if r.stp || r.owed.isSome || r.resume == .skip then .none
  else if 8 ≤ n then
    match tgetD [] s.inner (n - 8) with
    | [] => .none
    | a :: _ => .kicked a
  else if r.desc = 0 || s.devWaits true r.desc 32 then .none
  else
    match s.readRing s.reachDev false r.desc with
    | .fault _ _ => .stop 0x0A r.desc .reread
    | .bad => .stop 0x09 r.desc .reread
    | .wait => .none
    | .ok d =>
      if d.head = r.tail.toNat then .none
      else
        match s.reachDev false (d.entryAddr d.head) with
        | .at_ l => if s.mustWait l then .none else .entry (d.entryAddr d.head) (s.readSpan l 32)
        | .fault _ | .absent => .stop 0x0A (d.entryAddr d.head) .skip
        | .wait => .none

/-- An entry's fields. -/
def entryOp (e : List Byte) : Nat := numOf (e.take 1)
def entryGraph (e : List Byte) : Nat := numOf ((e.drop 4).take 2)
def entryAddr (e : List Byte) : Nat := numOf ((e.drop 8).take 8)
def entryValue (e : List Byte) : Nat := numOf ((e.drop 16).take 8)

/-- Reserved fields of an entry. -/
def entryBad (e : List Byte) : Bool :=
  numOf ((e.drop 1).take 3) != 0 || numOf ((e.drop 6).take 2) != 0 || fld (entryAddr e) 49 15 != 0 || numOf ((e.drop 24).take 8) != 0

/-- A ring's next entry, if it holds this operation. -/
def ringEntry (n op : Nat) (body : Nat → List Byte → State → State) (s : State) : Result :=
  let s := s.settleRing n
  if 8 ≤ n then .next s
  else
    match s.ringHead n with
    | .stop cause addr res => .next (s.stopRing n cause addr res)
    | .entry a e =>
      if entryOp e ≠ op then .next s
      else if entryBad e then .next (s.stopRing n 0x01 a .skip)
      else .next (body a e s)
    | .none | .kicked _ => .next s

/-- RING_NOP (R262). -/
def execRingNop (n : Nat) (s : State) : Result := ringEntry n 0 (fun _ _ s => s.ringAdvance n) s

/-- RING_FRAME (R282). -/
def execRingFrame (n : Nat) (s : State) : Result :=
  ringEntry n 3 (fun _ e s => if s.frameWaits (entryGraph e) then s else (s.startFrame (entryGraph e)).ringAdvance n) s

/-- RING_WAIT (R262): the ring is held until its word is reached. -/
def execRingWait (n : Nat) (s : State) : Result :=
  ringEntry n 2 (fun a e s =>
    if entryAddr e % 8 ≠ 0 then s.stopRing n 0x01 a .skip
    else
      match s.devRead (entryAddr e) 8 with
      | .fault => s.stopRing n 0x0A a .skip
      | _ => s.setRing n { s.ring n with waiting := true }) s

/-- RING_WAIT_COMPLETE (R262, R313). -/
def execRingWaitComplete (n : Nat) (s : State) : Result :=
  if !(s.ring n).waiting then .next s
  else
    ringEntry n 2 (fun _ e s =>
      match s.devRead (entryAddr e) 8 with
      | .ok v => if entryValue e ≤ v then s.ringAdvance n else s
      | _ => s) s

/-- INVALID_RING_ENTRY (R269). -/
def execInvalidRingEntry (n : Nat) (s : State) : Result :=
  let s := s.settleRing n
  match s.ringHead n with
  | .entry a e => if 4 ≤ entryOp e then .next (s.stopRing n 0x07 a .skip) else .next s
  | _ => .next s

/-! Acceptance (R265 to R272). -/

/-- What reading the indirect counts finds. -/
inductive CountRead
  | ok (counts : List Nat)
  | fault
  | wait
deriving DecidableEq, Repr

/-- Indirect counts read in level order. -/
def Launch.readCounts (l : Launch) (s : State) : List Nat → List Nat → CountRead
  | [], cs => .ok cs
  | n :: ns, cs =>
    if l.levelInd n then
      match s.devRead (l.levelAddr n) 4 with
      | .ok v => l.readCounts s ns (cs ++ [v])
      | .fault => .fault
      | .wait => .wait
    else l.readCounts s ns (cs ++ [l.levelCount n])

/-- The next launch's number. -/
def State.launchId (s : State) : Nat := (s.launches.map (·.id)).foldl max 0 + 1

/-- A launch as its record declares it, with no count read. -/
def State.newLaunch (s : State) (ring entry : Nat) (record : List Byte) : Launch :=
  let l : Launch :=
    { id := s.launchId, ring := ring, entry := entry, record := record, counts := [], counted := false, blocks := 0, known := false,
      placed := [], completed := [], sucstarted := [], deferred := false, requeued := false }
  { l with counts := l.levels.map l.levelCount }

/-- A launch whose counts are known; a pixel launch learns B when its walk ends (R253, R267). -/
def Launch.withCounts (l : Launch) (cs : List Nat) : Launch :=
  if l.pixel then { l with counts := cs, counted := true }
  else { l with counts := cs, counted := true, blocks := blocksOf cs, known := true }

/-- Whether accepting a launch, with the bitmap of the blocks that it is known to have, must wait. -/
def State.acceptWaits (s : State) (l : Launch) : Bool :=
  s.launchWaits l (if l.known then l.blocks else 0) || (l.gv && s.frameWaits l.graph)

/-- A record accepted or rejected. -/
def State.accept (s : State) (n entry addr : Nat) (record : List Byte) : State :=
  let l := s.newLaunch n entry record
  let take (l : Launch) : State :=
    if s.acceptWaits l then s
    else
      let s1 : State := ({ s with launches := s.launches ++ [l] } : State).openBitmap l.id
      (if l.known ∧ l.blocks = 0 ∧ l.pbmap = 0 then s1.finishLaunch l else s1.deferLate l).ringAdvance n
  match l.check addr with
  | some cause => s.stopRing n cause entry .skip
  | none =>
    if l.indirect && l.pbmap != 0 then take l
    else
      match l.readCounts s l.levels [] with
      | .wait => s
      | .fault => s.stopRing n 0x0A entry .skip
      | .ok cs =>
        match (l.withCounts cs).checkCount with
        | some cause => s.stopRing n cause entry .skip
        | none => take (l.withCounts cs)

/-- Bytes read by the scheduler from an address, in lines of 128. -/
def State.devLines (s : State) (a : Nat) : Nat → Option (List Byte)
  | 0 => some []
  | n + 1 =>
    match s.reachDev false a, s.devLines (a + 128) n with
    | .at_ l, some rest => some (s.readSpan l 128 ++ rest)
    | _, _ => none

/-- A launch entry, or a kicked record: the record at an address read and accepted or rejected. -/
def State.launchEntry (s : State) (n entry addr : Nat) : State :=
  if addr % 128 ≠ 0 then s.stopRing n 0x01 entry .skip
  else if s.devWaits false addr 256 then s
  else
    match s.devLines addr 2 with
    | none => s.stopRing n 0x0A entry .skip
    | some r => (s.touchDev addr 256).accept n entry addr r

/-- RING_LAUNCH (R192, R262, R269). -/
def execRingLaunch (n : Nat) (s : State) : Result :=
  let s := s.settleRing n
  match s.ringHead n with
  | .kicked a => .next (s.launchEntry n a a)
  | _ => ringEntry n 1 (fun a e s => s.launchEntry n a (entryAddr e)) s

/-- INDIRECT_COUNT_READ (R266, R271, R272): the counts are read once every producer block has completed. -/
def execIndirectCountRead (launch : Nat) (s : State) : Result :=
  match s.launchBy launch with
  | none => .next s
  | some l =>
    if l.counted then .next s
    else
      match s.producerDone l with
      | .no => .next s
      | .fault => .next (s.rejectLate l 0x0A)
      | .yes =>
        match l.readCounts s l.levels [] with
        | .wait => .next s
        | .fault => .next (s.rejectLate l 0x0A)
        | .ok cs =>
          let m := l.withCounts cs
          match m.checkCount with
          | some cause => .next (s.rejectLate l cause)
          | none =>
            if s.launchWaits m (if m.known then m.blocks else 0) then .next s
            else .next (((s.onLaunch launch fun _ => m).openBitmap launch).settleLaunch launch)

/-! The tile walker (R253). -/

/-- A fragment: pixel and hit. -/
structure Fragment where
  px : Nat
  py : Nat
  hit : Hit
deriving DecidableEq, Repr

/-- The number of a core that no core has: its accesses use no TLB. -/
def noCore : Nat := 128

/-- The hits of a pixel, in rank order; a hierarchy that cannot be read gives none, and one that must be waited for no answer. -/
def State.pixelHits (s : State) (root px py : Nat) : Nat → Option Rank → Option (List Fragment)
  | 0, _ => some []
  | n + 1, after =>
    match (s.tileTraverse noCore true px py after traversalFuel root []).1 with
    | .hit h => (s.pixelHits root px py n (some h.rank)).map fun fs => ⟨px, py, h⟩ :: fs
    | .wait => none
    | .none | .fault _ _ => some []

/-- The order of fragments: primitive, quad in reading order, pixel within the quad. -/
def Fragment.key (f : Fragment) : List Nat := [f.hit.index, f.py / 2, f.px / 2, f.py % 2, f.px % 2]

def lexLess : List Nat → List Nat → Bool
  | a :: as, b :: bs => decide (a < b) || (a == b && lexLess as bs)
  | _, _ => false

/-- The covered pixels of a launch's rectangle, unless the walk must wait. -/
def State.fragments (s : State) (l : Launch) : Option (List Fragment) :=
  let x0 := fld l.porg 0 16
  let y0 := fld l.porg 16 16
  let all := ((List.range (fld l.psize 16 16)).map fun j => (List.range (fld l.psize 0 16)).map fun i =>
    s.pixelHits l.proot (x0 + i) (y0 + j) 64 none).flatten
  if all.any Option.isNone then none else some (sortBy (fun a b => !lexLess b.key a.key) (all.filterMap id).flatten)

/-- Whether two fragments lie in one quad of one primitive. -/
def Fragment.sameQuad (a b : Fragment) : Bool := a.key.take 3 == b.key.take 3

/-- Fragments grouped by quad. -/
def quadsOf : List Fragment → List (List Fragment)
  | [] => []
  | f :: fs =>
    match quadsOf fs with
    | [] => [[f]]
    | q :: qs =>
      match q with
      | g :: _ => if f.sameQuad g then (f :: q) :: qs else [f] :: q :: qs
      | [] => [f] :: qs

/-- Quads packed into waves of up to 96 lanes; a wave closes when the next quad does not fit. -/
def packWaves : List (List Fragment) → List (List Fragment) → List (List (List Fragment))
  | [], cur => if cur.isEmpty then [] else [cur]
  | q :: qs, cur =>
    if 96 < cur.flatten.length + q.length then cur :: packWaves qs [q] else packWaves qs (cur ++ [q])

/-- The lane in which each fragment of a wave stands, with its quad and the quad's first lane. -/
def laneFragments : List (List Fragment) → Nat → List (Nat × Nat × List Fragment × Fragment)
  | [], _ => []
  | q :: qs, lane => (q.zipIdx.map fun f => (lane + f.2, lane, q, f.1)) ++ laneFragments qs (lane + q.length)

/-- sr.nbr of a fragment (R126, R253): v, the pixel's parities, and the lanes of its partners. -/
def nbrOfFragment (first : Nat) (q : List Fragment) (f : Fragment) : Word :=
  let partner (x y : Nat) : Nat :=
    match q.findIdx? fun g => g.px == x && g.py == y with
    | some i => first + i
    | none => 0x7F
  let px := if f.px % 2 = 0 then f.px + 1 else f.px - 1
  let py := if f.py % 2 = 0 then f.py + 1 else f.py - 1
  BitVec.ofNat 32 (2 ^ 31 + f.px % 2 * 2 ^ 29 + f.py % 2 * 2 ^ 30 + partner px f.py * 2 ^ 16 + partner f.px py * 2 ^ 8
    + partner px py)

/-- The waves of a pixel launch, unless the walk must wait. -/
def State.pixelWaves (s : State) (l : Launch) : Option (List (List (List Fragment))) :=
  (s.fragments l).map fun fs => packWaves (quadsOf fs) []

/-- The number of blocks that the walk of a pixel launch gives: each takes up to cnt1 waves (R267). -/
def State.walkBlocks (s : State) (l : Launch) : Option Nat :=
  (s.pixelWaves l).map fun ws => (ws.length + max (l.count 1) 1 - 1) / max (l.count 1) 1

/-- The start of a pixel wave whose first fragment has a number (R253). -/
def pixelStart (quads : List (List Fragment)) (number : Nat) : StartRecord :=
  let ls := laneFragments quads 0
  { mask := lowLanes ls.length
    vregs := (ls.map fun (x : Nat × Nat × List Fragment × Fragment) =>
      let f := x.2.2.2
      [(vkey 0 0 x.1, BitVec.ofNat 32 f.px), (vkey 0 1 x.1, BitVec.ofNat 32 f.py), (vkey 0 2 x.1, BitVec.ofNat 32 f.hit.index),
        (vkey 0 3 x.1, f.hit.t), (vkey 0 4 x.1, f.hit.u), (vkey 0 5 x.1, f.hit.v)]).flatten
    items := ls.map fun (x : Nat × Nat × List Fragment × Fragment) => (x.1, BitVec.ofNat 32 (number + x.1))
    nbrs := ls.map fun (x : Nat × Nat × List Fragment × Fragment) => (x.1, nbrOfFragment x.2.1 x.2.2.1 x.2.2.2) }

/-! Placement (R215, R231, R241, R267, R285). -/

/-- Free core wave slots of a pipe, in ascending order. -/
def State.freeWaveSlots (s : State) (core pipe : Nat) : List Nat :=
  ((List.range 8).map fun k => 4 * k + pipe).filter fun ws => (s.wave (32 * core + ws)).isNone

/-- Resident blocks of a core. -/
def State.coreBlocks (s : State) (core : Nat) : List Block := (s.run.blocks.filter fun b => b.2.core == core).map (·.2)

/-- The lowest base at which an allotment fits (R128). -/
def State.sramBase (s : State) (core size : Nat) : Option Nat :=
  ((List.range 8).map (131072 * ·)).find? fun a =>
    decide (a + size ≤ Config.sramBytes) && !(s.coreBlocks core).any fun b => spansMeet a size b.base b.allotment

/-- Free resident slots, tile entries and reservations of a cluster, in ascending order. -/
def State.freeBlockSlots (s : State) (cluster : Nat) : List Nat := (List.range 32).filter fun k => (s.block (32 * cluster + k)).isNone
def State.freeTileEntries (s : State) (cluster : Nat) : List Nat :=
  (List.range 128).filter fun e => (tget s.run.tiles (128 * cluster + e)).isNone
def State.freeReservations (s : State) (cluster : Nat) : List Nat :=
  (List.range Config.reservations).filter fun r => (tget (s.cluster cluster).reservations r).isNone

/-- The instance of a domain to which a core belongs (R5). -/
def domainOf (dom core : Nat) : Nat := if dom ≤ 2 then core else if dom = 3 then core / 4 else if dom = 4 then core / 32 else 0

/-- The group of block `i` at level `n`; the blocks of a pixel launch, whose level-2 count is ignored, form one group. -/
def Launch.group (l : Launch) (n i : Nat) : Nat := if l.pixel then 0 else i / (((l.counts.take n).drop 2).foldl (· * ·) 1)

/-- Whether a core lies in the instance that each group of block `i` uses (R215). -/
def Launch.bindingOk (l : Launch) (i core : Nat) : Bool :=
  (l.levels.drop 3).all fun n => l.placed.all fun p =>
    l.group n p.1 != l.group n i || domainOf (l.levelDom n) p.2 == domainOf (l.levelDom n) core

/-- Whether a core can take block `i` of a launch (R285, R357, R386). -/
def State.fits (s : State) (l : Launch) (i core : Nat) : Bool :=
  let k := clusterOf core
  l.bindingOk i core && !(s.cluster k).degraded && !s.clusterStopped k
    && [0, 1, 2, 3].all (fun p =>
        decide (wavesOnPipe (l.count 1) p ≤ (s.freeWaveSlots core p).length)
          && decide (wavesOnPipe (l.count 1) p * l.regs ≤ s.poolFree core p))
    && (s.sramBase core l.allotment).isSome && !(s.freeBlockSlots k).isEmpty
    && decide (l.tiles ≤ (s.freeTileEntries k).length) && (l.streamPc == 0 || !(s.freeReservations k).isEmpty)

/-- The headroom of a cluster's island (R388). -/
def State.headroom (s : State) (cluster : Nat) : Nat := (s.island cluster).hr

/-- Free wave slots of a core. -/
def State.freeWaves (s : State) (core : Nat) : Nat := ([0, 1, 2, 3].map fun p => (s.freeWaveSlots core p).length).sum

/-- Whether core `a` comes before core `b` in the placer's choice. -/
def State.placeBefore (s : State) (a b : Nat) : Bool :=
  let ka := clusterOf a
  let kb := clusterOf b
  if ka ≠ kb then decide (s.headroom kb < s.headroom ka) || (s.headroom ka == s.headroom kb && decide (ka < kb))
  else decide (s.freeWaves b < s.freeWaves a) || (s.freeWaves a == s.freeWaves b && decide (a ≤ b))

/-- The cores that can take a block, best first. -/
def State.choices (s : State) (l : Launch) (i : Nat) : List Nat :=
  sortBy s.placeBefore ((List.range Config.cores).filter (s.fits l i))

/-- Position of a block at level `n` (R216, R267). -/
def Launch.position (l : Launch) (i n : Nat) : Nat :=
  if l.pixel then (if n = 2 then i else 0)
  else i / (((l.counts.take n).drop 2).foldl (· * ·) 1) % max (l.count n) 1

/-- Wave `w` of block `i`: its positions and counts for sr.pos and sr.cnt. -/
def Launch.positions (l : Launch) (i w : Nat) : List Word :=
  l.levels.map fun n => BitVec.ofNat 32 (if n = 0 then 0 else if n = 1 then w else l.position i n)

/-- A start record's registers, items and partner lanes given to a wave. -/
def State.giveStart (s : State) (wid : Nat) (r : StartRecord) : State :=
  { s with run := { s.run with
      vregs := tsets s.run.vregs (r.vregs.map fun (x : Nat × Word) => (vkey wid 0 0 + x.1, x.2)),
      items := tsets s.run.items (r.items.map fun (x : Nat × Word) => (lkey wid x.1, x.2)),
      nbrs := tsets s.run.nbrs (r.nbrs.map fun (x : Nat × Word) => (lkey wid x.1, x.2)) } }

/-- The path with which a wave starts; a graphics wave starts in a region opened at its entry (R197, R254). -/
def startPath (entry : Nat) (r : StartRecord) (graphics : Bool) (clk : Nat) : Path :=
  { Path.fresh entry r.mask clk with region := if graphics then some ⟨entry, none, true, []⟩ else none }

/-- One wave started in a slot (R197, R267, R275, R291, R303). -/
def State.startWave (s : State) (l : Launch) (bid i w wid : Nat) (start : Option StartRecord) : State :=
  let lanes := min (l.count 0) 96
  let r : StartRecord := start.getD ⟨lowLanes lanes, [], [], []⟩
  let graphics := l.pixel || decide (0 < l.replay)
  let w0 : Wave :=
    { block := bid, index := w, role := l.role w, lanesL := lanes, live := r.mask, lent := 0, regCount := l.regs,
      tvec := BitVec.ofNat 64 s.dev.tvec, pin := none, positions := l.positions i w,
      counts := l.counts.map (BitVec.ofNat 32), arrivals := 0, seen := [],
      reservation := if l.replay ≤ s.freeReplay (wid / 32) then l.replay else 0,
      start := if graphics then some r else none, entry := l.entryPc, killed := false, reissues := (0, 0), skid := 0, last := 0,
      lastAt := none, idled := 0, idledAt := 0, due := [], issuedIn := none, freed := [] }
  ((s.setWave wid w0).giveStart wid r).setPath (4 * wid) (startPath l.entryPc r graphics (s.icc (wid / 32) + 1))

/-- Waves of a block started, each in the lowest free slot of its pipe. -/
def State.startWaves (s : State) (l : Launch) (bid i core : Nat) : List (Nat × Option StartRecord) → State
  | [] => s
  | (w, r) :: ws =>
    (match s.freeWaveSlots core (w % 4) with
     | ws0 :: _ =>
       (s.startWave l bid i w (32 * core + ws0) r).onBlock bid fun b => { b with waves := b.waves ++ [32 * core + ws0] }
     | [] => s).startWaves l bid i core ws

/-- An allotted tile entry at its start (R231). -/
def Tile.allotted (own tn : Nat) : Tile := ⟨0, 0, 0, 0, false, 0, false, .empty, false, 0, own, tn⟩

/-- Block `i` of a launch placed on a core; the first block placed starts the context that runs (log entry 25). -/
def State.placeOn (s : State) (l : Launch) (i core : Nat) (waves : List (Nat × Option StartRecord)) : State :=
  let k := clusterOf core
  match s.freeBlockSlots k, s.sramBase core l.allotment with
  | slot :: _, some base =>
    let bid := 32 * k + slot
    let res := if l.streamPc = 0 then none else (s.freeReservations k).head?
    let b : Block :=
      { launch := l.id, index := i, core := core, waves := [], first := ((s.freeWaveSlots core 0).head?).getD 0, base := base, scratch := l.scratch * 131072,
        allotment := l.allotment, tiles := l.tiles, nf := [], awb := 0, awl := 0, barriers := [], hash := none,
        stream := if l.streamPc = 0 then none else some (Stream.start l.streamPc res), sucstart := false, wpredDone := false }
    let entries := (s.freeTileEntries k).take l.tiles
    let s1 := s.setBlock bid b
    let s2 : State := { s1 with run := { s1.run with
      running := true,
      tiles := tsets s1.run.tiles (entries.zipIdx.map fun (e : Nat × Nat) => (128 * k + e.1, Tile.allotted slot e.2)) } }
    let s3 := match res with
      | some r => s2.setCluster k { s2.cluster k with reservations := tset (s2.cluster k).reservations r bid }
      | none => s2
    (s3.startWaves l bid i core waves).onLaunch l.id fun m => { m with placed := m.placed ++ [(i, core)] }
  | _, _ => s

/-- Fragments in the waves before one. -/
def fragmentsBefore (ws : List (List (List Fragment))) (n : Nat) : Nat := ((ws.take n).map fun w => w.flatten.length).sum

/-- The waves of block `i`: all cnt1 of them, or those that the walker has packed (R253, R267). -/
def State.blockWaves (s : State) (l : Launch) (i : Nat) : List (Nat × Option StartRecord) :=
  if l.pixel then
    let all := (s.pixelWaves l).getD []
    (((all.drop (i * l.count 1)).take (l.count 1)).zipIdx).map fun x =>
      (x.2, some (pixelStart x.1 (fragmentsBefore all (i * l.count 1 + x.2))))
  else (List.range (l.count 1)).map fun w => (w, none)

/-! Dispatch (R256, R267, R276, R280, R283). -/

/-- Whether this cc is the expiry cc of a class of a graph, in which no dispatch of the graph takes place (R283). -/
def State.inExpiry (s : State) (g c : Nat) : Bool :=
  match s.devRead (s.frameAddr g + 8 + 4 * c) 4, s.devRead (s.frameAddr g + 0x18) 8 with
  | .ok b, .ok f => b != 0 && f + b == s.clk
  | _, _ => false

/-- Whether a launch that has not started is to be deferred with an expiry: its class has expired, or it stands in its ring behind a launch
of its graph that is deferred or has not started before its own class expired (R283). -/
def State.behindExpiry (s : State) (l : Launch) : Bool :=
  s.launches.any fun m => m.gv && m.graph == l.graph && m.ring == l.ring && decide (m.id ≤ l.id)
    && (m.deferred || (m.placed.isEmpty && s.pastBudget m.graph m.cls))

/-- Whether a launch's next block may be considered: it is not deferred nor to be deferred, its counts are known or the walker finds them,
and its graph has no expiry in this cc. -/
def State.launchOpen (s : State) (l : Launch) : Bool :=
  !l.deferred && (l.known || (l.pixel && l.counted))
    && !(l.gv && (([0, 1, 2, 3].any (s.inExpiry l.graph))
      || (l.placed.isEmpty && (s.frameWaits l.graph || s.pastBudget l.graph l.cls || s.behindExpiry l))))

/-- Whether block `i` is ready to dispatch and some core can take it. -/
def State.blockReady (s : State) (l : Launch) (i : Nat) : Bool :=
  !(l.placed.any fun p => p.1 == i) && s.mayDispatch l i == .yes && (List.range Config.cores).any (s.fits l i)

/-- The first ready block from index `i`, among `n`. -/
def State.firstReady (s : State) (l : Launch) : Nat → Nat → Option Nat
  | _, 0 => none
  | i, n + 1 => if s.blockReady l i then some i else s.firstReady l (i + 1) n

/-- The blocks of a launch that may be dispatched: their bound, which the walk of a pixel launch gives. -/
def State.bound (s : State) (l : Launch) : Nat := if l.known then l.blocks else if l.pixel then (s.walkBlocks l).getD 0 else 0

/-- Blocks placed together, each where the rest still fit (R276). -/
def State.placeAll (s : State) (id : Nat) : List Nat → Option State
  | [] => some s
  | i :: is =>
    match s.launchBy id with
    | none => none
    | some l => (s.choices l i).findSome? fun core => (s.placeOn l i core (s.blockWaves l i)).placeAll id is

/-- Whether the blocks of a persistent launch can be placed together (R276). -/
def State.placeable (s : State) (l : Launch) : Bool :=
  l.placed.isEmpty && (List.range l.blocks).all (fun i => s.mayDispatch l i == .yes) && (s.placeAll l.id (List.range l.blocks)).isSome

/-- The first ready block of a launch; those of a persistent launch are ready together. -/
def State.launchReady (s : State) (l : Launch) : Option Nat :=
  if s.launchOpen l then
    match s.firstReady l 0 (s.bound l) with
    | some i => if l.persistent && !s.placeable l then none else some i
    | none => none
  else none

/-- The class with which a launch competes: a later launch of a graph does not go ahead of one that a frame entry has made dispatchable
again and that has a block ready (R280, R282). -/
def State.classOf (s : State) (l : Launch) : Nat :=
  (s.launches.filter fun r => r.requeued && r.gv && l.gv && r.graph == l.graph && decide (r.id < l.id)
    && (s.launchReady r).isSome).foldl (fun k r => max k r.cls) l.cls

/-- Whether a launch with a ready block comes before another in the scheduler's choice: its class, then acceptance. -/
def State.goesBefore (s : State) (a b : Launch) : Bool :=
  decide (s.classOf a < s.classOf b) || (s.classOf a == s.classOf b && decide (a.id < b.id))

/-- A walk that has given its last block: B is known (R267). -/
def State.endWalk (s : State) (l : Launch) : State :=
  ((s.onLaunch l.id fun m => { m with known := true, blocks := m.placed.length }).putHeader l.id).settleLaunch l.id

/-- BLOCK_DISPATCH: the ready block of the highest class, then of the earliest launch, then of the lowest index. -/
def execBlockDispatch (launch index : Nat) (s : State) : Result :=
  match s.launchBy launch with
  | none => .next s
  | some l =>
    if s.run.halted || !s.launchOpen l then .next s
    else if s.mayDispatch l index = .fault ∧ l.placed.isEmpty ∧ index < s.bound l then .next (s.rejectLate l 0x0A)
    else if s.launchWaits l (if l.pixel then index + 1 else 0) then .next s
    else if l.pixel ∧ !l.known ∧ s.walkBlocks l = some l.placed.length then .next (s.endWalk l)
    else if s.launches.any fun m => s.goesBefore m l && (s.launchReady m).isSome then .next s
    else if s.launchReady l ≠ some index then .next s
    else if l.persistent then
      .next ((s.placeAll launch (List.range l.blocks)).getD s)
    else
      match s.choices l index with
      | core :: _ => .next ((s.clearBit l index).placeOn l index core (s.blockWaves l index))
      | [] => .next s

/-! The end of a block (R270, R236, R274). -/

/-- Whether a stream has ended, or has stopped with nothing left that could still take effect (R160, R162). -/
def State.streamOver (s : State) (bid : Nat) (b : Block) (st : Stream) : Bool :=
  match st.state with
  | .running => false
  | .ended => st.entries.isEmpty
  | .stopped => st.entries.all fun e => e.inFlight == 0 && !s.eligible bid b st e && !s.mayAct bid b st e

/-- Whether a block has completed: its waves and stream have ended, and its stores and commands are performed. -/
def State.blockOver (s : State) (bid : Nat) (b : Block) : Bool :=
  b.waves.isEmpty
    && (match b.stream with | some st => s.streamOver bid b st | none => true)
    && !(s.ops.any fun o => o.owner == orphanOwner bid && !o.done)
    && !(trange s.run.tiles (bid / 32 * 128) (bid / 32 * 128 + 128)).any fun t =>
      t.2.own == bid % 32 && (t.2.st == .filling || t.2.st == .draining)

/-- A block's resources returned. -/
def State.removeBlock (s : State) (bid : Nat) : State :=
  let s1 := s.releaseReservation bid
  { s1 with
    ops := s1.ops.filter fun o => o.owner != orphanOwner bid,
    run := { s1.run with
      blocks := tdel s1.run.blocks bid, running := !(tdel s1.run.blocks bid).isEmpty,
      tiles := s1.run.tiles.filter fun (t : Nat × Tile) => !(t.1 / 128 == bid / 32 && t.2.own == bid % 32) } }

/-- BLOCK_COMPLETE (R270). -/
def execBlockComplete (bid : Nat) (s : State) : Result :=
  match s.block bid with
  | none => .next s
  | some b =>
    if !s.blockOver bid b then .next s
    else if (s.launchOf b).any fun l => s.launchWaits l (b.index + 1) then .next s
    else
      let s1 := s.removeBlock bid
      match s1.launchBy b.launch with
      | none => .next s1
      | some l =>
        let s2 := s1.onLaunch l.id fun m => { m with completed := m.completed ++ [b.index] }
        .next (((s2.setBit l b.index).putHeader l.id).settleLaunch l.id)

/-! Rings' registers (R263, R264, R269). -/

/-- CQDESC_WRITE (R263, R264): no ring can be enabled once boot has stopped (R393). -/
def execCqdescWrite (n addr : Nat) (s : State) : Result :=
  if 8 ≤ n ∨ s.boot.stopped then .next s
  else .next ((s.setRing n { s.ring n with desc := addr % 2 ^ 49 / 32 * 32, waiting := false }).ringEvent n false)

/-- CQNOT_WRITE (R264). -/
def execCqnotWrite (n : Nat) (tail : Word) (relaxed : Bool) (s : State) : Result :=
  if 8 ≤ n then .next s
  else if relaxed then .next { s with dev := { s.dev with cqdrop := min (s.dev.cqdrop + 1) 0xFFFFFFFF } }
  else
    .next ((s.setRing n { s.ring n with notTail := tail }).ringEvent n true)

/-- CQSTAT_RESUME (R269). A move past the rejected entry that must wait is owed (R340). -/
def execCqstatResume (n : Nat) (s : State) : Result :=
  let r := s.ring n
  if !r.stp then .next s
  else
    let s1 := s.setRing n { r with stp := false, resume := .next }
    match r.resume with
    | .next => .next s1
    | .skip => .next ((s.setRing n { r with stp := false }).settleRing n)
    | .reread => .next (s1.ringEvent n false)

/-- CQDROP_READ (R263). -/
def execCqdropRead (s : State) : Result :=
  .next { s with hostData := bytesOf 4 s.dev.cqdrop, dev := { s.dev with cqdrop := 0 } }

/-! Dependences as waves see them (R90, R257). -/

/-- WPRED (R90, R257). -/
def execWpred (s : State) : Result :=
  issue .wpred (fun c s =>
    match s.blockOf c.pid with
    | none => .done s
    | some b =>
      match s.launchOf b with
      | none => .done s
      | some l =>
        if b.wpredDone || s.namedDone l b.index == .yes then
          .done (s.onBlock (s.bidOf c.pid) fun b => { b with wpredDone := true })
        else .wait s .hold) s

/-- SUCSTART (R90): the block is marked, once. -/
def execSucstart (s : State) : Result :=
  issue .sucstart (fun c s =>
    match s.blockOf c.pid with
    | none => .done s
    | some b =>
      if b.sucstart then .done s
      else if (s.launchOf b).any fun l => s.launchWaits l 0 then .wait s .translation
      else
        let s1 := (s.onBlock (s.bidOf c.pid) fun b => { b with sucstart := true }).onLaunch b.launch fun l =>
          { l with sucstarted := l.sucstarted ++ [b.index] }
        .done (s1.putHeader b.launch)) s

end Sys2Proof.Machine
end

