-- ==== Sys2Proof/Machine/Drafel.lean ====
section
/-! DEFINITION. Clearing engines: loading a context, chunk programs, chunks and flits, PAUSE and the collective
timer (R182 to R195, R346 to R354). -/

namespace Sys2Proof.Machine

/-! Endpoints and contexts (R346, R349). -/

/-- The endpoint of a context of this package. -/
def endpointOf (cid : Nat) : Endpoint := ⟨Config.here, cid / 16, cid % 16⟩

/-- The context of this package at an endpoint. -/
def cidOf (e : Endpoint) : Option Nat := if e.module = Config.here ∧ e.die < 4 ∧ e.ctx < 16 then some (16 * e.die + e.ctx) else none

/-- The endpoint that a number names: module, die and context, as bits [16:6], [5:4] and [3:0]. -/
def endpointNumbered (n : Nat) : Endpoint := ⟨n / 64, n / 16 % 4, n % 16⟩

/-- The key of a pairing's count: an endpoint and a channel. -/
def pairKey (e : Endpoint) (ch : Nat) : Nat := e.number * 16 + ch

def State.onClear (s : State) (cid : Nat) (f : Clear → Clear) : State := s.setClear cid (f (s.clear cid))

/-- Flits sent. -/
def State.send (s : State) (fs : List Flit) : State := { s with flits := s.flits ++ fs }

/-- A control flit, in class 0 (R349). -/
def controlFlit (k : FlitKind) (src dst : Endpoint) (ch : Nat) : Flit := ⟨k, true, 0, ch, src, dst, 0, 0, 0, []⟩

/-- A control message from a context to every mapped peer. -/
def State.tellPeers (s : State) (cid : Nat) (k : FlitKind) : State :=
  s.send ((s.clear cid).peers.map fun p => controlFlit k (endpointOf cid) p.2 0)

/-- The switch slots of a context's pairings released (R352). -/
def State.releaseSlots (s : State) (cid : Nat) : State :=
  { s with slots := s.slots.filter fun p => p.1 != endpointOf cid && p.2.1 != endpointOf cid }

/-- The end of a program, with CLOSE to its peers (R348, R353). -/
def State.endProgram (s : State) (cid : Nat) (f : Clear → Clear) : State :=
  ((s.onClear cid f).tellPeers cid .close).releaseSlots cid

/-- Whether an operation that has issued still waits for a peer, and so is cancelled by a fault (R193): a recv until its first flit has
arrived, and a red until the first flit of every share has (log entry 128). -/
def ChunkOperation.idle (o : ChunkOperation) : Bool :=
  match o.kind with
  | .send _ _ _ => !o.started
  | .recv p _ _ => (tgetD [] o.got p).isEmpty
  | .red shares _ _ => shares.any fun p => (tgetD [] o.got p.1).isEmpty
  | .copy => false

/-- A program fault at a PC (R193, R347): a context that no longer runs keeps its status, and launch counters stay armed. CLSTAT has
twelve bits for the PC, of which a PC outside the program keeps the lowest (log entry 129). -/
def State.clearFault (s : State) (cid cause pc : Nat) : State :=
  let c := s.clear cid
  if c.st ≠ .running ∧ c.st ≠ .parked then s
  else
    (s.endProgram cid fun c => { c with
      st := .faulted, irq := true, cause := cause, statPc := pc % 4096, timerFrom := none,
      ops := c.ops.filter fun o => !o.idle }).interrupt (.clearing cid)

/-! Translation (R186). -/

/-- Where a chunk program's access arrives. -/
inductive ClearReach
  | at_ (l : Loc)
  | absent
  | fault (cause : Nat)
  | wait
deriving DecidableEq, Repr

/-- A user-mode access through the context's page table; fabric pages are reachable. -/
def State.reachClear (s : State) (c : Clear) (write : Bool) (va : Nat) : ClearReach :=
  match s.walkFrom c.root [] va with
  | .absent => .absent
  | .bad => .fault 0x0B
  | .busy => .wait
  | .leaf e _ big =>
    if fld e 1 1 = 0 then .fault 0x0B
    else if write && (fld e 2 1 == 0 || fld e 5 1 == 1) then .fault 0x04
    else
      match placeOf e big ⟨true, false, true⟩ va with
      | .at_ l => .at_ l
      | .fault _ | .absent => .fault 0x0B
      | .wait => .wait

/-- What reaching a range finds: its places in order, or the first problem in address order. -/
inductive ClearSpan
  | ok (ls : List Loc)
  | absent
  | fault (cause : Nat)
  | wait
deriving DecidableEq, Repr

/-- `n` bytes from an address, in lines of 128 bytes. -/
def State.spanClear (s : State) (c : Clear) (write : Bool) (va : Nat) : Nat → ClearSpan
  | 0 => .ok []
  | n + 1 =>
    match s.spanClear c write va n with
    | .ok ls =>
      (match s.reachClear c write (va + 128 * n) with
       | .at_ l => .ok (ls ++ l.span 128)
       | .absent => .absent
       | .fault k => .fault k
       | .wait => .wait)
    | r => r

/-! The turn of a chunk program (R194, R195). -/

/-- How an instruction's turn ends. -/
inductive ChunkFate
  | done (s : State)
  | jump (s : State) (pc : Nat)
  | held
  | wait
  | park
  | fault (cause : Nat)
  | gone (s : State)

/-- The timer as the next instruction finds it: it restarts at every instruction. -/
def Clear.rested (c : Clear) (pc : Nat) : Clear := { c with pc := pc, timer := 0, timerFrom := none }

/-- Whether a peer of a context is paused (R194, R353). -/
def Clear.paused (c : Clear) : Bool := c.peers.any fun p => c.pausedBy.contains p.2

/-- A program held: its timer runs unless a peer is paused. -/
def Clear.holdAt (c : Clear) (clk : Nat) : Clear :=
  if c.timerFrom.isNone && !c.paused then { c with timerFrom := some clk } else c

/-- A held program's timer with the time that has passed added. -/
def Clear.timed (c : Clear) (clk : Nat) : Clear :=
  { c with timer := (match c.timerFrom with | some t => c.timer + (clk - t) | none => c.timer), timerFrom := none }

/-- A program parked, once its issued operations have completed, with PAUSE to its peers; the instruction's timer stops and keeps its
value (R195, R353). -/
def State.parkProgram (s : State) (cid : Nat) : State :=
  if (s.clear cid).ops.isEmpty then
    (s.onClear cid fun c => { c.timed s.clk with st := .parked, statPc := c.pc }).tellPeers cid .pause
  else s

/-- The instruction of a running program acts when its context's turn comes. -/
def chunkIssue (body : Nat → Clear → State → ChunkFate) (s : State) : Result :=
  match s.cur with
  | .clearing cid =>
    let c := s.clear cid
    if c.st ≠ .running then .next s
    else
      match body cid c s with
      | .done t => .next (t.onClear cid fun c => c.rested (c.pc + 1))
      | .jump t pc => .next (t.onClear cid fun c => c.rested pc)
      | .held => .next (s.onClear cid fun c => c.holdAt s.clk)
      | .wait => .next s
      | .park => .next (s.parkProgram cid)
      | .fault cause => .next (s.clearFault cid cause c.pc)
      | .gone t => .next t
  | .idle | .path _ | .stream _ => .next s

def Clear.reg (c : Clear) (d : BitVec 4) : Word := tgetD 0 c.d d.toNat
def Clear.setReg (c : Clear) (d : BitVec 4) (v : Word) : Clear := { c with d := tset c.d d.toNat v }

/-! Data instructions (R185 to R188). -/

/-- The address of a chunk, if it lies in its buffer. -/
def Clear.chunkAddr (c : Clear) (b d : BitVec 4) : Option Nat :=
  (tget c.buffers b.toNat).bind fun u =>
    if ((c.reg d).toNat + 1) * c.chunk ≤ u.len then some (u.base + (c.reg d).toNat * c.chunk) else none

/-- The address of a signal word, if it lies in its buffer. -/
def Clear.signalAddr (c : Clear) (b d : BitVec 4) : Option Nat :=
  (tget c.buffers b.toNat).bind fun u => if 8 * (c.reg d).toNat + 8 ≤ u.len then some (u.base + 8 * (c.reg d).toNat) else none

def Clear.writable (c : Clear) (b : BitVec 4) : Bool := (tget c.buffers b.toNat).any (·.wr)

/-- A data instruction's operands: where it reads, where it writes, and the peers it names. -/
structure ChunkPlan where
  src : Option (BitVec 4 × BitVec 4)
  dst : Option (BitVec 4 × BitVec 4)
  peers : List Nat
deriving DecidableEq, Repr

/-- The checks of operands in order: chunk range, peers, writable buffer. -/
def Clear.planFault (c : Clear) (p : ChunkPlan) : Option Nat :=
  let inside (x : Option (BitVec 4 × BitVec 4)) : Bool :=
    match x with
    | some o => (c.chunkAddr o.1 o.2).isSome
    | none => true
  if !inside p.src || !inside p.dst then some 0x02
  else if p.peers.any fun q => (tget c.peers q).isNone then some 0x03
  else if (match p.dst with | some o => !c.writable o.1 | none => false) then some 0x04
  else none

/-- The places of an operand. -/
def State.operandSpan (s : State) (c : Clear) (write : Bool) (x : Option (BitVec 4 × BitVec 4)) : ClearSpan :=
  match x.bind fun o => c.chunkAddr o.1 o.2 with
  | some a => s.spanClear c write a (c.chunk / 128)
  | none => .ok []

def operandVa (c : Clear) (x : Option (BitVec 4 × BitVec 4)) : Nat := (x.bind fun o => c.chunkAddr o.1 o.2).getD 0

/-- Whether an operation in flight and new byte ranges overlap where one of them writes (R188). -/
def ChunkOperation.clashes (o : ChunkOperation) (n : Nat) (srcVa dstVa : Nat) (reads writes : Bool) : Bool :=
  let meets (a b : Nat) : Bool := spansMeet a n b n
  (!o.dst.isEmpty && ((reads && meets o.dstVa srcVa) || (writes && meets o.dstVa dstVa)))
    || (!o.src.isEmpty && writes && meets o.srcVa dstVa)

/-- Whether a store to one of some bytes is to be seen by a die's clearing engine and not performed yet (R320, R323; log entry 10). -/
def State.unseenOn (s : State) (die : Nat) (ls : List Loc) : Bool :=
  s.ops.any fun o => !o.done && (match o.seen with
      | some .die => dieOf (coreOf o.pid) == die
      | some .package | some .system => true
      | some .wave | some .block | some .cluster | none => false) && o.kind.touches.any ls.contains

/-- Whether a context's access to some bytes waits: for an owner of a line, an assay, or a store that it is to see (R330, R385, R320). -/
def State.clearWaits (s : State) (cid : Nat) (ls : List Loc) : Bool := ls.any s.mustWait || s.unseenOn (cid / 16) ls

/-- Whether the bytes of an operation that has issued wait: for an owner that issued earlier, an assay, or a store that its engine is to
see (R330, R385, R320; log entry 13). -/
def State.chunkWaits (s : State) (cid : Nat) (o : ChunkOperation) (ls : List Loc) : Bool :=
  (ls.any fun l => s.ownedBelow o.stamp l || s.clearingBelow o.stamp l || s.heldBack l) || s.unseenOn (cid / 16) ls

/-- Issuing a data instruction: the checks of its operands, then the table of outstanding operations and the order of R188, then
translation, and the lines of its destination. A page that is absent parks the program before the other operand faults, and a fault goes
before a wait for a page that moves (log entry 67). -/
def dataIssue (plan : Clear → ChunkPlan) (kind : Clear → Clear × ChunkKind) (s : State) : Result :=
  chunkIssue (fun cid c s =>
    let p := plan c
    match c.planFault p with
    | some cause => .fault cause
    | none =>
      let sv := operandVa c p.src
      let dv := operandVa c p.dst
      if Config.chunkOps ≤ c.ops.length || c.ops.any fun o => o.clashes c.chunk sv dv p.src.isSome p.dst.isSome then .held
      else
        match s.operandSpan c false p.src, s.operandSpan c true p.dst with
        | .absent, _ | _, .absent => if c.ops.isEmpty then .park else .held
        | .fault k, _ | _, .fault k => .fault k
        | .wait, _ | _, .wait => .wait
        | .ok src, .ok dst =>
          if s.clearWaits cid dst then .wait
          else
            let x := kind c
            .done (({ s with nextOp := s.nextOp + 1 } : State).setClear cid { x.1 with
              nextOp := c.nextOp + 1, ops := c.ops ++ [⟨c.nextOp, s.nextOp, c.pc, x.2, src, dst, sv, dv, false, [], 0⟩] })) s

/-- The next chunk number to a peer on a channel. -/
def Clear.takeSent (c : Clear) (p ch : Nat) : Clear × Nat :=
  let k := pairKey ((tget c.peers p).getD ⟨0, 0, 0⟩) ch
  ({ c with sent := tset c.sent k (tgetD 0 c.sent k + 1) }, tgetD 0 c.sent k)

/-- The next consumer number of a peer on a channel. -/
def Clear.takeUsed (c : Clear) (p ch : Nat) : Clear × Nat :=
  let k := pairKey ((tget c.peers p).getD ⟨0, 0, 0⟩) ch
  ({ c with used := tset c.used k (tgetD 0 c.used k + 1) }, tgetD 0 c.used k)

/-- SEND (R186). -/
def execSend (p b d ch : BitVec 4) (s : State) : Result :=
  dataIssue (fun _ => ⟨some (b, d), none, [p.toNat]⟩)
    (fun c => let x := c.takeSent p.toNat ch.toNat; (x.1, .send p.toNat ch.toNat x.2)) s

/-- RECV (R186). -/
def execRecv (p b d ch : BitVec 4) (s : State) : Result :=
  dataIssue (fun _ => ⟨none, some (b, d), [p.toNat]⟩)
    (fun c => let x := c.takeUsed p.toNat ch.toNat; (x.1, .recv p.toNat ch.toNat x.2)) s

/-- DRAFEL_COPY (R186). -/
def execDrafelCopy (b d b2 d2 : BitVec 4) (s : State) : Result :=
  dataIssue (fun _ => ⟨some (b2, d2), some (b, d), []⟩) (fun c => (c, .copy)) s

/-- The peers of a red's mask. -/
def maskPeers (m : Word) : List Nat := (List.range 16).filter fun p => m.getLsbD p

/-- Consumer numbers taken for several peers. -/
def Clear.takeShares (c : Clear) (ch : Nat) : List Nat → Clear × List (Nat × Nat)
  | [] => (c, [])
  | p :: ps =>
    let x := c.takeUsed p ch
    let y := x.1.takeShares ch ps
    (y.1, (p, x.2) :: y.2)

/-- A red with its reduction (R187). -/
def red (rop : Nat) (m b d b2 d2 ch : BitVec 4) (s : State) : Result :=
  dataIssue (fun c => ⟨some (b2, d2), some (b, d), maskPeers (c.reg m)⟩)
    (fun c => let x := c.takeShares ch.toNat (maskPeers (c.reg m)); (x.1, .red x.2 ch.toNat rop)) s

/-- RED_ADD_F32 (R187). -/
def execRedAddF32 (m b d b2 d2 ch : BitVec 4) (s : State) : Result := red 0 m b d b2 d2 ch s

/-- RED_ADD_I32 (R187). -/
def execRedAddI32 (m b d b2 d2 ch : BitVec 4) (s : State) : Result := red 1 m b d b2 d2 ch s

/-- RED_MIN_F32 (R187). -/
def execRedMinF32 (m b d b2 d2 ch : BitVec 4) (s : State) : Result := red 2 m b d b2 d2 ch s

/-- RED_MAX_F32 (R187). -/
def execRedMaxF32 (m b d b2 d2 ch : BitVec 4) (s : State) : Result := red 3 m b d b2 d2 ch s

/-- RED_MIN_I32 (R187). -/
def execRedMinI32 (m b d b2 d2 ch : BitVec 4) (s : State) : Result := red 4 m b d b2 d2 ch s

/-- RED_MAX_I32 (R187). -/
def execRedMaxI32 (m b d b2 d2 ch : BitVec 4) (s : State) : Result := red 5 m b d b2 d2 ch s

/-- RED_AND_B32 (R187). -/
def execRedAndB32 (m b d b2 d2 ch : BitVec 4) (s : State) : Result := red 6 m b d b2 d2 ch s

/-- RED_OR_B32 (R187). -/
def execRedOrB32 (m b d b2 d2 ch : BitVec 4) (s : State) : Result := red 7 m b d b2 d2 ch s

/-! Waiting and signalling (R189, R190). -/

/-- WAIT_OPS (R189). -/
def execWaitOps (n : BitVec 6) (s : State) : Result :=
  chunkIssue (fun _ c s => if c.ops.length ≤ n.toNat then .done s else .held) s

/-- WAIT_GE (R189). The timer runs also while the word's page is moving, its line is owned, or operations keep the program from
parking (R194). A word that holds uncorrectable data reads as it stands, and bytes of a malformed block as zero (log entry 130). -/
def execWaitGe (b d v : BitVec 4) (s : State) : Result :=
  chunkIssue (fun cid c s =>
    match c.signalAddr b d with
    | none => .fault 0x02
    | some a =>
      match s.reachClear c false a with
      | .absent => if c.ops.isEmpty then .park else .held
      | .fault k => .fault k
      | .wait => .held
      | .at_ l =>
        if !s.clearWaits cid (l.span 8) && decide ((c.reg v).toNat ≤ s.readNum l 8) then .done (s.dramTouch [l]) else .held) s

/-- Bytes that a chunk program writes: memory of this package is written, and WRITE flits carry the pieces of other modules'
pages, cut at each multiple of 256 of the address (R149, R351). -/
def State.writeClear (s : State) (cid va : Nat) (ls : List Loc) (bs : List Byte) : State :=
  let cut (i : Nat) : Nat := if i = 0 then 0 else 256 * i - va % 256
  let pieces := (List.range (ls.length / 256 + 2)).filterMap fun i =>
    (ls.drop (cut i)).head?.bind fun l =>
      writeFlit (endpointOf cid) (s.clear cid).cls l ((bs.drop (cut i)).take (cut (i + 1) - cut i))
  ((s.writeLocs (ls.zip bs)).send pieces).dramTouch ls

/-- SIG (R190). It is held while earlier operations run, whatever its page does meanwhile (R194). Its own faults come when the program
reaches it, before that wait (log entry 67), and it adds to its word as execWaitGe reads it (log entry 130). -/
def execSig (b d v : BitVec 4) (s : State) : Result :=
  chunkIssue (fun cid c s =>
    match c.signalAddr b d with
    | none => .fault 0x02
    | some a =>
      if !c.writable b then .fault 0x04
      else
        match s.reachClear c true a with
        | .absent => if c.ops.isEmpty then .park else .held
        | .fault k => .fault k
        | .wait => if c.ops.isEmpty then .wait else .held
        | .at_ l =>
          if !c.ops.isEmpty then .held
          else if s.clearWaits cid (l.span 8) then .wait
          else .done (s.writeClear cid a (l.span 8) (bytesOf 8 (s.readNum l 8 + (c.reg v).toNat)))) s

/-! Control (R191). -/

/-- A word `off` words from a PC. -/
def chunkTarget (pc off : Nat) : Nat := wrapInt 32 ((pc : Int) + signedOf 21 off)

/-- SETD (R191). -/
def execSetd (d : BitVec 4) (i : BitVec 24) (s : State) : Result :=
  chunkIssue (fun cid _ s => .done (s.onClear cid fun c => c.setReg d (i.signExtend 32))) s

/-- ADDD (R191). -/
def execAddd (d a : BitVec 4) (i : BitVec 20) (s : State) : Result :=
  chunkIssue (fun cid c s => .done (s.onClear cid fun x => x.setReg d (c.reg a + i.signExtend 32))) s

/-- LOOP (R191). -/
def execLoop (d : BitVec 4) (o : BitVec 21) (s : State) : Result :=
  chunkIssue (fun cid c s =>
    let v := c.reg d
    if v = 0 then .done s
    else
      let t := s.onClear cid fun x => x.setReg d (v - 1)
      if v = 1 then .done t else .jump t (chunkTarget c.pc o.toNat)) s

/-- Whether a condition holds for a register (R183). -/
def brdTaken (k : BrdCond) (v : Word) : Bool :=
  match k with
  | .z => v == 0
  | .nz => v != 0
  | .lt => v.msb
  | .ge => !v.msb

/-- BRD (R191). -/
def execBrd (d : BitVec 4) (k : BrdCond) (o : BitVec 21) (s : State) : Result :=
  chunkIssue (fun _ c s => if brdTaken k (c.reg d) then .jump s (chunkTarget c.pc o.toNat) else .done s) s

/-- DRAFEL_HALT (R191, R347). -/
def execDrafelHalt (s : State) : Result :=
  chunkIssue (fun cid c s =>
    if !c.ops.isEmpty then .held
    else
      let t := s.endProgram cid fun c =>
        { c with st := .halted, statPc := c.pc % 4096, counters := [], timer := 0, timerFrom := none, irq := c.irq || c.hie }
      .gone (if c.hie then t.interrupt (.clearing cid) else t)) s

/-- DRAFEL_NOP (R191). -/
def execDrafelNop (s : State) : Result := chunkIssue (fun _ _ s => .done s) s

/-! Launch counters (R192). -/

/-- A launch record enqueued on the internal ring of a context's die. -/
def State.enqueueKick (s : State) (cid record : Nat) : State :=
  { s with inner := tset s.inner (cid / 16) (tgetD [] s.inner (cid / 16) ++ [record]) }

/-- One counter after `n` chunks have completed on its channel. -/
def State.countKick (s : State) (cid n k : Nat) : State :=
  match tget (s.clear cid).counters k with
  | some x =>
    if x.count.toNat ≤ n then (s.onClear cid fun c => { c with counters := tdel c.counters k }).enqueueKick cid x.record
    else s.onClear cid fun c => { c with counters := tset c.counters k { x with count := x.count - BitVec.ofNat 32 n } }
  | none => s

/-- Chunks completed into a context on a channel: every armed counter of that channel falls. -/
def State.chunksDone (s : State) (cid ch n : Nat) : State :=
  if n = 0 then s
  else ((s.clear cid).counters.filter fun k => k.2.ch == ch).foldl (fun t k => t.countKick cid n k.1) s

/-- KICK (R192). -/
def execKick (k : BitVec 2) (dc b x ch : BitVec 4) (s : State) : Result :=
  chunkIssue (fun cid c s =>
    let i := (c.reg x).toNat
    match (tget c.buffers b.toNat).bind fun u => if 256 * i + 256 ≤ u.len then some (u.base + 256 * i) else none with
    | none => .fault 0x02
    | some a =>
      if (tget c.counters k.toNat).isSome then .fault 0x06
      else if c.reg dc = 0 then .done (s.enqueueKick cid a)
      else .done (s.onClear cid fun c => { c with counters := tset c.counters k.toNat ⟨c.reg dc, ch.toNat, a⟩ })) s

/-! Words that are not instructions (R184). -/

/-- NOT_A_DRAFEL_INSTRUCTION (R184). -/
def execNotADrafelInstruction (why : ChunkReject) (s : State) : Result :=
  chunkIssue (fun _ _ _ => match why with | .word _ => .fault 0x01 | .outside => .fault 0x09) s

/-! Chunks in transfer (R185, R187, R193, R349, R352). -/

def State.findChunk (s : State) (cid op : Nat) : Option ChunkOperation := (s.clear cid).ops.find? fun o => o.id == op

def State.dropChunk (s : State) (cid op : Nat) : State := s.onClear cid fun c => { c with ops := c.ops.filter fun o => o.id != op }

def State.onChunk (s : State) (cid op : Nat) (f : ChunkOperation → ChunkOperation) : State :=
  s.onClear cid fun c => { c with ops := c.ops.map fun (o : ChunkOperation) => if o.id == op then f o else o }

/-- The peer entry of a consumer that takes the chunk of an endpoint on a channel that has a number in its flits (R349). -/
def ChunkOperation.takes (o : ChunkOperation) (c : Clear) (from_ : Endpoint) (ch nth : Nat) : Option Nat :=
  match o.kind with
  | .recv p k n => if tget c.peers p = some from_ ∧ k = ch ∧ n % 2 ^ 32 = nth % 2 ^ 32 then some p else none
  | .red shares k _ => if k = ch then (shares.find? fun p => tget c.peers p.1 == some from_ && p.2 % 2 ^ 32 == nth % 2 ^ 32).map (·.1) else none
  | .send _ _ _ | .copy => none

/-- The consumer of a chunk in a context, with its peer entry. -/
def Clear.consumer (c : Clear) (from_ : Endpoint) (ch nth : Nat) : Option (ChunkOperation × Nat) :=
  c.ops.findSome? fun o => (o.takes c from_ ch nth).map fun p => (o, p)

/-- Whether a source cannot be read: uncorrectable data, or a malformed compressed block. -/
def State.sourceBad (s : State) (ls : List Loc) : Bool := ls.any fun l => s.locBad l || (s.readLoc l).isNone

/-- An operation that met uncorrectable data, which was counted as it struck (R193, R384): dropped, and fault 0x08 at its instruction. -/
def State.chunkUe (s : State) (cid : Nat) (o : ChunkOperation) : State := (s.dropChunk cid o.id).clearFault cid 0x08 o.pc

/-- The DATA flits of a chunk. -/
def dataFlits (src dst : Endpoint) (cls ch nth : Nat) (bs : List Byte) : List Flit :=
  (List.range (bs.length / 256)).map fun i => ⟨.data, true, cls, ch, src, dst, nth % 2 ^ 32, i, 0, (bs.drop (256 * i)).take 256⟩

/-- The switch slot that a pairing across modules takes at its DATA flits, while its context of this package has not ended (R352). -/
def State.takeSlot (s : State) (cid : Nat) (src dst : Endpoint) (ch : Nat) : State :=
  let st := (s.clear cid).st
  if src.module = dst.module ∨ s.slots.contains (src, dst, ch) ∨ (st ≠ .running ∧ st ≠ .parked) then s
  else { s with slots := s.slots ++ [(src, dst, ch)] }

/-- A send's chunk leaves: its source is read now. The receiver runs, whatever it closed before (log entry 32). -/
def State.startSend (s : State) (cid : Nat) (o : ChunkOperation) (to_ : Endpoint) (ch nth : Nat) : State :=
  if s.sourceBad o.src then s.chunkUe cid o
  else
    let bs := o.src.map fun l => (s.readLoc l).getD 0
    let fs := dataFlits (endpointOf cid) to_ (s.clear cid).cls ch nth bs
    let t := (s.onChunk cid o.id fun o => { o with started := true, flits := fs.length }).onClear cid fun c =>
      { c with closed := c.closed.filter (· != to_) }
    ((t.takeSlot cid (endpointOf cid) to_ ch).send fs).dramTouch o.src

/-- A pairing with a context of another module whose chunk size differs: this package's instruction takes 0x07 (R185). -/
def State.mismatch (s : State) (cid : Nat) (o : ChunkOperation) : State := (s.dropChunk cid o.id).clearFault cid 0x07 o.pc

/-- Whether the peer at an endpoint of another module has another chunk size: a free value (log entry 115). -/
def State.drawMismatch (s : State) (e : Endpoint) : Bool := Config.chunkDiffers e.number s.free

/-- The start of a transfer from another module towards a recv or red (R185): a peer whose chunk size differs starts none. -/
def State.startRecv (s : State) (cid : Nat) (o : ChunkOperation) (ps : List Nat) : State :=
  match ps.find? fun p => (tgetD [] o.got p).isEmpty && ((tget (s.clear cid).peers p).any fun e => e.module != Config.here) with
  | some p =>
    let t : State := { s with free := s.free + 1 }
    if (tget (s.clear cid).peers p).any s.drawMismatch then t.mismatch cid o else t
  | none => s

/-- SEND_TRANSFER_START (R185): once the matching consumer has issued; earlier sends of the pairing go first. A consumer on
another module is not visible here: its readiness is the event itself. Of a recv or red it is the start of a transfer from another
module. -/
def execSendTransferStart (cid op : Nat) (s : State) : Result :=
  let c := s.clear cid
  match s.findChunk cid op with
  | none => .next s
  | some o =>
    match o.kind with
    | .send p ch nth =>
      let earlier := c.ops.any fun q => decide (q.id < op) && !q.started && (match q.kind with
        | .send p2 ch2 _ => p2 == p && ch2 == ch
        | _ => false)
      if o.started || earlier || s.chunkWaits cid o o.src then .next s
      else
        (match tget c.peers p with
         | none => .next s
         | some to_ =>
           match cidOf to_ with
           | none =>
             let t : State := { s with free := s.free + 1 }
             .next (if s.drawMismatch to_ then t.mismatch cid o else t.startSend cid o to_ ch nth)
           | some b =>
             match (s.clear b).consumer (endpointOf cid) ch nth with
             | none => .next s
             | some (q, _) =>
               if (s.clear b).chunk = c.chunk then .next (s.startSend cid o to_ ch nth)
               else .next ((((s.dropChunk cid op).dropChunk b q.id).clearFault cid 0x07 o.pc).clearFault b 0x07 q.pc))
    | .recv p _ _ => .next (s.startRecv cid o [p])
    | .red shares _ _ => .next (s.startRecv cid o (shares.map (·.1)))
    | .copy => .next s

/-- Little-endian words of bytes. -/
def bytesWords : Nat → List Byte → List Word
  | 0, _ => []
  | n + 1, b => BitVec.ofNat 32 (numOf (b.take 4)) :: bytesWords n (b.drop 4)

/-- One element of a red (R187). -/
def redElement (rop : Nat) (vs : List Word) : Word :=
  let fold (op : RedOp) (t : ElemTy) : Word :=
    match vs.map (redInput t false) with
    | [] => 0
    | v :: ws => ws.foldl (fun a b => (redNode op t .rne false a b).1) v
  if rop = 0 then (binnedSum false vs).1
  else if rop = 1 then fold .add .i32
  else if rop = 2 then fold .min .f32
  else if rop = 3 then fold .max .f32
  else if rop = 4 then fold .min .i32
  else if rop = 5 then fold .max .i32
  else if rop = 6 then fold .and .i32
  else fold .or .i32

/-- The bytes that a red writes, from its source and its shares. -/
def redBytes (rop chunk : Nat) (parts : List (List Byte)) : List Byte :=
  let ws := parts.map (bytesWords (chunk / 4))
  ((List.range (chunk / 4)).map fun e => bytesOf 4 (redElement rop (ws.map fun w => w.getD e 0)).toNat).flatten

/-- An operation whose chunks have all arrived writes its destination and completes (R187, R192, R193). A destination in a page of another
module is written when its WRITE flits leave (log entry 68). -/
def State.finishChunk (s : State) (cid : Nat) (o : ChunkOperation) : State :=
  let c := s.clear cid
  let src := o.src.map fun l => (s.readLoc l).getD 0
  if s.sourceBad o.src || o.dst.any s.locBad then s.chunkUe cid o
  else
    match o.kind with
    | .send _ _ _ => s
    | .copy => ((s.dramTouch o.src).writeClear cid o.dstVa o.dst src).dropChunk cid o.id
    | .recv p ch _ => ((s.writeClear cid o.dstVa o.dst (tgetD [] o.got p)).dropChunk cid o.id).chunksDone cid ch 1
    | .red shares ch rop =>
      (((s.dramTouch o.src).writeClear cid o.dstVa o.dst (redBytes rop c.chunk (src :: shares.map fun p => tgetD [] o.got p.1))).dropChunk cid o.id).chunksDone
        cid ch shares.length

/-- Whether every chunk of an operation has arrived. -/
def ChunkOperation.full (o : ChunkOperation) (chunk : Nat) : Bool :=
  match o.kind with
  | .send _ _ _ => false
  | .copy => true
  | .recv p _ _ => (tgetD [] o.got p).length == chunk
  | .red shares _ _ => shares.all fun p => (tgetD [] o.got p.1).length == chunk

/-- LOCAL_DATA_OPERATION_COMPLETE (R186, R187): a copy, or a recv or red whose chunks have all arrived, once neither its source nor its
destination makes it wait. -/
def execLocalDataOperationComplete (cid op : Nat) (s : State) : Result :=
  match s.findChunk cid op with
  | none => .next s
  | some o => if o.full (s.clear cid).chunk && !s.chunkWaits cid o (o.src ++ o.dst) then .next (s.finishChunk cid o) else .next s

/-! Flits (R349 to R351). -/

/-- The link between two contexts: the fabric lanes to the other module by its number, or the links of the package by a number
above every module's (log entry 32). -/
def linkOf (a b : Endpoint) : Option Nat :=
  if a.module ≠ b.module then some (if a.module = Config.here then b.module else a.module)
  else if a.die ≠ b.die then some (2048 + 4 * a.die + b.die)
  else none

/-- Whether a retrain holds the traffic between two contexts back (R391). -/
def State.linkDown (s : State) (a b : Endpoint) : Bool :=
  match linkOf a b with
  | some n => s.linksDown.contains n
  | none => false

/-- A flit taken off the links: one from this package must be the first of its class, sender and receiver; one from another
module comes from outside. None where the flit is not there to be received. -/
def State.takeFlit (s : State) (f : Flit) : Option State :=
  if s.linkDown f.src f.dst || !f.fits then none
  else if f.src.module ≠ Config.here then some s
  else if (s.flits.find? fun g => g.cls == f.cls && g.src == f.src && g.dst == f.dst) = some f then
    some { s with flits := s.flits.erase f }
  else none

/-- A flit of a kind received by a context of this package, if it is well formed (R349). -/
def receive (k : FlitKind) (f : Flit) (body : Nat → State → State) (s : State) : Result :=
  if f.kind ≠ k then .next s
  else
    match s.takeFlit f with
    | none => .next s
    | some t =>
      match cidOf f.dst with
      | some cid => if f.clean then .next (body cid t) else .next t
      | none => .next s

/-- DATA (R185, R349): a flit of a chunk joins its consumer; a whole chunk is acknowledged, and its operation completes once
every share has arrived and nothing makes it wait. A flit beyond the consumer's chunk size is a size mismatch (R185). -/
def execData (f : Flit) (s : State) : Result :=
  receive .data f (fun cid s =>
    let c := s.clear cid
    match c.consumer f.src f.ch f.chunk with
    | none => s
    | some (o, p) =>
      let bs := tgetD [] o.got p
      if c.chunk ≤ 256 * f.index then (s.dropChunk cid o.id).clearFault cid 0x07 o.pc
      else if bs.length ≠ 256 * f.index then s
      else
        let got := tset o.got p (bs ++ f.payload.take 256)
        let u : ChunkOperation := { o with got := got }
        let s0 := s.onChunk cid o.id fun _ => u
        let s1 := if c.closed.contains f.src then s0 else s0.takeSlot cid f.src f.dst f.ch
        let s2 := if (tgetD [] got p).length = c.chunk then s1.send [controlFlit .ack f.dst f.src f.ch] else s1
        if u.full c.chunk && !s.chunkWaits cid u (u.src ++ u.dst) then s2.finishChunk cid u else s2) s

/-- ACK (R185): the oldest started send of the pairing completes. -/
def execAck (f : Flit) (s : State) : Result :=
  receive .ack f (fun cid s =>
    let c := s.clear cid
    match c.ops.find? fun o => o.started && (match o.kind with
      | .send p ch _ => tget c.peers p == some f.src && ch == f.ch
      | _ => false) with
    | some o => s.dropChunk cid o.id
    | none => s) s

/-- WRITE (R351): a put of another module is performed, and acknowledged. -/
def execWrite (f : Flit) (s : State) : Result :=
  let l : Loc := .phys f.addr
  let n := f.payload.length
  if f.kind ≠ .write ∨ f.src.module = Config.here ∨ f.dst.module ≠ Config.here ∨ !f.clean ∨ !f.fits ∨ n = 0
      ∨ !physValid f.addr ∨ !physValid (f.addr + n - 1) ∨ s.linkDown f.src f.dst
      ∨ (l.span n).any s.mustWait then .next s
  else .next (((s.writeLocs ((l.span n).zip f.payload)).dramTouch (l.span n)).send [controlFlit .wack f.dst f.src 0])

/-- Whether a put's piece goes over a link that retrains: the fabric lanes to the module of its page (R351, R391). -/
def State.pieceHeld (s : State) (p : Option (Loc × List Byte)) : Bool :=
  match p with
  | some (.remote m _, _) => s.linksDown.contains m
  | _ => false

/-- WACK (R149, R351): a piece of a put is acknowledged; a piece of this package's memory is performed then, after what precedes it in
path order (R319). The put leaves cp with its last piece. -/
def execWack (op piece : Nat) (s : State) : Result :=
  match s.findOp op with
  | none => .next s
  | some o =>
    match o.kind with
    | .put ps left =>
      if !left.contains piece || s.pieceHeld ps[piece]? then .next s
      else
        let rest := left.filter (· != piece)
        let s1 : State := { s with ops := s.ops.map fun (q : Op) => if q.id == op then { q with kind := .put ps rest } else q }
        let spans := match ps[piece]? with | some p => (p.1.span p.2.length).zip p.2 | none => []
        if (spans.any fun x => s.mustWait x.1) || !s.mayPerform { o with kind := .put ps[piece]?.toList [] } then .next s
        else
          let s2 := (s1.writeLocs spans).dramTouch (spans.map (·.1))
          if rest.isEmpty then .next ((s2.performed o.watch).finishOp op) else .next s2
    | _ => .next s

/-- A PAUSE, RESUME or CLOSE received by a context, loaded or not: one of this package must have sent it. -/
def control (k : FlitKind) (dst src : Nat) (body : Endpoint → State → State) (s : State) : Result :=
  let from_ := endpointNumbered src
  if 64 ≤ dst then .next s
  else .next (((s.takeFlit (controlFlit k from_ (endpointOf dst) 0)).map (body from_)).getD s)

/-- PAUSE (R353): the timer stops and keeps its value. -/
def execPause (dst src : Nat) (s : State) : Result :=
  control .pause dst src (fun e t => t.onClear dst fun c =>
    { c.timed s.clk with pausedBy := if c.pausedBy.contains e then c.pausedBy else c.pausedBy ++ [e] }) s

/-- The end of a peer's pause: the timer of a held program continues from its value once no peer is paused. -/
def Clear.unpaused (c : Clear) (e : Endpoint) (clk : Nat) : Clear :=
  let ps := c.pausedBy.filter (· != e)
  { c with
    pausedBy := ps,
    timerFrom := if !(c.peers.any fun p => ps.contains p.2) && c.st == .running && c.timer != 0 && c.timerFrom.isNone then some clk
      else c.timerFrom }

/-- RESUME (R353). -/
def execResume (dst src : Nat) (s : State) : Result :=
  control .resume dst src (fun e t => t.onClear dst fun c => c.unpaused e s.clk) s

/-- CLOSE (R352, R353): it ends the sender's pause, and the sender's pairings with the context give their switch slots back. -/
def execClose (dst src : Nat) (s : State) : Result :=
  control .close dst src (fun e t =>
    let here := endpointOf dst
    let t1 := t.onClear dst fun c => { c.unpaused e s.clk with closed := if c.closed.contains e then c.closed else c.closed ++ [e] }
    { t1 with slots := t1.slots.filter fun p => !((p.1 == e && p.2.1 == here) || (p.1 == here && p.2.1 == e)) }) s

/-- FLIT_CRC_RETRANSMIT (R349): the link sends the flit again; nothing changes. -/
def execFlitCrcRetransmit (_f : Flit) (s : State) : Result := .next s

/-- RESERVED_TYPE_FLIT (R349): a flit of a reserved type, or with reserved bits set, is discarded. -/
def execReservedTypeFlit (f : Flit) (s : State) : Result :=
  if f.kind = .reserved ∨ !f.clean then .next ((s.takeFlit f).getD s) else .next s

/-! Parking, timeouts and control (R194, R195, R346 to R348). -/

/-- The operands that a data instruction reaches: reads and writes. -/
def chunkOperands : ChunkOp → List (Bool × BitVec 4 × BitVec 4 × Bool)
  | .send _ b d _ => [(false, b, d, false)]
  | .recv _ b d _ => [(true, b, d, false)]
  | .redAddF32 _ b d b2 d2 _ | .redAddI32 _ b d b2 d2 _ | .redMinF32 _ b d b2 d2 _ | .redMaxF32 _ b d b2 d2 _
  | .redMinI32 _ b d b2 d2 _ | .redMaxI32 _ b d b2 d2 _ | .redAndB32 _ b d b2 d2 _ | .redOrB32 _ b d b2 d2 _
  | .drafelCopy b d b2 d2 => [(false, b2, d2, false), (true, b, d, false)]
  | .waitGe b d _ => [(false, b, d, true)]
  | .sig b d _ => [(true, b, d, true)]
  | .waitOps _ | .loop _ _ | .kick _ _ _ _ _ | .setd _ _ | .addd _ _ _ | .brd _ _ _ | .drafelHalt | .drafelNop => []

/-- Whether the next instruction of a program needs a page that is not present. -/
def State.needsPage (s : State) (c : Clear) : Bool :=
  match c.program[c.pc]? with
  | none => false
  | some w =>
    match decodeChunk w.toNat with
    | .error _ => false
    | .ok op =>
      (chunkOperands op).any fun x =>
        if x.2.2.2 then
          (match c.signalAddr x.2.1 x.2.2.1 with
           | some a => s.reachClear c x.1 a == .absent
           | none => false)
        else s.operandSpan c x.1 (some (x.2.1, x.2.2.1)) == .absent

/-- PROGRAM_UNPARK (R195, R353). -/
def execProgramUnpark (cid : Nat) (s : State) : Result :=
  let c := s.clear cid
  if c.st ≠ .parked ∨ s.needsPage c then .next s
  else .next ((s.onClear cid fun c => { c with st := .running }).tellPeers cid .resume)

/-- The reference cc at which a context's timer, running since `t`, reaches its timeout. -/
def Clear.limitAt (c : Clear) (t : Nat) : Nat := t + (c.tmo * 65536 - c.timer)

/-- COLLECTIVE_TIMEOUT (R194): after the uncore cycle of the die in which the timer reaches the timeout, since a PAUSE that arrives in
that cycle is applied first (R353; log entry 121). -/
def execCollectiveTimeout (cid : Nat) (s : State) : Result :=
  let c := s.clear cid
  let uncore := s.island (32 + cid / 16)
  match c.timerFrom with
  | some t =>
    if c.st = .running ∧ c.tmo ≠ 0 ∧ !c.paused ∧ c.limitAt t ≤ s.clk ∧ uncore.count (c.limitAt t) < uncore.count s.clk then
      .next (s.clearFault cid 0x05 c.pc)
    else .next s
  | none => .next s

/-- An `n`-byte field of a descriptor. -/
def descNum (d : List Byte) (off n : Nat) : Nat := numOf ((d.drop off).take n)

/-- Whether a descriptor breaks a rule of R346 or R347 for a context. -/
def descBad (cid : Nat) (d : List Byte) : Bool :=
  let w8 := descNum d 0x08 8
  fld (descNum d 0 8) 49 15 != 0 || descNum d 0 8 % 4 != 0 || fld w8 26 38 != 0 || fld w8 20 4 != 0
    || decide (12 < fld w8 16 4) || fld w8 0 16 == 0 || decide (4096 < fld w8 0 16)
    || descNum d 0x14 12 != 0 || descNum d 0x1E0 32 != 0
    || (List.range 16).any (fun b =>
        let x := descNum d (0x20 + 16 * b) 8
        let y := descNum d (0x28 + 16 * b) 8
        fld x 49 14 != 0 || fld x 0 49 % 128 != 0 || fld y 32 32 != 0 || y % 8 != 0)
    || (List.range 16).any fun p =>
        let x := descNum d (0x120 + 8 * p) 8
        fld x 26 36 != 0 || fld x 6 10 != 0 || (fld x 62 1 == 0 && fld x 16 10 != 0)
          || (fld x 63 1 == 1 && fld x 62 1 == 0 && fld x 0 6 == cid)

/-- A context as its descriptor and image load it (R346, R347). -/
def Clear.loaded (c : Clear) (root : Nat) (d : List Byte) (image : List Word) : Clear :=
  let w8 := descNum d 0x08 8
  { c with
    st := .running, cause := 0, pc := 0, statPc := 0, program := image, chunk := 256 * 2 ^ fld w8 16 4, cls := fld w8 24 2,
    tmo := descNum d 0x10 4, timer := 0, timerFrom := none, counters := [], ops := [], closed := [], sent := [], used := [],
    root := root,
    d := (List.range 16).map fun n => (n, BitVec.ofNat 32 (descNum d (0x1A0 + 4 * n) 4)),
    buffers := (List.range 16).map fun b =>
      let x := descNum d (0x20 + 16 * b) 8
      (b, ⟨fld x 63 1 == 1, fld x 0 49, descNum d (0x28 + 16 * b) 4⟩),
    peers := (List.range 16).filterMap fun p =>
      let x := descNum d (0x120 + 8 * p) 8
      if fld x 63 1 = 1 then
        some (p, ⟨if fld x 62 1 = 1 then fld x 16 10 else Config.here, fld x 4 2, fld x 0 4⟩)
      else none }

/-- Words read by the device from an address, by an event that has found that it need not wait. -/
def State.devWords (s : State) (a : Nat) : Nat → Option (List Word)
  | 0 => some []
  | n + 1 =>
    match s.devRead a 4, s.devWords (a + 4) n with
    | .ok v, some ws => some (BitVec.ofNat 32 v :: ws)
    | _, _ => none

/-- CLCTL_LOAD (R347): the load waits while a page that it reads is moving or a line is owned (R335, R340). -/
def execClctlLoad (cid : Nat) (s : State) : Result :=
  let c := s.clear cid
  let fail (s : State) : State :=
    (s.setClear cid { c with st := .faulted, irq := true, cause := 0x0A, statPc := 0 }).interrupt (.clearing cid)
  if 64 ≤ cid ∨ c.st = .running ∨ c.st = .parked then .next s
  else if s.devWaits false c.desc 512 then .next s
  else
    match s.devLines c.desc 4 with
    | none => .next (fail s)
    | some d =>
      if descBad cid d then .next (fail s)
      else if s.devWaits false (descNum d 0 8) (4 * fld (descNum d 0x08 8) 0 16) then .next s
      else
        match s.devWords (descNum d 0 8) (fld (descNum d 0x08 8) 0 16) with
        | none => .next (fail s)
        | some image => .next (s.setClear cid (c.loaded s.dev.ptroot d image))

/-- CLCTL_STOP (R348). -/
def execClctlStop (cid : Nat) (s : State) : Result :=
  let c := s.clear cid
  if c.st = .running ∨ c.st = .parked then
    .next (s.endProgram cid fun c => { c with st := .stopped, counters := [], timer := 0, timerFrom := none })
  else .next s

/-- CLSTAT_IRQ_CLEAR (R347). -/
def execClstatIrqClear (cid : Nat) (s : State) : Result := .next (s.onClear cid fun c => { c with irq := false })

end Sys2Proof.Machine
end

