-- ==== Sys2Proof/Machine/Device.lean ====
section
/-! DEFINITION. Writes to control registers, translation caches and page migration (R8, R58, R263, R278, R281, R303, R306, R336 to
R340, R346, R347, R367, R368, R371, R372, R375, R376, R379, R387, R394). -/

namespace Sys2Proof.Machine

/-! Registers without behaviour of their own (R8). -/

/-- The value after a register's writable bits are written: bits `lo` to `lo + n - 1`, the rest zero. -/
def bitsAt (v lo n : Nat) : Nat := fld v lo n * 2 ^ lo

/-- A write to the device control page. -/
def writeDevice (d : Device) (off v : Nat) : Device :=
  if off = 0x310 then { d with tqbase := bitsAt v 0 49 }
  else if off = 0x318 then { d with tqEn := fld v 31 1 == 1, tqLseg := fld v 0 5 }
  else if off = 0x320 then { d with fgbase := bitsAt v 0 49 }
  else if off = 0x358 then { d with hotbase := bitsAt v 0 52 }
  else if off = 0x360 then { d with rmapbase := bitsAt v 0 52 }
  else if off = 0x368 then { d with migEn := fld v 31 1 == 1, migUp := fld v 16 8, migDn := fld v 8 8, migRate := fld v 0 8 }
  else if off = 0x370 then { d with poolh := bitsAt v 0 52 }
  else if off = 0x378 then { d with pooll := bitsAt v 0 52 }
  else if off = 0x390 then { d with tvec := bitsAt v 2 47 }
  else if off = 0xC00 then { d with dumpadr := bitsAt v 0 49 }
  else if off = 0xC08 then { d with dumplen := v }
  else if off = 0xD00 then { d with rasEn := fld v 31 1 == 1, rasIrq := fld v 30 1 == 1 }
  else if off = 0xD08 then { d with raslog := bitsAt v 0 49 }
  else if off = 0xF90 then { d with attadr := v }
  else d

/-- CLDESC, and the hie field of CLCTL, of the clearing contexts (R347). -/
def writeClearing (c : Clear) (off v : Nat) : Clear :=
  if off % 16 = 0 then { c with desc := bitsAt v 0 49 } else if off % 16 = 8 then { c with hie := fld v 29 1 == 1 } else c

/-- A write to a core's control page. NEVCTL's frz also stops the window timers (R58). -/
def writeCore (k : Core) (clk off v : Nat) : Core :=
  if off = 0x400 then
    let frz := fld v 0 1 == 1
    let start := if frz = k.nevFrz then k.nevStart else k.nevStart.map fun (x : Nat × Nat) => (x.1, clk - x.2)
    { k with nevAct := BitVec.ofNat 8 (fld v 16 8), nevEn := BitVec.ofNat 8 (fld v 8 8), nevFrz := frz, nevStart := start }
  else if 0x440 ≤ off ∧ off < 0x460 ∧ off % 4 = 0 then { k with nevCnt := tset k.nevCnt ((off - 0x440) / 4) (BitVec.ofNat 32 v) }
  else if 0x480 ≤ off ∧ off < 0x4A0 ∧ off % 4 = 0 then { k with nevThr := tset k.nevThr ((off - 0x480) / 4) (BitVec.ofNat 32 v) }
  else if off = 0x500 then { k with wlim := BitVec.ofNat 32 v }
  else if off = 0x808 then { k with smpBase := bitsAt v 0 49 }
  else if off = 0x818 then { k with smpRp := v }
  else if off = 0x908 then { k with trBase := bitsAt v 0 49 }
  else k

/-- A write to a cluster's control page: DBGCTL's path, watchpoints and breakpoints. -/
def writeCluster (k : Cluster) (off : Nat) (v : DWord) : Cluster :=
  if off = 0x9040 then { k with dbgPath := v.extractLsb' 0 9 }
  else if 0x9100 ≤ off ∧ off < 0x9200 then
    let n := (off - 0x9100) / 32
    let w := tgetD Watchpoint.reset k.watch n
    if off % 32 = 0 then { k with watch := tset k.watch n { w with adr := v } }
    else if off % 32 = 8 then { k with watch := tset k.watch n { w with ctl := v.extractLsb' 0 32 &&& 0xFFC000FF#32 } }
    else k
  else if 0x9200 ≤ off ∧ off < 0x9280 then
    let n := (off - 0x9200) / 16
    let b := tgetD Breakpoint.reset k.breaks n
    if off % 16 = 0 then { k with breaks := tset k.breaks n { b with adr := bitsAt v.toNat 2 47 } }
    else if off % 16 = 8 then { k with breaks := tset k.breaks n { b with en := v.getLsbD 31, stp := v.getLsbD 30 } }
    else k
  else k

/-- REGISTER_WRITE (R8): of a whole register, whose offset is its lowest (log entry 132). A register that has
behaviour of its own is written by its own event. A write to NEVCTL asserts or drops the core's interrupt as act now says (R59); the
halvings due before a write to HOTBASE concern the old table (R339). -/
def execRegisterWrite (page : CtlPage) (index off : Nat) (value : DWord) (s : State) : Result :=
  match page with
  | .dev =>
    if 0x800 ≤ off ∧ off < 0xC00 then
      .next (s.onClear ((off - 0x800) / 16) fun c => writeClearing c off value.toNat)
    else
      let t := if off = 0x358 then s.halveHot else s
      .next { t with dev := writeDevice t.dev off value.toNat }
  | .core =>
    let k := writeCore (s.core index) s.clk off value.toNat
    if Config.cores ≤ index then .next s else if off = 0x400 then .next (s.setNumeric index k) else .next (s.setCore index k)
  | .cluster => if index < Config.clusters then .next (s.setCluster index (writeCluster (s.cluster index) off value)) else .next s

/-! Translation caches (R336, R338). -/

/-- An entry taken into a cache of a size; the oldest goes where it is full (log entry 8). -/
def cacheIn {α : Type} (size : Nat) (l : List α) (x : α) : List α := (l ++ [x]).drop (l.length + 1 - size)

/-- TRANSLATION_WALK (R336): a translation reaches a core's TLB from its cluster's TLB, or from a walk that finds a leaf, whose reads count
(R339; log entry 29). -/
def execTranslationWalk (core va : Nat) (s : State) : Result :=
  if Config.cores ≤ core ∨ 2 ^ 49 ≤ va ∨ (s.core core).tlb.any (·.hits va) then .next s
  else
    let cl := clusterOf core
    let take (s : State) (t : TlbEntry) : State := s.setCore core { s.core core with tlb := cacheIn Config.coreTlb (s.core core).tlb t }
    match (s.cluster cl).tlb.find? (·.hits va) with
    | some t => .next (take s t)
    | none =>
      let cache := tgetD [] s.walks (dieOf core)
      match s.walkFrom s.dev.ptroot cache va with
      | .leaf e _ big =>
        let t : TlbEntry := ⟨big, if big then va / 2 ^ 21 else va / 2 ^ 16, BitVec.ofNat 64 e⟩
        let new := (s.walkPointers s.dev.ptroot cache va).filter fun w => !cache.any fun x => x.level == w.level && x.index == w.index
        let s1 : State := { s with walks := tset s.walks (dieOf core) (new.foldl (cacheIn Config.walkCache) cache) }
        .next ((take (s1.setCluster cl { s1.cluster cl with tlb := cacheIn Config.clusterTlb (s1.cluster cl).tlb t }) t).dramTouch
          ((s.walkReads s.dev.ptroot cache va).map .phys))
      | .absent | .bad | .busy => .next s

/-- Every TLB of the package filtered. -/
def State.filterTlbs (s : State) (keep : TlbEntry → Bool) : State :=
  { s with
    cores := s.cores.map fun (k : Nat × Core) => (k.1, { k.2 with tlb := k.2.tlb.filter keep }),
    clusters := s.clusters.map fun (k : Nat × Cluster) => (k.1, { k.2 with tlb := k.2.tlb.filter keep }) }

/-- Every walk cache filtered. -/
def State.filterWalks (s : State) (keep : WalkEntry → Bool) : State :=
  { s with walks := s.walks.map fun (w : Nat × List WalkEntry) => (w.1, w.2.filter keep) }

/-- An invalidation begins: busy is set, and clears once the operations issued so far are performed. -/
def State.tlbBegin (s : State) : State := { s with dev := { s.dev with tlbBusy := true, tlbMark := s.nextOp } }

/-- PTROOT_WRITE (R337, R338). -/
def execPtrootWrite (value : DWord) (s : State) : Result :=
  let s1 : State := { s with dev := { s.dev with ptroot := bitsAt value.toNat 13 39 } }
  .next (((s1.filterTlbs fun _ => false).filterWalks fun _ => false).tlbBegin)

/-- Whether a walk-cache entry lies on the walk of an address. -/
def WalkEntry.covers (w : WalkEntry) (va : Nat) : Bool :=
  w.index == (if w.level = 3 then fld va 39 10 else if w.level = 2 then fld va 30 19 else fld va 21 28)

/-- TLBINV_WRITE (R337, R338). -/
def execTlbinvWrite (value : DWord) (s : State) : Result :=
  let all := value.getLsbD 63
  let va := bitsAt value.toNat 16 33
  let big := value.getLsbD 0
  let s1 : State := { s with dev := { s.dev with tlbinv := value &&& 0x8001FFFFFFFF0001#64 } }
  .next (((s1.filterTlbs fun t => !(all || (t.big == big && t.hits va))).filterWalks fun w => !(all || w.covers va)).tlbBegin)

/-- The stores that paths hold back: in their regions, their helper lanes and their own iterations (R80, R83). -/
def State.heldStores (s : State) : List (Nat × List (Loc × Byte)) :=
  let of (hs : List Held) : List (Nat × List (Loc × Byte)) :=
    hs.filterMap fun h => match h with | .store n cs _ => some (n, cs) | .repay _ _ => none
  (s.run.paths.map fun e =>
      (match e.2.region with | some r => r.stores.map fun x => (x.id, x.cells) | none => [])
        ++ (match e.2.loan with | some l => of l.held | none => [])).flatten
    ++ (s.run.helpers.map fun h => (h.2.held.map fun l => of l.2).flatten).flatten

/-- TLB_INVALIDATE_DONE (R338): nothing that issued before the invalidation, a store that is still held or a clearing engine's operation
among it, remains unperformed. -/
def execTlbInvalidateDone (s : State) : Result :=
  if s.dev.tlbBusy ∧ !(s.ops.any fun o => !o.done && decide (o.id < s.dev.tlbMark))
      ∧ !(s.heldStores.any fun x => decide (x.1 < s.dev.tlbMark))
      ∧ !(s.clears.any fun c => c.2.ops.any fun o => decide (o.stamp < s.dev.tlbMark)) then
    .next { s with dev := { s.dev with tlbBusy := false } }
  else .next s

/-! Hotness (R339). -/

/-- HOTNESS_HALVING (R339): once every ms, 3,600,000 cc. -/
def execHotnessHalving (s : State) : Result := .next s.halveHot

/-- A frame's hotness byte as a scan reads it, after the halving that is due; no table is kept while HOTBASE is 0 (log entry 29). -/
def State.hotness (s : State) (frame : Nat) : Nat := if s.dev.hotbase = 0 then 0 else s.physRead (s.hotAddr frame) 1

/-! Migration (R340, R386). -/

/-- The address of a frame's word in the reverse map. -/
def State.rmapAddr (s : State) (frame : Nat) : Nat := s.dev.rmapbase + 8 * (frame / 65536)

/-- The address of the leaf entry that maps a frame, or 0. -/
def State.rmapOf (s : State) (frame : Nat) : Nat := s.physRead (s.rmapAddr frame) 8

/-- Frames whose reverse-map words are not zero, in ascending order. -/
def State.mappedFrames (s : State) : List Nat :=
  ((s.mem.filter fun c => decide (s.dev.rmapbase ≤ c.1) && decide (c.1 < s.dev.rmapbase + 2 ^ 39)).map fun c =>
    (c.1 - s.dev.rmapbase) / 8 * 65536).eraseDups

/-- Whether a place lies in a frame. -/
def Loc.inFrame (l : Loc) (frame : Nat) : Bool :=
  match l with
  | .phys a => a / 65536 * 65536 == frame
  | .comp f _ => f == frame
  | .sram _ _ | .remote _ _ | .bdeck _ => false

/-- Whether a frame lies in a core's enabled trace ring, writable or not (R383). -/
def State.traced (s : State) (frame : Nat) : Bool :=
  s.cores.any fun k => k.2.trEn && (List.range (2 ^ k.2.trLsz)).any fun i =>
    match s.reach k.1 ⟨true, false, false⟩ (k.2.trBase + 65536 * i) with
    | .at_ l => l.inFrame frame
    | .fault _ | .absent | .wait => false

/-- Entries that a free-frame pool holds. -/
def State.poolUsed (s : State) (desc : Nat) : Nat :=
  match s.readRing reachPhys false desc with
  | .ok d => d.used
  | _ => 0

/-- Whether a frame is HBM4E or LPDDR-6 memory (R332). -/
def isHbm (frame : Nat) : Bool := decide (frame < 0x8000000000)
def isLpddr (frame : Nat) : Bool := decide (0x20000000000 ≤ frame) && decide (frame < 0x40000000000)

/-- The pool of a tier. -/
def State.poolOf (s : State) (hbm : Bool) : Nat := if hbm then s.dev.poolh else s.dev.pooll

/-- The roots of the page tables in use: the running context's, those of saved contexts and those of clearing contexts. -/
def State.roots (s : State) : List Nat :=
  (s.dev.ptroot :: ((s.saved.map (·.root)) ++ s.clears.map fun c => c.2.root)).eraseDups

/-- The tables that the pointer entries of a table name. -/
def State.tablesUnder (s : State) (table entries align : Nat) : List Nat :=
  (List.range entries).filterMap fun i =>
    let e := s.pteAt (table + 8 * i)
    if pointerOk e align then some (tableOf e) else none

/-- Whether an entry lies in a level-1 table, where a leaf is a 2 MiB page (R333). -/
def State.atLevel1 (s : State) (a : Nat) : Bool :=
  s.roots.any fun root => (s.tablesUnder root 1024 12).any fun t2 => (s.tablesUnder t2 512 12).any fun t1 =>
    decide (t1 ≤ a) && decide (a < t1 + 4096)

/-- Where a frame would move: to HBM4E or not; none where it does not move. Its entry is a 64 KiB leaf (R340). -/
def State.moveTo (s : State) (frame : Nat) : Option Bool :=
  let a := s.rmapOf frame
  let e := s.pteAt a
  let hot := s.hotness frame
  if a = 0 ∨ !physValid a ∨ fld e 0 1 = 0 ∨ fld e 63 1 = 0 ∨ fld e 6 2 ≠ 0 ∨ fld e 3 2 ≠ 0 ∨ fld e 8 44 * 256 ≠ frame ∨ s.traced frame
      ∨ (frame % 2 ^ 21 = 0 ∧ s.atLevel1 a) then none
  else if s.ras.retired.contains frame then some (isHbm frame)
  else if isLpddr frame && decide (s.dev.migUp ≤ hot) then some true
  else if isHbm frame && decide (hot ≤ s.dev.migDn) && decide (s.poolUsed s.dev.poolh < 64) then some false
  else none

/-- The next frame to move from where the scan stopped, in ascending order. -/
def State.nextMove (s : State) : Option (Nat × Bool) :=
  let fs := s.mappedFrames
  ((fs.filter fun f => decide (s.scanAt ≤ f)) ++ fs.filter fun f => decide (f < s.scanAt)).findSome? fun f =>
    (s.moveTo f).map fun h => (f, h)

/-- Bit `mg` of an entry set. -/
def pteMoving (e : Nat) : Nat := e ||| 128

/-- The moves that began within the last ms, 3,600,000 cc (R337). -/
def State.movesInMs (s : State) : List Nat := s.dev.migTimes.filter fun t => decide (s.clk < t + 3600000)

/-- Whether another move may begin now: MIGCTL rate bounds the moves of one ms (R337). -/
def State.migrationMay (s : State) : Bool := s.dev.migRate == 0 || decide (s.movesInMs.length < s.dev.migRate)

/-- Whether a frame popped from a tier's pool is a frame of that tier (R332; log entry 116). -/
def frameOf (toHbm : Bool) (frame : Nat) : Bool := frame % 65536 == 0 && if toHbm then isHbm frame else isLpddr frame

/-- MIGRATION_START (R340): steps 1 and 2. A popped entry that is no frame of its tier is discarded and the move skipped. -/
def execMigrationStart (s : State) : Result :=
  let s := s.halveHot
  if !s.dev.migEn || s.move.isSome || !s.migrationMay then .next s
  else
    match s.nextMove with
    | none => .next s
    | some (frame, toHbm) =>
      let s0 : State := { s with scanAt := frame + 65536 }
      let a := s.rmapOf frame
      if s.mustWait (.phys a) then .next s
      else
        match s.ringPop reachPhys none (s.poolOf toHbm) with
        | .done t e =>
          let new := numOf (e.take 8)
          if !frameOf toHbm new then .next { t with scanAt := frame + 65536 }
          else
            let t1 := t.physWrite a 8 (pteMoving (t.pteAt a))
            let t2 : State := { t1 with
              scanAt := frame + 65536, dev := { t1.dev with migTimes := s.movesInMs ++ [s.clk] }, move := some ⟨a, frame, new, false⟩ }
            .next (t2.filterTlbs fun x => x.big || fld x.pte.toNat 8 44 * 256 != frame)
        | .wait _ => .next s
        | .no | .fault _ _ | .bad => .next s0

/-- Whether an operation in flight may still reach a frame, through memory or as an engine's source or destination, or a store that is
held back. -/
def State.frameBusy (s : State) (frame : Nat) : Bool :=
  (s.ops.any fun o => !o.done && (o.kind.touches.any (·.inFrame frame)
      || o.kind.pairs.any fun p => p.1.inFrame frame || p.2.inFrame frame))
    || (s.heldStores.any fun x => x.2.any fun c => c.1.inFrame frame)
    || s.clears.any fun c => c.2.ops.any fun o => o.src.any (·.inFrame frame) || o.dst.any (·.inFrame frame)

/-- The places of a frame, one a line. -/
def frameLines (frame : Nat) : List Loc := (List.range 512).map fun i => .phys (frame + 128 * i)

/-- MIGRATION_COPY (R340): steps 3 and 4. The lines read and written count before the hotness byte is copied (R339). -/
def execMigrationCopy (s : State) : Result :=
  match s.move with
  | none => .next s
  | some mv =>
    if mv.copied || s.frameBusy mv.old then .next s
    else
      let s := s.halveHot
      let s0 : State := { s with mem := Memory.write s.mem mv.new (Memory.bytes s.mem mv.old 65536) }
      let s1 := s0.dramTouch (frameLines mv.old ++ frameLines mv.new)
      let s2 := if s.dev.hotbase = 0 then s1 else s1.physWrite (s.hotAddr mv.new) 1 (s1.hotness mv.old)
      let s3 := (s2.physWrite (s.rmapAddr mv.new) 8 mv.pte).physWrite (s.rmapAddr mv.old) 8 0
      let stays := s.ras.bad.filter fun g => !(decide (mv.new / 8 ≤ g) && decide (g < mv.new / 8 + 8192))
      let moved := (s.ras.bad.filter fun g => decide (mv.old / 8 ≤ g) && decide (g < mv.old / 8 + 8192)).map fun g =>
        g - mv.old / 8 + mv.new / 8
      .next { s3 with move := some { mv with copied := true }, ras := { s3.ras with bad := stays ++ moved } }

/-- MIGRATION_FINISH (R340, R386): step 5. A retired frame goes back to no pool. Log entries that waited for the page are written. -/
def execMigrationFinish (s : State) : Result :=
  match s.move with
  | none => .next s
  | some mv =>
    if !mv.copied then .next s
    else
      let s0 := s.physWrite mv.pte 8 (pteMoved (s.pteAt mv.pte) mv.new)
      let s1 : State := { s0 with move := none, dev := { s0.dev with migstat := s0.dev.migstat + 1 } }
      if s.ras.retired.contains mv.old then .next (s1.writeLog s1.ras.log)
      else
        match s1.ringPush reachPhys none (s.poolOf (isHbm mv.old)) (bytesOf 32 mv.old) with
        | .done t _ => .next (t.writeLog t.ras.log)
        | .wait _ => .next s
        | .no | .fault _ _ | .bad => .next (s1.writeLog s1.ras.log)

/-- MIGSTAT_READ (R337). -/
def execMigstatRead (s : State) : Result :=
  .next { s with hostData := bytesOf 4 (s.dev.migstat % 2 ^ 32), dev := { s.dev with migstat := 0 } }

end Sys2Proof.Machine
end

