-- ==== Sys2Proof/Machine/Paths.lean ====
section
/-! DEFINITION. Hint words, words that are not instructions, and the events of paths: deferred traps, ages, deadlock, forced
merges, sleep, stall and the wait limit (R11, R18 to R24, R89, R198, R211, R212, R221, R302, R306, R307). -/

namespace Sys2Proof.Machine

/-! The turn of a path. -/

/-- What a path does at its turn if it may issue: the trap that is due at its boundary, else what follows (R307). -/
def pathTurn (k : Nat → Path → State → State) (s : State) : Result :=
  match s.cur with
  | .path pid =>
    match s.path pid with
    | none => .next s
    | some p =>
      if !s.mayIssue pid p then .next s
      else if p.nextDue.isSome && (p.hints.isEmpty || p.st == .waiting) then .next (s.takeDue pid)
      else .next (k pid p s)
  | .idle | .stream _ | .clearing _ => .next s

/-! Hint words (R18, R24). -/

/-- Whether an address is the rejoin of a path's innermost token. -/
def State.atRejoin (s : State) (pid : Nat) (p : Path) (pc : Nat) : Bool :=
  match s.innermost pid p with
  | some x => x.rejoin == pc
  | none => false

/-- A hint word taken into the path's bundle. A path that reaches the rejoin of its innermost token, be it one of split, with hint
words pending raises 0x01, with the first of them in sr.eaux (R24, R206). -/
def State.takeHint (s : State) (pid : Nat) (p : Path) (w : Word) : State :=
  let hs := p.hints ++ [⟨p.pc, w⟩]
  let pc := (p.pc + 4) % 2 ^ 49
  let s1 := (s.setPath pid { p with hints := hs, pc := pc, readyAt := s.icc (coreOf pid) + 1, st := .ready, wait := .none }).issued pid
  if s.atRejoin pid p pc then
    match hs with
    | h :: _ => (s1.takeTrap pid 0x01 h.addr (h.word.zeroExtend 64) none).unstep pid
    | [] => s1
  else s1

/-- PFX (R18, R20). -/
def execPfx (i : BitVec 24) (s : State) : Result :=
  pathTurn (fun pid p s => s.takeHint pid p (BitVec.ofNat 32 (encodeWord (.pfx i)))) s

/-- MOD (R18, R21). -/
def execMod (m : ModFields) (s : State) : Result :=
  pathTurn (fun pid p s => s.takeHint pid p (BitVec.ofNat 32 (encodeWord (.mod m)))) s

/-- SCH (R18, R23). -/
def execSch (y : Bool) (u : BitVec 3) (n : BitVec 4) (s : State) : Result :=
  pathTurn (fun pid p s => s.takeHint pid p (BitVec.ofNat 32 (encodeWord (.sch y u n)))) s

/-! Words that are not instructions (R11, R19, R302). -/

/-- The bits of a word that name its row once its major opcode is known: its minor code (R26 to R30). -/
def minorBits (w : Nat) : Nat :=
  match fld w 26 6 with
  | 0x01 => if fld w 0 5 = 0x14 then 0xFFF else 0x1F
  | 0x02 => 0x7C000
  | 0x04 => 0x60000
  | 0x05 | 0x0B | 0x27 | 0x2E => 0x2000000
  | 0x06 | 0x08 => 0x3800000
  | 0x07 | 0x0A | 0x25 | 0x26 | 0x29 | 0x2A => 0x3000000
  | 0x09 => 0x3C00000
  | 0x11 => 0xF00
  | 0x10 | 0x12 | 0x13 | 0x14 | 0x15 | 0x19 | 0x2B | 0x2C | 0x2D => 0x1F
  | 0x16 => if 4 ≤ fld w 0 5 ∧ fld w 0 5 ≤ 6 then 0xFFF else 0x1F
  | 0x17 => 0x1C
  | 0x18 => 0x3E00C00
  | 0x1A => 0x18
  | 0x22 => 0x1000
  | 0x23 | 0x24 => 0x1E
  | _ => 0

/-- The row whose major and minor codes a word has, if there is one, whatever its other fields hold (R19). -/
def listedTarget (w : Nat) : Option Instr :=
  match parseWave w with
  | some i => some i
  | none => parseWave (fld w 26 6 * 2 ^ 26 + (w &&& minorBits w))

/-- The word that 0x01 names when a bundle's target is not an instruction: the lowest defective one. A target with a listed row
keeps that row's pfx limit and mod fields; one without has none to break (R19). -/
def defectiveWord (hs : List HintWord) (w : Word) : Word :=
  let bad : Option HintWord := match listedTarget w.toNat with
    | some i => bundleDefect i.pfxLimit i.admitsMod hs 0 false false
    | none => bundleDefect hs.length (fun m => (m.vce || m.vc == 0) && m.pk != 3) hs 0 false false
  match bad with
  | some h => h.word
  | none => w

/-- NOT_AN_INSTRUCTION (R11): a word of the hint major stays in its bundle until the target (R19); a fetch fault in system mode
at sr.tvec stops the wave (R302). -/
def execNotAnInstruction (why : FetchReject) (s : State) : Result :=
  pathTurn (fun pid p s =>
    match why with
    | .word w =>
      if fld w.toNat 26 6 = 0x3F then s.takeHint pid p w
      else (s.takeTrap pid 0x01 p.bundleStart ((defectiveWord p.hints w).zeroExtend 64) none).unstep pid
    | .fetchFault cause addr =>
      let stops := !isHelper pid && p.sys && (match s.wave (pid / 4) with | some w => codeAddr w.tvec == p.pc | none => false)
      if stops then s.stopWave pid cause
      else (s.takeTrap pid cause p.bundleStart (BitVec.ofNat 64 addr) none).unstep pid) s

/-- DEFERRED_TRAP (R307). -/
def execDeferredTrap (s : State) : Result := pathTurn (fun _ _ s => s) s

/-! Choice of a path (R198, R221). -/

/-- The wave on whose pipe a path issues: its own, or its lender's (R292). -/
def State.issueWave (s : State) (pid : Nat) : Nat :=
  match s.helper pid with
  | some h => h.lender
  | none => pid / 4

/-- A path's priority class. -/
def State.pathClass (s : State) (pid : Nat) : Nat :=
  match (s.blockOf pid).bind s.launchOf with
  | some l => l.cls
  | none => 0

/-- The island cycle since which a path is ready; the time that it waits does not count (R221). -/
def State.readySince (s : State) (pid : Nat) (p : Path) : Nat := if p.st = .waiting then s.icc (coreOf pid) else p.readyAt

/-- A path's place in its pipe's choice: class, then the island cycle since which it is ready, wave slot, helper paths last, slot.
Paths of age 256 set class aside and go first. -/
def State.issueKey (s : State) (pid : Nat) (p : Path) : List Nat :=
  let since := s.readySince pid p
  let aged := decide (since + 256 ≤ s.icc (coreOf pid))
  [if aged then 0 else 1, if aged then 0 else s.pathClass pid, since, s.issueWave pid % 32, if isHelper pid then 1 else 0,
    if isHelper pid then pid - helperBase else pid % 4]

def keyBefore : List Nat → List Nat → Bool
  | a :: as, b :: bs => decide (a < b) || (a == b && keyBefore as bs)
  | _, _ => false

/-- The paths of a pipe that may issue, in the order of R198. -/
def State.pipePaths (s : State) (core pipe : Nat) : List (Nat × Path) :=
  sortBy (fun a b => !keyBefore (s.issueKey b.1 b.2) (s.issueKey a.1 a.2)) (s.run.paths.filter fun e =>
    coreOf e.1 == core && s.issueWave e.1 % 4 == pipe && s.mayIssue e.1 e.2 && decide (e.2.readyAt ≤ s.icc core))

/-- PATH_AGE_LIMIT (R221): a ready path of age 256 that comes first on its pipe takes the turn. -/
def execPathAgeLimit (pid : Nat) (s : State) : Result :=
  match s.path pid with
  | none => .next s
  | some p =>
    if p.st = .ready ∧ p.readyAt + 256 ≤ s.icc (coreOf pid)
        ∧ ((s.pipePaths (coreOf pid) (s.issueWave pid % 4)).find? fun e => e.2.st == .ready).map (·.1) = some pid then
      .next { s with cur := .path pid }
    else .next s

/-! Deadlock and forced merges (R211, R212). -/

/-- The token at which a parked path takes a trap, and the trap's level. -/
def Path.parkedAt (p : Path) : Option (Nat × Nat) := p.token.map fun t => (t, if p.sys then 2 else 1)

/-- REJOIN_DEADLOCK (R211): every live path has been parked at a rejoin for 64 cc, none of them held, and no token can complete. -/
def execRejoinDeadlock (wid : Nat) (s : State) : Result :=
  let ps := s.pathsOf wid
  match ps with
  | [] => .next s
  | (pid, p) :: _ =>
    if !(ps.all fun q => q.2.st == .parkedRejoin && !q.2.hold && decide (q.2.readyAt + 64 ≤ s.icc (coreOf pid)))
        || (s.tokensOf wid).any (s.completes wid) || !s.run.running || s.run.halted || s.clusterStopped (clusterOf (coreOf pid)) then .next s
    else
      let slots := ps.foldl (fun n q => n + 2 ^ (q.1 % 4)) 0
      .next ((s.setPath pid { p with parkedTrap := p.parkedAt }).takeTrap pid 0x0A p.pc
        (BitVec.ofNat 64 (slots + p.token.getD 0 * 256)) none)

/-- PATH_FORCE_MERGE (R212): fm written in a path's entry. The token is tested at once if the path is parked there, and otherwise when a
path next arrives. -/
def execPathForceMerge (pid : Nat) (s : State) : Result :=
  match s.path pid with
  | none => .next s
  | some p =>
    match s.innermost pid p with
    | none => .next s
    | some x =>
      if isHelper pid || !(p.st == .parkedRejoin || p.parkedTrap.map (·.1) == some x.id) then .next s
      else .next ((s.setTokens (pid / 4) (replaceToken (s.tokensOf (pid / 4)) { x with
        forced := true, awaits := p.st != .parkedRejoin && (x.awaits || !x.forced) })).completeTokens (pid / 4) 65)

/-! Sleep, stall and the wait limit (R23, R89, R306). -/

/-- SLEEP_EXPIRE (R89). A path whose next PC is a rejoin has arrived when its sleep issued (R206; log entry 114). -/
def execSleepExpire (pid : Nat) (s : State) : Result :=
  match s.path pid with
  | some p =>
    if 0 < p.sleep ∧ p.readyAt + p.sleep ≤ s.icc (coreOf pid) ∧ !p.hold ∧ s.run.running ∧ !s.run.halted
        ∧ !s.clusterStopped (clusterOf (coreOf pid)) then
      .next (s.setPath pid { p with sleep := 0, st := if p.st = .waiting then .ready else p.st, readyAt := p.readyAt + p.sleep })
    else .next s
  | none => .next s

/-- SCH_STALL_EXPIRE (R23). -/
def execSchStallExpire (pid : Nat) (s : State) : Result :=
  match s.path pid with
  | some p =>
    if p.st = .waiting ∧ p.wait = .hold ∧ !p.hints.isEmpty ∧ p.issuedAt + (bundleSch p.hints).2 ≤ s.icc (coreOf pid) then
      .next (s.setPath pid { p with st := .ready, wait := .none, readyAt := p.issuedAt + (bundleSch p.hints).2 })
    else .next s
  | none => .next s

/-- WAIT_LIMIT (R306): a path that has waited longer than WLIM at one instruction takes 0x12. A queue instruction waits across its
attempts. -/
def execWaitLimit (pid : Nat) (s : State) : Result :=
  match s.path pid with
  | some p =>
    let lim := (s.core (coreOf pid)).wlim.toNat
    (match p.waitFrom with
     | some t =>
       if (p.st = .waiting ∨ p.wait = .queue) ∧ !s.clusterStopped (clusterOf (coreOf pid)) ∧ lim ≠ 0 ∧ lim * 65536 < s.clk - t
           ∧ s.mayIssue pid { p with wait := .none } then
         .next ((s.takeTrap pid 0x12 p.bundleStart (BitVec.ofNat 64 ((s.clk - t) / 65536)) none).unstep pid)
       else .next s
     | none => .next s)
  | none => .next s

end Sys2Proof.Machine
end

