-- ==== Sys2Proof/Machine/Preempt.lean ====
section
/-! DEFINITION. Pre-emption, the save and the restore of a context, and the re-issue of killed graphics waves (R24, R96, R159,
R166, R223, R246, R254, R255, R300, R301, R308 to R312, R361). -/

namespace Sys2Proof.Machine

/-! Time that stands still (R308, R357, R369). -/

/-- Whether the counts of a path run: its cluster is not stopped. -/
def State.clockRuns (s : State) (pid : Nat) : Bool := !(s.cluster (clusterOf (coreOf pid))).stopped

/-- The island cycle and the reference cc at which the counts of a cluster's paths stand: those of its stop if it is due, else now. -/
def State.standsAt (s : State) (cluster : Nat) : Nat × Nat :=
  match (s.cluster cluster).stopping with
  | some h =>
    if h + 12 ≤ s.icc (4 * cluster) then (h + 12, min s.clk ((s.island cluster).refAt (h + 12))) else (s.icc (4 * cluster), s.clk)
  | none => (s.icc (4 * cluster), s.clk)

/-- A path's remaining sleep and the time it has waited, in place of the island cycle and the reference cc from which they count. A path
that does not sleep has none. -/
def Path.freeze (p : Path) (now : Nat × Nat) : Path :=
  { p with
    sleep := if p.hold ∨ p.sleep = 0 then p.sleep else p.readyAt + p.sleep - now.1,
    waitFrom := p.waitFrom.map fun t => now.2 - t }

/-- A path made ready again as R223 states: its sleep and its wait go on from what they had reached. -/
def Path.thaw (p : Path) (now : Nat × Nat) : Path :=
  { p with
    readyAt := now.1 + 1,
    waitFrom := p.waitFrom.map fun t => now.2 - t }

/-- The paths of the clusters that are not stopped go on from a save, or a dump (R223). -/
def State.thawPaths (s : State) : State :=
  s.mapPaths fun pid p => if s.clockRuns pid then p.thaw (s.icc (coreOf pid), s.clk) else p

/-! The halt (R24, R96, R308). -/

/-- A path at its halt point: before the first hint word of a bundle that it has begun, its wait ended with the PC kept. A
path that a split load made still waits for its data (R159). -/
def Path.haltPoint (p : Path) : Path :=
  { p with
    pc := p.bundleStart, hints := [],
    st := match p.wait with
      | .data _ => p.st
      | _ => if p.st = .waiting ∧ p.sleep = 0 then .ready else p.st,
    wait := match p.wait with
      | .data n => .data n
      | w => if p.st = .waiting then .none else w }

/-- Every path stopped at its halt point; waiting claims end, since the claim executes again. -/
def State.haltPaths (s : State) : State :=
  let s1 := s.mapPaths fun pid p => (if s.clockRuns pid then p.freeze (s.standsAt (clusterOf (coreOf pid))) else p).haltPoint
  { s1 with cores := s1.cores.map fun (k : Nat × Core) => (k.1, { k.2 with claims := [] }) }

/-- Whether a path takes a trap that is due at its halt point: it is not held, not stopped, not killable and does not wait for data
(R159, R309, R369; log entry 75). -/
def State.takesDue (s : State) (pid : Nat) (p : Path) : Bool :=
  !p.hold && !p.ended && !s.clusterStopped (clusterOf (coreOf pid)) && (s.killable (pid / 4)).isNone
    && (match p.wait with | .data _ => false | _ => true)

/-- A trap whose cause is determined before the halt point is taken, by a parked path as by any other; a helper path's becomes its
recruiter's 0x09 (R296). 0x0C is saved with the path and taken first when it resumes (R60, R309). -/
def State.takeBefore (s : State) (pid : Nat) : State :=
  match s.path pid with
  | some p =>
    (match p.nextDue with
     | some d =>
       if (d.cause = 0x0C ∧ !isHelper pid) ∨ !s.takesDue pid p then s
       else (s.setPath pid { p with parkedTrap := if p.st = .parkedRejoin then p.parkedAt else p.parkedTrap }).takeDue pid
     | none => s)
  | none => s

/-- A killable wave killed (R300): its held stores dropped, its pending loads and atomics abandoned, its loan ended, its PC at
its region's start, where the region is open again. -/
def State.killToRegion (s : State) (wid pid : Nat) (r : Region) : State :=
  let s1 := s.dropLoan pid
  ({ s1 with ops := s1.ops.filter fun (o : Op) => !(o.owner == wid && o.cls == .ld) } : State).onPath pid fun p =>
    { p with pc := r.start, hints := [], region := some { r with stores := [] }, st := .ready, wait := .none, waitFrom := none, sleep := 0 }

/-- A wave killed at pre-emption if it is killable (R254, R300); its re-issue has then ended without a fault (R255). -/
def State.killWave (s : State) (wid : Nat) : State :=
  if s.killableAtEntry wid then (s.killToEntry wid).onWave wid fun w => { w with reissues := (0, 0) }
  else
    match s.killable wid with
    | some (pid, r) => s.killToRegion wid pid r
    | none => s

/-- The halt of the context that runs: traps first, those of helper paths before those of their recruiters. -/
def State.haltContext (s : State) : State :=
  let pids := s.run.paths.map (·.1)
  let s1 := ((pids.filter isHelper) ++ pids.filter fun p => !isHelper p).foldl State.takeBefore s
  let s2 := s1.recallAll (s1.helpersWhere fun _ => true)
  let s3 := (s2.run.waves.map (·.1)).foldl State.killWave s2
  let s4 := s3.haltPaths
  { s4 with run := { s4.run with halted := true } }

/-- PREEMPTION_REQUEST (R308, R309): a request during a dump takes effect when it ends (R377). -/
def execPreemptionRequest (s : State) : Result :=
  if s.dev.dumpBusy then .next { s with dev := { s.dev with preempt := true } }
  else if s.run.running ∧ !s.run.halted then .next s.haltContext
  else .next s

/-! The save (R310, R246). -/

/-- Whether everything that a save waits for is complete: operations, granted passes, and what the vault's adders have begun to work
on (R246, R310). -/
def State.quiet (s : State) : Bool :=
  s.ops.all (·.done)
    && (List.range Config.clusters).all (fun k => (s.cluster k).passes.isEmpty)
    && s.run.blocks.all fun b =>
      match b.2.stream with
      | some st => !st.entries.any StreamEntry.adding
      | none => true

/-- The cores on which the context has blocks. -/
def State.contextCores (s : State) : List Nat := (s.run.blocks.map fun b => b.2.core).eraseDups

/-- The keys of the vault words of a block's window. -/
def Block.window (b : Block) (bid : Nat) : Nat × Nat :=
  (vaultKey (bid / 32) b.awb.toNat 0, vaultKey (bid / 32) (min (b.awb.toNat + b.awl.toNat) 1024) 0)

/-- The table entries whose keys lie in some of the ranges. -/
def keysIn {α : Type} (m : Sparse α) (rs : List (Nat × Nat)) : Sparse α :=
  m.filter fun e => rs.any fun r => decide (r.1 ≤ e.1) && decide (e.1 < r.2)

/-- The table with the entries of the ranges replaced. -/
def keysBack {α : Type} (m : Sparse α) (rs : List (Nat × Nat)) (saved : Sparse α) : Sparse α :=
  tsets (rs.foldl (fun m r => tdrop m r.1 r.2) m) saved

def Context.sramRanges (c : Context) : List (Nat × Nat) :=
  c.blocks.map fun b => (b.2.core * 1048576 + b.2.base, b.2.core * 1048576 + b.2.base + b.2.allotment)
def Context.vaultRanges (c : Context) : List (Nat × Nat) := c.blocks.map fun b => b.2.window b.1

/-- The B-deck bytes of the ready B-deck tiles. -/
def Context.deckRanges (c : Context) : List (Nat × Nat) :=
  (c.tiles.map fun t =>
    if t.2.bdeck && t.2.st == .ready then
      match tget c.blocks (t.1 / 128 * 32 + t.2.own) with
      | some b => (t.2.places b).filterMap fun l => match l with | .bdeck i => some (i, i + 1) | _ => none
      | none => []
    else []).flatten

/-- Tile states as they are saved: rel and the references cleared. -/
def Tile.saved (t : Tile) : Tile := { t with rel := false, refs := 0 }

/-- A stream as it is saved: its reservation is returned, `reservation` then says that it is taken again (R241, R246); and a pass's
references are taken again when it goes on. -/
def Stream.saved (st : Stream) : Stream :=
  { st with
    entries := st.entries.map fun (e : StreamEntry) => if (e.op.bind mmaOf).isSome then { e with begun := false } else e }

/-- The context as it is saved. Every path owes a SYNC when it is restored (R381). -/
def Context.saved (c : Context) : Context :=
  { c with
    paths := c.paths.map fun (e : Nat × Path) => (e.1, { e.2 with traceSync := true }),
    tiles := c.tiles.map fun (t : Nat × Tile) => (t.1, t.2.saved),
    blocks := c.blocks.map fun (b : Nat × Block) => (b.1, { b.2 with stream := b.2.stream.map Stream.saved }) }

/-- An EVENT record on each of several cores. -/
def State.traceEvents (s : State) (kind wp : Nat) (cores : List Nat) : State :=
  cores.foldl (fun t k => t.traceEvent k kind wp) s

/-- The bytes of the save area, whose layout is the device's own, written at the address that the host driver gave (R311; log entry 17). -/
def State.writeArea (s : State) (area n : Nat) : List Host.Cell :=
  match s.writeVirtual noCore area (Config.saveImage n) with
  | some t => t.mem
  | none => s.mem

/-- The open regions of the waves that are saved committed (R301). -/
def State.commitRegions (s : State) : State :=
  (s.run.paths.filter fun e => (s.killable (e.1 / 4)).isNone).foldl (fun t e => t.commitRegion e.1) s

/-- CONTEXT_SAVE (R310): open regions committed; once that and everything else is complete, the context captured, and its core and cluster
resources returned. A stop that has begun in one of its clusters comes first (R361). -/
def execContextSave (s : State) : Result :=
  let s1 := s.commitRegions
  if !s.run.halted || s.dev.dumpBusy || s.contextCores.any fun k => (s.cluster (clusterOf k)).stopping.isSome then .next s
  else if !s1.quiet then .next s1
  else
    let cores := s1.contextCores
    let c := s1.run.saved
    let one : SavedContext :=
      { area := Config.saveArea s.free, root := s.dev.ptroot, context := c
        sram := keysIn s1.sram c.sramRanges, vault := keysIn s1.vault c.vaultRanges, bdeck := keysIn s1.bdeck c.deckRanges
        q0 := tsets [] (cores.map fun k => (k, (s1.core k).q0))
        itemCounter := tsets [] (cores.map fun k => (k, (s1.core k).itemCounter))
        wlim := tsets [] (cores.map fun k => (k, (s1.core k).wlim))
        stoppedClusters := ((cores.map clusterOf).eraseDups).filter fun k => (s1.cluster k).stopped }
    let s2 := s1.traceEvents 3 0 cores
    .next { s2 with
      run := Context.empty, saved := s2.saved ++ [one], ops := [], free := s2.free + 1, mem := s2.writeArea one.area s.free,
      cores := s2.cores.map fun (k : Nat × Core) =>
        (k.1, if cores.contains k.1 then { k.2 with q0 := [], itemCounter := 0 } else k.2),
      clusters := s2.clusters.map fun (k : Nat × Cluster) =>
        (k.1, if (cores.map clusterOf).contains k.1 then
          { k.2 with stopped := false, stopping := none, stepping := none, reservations := [] } else k.2) }

/-! The restore (R223, R246, R312). -/

/-- A block's tile entries placed in the lowest free entries of its cluster, with their block-relative numbers. -/
def placeTiles (tiles : Sparse Tile) (bid : Nat) (own : List Tile) : Sparse Tile :=
  let free := (List.range 128).filter fun e => (tget tiles (bid / 32 * 128 + e)).isNone
  tsets tiles ((free.zip own).map fun (x : Nat × Tile) => (bid / 32 * 128 + x.1, x.2))

/-- The tiles of every block placed in turn. -/
def Context.placedTiles (c : Context) : Sparse Tile :=
  c.blocks.foldl (fun m b =>
    placeTiles m b.1 ((c.tiles.filter fun t => t.1 / 128 == b.1 / 32 && t.2.own == b.1 % 32).map (·.2))) []

/-- A teller reservation taken for a block's stream that had one, running or stopped (R241). -/
def State.reserve (s : State) (bid : Nat) : State :=
  match s.block bid with
  | some b =>
    (match b.stream with
     | some st =>
       if st.reservation.isSome then
         match s.freeReservations (bid / 32) with
         | r :: _ =>
           (s.setCluster (bid / 32) { s.cluster (bid / 32) with
             reservations := tset (s.cluster (bid / 32)).reservations r bid }).setBlock bid
               { b with stream := some { st with reservation := some r } }
         | [] => s.setBlock bid { b with stream := some { st with reservation := none } }
       else s
     | none => s)
  | none => s

/-- A core's own part of a saved context. -/
def Core.restored (k : Core) (one : SavedContext) (n : Nat) : Core :=
  { k with q0 := tgetD [] one.q0 n, itemCounter := tgetD 0 one.itemCounter n, wlim := tgetD k.wlim one.wlim n }

/-- CONTEXT_RESTORE (R312): memories, tiles, vault rows, registers, streams and reservations written back; every path becomes
ready in the next cc, and a stopped cluster stays stopped (R361). -/
def execContextRestore (which : Nat) (s : State) : Result :=
  match s.saved[which]? with
  | none => .next s
  | some one =>
    if s.run.running || s.run.halted then .next s
    else
      let c := one.context
      let cores := one.q0.map (·.1)
      let s1 : State := { s with
        saved := s.saved.eraseIdx which,
        sram := keysBack s.sram c.sramRanges one.sram, vault := keysBack s.vault c.vaultRanges one.vault,
        bdeck := keysBack s.bdeck c.deckRanges one.bdeck,
        run := { c with running := true, halted := false, tiles := c.placedTiles } }
      let s2 := cores.foldl (fun t k => t.setCore k ((t.core k).restored one k)) s1
      let s3 := one.stoppedClusters.foldl (fun t k => t.setCluster k { t.cluster k with stopped := true }) s2
      let s4 := (c.blocks.map (·.1)).foldl State.reserve s3
      let s5 := s4.thawPaths.mapPaths fun pid p => { p with resident := s4.icc (coreOf pid) }
      .next (s5.traceEvents 4 0 cores)

/-! Re-issue (R254, R255). -/

/-- GRAPHICS_WAVE_REISSUE (R254, R255): a killed wave starts again from its entry, once the context runs and the page that it
faulted on is present. Traps directed to the wave meanwhile are due to its path (R162). -/
def execGraphicsWaveReissue (which : Nat) (s : State) : Result :=
  match s.wave which with
  | none => .next s
  | some w =>
    let present := w.reissues.1 == 0 || (match s.reach (which / 32) ⟨false, false, false⟩ w.reissues.2 with
      | .fault 4 | .absent | .wait => false
      | _ => true)
    match w.start with
    | none => .next s
    | some r =>
      if !w.killed || !s.run.running || s.run.halted || !present then .next s
      else
        let s1 := s.setWave which { w with killed := false, live := r.mask, lent := 0, due := [] }
        .next ((s1.giveStart which r).setPath (4 * which) { startPath w.entry r true (s.icc (which / 32) + 1) with due := w.due })

end Sys2Proof.Machine
end

