-- ==== Sys2Proof/Machine/Crypto.lean ====
section
/-! DEFINITION. SHA-512 and ECDSA on the curve P-521, which R393 and R394 name and the spec does not write out: FIPS 180-4 and FIPS 186
(log entry 15). Numbers in bytes are big-endian. -/

namespace Sys2Proof.Machine

/-! SHA-512. -/

/-- The round constants. -/
def shaK0 : List (BitVec 64) :=
  [0x428a2f98d728ae22, 0x7137449123ef65cd, 0xb5c0fbcfec4d3b2f, 0xe9b5dba58189dbbc,
    0x3956c25bf348b538, 0x59f111f1b605d019, 0x923f82a4af194f9b, 0xab1c5ed5da6d8118,
    0xd807aa98a3030242, 0x12835b0145706fbe, 0x243185be4ee4b28c, 0x550c7dc3d5ffb4e2,
    0x72be5d74f27b896f, 0x80deb1fe3b1696b1, 0x9bdc06a725c71235, 0xc19bf174cf692694]
def shaK1 : List (BitVec 64) :=
  [0xe49b69c19ef14ad2, 0xefbe4786384f25e3, 0x0fc19dc68b8cd5b5, 0x240ca1cc77ac9c65,
    0x2de92c6f592b0275, 0x4a7484aa6ea6e483, 0x5cb0a9dcbd41fbd4, 0x76f988da831153b5,
    0x983e5152ee66dfab, 0xa831c66d2db43210, 0xb00327c898fb213f, 0xbf597fc7beef0ee4,
    0xc6e00bf33da88fc2, 0xd5a79147930aa725, 0x06ca6351e003826f, 0x142929670a0e6e70]
def shaK2 : List (BitVec 64) :=
  [0x27b70a8546d22ffc, 0x2e1b21385c26c926, 0x4d2c6dfc5ac42aed, 0x53380d139d95b3df,
    0x650a73548baf63de, 0x766a0abb3c77b2a8, 0x81c2c92e47edaee6, 0x92722c851482353b,
    0xa2bfe8a14cf10364, 0xa81a664bbc423001, 0xc24b8b70d0f89791, 0xc76c51a30654be30,
    0xd192e819d6ef5218, 0xd69906245565a910, 0xf40e35855771202a, 0x106aa07032bbd1b8]
def shaK3 : List (BitVec 64) :=
  [0x19a4c116b8d2d0c8, 0x1e376c085141ab53, 0x2748774cdf8eeb99, 0x34b0bcb5e19b48a8,
    0x391c0cb3c5c95a63, 0x4ed8aa4ae3418acb, 0x5b9cca4f7763e373, 0x682e6ff3d6b2b8a3,
    0x748f82ee5defb2fc, 0x78a5636f43172f60, 0x84c87814a1f0ab72, 0x8cc702081a6439ec,
    0x90befffa23631e28, 0xa4506cebde82bde9, 0xbef9a3f7b2c67915, 0xc67178f2e372532b]
def shaK4 : List (BitVec 64) :=
  [0xca273eceea26619c, 0xd186b8c721c0c207, 0xeada7dd6cde0eb1e, 0xf57d4f7fee6ed178,
    0x06f067aa72176fba, 0x0a637dc5a2c898a6, 0x113f9804bef90dae, 0x1b710b35131c471b,
    0x28db77f523047d84, 0x32caab7b40c72493, 0x3c9ebe0a15c9bebc, 0x431d67c49c100d4c,
    0x4cc5d4becb3e42b6, 0x597f299cfc657e2a, 0x5fcb6fab3ad6faec, 0x6c44198c4a475817]

def shaK : List (BitVec 64) := shaK0 ++ shaK1 ++ shaK2 ++ shaK3 ++ shaK4

/-- The working variables of a hash. -/
structure ShaState where
  a : BitVec 64
  b : BitVec 64
  c : BitVec 64
  d : BitVec 64
  e : BitVec 64
  f : BitVec 64
  g : BitVec 64
  h : BitVec 64
deriving DecidableEq, Repr

/-- The initial hash value. -/
def shaStart : ShaState :=
  ⟨0x6a09e667f3bcc908, 0xbb67ae8584caa73b, 0x3c6ef372fe94f82b, 0xa54ff53a5f1d36f1,
    0x510e527fade682d1, 0x9b05688c2b3e6c1f, 0x1f83d9abfb41bd6b, 0x5be0cd19137e2179⟩

/-- The sum of hash values. -/
def ShaState.plus (x y : ShaState) : ShaState :=
  ⟨x.a + y.a, x.b + y.b, x.c + y.c, x.d + y.d, x.e + y.e, x.f + y.f, x.g + y.g, x.h + y.h⟩

/-- One round, with its constant and its word of the schedule. -/
def ShaState.round (x : ShaState) (k w : BitVec 64) : ShaState :=
  let s1 := x.e.rotateRight 14 ^^^ x.e.rotateRight 18 ^^^ x.e.rotateRight 41
  let t1 := x.h + s1 + ((x.e &&& x.f) ^^^ (~~~x.e &&& x.g)) + k + w
  let s0 := x.a.rotateRight 28 ^^^ x.a.rotateRight 34 ^^^ x.a.rotateRight 39
  let t2 := s0 + ((x.a &&& x.b) ^^^ (x.a &&& x.c) ^^^ (x.b &&& x.c))
  ⟨t1 + t2, x.a, x.b, x.c, x.d + t1, x.e, x.f, x.g⟩

/-- The next word of the schedule, from the words so far, newest first. -/
def shaNext (ws : List (BitVec 64)) : BitVec 64 :=
  let x := ws.getD 1 0
  let y := ws.getD 14 0
  (x.rotateRight 19 ^^^ x.rotateRight 61 ^^^ (x >>> 6)) + ws.getD 6 0 + (y.rotateRight 1 ^^^ y.rotateRight 8 ^^^ (y >>> 7)) + ws.getD 15 0

/-- A schedule extended by some words, newest first. -/
def shaExtend : Nat → List (BitVec 64) → List (BitVec 64)
  | 0, ws => ws
  | n + 1, ws => shaExtend n (shaNext ws :: ws)

/-- Big-endian numbers of bytes. -/
def bigNum (bs : List Nat) : Nat := bs.foldl (fun n b => n * 256 + b % 256) 0

/-- The words of a message, of eight bytes each. -/
def shaWords : Nat → List Nat → List (BitVec 64)
  | 0, _ => []
  | n + 1, bs => BitVec.ofNat 64 (bigNum (bs.take 8)) :: shaWords n (bs.drop 8)

/-- One block of sixteen words hashed. -/
def ShaState.block (x : ShaState) (ws : List (BitVec 64)) : ShaState :=
  let sched := (shaExtend 64 ws.reverse).reverse
  x.plus ((shaK.zip sched).foldl (fun y kw => y.round kw.1 kw.2) x)

/-- The blocks of a message hashed. -/
def ShaState.blocks (x : ShaState) : Nat → List Nat → ShaState
  | 0, _ => x
  | n + 1, bs => (x.block (shaWords 16 (bs.take 128))).blocks n (bs.drop 128)

/-- A number in `n` bytes, big-endian. -/
def bigBytes (n v : Nat) : List Nat := (List.range n).map fun i => v / 256 ^ (n - 1 - i) % 256

/-- A message padded to whole blocks. -/
def shaPad (bs : List Nat) : List Nat :=
  bs ++ [128] ++ List.replicate ((239 - bs.length % 128) % 128) 0 ++ bigBytes 16 (8 * bs.length)

/-- The SHA-512 digest of a message, its first byte the most significant. -/
def sha512 (bs : List Nat) : BitVec 512 :=
  let m := shaPad bs
  let x := shaStart.blocks (m.length / 128) m
  x.a ++ x.b ++ x.c ++ x.d ++ x.e ++ x.f ++ x.g ++ x.h

/-! The curve y² = x³ − 3x + b over the integers modulo p. -/

def curveP : Nat := 2 ^ 521 - 1
/-- The constant b. -/
def curveB : Nat :=
  0x51953eb9618e1c9a1f929a21a0b68540eea2da725b99b315f3b8b489918ef109e156193951ec7e937b1652c0bd3bb1bf073573df883d2c34f1ef451fd46b503f00
/-- The order of the base point. -/
def curveN : Nat :=
  0x1fffffffffffffffffffffffffffffffffffffffffffffffffffffffffffffffffa51868783bf2f966b7fcc0148f709a5d03bb5c9b8899c47aebb6fb71e91386409
/-- The base point. -/
def curveG : Nat × Nat :=
  (0xc6858e06b70404e9cd9e3ecb662395b4429c648139053fb521f828af606b4d3dbaa14b5e77efe75928fe1dc127a2ffa8de3348b3c1856a429bf97e7e31c2e5bd66,
   0x11839296a789a3bc0045c8a5fb42c7d1bd998f54449579b446817afbd17273e662c97ee72995ef42640c550b9013fad0761353c7086a272c24088be94769fd16650)

/-- A power modulo a number, of an exponent below 2^n. -/
def powMod (m : Nat) : Nat → Nat → Nat → Nat
  | 0, _, _ => 1 % m
  | n + 1, a, e =>
    let r := powMod m n (a * a % m) (e / 2)
    if e % 2 = 1 then a * r % m else r

/-- The inverse modulo a prime below 2^521. -/
def invMod (m a : Nat) : Nat := powMod m 521 (a % m) (m - 2)

/-- A difference modulo the prime of the curve. -/
def subP (a b : Nat) : Nat := (a + curveP - b % curveP) % curveP

/-- The third point of a line of some slope through two points, reflected. -/
def curveLine (slope : Nat) (a b : Nat × Nat) : Nat × Nat :=
  let x := subP (subP (slope * slope) a.1) b.1
  (x, subP (slope * subP a.1 x) a.2)

/-- The sum of two points; none is the point at infinity. -/
def curveAdd (a b : Option (Nat × Nat)) : Option (Nat × Nat) :=
  match a, b with
  | none, q => q
  | p, none => p
  | some p, some q =>
    if p.1 = q.1 then
      if p.2 = q.2 ∧ p.2 ≠ 0 then some (curveLine (subP (3 * p.1 * p.1) 3 * invMod curveP (2 * p.2) % curveP) p q) else none
    else some (curveLine (subP q.2 p.2 * invMod curveP (subP q.1 p.1) % curveP) p q)

/-- A multiple of a point, by a factor below 2^n. -/
def curveMul : Nat → Nat → Option (Nat × Nat) → Option (Nat × Nat)
  | 0, _, _ => none
  | n + 1, k, p =>
    let r := curveMul n (k / 2) (curveAdd p p)
    if k % 2 = 1 then curveAdd p r else r

/-- Whether a pair is a point of the curve. -/
def onCurve (q : Nat × Nat) : Bool :=
  decide (q.1 < curveP) && decide (q.2 < curveP) && (q.2 * q.2 + 3 * q.1) % curveP == (q.1 * q.1 * q.1 + curveB) % curveP

/-! ECDSA. -/

/-- The two numbers of 66 bytes each that 132 bytes hold. -/
def twoNums (bs : List Nat) : Nat × Nat := (bigNum (bs.take 66), bigNum ((bs.drop 66).take 66))

/-- Whether a signature, r and s, verifies a digest under a public key, x and y. -/
def ecdsaVerifies (key signature : List Nat) (digest : BitVec 512) : Bool :=
  let q := twoNums key
  let (r, s) := twoNums signature
  let w := invMod curveN s
  let sum := curveAdd (curveMul 521 (digest.toNat * w % curveN) (some curveG)) (curveMul 521 (r * w % curveN) (some q))
  key.length == 132 && signature.length == 132 && onCurve q && decide (0 < r) && decide (r < curveN) && decide (0 < s)
    && decide (s < curveN) && (match sum with | some p => p.1 % curveN == r | none => false)

/-- The signature of a digest with a private key and a nonce: r and s, 66 bytes each. -/
def ecdsaSign (secret nonce : Nat) (digest : BitVec 512) : List Nat :=
  let r := (match curveMul 521 nonce (some curveG) with | some p => p.1 | none => 0) % curveN
  bigBytes 66 r ++ bigBytes 66 (invMod curveN nonce * ((digest.toNat + r * secret) % curveN) % curveN)

end Sys2Proof.Machine
end

