-- ==== Sys2Proof/Machine/Service.lean ====
section
/-! DEFINITION. Numerical event windows, assays and repair, islands, links, boot and attestation (R58, R59, R384 to R394). -/

namespace Sys2Proof.Machine

/-! Numerical event windows (R58, R59). -/

/-- NEV_WINDOW_END: the class's count is cleared and the next window begins where this one ends. -/
def execNevWindowEnd (core cls : Nat) (s : State) : Result :=
  let k := s.core core
  let len := tgetD 0 k.nevWin cls * 1024
  let from_ := tgetD 0 k.nevStart cls
  if core < Config.cores ∧ cls < 8 ∧ len ≠ 0 ∧ !k.nevFrz ∧ from_ + len ≤ s.clk then
    .next (s.setCore core { k with nevCnt := tset k.nevCnt cls 0, nevStart := tset k.nevStart cls (from_ + len) })
  else .next s

/-- NEVWIN_WRITE: the window restarts and its count is cleared. A frozen timer holds the time elapsed. -/
def execNevwinWrite (core cls len : Nat) (s : State) : Result :=
  let k := s.core core
  if core < Config.cores ∧ cls < 8 then
    .next (s.setCore core { k with
      nevWin := tset k.nevWin cls (len % 2 ^ 24), nevCnt := tset k.nevCnt cls 0,
      nevStart := tset k.nevStart cls (if k.nevFrz then 0 else s.clk) })
  else .next s

/-- NEVSTAT_CLEAR: hit bits written 1 are cleared; the host interrupt falls once no hit bit asks for it. -/
def execNevstatClear (core : Nat) (bits : BitVec 8) (s : State) : Result :=
  let k := s.core core
  if core < Config.cores then .next (s.setNumeric core { k with nevHit := k.nevHit &&& ~~~bits }) else .next s

/-! Assays (R385 to R387). -/

/-- The cores that may run a row's assay: the one that holds it, those of its cluster, or any (log entry 24). -/
def assayCores (r : RasRow) : List Nat :=
  match r.core, r.cluster with
  | some k, _ => [k]
  | none, some c => [0, 1, 2, 3].map (4 * c + ·)
  | none, none => List.range Config.cores

/-- The core that takes a row's assay: the first that runs none. -/
def State.assayCore (s : State) (r : RasRow) : Option Nat := (assayCores r).find? fun k => !s.ras.running.any fun q => q.2 == k

/-- ASSAY_START: assays wait in the order their errors were detected, until a core is free. -/
def execAssayStart (row : RasRow) (s : State) : Result :=
  if s.dev.rasEn ∧ s.ras.waiting.find? (fun r => (s.assayCore r).isSome) = some row then
    match s.assayCore row with
    | some k => .next { s with ras := { s.ras with running := s.ras.running ++ [(row, k)], waiting := s.ras.waiting.erase row } }
    | none => .next s
  else .next s

/-- cc in a second. -/
def secondCc : Nat := 3600000000

/-- Whether some three corrected errors of a row came within one second. -/
def State.thirdError (s : State) (r : RasRow) : Bool :=
  let times := (s.ras.history.filter fun h => sameRow h.1 r).map (·.2)
  (times.zip (times.drop 2)).any fun t => decide (t.2 < t.1 + secondCc)

/-- The bank of a row, of which each structure has one a core or a cluster, and the L2 those of its rows (log entry 24). -/
def bankOf (r : RasRow) : Nat × Nat :=
  (r.structure_, if r.l2 then Config.l2Bank r.row
    else match r.core, r.cluster with
      | some k, _ => k
      | none, some c => 128 + c
      | none, none => 0)

/-- Spare rows used in a bank. -/
def State.sparesUsed (s : State) (bank : Nat × Nat) : Nat := ((s.ras.spares.find? fun x => x.1 == bank).map (·.2)).getD 0

/-- The cluster of a row marked degraded (R386). -/
def State.degrade (s : State) (r : RasRow) : State :=
  match r.cluster <|> r.core.map clusterOf with
  | some k => s.setCluster k { s.cluster k with degraded := true }
  | none => s

/-- The corrected errors of a row forgotten, after its lasting fault. -/
def State.forget (s : State) (r : RasRow) : State :=
  { s with ras := { s.ras with history := s.ras.history.filter fun h => !sameRow h.1 r } }

/-- The response to a lasting fault, with the outcome that its log entry records (R386). -/
def State.respond (s : State) (r : RasRow) : State × Nat :=
  let frame := r.row * 65536
  if r.dram then
    ({ s with ras := { s.ras with retired := if s.ras.retired.contains frame then s.ras.retired else s.ras.retired ++ [frame] } }, outRetired)
  else if s.sparesUsed (bankOf r) < 4 then
    ({ s with ras := { s.ras with
        spares := (s.ras.spares.filter fun x => x.1 != (bankOf r)) ++ [((bankOf r), s.sparesUsed (bankOf r) + 1)] } }, outSpared)
  else if r.l2 then ({ s with ras := { s.ras with withdrawn := s.ras.withdrawn ++ [r] } }, outWithdrawn)
  else (s.degrade r, outDegraded)

/-- ASSAY_END: the fault is lasting after a mismatch or a third corrected error within a second, else transient. -/
def execAssayEnd (row : RasRow) (mismatch : Bool) (s : State) : Result :=
  if !s.assayed row then .next s
  else
    let s1 : State := { s with ras := { s.ras with running := s.ras.running.filter fun q => !sameRow q.1 row } }
    if mismatch || s.thirdError row then
      let t := s1.respond row
      .next ((t.1.forget row).logRas row.structure_ t.2 (rowLogged row))
    else .next (s1.logRas row.structure_ outTransient (rowLogged row))

/-- RASCE_READ (R387). -/
def execRasceRead (s : State) : Result :=
  .next { s with hostData := bytesOf 4 s.dev.rasce, dev := { s.dev with rasce := 0 } }

/-- RASUE_READ (R387). -/
def execRasueRead (s : State) : Result :=
  .next { s with hostData := bytesOf 4 s.dev.rasue, dev := { s.dev with rasue := 0 } }

/-! Islands (R388 to R390). -/

/-- Headroom: the lesser of the half degrees below 105 °C and the 5 mV steps below the island's limit, 0 to 255. -/
def headroomOf (r : IslandReading) : Nat := min (min (2 * (105 - r.tj)) ((r.vmax - r.mv) / 5)) 255

/-- The clocks that an island may run at, in MHz. -/
def clockOk (island mhz : Nat) : Bool :=
  if island < 32 then decide (1200 ≤ mhz) && decide (mhz ≤ 3600) else if island < 36 then decide (mhz ≤ 2400) else decide (mhz < 4096)

/-- An island's registers after its sensors and controller give these figures; the cycles that its clock has counted stay (R7). -/
def State.setIsland (s : State) (island : Nat) (r : IslandReading) (stretched throttled : Bool) : State :=
  let i : Island :=
    ⟨r.tj % 256, headroomOf r, r.mhz % 4096, r.mv % 4096, stretched, throttled, (s.island island).count s.clk, s.clk⟩
  { s with islands := tset s.islands island i }

/-- The module trips: every context is halted, all clocks stop and the host is interrupted (R390). -/
def State.trip (s : State) (island : Nat) (r : IslandReading) : State :=
  let s1 := if s.run.running && !s.run.halted then s.haltContext else s
  { (s1.setIsland island r false true).interrupt .thermal with stopped := true }

/-- Whether a clock is lower than an island's was, or the lowest that it may have (R389, R390). -/
def clockLowered (island was mhz : Nat) : Bool := decide (mhz < was) || (mhz == was && was == if island < 32 then 1200 else 0)

/-- ISLAND_DVFS: a new voltage and clock in the island's range; the clock falls while the junction is at 105 °C or above, and at 115 °C the
module trips (R389, R390). -/
def execIslandDvfs (island : Nat) (sensed : IslandReading) (s : State) : Result :=
  if 40 ≤ island then .next s
  else if 115 ≤ sensed.tj then .next (s.trip island sensed)
  else if !clockOk island sensed.mhz ∨ (105 ≤ sensed.tj ∧ !clockLowered island (s.island island).mhz sensed.mhz) then .next s
  else .next (s.setIsland island sensed false (decide (105 ≤ sensed.tj)))

/-- DROOP_STRETCH: the clock period is stretched until the supply recovers (R389); timing only. -/
def execDroopStretch (island : Nat) (s : State) : Result :=
  if 40 ≤ island then .next s
  else .next { s with islands := tset s.islands island { s.island island with stretched := true } }

/-- THERMAL_THROTTLE: a junction at 105 °C or above lowers its island's clock, and one at 115 °C trips the module (R390). -/
def execThermalThrottle (island : Nat) (sensed : IslandReading) (s : State) : Result :=
  let now := s.island island
  if island < 40 ∧ 115 ≤ sensed.tj then .next (s.trip island sensed)
  else if island < 40 ∧ 105 ≤ sensed.tj ∧ clockOk island sensed.mhz ∧ sensed.mhz < now.mhz then
    .next (s.setIsland island sensed now.stretched true)
  else .next s

/-- THERMAL_TRIP: at 115 °C every context is halted, all clocks stop and the host is interrupted (R390). -/
def execThermalTrip (island : Nat) (sensed : IslandReading) (s : State) : Result :=
  if island < 40 ∧ 115 ≤ sensed.tj then .next (s.trip island sensed) else .next s

/-! Links (R391). -/

/-- LINK_RETRAIN: the link is down until its retraining ends. -/
def execLinkRetrain (link : Nat) (s : State) : Result :=
  .next { s with linksDown := if s.linksDown.contains link then s.linksDown else s.linksDown ++ [link] }

/-- RETRAINING_END: held traffic goes on. -/
def execRetrainingEnd (link : Nat) (s : State) : Result :=
  .next { s with linksDown := s.linksDown.filter (· != link) }

/-! Boot (R393). -/

/-- Whether an image passes the rules of a verification: its signature, the digest of its key, and its version. -/
def imageOk (i : BootImage) (keyDigest : BitVec 512) : Bool :=
  ecdsaVerifies i.key i.signature (sha512 i.code) && sha512 i.key == keyDigest && decide (Config.fusedRollback ≤ i.version)

/-- A stage measured, or boot stopped with the host interrupted; ATTCTL then reads 0x03. -/
def State.bootStage (s : State) (ok : Bool) (code : List Nat) : State :=
  if s.boot.stopped then s
  else if ok then
    { s with boot := { s.boot with stage := s.boot.stage + 1, measurements := s.boot.measurements ++ [sha512 code] } }
  else
    ({ s with boot := { s.boot with stopped := true }, dev := { s.dev with attSt := 3, attBusy := false } } : State).interrupt .bootStopped

/-- BOOT: the ROM, stage 0, verifies stage 1, and stage 1 verifies stages 2 and 3 with the keys of its manifest; the images are those of
stages 1 to 3, and a stage without an image fails. -/
def execBoot (images : List BootImage) (s : State) : Result :=
  if s.boot.stage ≠ 0 ∨ s.boot.stopped then .next s
  else
    let none_ : BootImage := ⟨[], [], [], 0⟩
    let i (n : Nat) : BootImage := images.getD (n - 1) none_
    let ok (n : Nat) (d : BitVec 512) : Bool := decide (n ≤ images.length) && imageOk (i n) d
    .next ((((s.bootStage true Config.romCode).bootStage (ok 1 Config.fusedKeyDigest) (i 1).code).bootStage
      (ok 2 (Config.manifestKeyDigest (i 1).code 2)) (i 2).code).bootStage (ok 3 (Config.manifestKeyDigest (i 1).code 3)) (i 3).code)

/-! Attestation (R394). -/

/-- ATTCTL_GO: ignored while busy; a stopped boot gives no report. -/
def execAttctlGo (s : State) : Result :=
  if s.dev.attBusy then .next s
  else if s.boot.stopped then .next { s with dev := { s.dev with attSt := 3 } }
  else .next { s with dev := { s.dev with attBusy := true } }

/-- Bytes 0x000 to 0x16F of a report; a measurement's bytes stand in the digest's order (log entry 85). -/
def State.reportBody (s : State) (nonce : List Byte) : List Byte :=
  bytesOf 8 0x0000000100000200 ++ bytesOf 8 Config.devId ++ nonce ++ bytesOf 32 (Config.serial 0).toNat
    ++ ((List.range 4).map fun n => (bytesOf 64 (s.boot.measurements.getD n 0).toNat).reverse).flatten

/-- A report: its body, the identity key's signature over the body's digest, and zeros. The secret number of a signature is a free value
from 1 to the order less one (log entry 15). -/
def State.report (s : State) (nonce : List Byte) : List Byte :=
  let body := s.reportBody nonce
  let sig := ecdsaSign Config.identityKey (1 + Config.signatureNonce s.free % (curveN - 1)) (sha512 (body.map (·.toNat)))
  body ++ sig.map (BitVec.ofNat 8) ++ List.replicate 12 0

/-- ATTEST_DONE: the report is written to host-coherent memory, else st reads a write fault. -/
def execAttestDone (s : State) : Result :=
  if !s.dev.attBusy then .next s
  else
    let a := s.dev.attadr
    if a % 512 = 0 ∧ physHost a ∧ physValid (a + 511) then
      let bs := s.report (Memory.bytes s.mem (a + 0x10) 64)
      if ((Loc.phys a).span 512).any s.mustWait then .next s
      else
        .next { s.writeLocs (((Loc.phys a).span 512).zip bs) with free := s.free + 1, dev := { s.dev with attBusy := false, attSt := 0 } }
    else .next { s with dev := { s.dev with attBusy := false, attSt := 1 } }

end Sys2Proof.Machine
end

