-- ==== Sys2Proof/Machine/Fetch.lean ====
section
/-! DEFINITION. Fetching a path's words, and instruction breakpoints (R10, R11, R18, R130, R302, R375). -/

namespace Sys2Proof.Machine

/-- What a fetch gives. -/
inductive Fetched
  | instr (i : Instr)
  | reject (why : FetchReject)
  | wait
deriving DecidableEq, Repr

/-- The word at an address, as a path's fetch reads it; `none` holds the cause of a fault, 0 for a wait. -/
def State.fetchWord (s : State) (core : Nat) (sys : Bool) (pc : Nat) : Except Nat Nat :=
  match s.reach core ⟨sys, false, false⟩ pc with
  | .at_ l => .ok (s.readNum l 4)
  | .fault c => .error c
  | .absent => .error 4
  | .wait => .error 0

/-- The instruction at a path's PC. -/
def State.fetch (s : State) (pid : Nat) (p : Path) : Fetched :=
  match s.fetchWord (coreOf pid) p.sys p.pc with
  | .ok w =>
    (match decodeWave w with
     | .ok i => .instr i
     | .error _ => .reject (.word (BitVec.ofNat 32 w)))
  | .error 0 => .wait
  | .error c => .reject (.fetchFault c p.pc)

/-- A path's fetch of its word counted (R339). -/
def State.fetched (s : State) (pid : Nat) (p : Path) : State :=
  match s.reach (coreOf pid) ⟨p.sys, false, false⟩ p.pc with
  | .at_ l => s.dramTouch (l.span 4)
  | .fault _ | .absent | .wait => s

/-- The addresses of the words of the bundle that starts at an address, and whether the last one's page is moving, so that the words after
it are not known yet; `fuel` bounds its hint words. -/
def State.bundleWords (s : State) (core : Nat) (sys : Bool) : Nat → Nat → List Nat × Bool
  | 0, _ => ([], false)
  | fuel + 1, pc =>
    match s.fetchWord core sys pc with
    | .ok w =>
      if fld w 26 6 = 0x3F then let r := s.bundleWords core sys fuel ((pc + 4) % 2 ^ 49); (pc :: r.1, r.2) else ([pc], false)
    | .error c => ([pc], c == 0)

/-- The armed breakpoints that match a bundle, in ascending number. -/
def Cluster.breaksOn (k : Cluster) (words : List Nat) : List Nat :=
  (List.range 8).filter fun n => (tgetD Breakpoint.reset k.breaks n).en && words.contains (tgetD Breakpoint.reset k.breaks n).adr

/-- Matches counted. -/
def Cluster.countBreaks (k : Cluster) : List Nat → Cluster
  | [] => k
  | n :: ns =>
    let b := tgetD Breakpoint.reset k.breaks n
    ({ k with breaks := tset k.breaks n { b with hits := min (b.hits + 1) 0xFFFFFFFF } } : Cluster).countBreaks ns

/-- Whether breakpoints look at the bundle that a path is about to issue: of a user-mode path at a boundary, not exempt after an
eret, and not stepped (R375). -/
def State.breaksLook (s : State) (pid : Nat) (p : Path) : Bool :=
  let k := s.cluster (clusterOf (coreOf pid))
  !(p.sys || p.exempt || !p.hints.isEmpty || k.stepping == some pid || !k.breaks.any (·.2.en))

/-- The words of a bundle, however many hint words it has: no more than the address space holds (R11, R375; log entry 81). -/
def State.wholeBundle (s : State) (pid : Nat) (p : Path) : List Nat × Bool := s.bundleWords (coreOf pid) p.sys (2 ^ 47) p.pc

/-- The breakpoints that match the bundle that a path is about to issue. -/
def State.breakpoints (s : State) (pid : Nat) (p : Path) : List Nat :=
  if s.breaksLook pid p then (s.cluster (clusterOf (coreOf pid))).breaksOn (s.wholeBundle pid p).1 else []

/-- Whether a path waits for a page that moves before its breakpoints are known. -/
def State.breaksWait (s : State) (pid : Nat) (p : Path) : Bool := s.breaksLook pid p && (s.wholeBundle pid p).2

/-- A match: counted, and the trap 0x0E of the lowest breakpoint that matches, or the stop that it asks for, with the path left
at the bundle. -/
def State.breakAt (s : State) (pid : Nat) (p : Path) (ns : List Nat) : State :=
  let cl := clusterOf (coreOf pid)
  let k := s.cluster cl
  match ns with
  | [] => s
  | n :: _ =>
    let b := tgetD Breakpoint.reset k.breaks n
    if p.wait = .breakpoint ∧ k.stopping.isSome then s
    else
      let s1 := s.setCluster cl (k.countBreaks ns)
      if b.stp then
        (if k.stopping.isSome then s1 else s1.beginStop cl 0 0 0).onPath pid fun p => { p with st := .waiting, wait := .breakpoint }
      else s1.takeTrap pid 0x0E p.pc (BitVec.ofNat 64 b.adr) none

end Sys2Proof.Machine
end

