-- ==== Sys2Proof/Machine/Debug.lean ====
section
/-! DEFINITION. Stopping, stepping and resuming a cluster, holds and single-stepping, sampling and trace control (R357 to R361,
R364 to R372, R375, R379). -/

namespace Sys2Proof.Machine

/-! Stop and resume (R357, R358, R361, R371). -/

/-- The cores of a cluster. -/
def coresOf (cluster : Nat) : List Nat := [0, 1, 2, 3].map (4 * cluster + ·)

/-- The skid records that a stop writes on a core: one for each wave that is resident (R358). -/
def State.skidRecords (s : State) (core : Nat) : Sparse (Nat × Nat) :=
  (trange s.run.waves (32 * core) (32 * core + 32)).map fun w => (w.1 % 32, w.2.skid, w.2.last)

/-- Skid records of several cores written. -/
def State.writeSkids (s : State) : List Nat → State
  | [] => s
  | k :: ks => (s.setCore k { s.core k with skid := s.skidRecords k }).writeSkids ks

/-- CLUSTER_STOP (R357): at h + 12 the cluster stops; sleeps and waits stand still as of that cycle, skids are recorded, the host is
interrupted. -/
def execClusterStop (cluster : Nat) (s : State) : Result :=
  let k := s.cluster cluster
  match k.stopping with
  | none => .next s
  | some h =>
    if s.icc (4 * cluster) < h + 12 ∨ Config.clusters ≤ cluster then .next s
    else
      let s1 := s.mapPaths fun pid p =>
        if clusterOf (coreOf pid) == cluster && s.run.running && !s.run.halted then p.freeze (s.standsAt cluster) else p
      let s2 := (s1.setCluster cluster { k with stopped := true, stopping := none }).writeSkids (coresOf cluster)
      .next ((s2.interrupt (.clusterStopped cluster)).traceEvents 0 (fld k.whSrc.toNat 60 3) (coresOf cluster))

/-- DBGCTL_STOP (R371): a stop without a hit; a cluster that is stopping stays as it is, and one that is stopped keeps the stop for a
resume in the same cc. -/
def execDbgctlStop (cluster : Nat) (s : State) : Result :=
  let k := s.cluster cluster
  if k.stopping.isSome || decide (Config.clusters ≤ cluster) then .next s
  else if k.stopped then
    .next (s.setCluster cluster { k with asked := if k.asked.any fun a => a.1 == s.clk then k.asked else some (s.clk, 0, 0, 0) })
  else .next (s.beginStop cluster 0 0 0)

/-- A path as a resume leaves it: ready, or asleep with the count that it had. -/
def Path.resumed (p : Path) (now : Nat × Nat) : Path :=
  { p.thaw now with wait := if p.wait = .breakpoint then .none else p.wait, st := if p.wait = .breakpoint then .ready else p.st }

/-- DBGCTL_RESUME (R361, R371): a stop of the same cc follows the resume. -/
def execDbgctlResume (cluster : Nat) (s : State) : Result :=
  let k := s.cluster cluster
  if !k.stopped then .next s
  else
    let s1 := s.setCluster cluster { k with stopped := false, stepping := none, asked := none }
    let s2 :=
      if s1.run.halted then s1
      else s1.mapPaths fun pid p => if clusterOf (coreOf pid) == cluster then p.resumed (s.icc (4 * cluster), s.clk) else p
    let s3 := s2.traceEvents 2 0 (coresOf cluster)
    .next (match k.asked with
      | some (cc, src, adr, hlp) => if cc = s.clk then s3.beginStop cluster src adr.toNat hlp else s3
      | none => s3)

/-- A step that has run for 4,096 cycles ends without an issue, and its path stays at its bundle (R360). -/
def State.endStep (s : State) (cluster : Nat) : State :=
  let k := s.cluster cluster
  match k.stepping with
  | some pid =>
    if k.stepFrom + 4096 ≤ s.icc (4 * cluster) then
      (s.setCluster cluster { k with stepping := none, stepNoIssue := true }).onPath pid fun p => { p with pc := p.bundleStart, hints := [] }
    else s
  | none => s

/-- DBGCTL_STEP (R360, R371): the named path may issue its next bundle. -/
def execDbgctlStep (cluster core wave slot : Nat) (s0 : State) : Result :=
  let s := s0.endStep cluster
  let k := s.cluster cluster
  if !k.stopped || k.stepping.isSome || decide (4 ≤ core) || decide (32 ≤ wave) || decide (4 ≤ slot) then .next s
  else
    let pid := ((4 * cluster + core) * 32 + wave) * 4 + slot
    let s1 := s.setCluster cluster { k with
      stepping := some pid, stepFrom := s.icc (4 * cluster), dbgPath := BitVec.ofNat 9 (core * 128 + wave * 4 + slot) }
    let s2 := s1.onPath pid fun p => if p.wait = .breakpoint then { p with st := .ready, wait := .none } else p
    .next (s2.traceEvent (4 * cluster + core) 1 0)

/-- STEP_TIMEOUT (R360). -/
def execStepTimeout (cluster : Nat) (s : State) : Result := .next (s.endStep cluster)

/-- WHMORE_READ (R359). -/
def execWhmoreRead (cluster : Nat) (s : State) : Result :=
  let k := s.cluster cluster
  if Config.clusters ≤ cluster then .next s
  else .next { s.setCluster cluster { k with whMore := 0 } with hostData := bytesOf 4 k.whMore }

/-- WATCHPOINT_HITS_READ (R372). -/
def execWatchpointHitsRead (cluster n : Nat) (s : State) : Result :=
  let k := s.cluster cluster
  let w := tgetD Watchpoint.reset k.watch n
  if Config.clusters ≤ cluster ∨ 8 ≤ n then .next s
  else .next { s.setCluster cluster { k with watch := tset k.watch n { w with hits := 0 } } with hostData := bytesOf 4 w.hits }

/-- BREAKPOINT_HITS_READ (R375). -/
def execBreakpointHitsRead (cluster n : Nat) (s : State) : Result :=
  let k := s.cluster cluster
  let b := tgetD Breakpoint.reset k.breaks n
  if Config.clusters ≤ cluster ∨ 8 ≤ n then .next s
  else .next { s.setCluster cluster { k with breaks := tset k.breaks n { b with hits := 0 } } with hostData := bytesOf 4 b.hits }

/-! Holds and single-stepping (R368 to R370). -/

/-- A path's hold bit written: a held path's sleep stands still, and a released one is ready in the next cc. -/
def State.writeHold (s : State) (pid : Nat) (on : Bool) : State :=
  match s.path pid with
  | none => s
  | some p =>
    if p.hold = on then s
    else if on then
      s.setPath pid { p with
        hold := true,
        sleep := if p.sleep != 0 && s.clockRuns pid && s.run.running && !s.run.halted
          then p.readyAt + p.sleep - (s.standsAt (clusterOf (coreOf pid))).1 else p.sleep }
    else (s.setPath pid { p with hold := false, readyAt := s.icc (coreOf pid) + 1 }).settle pid

/-- DEBUG_HOLD_WRITE (R368, R369). -/
def execDebugHoldWrite (core wave : Nat) (bits : BitVec 4) (s : State) : Result :=
  if core < Config.cores ∧ wave < 32 then
    .next ([0, 1, 2, 3].foldl (fun t slot => t.writeHold ((32 * core + wave) * 4 + slot) (bits.getLsbD slot)) s)
  else .next s

/-- DEBUG_SS_WRITE (R368, R370). -/
def execDebugSsWrite (core wave : Nat) (bits : BitVec 4) (s : State) : Result :=
  if core < Config.cores ∧ wave < 32 then
    .next ([0, 1, 2, 3].foldl (fun t slot =>
      t.onPath ((32 * core + wave) * 4 + slot) fun p => { p with ss := bits.getLsbD slot }) s)
  else .next s

/-! Sampling (R364 to R367). -/

/-- What a path that would try to issue waits for at the shared checks. -/
def State.tryIssue (s : State) (pid : Nat) (p : Path) : WaitFor :=
  match s.fetch pid p with
  | .wait => .translation
  | .reject _ => .none
  | .instr i =>
    match gate i (fun _ _ => none) { s with cur := .path pid } with
    | .stay t => (match t.path pid with | some q => if q.st = .waiting then q.wait else .none | none => .none)
    | .go _ _ | .trap _ _ _ _ => .none

/-- What a path waits for in the sampled cc. -/
def State.waitsFor (s : State) (pid : Nat) (p : Path) : WaitFor :=
  match p.wait with
  | .none | .register _ | .counter _ => if p.sleep = 0 ∧ p.hints.isEmpty then s.tryIssue pid p else p.wait
  | w => w

/-- The first word of the bundle that another path of the pipe issued in this cc. -/
def State.slotTaken (s : State) (pid : Nat) : Nat :=
  match s.run.paths.find? fun e =>
    coreOf e.1 == coreOf pid && s.issueWave e.1 % 4 == s.issueWave pid % 4 && e.2.issuedAt == s.icc (coreOf pid)
      && e.2.readyAt == s.icc (coreOf pid) + 1 with
  | some e => e.2.lastFirst
  | none => 0

/-- A path's reason and the instruction to blame: the lowest code that applies (R366). -/
def State.reason (s : State) (pid : Nat) (p : Path) : Nat × Nat :=
  if p.issuedAt = s.icc (coreOf pid) ∧ p.readyAt = s.icc (coreOf pid) + 1 then (0, 0)
  else if p.st = .parkedRejoin ∨ p.st = .parkedMeeting then (10, 0)
  else
    match s.waitsFor pid p with
    | .register pc => (1, pc)
    | .data op => (1, match s.findOp op with | some o => o.pc | none => 0)
    | .waitc pc => (2, pc)
    | .counter pc => (3, pc)
    | .line pc => (4, pc)
    | .vault => (5, 0)
    | .translation => (6, 0)
    | .barrier _ => (7, 0)
    | .queue => (8, 0)
    | .loan => (9, 0)
    | .hold => (11, 0)
    | .arrival | .breakpoint => if p.hold then (13, 0) else ((Config.openReason s.free).toNat, 0)
    | .none => if p.sleep ≠ 0 then (11, 0) else if p.hold then (13, 0) else (12, s.slotTaken pid)

/-- A sample record (R365); the time since the last issue, or since the path became resident, is in reference cc (log entry 117). -/
def State.sampleRecord (s : State) (pid : Nat) (p : Path) : List Byte :=
  let r := s.reason pid p
  let from_ := (s.island (clusterOf (coreOf pid))).refAt (max p.issuedAt p.resident)
  bytesOf 8 (pid / 4 % 32 * 2 ^ 59 + pid % 4 * 2 ^ 57 + r.1 * 2 ^ 52 + p.bundleStart)
    ++ bytesOf 8 (min (s.clk - from_) 4095 * 2 ^ 52 + r.2) ++ bytesOf 12 p.mask.toNat ++ bytesOf 4 s.clk

/-- A record written to the core's ring, or dropped and counted (R367). -/
def State.writeSample (s : State) (core : Nat) (bs : List Byte) : State :=
  let k := s.core core
  let size := 4096 * 2 ^ k.smpLsz
  let lose := s.setCore core { k with smpDrop := min (k.smpDrop + 1) 0xFFFFFFFF }
  if size < k.smpWp + 32 - k.smpRp then lose
  else
    match s.writeVirtual core (k.smpBase + k.smpWp % size) bs with
    | some t => t.setCore core { t.core core with smpWp := k.smpWp + 32 }
    | none => lose

/-- The next resident wave after the one picked last, in ascending core wave slot. -/
def State.nextSampled (s : State) (core : Nat) : Option Nat :=
  let ws := (trange s.run.waves (32 * core) (32 * core + 32)).map fun w => w.1 % 32
  (ws.find? fun w => decide ((s.core core).smpLast < w)) <|> ws.head?

/-- STALL_SAMPLE (R364): at a period boundary, one record for each live path of the next wave. -/
def execStallSample (core : Nat) (s : State) : Result :=
  let k := s.core core
  if Config.cores ≤ core ∨ !k.smpEn ∨ k.smpPer = 0 ∨ s.clk % (16 * k.smpPer) ≠ 0 ∨ s.clusterStopped (clusterOf core) ∨ !s.run.running
      ∨ s.run.halted then .next s
  else
    match s.nextSampled core with
    | none => .next s
    | some w =>
      let recs := (s.pathsOf (32 * core + w)).map fun q => s.sampleRecord q.1 q.2
      let s1 := s.setCore core { k with smpLast := w }
      .next { recs.foldl (fun t bs => t.writeSample core bs) s1 with free := s.free + 1 }

/-- SMPCTL_WRITE (R367): setting en clears the pointers. -/
def execSmpctlWrite (core : Nat) (value : Word) (s : State) : Result :=
  let k := s.core core
  let v := value.toNat
  let sets := fld v 31 1 == 1 && !k.smpEn
  if core < Config.cores then
    .next (s.setCore core { k with
      smpEn := fld v 31 1 == 1, smpLsz := fld v 16 5, smpPer := fld v 0 16,
      smpWp := if sets then 0 else k.smpWp, smpRp := if sets then 0 else k.smpRp })
  else .next s

/-- SMPDROP_READ (R367). -/
def execSmpdropRead (core : Nat) (s : State) : Result :=
  let k := s.core core
  if Config.cores ≤ core then .next s
  else .next { s.setCore core { k with smpDrop := 0 } with hostData := bytesOf 4 k.smpDrop }

/-! Trace control (R379 to R383). -/

/-- TRCTL_WRITE: setting en clears TRWP, and every path owes a SYNC. -/
def execTrctlWrite (core : Nat) (value : Word) (s : State) : Result :=
  let k := s.core core
  let v := value.toNat
  let on := fld v 31 1 == 1
  if Config.cores ≤ core then .next s
  else if on && !k.trEn then
    .next ((s.setCore core { k with
      trEn := true, trWrap := fld v 30 1 == 1, trLsz := fld v 0 4, trWp := 0, trFull := false, trCount := 0, trLostPage := none,
      trOwed := 0 }).owePaths core true)
  else .next (s.setCore core { k with trEn := on, trWrap := fld v 30 1 == 1, trLsz := fld v 0 4 })

/-- TRSTAT_GAP_CLEAR. -/
def execTrstatGapClear (core : Nat) (s : State) : Result :=
  if core < Config.cores then .next (s.setCore core { s.core core with trGap := false }) else .next s

/-- TRLOST_READ. -/
def execTrlostRead (core : Nat) (s : State) : Result :=
  let k := s.core core
  if Config.cores ≤ core then .next s
  else .next { s.setCore core { k with trLost := 0 } with hostData := bytesOf 4 k.trLost }

end Sys2Proof.Machine
end

