-- ==== Sys2Proof/Machine/Dump.lean ====
section
/-! DEFINITION. Live dumps, with the layouts of the path table, the token pool, the tile table and a core's control page that
their images hold (R58, R202, R205, R235, R306, R358, R367, R368, R376 to R379). -/

namespace Sys2Proof.Machine

/-! Layouts. -/

/-- The low or the high 32 bits of a 64-bit register, by the offset of the word that is read. -/
def regPart (off v : Nat) : Nat := v / 2 ^ (off % 8 * 8) % 2 ^ 32

def regBit (b : Bool) (n : Nat) : Nat := if b then 2 ^ n else 0

/-- A path slot as R202 lays it out; a slot without a path reads its reset values, tok = 0x7F. -/
def pathEntry (p : Option Path) : List Byte :=
  match p with
  | none => List.replicate 20 0 ++ bytesOf 4 0x7F ++ List.replicate 8 0
  | some p =>
    bytesOf 8 p.pc ++ bytesOf 8 (p.mask.toNat % 2 ^ 64) ++ bytesOf 4 (p.mask.toNat / 2 ^ 64)
      ++ bytesOf 4 (2 ^ 31 + p.st.code * 2 ^ 28 + (if p.sys then 2 ^ 27 else 0) + p.flags.toNat * 2 ^ 16 + p.token.getD 0x7F)
      ++ bytesOf 8 0

/-- A pool entry as R205 lays it out; an empty one reads its reset values, par = 0x7F. -/
def tokenEntry (t : Option Token) : List Byte :=
  match t with
  | none => bytesOf 8 (0x7F * 2 ^ 49) ++ List.replicate 56 0
  | some t =>
      bytesOf 8 (2 ^ 63 + t.id * 2 ^ 56 + t.parent.getD 0x7F * 2 ^ 49 + t.rejoin)
      ++ bytesOf 8 (regBit t.forced 51 + regBit t.split 50 + regBit t.loop 49 + t.ppc)
      ++ bytesOf 16 t.mask.toNat ++ bytesOf 16 t.arrived.toNat ++ bytesOf 16 t.pmask.toNat

/-- A wave's path table and token pool: 0x0500 bytes. -/
def State.pathTable (s : State) (wid : Nat) : List Byte :=
  let pool := (s.tokensOf wid).filter fun t => !t.spilled
  ([0, 1, 2, 3].map fun k => pathEntry (s.path (4 * wid + k))).flatten ++ List.replicate 128 0
    ++ ((List.range 16).map fun i => tokenEntry pool[i]?).flatten

/-- A tile entry as R235 lays it out. -/
def tileEntry (t : Tile) : List Byte :=
  bytesOf 4 t.base ++ bytesOf 2 t.cols ++ bytesOf 2 t.rows ++ bytesOf 4 t.pitch ++ bytesOf 4 (regBit t.bdeck 31 + t.fmt)
    ++ bytesOf 4 (regBit t.defined 31 + t.st.code * 2 ^ 29 + regBit t.rel 28 + t.refs * 2 ^ 22 + 2 ^ 13 + t.own * 2 ^ 8 + t.tn)
    ++ bytesOf 12 0

/-- The 32-bit word of a core's control page at an offset from 0x0400 to 0x0BFF. -/
def State.pageWord (s : State) (core off : Nat) : Nat :=
  let k := s.core core
  if off = 0x400 then k.nevAct.toNat * 2 ^ 16 + k.nevEn.toNat * 2 ^ 8 + regBit k.nevFrz 0
  else if off = 0x404 then k.nevHit.toNat
  else if 0x440 ≤ off ∧ off < 0x460 then (tgetD 0 k.nevCnt ((off - 0x440) / 4)).toNat
  else if 0x460 ≤ off ∧ off < 0x480 then tgetD 0 k.nevWin ((off - 0x460) / 4)
  else if 0x480 ≤ off ∧ off < 0x4A0 then (tgetD 0 k.nevThr ((off - 0x480) / 4)).toNat
  else if off = 0x500 then k.wlim.toNat
  else if 0x600 ≤ off ∧ off < 0x800 then
    match tget k.skid ((off - 0x600) / 16) with
    | some r => if off % 16 = 0 then 2 ^ 31 + r.1 else if off % 16 = 4 then 0 else regPart off r.2
    | none => 0
  else if off = 0x800 then regBit k.smpEn 31 + k.smpLsz * 2 ^ 16 + k.smpPer
  else if off / 8 = 0x808 / 8 then regPart off k.smpBase
  else if off / 8 = 0x810 / 8 then regPart off k.smpWp
  else if off / 8 = 0x818 / 8 then regPart off k.smpRp
  else if off = 0x820 then k.smpDrop
  else if off = 0x900 then regBit k.trEn 31 + regBit k.trWrap 30 + k.trLsz
  else if off / 8 = 0x908 / 8 then regPart off k.trBase
  else if off / 8 = 0x910 / 8 then regPart off k.trWp
  else if off = 0x918 then regBit k.trGap 31 + regBit k.trFull 30
  else if off = 0x91C then k.trLost
  else if 0xA00 ≤ off ∧ off < 0xA80 then
    (s.pathsOf (32 * core + (off - 0xA00) / 4)).foldl (fun n q => n + regBit q.2.hold (q.1 % 4) + regBit q.2.ss (4 + q.1 % 4)) 0
  else 0

/-! The image (R378). -/

/-- A section: its kind, its core, its slot and its bytes. -/
structure Section where
  kind : Nat
  core : Nat
  slot : Nat
  bytes : List Byte
deriving DecidableEq, Repr

/-- A core's place as sr.core[6:0] gives it (R355); the model's core numbers are in that order. -/
def Section.encode (x : Section) : List Byte :=
  bytesOf 8 (x.kind + x.core * 2 ^ 8 + x.slot * 2 ^ 16) ++ bytesOf 8 x.bytes.length ++ x.bytes
    ++ List.replicate ((16 - x.bytes.length % 16) % 16) 0

/-- The mask of a wave's lowest-slot path. -/
def State.firstMask (s : State) (wid : Nat) : Lanes :=
  match s.pathsOf wid with
  | q :: _ => q.2.mask
  | [] => 0

/-- The sections of a wave. -/
def State.waveSections (s : State) (wid : Nat) (w : Wave) : List Section :=
  let mk (kind : Nat) (bs : List Byte) : Section := ⟨kind, wid / 32, wid % 32, bs⟩
  let scalar (r : Nat) : Word :=
    if r = 0 then 0 else if 93 ≤ r then maskWord (s.firstMask wid) (r - 93) else tgetD 0 s.run.sregs (skey wid r)
  [mk 1 ((List.range 96).map fun r => bytesOf 4 (scalar r).toNat).flatten,
    mk 2 ((List.range w.regCount).map fun v => ((List.range 96).map fun l =>
      bytesOf 4 (tgetD 0 s.run.vregs (vkey wid v l)).toNat).flatten).flatten,
    mk 3 (s.pathTable wid),
    mk 4 ((List.range 8).map fun k => bytesOf 12 (tgetD 0 s.run.kregs (kkey wid k)).toNat).flatten]

/-- The sections of a block, under the slot of its wave 0. -/
def State.blockSections (s : State) (bid : Nat) (b : Block) : List Section :=
  let mk (kind : Nat) (bs : List Byte) : Section := ⟨kind, b.core, b.first, bs⟩
  let rows := (List.range (min (b.awb.toNat + b.awl.toNat) 1024 - b.awb.toNat)).map (b.awb.toNat + ·)
  let own := ((trange s.run.tiles (bid / 32 * 128) (bid / 32 * 128 + 128)).filter fun t => t.2.own == bid % 32).map (·.2)
  let tiles := sortBy (fun a c => decide (a.tn ≤ c.tn)) own
  [mk 5 (s.readSpan (.sram b.core b.base) b.scratch),
    mk 6 (rows.map fun r => ((List.range Config.vaultCols).map fun c =>
      bytesOf 4 (tgetD 0 s.vault (vaultKey (bid / 32) r c)).toNat).flatten).flatten,
    mk 7 (tiles.map tileEntry).flatten]

/-- A core's control page from 0x0400 to 0x0BFF. -/
def State.coreSection (s : State) (core : Nat) : Section :=
  ⟨8, core, 0, ((List.range 512).map fun i => bytesOf 4 (s.pageWord core (0x400 + 4 * i))).flatten⟩

/-- The order of sections: core, then wave, then kind. -/
def Section.before (a b : Section) : Bool :=
  decide (a.core < b.core) || (a.core == b.core
    && (decide (a.slot < b.slot) || (a.slot == b.slot && decide (a.kind ≤ b.kind))))

/-- The image of the context: a header, then the sections. -/
def State.image (s : State) : List Byte :=
  let all := (s.run.waves.map fun w => s.waveSections w.1 w.2).flatten ++ (s.run.blocks.map fun b => s.blockSections b.1 b.2).flatten
    ++ s.contextCores.map s.coreSection
  let body := ((sortBy Section.before all).map Section.encode).flatten
  bytesOf 8 (32 + body.length) ++ bytesOf 8 s.dumpClk ++ bytesOf 8 all.length ++ bytesOf 8 0 ++ body

/-! Dumps (R376, R377). -/

/-- Bytes written at a virtual address in pieces of 4 KiB, up to the first that faults; whether all were written. -/
def State.writePieces (s : State) (va : Nat) : Nat → List Byte → State × Bool
  | 0, bs => (s, bs.isEmpty)
  | n + 1, bs =>
    if bs.isEmpty then (s, true)
    else
      match s.writeVirtual noCore va (bs.take 4096) with
      | some t => t.writePieces (va + 4096) n (bs.drop 4096)
      | none => (s, false)

/-- DUMPCTL_GO (R376, R377): the context halts, with helpers, killable waves and open regions as they stand. -/
def execDumpctlGo (s : State) : Result :=
  if s.dev.dumpBusy then .next s
  else if !s.run.running || s.run.halted then .next { s with dev := { s.dev with dumpSt := 1 } }
  else
    let s1 := s.haltPaths
    let s2 : State := { s1 with run := { s1.run with halted := true }, dev := { s1.dev with dumpBusy := true }, dumpClk := s.clk }
    .next (s2.traceEvents 5 0 s2.contextCores)

/-- DUMP_END (R377): once what a save waits for is complete, the image is written and every path is ready again; a pre-emption requested
meanwhile takes effect then. -/
def execDumpEnd (s : State) : Result :=
  if !s.dev.dumpBusy || !s.quiet then .next s
  else
    let bs := s.image
    let r : State × Nat :=
      if s.dev.dumplen < bs.length then (s, 2)
      else
        let w := s.writePieces s.dev.dumpadr (bs.length / 4096 + 1) bs
        (w.1, if w.2 then 0 else 3)
    let s1 : State := { r.1 with
      dev := { r.1.dev with dumpBusy := false, dumpSt := r.2, preempt := false }, run := { r.1.run with halted := false } }
    let s2 := s1.thawPaths.traceEvents 6 0 s1.contextCores
    .next (if s.dev.preempt && s.run.running then s2.haltContext else s2)

end Sys2Proof.Machine
end

