-- ==== Sys2Proof/Machine/Loan.lean ====
section
/-! DEFINITION. Lanes leaving and lane loans (R77, R81 to R85, R286, R292 to R294). -/

namespace Sys2Proof.Machine

/-! Exit (R77, R209). -/

/-- A wave's lanes removed from the mask of each of its paths, from every pending side and from every token. The lanes are idle from
this cycle on (R286). -/
def State.exitLanes (s : State) (wid : Nat) (m : Lanes) : State :=
  let now := s.icc (wid / 32)
  let s1 := s.setTokens wid ((s.tokensOf wid).map fun t =>
    { t with mask := t.mask &&& ~~~m, arrived := t.arrived &&& ~~~m, pmask := t.pmask &&& ~~~m })
  let s2 := (s1.clearQueries wid m).onWave wid fun w =>
    { w with live := w.live &&& ~~~m, idled := if w.idledAt = now then w.idled ||| m else m, idledAt := now }
  s2.mapPaths fun pid p => if !isHelper pid && pid / 4 == wid then { p with mask := p.mask &&& ~~~m } else p

/-- The pending loans of a wave whose recruiter lane is among those that exit ended without results (R299). -/
def State.exitLoans (s : State) (wid : Nat) (m : Lanes) : State :=
  (s.pathsOf wid).foldl (fun t q =>
    match q.2.loan with
    | some l => if m.getLsbD l.lane then t.dropLoan q.1 else t
    | none => t) s

/-- EXIT (R77). -/
def execExit (s : State) : Result :=
  issue .exit (fun c s =>
    if c.helper then
      match s.pendingLoad c.pid with
      | some pc => .wait s (.counter pc)
      | none => helperDone c (((s.commitLanes c.pid c.lanes)).releaseLanes c.pid 0 c.lanes)
    else .done ((s.exitLoans (c.pid / 4) c.p.mask).exitLanes (c.pid / 4) c.p.mask)) s

/-! Granting (R81, R286, R292, R293). -/

/-- Whether a path waits in bar.wait or bar.sync. -/
def Path.atBarrier (p : Path) : Bool :=
  p.st == .waiting && (match p.wait with | .barrier _ => true | _ => false)

/-- Whether a wave waits at a barrier, so that it may lend its waiting lanes (R87, R286). -/
def State.barrierWaits (s : State) (wid : Nat) : Bool :=
  (s.pathsOf wid).any fun q => q.2.atBarrier

/-- Lendable lanes of a wave: its idle lanes from the cycle after their exit, and those of its paths that wait at a barrier (R286). -/
def State.lendable (s : State) (wid : Nat) (w : Wave) : Lanes :=
  let waiting := ((s.pathsOf wid).filter fun q => q.2.atBarrier).foldl
    (fun m q => m ||| q.2.mask) 0#96
  let justIdle := if w.idledAt = s.icc (wid / 32) then w.idled else 0#96
  ((~~~w.live &&& ~~~justIdle) ||| waiting) &&& ~~~w.lent

/-- The waves of a core as R292 takes them: the recruiter's own first, then the others by core wave slot. -/
def State.lenders (s : State) (wid : Nat) : List (Nat × Wave) :=
  let all := trange s.run.waves (wid / 32 * 32) (wid / 32 * 32 + 32)
  (all.filter fun w => w.1 == wid) ++ all.filter fun w => w.1 != wid

/-- The waves that are not passed over, with the lanes each could lend (R292): each needs a helper-path entry and `regs`
registers of its pipe's pool. -/
def takers (s : State) (regs : Nat) (lanes : Nat → Wave → Lanes) :
    List (Nat × Wave) → (entries : Nat) → (used : Nat → Nat) → List (Nat × Lanes)
  | [], _, _ => []
  | (wid, w) :: ws, entries, used =>
    let m := lanes wid w
    let pipe := wid % 4
    if m = 0 ∨ entries = 0 ∨ s.poolFree (wid / 32) pipe < used pipe + regs then takers s regs lanes ws entries used
    else (wid, m) :: takers s regs lanes ws (entries - 1) (fun p => if p = pipe then used p + regs else used p)

/-- Free helper-path entries of a core, ascending (R292). -/
def State.freeHelpers (s : State) (core : Nat) : List Nat :=
  ((List.range 16).map fun e => helperBase + 16 * core + e).filter fun p => (s.helper p).isNone

/-- The waves that lend to a loan of `blocks` blocks of registers, in R292's order, with their lanes that `lanes` allows. -/
def State.loanWaves (s : State) (c : Ctx) (blocks : Nat) (lanes : Nat → Wave → Lanes) : List (Nat × Lanes) :=
  takers s (8 * blocks) lanes (s.lenders (c.pid / 4)) (s.freeHelpers c.core).length fun _ => 0

/-- Lendable lanes that refill leaves to a loan: none of a wave's while q0 holds an item, but for a wave that waits at a barrier (R293). -/
def State.freeLanes (s : State) (c : Ctx) (wid : Nat) (w : Wave) : Lanes :=
  if !(s.core c.core).q0.isEmpty && !s.barrierWaits wid then 0 else s.lendable wid w

/-- How many lanes a list of lending waves has. -/
def lanesLent (ws : List (Nat × Lanes)) : Nat := (ws.map fun t => (lanesOf t.2).length).sum

/-- The counts n1, n2 and n3 of R293. -/
def State.loanCounts (s : State) (c : Ctx) (blocks : Nat) : Nat × Nat × Nat :=
  let ws := s.loanWaves c blocks s.lendable
  (lanesLent ws, lanesLent (ws.filter fun t => (s.core c.core).q0.isEmpty || s.barrierWaits t.1), s.freeLoan c.core / 8)

/-- The grant and its reason from the three counts (R293). -/
def grantOf (asked : Nat) (n : Nat × Nat × Nat) : Nat × Nat :=
  let g := min asked (min n.2.1 n.2.2)
  (g, if g = asked then 0 else if n.2.2 < n.2.1 then 3 else if n.2.1 = n.1 then 1 else 2)

/-- sr.loanst (R82). -/
def loanstOf (granted asked reason nrep act : Nat) : Word :=
  BitVec.ofNat 32 (granted * 2 ^ 24 + min asked 255 * 2 ^ 16 + reason * 2 ^ 12 + nrep * 2 ^ 4 + act)

/-- One helper path started on lanes of a lending wave (R81, R292). -/
def State.startHelper (s : State) (c : Ctx) (hid wid : Nat) (m : Lanes) (entry blocks : Nat) : State :=
  (((s.clearQueries wid m).setHelper hid
      { recruiter := c.pid, lender := wid, lanes := m, iters := [], held := [], blocks := blocks }).setPath hid
        (Path.fresh entry m (c.now s + 1))).onWave wid fun w =>
    { w with lent := w.lent ||| m }

/-- Helper paths started until `left` lanes are taken (R292). -/
def State.startHelpers (s : State) (c : Ctx) (entry blocks : Nat) : List (Nat × Lanes) → List Nat → Nat → State
  | (wid, m) :: ws, hid :: hs, left =>
    if left = 0 then s
    else
      let take := (lanesOf m).take left
      (s.startHelper c hid wid (maskOf take) entry blocks).startHelpers c entry blocks ws hs
        (left - take.length)
  | _, _, _ => s

/-- The scalars that a loan's snapshot holds: s32 to s89 and s92 (R64, R81). -/
def State.snapshot (s : State) (c : Ctx) : Sparse Word :=
  ((List.range 128).filter snapshotReg).map fun r => (r, s.readS c.pid c.p r)

/-- LOAN (R81). -/
def execLoan (d a : BitVec 7) (g : BitVec 3) (y : BitVec 6) (s : State) : Result :=
  issue (.loan d a g y) (fun c s =>
    let asked := (s.readS c.pid c.p a.toNat).toNat
    let first := (s.readS c.pid c.p (a.toNat + 1)).toNat
    let last := (s.readS c.pid c.p (a.toNat + 2)).toNat
    let demand := (s.readS c.pid c.p (a.toNat + 3)).toNat
    let entry := c.target (widened c.pfx 6 y.toNat)
    let why :=
      if c.lanes.length ≠ 1 then 6
      else if c.p.loan.isSome then 5
      else if asked = 0 ∨ 96 < asked ∨ 16 < demand ∨ last ≤ first then 4 else 0
    if why ≠ 0 then
      .done ((s.writeS c.pid d.toNat 0).onPath c.pid fun p =>
        { p with flags := setFlag p.flags g true, loanst := loanstOf 0 asked why 0 0 })
    else
      let blocks := (demand + 7) / 8
      let entries := s.freeHelpers c.core
      let (grant, reason) := grantOf asked (s.loanCounts c blocks)
      let ln : Loan :=
        { lane := c.lanes.headD 0, next := first, last := last, pool := [], snapshot := s.snapshot c, entry := entry,
          demand := demand, repays := [], current := none, held := [], closing := false, dropped := 0 }
      let s1 := (s.writeS c.pid d.toNat (BitVec.ofNat 32 grant)).onPath c.pid fun p =>
        { p with
          flags := setFlag p.flags g (decide (grant < asked)), loan := some ln,
          loanst := loanstOf grant asked reason 0 1 }
      .done (s1.startHelpers c entry blocks (s.loanWaves c blocks (s.freeLanes c)) entries grant)) s

/-! Handing out iterations (R83). -/

/-- The next iteration of a loan: returned ones first, lowest first, then the counter's. -/
def Loan.take (l : Loan) : Option (Nat × Loan) :=
  match l.pool with
  | i :: rest => some (i, { l with pool := rest })
  | [] => if l.next < l.last then some (l.next, { l with next := l.next + 1 }) else none

/-- Each lane of a helper takes one iteration while there is one. A recruiter that waits in ldone does not end this: R85 makes ldone wait
for its helpers and does not say that they take no more (DESIGN CHOICE, log entry 108). -/
def State.serveLanes (s : State) (pid recruiter : Nat) : List Nat → State
  | [] => s
  | l :: ls =>
    match (s.path recruiter).bind (·.loan) with
    | none => s
    | some ln =>
      match ln.take with
      | none => s
      | some (i, ln) =>
        (((s.onPath recruiter fun p => { p with loan := some ln }).onHelper pid fun h =>
          { h with iters := tset h.iters l i })).serveLanes pid recruiter ls

/-- The lanes of a list that hold an iteration. -/
def State.servedLanes (s : State) (pid : Nat) (ls : List Nat) : List Nat :=
  match s.helper pid with
  | some h => ls.filter fun l => (tget h.iters l).isSome
  | none => []

/-- Whether iterations of a loan are held by helpers. -/
def State.helpersHold (s : State) (pid : Nat) : Bool :=
  s.run.helpers.any fun h => h.2.recruiter == pid && !h.2.iters.isEmpty

/-- The recruiter's previous iteration committed, with the contributions dropped added to those that its instruction has dropped before
(R83, R84). -/
def State.commitOwn (s : State) (pid : Nat) : State :=
  match (s.path pid).bind (·.loan) with
  | some l =>
    let r := (s.onPath pid fun p => { p with loan := some { l with current := none, held := [] } }).commitHeld true (ownerOf pid) pid l.held
    r.1.onPath pid fun p => { p with loan := p.loan.map fun l => { l with dropped := l.dropped + r.2 } }
  | none => s

/-- The contributions that a recruiter's lnext or ldone has dropped, which it counts as it completes (R60). -/
def State.droppedOf (s : State) (pid : Nat) : Nat := match (s.path pid).bind (·.loan) with | some l => l.dropped | none => 0

/-- An lnext of a recruiter completes: what it has dropped is counted, at its end and once (R60, R84). -/
def State.countDropped (s : State) (pid : Nat) : State :=
  let n := s.droppedOf pid
  if n = 0 then s
  else (s.onPath pid fun p => { p with loan := p.loan.map fun l => { l with dropped := 0 } }).countFor pid (dropEvents n)

/-- LNEXT (R83). -/
def execLnext (d : BitVec 7) (g : BitVec 3) (s : State) : Result :=
  issue (.lnext d g) (fun c s =>
    let give (s : State) (n : Nat) (f : Bool) : State :=
      (s.writeS c.pid d.toNat (BitVec.ofNat 32 n)).onPath c.pid fun p => { p with flags := setFlag p.flags g f }
    match s.helper c.pid with
    | some h =>
      match s.pendingLoad c.pid with
      | some pc => .wait s (.counter pc)
      | none =>
        let s1 := (s.commitLanes c.pid c.lanes).serveLanes c.pid h.recruiter c.lanes
        let served := s1.servedLanes c.pid c.lanes
        helperDone c ((give s1 served.length (!served.isEmpty)).releaseLanes c.pid 0
          (c.lanes.filter fun l => !served.contains l))
    | none =>
      match c.p.loan with
      | none => .done (give s 0 false)
      | some _ =>
        let s1 := s.commitOwn c.pid
        match ((s1.path c.pid).bind (·.loan)).bind Loan.take with
        | some (i, l) =>
          .done ((give (s1.onPath c.pid fun p => { p with loan := some { l with current := some i } }) i true).countDropped c.pid)
        | none => if s1.helpersHold c.pid then .wait s1 .loan else .done ((give s1 0 false).countDropped c.pid)) s

/-! Repay registers (R84, R85). -/

/-- Whether a repay fits its loan's repay registers: the same op and type as before, and at most four registers. -/
def Loan.fits (l : Loan) (reg : Nat) (r : RedOp) (t : RepayTy) : Bool :=
  match l.repays.find? fun x => x.reg == reg with
  | some x => x.red == r && x.ty == t
  | none => decide (l.repays.length < 4)

/-- A loan with a repay register in use. -/
def Loan.useReg (l : Loan) (reg : Nat) (r : RedOp) (t : RepayTy) : Loan :=
  if l.repays.any fun x => x.reg == reg then l else { l with repays := l.repays ++ [⟨reg, r, t, []⟩] }

/-- Contributions of a helper's lanes taken into escrow. -/
def State.holdRepays (s : State) (pid reg : Nat) : List (Nat × Word) → State
  | [] => s
  | (l, v) :: ls => (s.holdEntry pid l (.repay reg v)).holdRepays pid reg ls

/-- REPAY (R84). -/
def execRepay (d a : BitVec 7) (r : RedOp) (t : RepayTy) (s : State) : Result :=
  issue (.repay d a r t) (fun c s =>
    let rec_ := match s.helper c.pid with | some h => h.recruiter | none => c.pid
    match (s.path rec_).bind (·.loan) with
    | none => .outOfContext
    | some l =>
      if !l.fits d.toNat r t then .outOfContext
      else if c.lanes.isEmpty then .done s
      else
        let values := c.lanes.map fun x => (x, s.readV c.pid a.toNat x)
        let l := l.useReg d.toNat r t
        let s1 := s.onPath rec_ fun p =>
          { p with
            loan := some l,
            loanst := (p.loanst &&& ~~~0xF0#32) ||| BitVec.ofNat 32 (l.repays.length * 16) }
        if c.helper then helperDone c (s1.holdRepays c.pid d.toNat values)
        else
          .done (s1.onPath c.pid fun p =>
            { p with loan := some { l with held := l.held ++ values.map fun v => .repay d.toNat v.2 } })) s

/-- The value that ldone writes to a repay register, and its events (R85). -/
def Repay.result (r : Repay) (old : Word) : Word × Events :=
  let all := old :: r.values
  match r.red with
  | .add | .addDet =>
    if r.ty = .f32 then binnedSum false all else (all.foldl (· + ·) 0, evNone)
  | .min => (r.values.foldl (fun a b => match r.ty with
      | .f32 => minmax32 false false a b
      | .i32 => BitVec.ofNat 32 (if a.toInt ≤ b.toInt then a.toNat else b.toNat)
      | .n32 => BitVec.ofNat 32 (min a.toNat b.toNat)) old, evNone)
  | .max => (r.values.foldl (fun a b => match r.ty with
      | .f32 => minmax32 true false a b
      | .i32 => BitVec.ofNat 32 (if a.toInt ≤ b.toInt then b.toNat else a.toNat)
      | .n32 => BitVec.ofNat 32 (max a.toNat b.toNat)) old, evNone)
  | .and => (all.foldl (· &&& ·) (BitVec.allOnes 32), evNone)
  | .or => (all.foldl (· ||| ·) 0, evNone)
  | .xor => (all.foldl (· ^^^ ·) 0, evNone)

/-- Whether a loan still has helpers, or committed stores that are not performed (R85, R329). -/
def State.loanBusy (s : State) (pid : Nat) : Bool :=
  !(s.helpersWhere fun h => h.recruiter == pid).isEmpty || s.ops.any fun o => !o.done && o.cls == .held && o.pid == pid

/-- LDONE (R85). It ends once every helper is released, every committed store is performed (R329), and no load will write a repay
register any more (R135); its events and those of contributions that it drops make one trap (R60). -/
def execLdone (s : State) : Result :=
  issue .ldone (fun c s =>
    match c.p.loan with
    | none => .done s
    | some l =>
      let s0 := s.onPath c.pid fun p => { p with loan := some { l with closing := true } }
      match s.registersPending c.owner ⟨l.repays.map fun r => (r.reg, 1), [], [], []⟩ with
      | some pc => .wait s0 (.register pc)
      | none =>
        if s.loanBusy c.pid then .wait s0 .loan
        else
          let s1 := s0.commitOwn c.pid
          if s1.loanBusy c.pid then .wait s1 .loan
          else
            match (s1.path c.pid).bind (·.loan) with
            | none => .done s1
            | some l =>
              let results := l.repays.map fun r => (r.reg, r.result (s1.readV c.pid r.reg l.lane))
              let evs := results.map (·.2.2)
              let s2 := results.foldl (fun t x => t.writeV c.pid x.1 l.lane x.2.1) s1
              .done ((s2.onPath c.pid fun p =>
                { p with loan := none, loanst := p.loanst &&& ~~~loanstAct }).countFor c.pid fun k =>
                  laneCount evs k + dropEvents (s1.droppedOf c.pid) k)) s

end Sys2Proof.Machine
end

