-- ==== Sys2Proof/Machine/Pages.lean ====
section
/-! DEFINITION. Reading and writing the control pages, by the host and by waves, and the host's accesses to memory (R8, R58, R202,
R205, R235, R263, R278, R281, R303, R317, R337, R347, R358, R359, R367, R368, R371, R372, R375, R376, R379, R387, R388, R392, R394). -/

namespace Sys2Proof.Machine

/-! What a register reads (R8): reserved fields are zero. -/

/-- The state of a clearing context as CLSTAT codes it (R347). -/
def ClearState.code : ClearState → Nat
  | .idle => 0
  | .running => 1
  | .parked => 2
  | .halted => 3
  | .faulted => 4
  | .stopped => 5

/-- A word of a command ring's registers (R263). -/
def Ring.word (r : Ring) (off : Nat) : Nat :=
  if off < 8 then regPart off r.desc
  else if off = 8 then r.notTail.toNat
  else if off = 0xC then regBit r.stp 31 + r.cause * 2 ^ 16
  else if off < 0x18 then regPart off r.err
  else 0

/-- A word of a clearing context's registers (R347). -/
def Clear.word (c : Clear) (off : Nat) : Nat :=
  if off < 8 then regPart off c.desc
  else if off = 8 then regBit c.hie 29
  else c.st.code * 2 ^ 29 + regBit c.irq 28 + c.cause * 2 ^ 16 + c.statPc % 4096

/-- An island's register (R388). -/
def Island.word (i : Island) : Nat := i.tj * 2 ^ 32 + i.hr * 2 ^ 24 + i.mhz * 2 ^ 12 + i.mv

/-- A word of the device's own registers in the device control page. -/
def Device.word (d : Device) (off : Nat) : Nat :=
  let at_ (base v : Nat) (k : Nat) : Nat := if off / 8 = base / 8 then regPart off v else k
  if off = 0x300 then d.cqdrop
  else if off = 0x318 then regBit d.tqEn 31 + d.tqLseg
  else if off = 0x350 then regBit d.tlbBusy 0
  else if off = 0x368 then regBit d.migEn 31 + d.migUp * 2 ^ 16 + d.migDn * 2 ^ 8 + d.migRate
  else if off = 0x380 then d.migstat % 2 ^ 32
  else if off = 0xC10 then regBit d.dumpBusy 30 + d.dumpSt * 2 ^ 16
  else if off = 0xD00 then regBit d.rasEn 31 + regBit d.rasIrq 30
  else if off = 0xD10 then d.rasce
  else if off = 0xD14 then d.rasue
  else if off = 0xF80 then Config.devId
  else if off = 0xF88 then regBit d.attBusy 30 + d.attSt * 2 ^ 16
  else
    at_ 0x310 d.tqbase <| at_ 0x320 d.fgbase <| at_ 0x340 d.ptroot <| at_ 0x348 d.tlbinv.toNat <| at_ 0x358 d.hotbase <|
      at_ 0x360 d.rmapbase <| at_ 0x370 d.poolh <| at_ 0x378 d.pooll <| at_ 0x390 d.tvec <| at_ 0xC00 d.dumpadr <|
      at_ 0xC08 d.dumplen <| at_ 0xD08 d.raslog <| at_ 0xF90 d.attadr 0

/-- A word of the device control page. -/
def State.deviceWord (s : State) (off : Nat) : Nat :=
  if 0x200 ≤ off ∧ off < 0x300 then (s.ring ((off - 0x200) / 32)).word (off % 32)
  else if 0x800 ≤ off ∧ off < 0xC00 then (s.clear ((off - 0x800) / 16)).word (off % 16)
  else if 0xE00 ≤ off ∧ off < 0xF40 then regPart off (s.island ((off - 0xE00) / 8)).word
  else s.dev.word off

/-- A word of the hit record and of DBGCTL (R359, R371). -/
def State.debugWord (s : State) (cluster off : Nat) : Nat :=
  let k := s.cluster cluster
  if off < 0x9008 then regPart off k.whClk
  else if off < 0x9010 then regPart off k.whSrc.toNat
  else if off < 0x9018 then regPart off k.whAdr.toNat
  else if off = 0x9018 then k.whMore
  else if off = 0x9020 then k.whHlp.toNat
  else if off = 0x9040 then
    let late := decide (k.stepFrom + 4096 ≤ s.icc (4 * cluster))
    regBit (s.clusterStopped cluster) 28 + regBit (k.stepping.isSome && !late) 27 + regBit (k.stepNoIssue || (k.stepping.isSome && late)) 26
      + k.dbgPath.toNat
  else 0

/-- A word of a watchpoint or a breakpoint (R372, R375). -/
def Watchpoint.word (w : Watchpoint) (off : Nat) : Nat :=
  if off < 8 then regPart off w.adr.toNat else if off = 8 then w.ctl.toNat else if off = 0x10 then w.hits else 0

def Breakpoint.word (b : Breakpoint) (off : Nat) : Nat :=
  if off < 8 then regPart off b.adr else if off = 8 then regBit b.en 31 + regBit b.stp 30 else b.hits

/-- Four bytes of a layout, from an offset. -/
def wordOf (bs : List Byte) (off : Nat) : Nat := numOf ((bs.drop off).take 4)

/-- A word of a cluster's control page: its tile table, its hit record and DBGCTL, its watchpoints and breakpoints. -/
def State.clusterWord (s : State) (cluster off : Nat) : Nat :=
  let k := s.cluster cluster
  if 0x8000 ≤ off ∧ off < 0x9000 then
    match tget s.run.tiles (cluster * 128 + (off - 0x8000) / 32) with
    | some t => wordOf (tileEntry t) (off % 32)
    | none => 0
  else if 0x9000 ≤ off ∧ off < 0x9100 then s.debugWord cluster off
  else if 0x9100 ≤ off ∧ off < 0x9200 then (tgetD Watchpoint.reset k.watch ((off - 0x9100) / 32)).word (off % 32)
  else if 0x9200 ≤ off ∧ off < 0x9280 then (tgetD Breakpoint.reset k.breaks ((off - 0x9200) / 16)).word (off % 16)
  else 0

/-- A word of a core's control page: its registers, and the path tables and token pools of its waves (R202, R205). -/
def State.corePageWord (s : State) (core off : Nat) : Nat :=
  if 0x4000 ≤ off ∧ off < 0x14000 then wordOf (s.pathTable (32 * core + (off - 0x4000) / 0x800)) (off % 0x800)
  else if 0x400 ≤ off ∧ off < 0xC00 then s.pageWord core off
  else 0

/-- The word that a register holds. -/
def State.registerWord (s : State) (page : CtlPage) (index off : Nat) : Nat :=
  match page with
  | .dev => s.deviceWord off
  | .core => s.corePageWord index off
  | .cluster => s.clusterWord index off

/-- Whether a control page exists. -/
def pageExists (page : CtlPage) (index : Nat) : Bool :=
  match page with
  | .dev => true
  | .core => decide (index < Config.cores)
  | .cluster => decide (index < Config.clusters)

/-- A word of a control page read, of 32 bits at any offset; a write acts on a whole register at its own offset (log entry 132). A register
that reading clears has its own event (R8). -/
def execRegisterRead (page : CtlPage) (index off : Nat) (s : State) : Result :=
  let plain : Result := .next { s with hostData := bytesOf 4 (s.registerWord page index off) }
  if !pageExists page index then .next s
  else
    match page with
    | .dev =>
      if off = 0x300 then execCqdropRead s
      else if off = 0x380 then execMigstatRead s
      else if off = 0xD10 then execRasceRead s
      else if off = 0xD14 then execRasueRead s
      else plain
    | .core => if off = 0x820 then execSmpdropRead index s else if off = 0x91C then execTrlostRead index s else plain
    | .cluster =>
      if off = 0x9018 then execWhmoreRead index s
      else if 0x9100 ≤ off ∧ off < 0x9200 ∧ off % 32 = 0x10 then execWatchpointHitsRead index ((off - 0x9100) / 32) s
      else if 0x9200 ≤ off ∧ off < 0x9280 ∧ off % 16 = 0xC then execBreakpointHitsRead index ((off - 0x9200) / 16) s
      else plain

/-! Writes, those of registers with behaviour of their own among them. -/

/-- One thing after another. -/
def andThen (r : Result) (f : State → Result) : Result :=
  match r with
  | .next t => f t
  | .fault x => .fault x
  | .refused x => .refused x

/-- What a write of 1 to a bit does, where it is written. -/
def whenBit (v bit : Nat) (f : State → Result) (s : State) : Result := if fld v bit 1 = 1 then f s else .next s

/-- A write to the device control page. -/
def writeDevicePage (off v : Nat) (s : State) : Result :=
  let n := (off - 0x200) / 32
  let cid := (off - 0x800) / 16
  let plain (s : State) : Result := execRegisterWrite .dev 0 off (BitVec.ofNat 64 v) s
  if 0x200 ≤ off ∧ off < 0x300 then
    (if off % 32 = 0 then execCqdescWrite n (bitsAt v 0 49) s
     else if off % 32 = 8 then execCqnotWrite n (BitVec.ofNat 32 v) false s
     else if off % 32 = 0xC then whenBit v 31 (execCqstatResume n) s
     else .next s)
  else if 0x800 ≤ off ∧ off < 0xC00 ∧ off % 16 = 8 then
    andThen (andThen (plain s) (whenBit v 31 (execClctlLoad cid))) (whenBit v 30 (execClctlStop cid))
  else if 0x800 ≤ off ∧ off < 0xC00 ∧ off % 16 = 0xC then whenBit v 28 (execClstatIrqClear cid) s
  else if off = 0x340 then execPtrootWrite (BitVec.ofNat 64 v) s
  else if off = 0x348 then execTlbinvWrite (BitVec.ofNat 64 v) s
  else if off = 0xC10 then whenBit v 31 execDumpctlGo s
  else if off = 0xF88 then whenBit v 31 execAttctlGo s
  else plain s

/-- A write to a core's control page. -/
def writeCorePage (core off v : Nat) (s : State) : Result :=
  let wave := (off - 0xA00) / 4
  if off = 0x404 then execNevstatClear core (BitVec.ofNat 8 v) s
  else if 0x460 ≤ off ∧ off < 0x480 then execNevwinWrite core ((off - 0x460) / 4) v s
  else if off = 0x800 then execSmpctlWrite core (BitVec.ofNat 32 v) s
  else if off = 0x900 then execTrctlWrite core (BitVec.ofNat 32 v) s
  else if off = 0x918 then whenBit v 31 (execTrstatGapClear core) s
  else if 0xA00 ≤ off ∧ off < 0xA80 then
    andThen (execDebugHoldWrite core wave (BitVec.ofNat 4 v) s) (execDebugSsWrite core wave (BitVec.ofNat 4 (v / 16)))
  else if 0x4000 ≤ off ∧ off < 0x14000 ∧ off % 0x800 < 0x80 ∧ off % 32 = 0x14 then
    whenBit v 26 (execPathForceMerge (4 * (32 * core + (off - 0x4000) / 0x800) + off % 0x800 / 32)) s
  else execRegisterWrite .core core off (BitVec.ofNat 64 v) s

/-- A write to a cluster's control page: of DBGCTL the resume acts first, then the stop, then the step (R371). -/
def writeClusterPage (cluster off v : Nat) (s : State) : Result :=
  let plain : Result := execRegisterWrite .cluster cluster off (BitVec.ofNat 64 v) s
  if off = 0x9040 then
    andThen (andThen (andThen plain (whenBit v 30 (execDbgctlResume cluster))) (whenBit v 31 (execDbgctlStop cluster)))
      (whenBit v 29 (execDbgctlStep cluster (fld v 7 2) (fld v 2 5) (fld v 0 2)))
  else plain

/-- A register of a control page written. -/
def writeControlPage (page : CtlPage) (index off : Nat) (value : DWord) (s : State) : Result :=
  if !pageExists page index then .next s
  else
    match page with
    | .dev => writeDevicePage off value.toNat s
    | .core => writeCorePage index off value.toNat s
    | .cluster => writeClusterPage index off value.toNat s

/-- A path's access to a control page: system mode reaches it, and user mode takes 0x05 (R58). No instruction of the spec names it (log
entry 113). -/
def pathAccess (pid : Nat) (body : State → Result) (s : State) : Result :=
  match s.path pid with
  | none => .next s
  | some p =>
    if !s.mayIssue pid p then .next s
    else if p.sys then body s
    else .next (s.takeFree.takeTrap pid 0x05 p.bundleStart s.openAux none)

/-- A read of a control page by a path: the word goes to a scalar register of the path (log entry 113), and the host's last read stays. -/
def pathReads (pid dest : Nat) (page : CtlPage) (index off : Nat) (s : State) : Result :=
  pathAccess pid (fun s =>
    andThen (execRegisterRead page index off s) fun t =>
      let u : State := { t with hostData := s.hostData }
      .next (if dest < 96 then u.writeS pid dest (BitVec.ofNat 32 (numOf t.hostData)) else u)) s

/-! The host's accesses to memory (R317). -/

/-- The places of a host access; none where a byte cannot be reached. -/
def State.hostPlaces (s : State) (virtual write : Bool) (a n : Nat) : Option (List Loc) :=
  let f : Reacher := if virtual then s.reachDev else reachPhys
  (List.range n).foldr (fun i acc =>
    match f write (a + i), acc with
    | .at_ l, some ls => some (l :: ls)
    | _, _ => none) (some [])

/-- HOST_MEMORY_ACCESS (R58, R317): an access to memory that reaches a line owned by an engine, or a row under assay, happens later. -/
def execHostMemoryAccess (a : HostAccess) (s : State) : Result :=
  match a with
  | .read v addr len =>
    (match s.hostPlaces v false addr len with
     | some ls =>
       if ls.any s.mustWait then .next s else .next { s.dramTouch ls with hostData := ls.map fun l => (s.readLoc l).getD 0 }
     | none => .next s)
  | .write v addr bytes =>
    (match s.hostPlaces v true addr bytes.length with
     | some ls => if ls.any s.mustWait then .next s else .next ((s.writeLocs (ls.zip bytes)).dramTouch ls)
     | none => .next s)
  | .registerRead page index off => execRegisterRead page index off s
  | .pathRead pid dest page index off => pathReads pid dest page index off s
  | .pathWrite pid page index off value => pathAccess pid (writeControlPage page index off value) s

end Sys2Proof.Machine
end

