-- ==== Sys2Proof/Machine/Sync.lean ====
section
/-! DEFINITION. Barriers, waits and claims of registers (R86 to R89, R91, R275). -/

namespace Sys2Proof.Machine

/-! Barriers (R86, R87). -/

/-- Whether the wave's arrival at a barrier is pending. -/
def State.pendingArrival (s : State) (wid n : Nat) : Bool :=
  match s.wave wid with
  | some w => w.arrivals.getLsbD n
  | none => false

/-- A wave's arrival counted, and the phase completed if it was the last (R86, R87). -/
def State.arriveAt (s : State) (wid n : Nat) : State :=
  match s.wave wid with
  | none => s
  | some w =>
    ((s.setWave wid { w with arrivals := w.arrivals ||| (1#16 <<< n) }).onBlock w.block fun b =>
      { b with barriers := tset b.barriers n { b.barrier n with count := (b.barrier n).count + 1 } }).checkPhases w.block

/-- A wave's count seen of a barrier raised by one. -/
def State.seeNext (s : State) (wid n : Nat) : State :=
  s.onWave wid fun w => { w with seen := tset w.seen n (tgetD 0 w.seen n + 1) }

/-- Whether ph ≥ seen, compared modulo 2^32 within 2^31 (R87). -/
def phaseReached (ph seen : Word) : Bool := !(ph - seen).msb

/-- Whether the phase that a wave waits for is complete. -/
def State.phaseSeen (s : State) (wid n : Nat) : Bool :=
  match s.wave wid with
  | some w =>
    (match s.block w.block with
     | some b => phaseReached (b.barrier n).phase (tgetD 0 w.seen n)
     | none => true)
  | none => true

/-- The path's wait at this barrier instruction has been counted; it is not counted again while it waits (R96). -/
def State.countedHere (s : State) (c : Ctx) : State := s.onPath c.pid fun p => { p with arrivedAt := some c.p.pc }

/-- The bundle of a bar.sync counted as issued where its wait begins, in the cc of its arrival (R358, R363; log entry 90). -/
def State.beginWait (s : State) (c : Ctx) : State :=
  ((s.countBundle c).issued c.pid).onPath c.pid fun p => { p with issuedAt := c.now s, lastFirst := c.first, begun := true }

/-- Goes on if the phase is complete, else waits. -/
def awaitPhase (c : Ctx) (n : Nat) (s : State) : Fate :=
  if s.phaseSeen (c.pid / 4) n then .done s else .wait s (.barrier n)

/-- BAR_ARRIVE (R87). The arrival is a release at block scope: the wave's earlier loads and atomics are performed, and its earlier
stores are visible in the block (R328). -/
def execBarArrive (n : BitVec 4) (s : State) : Result :=
  issue (.barArrive n) (fun c s =>
    if s.pendingArrival (c.pid / 4) n.toNat then .wait s .arrival
    else
      match s.unfenced c.pid 14 with
      | some pc => .wait s (.counter pc)
      | none => .done ((s.showIn c.pid .block).arriveAt (c.pid / 4) n.toNat)) s

/-- BAR_WAIT (R87). -/
def execBarWait (n : BitVec 4) (s : State) : Result :=
  issue (.barWait n) (fun c s =>
    awaitPhase c n.toNat
      (if c.p.arrivedAt = some c.p.pc then s else (s.countedHere c).seeNext (c.pid / 4) n.toNat)) s

/-- BAR_SYNC (R87, R96). It waits in bar.sync for the path's own loads and atomics too, before its arrival is counted (R286, R328). -/
def execBarSync (n : BitVec 4) (s : State) : Result :=
  issue (.barSync n) (fun c s =>
    if c.p.arrivedAt = some c.p.pc then awaitPhase c n.toNat s
    else if s.pendingArrival (c.pid / 4) n.toNat then .wait s (.barrier n.toNat)
    else
      match s.unfenced c.pid 14 with
      | some _ => .wait s (.barrier n.toNat)
      | none =>
        let t := (((s.showIn c.pid .block).countedHere c).arriveAt (c.pid / 4) n.toNat).seeNext (c.pid / 4) n.toNat
        awaitPhase c n.toNat (if t.phaseSeen (c.pid / 4) n.toNat then t else t.beginWait c)) s

/-! Waits (R88, R89). -/

/-- WAIT_C (R88). -/
def execWaitC (l st : BitVec 6) (cp tl : BitVec 4) (s : State) : Result :=
  issue (.waitC l st cp tl) (fun c s =>
    if l.toNat < s.counter c.owner .ld then .wait s (.waitc (s.oldest c.owner .ld))
    else if st.toNat < s.counter c.owner .st then .wait s (.waitc (s.oldest c.owner .st))
    else if cp.toNat < s.counter c.owner .cp then .wait s (.waitc (s.oldest c.owner .cp))
    else if tl.toNat < s.counter c.owner .tl then .wait s (.waitc (s.oldest c.owner .tl))
    else .done s) s

/-- SLEEP (R20, R89). -/
def execSleep (n : BitVec 16) (s : State) : Result :=
  issue (.sleep n) (fun c s =>
    .done (s.onPath c.pid fun p => { p with sleep := c.pfx.headD 0 * 2 ^ 16 + n.toNat })) s

/-- YIELD (R89). -/
def execYield (s : State) : Result :=
  issue .yield (fun c s => .done (s.onPath c.pid fun p => { p with passOver := true })) s

/-- NOP (R89). -/
def execNop (s : State) : Result := issue .nop (fun _ s => .done s) s

/-! Claims (R91, R275). -/

/-- Registers added to a wave; they read zero (R91). -/
def State.addRegs (s : State) (wid n : Nat) : State :=
  match s.wave wid with
  | none => s
  | some w =>
    let s1 := s.setWave wid { w with regCount := w.regCount + n }
    { s1 with run := { s1.run with
        vregs := tdrop s1.run.vregs (vkey wid w.regCount 0) (vkey wid (w.regCount + n) 0) } }

/-- Claims that wait on a pipe, in the order they issued. -/
def Core.waitingClaims (k : Core) (pipe : Nat) : List Claim := (k.claims.filter fun c => c.1 == pipe).map (·.2)

/-- The register count of a path's wave. -/
def State.regCountOf (s : State) (wid : Nat) : Nat :=
  match s.wave wid with
  | some w => w.regCount
  | none => 0

/-- Whether a claim can be granted at once. -/
def State.canClaim (s : State) (wid n : Nat) : Bool :=
  ((s.core (wid / 32)).waitingClaims (wid % 4)).isEmpty && decide (n ≤ s.poolFree (wid / 32) (wid % 4))

/-- CLAIM (R91). -/
def execClaim (nb : Bool) (g : BitVec 3) (k : BitVec 5) (s : State) : Result :=
  issue (.claim nb g k) (fun c s =>
    let wid := c.pid / 4
    let n := 8 * k.toNat
    let flag (s : State) (v : Bool) : State := s.onPath c.pid fun p => { p with flags := setFlag p.flags g v }
    if 128 < s.regCountOf wid + n then .trapOpen 0x02
    else if s.canClaim wid n then .done (if nb then flag (s.addRegs wid n) true else s.addRegs wid n)
    else if nb then .done (flag s false)
    else if (s.core c.core).claims.any fun q => q.2.pid == c.pid then .wait s .hold
    else
      .wait (s.setCore c.core { s.core c.core with claims := (s.core c.core).claims ++ [(wid % 4, ⟨c.pid, n⟩)] }) .hold) s

/-- GIVEBACK (R91). -/
def execGiveback (k : BitVec 5) (s : State) : Result :=
  issue (.giveback k) (fun c s =>
    let wid := c.pid / 4
    let n := 8 * k.toNat
    let count := s.regCountOf wid
    if count < n + 8 then .trapOpen 0x02
    else
      match s.registersPending c.owner ⟨[], [(count - n, n)], [], []⟩ with
      | some pc => .wait s (.register pc)
      | none =>
        let s1 := s.onWave wid fun w => { w with regCount := count - n }
        .done { s1 with run := { s1.run with
          vregs := tdrop s1.run.vregs (vkey wid (count - n) 0) (vkey wid count 0) } }) s

/-- CLAIM_GRANT (R275): the first claim waiting on a pipe is granted once the pool has its registers and no hold keeps its path at the
claim (R369); one that has come to take its wave's count above 128 raises 0x02 (R91). -/
def execClaimGrant (core pipe : Nat) (s : State) : Result :=
  match (s.core core).waitingClaims pipe with
  | [] => .next s
  | q :: _ =>
    match s.path q.pid with
    | none => .next s
    | some p =>
      if s.poolFree core pipe < q.count ∨ !s.run.running ∨ s.run.halted ∨ s.clusterStopped (clusterOf core) ∨ p.hold then .next s
      else
        let s1 := s.setCore core { s.core core with claims := (s.core core).claims.filter fun x => x.2.pid != q.pid }
        let c : Ctx := ⟨q.pid, p, q.pid / 4, bundleMod p.hints, bundlePfx p.hints, (bundleSch p.hints).1, p.bundleStart, 0⟩
        if 128 < s.regCountOf (q.pid / 4) + q.count then
          .next ((s1.takeFree.takeTrap q.pid 0x02 c.first s.openAux none).unstep q.pid)
        else .next ((s1.addRegs (q.pid / 4) q.count).retire c c.nextPc none)

end Sys2Proof.Machine
end

