-- ==== Sys2Proof/Machine/System.lean ====
section
/-! DEFINITION. Special registers, descriptors and the system instructions (R16, R17, R48, R70, R71, R92 to R95, R355). -/

namespace Sys2Proof.Machine

/-! Special registers (R16, R17, R70). -/

/-- sr.core: the core wave slot and the place of the core (R355). -/
def coreWord (wid : Nat) : Word := BitVec.ofNat 32 (wid % 32 * 128 + wid / 32)

/-- sr.path: the slot of a path, or 0x10 and the entry of a helper path (R64, R201). -/
def pathWord (pid : Nat) : Word :=
  BitVec.ofNat 32 (if isHelper pid then 0x10 + (pid - helperBase) % 16 else pid % 4)

/-- The scalars of a scalar-valued special register, lowest first (R16). -/
def State.readSr (s : State) (c : Ctx) (w : Wave) (b : Block) (n : Nat) : List Word :=
  if n = 0x010 then [BitVec.ofNat 32 w.index]
  else if n = 0x011 then [pathWord c.pid]
  else if n = 0x012 then [BitVec.ofNat 32 w.role]
  else if n = 0x013 then [coreWord c.wid]
  else if n = 0x014 then [BitVec.ofNat 32 b.base]
  else if n < 0x020 then [w.positions.getD (n - 0x018) 0]
  else if n < 0x028 then [w.counts.getD (n - 0x020) 1]
  else if n = 0x030 then [b.awb]
  else if n = 0x031 then [b.awl]
  else if n = 0x032 then [c.p.loanst]
  else if n = 0x038 then [BitVec.ofNat 32 s.clk, BitVec.ofNat 32 (s.clk / 2 ^ 32)]
  else if n = 0x040 then [w.tvec.extractLsb' 0 32, w.tvec.extractLsb' 32 32]
  else if n = 0x041 then [c.p.epc.extractLsb' 0 32, c.p.epc.extractLsb' 32 32]
  else if n = 0x042 then [c.p.ecause]
  else if n = 0x043 then [c.p.eaux.extractLsb' 0 32, c.p.eaux.extractLsb' 32 32]
  else [maskWord c.p.emask 0, maskWord c.p.emask 1, maskWord c.p.emask 2]

/-- Whether a special register is for system mode (R16). -/
def srSystem (n : Nat) : Bool := decide (0x040 ≤ n)

/-- The state after a special register is written, where its Write column allows it (R16, R17, R302). -/
def State.writeSr (s : State) (c : Ctx) (n r : Nat) : State :=
  let lo := s.readS c.pid c.p r
  let v : DWord := s.readS c.pid c.p (r + 1) ++ lo
  if n = 0x030 then s.onBlock (s.bidOf c.pid) fun b => { b with awb := lo }
  else if n = 0x031 then s.onBlock (s.bidOf c.pid) fun b => { b with awl := lo }
  else if n = 0x040 then s.onWave c.wid fun w => { w with tvec := v }
  else if n = 0x041 then s.onPath c.pid fun p => { p with epc := v }
  else if n = 0x042 then s.onPath c.pid fun p => { p with ecause := lo &&& 0x1FF#32 }
  else if n = 0x043 then s.onPath c.pid fun p => { p with eaux := v }
  else if n = 0x044 then
    s.onPath c.pid fun p => { p with emask := s.readS c.pid c.p (r + 2) ++ (s.readS c.pid c.p (r + 1) ++ lo) }
  else s

/-- SRD (R70). -/
def execSrd (d : BitVec 7) (n : BitVec 12) (s : State) : Result :=
  issue (.srd d n) (fun c s =>
    match srKind n.toNat, s.wave c.wid, s.blockOf c.pid with
    | some (.scalar _), some w, some b =>
      if srSystem n.toNat && !c.p.sys then .trapOpen 0x05
      else .done (s.writeSs c.pid d.toNat (s.readSr c w b n.toNat))
    | _, _, _ => .outOfContext) s

/-- SWR (R70). -/
def execSwr (r : BitVec 7) (n : BitVec 12) (s : State) : Result :=
  issue (.swr r n) (fun c s =>
    match srKind n.toNat, s.wave c.wid with
    | some (.scalar _), some w =>
      if n.toNat = 0x030 ∨ n.toNat = 0x031 then
        (if w.index = 0 then .done (s.writeSr c n.toNat r.toNat) else .trapOpen 0x05)
      else if srSystem n.toNat && c.p.sys then .done (s.writeSr c n.toNat r.toNat)
      else .trapOpen 0x05
    | _, _ => .outOfContext) s

/-- NFSET (R48, R71). -/
def execNfset (r : BitVec 7) (n : BitVec 2) (s : State) : Result :=
  issue (.nfset r n) (fun c s =>
    let v := s.readS c.pid c.p r.toNat
    if (Desc.ofWord v).valid then .done (s.onBlock (s.bidOf c.pid) fun b => { b with nf := tset b.nf n.toNat v })
    else .trapOpen 0x13) s

/-! System instructions (R92 to R95). -/

/-- TRAP (R92). -/
def execTrap (k : BitVec 8) (s : State) : Result :=
  issue (.trap k) (fun _ _ => .trapNext 0x10 (k.zeroExtend 64)) s

/-- ERET (R93). -/
def execEret (s : State) : Result :=
  issue .eret (fun c s =>
    if c.p.sys then .jump (s.onPath c.pid fun p => p.returned (s.mayHold c.pid c.p)) (codeAddr c.p.epc) 3
    else .trapOpen 0x05) s

/-- BRKPT (R94). -/
def execBrkpt (s : State) : Result := issue .brkpt (fun _ _ => .trap 0x0E 0 none) s

/-- The first of a wave's stores that is not performed (R95, R218). -/
def State.pendingStore (s : State) (wid : Nat) : Option Op :=
  s.ops.find? fun o => !o.done && o.owner == wid && (o.cls == .st || o.cls == .held)

/-- HALT (R95): the wave ends once its stores are complete (R218), and what loads are pending then is discarded. Until then it has not
begun, and the wave's other paths go on (R96). -/
def execHalt (s : State) : Result :=
  issue .halt (fun c s =>
    match s.pendingStore (c.pid / 4) with
    | some o => .wait s (.counter o.pc)
    | none =>
      if s.pinWaits (c.pid / 4) then .wait s .translation
      else .gone ((s.traceSync c.pid).endWave (c.pid / 4))) s

end Sys2Proof.Machine
end

