-- ==== Sys2Proof/Machine/Dispatch.lean ====
section
/-! DEFINITION. One arm per row of the opcode table: each is one call of the meaning of that instruction or event. -/

namespace Sys2Proof.Machine

def exec (i : Instr) (s : State) : Host.Outcome State Fault Refusal :=
  match i with
  | .sadd d a b => Sys2Proof.Machine.execSadd d a b s
  | .ssub d a b => Sys2Proof.Machine.execSsub d a b s
  | .smul d a b => Sys2Proof.Machine.execSmul d a b s
  | .smulhI32 d a b => Sys2Proof.Machine.execSmulhI32 d a b s
  | .smulhN32 d a b => Sys2Proof.Machine.execSmulhN32 d a b s
  | .sdivI32 d a b => Sys2Proof.Machine.execSdivI32 d a b s
  | .sdivN32 d a b => Sys2Proof.Machine.execSdivN32 d a b s
  | .sremI32 d a b => Sys2Proof.Machine.execSremI32 d a b s
  | .sremN32 d a b => Sys2Proof.Machine.execSremN32 d a b s
  | .sand d a b => Sys2Proof.Machine.execSand d a b s
  | .sor d a b => Sys2Proof.Machine.execSor d a b s
  | .sxor d a b => Sys2Proof.Machine.execSxor d a b s
  | .sandn d a b => Sys2Proof.Machine.execSandn d a b s
  | .sshl d a b => Sys2Proof.Machine.execSshl d a b s
  | .sshr d a b => Sys2Proof.Machine.execSshr d a b s
  | .ssra d a b => Sys2Proof.Machine.execSsra d a b s
  | .sminI32 d a b => Sys2Proof.Machine.execSminI32 d a b s
  | .sminN32 d a b => Sys2Proof.Machine.execSminN32 d a b s
  | .smaxI32 d a b => Sys2Proof.Machine.execSmaxI32 d a b s
  | .smaxN32 d a b => Sys2Proof.Machine.execSmaxN32 d a b s
  | .smov d a => Sys2Proof.Machine.execSmov d a s
  | .spopc d a => Sys2Proof.Machine.execSpopc d a s
  | .sclz d a => Sys2Proof.Machine.execSclz d a s
  | .sctz d a => Sys2Proof.Machine.execSctz d a s
  | .sbrev d a => Sys2Proof.Machine.execSbrev d a s
  | .scmp c g a b => Sys2Proof.Machine.execScmp c g a b s
  | .slea d a b => Sys2Proof.Machine.execSlea d a b s
  | .sbfi d a b => Sys2Proof.Machine.execSbfi d a b s
  | .ssel d a b n => Sys2Proof.Machine.execSsel d a b n s
  | .saddImm d w imm => Sys2Proof.Machine.execSaddImm d w imm s
  | .smulImm d w imm => Sys2Proof.Machine.execSmulImm d w imm s
  | .sandImm d w imm => Sys2Proof.Machine.execSandImm d w imm s
  | .sorImm d w imm => Sys2Proof.Machine.execSorImm d w imm s
  | .sxorImm d w imm => Sys2Proof.Machine.execSxorImm d w imm s
  | .sshlImm d w imm => Sys2Proof.Machine.execSshlImm d w imm s
  | .sshrImm d w imm => Sys2Proof.Machine.execSshrImm d w imm s
  | .ssraImm d w imm => Sys2Proof.Machine.execSsraImm d w imm s
  | .sminI32Imm d w imm => Sys2Proof.Machine.execSminI32Imm d w imm s
  | .sminN32Imm d w imm => Sys2Proof.Machine.execSminN32Imm d w imm s
  | .smaxI32Imm d w imm => Sys2Proof.Machine.execSmaxI32Imm d w imm s
  | .smaxN32Imm d w imm => Sys2Proof.Machine.execSmaxN32Imm d w imm s
  | .smovImm d w imm => Sys2Proof.Machine.execSmovImm d w imm s
  | .sbfeI32 d w imm => Sys2Proof.Machine.execSbfeI32 d w imm s
  | .sbfeN32 d w imm => Sys2Proof.Machine.execSbfeN32 d w imm s
  | .smovi d imm => Sys2Proof.Machine.execSmovi d imm s
  | .srd src n => Sys2Proof.Machine.execSrd src n s
  | .swr src n => Sys2Proof.Machine.execSwr src n s
  | .nfset src n => Sys2Proof.Machine.execNfset src n s
  | .br g o => Sys2Proof.Machine.execBr g o s
  | .brn g o => Sys2Proof.Machine.execBrn g o s
  | .jmp o => Sys2Proof.Machine.execJmp o s
  | .call o => Sys2Proof.Machine.execCall o s
  | .jmpReg a => Sys2Proof.Machine.execJmpReg a s
  | .callReg a => Sys2Proof.Machine.execCallReg a s
  | .vbr n k t j => Sys2Proof.Machine.execVbr n k t j s
  | .vbrk n k => Sys2Proof.Machine.execVbrk n k s
  | .split n k t j => Sys2Proof.Machine.execSplit n k t j s
  | .loan d a x y => Sys2Proof.Machine.execLoan d a x y s
  | .lnext d x => Sys2Proof.Machine.execLnext d x s
  | .repay d a r t => Sys2Proof.Machine.execRepay d a r t s
  | .barArrive n => Sys2Proof.Machine.execBarArrive n s
  | .barWait n => Sys2Proof.Machine.execBarWait n s
  | .barSync n => Sys2Proof.Machine.execBarSync n s
  | .waitC l src c t => Sys2Proof.Machine.execWaitC l src c t s
  | .sleep imm => Sys2Proof.Machine.execSleep imm s
  | .trap c => Sys2Proof.Machine.execTrap c s
  | .claim n g c => Sys2Proof.Machine.execClaim n g c s
  | .giveback c => Sys2Proof.Machine.execGiveback c s
  | .vadd d a b => Sys2Proof.Machine.execVadd d a b s
  | .vsub d a b => Sys2Proof.Machine.execVsub d a b s
  | .vmul d a b => Sys2Proof.Machine.execVmul d a b s
  | .vmulhI32 d a b => Sys2Proof.Machine.execVmulhI32 d a b s
  | .vmulhN32 d a b => Sys2Proof.Machine.execVmulhN32 d a b s
  | .vmad d a b => Sys2Proof.Machine.execVmad d a b s
  | .vand d a b => Sys2Proof.Machine.execVand d a b s
  | .vor d a b => Sys2Proof.Machine.execVor d a b s
  | .vxor d a b => Sys2Proof.Machine.execVxor d a b s
  | .vandn d a b => Sys2Proof.Machine.execVandn d a b s
  | .vshl d a b => Sys2Proof.Machine.execVshl d a b s
  | .vshr d a b => Sys2Proof.Machine.execVshr d a b s
  | .vsra d a b => Sys2Proof.Machine.execVsra d a b s
  | .vminI32 d a b => Sys2Proof.Machine.execVminI32 d a b s
  | .vminN32 d a b => Sys2Proof.Machine.execVminN32 d a b s
  | .vmaxI32 d a b => Sys2Proof.Machine.execVmaxI32 d a b s
  | .vmaxN32 d a b => Sys2Proof.Machine.execVmaxN32 d a b s
  | .vabsdI32 d a b => Sys2Proof.Machine.execVabsdI32 d a b s
  | .vabsdN32 d a b => Sys2Proof.Machine.execVabsdN32 d a b s
  | .vpopc d a => Sys2Proof.Machine.execVpopc d a s
  | .vclz d a => Sys2Proof.Machine.execVclz d a s
  | .vbrev d a => Sys2Proof.Machine.execVbrev d a s
  | .vbfeI32 d a b => Sys2Proof.Machine.execVbfeI32 d a b s
  | .vbfeN32 d a b => Sys2Proof.Machine.execVbfeN32 d a b s
  | .vbfi d a b => Sys2Proof.Machine.execVbfi d a b s
  | .vaddImm d a imm => Sys2Proof.Machine.execVaddImm d a imm s
  | .vmulImm d a imm => Sys2Proof.Machine.execVmulImm d a imm s
  | .vandImm d a imm => Sys2Proof.Machine.execVandImm d a imm s
  | .vorImm d a imm => Sys2Proof.Machine.execVorImm d a imm s
  | .vxorImm d a imm => Sys2Proof.Machine.execVxorImm d a imm s
  | .vandnImm d a imm => Sys2Proof.Machine.execVandnImm d a imm s
  | .vshlImm d a imm => Sys2Proof.Machine.execVshlImm d a imm s
  | .vshrImm d a imm => Sys2Proof.Machine.execVshrImm d a imm s
  | .vsraImm d a imm => Sys2Proof.Machine.execVsraImm d a imm s
  | .vminI32Imm d a imm => Sys2Proof.Machine.execVminI32Imm d a imm s
  | .vminN32Imm d a imm => Sys2Proof.Machine.execVminN32Imm d a imm s
  | .vmaxI32Imm d a imm => Sys2Proof.Machine.execVmaxI32Imm d a imm s
  | .vmaxN32Imm d a imm => Sys2Proof.Machine.execVmaxN32Imm d a imm s
  | .vabsdI32Imm d a imm => Sys2Proof.Machine.execVabsdI32Imm d a imm s
  | .vabsdN32Imm d a imm => Sys2Proof.Machine.execVabsdN32Imm d a imm s
  | .vfadd d a b => Sys2Proof.Machine.execVfadd d a b s
  | .vfsub d a b => Sys2Proof.Machine.execVfsub d a b s
  | .vfmul d a b => Sys2Proof.Machine.execVfmul d a b s
  | .vfmin d a b => Sys2Proof.Machine.execVfmin d a b s
  | .vfmax d a b => Sys2Proof.Machine.execVfmax d a b s
  | .vfscale d a b => Sys2Proof.Machine.execVfscale d a b s
  | .vfclass d a => Sys2Proof.Machine.execVfclass d a s
  | .vhadd d a b => Sys2Proof.Machine.execVhadd d a b s
  | .vhmul d a b => Sys2Proof.Machine.execVhmul d a b s
  | .vffma d a b => Sys2Proof.Machine.execVffma d a b s
  | .vhfma d a b => Sys2Proof.Machine.execVhfma d a b s
  | .vfrcp d a => Sys2Proof.Machine.execVfrcp d a s
  | .vfrsq d a => Sys2Proof.Machine.execVfrsq d a s
  | .vfsqrt d a => Sys2Proof.Machine.execVfsqrt d a s
  | .vfdiv d a b => Sys2Proof.Machine.execVfdiv d a b s
  | .vfexp2 d a => Sys2Proof.Machine.execVfexp2 d a s
  | .vflog2 d a => Sys2Proof.Machine.execVflog2 d a s
  | .vfsin d a => Sys2Proof.Machine.execVfsin d a s
  | .vfcos d a => Sys2Proof.Machine.execVfcos d a s
  | .vfexp d a => Sys2Proof.Machine.execVfexp d a s
  | .vfcvtF32I32 d a => Sys2Proof.Machine.execVfcvtF32I32 d a s
  | .vfcvtF32N32 d a => Sys2Proof.Machine.execVfcvtF32N32 d a s
  | .vfcvtI32F32 d a => Sys2Proof.Machine.execVfcvtI32F32 d a s
  | .vfcvtN32F32 d a => Sys2Proof.Machine.execVfcvtN32F32 d a s
  | .vfcvtF32F16 d a src => Sys2Proof.Machine.execVfcvtF32F16 d a src s
  | .vfcvtF16F32 d a src => Sys2Proof.Machine.execVfcvtF16F32 d a src s
  | .vfcvtF32Bf16 d a src => Sys2Proof.Machine.execVfcvtF32Bf16 d a src s
  | .vfcvtBf16F32 d a src => Sys2Proof.Machine.execVfcvtBf16F32 d a src s
  | .vfcvtF32E4m3 d a src => Sys2Proof.Machine.execVfcvtF32E4m3 d a src s
  | .vfcvtE4m3F32 d a src => Sys2Proof.Machine.execVfcvtE4m3F32 d a src s
  | .vfcvtF32E5m2 d a src => Sys2Proof.Machine.execVfcvtF32E5m2 d a src s
  | .vfcvtE5m2F32 d a src => Sys2Proof.Machine.execVfcvtE5m2F32 d a src s
  | .vfcvtI32I8 d a src => Sys2Proof.Machine.execVfcvtI32I8 d a src s
  | .vfcvtI8I32 d a src => Sys2Proof.Machine.execVfcvtI8I32 d a src s
  | .vfcvtI32Tri d a src => Sys2Proof.Machine.execVfcvtI32Tri d a src s
  | .vfcvtTriI32 d a src => Sys2Proof.Machine.execVfcvtTriI32 d a src s
  | .vncvtF32 d a src n => Sys2Proof.Machine.execVncvtF32 d a src n s
  | .vncvtNf d a src n => Sys2Proof.Machine.execVncvtNf d a src n s
  | .vfcvtI32I16 d a src => Sys2Proof.Machine.execVfcvtI32I16 d a src s
  | .vfcvtI16I32 d a src => Sys2Proof.Machine.execVfcvtI16I32 d a src s
  | .vfcvtN32N8 d a src => Sys2Proof.Machine.execVfcvtN32N8 d a src s
  | .vfcvtN8N32 d a src => Sys2Proof.Machine.execVfcvtN8N32 d a src s
  | .vfcvtN32N16 d a src => Sys2Proof.Machine.execVfcvtN32N16 d a src s
  | .vfcvtN16N32 d a src => Sys2Proof.Machine.execVfcvtN16N32 d a src s
  | .vshfl d a b => Sys2Proof.Machine.execVshfl d a b s
  | .vbfly d a m => Sys2Proof.Machine.execVbfly d a m s
  | .vbcast d a n => Sys2Proof.Machine.execVbcast d a n s
  | .vrfl d a => Sys2Proof.Machine.execVrfl d a s
  | .vred d a o t => Sys2Proof.Machine.execVred d a o t s
  | .vredmi d a t => Sys2Proof.Machine.execVredmi d a t s
  | .vscan d a o t x => Sys2Proof.Machine.execVscan d a o t x s
  | .vnbr d a src k => Sys2Proof.Machine.execVnbr d a src k s
  | .vddx d a k => Sys2Proof.Machine.execVddx d a k s
  | .vddy d a k => Sys2Proof.Machine.execVddy d a k s
  | .vballot d k => Sys2Proof.Machine.execVballot d k s
  | .vcount d k => Sys2Proof.Machine.execVcount d k s
  | .vcmpI32 k c a b m => Sys2Proof.Machine.execVcmpI32 k c a b m s
  | .vcmpN32 k c a b m => Sys2Proof.Machine.execVcmpN32 k c a b m s
  | .vfcmp k c a b m => Sys2Proof.Machine.execVfcmp k c a b m s
  | .kand d a b p => Sys2Proof.Machine.execKand d a b p s
  | .kor d a b p => Sys2Proof.Machine.execKor d a b p s
  | .kxor d a b p => Sys2Proof.Machine.execKxor d a b p s
  | .kandn d a b p => Sys2Proof.Machine.execKandn d a b p s
  | .knot d a p => Sys2Proof.Machine.execKnot d a p s
  | .kmov d a p => Sys2Proof.Machine.execKmov d a p s
  | .kmovFromScalar d src => Sys2Proof.Machine.execKmovFromScalar d src s
  | .kmovToScalar a src => Sys2Proof.Machine.execKmovToScalar a src s
  | .kpop a src => Sys2Proof.Machine.execKpop a src s
  | .kany d a => Sys2Proof.Machine.execKany d a s
  | .kall d a => Sys2Proof.Machine.execKall d a s
  | .vnadd d a b n => Sys2Proof.Machine.execVnadd d a b n s
  | .vnmul d a b n => Sys2Proof.Machine.execVnmul d a b n s
  | .vnfma d a b n => Sys2Proof.Machine.execVnfma d a b n s
  | .vsel d a b k => Sys2Proof.Machine.execVsel d a b k s
  | .vmov d a => Sys2Proof.Machine.execVmov d a s
  | .vmovScalar d a => Sys2Proof.Machine.execVmovScalar d a s
  | .vmovi d imm => Sys2Proof.Machine.execVmovi d imm s
  | .vsr d n => Sys2Proof.Machine.execVsr d n s
  | .vld d a src w p => Sys2Proof.Machine.execVld d a src w p s
  | .vst d a src w p => Sys2Proof.Machine.execVst d a src w p s
  | .sld d a o w p => Sys2Proof.Machine.execSld d a o w p s
  | .sst d a o w p => Sys2Proof.Machine.execSst d a o w p s
  | .vatomAddN32 d a src p => Sys2Proof.Machine.execVatomAddN32 d a src p s
  | .vatomAddF32 d a src p => Sys2Proof.Machine.execVatomAddF32 d a src p s
  | .vatomMinI32 d a src p => Sys2Proof.Machine.execVatomMinI32 d a src p s
  | .vatomMinN32 d a src p => Sys2Proof.Machine.execVatomMinN32 d a src p s
  | .vatomMaxI32 d a src p => Sys2Proof.Machine.execVatomMaxI32 d a src p s
  | .vatomMaxN32 d a src p => Sys2Proof.Machine.execVatomMaxN32 d a src p s
  | .vatomAnd d a src p => Sys2Proof.Machine.execVatomAnd d a src p s
  | .vatomOr d a src p => Sys2Proof.Machine.execVatomOr d a src p s
  | .vatomXor d a src p => Sys2Proof.Machine.execVatomXor d a src p s
  | .vatomSwap d a src p => Sys2Proof.Machine.execVatomSwap d a src p s
  | .vatomCas d a src p => Sys2Proof.Machine.execVatomCas d a src p s
  | .vatomAddN64 d a src p => Sys2Proof.Machine.execVatomAddN64 d a src p s
  | .satomAddN32 d a o p => Sys2Proof.Machine.execSatomAddN32 d a o p s
  | .satomAddF32 d a o p => Sys2Proof.Machine.execSatomAddF32 d a o p s
  | .satomMinI32 d a o p => Sys2Proof.Machine.execSatomMinI32 d a o p s
  | .satomMinN32 d a o p => Sys2Proof.Machine.execSatomMinN32 d a o p s
  | .satomMaxI32 d a o p => Sys2Proof.Machine.execSatomMaxI32 d a o p s
  | .satomMaxN32 d a o p => Sys2Proof.Machine.execSatomMaxN32 d a o p s
  | .satomAnd d a o p => Sys2Proof.Machine.execSatomAnd d a o p s
  | .satomOr d a o p => Sys2Proof.Machine.execSatomOr d a o p s
  | .satomXor d a o p => Sys2Proof.Machine.execSatomXor d a o p s
  | .satomSwap d a o p => Sys2Proof.Machine.execSatomSwap d a o p s
  | .satomCas d a o p => Sys2Proof.Machine.execSatomCas d a o p s
  | .satomAddN64 d a o p => Sys2Proof.Machine.execSatomAddN64 d a o p s
  | .fence p src c => Sys2Proof.Machine.execFence p src c s
  | .fenceOwn c => Sys2Proof.Machine.execFenceOwn c s
  | .fenceFar c => Sys2Proof.Machine.execFenceFar c s
  | .qpush n g q src => Sys2Proof.Machine.execQpush n g q src s
  | .qpop n g q src => Sys2Proof.Machine.execQpop n g q src s
  | .tqEnq n g src => Sys2Proof.Machine.execTqEnq n g src s
  | .tqDeq n g src => Sys2Proof.Machine.execTqDeq n g src s
  | .mint d a => Sys2Proof.Machine.execMint d a s
  | .vpin d a => Sys2Proof.Machine.execVpin d a s
  | .xput d a src w c => Sys2Proof.Machine.execXput d a src w c s
  | .cpTile t a b => Sys2Proof.Machine.execCpTile t a b s
  | .cpBdeck t a b => Sys2Proof.Machine.execCpBdeck t a b s
  | .cpStore t a b => Sys2Proof.Machine.execCpStore t a b s
  | .cpCopy c a b => Sys2Proof.Machine.execCpCopy c a b s
  | .tdef t src => Sys2Proof.Machine.execTdef t src s
  | .tfree t => Sys2Proof.Machine.execTfree t s
  | .tstat t src => Sys2Proof.Machine.execTstat t src s
  | .tex3 d a b => Sys2Proof.Machine.execTex3 d a b s
  | .texp d a b => Sys2Proof.Machine.execTexp d a b s
  | .isectRay d a b => Sys2Proof.Machine.execIsectRay d a b s
  | .isectTile d a b => Sys2Proof.Machine.execIsectTile d a b s
  | .isectNext d => Sys2Proof.Machine.execIsectNext d s
  | .hdesc a => Sys2Proof.Machine.execHdesc a s
  | .hgath d a => Sys2Proof.Machine.execHgath d a s
  | .hscat a b => Sys2Proof.Machine.execHscat a b s
  | .vaccRd v src q n => Sys2Proof.Machine.execVaccRd v src q n s
  | .vaccWr v src q n => Sys2Proof.Machine.execVaccWr v src q n s
  | .pfx imm => Sys2Proof.Machine.execPfx imm s
  | .mod m => Sys2Proof.Machine.execMod m s
  | .sch y u src => Sys2Proof.Machine.execSch y u src s
  | .ret => Sys2Proof.Machine.execRet s
  | .join => Sys2Proof.Machine.execJoin s
  | .exit => Sys2Proof.Machine.execExit s
  | .refill => Sys2Proof.Machine.execRefill s
  | .ldone => Sys2Proof.Machine.execLdone s
  | .rgn => Sys2Proof.Machine.execRgn s
  | .yield => Sys2Proof.Machine.execYield s
  | .nop => Sys2Proof.Machine.execNop s
  | .wpred => Sys2Proof.Machine.execWpred s
  | .sucstart => Sys2Proof.Machine.execSucstart s
  | .eret => Sys2Proof.Machine.execEret s
  | .halt => Sys2Proof.Machine.execHalt s
  | .brkpt => Sys2Proof.Machine.execBrkpt s
  | .mmaE4m3E4m3 z a b m => Sys2Proof.Machine.execMmaE4m3E4m3 z a b m s
  | .mmaE4m3E5m2 z a b m => Sys2Proof.Machine.execMmaE4m3E5m2 z a b m s
  | .mmaE5m2E4m3 z a b m => Sys2Proof.Machine.execMmaE5m2E4m3 z a b m s
  | .mmaE5m2E5m2 z a b m => Sys2Proof.Machine.execMmaE5m2E5m2 z a b m s
  | .mmaI8 z a b m => Sys2Proof.Machine.execMmaI8 z a b m s
  | .mmaBf16 z a b m => Sys2Proof.Machine.execMmaBf16 z a b m s
  | .mmaF16 z a b m => Sys2Proof.Machine.execMmaF16 z a b m s
  | .mmaTriI8 z a b m => Sys2Proof.Machine.execMmaTriI8 z a b m s
  | .mmapShape m x y => Sys2Proof.Machine.execMmapShape m x y s
  | .mmapK m k o => Sys2Proof.Machine.execMmapK m k o s
  | .mmapAcc m r a b => Sys2Proof.Machine.execMmapAcc m r a b s
  | .macz r c => Sys2Proof.Machine.execMacz r c s
  | .mscl d src t m => Sys2Proof.Machine.execMscl d src t m s
  | .mbarWait n => Sys2Proof.Machine.execMbarWait n s
  | .mbarSig n => Sys2Proof.Machine.execMbarSig n s
  | .mloop c o => Sys2Proof.Machine.execMloop c o s
  | .mend => Sys2Proof.Machine.execMend s
  | .mhalt => Sys2Proof.Machine.execMhalt s
  | .mrel t => Sys2Proof.Machine.execMrel t s
  | .mset c imm => Sys2Proof.Machine.execMset c imm s
  | .send p b d c => Sys2Proof.Machine.execSend p b d c s
  | .recv p b d c => Sys2Proof.Machine.execRecv p b d c s
  | .redAddF32 m b d src e c => Sys2Proof.Machine.execRedAddF32 m b d src e c s
  | .redAddI32 m b d src e c => Sys2Proof.Machine.execRedAddI32 m b d src e c s
  | .redMinF32 m b d src e c => Sys2Proof.Machine.execRedMinF32 m b d src e c s
  | .redMaxF32 m b d src e c => Sys2Proof.Machine.execRedMaxF32 m b d src e c s
  | .redMinI32 m b d src e c => Sys2Proof.Machine.execRedMinI32 m b d src e c s
  | .redMaxI32 m b d src e c => Sys2Proof.Machine.execRedMaxI32 m b d src e c s
  | .redAndB32 m b d src e c => Sys2Proof.Machine.execRedAndB32 m b d src e c s
  | .redOrB32 m b d src e c => Sys2Proof.Machine.execRedOrB32 m b d src e c s
  | .drafelCopy b d src e => Sys2Proof.Machine.execDrafelCopy b d src e s
  | .waitOps n => Sys2Proof.Machine.execWaitOps n s
  | .waitGe b d v => Sys2Proof.Machine.execWaitGe b d v s
  | .sig b d v => Sys2Proof.Machine.execSig b d v s
  | .loop d o => Sys2Proof.Machine.execLoop d o s
  | .kick k c b x h => Sys2Proof.Machine.execKick k c b x h s
  | .setd d imm => Sys2Proof.Machine.execSetd d imm s
  | .addd d src imm => Sys2Proof.Machine.execAddd d src imm s
  | .brd d c o => Sys2Proof.Machine.execBrd d c o s
  | .drafelHalt => Sys2Proof.Machine.execDrafelHalt s
  | .drafelNop => Sys2Proof.Machine.execDrafelNop s
  | .registerWrite page index off value => Sys2Proof.Machine.execRegisterWrite page index off value s
  | .deferredTrap => Sys2Proof.Machine.execDeferredTrap s
  | .pathAgeLimit pid => Sys2Proof.Machine.execPathAgeLimit pid s
  | .rejoinDeadlock wid => Sys2Proof.Machine.execRejoinDeadlock wid s
  | .pathForceMerge pid => Sys2Proof.Machine.execPathForceMerge pid s
  | .sleepExpire pid => Sys2Proof.Machine.execSleepExpire pid s
  | .schStallExpire pid => Sys2Proof.Machine.execSchStallExpire pid s
  | .claimGrant core pipe => Sys2Proof.Machine.execClaimGrant core pipe s
  | .queueRetry pid => Sys2Proof.Machine.execQueueRetry pid s
  | .waitLimit pid => Sys2Proof.Machine.execWaitLimit pid s
  | .loadDataReturn op soft => Sys2Proof.Machine.execLoadDataReturn op soft s
  | .storePerformed op => Sys2Proof.Machine.execStorePerformed op s
  | .atomicPerform op => Sys2Proof.Machine.execAtomicPerform op s
  | .hscatAddsPerformed op => Sys2Proof.Machine.execHscatAddsPerformed op s
  | .hdescLoaded op => Sys2Proof.Machine.execHdescLoaded op s
  | .isectResult op => Sys2Proof.Machine.execIsectResult op s
  | .translationWalk core va => Sys2Proof.Machine.execTranslationWalk core va s
  | .directoryRecall line => Sys2Proof.Machine.execDirectoryRecall line s
  | .copyFillComplete op => Sys2Proof.Machine.execCopyFillComplete op s
  | .copyDrainComplete op => Sys2Proof.Machine.execCopyDrainComplete op s
  | .cpCopyComplete op => Sys2Proof.Machine.execCpCopyComplete op s
  | .engineUeStop op addr => Sys2Proof.Machine.execEngineUeStop op addr s
  | .streamFetch bid => Sys2Proof.Machine.execStreamFetch bid s
  | .tellerGrant cluster => Sys2Proof.Machine.execTellerGrant cluster s
  | .passRetire cluster => Sys2Proof.Machine.execPassRetire cluster s
  | .vaultAdderComplete bid => Sys2Proof.Machine.execVaultAdderComplete bid s
  | .preemptionRequest => Sys2Proof.Machine.execPreemptionRequest s
  | .contextSave => Sys2Proof.Machine.execContextSave s
  | .contextRestore which => Sys2Proof.Machine.execContextRestore which s
  | .graphicsWaveReissue which => Sys2Proof.Machine.execGraphicsWaveReissue which s
  | .nevWindowEnd core cls => Sys2Proof.Machine.execNevWindowEnd core cls s
  | .nevwinWrite core cls len => Sys2Proof.Machine.execNevwinWrite core cls len s
  | .nevstatClear core bits => Sys2Proof.Machine.execNevstatClear core bits s
  | .cqdescWrite ring addr => Sys2Proof.Machine.execCqdescWrite ring addr s
  | .cqnotWrite ring tail relaxed => Sys2Proof.Machine.execCqnotWrite ring tail relaxed s
  | .cqstatResume ring => Sys2Proof.Machine.execCqstatResume ring s
  | .cqdropRead => Sys2Proof.Machine.execCqdropRead s
  | .ringNop ring => Sys2Proof.Machine.execRingNop ring s
  | .ringLaunch ring => Sys2Proof.Machine.execRingLaunch ring s
  | .ringWait ring => Sys2Proof.Machine.execRingWait ring s
  | .ringWaitComplete ring => Sys2Proof.Machine.execRingWaitComplete ring s
  | .ringFrame ring => Sys2Proof.Machine.execRingFrame ring s
  | .indirectCountRead launch => Sys2Proof.Machine.execIndirectCountRead launch s
  | .blockDispatch launch index => Sys2Proof.Machine.execBlockDispatch launch index s
  | .blockComplete bid => Sys2Proof.Machine.execBlockComplete bid s
  | .budgetExpiry graph cls => Sys2Proof.Machine.execBudgetExpiry graph cls s
  | .itemTaskMove segment => Sys2Proof.Machine.execItemTaskMove segment s
  | .sendTransferStart cid op => Sys2Proof.Machine.execSendTransferStart cid op s
  | .data f => Sys2Proof.Machine.execData f s
  | .ack f => Sys2Proof.Machine.execAck f s
  | .write f => Sys2Proof.Machine.execWrite f s
  | .wack op piece => Sys2Proof.Machine.execWack op piece s
  | .pause dst src => Sys2Proof.Machine.execPause dst src s
  | .resume dst src => Sys2Proof.Machine.execResume dst src s
  | .close dst src => Sys2Proof.Machine.execClose dst src s
  | .flitCrcRetransmit f => Sys2Proof.Machine.execFlitCrcRetransmit f s
  | .programUnpark cid => Sys2Proof.Machine.execProgramUnpark cid s
  | .collectiveTimeout cid => Sys2Proof.Machine.execCollectiveTimeout cid s
  | .clctlLoad cid => Sys2Proof.Machine.execClctlLoad cid s
  | .clctlStop cid => Sys2Proof.Machine.execClctlStop cid s
  | .clstatIrqClear cid => Sys2Proof.Machine.execClstatIrqClear cid s
  | .ptrootWrite value => Sys2Proof.Machine.execPtrootWrite value s
  | .tlbinvWrite value => Sys2Proof.Machine.execTlbinvWrite value s
  | .tlbInvalidateDone => Sys2Proof.Machine.execTlbInvalidateDone s
  | .hotnessHalving => Sys2Proof.Machine.execHotnessHalving s
  | .migrationStart => Sys2Proof.Machine.execMigrationStart s
  | .migrationCopy => Sys2Proof.Machine.execMigrationCopy s
  | .migrationFinish => Sys2Proof.Machine.execMigrationFinish s
  | .migstatRead => Sys2Proof.Machine.execMigstatRead s
  | .assayStart row => Sys2Proof.Machine.execAssayStart row s
  | .assayEnd row mismatch => Sys2Proof.Machine.execAssayEnd row mismatch s
  | .rasceRead => Sys2Proof.Machine.execRasceRead s
  | .rasueRead => Sys2Proof.Machine.execRasueRead s
  | .islandDvfs island sensed => Sys2Proof.Machine.execIslandDvfs island sensed s
  | .droopStretch island => Sys2Proof.Machine.execDroopStretch island s
  | .thermalThrottle island sensed => Sys2Proof.Machine.execThermalThrottle island sensed s
  | .thermalTrip island sensed => Sys2Proof.Machine.execThermalTrip island sensed s
  | .linkRetrain link => Sys2Proof.Machine.execLinkRetrain link s
  | .boot images => Sys2Proof.Machine.execBoot images s
  | .attctlGo => Sys2Proof.Machine.execAttctlGo s
  | .attestDone => Sys2Proof.Machine.execAttestDone s
  | .dumpctlGo => Sys2Proof.Machine.execDumpctlGo s
  | .dumpEnd => Sys2Proof.Machine.execDumpEnd s
  | .clusterStop cluster => Sys2Proof.Machine.execClusterStop cluster s
  | .dbgctlStop cluster => Sys2Proof.Machine.execDbgctlStop cluster s
  | .dbgctlResume cluster => Sys2Proof.Machine.execDbgctlResume cluster s
  | .dbgctlStep cluster core wave slot => Sys2Proof.Machine.execDbgctlStep cluster core wave slot s
  | .stepTimeout cluster => Sys2Proof.Machine.execStepTimeout cluster s
  | .whmoreRead cluster => Sys2Proof.Machine.execWhmoreRead cluster s
  | .watchpointHitsRead cluster n => Sys2Proof.Machine.execWatchpointHitsRead cluster n s
  | .breakpointHitsRead cluster n => Sys2Proof.Machine.execBreakpointHitsRead cluster n s
  | .debugHoldWrite core wave bits => Sys2Proof.Machine.execDebugHoldWrite core wave bits s
  | .debugSsWrite core wave bits => Sys2Proof.Machine.execDebugSsWrite core wave bits s
  | .stallSample core => Sys2Proof.Machine.execStallSample core s
  | .smpctlWrite core value => Sys2Proof.Machine.execSmpctlWrite core value s
  | .smpdropRead core => Sys2Proof.Machine.execSmpdropRead core s
  | .trctlWrite core value => Sys2Proof.Machine.execTrctlWrite core value s
  | .trstatGapClear core => Sys2Proof.Machine.execTrstatGapClear core s
  | .trlostRead core => Sys2Proof.Machine.execTrlostRead core s
  | .notAnInstruction why => Sys2Proof.Machine.execNotAnInstruction why s
  | .notADrafelInstruction why => Sys2Proof.Machine.execNotADrafelInstruction why s
  | .hostMemoryAccess a => Sys2Proof.Machine.execHostMemoryAccess a s
  | .vaccWrPerformed op => Sys2Proof.Machine.execVaccWrPerformed op s
  | .tableEntryUpdated op => Sys2Proof.Machine.execTableEntryUpdated op s
  | .localDataOperationComplete cid op => Sys2Proof.Machine.execLocalDataOperationComplete cid op s
  | .reservedTypeFlit f => Sys2Proof.Machine.execReservedTypeFlit f s
  | .invalidRingEntry ring => Sys2Proof.Machine.execInvalidRingEntry ring s
  | .retrainingEnd link => Sys2Proof.Machine.execRetrainingEnd link s

end Sys2Proof.Machine
end

