-- ==== Sys2Proof/Machine/Turn.lean ====
section
/-! DEFINITION. The turns of the agents: a path, a stream, a clearing program and a pipe each take the next thing that they have
to do; and the placement of one word where the next turn fetches it (R11, R12, R18, R161, R184, R197, R198, R307, R317, R375). -/

namespace Sys2Proof.Machine

/-! The words of streams and chunk programs: `exec` of the instruction that each stands for. -/

/-- The meaning of a stream word. -/
def execStreamOp (op : StreamOp) (s : State) : Result :=
  match op with
  | .mmaE4m3E4m3 z a b m => execMmaE4m3E4m3 z a b m s
  | .mmaE4m3E5m2 z a b m => execMmaE4m3E5m2 z a b m s
  | .mmaE5m2E4m3 z a b m => execMmaE5m2E4m3 z a b m s
  | .mmaE5m2E5m2 z a b m => execMmaE5m2E5m2 z a b m s
  | .mmaI8 z a b m => execMmaI8 z a b m s
  | .mmaBf16 z a b m => execMmaBf16 z a b m s
  | .mmaF16 z a b m => execMmaF16 z a b m s
  | .mmaTriI8 z a b m => execMmaTriI8 z a b m s
  | .mmapShape m x y => execMmapShape m x y s
  | .mmapK m k o => execMmapK m k o s
  | .mmapAcc m r a b => execMmapAcc m r a b s
  | .macz r c => execMacz r c s
  | .mscl d src t m => execMscl d src t m s
  | .mbarWait n => execMbarWait n s
  | .mbarSig n => execMbarSig n s
  | .mloop c o => execMloop c o s
  | .mend => execMend s
  | .mhalt => execMhalt s
  | .mrel t => execMrel t s
  | .mset c i => execMset c i s

/-- The meaning of a chunk program's word. -/
def execChunkOp (op : ChunkOp) (s : State) : Result :=
  match op with
  | .send p b d c => execSend p b d c s
  | .recv p b d c => execRecv p b d c s
  | .redAddF32 m b d src e c => execRedAddF32 m b d src e c s
  | .redAddI32 m b d src e c => execRedAddI32 m b d src e c s
  | .redMinF32 m b d src e c => execRedMinF32 m b d src e c s
  | .redMaxF32 m b d src e c => execRedMaxF32 m b d src e c s
  | .redMinI32 m b d src e c => execRedMinI32 m b d src e c s
  | .redMaxI32 m b d src e c => execRedMaxI32 m b d src e c s
  | .redAndB32 m b d src e c => execRedAndB32 m b d src e c s
  | .redOrB32 m b d src e c => execRedOrB32 m b d src e c s
  | .drafelCopy b d src e => execDrafelCopy b d src e s
  | .waitOps n => execWaitOps n s
  | .waitGe b d v => execWaitGe b d v s
  | .sig b d v => execSig b d v s
  | .loop d o => execLoop d o s
  | .kick k c b x h => execKick k c b x h s
  | .setd d i => execSetd d i s
  | .addd d src i => execAddd d src i s
  | .brd d c o => execBrd d c o s
  | .drafelHalt => execDrafelHalt s
  | .drafelNop => execDrafelNop s

/-- The rows of the opcode table that are events of the machine; the others are words that an agent fetches. -/
def isEvent : Instr → Bool
  | .sadd _ _ _ | .ssub _ _ _ | .smul _ _ _ | .smulhI32 _ _ _ | .smulhN32 _ _ _ | .sdivI32 _ _ _ | .sdivN32 _ _ _
  | .sremI32 _ _ _ | .sremN32 _ _ _ | .sand _ _ _ | .sor _ _ _ | .sxor _ _ _ | .sandn _ _ _ | .sshl _ _ _
  | .sshr _ _ _ | .ssra _ _ _ | .sminI32 _ _ _ | .sminN32 _ _ _ | .smaxI32 _ _ _ | .smaxN32 _ _ _ | .smov _ _
  | .spopc _ _ | .sclz _ _ | .sctz _ _ | .sbrev _ _ | .scmp _ _ _ _ | .slea _ _ _ | .sbfi _ _ _ | .ssel _ _ _ _
  | .saddImm _ _ _ | .smulImm _ _ _ | .sandImm _ _ _ | .sorImm _ _ _ | .sxorImm _ _ _ | .sshlImm _ _ _
  | .sshrImm _ _ _ | .ssraImm _ _ _ | .sminI32Imm _ _ _ | .sminN32Imm _ _ _ | .smaxI32Imm _ _ _ | .smaxN32Imm _ _ _
  | .smovImm _ _ _ | .sbfeI32 _ _ _ | .sbfeN32 _ _ _ | .smovi _ _ | .srd _ _ | .swr _ _ | .nfset _ _ | .br _ _
  | .brn _ _ | .jmp _ | .call _ | .jmpReg _ | .callReg _ | .vbr _ _ _ _ | .vbrk _ _ | .split _ _ _ _ | .loan _ _ _ _
  | .lnext _ _ | .repay _ _ _ _ | .barArrive _ | .barWait _ | .barSync _ | .waitC _ _ _ _ | .sleep _ | .trap _
  | .claim _ _ _ | .giveback _ | .vadd _ _ _ | .vsub _ _ _ | .vmul _ _ _ | .vmulhI32 _ _ _ | .vmulhN32 _ _ _
  | .vmad _ _ _ | .vand _ _ _ | .vor _ _ _ | .vxor _ _ _ | .vandn _ _ _ | .vshl _ _ _ | .vshr _ _ _ | .vsra _ _ _
  | .vminI32 _ _ _ | .vminN32 _ _ _ | .vmaxI32 _ _ _ | .vmaxN32 _ _ _ | .vabsdI32 _ _ _ | .vabsdN32 _ _ _ | .vpopc _ _
  | .vclz _ _ | .vbrev _ _ | .vbfeI32 _ _ _ | .vbfeN32 _ _ _ | .vbfi _ _ _ | .vaddImm _ _ _ | .vmulImm _ _ _
  | .vandImm _ _ _ | .vorImm _ _ _ | .vxorImm _ _ _ | .vandnImm _ _ _ | .vshlImm _ _ _ | .vshrImm _ _ _
  | .vsraImm _ _ _ | .vminI32Imm _ _ _ | .vminN32Imm _ _ _ | .vmaxI32Imm _ _ _ | .vmaxN32Imm _ _ _
  | .vabsdI32Imm _ _ _ | .vabsdN32Imm _ _ _ | .vfadd _ _ _ | .vfsub _ _ _ | .vfmul _ _ _ | .vfmin _ _ _ | .vfmax _ _ _
  | .vfscale _ _ _ | .vfclass _ _ | .vhadd _ _ _ | .vhmul _ _ _ | .vffma _ _ _ | .vhfma _ _ _ | .vfrcp _ _
  | .vfrsq _ _ | .vfsqrt _ _ | .vfdiv _ _ _ | .vfexp2 _ _ | .vflog2 _ _ | .vfsin _ _ | .vfcos _ _ | .vfexp _ _
  | .vfcvtF32I32 _ _ | .vfcvtF32N32 _ _ | .vfcvtI32F32 _ _ | .vfcvtN32F32 _ _ | .vfcvtF32F16 _ _ _
  | .vfcvtF16F32 _ _ _ | .vfcvtF32Bf16 _ _ _ | .vfcvtBf16F32 _ _ _ | .vfcvtF32E4m3 _ _ _ | .vfcvtE4m3F32 _ _ _
  | .vfcvtF32E5m2 _ _ _ | .vfcvtE5m2F32 _ _ _ | .vfcvtI32I8 _ _ _ | .vfcvtI8I32 _ _ _ | .vfcvtI32Tri _ _ _
  | .vfcvtTriI32 _ _ _ | .vncvtF32 _ _ _ _ | .vncvtNf _ _ _ _ | .vfcvtI32I16 _ _ _ | .vfcvtI16I32 _ _ _
  | .vfcvtN32N8 _ _ _ | .vfcvtN8N32 _ _ _ | .vfcvtN32N16 _ _ _ | .vfcvtN16N32 _ _ _ | .vshfl _ _ _ | .vbfly _ _ _
  | .vbcast _ _ _ | .vrfl _ _ | .vred _ _ _ _ | .vredmi _ _ _ | .vscan _ _ _ _ _ | .vnbr _ _ _ _ | .vddx _ _ _
  | .vddy _ _ _ | .vballot _ _ | .vcount _ _ | .vcmpI32 _ _ _ _ _ | .vcmpN32 _ _ _ _ _ | .vfcmp _ _ _ _ _
  | .kand _ _ _ _ | .kor _ _ _ _ | .kxor _ _ _ _ | .kandn _ _ _ _ | .knot _ _ _ | .kmov _ _ _ | .kmovFromScalar _ _
  | .kmovToScalar _ _ | .kpop _ _ | .kany _ _ | .kall _ _ | .vnadd _ _ _ _ | .vnmul _ _ _ _ | .vnfma _ _ _ _
  | .vsel _ _ _ _ | .vmov _ _ | .vmovScalar _ _ | .vmovi _ _ | .vsr _ _ | .vld _ _ _ _ _ | .vst _ _ _ _ _
  | .sld _ _ _ _ _ | .sst _ _ _ _ _ | .vatomAddN32 _ _ _ _ | .vatomAddF32 _ _ _ _ | .vatomMinI32 _ _ _ _
  | .vatomMinN32 _ _ _ _ | .vatomMaxI32 _ _ _ _ | .vatomMaxN32 _ _ _ _ | .vatomAnd _ _ _ _ | .vatomOr _ _ _ _
  | .vatomXor _ _ _ _ | .vatomSwap _ _ _ _ | .vatomCas _ _ _ _ | .vatomAddN64 _ _ _ _ | .satomAddN32 _ _ _ _
  | .satomAddF32 _ _ _ _ | .satomMinI32 _ _ _ _ | .satomMinN32 _ _ _ _ | .satomMaxI32 _ _ _ _ | .satomMaxN32 _ _ _ _
  | .satomAnd _ _ _ _ | .satomOr _ _ _ _ | .satomXor _ _ _ _ | .satomSwap _ _ _ _ | .satomCas _ _ _ _
  | .satomAddN64 _ _ _ _ | .fence _ _ _ | .fenceOwn _ | .fenceFar _ | .qpush _ _ _ _ | .qpop _ _ _ _ | .tqEnq _ _ _
  | .tqDeq _ _ _ | .mint _ _ | .vpin _ _ | .xput _ _ _ _ _ | .cpTile _ _ _ | .cpBdeck _ _ _ | .cpStore _ _ _
  | .cpCopy _ _ _ | .tdef _ _ | .tfree _ | .tstat _ _ | .tex3 _ _ _ | .texp _ _ _ | .isectRay _ _ _ | .isectTile _ _ _
  | .isectNext _ | .hdesc _ | .hgath _ _ | .hscat _ _ | .vaccRd _ _ _ _ | .vaccWr _ _ _ _ | .pfx _ | .mod _
  | .sch _ _ _ | .ret | .join | .exit | .refill | .ldone | .rgn | .yield | .nop | .wpred | .sucstart | .eret | .halt
  | .brkpt | .mmaE4m3E4m3 _ _ _ _ | .mmaE4m3E5m2 _ _ _ _ | .mmaE5m2E4m3 _ _ _ _ | .mmaE5m2E5m2 _ _ _ _
  | .mmaI8 _ _ _ _ | .mmaBf16 _ _ _ _ | .mmaF16 _ _ _ _ | .mmaTriI8 _ _ _ _ | .mmapShape _ _ _ | .mmapK _ _ _
  | .mmapAcc _ _ _ _ | .macz _ _ | .mscl _ _ _ _ | .mbarWait _ | .mbarSig _ | .mloop _ _ | .mend | .mhalt | .mrel _
  | .mset _ _ | .send _ _ _ _ | .recv _ _ _ _ | .redAddF32 _ _ _ _ _ _ | .redAddI32 _ _ _ _ _ _
  | .redMinF32 _ _ _ _ _ _ | .redMaxF32 _ _ _ _ _ _ | .redMinI32 _ _ _ _ _ _ | .redMaxI32 _ _ _ _ _ _
  | .redAndB32 _ _ _ _ _ _ | .redOrB32 _ _ _ _ _ _ | .drafelCopy _ _ _ _ | .waitOps _ | .waitGe _ _ _ | .sig _ _ _
  | .loop _ _ | .kick _ _ _ _ _ | .setd _ _ | .addd _ _ _ | .brd _ _ _ | .drafelHalt | .drafelNop =>
    false
  | .registerWrite _ _ _ _ | .deferredTrap | .pathAgeLimit _ | .rejoinDeadlock _ | .pathForceMerge _ | .sleepExpire _
  | .schStallExpire _ | .claimGrant _ _ | .queueRetry _ | .waitLimit _ | .loadDataReturn _ _ | .storePerformed _
  | .atomicPerform _ | .hscatAddsPerformed _ | .hdescLoaded _ | .isectResult _ | .translationWalk _ _
  | .directoryRecall _ | .copyFillComplete _ | .copyDrainComplete _ | .cpCopyComplete _ | .engineUeStop _ _
  | .streamFetch _ | .tellerGrant _ | .passRetire _ | .vaultAdderComplete _ | .preemptionRequest | .contextSave
  | .contextRestore _ | .graphicsWaveReissue _ | .nevWindowEnd _ _ | .nevwinWrite _ _ _ | .nevstatClear _ _
  | .cqdescWrite _ _ | .cqnotWrite _ _ _ | .cqstatResume _ | .cqdropRead | .ringNop _ | .ringLaunch _ | .ringWait _
  | .ringWaitComplete _ | .ringFrame _ | .indirectCountRead _ | .blockDispatch _ _ | .blockComplete _
  | .budgetExpiry _ _ | .itemTaskMove _ | .sendTransferStart _ _ | .data _ | .ack _ | .write _ | .wack _ _
  | .pause _ _ | .resume _ _ | .close _ _ | .flitCrcRetransmit _ | .programUnpark _ | .collectiveTimeout _
  | .clctlLoad _ | .clctlStop _ | .clstatIrqClear _ | .ptrootWrite _ | .tlbinvWrite _ | .tlbInvalidateDone
  | .hotnessHalving | .migrationStart | .migrationCopy | .migrationFinish | .migstatRead | .assayStart _
  | .assayEnd _ _ | .rasceRead | .rasueRead | .islandDvfs _ _ | .droopStretch _ | .thermalThrottle _ _
  | .thermalTrip _ _ | .linkRetrain _ | .boot _ | .attctlGo | .attestDone | .dumpctlGo | .dumpEnd | .clusterStop _
  | .dbgctlStop _ | .dbgctlResume _ | .dbgctlStep _ _ _ _ | .stepTimeout _ | .whmoreRead _ | .watchpointHitsRead _ _
  | .breakpointHitsRead _ _ | .debugHoldWrite _ _ _ | .debugSsWrite _ _ _ | .stallSample _ | .smpctlWrite _ _
  | .smpdropRead _ | .trctlWrite _ _ | .trstatGapClear _ | .trlostRead _ | .notAnInstruction _
  | .notADrafelInstruction _ | .hostMemoryAccess _ | .vaccWrPerformed _ | .tableEntryUpdated _
  | .localDataOperationComplete _ _ | .reservedTypeFlit _ | .invalidRingEntry _ | .retrainingEnd _ =>
    true

/-! Turns. -/

/-- A path's turn: a due trap, a breakpoint, or the word at its PC, whose fetch counts (R339). -/
def State.turnPath (s : State) (pid : Nat) : Result :=
  match s.path pid with
  | none => .next s
  | some p =>
    if !s.mayIssue pid p then .next s
    else if p.nextDue.isSome && (p.hints.isEmpty || p.st == .waiting) then execDeferredTrap s
    else
      if s.breaksWait pid p then .next (s.waitAt pid false .translation)
      else
        match s.breakpoints pid p with
        | n :: ns => .next (s.breakAt pid p (n :: ns))
        | [] =>
          match s.fetch pid p with
          | .wait => .next (s.waitAt pid false .translation)
          | .reject why => execNotAnInstruction why (s.fetched pid p)
          | .instr i => exec i (s.fetched pid p)

/-- The first entry of a stream that has not issued, after a fetch where there is none. -/
def State.streamReady (s : State) (bid : Nat) : State :=
  match ((s.block bid).bind (·.stream)).bind Stream.head with
  | some _ => s
  | none => (match execStreamFetch bid s with | .next t => t | .fault _ | .refused _ => s)

/-- A stream's turn: what its table lets happen at once, a fetch where it is due, then the first entry not issued; a defective word
stops the stream (R162). -/
def State.turnStream (s : State) (bid : Nat) : Result :=
  let t := (s.settleStream bid).streamReady bid
  match ((t.block bid).bind (·.stream)).bind Stream.head with
  | none => .next t
  | some e =>
    match e.op with
    | some op => execStreamOp op t
    | none => if t.run.running && !t.run.halted then .next (t.stopStream bid e.addr e.cause) else .next t

/-- A clearing program's turn: the word at its PC. -/
def State.turnClearing (s : State) (cid : Nat) : Result :=
  match (s.clear cid).program[(s.clear cid).pc]? with
  | none => execNotADrafelInstruction .outside s
  | some w =>
    match decodeChunk w.toNat with
    | .ok op => execChunkOp op s
    | .error _ => execNotADrafelInstruction (.word w) s

/-- The turn of the agent that moves. -/
def State.turn (s : State) : Result :=
  match s.cur with
  | .idle => .next s
  | .path pid => s.turnPath pid
  | .stream bid => s.turnStream bid
  | .clearing cid => s.turnClearing cid

/-- Whether a path's turn would leave it waiting at its word with nothing begun: no arrival counted, no claim made, no request sent to a
queue and no breakpoint met. -/
def stillWaits (p : Path) (s t : State) (pid : Nat) : Bool :=
  match t.path pid with
  | some q =>
    q.st == .waiting && q.pc == p.pc && q.sleep == 0 && q.hints == p.hints && q.arrivedAt == p.arrivedAt && q.wait != .queue
      && (q.wait != .breakpoint || p.wait == .breakpoint) && (t.core (coreOf pid)).claims == (s.core (coreOf pid)).claims
  | none => false

/-- A path whose wait is over: ready from now on, whether or not it gets the pipe (R221). A path stopped at a breakpoint, or in a queue, is
made ready by what ends that. -/
def Path.woken (p : Path) (now : Nat) : Path :=
  if p.st = .waiting ∧ p.sleep = 0 ∧ p.wait ≠ .breakpoint ∧ p.wait ≠ .queue ∧ p.nextDue.isNone then
    { p with st := .ready, wait := .none, waitFrom := none, readyAt := now }
  else p

/-- A pipe's paths tried: those that have to wait are left waiting, so that their ages stand still (R221); the others may issue, and are
ready if they were waiting. -/
def State.tryPaths (s : State) : List (Nat × Path) → State × List Nat
  | [] => (s, [])
  | (pid, p) :: rest =>
    let may (s : State) : State × List Nat :=
      let r := (s.setPath pid (p.woken (s.icc (coreOf pid)))).tryPaths rest
      (r.1, pid :: r.2)
    match ({ s with cur := .path pid } : State).turnPath pid with
    | .next t => if stillWaits p s t pid then t.tryPaths rest else may s
    | .fault _ | .refused _ => may s

/-- A pipe's turn (R198): the first of its paths that does not have to wait, in order, those that a yield passes over last and once
(R23, R221; log entry 118). -/
def State.turnPipe (s : State) (core pipe : Nat) : Result :=
  let ps := s.pipePaths core pipe
  let s1 := ps.foldl (fun t q => t.onPath q.1 fun p => { p with passOver := false }) s
  match s1.tryPaths ((ps.filter fun q => !q.2.passOver) ++ ps.filter fun q => q.2.passOver) with
  | (t, pid :: _) => ({ t with cur := .path pid } : State).turnPath pid
  | (t, []) => .next t

/-- Whether an event is an access of the host over its link: to device memory, or to a register of a control page (R58, R317, R391). -/
def overHostLink (i : Instr) : Bool :=
  match i with
  | .hostMemoryAccess (.pathRead _ _ _ _ _) | .hostMemoryAccess (.pathWrite _ _ _ _ _) => false
  | .hostMemoryAccess _ | .registerWrite _ _ _ _ | .pathForceMerge _ | .nevwinWrite _ _ _ | .nevstatClear _ _ | .cqdescWrite _ _
  | .cqnotWrite _ _ _ | .cqstatResume _ | .cqdropRead | .clctlLoad _ | .clctlStop _ | .clstatIrqClear _ | .ptrootWrite _
  | .tlbinvWrite _ | .migstatRead | .rasceRead | .rasueRead | .attctlGo | .dumpctlGo | .dbgctlStop _ | .dbgctlResume _
  | .dbgctlStep _ _ _ _ | .whmoreRead _ | .watchpointHitsRead _ _ | .breakpointHitsRead _ _ | .debugHoldWrite _ _ _
  | .debugSsWrite _ _ _ | .smpctlWrite _ _ | .smpdropRead _ | .trctlWrite _ _ | .trstatGapClear _ | .trlostRead _ => true
  | _ => false

/-- One entry of the schedule (log entry 3). An access over the host link is held back while the link retrains (R391; log entry 32), and
soft errors strike (R384; log entry 16). -/
def State.act (s : State) (a : Act) : Result :=
  match a with
  | .agent g => ({ s with cur := g } : State).turn
  | .pipe core pipe => s.turnPipe core pipe
  | .event i => if isEvent i && !(overHostLink i && s.linksDown.contains hostLink) then exec i s else .next s
  | .strike e => .next (s.struck e)

/-! One word placed where the next turn fetches it (log entry 7). -/

/-- The virtual and the physical address of the placed word. -/
def placeVa : Nat := 0x40000
def placePa : Nat := 0x50000

/-- The leaf entry that maps the placed word's page: valid, user, writable, device memory. -/
def placePte : DWord := BitVec.ofNat 64 (2 ^ 63 + placePa + 7)

/-- A word stored and mapped for core 0. -/
def State.placeWord (s : State) (w : Nat) : State :=
  let k := s.core 0
  ({ s with
    schedule := [], stopped := false, mem := Memory.write s.mem placePa (bytesOf 4 w), ops := [], move := none } : State).setCore 0
      { k with tlb := ⟨false, placeVa / 65536, placePte⟩ :: k.tlb }

/-- A block on core 0 with wave 0 in slot 0, and its stream if it has one. -/
def placeBlock (stream : Option Stream) : Block :=
  { launch := 0, index := 0, core := 0, waves := [0], first := 0, base := 0, scratch := 131072, allotment := 262144, tiles := 0,
    nf := [], awb := 0, awl := 0, barriers := [], hash := none, stream := stream, sucstart := false, wpredDone := false }

/-- A wave of 128 registers and four lanes. -/
def placeWave : Wave :=
  { block := 0, index := 0, role := 0, lanesL := 4, live := lowLanes 4, lent := 0, regCount := 128, tvec := 0, pin := none,
    positions := [], counts := [], arrivals := 0, seen := [], reservation := 0, start := none, entry := placeVa, killed := false,
    reissues := (0, 0), skid := 0, last := 0, lastAt := none, issuedIn := none, freed := [], idled := 0, idledAt := 0, due := [] }

/-- The path at the placed word. -/
def placePath (clk : Nat) : Path := { Path.fresh placeVa (lowLanes 4) clk with exempt := true }

/-- A context that runs block 0, and cluster 0 not stopped. -/
def State.placeContext (s : State) (stream : Option Stream) : State :=
  let s1 := s.setCluster 0 { s.cluster 0 with stopped := false, stepping := none, stopping := none }
  ((({ s1 with run := { s1.run with running := true, halted := false, tokens := tdel s1.run.tokens 0 } } : State).setBlock 0
    (placeBlock stream)).setWave 0 placeWave).setPath 0 (placePath (s1.icc 0))

/-- Clearing context 0 with a program of the one word. -/
def placeClear (w : Nat) : Clear := { Clear.reset with st := .running, program := [BitVec.ofNat 32 w] }

/-- A word placed for the agent whose instruction it is: a wave, else a stream, else a clearing program. -/
def State.placeFor (s : State) (w : Nat) : State :=
  match decodeWave w, decodeStream w, decodeChunk w with
  | .error _, .ok _, _ => { (s.placeWord w).placeContext (some (Stream.start placeVa none)) with cur := .stream 0 }
  | .error _, .error _, .ok _ => { s.setClear 0 (placeClear w) with cur := .clearing 0, schedule := [], stopped := false }
  | _, _, _ => { (s.placeWord w).placeContext none with cur := .path 0 }

end Sys2Proof.Machine
end

