-- ==== Sys2Proof/Machine/Step.lean ====
section
/-! DEFINITION. One step of the machine: the next entry of the schedule, or the current agent's turn (R317; log entries 3, 7). -/

namespace Sys2Proof.Machine

/-- One step. A module whose clocks have stopped makes none (R390). What time brings by itself comes first. With no entry in the schedule,
the current agent takes its turn and a cc passes. -/
def step (s : State) : Host.Outcome State Fault Refusal :=
  if s.stopped then .fault .clocksStopped
  else
    match s.schedule with
    | m :: ms => (({ s with schedule := ms } : State).elapse (max s.clk m.cc)).act m.act
    | [] =>
      match (s.elapse s.clk).turn with
      | .next t => .next { t with clk := t.clk + 1 }
      | .fault f => .fault f
      | .refused r => .refused r

/-- The state with one word placed where its agent fetches it next; the word's bits are those of the table. -/
def State.withFetchWord (s : State) (nbits w : Nat) : State := s.placeFor (numOfBytes (bytesOfWord (w % 2 ^ nbits)))

end Sys2Proof.Machine
end

