-- ==== Sys2Proof/Safety.lean ====
section
/-! DEFINITION. The terms in which claims are stated: when a path issues an instruction, what stays as it was, and the results
that the spec's rules give, written as bit-vector arithmetic. -/

namespace Sys2Proof.Machine

/-! When an instruction issues. -/

/-- What an issuing instruction knows of its path and of the bundle's hint words (R18 to R24). -/
def ctxOf (i : Instr) (pid : Nat) (p : Path) (s : State) : Ctx :=
  ⟨pid, p, s.waveOf pid, bundleMod p.hints, bundlePfx p.hints, (bundleSch p.hints).1, p.bundleStart, encodeWord i⟩

/-- The conditions under which a path's bundle of `i` is taken up as an instruction word: it is the path's turn; the path exists and may
issue (R308, R357, R369); no trap is due (R307); the bundle is well formed for `i` (R18 to R23); its scalar groups are lawful
(R14). -/
def taken (i : Instr) (s : State) (c : Ctx) : Bool :=
  let r := i.regs c.mods c.pfx.length
  s.cur == .path c.pid && s.path c.pid == some c.p && decide (c = ctxOf i c.pid c.p s)
    && s.mayIssue c.pid c.p
    && (c.p.nextDue.isNone || (!c.p.hints.isEmpty && c.p.st != .waiting))
    && (bundleDefect i.pfxLimit i.admitsMod c.p.hints 0 false false).isNone
    && !scalarBad (r.sr ++ r.sw)

/-- The conditions under which a bundle that is taken up reaches the checks of its operands: its fields name what they can name (R11, R17);
its stall count has run out (R23); a helper path may execute it (R64); it does not park at a meeting point (R208); and no pending
operation will write its registers, or exec where it is read (R14, R135). -/
def checked (i : Instr) (s : State) (c : Ctx) : Bool :=
  taken i s c
    && !misnames i
    && (c.counted || decide (c.p.issuedAt + (bundleSch c.p.hints).2 ≤ s.icc c.core))
    && !(c.helper && i.helperUse == .outOfContext)
    && (!i.meets || (s.meet c.pid c.p (i == .halt)).isNone)
    && (s.operandsPending c.pid (i.waitsOn c.mods c.pfx.length)).isNone

/-- The conditions under which a path issues `i` and the instruction's own effect follows: its operands are checked; it selects an element
that there is (R113); its registers exist and may be written (R15, R64, R292); a region that it commits has its loads returned (R80,
R319); and its counter is below its limit and the core has room for its requests (R1, R88). -/
def ready (i : Instr) (s : State) (c : Ctx) : Bool :=
  let r := i.regs c.mods c.pfx.length
  checked i s c
    && !s.selectsBeyond c.pid i
    && !s.boundsBad c.pid c.wid r
    && !(c.helper && helperWriteBad r)
    && (!(i.commits && c.p.region.isSome) || (s.pendingLoad c.pid).isNone)
    && (match i.opClass with | some k => !s.classFull c.pid k (i.requests c.lanes.length) | none => true)

/-- The state in which the instruction's own effect happens: an open replay region of the path is committed first by an
instruction that commits one (R80). -/
def State.entered (s : State) (i : Instr) (c : Ctx) : State := if i.commits then s.commitRegion c.pid else s

/-! Results of the scalar and vector integer rules as bit-vector arithmetic. -/

/-- R65 and R66: destination, sources and result of a two-source scalar instruction on `w`-bit operands. -/
def scalarTwo (w : Nat) : Instr → Option (BitVec 7 × BitVec 7 × BitVec 7 × (BitVec w → BitVec w → BitVec w))
  | .sadd d a b => some (d, a, b, fun x y => x + y)
  | .ssub d a b => some (d, a, b, fun x y => x - y)
  | .smul d a b => some (d, a, b, fun x y => x * y)
  | .smulhI32 d a b => some (d, a, b, fun x y => (x.signExtend (2 * w) * y.signExtend (2 * w)).extractLsb' w w)
  | .smulhN32 d a b => some (d, a, b, fun x y => (x.zeroExtend (2 * w) * y.zeroExtend (2 * w)).extractLsb' w w)
  | .sdivI32 d a b => some (d, a, b, fun x y => if y = 0 then BitVec.allOnes w else x.sdiv y)
  | .sdivN32 d a b => some (d, a, b, fun x y => if y = 0 then BitVec.allOnes w else x.udiv y)
  | .sremI32 d a b => some (d, a, b, fun x y => if y = 0 then x else x.srem y)
  | .sremN32 d a b => some (d, a, b, fun x y => if y = 0 then x else x.umod y)
  | .sand d a b => some (d, a, b, fun x y => x &&& y)
  | .sor d a b => some (d, a, b, fun x y => x ||| y)
  | .sxor d a b => some (d, a, b, fun x y => x ^^^ y)
  | .sandn d a b => some (d, a, b, fun x y => x &&& ~~~y)
  | .sshl d a b => some (d, a, b, fun x y => x <<< (y.toNat % w))
  | .sshr d a b => some (d, a, b, fun x y => x >>> (y.toNat % w))
  | .ssra d a b => some (d, a, b, fun x y => x.sshiftRight (y.toNat % w))
  | .sminI32 d a b => some (d, a, b, fun x y => if x.slt y then x else y)
  | .sminN32 d a b => some (d, a, b, fun x y => if x.ult y then x else y)
  | .smaxI32 d a b => some (d, a, b, fun x y => if x.slt y then y else x)
  | .smaxN32 d a b => some (d, a, b, fun x y => if x.ult y then y else x)
  | .smov d a => some (d, a, a, fun x _ => x)
  | _ => none

/-- R65: destination, w, immediate field and result of a SOPI instruction; the destination is the first source. -/
def scalarImm (w : Nat) : Instr → Option (BitVec 7 × Bool × BitVec 12 × (BitVec w → BitVec w → BitVec w))
  | .saddImm d q k => some (d, q, k, fun x y => x + y)
  | .smulImm d q k => some (d, q, k, fun x y => x * y)
  | .sandImm d q k => some (d, q, k, fun x y => x &&& y)
  | .sorImm d q k => some (d, q, k, fun x y => x ||| y)
  | .sxorImm d q k => some (d, q, k, fun x y => x ^^^ y)
  | .sshlImm d q k => some (d, q, k, fun x y => x <<< (y.toNat % w))
  | .sshrImm d q k => some (d, q, k, fun x y => x >>> (y.toNat % w))
  | .ssraImm d q k => some (d, q, k, fun x y => x.sshiftRight (y.toNat % w))
  | .sminI32Imm d q k => some (d, q, k, fun x y => if x.slt y then x else y)
  | .sminN32Imm d q k => some (d, q, k, fun x y => if x.ult y then x else y)
  | .smaxI32Imm d q k => some (d, q, k, fun x y => if x.slt y then y else x)
  | .smaxN32Imm d q k => some (d, q, k, fun x y => if x.ult y then y else x)
  | .smovImm d q k => some (d, q, k, fun _ y => y)
  | _ => none

/-- R20: an immediate of `n` bits with the bundle's pfx words above it, the first pfx highest, sign-extended to 64 bits. -/
def widenedImm {n : Nat} (pfx : List Nat) (k : BitVec n) : DWord :=
  match pfx with
  | [] => k.signExtend 64
  | [p] => (BitVec.ofNat 24 p ++ k).signExtend 64
  | p :: q :: _ => ((BitVec.ofNat 24 p ++ BitVec.ofNat 24 q) ++ k).signExtend 64

/-- R67: the field of `x` that starts at bit `pos`, `wid` bits wide; bits of `x` past its top read as zero. -/
def fieldZero {w : Nat} (x : BitVec w) (pos wid : Nat) : BitVec w :=
  (x >>> pos) &&& ~~~(BitVec.allOnes w <<< wid)

/-- R67: the same field, its top bit and the bits of `x` past its top copied as signs. -/
def fieldSign {w : Nat} (x : BitVec w) (pos wid : Nat) : BitVec w :=
  if wid = 0 then 0 else if w ≤ wid then x.sshiftRight pos
  else (x.sshiftRight pos <<< (w - wid)).sshiftRight (w - wid)

/-- R67: the field of `old` at `pos`, `wid` bits wide, replaced by the low bits of `new`; what passes the top is dropped. -/
def fieldInsert {w : Nat} (old new : BitVec w) (pos wid : Nat) : BitVec w :=
  let m := ~~~(BitVec.allOnes w <<< wid) <<< pos
  (old &&& ~~~m) ||| ((new <<< pos) &&& m)

/-- R27 and R68: the conditions of an integer compare. -/
def condHolds {w : Nat} (k : CmpCond) (x y : BitVec w) : Bool :=
  match k with
  | .eq => x == y
  | .ne => x != y
  | .lt => x.slt y
  | .le => x.sle y
  | .gt => y.slt x
  | .ge => y.sle x
  | .ltN => x.ult y
  | .leN => x.ule y
  | .gtN => y.ult x
  | .geN => y.ule x
  | .ord => true
  | .unord => false

/-! Special registers, descriptors and targets. -/

/-- R16, R201, R355: the scalar-valued special registers by number, with the scalars that a read gives, lowest first. -/
def srTable (s : State) (c : Ctx) (w : Wave) (b : Block) : List (Nat × List Word) :=
  [(0x010, [BitVec.ofNat 32 w.index]), (0x011, [pathWord c.pid]), (0x012, [BitVec.ofNat 32 w.role]), (0x013, [coreWord c.wid]),
   (0x014, [BitVec.ofNat 32 b.base])]
    ++ (List.range 8).map (fun k => (0x018 + k, [w.positions.getD k 0]))
    ++ (List.range 8).map (fun k => (0x020 + k, [w.counts.getD k 1]))
    ++ [(0x030, [b.awb]), (0x031, [b.awl]), (0x032, [c.p.loanst]),
        (0x038, [(BitVec.ofNat 64 s.clk).extractLsb' 0 32, (BitVec.ofNat 64 s.clk).extractLsb' 32 32]),
        (0x040, [w.tvec.extractLsb' 0 32, w.tvec.extractLsb' 32 32]), (0x041, [c.p.epc.extractLsb' 0 32, c.p.epc.extractLsb' 32 32]),
        (0x042, [c.p.ecause]), (0x043, [c.p.eaux.extractLsb' 0 32, c.p.eaux.extractLsb' 32 32]),
        (0x044, [c.p.emask.extractLsb' 0 32, c.p.emask.extractLsb' 32 32, c.p.emask.extractLsb' 64 32])]

/-- R16: the scalar-valued special registers whose Write column says none. -/
def srReadOnly : List Nat :=
  [0x010, 0x011, 0x012, 0x013, 0x014] ++ (List.range 16).map (0x018 + ·) ++ [0x032, 0x038]

/-- R47 and R48: whether a word is a valid format descriptor. -/
def descriptorValid (v : Word) : Bool :=
  let wid := (v.extractLsb' 20 4).toNat
  let ew := (v.extractLsb' 17 3).toNat
  let mw := (v.extractLsb' 14 3).toNat
  let sgn := (v.extractLsb' 13 1).toNat
  let inf := v.extractLsb' 6 2
  let nan := v.extractLsb' 4 2
  (wid == 4 || wid == 6 || wid == 8) && wid == sgn + ew + mw && v.extractLsb' 24 8 == 0#8 && v.extractLsb' 0 3 == 0#3
    && decide (ew ≤ 5) && (inf == 0 || inf == 1) && nan != 3
    && (ew != 0 || (inf == 0 && nan == 0))
    && (inf != 1 || (nan == 1 && decide (2 ≤ ew) && decide (1 ≤ mw)))
    && (nan != 1 || inf == 1) && (nan != 2 || decide (1 ≤ ew)) && (ew == 0 || !v.getLsbD 3 || inf == 1)

/-- R10, R20, R72: the address `off` words from `pc`, modulo 2^49. -/
def wordsFrom (pc : Nat) (off : DWord) : Nat := (BitVec.ofNat 49 pc + 4#49 * off.truncate 49).toNat

/-- The trap entry of R302 on the path that takes it: the four registers, the mode and the PC. -/
def Path.trapped (p : Path) (q : Path) (cause : Nat) (epc eaux : DWord) (handler : DWord) : Prop :=
  q.epc = epc ∧ q.eaux = eaux ∧ q.ecause.toNat = cause + (if p.sys then 256 else 0) ∧ q.emask = p.mask ∧ q.sys = true
    ∧ q.pc = codeAddr handler ∧ q.mask = p.mask ∧ q.flags = p.flags ∧ q.token = p.token

/-! Vector forms. -/

/-- Element `j` of width `n` of a lane (R37). -/
def elem (n : Nat) (w : Word) (j : Nat) : BitVec n := w.extractLsb' (n * j) n

/-- R102, R103: destination, sources and result of a packed two-source vector integer instruction on `n`-bit elements. -/
def vectorTwo (n : Nat) : Instr → Option (BitVec 7 × BitVec 7 × BitVec 7 × (BitVec n → BitVec n → BitVec n))
  | .vadd d a b => some (d, a, b, fun x y => x + y)
  | .vsub d a b => some (d, a, b, fun x y => x - y)
  | .vmul d a b => some (d, a, b, fun x y => x * y)
  | .vand d a b => some (d, a, b, fun x y => x &&& y)
  | .vor d a b => some (d, a, b, fun x y => x ||| y)
  | .vxor d a b => some (d, a, b, fun x y => x ^^^ y)
  | .vandn d a b => some (d, a, b, fun x y => x &&& ~~~y)
  | .vshl d a b => some (d, a, b, fun x y => x <<< (y.toNat % n))
  | .vshr d a b => some (d, a, b, fun x y => x >>> (y.toNat % n))
  | .vsra d a b => some (d, a, b, fun x y => x.sshiftRight (y.toNat % n))
  | .vminI32 d a b => some (d, a, b, fun x y => if x.slt y then x else y)
  | .vminN32 d a b => some (d, a, b, fun x y => if x.ult y then x else y)
  | .vmaxI32 d a b => some (d, a, b, fun x y => if x.slt y then y else x)
  | .vmaxN32 d a b => some (d, a, b, fun x y => if x.ult y then y else x)
  | .vabsdI32 d a b => some (d, a, b, fun x y => if x.slt y then y - x else x - y)
  | .vabsdN32 d a b => some (d, a, b, fun x y => if x.ult y then y - x else x - y)
  | _ => none

/-- R102, R103: destination, source, immediate field and result of a packed vector integer instruction with an immediate. -/
def vectorImm (n : Nat) : Instr → Option (BitVec 7 × BitVec 7 × BitVec 8 × (BitVec n → BitVec n → BitVec n))
  | .vaddImm d a k => some (d, a, k, fun x y => x + y)
  | .vmulImm d a k => some (d, a, k, fun x y => x * y)
  | .vandImm d a k => some (d, a, k, fun x y => x &&& y)
  | .vorImm d a k => some (d, a, k, fun x y => x ||| y)
  | .vxorImm d a k => some (d, a, k, fun x y => x ^^^ y)
  | .vandnImm d a k => some (d, a, k, fun x y => x &&& ~~~y)
  | .vshlImm d a k => some (d, a, k, fun x y => x <<< (y.toNat % n))
  | .vshrImm d a k => some (d, a, k, fun x y => x >>> (y.toNat % n))
  | .vsraImm d a k => some (d, a, k, fun x y => x.sshiftRight (y.toNat % n))
  | .vminI32Imm d a k => some (d, a, k, fun x y => if x.slt y then x else y)
  | .vminN32Imm d a k => some (d, a, k, fun x y => if x.ult y then x else y)
  | .vmaxI32Imm d a k => some (d, a, k, fun x y => if x.slt y then y else x)
  | .vmaxN32Imm d a k => some (d, a, k, fun x y => if x.ult y then y else x)
  | .vabsdI32Imm d a k => some (d, a, k, fun x y => if x.slt y then y - x else x - y)
  | .vabsdN32Imm d a k => some (d, a, k, fun x y => if x.ult y then y - x else x - y)
  | _ => none

/-- R102, R104: destination, sources and result of a vector integer instruction on whole 32-bit lanes. -/
def vectorWhole : Instr → Option (BitVec 7 × BitVec 7 × BitVec 7 × (Word → Word → Word))
  | .vmulhI32 d a b => some (d, a, b, fun x y => (x.signExtend 64 * y.signExtend 64).extractLsb' 32 32)
  | .vmulhN32 d a b => some (d, a, b, fun x y => (x.zeroExtend 64 * y.zeroExtend 64).extractLsb' 32 32)
  | .vbfeI32 d a b => some (d, a, b, fun x y => fieldSign x (y.extractLsb' 8 6).toNat (y.extractLsb' 0 6).toNat)
  | .vbfeN32 d a b => some (d, a, b, fun x y => fieldZero x (y.extractLsb' 8 6).toNat (y.extractLsb' 0 6).toNat)
  | .vpopc d a => some (d, a, a, fun x _ => BitVec.ofNat 32 ((List.range 32).filter x.getLsbD).length)
  | .vbrev d a => some (d, a, a, fun x _ => x.reverse)
  | .vmov d a => some (d, a, a, fun x _ => x)
  | _ => none

/-- R102: the exact integer operation of the three instructions that take sat. -/
def saturating : Instr → Option (Int → Int → Int)
  | .vadd _ _ _ | .vaddImm _ _ _ => some (· + ·)
  | .vsub _ _ _ => some (· - ·)
  | .vmul _ _ _ | .vmulImm _ _ _ => some (· * ·)
  | _ => none

/-- A lane-wise result: the active lanes of the destination take these values, and nothing is counted. -/
def State.laneResult (s : State) (c : Ctx) (d : BitVec 7) (f : Nat → Word) : State :=
  (s.putLanes c.pid d.toNat ((lanesOf c.p.mask).map fun l => (l, f l))).retire c c.nextPc none

/-- A lane-wise result with the numerical events of each active lane, counted as R57 says. -/
def State.laneResultCounted (s : State) (c : Ctx) (d : BitVec 7) (f : Nat → Word × Events) : State :=
  ((s.putLanes c.pid d.toNat ((lanesOf c.p.mask).map fun l => (l, (f l).1))).countLanes c
    ((lanesOf c.p.mask).map fun l => (f l).2)).retire c c.nextPc none

/-! Floating-point forms: the exact operation on the operands, and one rounding (R41, R43, R105 to R112). -/

/-- The rational number that a finite value is. -/
def FV.rat : FV → ℚ
  | .fin neg m e => (if neg then -1 else 1) * (m : ℚ) * (2 : ℚ) ^ e
  | .inf _ | .nan => 0

def FV.isFin : FV → Bool
  | .fin _ _ _ => true
  | .inf _ | .nan => false

/-- An exact result with its events, rounded once to FP32. -/
def rounded32 (rnd : Rnd) (ftz : Bool) (v : FV × Events) : Word × Events :=
  ((out32 rnd ftz v.1).1, (out32 rnd ftz v.1).2 ||| v.2)

/-- R105, R106, R110: destination, sources and result of a two-source FP32 instruction. -/
def floatTwo (m : ModFields) : Instr → Option (BitVec 7 × BitVec 7 × BitVec 7 × (Word → Word → Word × Events))
  | .vfadd d a b => some (d, a, b, fun x y => rounded32 m.rnd m.ftz (FV.add m.rnd (fin32 m.ftz x) (fin32 m.ftz y)))
  | .vfsub d a b => some (d, a, b, fun x y => rounded32 m.rnd m.ftz (FV.add m.rnd (fin32 m.ftz x) (fin32 m.ftz y).neg))
  | .vfmul d a b => some (d, a, b, fun x y => rounded32 m.rnd m.ftz (FV.mul (fin32 m.ftz x) (fin32 m.ftz y)))
  | .vfdiv d a b => some (d, a, b, fun x y => rounded32 .rne m.ftz (FV.div (fin32 m.ftz x) (fin32 m.ftz y)))
  | .vfscale d a b => some (d, a, b, fun x y => rounded32 m.rnd m.ftz ((fin32 m.ftz x).scale y.toInt, 0))
  | .vfmin d a b => some (d, a, b, fun x y => (minmax32 false m.ftz x y, 0))
  | .vfmax d a b => some (d, a, b, fun x y => (minmax32 true m.ftz x y, 0))
  | _ => none

/-- R107, R110: destination, source and result of a one-source FP32 instruction. -/
def floatOne (m : ModFields) : Instr → Option (BitVec 7 × BitVec 7 × (Word → Word × Events))
  | .vfrcp d a => some (d, a, fun x => rounded32 .rne m.ftz (FV.div (.fin false 1 0) (fin32 m.ftz x)))
  | .vfrsq d a => some (d, a, fun x => rounded32 .rne m.ftz (fin32 m.ftz x).rsqrt)
  | .vfsqrt d a => some (d, a, fun x => rounded32 .rne m.ftz (fin32 m.ftz x).sqrt)
  | .vfexp2 d a => some (d, a, fun x => rounded32 .rne m.ftz (fin32 m.ftz x).exp2)
  | .vflog2 d a => some (d, a, fun x => rounded32 .rne m.ftz (fin32 m.ftz x).log2)
  | .vfsin d a => some (d, a, fun x => rounded32 .rne m.ftz (fin32 m.ftz x).sin)
  | .vfcos d a => some (d, a, fun x => rounded32 .rne m.ftz (fin32 m.ftz x).cos)
  | .vfexp d a => some (d, a, fun x => rounded32 .rne m.ftz (fin32 m.ftz x).exp)
  | .vfclass d a => some (d, a, fun x => (BitVec.ofNat 32 (class32 x), 0))
  | .vfcvtF32I32 d a => some (d, a, fun x => rounded32 m.rnd m.ftz (FV.ofInt x.toInt, 0))
  | .vfcvtF32N32 d a => some (d, a, fun x => rounded32 m.rnd m.ftz (FV.ofInt x.toNat, 0))
  | .vfcvtI32F32 d a => some (d, a, fun x =>
      let r := toIntClamped m.rnd (-2147483648) 2147483647 (fin32 m.ftz x)
      (BitVec.ofInt 32 r.1, r.2))
  | .vfcvtN32F32 d a => some (d, a, fun x =>
      let r := toIntClamped m.rnd 0 4294967295 (fin32 m.ftz x)
      (BitVec.ofInt 32 r.1, r.2))
  | _ => none

/-- R123: the value of a reduction over no lane. -/
def redEmpty : RedOp → ElemTy → Word
  | .min, .i32 => 0x7FFFFFFF
  | .min, .n32 => 0xFFFFFFFF
  | .min, .f32 => 0x7F800000
  | .max, .i32 => 0x80000000
  | .max, .f32 => 0xFF800000
  | .and, _ => 0xFFFFFFFF
  | .max, .n32 | .add, _ | .addDet, _ | .or, _ | .xor, _ => 0

/-- R123, R125: one step of a reduction: two values combined, a float sum rounded once, with its events. -/
def redStep (op : RedOp) (t : ElemTy) (rnd : Rnd) (ftz : Bool) (x y : Word) : Word × Events :=
  match op, t with
  | .add, .f32 | .addDet, .f32 => rounded32 rnd ftz (FV.add rnd (fin32 ftz x) (fin32 ftz y))
  | .add, .i32 | .add, .n32 | .addDet, .i32 | .addDet, .n32 => (x + y, 0)
  | .min, .i32 => (if y.slt x then y else x, 0)
  | .min, .n32 => (if y.ult x then y else x, 0)
  | .min, .f32 => (minmax32 false ftz x y, 0)
  | .max, .i32 => (if y.slt x then x else y, 0)
  | .max, .n32 => (if y.ult x then x else y, 0)
  | .max, .f32 => (minmax32 true ftz x y, 0)
  | .and, _ => (x &&& y, 0)
  | .or, _ => (x ||| y, 0)
  | .xor, _ => (x ^^^ y, 0)

/-- R40, R45, R112: destination, source, selector, element width and result of a widening conversion. -/
def widening (m : ModFields) : Instr → Option (BitVec 7 × BitVec 7 × BitVec 4 × Nat × (Nat → Word × Events))
  | .vfcvtF32F16 d a k => some (d, a, k, 16, fun e => out32 .rne m.ftz (fp16.value e))
  | .vfcvtF32Bf16 d a k => some (d, a, k, 16, fun e => out32 .rne m.ftz (bf16.value e))
  | .vfcvtF32E4m3 d a k => some (d, a, k, 8, fun e =>
      rounded32 .rne m.ftz (e4m3.value e, if e4m3.value e = .nan then evNarrowNan else 0))
  | .vfcvtF32E5m2 d a k => some (d, a, k, 8, fun e =>
      rounded32 .rne m.ftz (e5m2.value e, if e5m2.value e = .nan then evNarrowNan else 0))
  | .vfcvtI32I8 d a k => some (d, a, k, 8, fun e => ((BitVec.ofNat 8 e).signExtend 32, 0))
  | .vfcvtI32I16 d a k => some (d, a, k, 16, fun e => ((BitVec.ofNat 16 e).signExtend 32, 0))
  | .vfcvtN32N8 d a k => some (d, a, k, 8, fun e => ((BitVec.ofNat 8 e).zeroExtend 32, 0))
  | .vfcvtN32N16 d a k => some (d, a, k, 16, fun e => ((BitVec.ofNat 16 e).zeroExtend 32, 0))
  | .vfcvtI32Tri d a k => some (d, a, k, 2, fun e =>
      if e = 1 then (1, 0) else if e = 3 then (BitVec.allOnes 32, 0) else if e = 2 then (0, evTernary) else (0, 0))
  | _ => none

/-- R45, R112: destination, source, selector, element width and result of a narrowing conversion. -/
def narrowing (m : ModFields) : Instr → Option (BitVec 7 × BitVec 7 × BitVec 4 × (n : Nat) × (Word → BitVec n × Events))
  | .vfcvtF16F32 d a k => some (d, a, k, ⟨16, fun x =>
      let r := fp16.pack m.rnd m.sat (fin32 m.ftz x); (BitVec.ofNat 16 r.1, r.2)⟩)
  | .vfcvtBf16F32 d a k => some (d, a, k, ⟨16, fun x =>
      let r := bf16.pack m.rnd m.sat (fin32 m.ftz x); (BitVec.ofNat 16 r.1, r.2)⟩)
  | .vfcvtE4m3F32 d a k => some (d, a, k, ⟨8, fun x =>
      let r := e4m3.pack m.rnd m.sat (fin32 m.ftz x); (BitVec.ofNat 8 r.1, r.2)⟩)
  | .vfcvtE5m2F32 d a k => some (d, a, k, ⟨8, fun x =>
      let r := e5m2.pack m.rnd m.sat (fin32 m.ftz x); (BitVec.ofNat 8 r.1, r.2)⟩)
  | .vfcvtI8I32 d a k => some (d, a, k, ⟨8, fun x =>
      if !m.sat then (x.truncate 8, 0) else if x.slt (-128) then (0x80, evSaturation)
      else if (127 : Word).slt x then (0x7F, evSaturation) else (x.truncate 8, 0)⟩)
  | .vfcvtI16I32 d a k => some (d, a, k, ⟨16, fun x =>
      if !m.sat then (x.truncate 16, 0) else if x.slt (-32768) then (0x8000, evSaturation)
      else if (32767 : Word).slt x then (0x7FFF, evSaturation) else (x.truncate 16, 0)⟩)
  | .vfcvtN8N32 d a k => some (d, a, k, ⟨8, fun x =>
      if m.sat && (255 : Word).ult x then (0xFF, evSaturation) else (x.truncate 8, 0)⟩)
  | .vfcvtN16N32 d a k => some (d, a, k, ⟨16, fun x =>
      if m.sat && (65535 : Word).ult x then (0xFFFF, evSaturation) else (x.truncate 16, 0)⟩)
  | .vfcvtTriI32 d a k => some (d, a, k, ⟨2, fun x =>
      if x = 0 then (0, 0) else if x = 1 then (1, 0) else if x = BitVec.allOnes 32 then (3, 0)
      else if x.slt 0 then (3, evSaturation) else (1, evSaturation)⟩)
  | _ => none

/-! Predicates, and the registers that an instruction writes. -/

/-- R118: the two-source predicate instructions: destination, sources, space, and the operation on one bit. -/
def predicateTwo : Instr → Option (BitVec 3 × BitVec 3 × BitVec 3 × Bool × (Bool → Bool → Bool))
  | .kand d a b p => some (d, a, b, p, fun x y => x && y)
  | .kor d a b p => some (d, a, b, p, fun x y => x || y)
  | .kxor d a b p => some (d, a, b, p, fun x y => x ^^ y)
  | .kandn d a b p => some (d, a, b, p, fun x y => x && !y)
  | .knot d a p => some (d, a, a, p, fun x _ => !x)
  | .kmov d a p => some (d, a, a, p, fun x _ => x)
  | _ => none

/-- The predicate register that an instruction writes. -/
def predicateDest : Instr → Option (BitVec 3)
  | .vcmpI32 k _ _ _ _ | .vcmpN32 k _ _ _ _ | .vfcmp k _ _ _ _ | .kmovFromScalar k _ | .vnbr _ _ _ k | .vddx _ _ k
  | .vddy _ _ k => some k
  | .kand k _ _ p | .kor k _ _ p | .kxor k _ _ p | .kandn k _ _ p | .knot k _ p | .kmov k _ p => if p then none else some k
  | _ => none

/-- The flag that an instruction writes. -/
def flagDest : Instr → Option (BitVec 3)
  | .scmp _ g _ _ | .kany g _ | .kall g _ => some g
  | .kand g _ _ p | .kor g _ _ p | .kxor g _ _ p | .kandn g _ _ p | .knot g _ p | .kmov g _ p => if p then some g else none
  | _ => none

/-- The instructions that compute on registers, predicates and flags alone and complete whenever they issue (R65 to R69, R97 to
R112, R116 to R127; the descriptor forms, whose selectors may trap, apart). -/
def computes : Instr → Bool
  | .sadd _ _ _ | .ssub _ _ _ | .smul _ _ _ | .smulhI32 _ _ _ | .smulhN32 _ _ _ | .sdivI32 _ _ _ | .sdivN32 _ _ _
  | .sremI32 _ _ _ | .sremN32 _ _ _ | .sand _ _ _ | .sor _ _ _ | .sxor _ _ _ | .sandn _ _ _ | .sshl _ _ _ | .sshr _ _ _
  | .ssra _ _ _ | .sminI32 _ _ _ | .sminN32 _ _ _ | .smaxI32 _ _ _ | .smaxN32 _ _ _ | .smov _ _ | .spopc _ _ | .sclz _ _
  | .sctz _ _ | .sbrev _ _ | .scmp _ _ _ _ | .slea _ _ _ | .sbfi _ _ _ | .ssel _ _ _ _ | .saddImm _ _ _ | .smulImm _ _ _
  | .sandImm _ _ _ | .sorImm _ _ _ | .sxorImm _ _ _ | .sshlImm _ _ _ | .sshrImm _ _ _ | .ssraImm _ _ _ | .sminI32Imm _ _ _
  | .sminN32Imm _ _ _ | .smaxI32Imm _ _ _ | .smaxN32Imm _ _ _ | .smovImm _ _ _ | .sbfeI32 _ _ _ | .sbfeN32 _ _ _ | .smovi _ _
  | .vadd _ _ _ | .vsub _ _ _ | .vmul _ _ _ | .vmulhI32 _ _ _ | .vmulhN32 _ _ _ | .vmad _ _ _ | .vand _ _ _ | .vor _ _ _
  | .vxor _ _ _ | .vandn _ _ _ | .vshl _ _ _ | .vshr _ _ _ | .vsra _ _ _ | .vminI32 _ _ _ | .vminN32 _ _ _ | .vmaxI32 _ _ _
  | .vmaxN32 _ _ _ | .vabsdI32 _ _ _ | .vabsdN32 _ _ _ | .vpopc _ _ | .vclz _ _ | .vbrev _ _ | .vbfeI32 _ _ _ | .vbfeN32 _ _ _
  | .vbfi _ _ _ | .vaddImm _ _ _ | .vmulImm _ _ _ | .vandImm _ _ _ | .vorImm _ _ _ | .vxorImm _ _ _ | .vandnImm _ _ _
  | .vshlImm _ _ _ | .vshrImm _ _ _ | .vsraImm _ _ _ | .vminI32Imm _ _ _ | .vminN32Imm _ _ _ | .vmaxI32Imm _ _ _
  | .vmaxN32Imm _ _ _ | .vabsdI32Imm _ _ _ | .vabsdN32Imm _ _ _ | .vfadd _ _ _ | .vfsub _ _ _ | .vfmul _ _ _ | .vfmin _ _ _
  | .vfmax _ _ _ | .vfscale _ _ _ | .vfclass _ _ | .vhadd _ _ _ | .vhmul _ _ _ | .vffma _ _ _ | .vhfma _ _ _ | .vfrcp _ _
  | .vfrsq _ _ | .vfsqrt _ _ | .vfdiv _ _ _ | .vfexp2 _ _ | .vflog2 _ _ | .vfsin _ _ | .vfcos _ _ | .vfexp _ _
  | .vfcvtF32I32 _ _ | .vfcvtF32N32 _ _ | .vfcvtI32F32 _ _ | .vfcvtN32F32 _ _ | .vfcvtF32F16 _ _ _ | .vfcvtF16F32 _ _ _
  | .vfcvtF32Bf16 _ _ _ | .vfcvtBf16F32 _ _ _ | .vfcvtF32E4m3 _ _ _ | .vfcvtE4m3F32 _ _ _ | .vfcvtF32E5m2 _ _ _
  | .vfcvtE5m2F32 _ _ _ | .vfcvtI32I8 _ _ _ | .vfcvtI8I32 _ _ _ | .vfcvtI32Tri _ _ _ | .vfcvtTriI32 _ _ _ | .vfcvtI32I16 _ _ _
  | .vfcvtI16I32 _ _ _ | .vfcvtN32N8 _ _ _ | .vfcvtN8N32 _ _ _ | .vfcvtN32N16 _ _ _ | .vfcvtN16N32 _ _ _ | .vsel _ _ _ _
  | .vmov _ _ | .vmovScalar _ _ | .vmovi _ _ | .vcmpI32 _ _ _ _ _ | .vcmpN32 _ _ _ _ _ | .vfcmp _ _ _ _ _ | .kand _ _ _ _
  | .kor _ _ _ _ | .kxor _ _ _ _ | .kandn _ _ _ _ | .knot _ _ _ | .kmov _ _ _ | .kmovFromScalar _ _ | .kmovToScalar _ _
  | .kpop _ _ | .kany _ _ | .kall _ _ | .vshfl _ _ _ | .vbfly _ _ _ | .vbcast _ _ _ | .vrfl _ _ | .vballot _ _ | .vcount _ _
  | .vred _ _ _ _ | .vredmi _ _ _ | .vscan _ _ _ _ _ | .vnbr _ _ _ _ | .vddx _ _ _ | .vddy _ _ _ => true
  | _ => false

/-- Whether a register lies in one of the ranges. -/
def inRanges (rs : List (Nat × Nat)) (r : Nat) : Bool := rs.any fun e => decide (e.1 ≤ r) && decide (r < e.1 + e.2)

/-- What no register instruction touches: every byte of memory, scratchpad, vault and B-deck, the operations in flight, blocks,
tiles, loans and helpers, the device, the clearing engines, the rings, the launches and the saved contexts. -/
structure SameOutside (s t : State) : Prop where
  memory : ∀ a, Memory.byte t.mem a = Memory.byte s.mem a
  sram : t.sram = s.sram
  vault : t.vault = s.vault
  bdeck : t.bdeck = s.bdeck
  ops : t.ops = s.ops
  blocks : t.run.blocks = s.run.blocks
  tiles : t.run.tiles = s.run.tiles
  helpers : t.run.helpers = s.run.helpers
  items : t.run.items = s.run.items
  queries : t.run.queries = s.run.queries
  dev : t.dev = s.dev
  clears : t.clears = s.clears
  rings : t.rings = s.rings
  launches : t.launches = s.launches
  saved : t.saved = s.saved
  clk : t.clk = s.clk

/-! Memory. -/

/-- The physical address of a place in this package's memory, and the number of a place in scratchpad SRAM. -/
def physOf : Loc → Option Nat
  | .phys a => some a
  | .comp _ _ | .sram _ _ | .remote _ _ | .bdeck _ => none

def sramOf : Loc → Option Nat
  | .sram c o => some (c * 1048576 + o)
  | .phys _ | .comp _ _ | .remote _ _ | .bdeck _ => none

/-- The byte that a list of cells, written in turn, leaves at a numbered place, if it writes there (R131). -/
def lastCell (num : Loc → Option Nat) (cells : List (Loc × Byte)) (a : Nat) : Option Byte :=
  ((cells.filterMap fun x => (num x.1).map fun n => (n, x.2)).reverse.find? fun y => y.1 == a).map (·.2)

/-- A byte of the hotness table in which an access to these places may be counted, or that is due to be halved before (R339). -/
def hotByte (s : State) (ls : List Loc) (a : Nat) : Prop :=
  s.dev.hotbase ≠ 0 ∧ ((∃ l ∈ ls, ∃ n ∈ s.dramLines l, a = s.hotAddr (n * 128))
    ∨ (s.dev.halvedAt + 3600000 ≤ s.clk ∧ s.dev.hotbase ≤ a ∧ a < s.dev.hotbase + 2 ^ 36))

/-- Every byte of memory and of scratchpad SRAM is as before, but for bytes that count hotness. -/
def SameBytes (s t : State) (touched : List Loc) : Prop :=
  (∀ a, hotByte s touched a ∨ Memory.byte t.mem a = Memory.byte s.mem a) ∧ ∀ k, tgetD 0 t.sram k = tgetD 0 s.sram k

/-- Memory and scratchpad SRAM hold the written cells, and every other byte is as before, but for bytes that count hotness. -/
def Stored (s t : State) (cells : List (Loc × Byte)) (touched : List Loc) : Prop :=
  (∀ a, hotByte s touched a ∨ Memory.byte t.mem a = (lastCell physOf cells a).getD (Memory.byte s.mem a))
    ∧ ∀ k, tgetD 0 t.sram k = (lastCell sramOf cells k).getD (tgetD 0 s.sram k)

/-- R138: the twelve atomics in vector and scalar form: whether vector, the operation, destination, address register, base or
offset field, and the space selector. -/
def atomicForm : Instr → Option (Bool × AtomOp × BitVec 7 × BitVec 7 × BitVec 7 × Bool)
  | .vatomAddN32 d a b p => some (true, .add32, d, a, b, p)
  | .vatomAddF32 d a b p => some (true, .addF32, d, a, b, p)
  | .vatomMinI32 d a b p => some (true, .minI, d, a, b, p)
  | .vatomMinN32 d a b p => some (true, .minN, d, a, b, p)
  | .vatomMaxI32 d a b p => some (true, .maxI, d, a, b, p)
  | .vatomMaxN32 d a b p => some (true, .maxN, d, a, b, p)
  | .vatomAnd d a b p => some (true, .and, d, a, b, p)
  | .vatomOr d a b p => some (true, .or, d, a, b, p)
  | .vatomXor d a b p => some (true, .xor, d, a, b, p)
  | .vatomSwap d a b p => some (true, .swap, d, a, b, p)
  | .vatomCas d a b p => some (true, .cas, d, a, b, p)
  | .vatomAddN64 d a b p => some (true, .add64, d, a, b, p)
  | .satomAddN32 d a b p => some (false, .add32, d, a, b, p)
  | .satomAddF32 d a b p => some (false, .addF32, d, a, b, p)
  | .satomMinI32 d a b p => some (false, .minI, d, a, b, p)
  | .satomMinN32 d a b p => some (false, .minN, d, a, b, p)
  | .satomMaxI32 d a b p => some (false, .maxI, d, a, b, p)
  | .satomMaxN32 d a b p => some (false, .maxN, d, a, b, p)
  | .satomAnd d a b p => some (false, .and, d, a, b, p)
  | .satomOr d a b p => some (false, .or, d, a, b, p)
  | .satomXor d a b p => some (false, .xor, d, a, b, p)
  | .satomSwap d a b p => some (false, .swap, d, a, b, p)
  | .satomCas d a b p => some (false, .cas, d, a, b, p)
  | .satomAddN64 d a b p => some (false, .add64, d, a, b, p)
  | _ => none

/-! Streams. -/

/-- It is a block's stream's turn, and `op` stands in its first entry that has not issued (R161). -/
def streamTurn (op : StreamOp) (s : State) (c : SCtx) : Prop :=
  s.cur = .stream c.bid ∧ s.block c.bid = some c.b ∧ c.b.stream = some c.st ∧ c.st.head = some c.e ∧ c.e.op = some op
    ∧ c.st.state = .running ∧ s.run.running = true ∧ s.run.halted = false

/-- The entry has issued, or has retired. -/
def State.entryIssued (s : State) (c : SCtx) : State := s.onStream c.bid fun st => st.onEntry c.e.id fun e => { e with issued := true }
def State.entryRetired (s : State) (c : SCtx) : State := s.onStream c.bid fun st => st.dropEntry c.e.id

/-! Chunk programs. -/

/-- It is the turn of clearing context `cid`, whose program runs (R182, R347). -/
def clearTurn (s : State) (cid : Nat) : Prop := s.cur = .clearing cid ∧ (s.clear cid).st = .running

/-- The state in which a chunk instruction leaves its context: the next instruction, or another, with the timer at rest (R194). -/
def State.chunkNext (s : State) (cid : Nat) : State := s.onClear cid fun c => { c with pc := c.pc + 1, timer := 0, timerFrom := none }
def State.chunkJump (s : State) (cid pc : Nat) : State := s.onClear cid fun c => { c with pc := pc, timer := 0, timerFrom := none }

/-- R187: the reductions of red: the code, the consumed peers' mask, destination, source and channel. -/
def reduction : ChunkOp → Option (Nat × BitVec 4 × (BitVec 4 × BitVec 4) × (BitVec 4 × BitVec 4) × BitVec 4)
  | .redAddF32 m b d e f ch => some (0, m, (b, d), (e, f), ch)
  | .redAddI32 m b d e f ch => some (1, m, (b, d), (e, f), ch)
  | .redMinF32 m b d e f ch => some (2, m, (b, d), (e, f), ch)
  | .redMaxF32 m b d e f ch => some (3, m, (b, d), (e, f), ch)
  | .redMinI32 m b d e f ch => some (4, m, (b, d), (e, f), ch)
  | .redMaxI32 m b d e f ch => some (5, m, (b, d), (e, f), ch)
  | .redAndB32 m b d e f ch => some (6, m, (b, d), (e, f), ch)
  | .redOrB32 m b d e f ch => some (7, m, (b, d), (e, f), ch)
  | .send _ _ _ _ | .recv _ _ _ _ | .drafelCopy _ _ _ _ | .waitOps _ | .waitGe _ _ _ | .sig _ _ _ | .loop _ _ | .kick _ _ _ _ _
  | .setd _ _ | .addd _ _ _ | .brd _ _ _ | .drafelHalt | .drafelNop => none

end Sys2Proof.Machine
end

