-- ==== Sys2Proof/Certificates/Slice0/Obligations.lean ====
section
/-! DEFINITION. The statements about the model, one definition each; OBLIGATIONS.json lists them. -/

open Sys2Proof Sys2Proof.Machine

/-! Encoding and steps. -/

/-- Words written out from R20, R69, R72, R92, R94 and the opcode table decode to the instructions they stand for. -/
def Obligations.SpecWordsDecode : Prop :=
  decodeWave 0x0C7FFFFB = .ok (.smovi 7 (-5)) ∧ decodeWave 0x049050D5 = .ok (.scmp .lt 2 5 6)
    ∧ decodeWave 0x08200010 = .ok (.saddImm 4 false 16) ∧ decodeWave 0x28000021 = .ok (.trap 0x21)

/-- Wave instructions and hint words: decoding the word of a well-formed one gives it back (R11, R18, R25 to R30). Stream words and
chunk words: decoding the word of a well-formed one gives it back (R12, R30, R183, R184). -/
def Obligations.EncodedWordsDecode : Prop :=
  (∀ i : Instr, i.wf = true → isEvent i = false → (∀ op : StreamOp, op.toInstr ≠ i) → (∀ op : ChunkOp, op.toInstr ≠ i) →
    encodeWord i < 2 ^ 32 ∧ decodeWave (encodeWord i) = .ok i)
  ∧ ((∀ op : StreamOp, op.wf = true → encodeWord op.toInstr < 2 ^ 32 ∧ decodeStream (encodeWord op.toInstr) = .ok op)
    ∧ (∀ op : ChunkOp, encodeWord op.toInstr < 2 ^ 32 ∧ decodeChunk (encodeWord op.toInstr) = .ok op))

/-- No bit of a fetched word is ignored: a 32-bit word that decodes is the word of what it decodes to, which is well formed (R11,
R12, R18, R184). -/
def Obligations.NoWordBitIgnored : Prop :=
  ∀ w : Nat, w < 2 ^ 32 →
    (∀ i, decodeWave w = .ok i → i.wf = true ∧ isEvent i = false ∧ encodeWord i = w)
      ∧ (∀ op, decodeStream w = .ok op → op.wf = true ∧ encodeWord op.toInstr = w)
      ∧ (∀ op, decodeChunk w = .ok op → encodeWord op.toInstr = w)

/-- A path's turn runs the instruction at its PC: with no schedule entry waiting, once what time brings by itself has happened
(`elapse`), a path that may issue, has no trap due, meets no armed breakpoint and whose PC holds a word that decodes to `i`, the
step is `exec i`, after the fetch has counted (R339, log entry 29), and the clock then counts one cc. With nothing in flight, no
token open and no log entry waiting time brings nothing, and where no hotness table is kept a fetch counts nothing. A stream's
turn, once its table has nothing to settle, runs the first entry of it that has not issued, a clearing program's turn the word
at its PC, and an entry of the schedule that names an event runs that event, no earlier than its cc; an access over the host
link waits while the link retrains (R161, R184, R317, R391; log entry 32). -/
def Obligations.StepRunsTheDecodedInstruction : Prop :=
  ((∀ (s u : State) (pid : Nat) (p : Path) (l : Loc) (i : Instr),
    s.stopped = false → s.schedule = [] → u = s.elapse s.clk → u.cur = .path pid → u.path pid = some p → u.mayIssue pid p = true →
    p.nextDue = none → u.breaksWait pid p = false → u.breakpoints pid p = [] →
    u.reach (coreOf pid) ⟨p.sys, false, false⟩ p.pc = .at_ l → decodeWave (u.readNum l 4) = .ok i →
    step s = match exec i (u.fetched pid p) with
      | .next t => .next { t with clk := t.clk + 1 }
      | .fault f => .fault f
      | .refused r => .refused r)
  ∧ (∀ s : State, s.ops = [] → s.run.tokens = [] → s.ras.log = [] → s.elapse s.clk = s)
  ∧ (∀ (s : State) (pid : Nat) (p : Path), s.dev.hotbase = 0 → s.fetched pid p = s))
  ∧ ((∀ (s u : State) (bid : Nat) (b : Block) (k : Stream) (e : StreamEntry) (op : StreamOp),
    s.stopped = false → s.schedule = [] → u = s.elapse s.clk → u.cur = .stream bid → u.block bid = some b → b.stream = some k →
    k.head = some e → e.op = some op → u.settleStream bid = u →
    step s = match exec op.toInstr u with
      | .next t => .next { t with clk := t.clk + 1 }
      | .fault f => .fault f
      | .refused r => .refused r)
  ∧ (∀ (s u : State) (cid : Nat) (w : Word) (op : ChunkOp),
    s.stopped = false → s.schedule = [] → u = s.elapse s.clk → u.cur = .clearing cid →
    (u.clear cid).program[(u.clear cid).pc]? = some w → decodeChunk w.toNat = .ok op →
    step s = match exec op.toInstr u with
      | .next t => .next { t with clk := t.clk + 1 }
      | .fault f => .fault f
      | .refused r => .refused r)
  ∧ (∀ (s u : State) (cc : Nat) (i : Instr) (ms : List Move),
    s.stopped = false → s.schedule = ⟨cc, .event i⟩ :: ms → isEvent i = true → u = ({ s with schedule := ms } : State).elapse (max s.clk cc) →
    step s = if overHostLink i = true ∧ hostLink ∈ u.linksDown then .next u else exec i u))

/-! Invariants. -/

/-- Every step keeps memory in its canonical form: addresses strictly rise and no listed byte is what an unlisted one reads as
(log entry 1). -/
def Obligations.StepKeepsMemoryForm : Prop :=
  ∀ s t : State, Memory.wf s.mem = true → step s = .next t → Memory.wf t.mem = true

/-- What reset leaves: the clock at 0, nothing resident, no operation in flight, memory in canonical form, and the reset values that
R58 (nevEn 0xFF), R359, R367, R376, R387 (RASCTL.en 1) and the other control pages give. -/
def Obligations.ResetState : Prop :=
  Memory.wf State.reset.mem = true ∧ State.reset.clk = 0 ∧ State.reset.run = Context.empty ∧ State.reset.ops = []
    ∧ (State.reset.core 0).nevEn = 0xFF ∧ (State.reset.core 0).nevAct = 0 ∧ State.reset.dev.ptroot = 0
    ∧ State.reset.dev.tvec = 0 ∧ State.reset.dev.rasEn = true ∧ (State.reset.cluster 0).stopped = false
    ∧ (State.reset.clear 0).st = .idle ∧ (State.reset.ring 0).desc = 0

/-! Scalar instructions. -/

/-- SADD to SMAX_N32 and SMOV in register form: the destination takes the operation's result on the operands as they stood, on 32
bits, or on 64-bit pairs where the bundle's mod word sets w; the path goes on in sequence (R65, R66). SADD_IMM to SMAX_N32_IMM,
SMOV_IMM and SMOVI: the destination takes the result of its old value and the immediate widened by the bundle's pfx words, on 32
or 64 bits (R20, R65, R69). -/
def Obligations.ScalarRegisterAndImmediateForms : Prop :=
  (∀ (i : Instr) (s : State) (c : Ctx) (d a b : BitVec 7), ready i s c = true →
    (∀ f, scalarTwo 32 i = some (d, a, b, f) → c.mods.w = false →
      exec i s = .next ((s.writeS c.pid d.toNat (f (s.readS c.pid c.p a.toNat) (s.readS c.pid c.p b.toNat))).retire c c.nextPc none))
    ∧ (∀ f, scalarTwo 64 i = some (d, a, b, f) → c.mods.w = true →
      exec i s =
        .next ((s.writeS64 c.pid d.toNat (f (s.readS64 c.pid c.p a.toNat) (s.readS64 c.pid c.p b.toNat))).retire c c.nextPc none)))
  ∧ ((∀ (i : Instr) (s : State) (c : Ctx) (d : BitVec 7) (k : BitVec 12), ready i s c = true →
    (∀ f, scalarImm 32 i = some (d, false, k, f) →
      exec i s =
        .next ((s.writeS c.pid d.toNat (f (s.readS c.pid c.p d.toNat) ((widenedImm c.pfx k).truncate 32))).retire c c.nextPc none))
    ∧ (∀ f, scalarImm 64 i = some (d, true, k, f) →
      exec i s =
        .next ((s.writeS64 c.pid d.toNat (f (s.readS64 c.pid c.p d.toNat) (widenedImm c.pfx k))).retire c c.nextPc none)))
  ∧ (∀ (s : State) (c : Ctx) (d : BitVec 6) (k : BitVec 20), ready (.smovi d k) s c = true →
    exec (.smovi d k) s = .next
      ((if c.pfx.length < 2 then s.writeS c.pid d.toNat ((widenedImm c.pfx k).truncate 32)
        else s.writeS64 c.pid d.toNat (widenedImm c.pfx k)).retire c c.nextPc none)))

/-- SPOPC, SCLZ, SCTZ, SBREV, SBFE, SBFI, SSEL, SLEA and SCMP: counts and bit reversal, fields extracted and inserted, selection by
a flag, address arithmetic, and a flag written from a comparison (R65, R67, R68). -/
def Obligations.ScalarBitFieldAndCompareForms : Prop :=
  ∀ (s : State) (c : Ctx) (d a b : BitVec 7) (g : BitVec 3) (k : BitVec 12) (cond : CmpCond),
    let x := s.readS c.pid c.p a.toNat
    let y := s.readS c.pid c.p b.toNat
    (ready (.spopc d a) s c = true → exec (.spopc d a) s =
      .next ((s.writeS c.pid d.toNat (BitVec.ofNat 32 (((List.range 32).filter x.getLsbD).length))).retire c c.nextPc none))
    ∧ (ready (.sclz d a) s c = true → ∃ n, n ≤ 32 ∧ (∀ j, j < n → x.getMsbD j = false) ∧ (n < 32 → x.getMsbD n = true) ∧
      exec (.sclz d a) s = .next ((s.writeS c.pid d.toNat (BitVec.ofNat 32 n)).retire c c.nextPc none))
    ∧ (ready (.sctz d a) s c = true → ∃ n, n ≤ 32 ∧ (∀ j, j < n → x.getLsbD j = false) ∧ (n < 32 → x.getLsbD n = true) ∧
      exec (.sctz d a) s = .next ((s.writeS c.pid d.toNat (BitVec.ofNat 32 n)).retire c c.nextPc none))
    ∧ (ready (.sbrev d a) s c = true →
      exec (.sbrev d a) s = .next ((s.writeS c.pid d.toNat x.reverse).retire c c.nextPc none))
    ∧ (ready (.sbfi d a b) s c = true → exec (.sbfi d a b) s =
      .next ((s.writeS c.pid d.toNat (fieldInsert (s.readS c.pid c.p d.toNat) x (fld y.toNat 8 6) (fld y.toNat 0 6))).retire c
        c.nextPc none))
    ∧ (ready (.sbfeN32 d false k) s c = true → exec (.sbfeN32 d false k) s =
      .next ((s.writeS c.pid d.toNat (fieldZero (s.readS c.pid c.p d.toNat) (fld k.toNat 6 6) (fld k.toNat 0 6))).retire c
        c.nextPc none))
    ∧ (ready (.sbfeN32 d true k) s c = true → exec (.sbfeN32 d true k) s =
      .next ((s.writeS64 c.pid d.toNat (fieldZero (s.readS64 c.pid c.p d.toNat) (fld k.toNat 6 6) (fld k.toNat 0 6))).retire c
        c.nextPc none))
    ∧ (ready (.sbfeI32 d false k) s c = true → exec (.sbfeI32 d false k) s =
      .next ((s.writeS c.pid d.toNat (fieldSign (s.readS c.pid c.p d.toNat) (fld k.toNat 6 6) (fld k.toNat 0 6))).retire c
        c.nextPc none))
    ∧ (ready (.sbfeI32 d true k) s c = true → exec (.sbfeI32 d true k) s =
      .next ((s.writeS64 c.pid d.toNat (fieldSign (s.readS64 c.pid c.p d.toNat) (fld k.toNat 6 6) (fld k.toNat 0 6))).retire c
        c.nextPc none))
    ∧ (ready (.ssel d a b g) s c = true → exec (.ssel d a b g) s =
      .next ((s.writeS c.pid d.toNat (if c.p.flags.getLsbD g.toNat then x else y)).retire c c.nextPc none))
    ∧ (ready (.slea d a b) s c = true → exec (.slea d a b) s =
      .next ((s.writeS64 c.pid d.toNat (s.readS64 c.pid c.p a.toNat + y.signExtend 64)).retire c c.nextPc none))
    ∧ (ready (.scmp cond g a b) s c = true →
      let v := if c.mods.w then condHolds cond (s.readS64 c.pid c.p a.toNat) (s.readS64 c.pid c.p b.toNat) else condHolds cond x y
      exec (.scmp cond g a b) s =
        .next ((s.onPath c.pid fun p => { p with flags := setFlag p.flags g v }).retire c c.nextPc none))

/-! Special registers and the system instructions. -/

/-- SRD: a read of a scalar-valued special register gives R16's value, in user mode only below 0x040; another number raises 0x01
with the word in sr.eaux, a system one in user mode 0x05 (R16, R17, R70; sr.eaux of that 0x05 is a free value, log entry 21).
SWR and NFSET: sr.awb and sr.awl written by the block leader alone, sr.tvec, sr.epc, sr.ecause, sr.eaux and sr.emask in system
mode alone, every other register not at all; NFSET writes a valid descriptor and traps 0x13 on another (R16, R17, R48, R70, R71,
R302). -/
def Obligations.SpecialRegisters : Prop :=
  (∀ (s : State) (c : Ctx) (d : BitVec 7) (n : BitVec 12) (w : Wave) (b : Block),
    (taken (.srd d n) s c = true → (∀ vs, (n.toNat, vs) ∉ srTable s c w b) →
      exec (.srd d n) s = .next ((s.takeTrap c.pid 0x01 c.first (BitVec.ofNat 64 c.word) none).unstep c.pid))
    ∧ (ready (.srd d n) s c = true → s.wave c.wid = some w → s.blockOf c.pid = some b →
    (∀ vs, (n.toNat, vs) ∈ srTable s c w b → (n.toNat < 0x040 ∨ c.p.sys = true) →
      exec (.srd d n) s = .next ((s.writeSs c.pid d.toNat vs).retire c c.nextPc none))
    ∧ ((∃ vs, (n.toNat, vs) ∈ srTable s c w b) → 0x040 ≤ n.toNat → c.p.sys = false →
      exec (.srd d n) s = .next ((s.takeFree.takeTrap c.pid 0x05 c.first s.openAux none).unstep c.pid))))
  ∧ (∀ (s : State) (c : Ctx) (r : BitVec 7) (w : Wave),
    let lo := s.readS c.pid c.p r.toNat
    let mid := s.readS c.pid c.p (r.toNat + 1)
    let top := s.readS c.pid c.p (r.toNat + 2)
    let pair : DWord := mid ++ lo
    let denied : State := (s.takeFree.takeTrap c.pid 0x05 c.first s.openAux none).unstep c.pid
    s.wave c.wid = some w →
    (ready (.swr r 0x030) s c = true → exec (.swr r 0x030) s = .next
      (if w.index = 0 then (s.onBlock (s.bidOf c.pid) fun b => { b with awb := lo }).retire c c.nextPc none else denied))
    ∧ (ready (.swr r 0x031) s c = true → exec (.swr r 0x031) s = .next
      (if w.index = 0 then (s.onBlock (s.bidOf c.pid) fun b => { b with awl := lo }).retire c c.nextPc none else denied))
    ∧ (ready (.swr r 0x040) s c = true → exec (.swr r 0x040) s = .next
      (if c.p.sys then (s.onWave c.wid fun w => { w with tvec := pair }).retire c c.nextPc none else denied))
    ∧ (ready (.swr r 0x041) s c = true → exec (.swr r 0x041) s = .next
      (if c.p.sys then (s.onPath c.pid fun p => { p with epc := pair }).retire c c.nextPc none else denied))
    ∧ (ready (.swr r 0x042) s c = true → exec (.swr r 0x042) s = .next
      (if c.p.sys then (s.onPath c.pid fun p => { p with ecause := lo &&& 0x1FF }).retire c c.nextPc none else denied))
    ∧ (ready (.swr r 0x043) s c = true → exec (.swr r 0x043) s = .next
      (if c.p.sys then (s.onPath c.pid fun p => { p with eaux := pair }).retire c c.nextPc none else denied))
    ∧ (ready (.swr r 0x044) s c = true → exec (.swr r 0x044) s = .next
      (if c.p.sys then (s.onPath c.pid fun p => { p with emask := top ++ pair }).retire c c.nextPc none else denied))
    ∧ (∀ n : BitVec 12, n.toNat ∈ srReadOnly → ready (.swr r n) s c = true → exec (.swr r n) s = .next denied)
    ∧ (∀ n : BitVec 12, n.toNat ∉ srReadOnly → n.toNat ∉ [0x030, 0x031, 0x040, 0x041, 0x042, 0x043, 0x044] →
      taken (.swr r n) s c = true →
      exec (.swr r n) s = .next ((s.takeTrap c.pid 0x01 c.first (BitVec.ofNat 64 c.word) none).unstep c.pid))
    ∧ (∀ n : BitVec 2, ready (.nfset r n) s c = true →
      exec (.nfset r n) s = .next
        (if descriptorValid lo then (s.onBlock (s.bidOf c.pid) fun b => { b with nf := tset b.nf n.toNat lo }).retire c c.nextPc none
         else (s.takeFree.takeTrap c.pid 0x13 c.first s.openAux none).unstep c.pid)))

/-- From R296, R302: what taking a trap saves and where it goes, for a wave's path at its first or second level; what it leaves unchanged;
when it stops the wave instead; and, for a helper path, the end of the path for every cause but 0x0C and the trap 0x09 that is due for
its recruiter, with the lane, its iteration and the cause in sr.eaux. -/
def Obligations.TrapEntry : Prop :=
  (∀ (s : State) (pid cause epc : Nat) (eaux : DWord) (lane : Option Nat) (p : Path) (w : Wave),
    s.path pid = some p → isHelper pid = false → s.wave (pid / 4) = some w → cause < 256 → epc < 2 ^ 64 →
    (s.core (coreOf pid)).trEn = false →
    (w.tvec ≠ 0 → ¬ (p.sys = true ∧ p.ecause.getLsbD 8 = true) →
      ∃ q, (s.takeTrap pid cause epc eaux lane).path pid = some q ∧ p.trapped q cause (BitVec.ofNat 64 epc) eaux w.tvec
        ∧ (∀ pid', pid' ≠ pid → (s.takeTrap pid cause epc eaux lane).path pid' = s.path pid')
        ∧ (s.takeTrap pid cause epc eaux lane).run.tokens = s.run.tokens
        ∧ (s.takeTrap pid cause epc eaux lane).run.sregs = s.run.sregs
        ∧ (s.takeTrap pid cause epc eaux lane).run.vregs = s.run.vregs
        ∧ (s.takeTrap pid cause epc eaux lane).run.kregs = s.run.kregs
        ∧ (s.takeTrap pid cause epc eaux lane).wave (pid / 4) = some w
        ∧ (s.takeTrap pid cause epc eaux lane).mem = s.mem ∧ (s.takeTrap pid cause epc eaux lane).sram = s.sram)
    ∧ ((w.tvec = 0 ∨ (p.sys = true ∧ p.ecause.getLsbD 8 = true)) →
      (s.takeTrap pid cause epc eaux lane).wave (pid / 4) = none
        ∧ .waveStopped (pid / 4) (pid % 4) p.pc cause ∈ (s.takeTrap pid cause epc eaux lane).irqs))
  ∧ (∀ (s : State) (pid cause epc lane : Nat) (eaux : DWord) (p q : Path) (h : Helper),
    s.path pid = some p → isHelper pid = true → s.helper pid = some h → h.recruiter ≠ pid → s.path h.recruiter = some q →
    cause < 256 → lane < 96 → tgetD 0 h.iters lane < 2 ^ 32 →
    let t := s.takeTrap pid cause epc eaux (some lane)
    (∃ r d, t.path h.recruiter = some r ∧ d ∈ r.due ∧ d.cause = 0x09 ∧ d.lane = some lane
        ∧ d.eaux = BitVec.ofNat 32 (tgetD 0 h.iters lane) ++ 0#11 ++ BitVec.ofNat 5 h.lender ++ 0#1 ++ BitVec.ofNat 7 lane ++ BitVec.ofNat 8 cause)
      ∧ (cause ≠ 0x0C → t.helper pid = none ∧ t.path pid = none) ∧ (cause = 0x0C → t.helper pid = some h ∧ t.path pid = some p))

/-- From R92: trap raises 0x10 with its code in sr.eaux and sr.epc at the next instruction; its word is the one that R92 gives. In a helper
path the path ends, and its recruiter is due trap 0x09 for cause 0x10 (R64, R296). -/
def Obligations.TrapInstruction : Prop :=
  decodeWave 0x28000021 = .ok (.trap 0x21) ∧
  (∀ (s : State) (c : Ctx) (k : BitVec 8) (w : Wave),
    ready (.trap k) s c = true → c.helper = false → s.wave (c.pid / 4) = some w →
    (w.tvec ≠ 0 → ¬ (c.p.sys = true ∧ c.p.ecause.getLsbD 8 = true) →
      ∃ t q, exec (.trap k) s = .next t ∧ t.path c.pid = some q
        ∧ c.p.trapped q 0x10 (BitVec.ofNat 64 c.nextPc) (k.zeroExtend 64) w.tvec)
    ∧ ((w.tvec = 0 ∨ (c.p.sys = true ∧ c.p.ecause.getLsbD 8 = true)) →
      ∃ t, exec (.trap k) s = .next t ∧ t.wave (c.pid / 4) = none))
  ∧ (∀ (s : State) (c : Ctx) (k : BitVec 8) (h : Helper) (q : Path),
    ready (.trap k) s c = true → c.helper = true → s.helper c.pid = some h → h.recruiter ≠ c.pid → s.path h.recruiter = some q →
    ∃ t r d, exec (.trap k) s = .next t ∧ t.helper c.pid = none ∧ t.path c.pid = none ∧ t.path h.recruiter = some r ∧ d ∈ r.due
      ∧ d.cause = 0x09 ∧ (d.eaux.extractLsb' 0 8) = 0x10)

/-- From R94: brkpt raises 0x0E with sr.eaux zero and sr.epc at the brkpt itself (R24 and log entry 89: at the first word of its bundle,
where hint words precede it). In a helper path the path ends, and its recruiter is due trap 0x09 for cause 0x0E (R64, R296). -/
def Obligations.BreakpointInstruction : Prop :=
  (∀ (s : State) (c : Ctx) (w : Wave),
    ready .brkpt s c = true → c.helper = false → s.wave (c.pid / 4) = some w →
    w.tvec ≠ 0 → ¬ (c.p.sys = true ∧ c.p.ecause.getLsbD 8 = true) →
    (∃ t q, exec .brkpt s = .next t ∧ t.path c.pid = some q ∧ c.p.trapped q 0x0E (BitVec.ofNat 64 c.first) 0 w.tvec)
      ∧ (c.p.hints = [] → c.first = c.p.pc))
  ∧ (∀ (s : State) (c : Ctx) (h : Helper) (q : Path),
    ready .brkpt s c = true → c.helper = true → s.helper c.pid = some h → h.recruiter ≠ c.pid → s.path h.recruiter = some q →
    ∃ t r d, exec .brkpt s = .next t ∧ t.helper c.pid = none ∧ t.path c.pid = none ∧ t.path h.recruiter = some r ∧ d ∈ r.due
      ∧ d.cause = 0x09 ∧ (d.eaux.extractLsb' 0 8) = 0x0E)

/-- From R93: eret restores PC, mask and mode and clears pm in system mode, and raises 0x05 in user mode. A sr.epc that is a
multiple of 4 below 2^49 is the PC; of another sr.epc the model takes bits [48:2] (log entry 23). From R95, R218: halt in either
mode waits for the wave's stores (R218), and then ends the wave: its pending loads are discarded, none of its paths, registers
or tokens is left, and what engines still do for it is left to its block to complete (log entry 92). A wave whose pinned
record's page is moving waits for that too (log entry 103). -/
def Obligations.ReturnFromTrapAndHalt : Prop :=
  (∀ (s : State) (c : Ctx), ready .eret s c = true →
    (c.p.sys = true → (s.core (coreOf c.pid)).trEn = false → s.tokensOf c.owner = [] → c.p.token = none →
      ∃ t q, exec .eret s = .next t ∧ t.path c.pid = some q
        ∧ (c.p.epc.toNat % 4 = 0 → c.p.epc.toNat < 2 ^ 49 → q.pc = c.p.epc.toNat) ∧ q.pc = codeAddr c.p.epc
        ∧ q.mask = c.p.emask &&& s.mayHold c.pid c.p ∧ q.sys = c.p.ecause.getLsbD 8
        ∧ q.ecause = c.p.ecause &&& ~~~0x100#32 ∧ q.flags = c.p.flags ∧ q.epc = c.p.epc ∧ q.eaux = c.p.eaux
        ∧ q.emask = c.p.emask ∧ t.mem = s.mem ∧ t.run.sregs = s.run.sregs ∧ t.run.vregs = s.run.vregs)
    ∧ (c.p.sys = false → exec .eret s = .next ((s.takeFree.takeTrap c.pid 0x05 c.first s.openAux none).unstep c.pid)))
  ∧ (∀ (s : State) (c : Ctx) (w : Wave), ready .halt s c = true → s.wave (c.pid / 4) = some w →
    let u := s.entered .halt c
    (∀ o, u.pendingStore (c.pid / 4) = some o → exec .halt s = .next (u.waitAt c.pid false (.counter o.pc)))
    ∧ (u.pendingStore (c.pid / 4) = none → u.pinWaits (c.pid / 4) = true → exec .halt s = .next (u.waitAt c.pid false .translation))
    ∧ (u.pendingStore (c.pid / 4) = none → u.pinWaits (c.pid / 4) = false →
      ∃ t, exec .halt s = .next t ∧ t.wave (c.pid / 4) = none ∧ (∀ pid, pid / 4 = c.pid / 4 → t.path pid = none)
      ∧ (∀ r, tget t.run.sregs (skey (c.pid / 4) r) = none ∨ 128 ≤ r) ∧ t.tokensOf (c.pid / 4) = []
      ∧ (∀ o ∈ t.ops, o.owner ≠ c.pid / 4)))

/-! Branches, calls and divergence. -/

/-- From R72: br and brn move the whole path by the widened offset when taken, and go on in sequence otherwise. From R73: jmp, call
and ret, and their forms through a scalar pair; a target that is not a multiple of 4 raises 0x03 at the jump with the target in
sr.eaux, and a call then writes no return address. A target in a register is taken modulo 2^49, and is read before the link is
written (log entry 104). -/
def Obligations.BranchesJumpsCallsAndReturns : Prop :=
  (∀ (s : State) (c : Ctx) (g : BitVec 3) (o : BitVec 22),
    let target := wordsFrom c.p.pc (widenedImm c.pfx o)
    (ready (.br g o) s c = true → exec (.br g o) s = .next
      (if c.p.flags.getLsbD g.toNat then s.retire c target (some 0) else s.retire c c.nextPc none))
    ∧ (ready (.brn g o) s c = true → exec (.brn g o) s = .next
      (if c.p.flags.getLsbD g.toNat then s.retire c c.nextPc none else s.retire c target (some 0))))
  ∧ (∀ (s : State) (c : Ctx) (o : BitVec 23) (a : BitVec 7),
    let target := wordsFrom c.p.pc (widenedImm c.pfx o)
    let linked := s.writeS64 c.pid 90 (BitVec.ofNat 64 c.nextPc)
    let reg := s.readS64 c.pid c.p a.toNat
    let back := s.readS64 c.pid c.p 90
    let bad (x : DWord) : State := (s.takeTrap c.pid 0x03 c.first x none).unstep c.pid
    (ready (.jmp o) s c = true → exec (.jmp o) s = .next (s.retire c target (some 0)))
    ∧ (ready (.call o) s c = true → exec (.call o) s = .next (linked.retire c target (some 1)))
    ∧ (ready (.jmpReg a) s c = true → exec (.jmpReg a) s = .next
      (if reg.toNat % 4 = 0 then s.retire c (reg.toNat % 2 ^ 49) (some 0) else bad reg))
    ∧ (ready (.callReg a) s c = true → exec (.callReg a) s = .next
      (if reg.toNat % 4 = 0 then linked.retire c (reg.toNat % 2 ^ 49) (some 1) else bad reg))
    ∧ (ready .ret s c = true → exec .ret s = .next
      (if back.toNat % 4 = 0 then s.retire c (back.toNat % 2 ^ 49) (some 2) else bad back)))

/-- From R74, R76: vbr and split in every case of R74's text, with the token that is pushed or reused. A split whose rejoin offset
is 0 is no lawful instruction, as a vbr (log entry 38); a second side of a helper's path waits in its token (log entry 22); and
a path that a vbr to its rejoin leaves without lanes goes to the rejoin (log entry 40). From R74, R203, R204: a push finds room
under 64 tokens, or 16 of a helper path; the new token is innermost, has an identifier that no live token had, holds the path's
mask, and no lane has arrived at it. -/
def Obligations.StructuredBranchesAndTokens : Prop :=
  (∀ (s : State) (c : Ctx) (neg : Bool) (k : BitVec 3) (t j : BitVec 10),
    let s0 := s.traceSync c.pid
    let pred := if neg then ~~~s.readK c.pid k.toNat else s.readK c.pid k.toNat
    let T := c.p.mask &&& pred
    let N := c.p.mask &&& ~~~pred
    let tgt : DWord := match c.pfx with
      | [] => t.signExtend 64
      | x :: _ => ((BitVec.ofNat 24 x).extractLsb' 12 12 ++ t).signExtend 64
    let rj : DWord := match c.pfx with
      | [] => j.zeroExtend 64
      | x :: _ => ((BitVec.ofNat 24 x).extractLsb' 0 12 ++ j).zeroExtend 64
    let tpc := wordsFrom c.p.pc tgt
    let jpc := wordsFrom c.p.pc rj
    let full : State := (s.takeTrap c.pid 0x0B c.first 64 none).unstep c.pid
    let unlawful : State := (s.takeTrap c.pid 0x01 c.first (BitVec.ofNat 64 c.word) none).unstep c.pid
    -- the taken lanes leave, for a token of this identifier
    let leave (u : State) (id : Nat) : State :=
      if T = 0 then u.retire c c.nextPc none
      else if N = 0 then u.retire c tpc (some 0)
      else
        let u1 := u.onPath c.pid fun p => { p with mask := N }
        match (if c.helper then none else (u.freeSlots (c.pid / 4)).head?), u.path c.pid with
        | some q, some p => (u1.setPath q (p.child tpc T (c.now u + 1))).retire c c.nextPc none
        | _, _ => (u1.onToken c.owner id fun x => { x with ppc := tpc, pmask := T }).retire c c.nextPc none
    let after (u : State) (id : Nat) : State :=
      if tpc = jpc then
        let u1 := (u.onToken c.owner id fun x => { x with arrived := x.arrived ||| T }).onPath c.pid fun p => { p with mask := N }
        if N = 0 ∧ T ≠ 0 then u1.retire c jpc (some 0) else u1.retire c c.nextPc none
      else leave u id
    (ready (.vbr neg k t j) s c = true → exec (.vbr neg k t j) s = .next
      (if rj = 0 then unlawful
       else match s0.innermost c.pid c.p with
        | some x =>
          if x.rejoin = jpc ∧ x.split = false ∧ x.pmask = 0 then after s0 x.id
          else (match s0.pushToken c jpc (tpc == jpc) false with | some (u, id) => after u id | none => full)
        | none => (match s0.pushToken c jpc (tpc == jpc) false with | some (u, id) => after u id | none => full)))
    ∧ (ready (.split neg k t j) s c = true → exec (.split neg k t j) s = .next
      (if rj = 0 then unlawful
       else match s0.pushToken c jpc false true with | some (u, id) => leave u id | none => full)))
  ∧ (∀ (s : State) (c : Ctx) (rejoin : Nat) (loop split : Bool), s.path c.pid = some c.p →
    let n := (s.tokensOf c.owner).length
    ((s.pushToken c rejoin loop split).isSome = decide (n < if c.helper then 16 else 64))
    ∧ ∀ t id, s.pushToken c rejoin loop split = some (t, id) →
      findToken (s.tokensOf c.owner) id = none
      ∧ (t.tokensOf c.owner).length = n + 1
      ∧ (∃ x, findToken (t.tokensOf c.owner) id = some x ∧ x.parent = c.p.token ∧ x.rejoin = rejoin ∧ x.mask = c.p.mask
          ∧ x.arrived = 0 ∧ x.loop = loop ∧ x.split = split ∧ x.pmask = 0)
      ∧ (t.path c.pid).map (·.token) = some (some id))

/-- From R75, R76, R77, R79, R80: vbrk, join, exit, refill and rgn. A join looks at the path's innermost token alone (log entry 39), a path that
a vbrk empties goes to its innermost token's rejoin (log entry 40), and a helper's exit waits for its loads, a refill for what will still
write the wave's registers or queries (log entry 122). -/
def Obligations.BreakJoinExitRefillAndRegion : Prop :=
  ∀ (s : State) (c : Ctx),
    (∀ (neg : Bool) (k : BitVec 3), ready (.vbrk neg k) s c = true →
      let B := c.p.mask &&& (if neg then ~~~s.readK c.pid k.toNat else s.readK c.pid k.toNat)
      match (s.chain c.pid c.p).find? (·.loop) with
      | none => exec (.vbrk neg k) s = .next ((s.takeTrap c.pid 0x01 c.first (BitVec.ofNat 64 c.word) none).unstep c.pid)
      | some lp =>
        let above := ((s.chain c.pid c.p).takeWhile fun t => !t.loop).map (·.id)
        let u := (s.setTokens c.owner ((s.tokensOf c.owner).map fun t =>
          if t.id = lp.id then { t with arrived := t.arrived ||| B }
          else if above.contains t.id then { t with mask := t.mask &&& ~~~B } else t)).onPath c.pid fun p =>
            { p with mask := p.mask &&& ~~~B }
        exec (.vbrk neg k) s = .next (match u.innermost c.pid c.p with
          | some x => if B ≠ 0 ∧ c.p.mask &&& ~~~B = 0 then u.retire c x.rejoin (some 0) else u.retire c c.nextPc none
          | none => u.retire c c.nextPc none))
    ∧ (ready .join s c = true → exec .join s = .next (match s.innermost c.pid c.p with
        | some x =>
          if x.split = true ∧ x.rejoin = c.p.pc then (((s.retire c c.p.pc none).arrive c.pid).settle c.pid).unstep c.pid
          else s.retire c c.nextPc none
        | none => s.retire c c.nextPc none))
    ∧ (ready .exit s c = true → c.helper = false →
      let u := (s.exitLoans (c.pid / 4) c.p.mask).exitLanes (c.pid / 4) c.p.mask
      exec .exit s = .next (u.retire c c.nextPc none)
        ∧ (∀ pid q, pid / 4 = c.pid / 4 → u.path pid = some q → q.mask &&& c.p.mask = 0)
        ∧ (∀ x ∈ u.tokensOf (c.pid / 4), (x.mask ||| x.arrived ||| x.pmask) &&& c.p.mask = 0)
        ∧ (∀ w, u.wave (c.pid / 4) = some w → w.live &&& c.p.mask = 0)
        ∧ (∀ q l, s.path c.pid = some q → q.loan = some l → c.p.mask.getLsbD l.lane = true →
            ∃ r, u.path c.pid = some r ∧ r.loan = none ∧ r.loanst.getLsbD 0 = false))
    ∧ (∀ pc, ready .exit s c = true → c.helper = true → s.pendingLoad c.pid = some pc →
      exec .exit s = .next (s.waitAt c.pid false (.counter pc)))
    ∧ (ready .exit s c = true → c.helper = true → s.pendingLoad c.pid = none →
      let u := ((s.commitLanes c.pid c.lanes).releaseLanes c.pid 0 c.lanes).reapHelper c.pid
      exec .exit s = .next (if (u.helper c.pid).isNone then u.unstep c.pid else u.retire c c.nextPc none))
    ∧ (ready .refill s c = true → exec .refill s = .next
        (if (s.pathsOf (c.pid / 4)).length = 1 ∧ c.p.token = none then
          match s.refillWaits (c.pid / 4) with
          | some pc => s.waitAt c.pid false (.register pc)
          | none =>
          let u := s.recallAll (s.helpersWhere fun h => h.lender == c.pid / 4)
          (match u.wave (c.pid / 4) with
            | some w => u.refillLanes c.pid (lanesOf (~~~w.live))
            | none => u).retire c c.nextPc none
         else s.retire c c.nextPc none))
    ∧ (ready .rgn s c = true → (c.p.region = none ∨ s.pendingLoad c.pid = none) →
      exec .rgn s = .next (((s.commitRegion c.pid).onPath c.pid fun p =>
        { p with region := some ⟨c.nextPc, c.p.token, false, []⟩ }).retire c c.nextPc none))

/-! Loans. -/

/-- From R81, R82, R292, R293: LOAN completes. One that is refused writes 0 and its flag, and says why in sr.loanst; one that is not
refused becomes pending, writes the grant and its reason as R293's counts give them, and helper paths are started on as many
lendable lanes of waves of the core, in the order of R292. -/
def Obligations.LoanRequests : Prop :=
  ∀ (s : State) (c : Ctx) (d a : BitVec 7) (g : BitVec 3) (y : BitVec 6), ready (.loan d a g y) s c = true →
    let asked := (s.readS c.pid c.p a.toNat).toNat
    let first := (s.readS c.pid c.p (a.toNat + 1)).toNat
    let last := (s.readS c.pid c.p (a.toNat + 2)).toNat
    let demand := (s.readS c.pid c.p (a.toNat + 3)).toNat
    let refused (why : Nat) : State :=
      ((s.writeS c.pid d.toNat 0).onPath c.pid fun p =>
        { p with flags := setFlag p.flags g true, loanst := loanstOf 0 asked why 0 0 }).retire c c.nextPc none
    ((lanesOf c.p.mask).length ≠ 1 → exec (.loan d a g y) s = .next (refused 6))
    ∧ ((lanesOf c.p.mask).length = 1 → c.p.loan.isSome = true → exec (.loan d a g y) s = .next (refused 5))
    ∧ ((lanesOf c.p.mask).length = 1 → c.p.loan = none → (asked = 0 ∨ 96 < asked ∨ 16 < demand ∨ last ≤ first) →
      exec (.loan d a g y) s = .next (refused 4))
    ∧ ((lanesOf c.p.mask).length = 1 → c.p.loan = none → ¬ (asked = 0 ∨ 96 < asked ∨ 16 < demand ∨ last ≤ first) →
      let blocks := (demand + 7) / 8
      let able := s.loanWaves c blocks s.lendable
      let n1 := lanesLent able
      let n2 := if (s.core c.core).q0 = [] then n1 else lanesLent (able.filter fun t => s.barrierWaits t.1)
      let n3 := s.freeLoan c.core / 8
      let ws := s.loanWaves c blocks fun v w => if (s.core c.core).q0 = [] ∨ s.barrierWaits v = true then s.lendable v w else 0
      ∃ (grant reason : Nat) (ln : Loan), grant = min asked (min n2 n3)
        ∧ (grant = asked → reason = 0) ∧ (grant ≠ asked → n3 < n2 → reason = 3) ∧ (grant ≠ asked → n2 ≤ n3 → n2 = n1 → reason = 1)
        ∧ (grant ≠ asked → n2 ≤ n3 → n2 ≠ n1 → reason = 2)
        ∧ grant ≤ lanesLent ws ∧ ws.length ≤ (s.freeHelpers c.core).length
        ∧ (ws.map (·.1)).Sublist ((s.lenders (c.pid / 4)).map (·.1))
        ∧ ((s.run.waves.map (·.1)).Pairwise (· < ·) →
          ws.Pairwise fun x y => x.1 = c.pid / 4 ∨ (y.1 ≠ c.pid / 4 ∧ x.1 < y.1))
        ∧ (lowestLane c.p.mask) = some ln.lane ∧ ln.next = first ∧ ln.last = last ∧ ln.pool = [] ∧ ln.demand = demand
        ∧ ln.entry = wordsFrom c.p.pc (widenedImm c.pfx y) ∧ ln.repays = []
        ∧ (∀ x ∈ ws, x.1 / 32 = c.pid / 4 / 32 ∧ ∃ w, (x.1, w) ∈ s.run.waves ∧ x.2 &&& ~~~s.lendable x.1 w = 0)
        ∧ (∀ r, snapshotReg r = true → tgetD 0 ln.snapshot r = s.readS c.pid c.p r)
        ∧ exec (.loan d a g y) s = .next
          ((((s.writeS c.pid d.toNat (BitVec.ofNat 32 grant)).onPath c.pid fun p =>
            { p with flags := setFlag p.flags g (decide (grant < asked)), loan := some ln, loanst := loanstOf grant asked reason 0 1 }).startHelpers
              c ln.entry blocks ws (s.freeHelpers c.core) grant).retire c c.nextPc none))

/-- From R83, R84, R85: LNEXT, REPAY and LDONE complete. lnext without a loan, for the recruiter, and in a helper, where it waits
for the helper's loads; a repay outside a loan or against the loan's other repays traps 0x01, one without an active lane
contributes nothing, one of the recruiter is held with its iteration, and one of a helper with its lanes'; ldone without a loan
is a nop, waits for loads of its repay registers and for the helpers and stores of its loan, commits the recruiter's last
iteration (log entry 123), and then writes the results of the repay registers to the recruiter's lane and ends the loan. That a
repay under an empty mask takes no repay register is log entry 45. From R85: what ldone writes to an integer or bitwise repay
register: the sum modulo 2^32, or the AND, OR or XOR, of the register and its contributions; and the least or greatest of them
for min and max of integers. -/
def Obligations.LoanIterationsAndRepayResults : Prop :=
  (∀ (s : State) (c : Ctx) (d a : BitVec 7) (g : BitVec 3) (r : RedOp) (ty : RepayTy),
    let give (u : State) (n : Nat) (f : Bool) : State :=
      (u.writeS c.pid d.toNat (BitVec.ofNat 32 n)).onPath c.pid fun p => { p with flags := setFlag p.flags g f }
    let unlawful : State := (s.takeTrap c.pid 0x01 c.first (BitVec.ofNat 64 c.word) none).unstep c.pid
    -- the recruiter's previous iteration committed; what it drops beyond the limit is counted as the instruction completes
    let own : State := s.commitOwn c.pid
    (ready (.lnext d g) s c = true → s.helper c.pid = none → c.p.loan = none →
      exec (.lnext d g) s = .next ((give s 0 false).retire c c.nextPc none))
    ∧ (∀ i l, ready (.lnext d g) s c = true → s.helper c.pid = none → c.p.loan.isSome = true →
      ((own.path c.pid).bind (·.loan)).bind Loan.take = some (i, l) →
      exec (.lnext d g) s = .next
        (((give (own.onPath c.pid fun p => { p with loan := some { l with current := some i } }) i true).countDropped c.pid).retire c
          c.nextPc none))
    ∧ (ready (.lnext d g) s c = true → s.helper c.pid = none → c.p.loan.isSome = true →
      ((own.path c.pid).bind (·.loan)).bind Loan.take = none →
      exec (.lnext d g) s =
        .next (if own.helpersHold c.pid then own.waitAt c.pid true .loan else ((give own 0 false).countDropped c.pid).retire c c.nextPc none))
    ∧ (∀ (l : Loan) (i : Nat) (l' : Loan), l.take = some (i, l') →
      (l.pool = [] → i = l.next ∧ l.next < l.last ∧ l' = { l with next := l.next + 1 })
        ∧ (∀ k ks, l.pool = k :: ks → i = k ∧ l' = { l with pool := ks }))
    ∧ (∀ h, ready (.lnext d g) s c = true → s.helper c.pid = some h → s.pendingLoad c.pid = none →
      let u := (s.commitLanes c.pid c.lanes).serveLanes c.pid h.recruiter c.lanes
      let served := u.servedLanes c.pid c.lanes
      let v := ((give u served.length (!served.isEmpty)).releaseLanes c.pid 0 (c.lanes.filter fun l => !served.contains l)).reapHelper c.pid
      exec (.lnext d g) s = .next (if c.helper && (v.helper c.pid).isNone then v.unstep c.pid else v.retire c c.nextPc none))
    ∧ (∀ h pc, ready (.lnext d g) s c = true → s.helper c.pid = some h → s.pendingLoad c.pid = some pc →
      exec (.lnext d g) s = .next (s.waitAt c.pid true (.counter pc)))
    ∧ (ready (.repay d a r ty) s c = true → s.helper c.pid = none → c.p.loan = none →
      exec (.repay d a r ty) s = .next unlawful)
    ∧ (∀ l, ready (.repay d a r ty) s c = true → s.helper c.pid = none → c.p.loan = some l → l.fits d.toNat r ty = true → c.p.mask = 0 →
      exec (.repay d a r ty) s = .next (s.retire c c.nextPc none))
    ∧ (∀ l, ready (.repay d a r ty) s c = true → s.helper c.pid = none → c.p.loan = some l → l.fits d.toNat r ty = false →
      exec (.repay d a r ty) s = .next unlawful)
    ∧ (∀ l, ready (.repay d a r ty) s c = true → c.helper = false → s.helper c.pid = none → c.p.loan = some l →
      l.fits d.toNat r ty = true → c.p.mask ≠ 0 →
      ∃ (t : State) (q : Path) (ln : Loan), exec (.repay d a r ty) s = .next (t.retire c c.nextPc none) ∧ t.path c.pid = some q ∧ q.loan = some ln
        ∧ ln.held = l.held ++ (lanesOf c.p.mask).map (fun x => .repay d.toNat (s.readV c.pid a.toNat x))
        ∧ (∃ x ∈ ln.repays, x.reg = d.toNat ∧ x.red = r ∧ x.ty = ty)
        ∧ t.run.vregs = s.run.vregs ∧ t.run.sregs = s.run.sregs ∧ t.mem = s.mem)
    ∧ (∀ h l, ready (.repay d a r ty) s c = true → c.helper = true → s.helper c.pid = some h → (s.path h.recruiter).bind (·.loan) = some l →
      (l.fits d.toNat r ty = false → exec (.repay d a r ty) s = .next unlawful)
      ∧ (l.fits d.toNat r ty = true → c.p.mask = 0 → exec (.repay d a r ty) s = .next (s.retire c c.nextPc none))
      ∧ (l.fits d.toNat r ty = true → c.p.mask ≠ 0 →
        let m := l.useReg d.toNat r ty
        let u := ((s.onPath h.recruiter fun p => { p with
          loan := some m, loanst := (p.loanst &&& ~~~0xF0#32) ||| BitVec.ofNat 32 (m.repays.length * 16) }).holdRepays c.pid d.toNat
            ((lanesOf c.p.mask).map fun x => (x, s.readV c.pid a.toNat x))).reapHelper c.pid
        exec (.repay d a r ty) s = .next (if (u.helper c.pid).isNone then u.unstep c.pid else u.retire c c.nextPc none)))
    ∧ (ready .ldone s c = true → c.p.loan = none → exec .ldone s = .next (s.retire c c.nextPc none))
    ∧ (∀ l, ready .ldone s c = true → c.p.loan = some l →
      let pending := s.registersPending c.owner ⟨l.repays.map fun x => (x.reg, 1), [], [], []⟩
      let closing := s.onPath c.pid fun p => { p with loan := some { l with closing := true } }
      -- what the recruiter's last iteration holds is committed first
      let v := closing.commitOwn c.pid
      (∀ pc, pending = some pc → exec .ldone s = .next (closing.waitAt c.pid true (.register pc)))
      ∧ (pending = none → s.loanBusy c.pid = true → exec .ldone s = .next (closing.waitAt c.pid true .loan))
      ∧ ((s.helpersWhere fun h => h.recruiter == c.pid) ≠ [] → s.loanBusy c.pid = true)
      ∧ (pending = none → s.loanBusy c.pid = false → v.loanBusy c.pid = true →
        exec .ldone s = .next (v.waitAt c.pid true .loan))
      ∧ (l.held = [] → (v.path c.pid).bind (·.loan) = some { l with closing := true, current := none } ∧ v.mem = s.mem
        ∧ v.run.vregs = s.run.vregs ∧ v.run.sregs = s.run.sregs ∧ v.loanBusy c.pid = s.loanBusy c.pid)
      ∧ (∀ p m, pending = none → s.loanBusy c.pid = false → v.loanBusy c.pid = false → v.path c.pid = some p → p.loan = some m →
        m.lane < 96 → (∀ x ∈ m.repays, x.reg < 112) → (m.repays.map (·.reg)).Nodup →
        ∃ (t : State) (q : Path), exec .ldone s = .next (t.retire c c.nextPc none) ∧ t.path c.pid = some q ∧ q.loan = none
          ∧ q.loanst = p.loanst &&& ~~~1#32 ∧ t.mem = v.mem ∧ t.run.sregs = v.run.sregs
          ∧ (∀ x ∈ m.repays, t.readV c.pid x.reg m.lane = (x.result (v.readV c.pid x.reg m.lane)).1)
          ∧ (∀ owner n k, n < 128 → k < 96 → (owner ≠ c.owner ∨ k ≠ m.lane ∨ n ∉ m.repays.map (·.reg)) →
              tgetD 0 t.run.vregs (vkey owner n k) = tgetD 0 v.run.vregs (vkey owner n k)))))
  ∧ (∀ (reg : Nat) (vs : List Word) (old : Word) (ty : RepayTy),
    (ty ≠ .f32 → (Repay.result ⟨reg, .add, ty, vs⟩ old).1 = BitVec.ofNat 32 ((old :: vs).map (·.toNat)).sum)
    ∧ (∀ b, b < 32 → (Repay.result ⟨reg, .and, ty, vs⟩ old).1.getLsbD b = (old :: vs).all (·.getLsbD b))
    ∧ (∀ b, b < 32 → (Repay.result ⟨reg, .or, ty, vs⟩ old).1.getLsbD b = (old :: vs).any (·.getLsbD b))
    ∧ (∀ b, b < 32 → (Repay.result ⟨reg, .xor, ty, vs⟩ old).1.getLsbD b = ((old :: vs).map (·.getLsbD b)).foldl (· != ·) false)
    ∧ (∀ x ∈ old :: vs, (Repay.result ⟨reg, .min, .i32, vs⟩ old).1.sle x = true
      ∧ x.sle (Repay.result ⟨reg, .max, .i32, vs⟩ old).1 = true ∧ (Repay.result ⟨reg, .min, .n32, vs⟩ old).1.ule x = true
      ∧ x.ule (Repay.result ⟨reg, .max, .n32, vs⟩ old).1 = true)
    ∧ (Repay.result ⟨reg, .min, .i32, vs⟩ old).1 ∈ old :: vs ∧ (Repay.result ⟨reg, .max, .i32, vs⟩ old).1 ∈ old :: vs
    ∧ (Repay.result ⟨reg, .min, .n32, vs⟩ old).1 ∈ old :: vs ∧ (Repay.result ⟨reg, .max, .n32, vs⟩ old).1 ∈ old :: vs)

/-! Barriers, waits and claims. -/

/-- From R86, R87, R96: arrivals, which wait while the wave's last one is pending and for the path's own loads and atomics (R328), the waits for
a phase, and when an arrival completes the phase. A wait that is issued again counts once (log entry 37), and an arrival makes the path's
pending stores visible in the block in place of waiting for them (log entry 10). -/
def Obligations.Barriers : Prop :=
  (∀ (s : State) (c : Ctx) (n : BitVec 4),
    let wid := c.pid / 4
    (ready (.barArrive n) s c = true →
      let u := s.entered (.barArrive n) c
      (u.pendingArrival wid n.toNat = true → exec (.barArrive n) s = .next (u.waitAt c.pid false .arrival))
      ∧ (∀ pc, u.pendingArrival wid n.toNat = false → u.unfenced c.pid 14 = some pc →
        exec (.barArrive n) s = .next (u.waitAt c.pid false (.counter pc)))
      ∧ (u.pendingArrival wid n.toNat = false → u.unfenced c.pid 14 = none →
        exec (.barArrive n) s = .next (((u.showIn c.pid .block).arriveAt wid n.toNat).retire c c.nextPc none)))
    ∧ (ready (.barWait n) s c = true → c.p.arrivedAt ≠ some c.p.pc →
      let u := ((s.entered (.barWait n) c).countedHere c).seeNext wid n.toNat
      exec (.barWait n) s =
        .next (if u.phaseSeen wid n.toNat then u.retire c c.nextPc none else u.waitAt c.pid true (.barrier n.toNat)))
    ∧ (ready (.barSync n) s c = true → c.p.arrivedAt ≠ some c.p.pc →
      let u := s.entered (.barSync n) c
      (u.pendingArrival wid n.toNat = true ∨ u.unfenced c.pid 14 ≠ none →
        exec (.barSync n) s = .next (u.waitAt c.pid true (.barrier n.toNat)))
      ∧ (u.pendingArrival wid n.toNat = false → u.unfenced c.pid 14 = none →
        let v := (((u.showIn c.pid .block).countedHere c).arriveAt wid n.toNat).seeNext wid n.toNat
        exec (.barSync n) s =
          .next (if v.phaseSeen wid n.toNat then v.retire c c.nextPc none else (v.beginWait c).waitAt c.pid true (.barrier n.toNat))))
    ∧ (∀ i ∈ [Instr.barWait n, Instr.barSync n], ready i s c = true → c.p.arrivedAt = some c.p.pc →
      let u := s.entered i c
      exec i s = .next (if u.phaseSeen wid n.toNat then u.retire c c.nextPc none else u.waitAt c.pid true (.barrier n.toNat))))
  ∧ (∀ (s : State) (wid n : Nat) (w : Wave) (b : Block), s.wave wid = some w → s.block w.block = some b → n < 16 →
    ((s.arriveAt wid n).block w.block).map (·.barrier n) = some
      (if s.expected w.block ≤ (b.barrier n).count + 1 then ⟨(b.barrier n).phase + 1, 0⟩
       else ⟨(b.barrier n).phase, (b.barrier n).count + 1⟩))

/-- From R88, R89, R91, R275: wait.c, sleep, yield and nop; claims that are granted, refused or left waiting, and registers given back. -/
def Obligations.WaitsAndClaims : Prop :=
  ∀ (s : State) (c : Ctx),
    let wid := c.pid / 4
    (∀ (l st : BitVec 6) (cp tl : BitVec 4), ready (.waitC l st cp tl) s c = true →
      (s.counter c.owner .ld ≤ l.toNat ∧ s.counter c.owner .st ≤ st.toNat ∧ s.counter c.owner .cp ≤ cp.toNat
          ∧ s.counter c.owner .tl ≤ tl.toNat →
        exec (.waitC l st cp tl) s = .next (s.retire c c.nextPc none))
      ∧ (¬ (s.counter c.owner .ld ≤ l.toNat ∧ s.counter c.owner .st ≤ st.toNat ∧ s.counter c.owner .cp ≤ cp.toNat
          ∧ s.counter c.owner .tl ≤ tl.toNat) →
        ∃ pc, exec (.waitC l st cp tl) s = .next (s.waitAt c.pid true (.waitc pc))))
    ∧ (∀ n : BitVec 16, ready (.sleep n) s c = true →
      let k := match c.pfx with | [] => n.toNat | x :: _ => x * 65536 + n.toNat
      exec (.sleep n) s = .next ((s.onPath c.pid fun p => { p with sleep := k }).retire c c.nextPc none))
    ∧ (ready .yield s c = true →
      exec .yield s = .next ((s.onPath c.pid fun p => { p with passOver := true }).retire c c.nextPc none))
    ∧ (ready .nop s c = true → exec .nop s = .next (s.retire c c.nextPc none))
    ∧ (∀ (nb : Bool) (g : BitVec 3) (k : BitVec 5), ready (.claim nb g k) s c = true →
      (128 < s.regCountOf wid + 8 * k.toNat →
        exec (.claim nb g k) s = .next ((s.takeFree.takeTrap c.pid 0x02 c.first s.openAux none).unstep c.pid))
      ∧ (s.regCountOf wid + 8 * k.toNat ≤ 128 → s.canClaim wid (8 * k.toNat) = true →
        exec (.claim nb g k) s = .next
          ((if nb then (s.addRegs wid (8 * k.toNat)).onPath c.pid fun p => { p with flags := setFlag p.flags g true }
            else s.addRegs wid (8 * k.toNat)).retire c c.nextPc none))
      ∧ (s.regCountOf wid + 8 * k.toNat ≤ 128 → s.canClaim wid (8 * k.toNat) = false → nb = false →
        ((s.core c.core).claims.any fun q => q.2.pid == c.pid) = false →
        exec (.claim nb g k) s = .next ((s.setCore c.core { s.core c.core with
          claims := (s.core c.core).claims ++ [(wid % 4, ⟨c.pid, 8 * k.toNat⟩)] }).waitAt c.pid true .hold))
      ∧ (s.regCountOf wid + 8 * k.toNat ≤ 128 → s.canClaim wid (8 * k.toNat) = false → nb = true →
        exec (.claim nb g k) s =
          .next ((s.onPath c.pid fun p => { p with flags := setFlag p.flags g false }).retire c c.nextPc none)))
    ∧ (∀ (n : Nat) (w : Wave), s.wave wid = some w →
      (s.addRegs wid n).wave wid = some { w with regCount := w.regCount + n }
        ∧ (∀ r l, w.regCount ≤ r → r < w.regCount + n → l < 96 → tget (s.addRegs wid n).run.vregs (vkey wid r l) = none))
    ∧ (∀ k : BitVec 5, ready (.giveback k) s c = true →
      (s.regCountOf wid < 8 * k.toNat + 8 →
        exec (.giveback k) s = .next ((s.takeFree.takeTrap c.pid 0x02 c.first s.openAux none).unstep c.pid))
      ∧ (8 * k.toNat + 8 ≤ s.regCountOf wid →
        s.registersPending c.owner ⟨[], [(s.regCountOf wid - 8 * k.toNat, 8 * k.toNat)], [], []⟩ = none →
        ∃ t : State, exec (.giveback k) s = .next (t.retire c c.nextPc none) ∧ t.regCountOf wid = s.regCountOf wid - 8 * k.toNat
          ∧ t.run.sregs = s.run.sregs ∧ t.mem = s.mem
          ∧ t.run.vregs = tdrop s.run.vregs (vkey wid (s.regCountOf wid - 8 * k.toNat) 0) (vkey wid (s.regCountOf wid) 0)))
    ∧ (∀ (core pipe : Nat) (q : Claim) (qs : List Claim) (p : Path), (s.core core).waitingClaims pipe = q :: qs →
      s.path q.pid = some p → q.count ≤ s.poolFree core pipe → s.run.running = true → s.run.halted = false →
      s.clusterStopped (clusterOf core) = false → p.hold = false →
      let u := s.setCore core { s.core core with claims := (s.core core).claims.filter fun x => x.2.pid != q.pid }
      (s.regCountOf (q.pid / 4) + q.count ≤ 128 → ∃ c' : Ctx, c'.pid = q.pid ∧ c'.p = p
        ∧ exec (.claimGrant core pipe) s = .next ((u.addRegs (q.pid / 4) q.count).retire c' ((p.pc + 4) % 2 ^ 49) none))
      ∧ (128 < s.regCountOf (q.pid / 4) + q.count → exec (.claimGrant core pipe) s =
        .next ((u.takeFree.takeTrap q.pid 0x02 p.bundleStart s.openAux none).unstep q.pid)))

/-! Vector arithmetic. -/

/-- From R97, R102, R103: VADD to VABSD in register and immediate form without sat: each element of each active lane is the
operation on the like-numbered elements of the sources (of an immediate, its low bits), wrapping; nothing is counted. Each
completes: VADD, VSUB, VMUL, VAND, VOR, VXOR, VANDN, VSHL, VSHR, VSRA, VMIN, VMAX and VABSD, and their immediate forms. From
R103: VADD, VSUB, VMUL and their immediate forms with sat clamp each element to the signed range of its width, and a lane counts
saturation where an element clamps. -/
def Obligations.VectorIntegerElementForms : Prop :=
  (∀ (i : Instr) (s : State) (c : Ctx) (n : Nat) (d a : BitVec 7), ready i s c = true → n = pkWidth c.mods.pk → c.mods.sat = false →
    (∀ b f, vectorTwo n i = some (d, a, b, f) →
      ∃ r : Nat → Word, exec i s = .next (s.laneResult c d r)
        ∧ ∀ l j, j < 32 / n → elem n (r l) j = f (elem n (s.readV c.pid a.toNat l) j) (elem n (s.readV c.pid b.toNat l) j))
    ∧ (∀ k f, vectorImm n i = some (d, a, k, f) →
      ∃ r : Nat → Word, exec i s = .next (s.laneResult c d r)
        ∧ ∀ l j, j < 32 / n →
          elem n (r l) j = f (elem n (s.readV c.pid a.toNat l) j) ((widenedImm c.pfx k).truncate n)))
  ∧ (∀ (i : Instr) (s : State) (c : Ctx) (n : Nat) (d a : BitVec 7) (g : Int → Int → Int),
    ready i s c = true → n = pkWidth c.mods.pk → c.mods.sat = true → saturating i = some g →
    let lo : Int := -2 ^ (n - 1)
    let hi : Int := 2 ^ (n - 1) - 1
    (∀ b f, vectorTwo n i = some (d, a, b, f) →
      let exact_ (l j : Nat) : Int := g (elem n (s.readV c.pid a.toNat l) j).toInt (elem n (s.readV c.pid b.toNat l) j).toInt
      ∃ r : Nat → Word × Events, exec i s = .next (s.laneResultCounted c d r)
        ∧ (∀ l j, j < 32 / n → (elem n (r l).1 j).toInt = max lo (min hi (exact_ l j)))
        ∧ (∀ l, ((∃ j, j < 32 / n ∧ (exact_ l j < lo ∨ hi < exact_ l j)) → (r l).2 = evSaturation)
          ∧ ((∀ j, j < 32 / n → lo ≤ exact_ l j ∧ exact_ l j ≤ hi) → (r l).2 = 0)))
    ∧ (∀ k f, vectorImm n i = some (d, a, k, f) →
      let exact_ (l j : Nat) : Int := g (elem n (s.readV c.pid a.toNat l) j).toInt ((widenedImm c.pfx k).truncate n).toInt
      ∃ r : Nat → Word × Events, exec i s = .next (s.laneResultCounted c d r)
        ∧ (∀ l j, j < 32 / n → (elem n (r l).1 j).toInt = max lo (min hi (exact_ l j)))
        ∧ (∀ l, ((∃ j, j < 32 / n ∧ (exact_ l j < lo ∨ hi < exact_ l j)) → (r l).2 = evSaturation)
          ∧ ((∀ j, j < 32 / n → lo ≤ exact_ l j ∧ exact_ l j ≤ hi) → (r l).2 = 0))))

/-- From R97, R102, R104, R116: VMULH, VBFE, VPOPC, VCLZ, VBREV, VBFI, VMAD, VMOV, VSEL, VMOV_SCALAR, VMOVI and VSR on whole lanes. -/
def Obligations.VectorWholeLaneForms : Prop :=
  ∀ (s : State) (c : Ctx) (d a b : BitVec 7),
    let x (l : Nat) := s.readV c.pid a.toNat l
    let y (l : Nat) := s.readV c.pid b.toNat l
    (∀ i f, ready i s c = true → vectorWhole i = some (d, a, b, f) →
      exec i s = .next (s.laneResult c d fun l => f (x l) (y l)))
    ∧ (ready (.vclz d a) s c = true → ∃ r : Nat → Nat, exec (.vclz d a) s = .next (s.laneResult c d fun l => BitVec.ofNat 32 (r l))
        ∧ ∀ l, r l ≤ 32 ∧ (∀ j, j < r l → (x l).getMsbD j = false) ∧ (r l < 32 → (x l).getMsbD (r l) = true))
    ∧ (ready (.vbfi d a b) s c = true → exec (.vbfi d a b) s = .next (s.laneResult c d fun l =>
        fieldInsert (s.readV c.pid d.toNat l) (x l) ((y l).extractLsb' 8 6).toNat ((y l).extractLsb' 0 6).toNat))
    ∧ (ready (.vmad d a b) s c = true → exec (.vmad d a b) s = .next (s.laneResult c d fun l =>
        x l * y l + s.readV c.pid (if c.mods.vce then c.mods.vc.toNat else d.toNat) l))
    ∧ (∀ k : BitVec 3, ready (.vsel d a b k) s c = true → exec (.vsel d a b k) s = .next (s.laneResult c d fun l =>
        if (s.readK c.pid k.toNat).getLsbD l then x l else y l))
    ∧ (ready (.vmovScalar d a) s c = true →
      exec (.vmovScalar d a) s = .next (s.laneResult c d fun _ => s.readS c.pid c.p a.toNat))
    ∧ (∀ k : BitVec 14, ready (.vmovi d k) s c = true →
      exec (.vmovi d k) s = .next (s.laneResult c d fun _ => (widenedImm c.pfx k).truncate 32))
    ∧ (ready (.vsr d 0x000) s c = true → exec (.vsr d 0x000) s = .next (s.laneResult c d fun l => BitVec.ofNat 32 l))
    ∧ (ready (.vsr d 0x001) s c = true → exec (.vsr d 0x001) s = .next (s.laneResult c d fun l => s.itemOf c.pid l))
    ∧ (ready (.vsr d 0x002) s c = true → exec (.vsr d 0x002) s = .next (s.laneResult c d fun l => s.nbrOf c.pid l))
    ∧ (∀ n : BitVec 12, 3 ≤ n.toNat → taken (.vsr d n) s c = true →
      exec (.vsr d n) s = .next ((s.takeTrap c.pid 0x01 c.first (BitVec.ofNat 64 c.word) none).unstep c.pid))

/-! Floating point. -/

/-- From R41: a magnitude cut at bit `s` rounds to a neighbour: toward zero, away from it by direction and sign, or to the nearest
with ties to even or away. From R45: widening an FP16, BF16, E4M3 or E5M2 code to FP32 is exact: narrowing the result under any
rounding mode gives the code back, unless it is a NaN. -/
def Obligations.RoundingAndWidening : Prop :=
  (∀ (neg : Bool) (m s : Nat),
    let k (r : Rnd) := roundShift r neg m s
    (∀ r, k r = m / 2 ^ s ∨ (k r = m / 2 ^ s + 1 ∧ m % 2 ^ s ≠ 0))
    ∧ k .rtz = m / 2 ^ s
    ∧ k .rdn = (if neg = true ∧ m % 2 ^ s ≠ 0 then m / 2 ^ s + 1 else m / 2 ^ s)
    ∧ k .rup = (if neg = false ∧ m % 2 ^ s ≠ 0 then m / 2 ^ s + 1 else m / 2 ^ s)
    ∧ (2 * (k .rne * 2 ^ s) ≤ 2 * m + 2 ^ s ∧ 2 * m ≤ 2 * (k .rne * 2 ^ s) + 2 ^ s)
    ∧ (2 * (m % 2 ^ s) = 2 ^ s → k .rne % 2 = 0 ∧ k .rna = m / 2 ^ s + 1)
    ∧ (2 * (k .rna * 2 ^ s) ≤ 2 * m + 2 ^ s ∧ 2 * m ≤ 2 * (k .rna * 2 ^ s) + 2 ^ s))
  ∧ (∀ (f : Fmt) (e : Nat) (r : Rnd), f ∈ [fp16, bf16, e4m3, e5m2] → e < 2 ^ (f.ew + f.mw + 1) → f.value e ≠ .nan →
    f.pack r false (fin32 false (out32 .rne false (f.value e)).1) = (e, 0))

/-- From R105, R109: sums, products and fused sums of finite values are exact before the one rounding. -/
def Obligations.FloatOperationsAreExact : Prop :=
  ∀ (r : Rnd) (a b c : FV), a.isFin = true → b.isFin = true → c.isFin = true →
    (FV.add r a b).1.rat = a.rat + b.rat ∧ (FV.mul a b).1.rat = a.rat * b.rat
      ∧ (FV.fma r a b c).1.rat = a.rat * b.rat + c.rat ∧ (FV.add r a b).2 = 0 ∧ (FV.mul a b).2 = 0
      ∧ (FV.add r a b).1.isFin = true ∧ (FV.mul a b).1.isFin = true

/-- From R97, R105 to R110, R112: every FP32 instruction writes, in each active lane, the exact result rounded once, and counts the
lane's events, and completes: VFADD, VFSUB, VFMUL, VFDIV, VFSCALE, VFMIN, VFMAX; VFRCP, VFRSQ, VFSQRT, VFEXP2, VFLOG2, VFSIN,
VFCOS, VFEXP, VFCLASS and the conversions of FP32 from and to I32 and N32; the two-element BF16 forms VHADD, VHMUL and VHFMA and
the fused VFFMA likewise; a NaN addend of a fused form counts nothing. From R110, R111: the functions before their one rounding.
A quotient, a square root and its reciprocal are exact, or lie strictly between the same two neighbours of at least 40 bits as
the exact value, so that every rounding of them is that of the exact value; 2^a of a whole number and log2 of a power of two are
exact; and the results of zeros, infinities, NaNs and negative numbers are R111's. The other values of VFEXP2, VFLOG2, VFSIN,
VFCOS and VFEXP are the 256-bit fixed-point values of log entry 11, of which no statement says that they round as the exact ones
do. -/
def Obligations.VectorFloatForms : Prop :=
  (∀ (i : Instr) (s : State) (c : Ctx) (d a b : BitVec 7),
    let x (l : Nat) := s.readV c.pid a.toNat l
    let y (l : Nat) := s.readV c.pid b.toNat l
    let z (l : Nat) := s.readV c.pid (if c.mods.vce then c.mods.vc.toNat else d.toNat) l
    let half (w : Word) (j : Nat) : FV := bf16.value (elem 16 w j).toNat
    let prod (u : FV) : FV := if c.mods.na then u.neg else u
    let addend (u : FV) : FV := if c.mods.nc then u.neg else u
    -- each BF16 element rounded once, and the lane's events those of either element
    let pair (r : Nat → Word × Events) (f : Nat → Nat → FV × Events) : Prop :=
      ∀ l, (∀ j, j < 2 → (elem 16 (r l).1 j).toNat = (bf16.pack c.mods.rnd false (f l j).1).1)
        ∧ (r l).2 = (bf16.pack c.mods.rnd false (f l 0).1).2 ||| (f l 0).2 ||| (bf16.pack c.mods.rnd false (f l 1).1).2 ||| (f l 1).2
    (∀ f, ready i s c = true → floatTwo c.mods i = some (d, a, b, f) →
      exec i s = .next (s.laneResultCounted c d fun l => f (x l) (y l)))
    ∧ (∀ f, ready i s c = true → floatOne c.mods i = some (d, a, f) →
      exec i s = .next (s.laneResultCounted c d fun l => f (x l)))
    ∧ (ready (.vffma d a b) s c = true → exec (.vffma d a b) s = .next (s.laneResultCounted c d fun l =>
        rounded32 c.mods.rnd c.mods.ftz (FV.fma c.mods.rnd (prod (fin32 c.mods.ftz (x l))) (fin32 c.mods.ftz (y l))
          (addend (fin32 c.mods.ftz (z l))))))
    ∧ (ready (.vhadd d a b) s c = true → ∃ r : Nat → Word × Events, exec (.vhadd d a b) s = .next (s.laneResultCounted c d r)
        ∧ pair r fun l j => FV.add c.mods.rnd (half (x l) j) (half (y l) j))
    ∧ (ready (.vhmul d a b) s c = true → ∃ r : Nat → Word × Events, exec (.vhmul d a b) s = .next (s.laneResultCounted c d r)
        ∧ pair r fun l j => FV.mul (half (x l) j) (half (y l) j))
    ∧ (ready (.vhfma d a b) s c = true → ∃ r : Nat → Word × Events, exec (.vhfma d a b) s = .next (s.laneResultCounted c d r)
        ∧ pair r fun l j => FV.fma c.mods.rnd (prod (half (x l) j)) (half (y l) j) (addend (half (z l) j)))
    ∧ (∀ u v w : FV, w = .nan → (FV.fma c.mods.rnd u v w).2 = 0))
  ∧ ((∀ (m : Nat) (e : Int), 0 < m →
    let a : ℚ := (m : ℚ) * (2 : ℚ) ^ e
    (∃ (r : Nat) (k : Int), 2 ^ 39 ≤ r ∧ ((r : ℚ) * 2 ^ k) ^ 2 ≤ a ∧ a < (((r : ℚ) + 1) * 2 ^ k) ^ 2
      ∧ (FV.sqrt (.fin false m e)).2 = 0
      ∧ (FV.sqrt (.fin false m e)).1.rat = if ((r : ℚ) * 2 ^ k) ^ 2 = a then (r : ℚ) * 2 ^ k else ((r : ℚ) + 1 / 2) * 2 ^ k)
    ∧ (∃ (r : Nat) (k : Int), 2 ^ 39 ≤ r ∧ ((r : ℚ) * 2 ^ k) ^ 2 * a ≤ 1 ∧ 1 < (((r : ℚ) + 1) * 2 ^ k) ^ 2 * a
      ∧ (FV.rsqrt (.fin false m e)).2 = 0
      ∧ (FV.rsqrt (.fin false m e)).1.rat = if ((r : ℚ) * 2 ^ k) ^ 2 * a = 1 then (r : ℚ) * 2 ^ k else ((r : ℚ) + 1 / 2) * 2 ^ k)
    ∧ (∀ (n : Nat) (f : Int) (x y : Bool), 0 < n →
      let b : ℚ := (n : ℚ) * (2 : ℚ) ^ f
      ∃ (r : Nat) (k : Int), 2 ^ 39 ≤ r ∧ (r : ℚ) * 2 ^ k ≤ a / b ∧ a / b < ((r : ℚ) + 1) * 2 ^ k
        ∧ (FV.div (.fin x m e) (.fin y n f)).2 = 0
        ∧ (FV.div (.fin x m e) (.fin y n f)).1.rat
          = (if x = y then 1 else -1) * (if (r : ℚ) * 2 ^ k = a / b then (r : ℚ) * 2 ^ k else ((r : ℚ) + 1 / 2) * 2 ^ k)))
  ∧ (∀ (neg : Bool) (m : Nat), m < 256 →
    (FV.exp2 (.fin neg m 0)).1.rat = (2 : ℚ) ^ (if neg then -(m : Int) else (m : Int)) ∧ (FV.exp2 (.fin neg m 0)).2 = 0)
  ∧ (∀ (k : Nat) (e : Int), (FV.log2 (.fin false (2 ^ k) e)).1.rat = (k : ℚ) + (e : ℚ) ∧ (FV.log2 (.fin false (2 ^ k) e)).2 = 0)
  ∧ (∀ f ∈ [FV.sqrt, FV.rsqrt, FV.exp2, FV.exp, FV.log2, FV.sin, FV.cos], f .nan = (.nan, 0))
  ∧ (∀ f ∈ [FV.sin, FV.cos], ∀ neg, f (.inf neg) = (.nan, evInvalid))
  ∧ (∀ (m : Nat) (e : Int), 0 < m → ∀ f ∈ [FV.sqrt, FV.rsqrt, FV.log2], f (.fin true m e) = (.nan, evInvalid) ∧ f (.inf true) = (.nan, evInvalid))
  ∧ (∀ (neg : Bool) (e : Int), FV.sqrt (.fin neg 0 e) = (.fin neg 0 0, 0) ∧ FV.sin (.fin neg 0 e) = (.fin neg 0 0, 0)
    ∧ FV.rsqrt (.fin neg 0 e) = (.inf neg, 0) ∧ FV.log2 (.fin neg 0 e) = (.inf true, evDivZero)
    ∧ (∀ f ∈ [FV.exp2, FV.exp, FV.cos], f (.fin neg 0 e) = (.fin false 1 0, 0))))

/-- From R45, R112: conversions between an element and a whole lane: a widening writes all 32 bits, a narrowing replaces the element
that its selector names and keeps the others. Each completes: from F16, BF16, E4M3, E5M2 to F32, from I8, I16, N8, N16 and
ternary to I32 or N32, and back. From R49 to R51, R113, R114: VNCVT, VNADD, VNMUL and VNFMA under a set descriptor, and what
each writes and counts under one that is not set. -/
def Obligations.ConversionForms : Prop :=
  (∀ (i : Instr) (s : State) (c : Ctx) (d a : BitVec 7) (k : BitVec 4), ready i s c = true → i.wf = true →
    (∀ n f, widening c.mods i = some (d, a, k, n, f) →
      exec i s = .next (s.laneResultCounted c d fun l => f (elem n (s.readV c.pid a.toNat l) k.toNat).toNat))
    ∧ (∀ n f, narrowing c.mods i = some (d, a, k, ⟨n, f⟩) →
      ∃ r : Nat → Word, exec i s = .next (s.laneResultCounted c d fun l => (r l, (f (s.readV c.pid a.toNat l)).2))
        ∧ ∀ l, elem n (r l) k.toNat = (f (s.readV c.pid a.toNat l)).1
          ∧ ∀ j, j < 32 / n → j ≠ k.toNat → elem n (r l) j = elem n (s.readV c.pid d.toNat l) j))
  ∧ (∀ (s : State) (c : Ctx) (d a b : BitVec 7) (k : BitVec 4) (n : BitVec 2),
    let x (l : Nat) := s.readV c.pid a.toNat l
    let y (l : Nat) := s.readV c.pid b.toNat l
    let z (l : Nat) := s.readV c.pid d.toNat l
    let unset : State := s.laneResultCounted c d fun _ => (0, evDescriptor)
    let unlawful : State := (s.takeTrap c.pid 0x01 c.first (BitVec.ofNat 64 c.word) none).unstep c.pid
    (s.descOf c.pid n.toNat = none →
      (ready (.vnadd d a b n) s c = true → exec (.vnadd d a b n) s = .next unset)
      ∧ (ready (.vnmul d a b n) s c = true → exec (.vnmul d a b n) s = .next unset)
      ∧ (ready (.vnfma d a b n) s c = true → exec (.vnfma d a b n) s = .next unset)
      ∧ (ready (.vncvtF32 d a k n) s c = true → exec (.vncvtF32 d a k n) s = .next unset)
      ∧ (ready (.vncvtNf d a k n) s c = true → exec (.vncvtNf d a k n) s = .next unset)
      ∧ (8 ≤ k.toNat → checked (.vncvtF32 d a k n) s c = true → exec (.vncvtF32 d a k n) s = .next unlawful)
      ∧ (8 ≤ k.toNat → checked (.vncvtNf d a k n) s c = true → exec (.vncvtNf d a k n) s = .next unlawful))
    ∧ (∀ q, s.descOf c.pid n.toNat = some q →
      let elemOf (w : Word) (j : Nat) : FV × Events := q.value (fld w.toNat (q.wid * j) q.wid)
      let packed_ (v : FV) : Nat := (q.pack c.mods.rnd c.mods.sat v).1
      -- each element rounded once into the descriptor, unused bits zero, and the lane's events those of any element and of its operands
      let each (r : Nat → Word × Events) (f : Nat → Nat → FV × Events) (ev : Nat → Nat → Events) : Prop :=
        ∀ l, (∀ j, j < q.count → fld (r l).1.toNat (q.wid * j) q.wid = packed_ (f l j).1 % 2 ^ q.wid)
          ∧ (q.wid = 6 → fld (r l).1.toNat 30 2 = 0)
          ∧ ∀ e, e < 8 → ((r l).2.getLsbD e = true ↔
              ∃ j, j < q.count ∧ ((q.pack c.mods.rnd c.mods.sat (f l j).1).2 ||| (f l j).2 ||| ev l j).getLsbD e = true)
      (ready (.vnadd d a b n) s c = true → ∃ r : Nat → Word × Events, exec (.vnadd d a b n) s = .next (s.laneResultCounted c d r)
        ∧ each r (fun l j => FV.add c.mods.rnd (elemOf (x l) j).1 (elemOf (y l) j).1) fun l j => (elemOf (x l) j).2 ||| (elemOf (y l) j).2)
      ∧ (ready (.vnmul d a b n) s c = true → ∃ r : Nat → Word × Events, exec (.vnmul d a b n) s = .next (s.laneResultCounted c d r)
        ∧ each r (fun l j => FV.mul (elemOf (x l) j).1 (elemOf (y l) j).1) fun l j => (elemOf (x l) j).2 ||| (elemOf (y l) j).2)
      ∧ (ready (.vnfma d a b n) s c = true → ∃ r : Nat → Word × Events, exec (.vnfma d a b n) s = .next (s.laneResultCounted c d r)
        ∧ each r (fun l j => FV.fma c.mods.rnd (elemOf (x l) j).1 (elemOf (y l) j).1 (elemOf (z l) j).1)
            fun l j => (elemOf (x l) j).2 ||| (elemOf (y l) j).2 ||| (elemOf (z l) j).2)
      ∧ (q.count ≤ k.toNat → (checked (.vncvtF32 d a k n) s c = true → exec (.vncvtF32 d a k n) s = .next unlawful)
        ∧ (checked (.vncvtNf d a k n) s c = true → exec (.vncvtNf d a k n) s = .next unlawful))
      ∧ (ready (.vncvtF32 d a k n) s c = true → exec (.vncvtF32 d a k n) s = .next (s.laneResultCounted c d fun l =>
            rounded32 .rne c.mods.ftz (q.value (fld (x l).toNat (q.wid * k.toNat) q.wid))))
      ∧ (ready (.vncvtNf d a k n) s c = true →
          ∃ r : Nat → Word, exec (.vncvtNf d a k n) s = .next (s.laneResultCounted c d fun l =>
              (r l, (q.pack c.mods.rnd c.mods.sat (fin32 c.mods.ftz (x l))).2))
            ∧ ∀ l, fld (r l).toNat (q.wid * k.toNat) q.wid = packed_ (fin32 c.mods.ftz (x l)) % 2 ^ q.wid
              ∧ (q.wid = 6 → fld (r l).toNat 30 2 = 0)
              ∧ ∀ j, j < q.count → j ≠ k.toNat → fld (r l).toNat (q.wid * j) q.wid = fld (z l).toNat (q.wid * j) q.wid)))

/-! Predicates, cross-lane instructions, frames. -/

/-- From R117: VCMP_I32, VCMP_N32 and VFCMP write the compare of each active lane into the predicate, under cmb, and keep the bits
of inactive lanes. From R106, R117: how floating compares and VFMIN and VFMAX order FP32 values: a NaN makes every condition
false but ne and unord and is passed over by a minimum; −0 equals +0 in a compare and lies below it in a minimum; finite values
are ordered as numbers. -/
def Obligations.ComparesAndFloatOrder : Prop :=
  (∀ (s : State) (c : Ctx) (k : BitVec 3) (q : CmpCond) (a b : BitVec 7) (m : CmpMode),
    let x (l : Nat) := s.readV c.pid a.toNat l
    let y (l : Nat) := s.readV c.pid b.toNat l
    let old := s.readK c.pid k.toNat
    let written (r : Nat → Bool) (new : Lanes) : Prop :=
      ∀ l, l < 96 → new.getLsbD l = if c.p.mask.getLsbD l then
        (match m with | .write => r l | .and => old.getLsbD l && r l | .or => old.getLsbD l || r l) else old.getLsbD l
    (ready (.vcmpI32 k q a b m) s c = true → ∃ new, written (fun l => condHolds q (x l) (y l)) new
      ∧ exec (.vcmpI32 k q a b m) s = .next ((s.writeK c.pid k.toNat new).retire c c.nextPc none))
    ∧ (ready (.vcmpN32 k q a b m) s c = true → ∃ new, written (fun l => condHolds q (x l) (y l)) new
      ∧ exec (.vcmpN32 k q a b m) s = .next ((s.writeK c.pid k.toNat new).retire c c.nextPc none))
    ∧ (ready (.vfcmp k q a b m) s c = true → ∃ new, written (fun l => floatCond q c.mods.ftz (x l) (y l)) new
      ∧ exec (.vfcmp k q a b m) s = .next ((s.writeK c.pid k.toNat new).retire c c.nextPc none)))
  ∧ ((∀ (q : CmpCond) (ftz : Bool) (x y : Word), fp32.value x.toNat = .nan ∨ fp32.value y.toNat = .nan →
    floatCond q ftz x y = (q == .ne || q == .unord))
  ∧ (∀ ftz, floatCond .eq ftz 0x80000000 0 = true ∧ floatCond .lt ftz 0x80000000 0 = false
      ∧ minmax32 false ftz 0 0x80000000 = 0x80000000 ∧ minmax32 true ftz 0x80000000 0 = 0)
  ∧ (∀ (mx ftz : Bool) (x y : Word), fp32.value x.toNat = .nan →
    minmax32 mx ftz x y = (if fp32.value y.toNat = .nan then nan32 else flush32 ftz y)
      ∧ minmax32 mx ftz y x = (if fp32.value y.toNat = .nan then nan32 else flush32 ftz y))
  ∧ (∀ x y : Word, (fp32.value x.toNat).isFin = true → (fp32.value y.toNat).isFin = true →
    (floatCond .lt false x y = true ↔ (fp32.value x.toNat).rat < (fp32.value y.toNat).rat)))

/-- From R118: the predicate instructions KAND, KOR, KXOR, KANDN, KNOT, KMOV, KPOP, KANY, KALL and the moves from and to scalars, on
all 96 bits of predicates or on the path's flags, without regard to exec. From R121, R122: moves between lanes read an active
source lane, and 0 in place of any other; the ballot forms give the predicate restricted to the active lanes, their number, and
the lowest active lane's value. -/
def Obligations.PredicatesLaneMovesAndBallots : Prop :=
  (∀ (s : State) (c : Ctx),
    (∀ i d a b f, ready i s c = true → predicateTwo i = some (d, a, b, false, f) →
      ∃ new : Lanes, (∀ l, l < 96 → new.getLsbD l = f ((s.readK c.pid a.toNat).getLsbD l) ((s.readK c.pid b.toNat).getLsbD l))
        ∧ exec i s = .next ((s.writeK c.pid d.toNat new).retire c c.nextPc none))
    ∧ (∀ i d a b f, ready i s c = true → predicateTwo i = some (d, a, b, true, f) →
      let v := f (c.p.flags.getLsbD a.toNat) (c.p.flags.getLsbD b.toNat)
      exec i s = .next ((s.onPath c.pid fun p => { p with flags := setFlag p.flags d v }).retire c c.nextPc none))
    ∧ (∀ (f : BitVec 8) (d g : BitVec 3) (v : Bool),
      (setFlag f d v).getLsbD g.toNat = if g = d then v else f.getLsbD g.toNat)
    ∧ (∀ (d : BitVec 3) (r : BitVec 7), ready (.kmovFromScalar d r) s c = true → exec (.kmovFromScalar d r) s = .next
      ((s.writeK c.pid d.toNat
        (s.readS c.pid c.p (r.toNat + 2) ++ (s.readS c.pid c.p (r.toNat + 1) ++ s.readS c.pid c.p r.toNat))).retire c c.nextPc none))
    ∧ (∀ (a : BitVec 3) (r : BitVec 7), ready (.kmovToScalar a r) s c = true → exec (.kmovToScalar a r) s = .next
      ((s.writeSs c.pid r.toNat [(s.readK c.pid a.toNat).extractLsb' 0 32, (s.readK c.pid a.toNat).extractLsb' 32 32,
        (s.readK c.pid a.toNat).extractLsb' 64 32]).retire c c.nextPc none))
    ∧ (∀ (a : BitVec 3) (r : BitVec 7), ready (.kpop a r) s c = true → exec (.kpop a r) s = .next
      ((s.writeS c.pid r.toNat (BitVec.ofNat 32 ((List.range 96).filter (s.readK c.pid a.toNat).getLsbD).length)).retire c
        c.nextPc none))
    ∧ (∀ d a : BitVec 3, ready (.kany d a) s c = true → exec (.kany d a) s = .next
      ((s.onPath c.pid fun p => { p with flags := setFlag p.flags d (s.readK c.pid a.toNat != 0) }).retire c c.nextPc none))
    ∧ (∀ d a : BitVec 3, ready (.kall d a) s c = true → exec (.kall d a) s = .next
      ((s.onPath c.pid fun p =>
        { p with flags := setFlag p.flags d (s.readK c.pid a.toNat == BitVec.allOnes 96) }).retire c c.nextPc none)))
  ∧ (∀ (s : State) (c : Ctx) (d a b : BitVec 7) (k : BitVec 3),
    let x (l : Nat) : Word := if l < 96 ∧ c.p.mask.getLsbD l = true then s.readV c.pid a.toNat l else 0
    let live := s.readK c.pid k.toNat &&& c.p.mask
    (ready (.vshfl d a b) s c = true →
      exec (.vshfl d a b) s = .next (s.laneResult c d fun l => x (s.readV c.pid b.toNat l).toNat))
    ∧ (ready (.vbfly d a b) s c = true → exec (.vbfly d a b) s = .next (s.laneResult c d fun l => x (l ^^^ b.toNat)))
    ∧ (ready (.vbcast d a b) s c = true → exec (.vbcast d a b) s = .next (s.laneResult c d fun _ => x b.toNat))
    ∧ (ready (.vrfl d a) s c = true → exec (.vrfl d a) s = .next ((s.writeS c.pid d.toNat
        (match (lanesOf c.p.mask).head? with | some l => s.readV c.pid a.toNat l | none => 0)).retire c c.nextPc none))
    ∧ (ready (.vballot d k) s c = true → exec (.vballot d k) s = .next ((s.writeSs c.pid d.toNat
        [live.extractLsb' 0 32, live.extractLsb' 32 32, live.extractLsb' 64 32]).retire c c.nextPc none))
    ∧ (ready (.vcount d k) s c = true → exec (.vcount d k) s = .next ((s.writeS c.pid d.toNat
        (BitVec.ofNat 32 ((List.range 96).filter live.getLsbD).length)).retire c c.nextPc none)))

/-- From R54, R123 to R125: VRED, VREDMI and VSCAN complete with the reduction of the active lanes, whose FP32 values are read under
ftz and with canonical NaNs. vred: add.f32 rounds at each node of R123's tree, add.det gives R54's binned sum, an integer sum is
exact modulo 2^32, a bitwise one acts bit by bit, and min and max give the least or greatest value, of floats as R106 compares;
with exec = 0 the empty-set value results. vredmi: the minimum and the lowest lane that holds it. vscan: each active lane's
prefix reduced step by step in ascending lane order, or its binned sum, and the events of its last step. From R126, R127: VNBR,
VDDX and VDDY read the partner that sr.nbr names where it is valid, and the predicate marks the active lanes whose partner is
not. -/
def Obligations.ReductionsAndPixelQuads : Prop :=
  (∀ (s : State) (c : Ctx) (d a : BitVec 7),
    let ls := lanesOf c.p.mask
    let x (l : Nat) := s.readV c.pid a.toNat l
    -- a lane as a reduction reads it, the active lanes alone, one step, and a prefix taken step by step
    let value (t : ElemTy) (l : Nat) : Word :=
      if t = .f32 then (if fp32.value (x l).toNat = .nan then nan32 else flush32 c.mods.ftz (x l)) else x l
    let lane (t : ElemTy) (l : Nat) : Option Word := if c.p.mask.getLsbD l then some (value t l) else none
    let step (op : RedOp) (t : ElemTy) := redStep op t c.mods.rnd c.mods.ftz
    let running (op : RedOp) (t : ElemTy) (vs : List Word) : Word × Events := match vs with
      | [] => (redEmpty op t, 0)
      | v :: ws => ws.foldl (fun r w => step op t r.1 w) (v, 0)
    (∀ (op : RedOp) (t : ElemTy), ready (.vred d a op t) s c = true → ∃ r : Word × Events,
      exec (.vred d a op t) s = .next (((s.writeS c.pid d.toNat r.1).countLanes c [r.2]).retire c c.nextPc none)
      ∧ (c.p.mask = 0 → r = (redEmpty op t, 0))
      ∧ (op = .add → t = .f32 → r = (redJoin (step op t) (redJoin (step op t) (tsum (step op t) (lane t) 5 0) (tsum (step op t) (lane t) 5 32))
          (tsum (step op t) (lane t) 5 64)).getD (0, 0))
      ∧ (op = .addDet → r = binnedSum c.mods.ftz (ls.map (value t)))
      ∧ ((op = .min ∨ op = .max) → t = .f32 → c.p.mask ≠ 0 → (∃ l ∈ ls, r = (value t l, 0))
          ∧ ∀ l ∈ ls, minmax32 (op == .max) c.mods.ftz r.1 (value t l) = r.1)
      ∧ ((op = .min ∨ op = .max ∨ t ≠ .f32) → op ≠ .addDet → r.2 = 0)
      ∧ (op = .xor → t ≠ .f32 → ∀ j, j < 32 → r.1.getLsbD j = (ls.map fun l => (x l).getLsbD j).foldl (· != ·) false)
      ∧ (op = .min → t = .n32 → c.p.mask ≠ 0 → (∃ l ∈ ls, r.1 = x l) ∧ ∀ l ∈ ls, r.1.ule (x l) = true)
      ∧ (op = .max → t = .i32 → c.p.mask ≠ 0 → (∃ l ∈ ls, r.1 = x l) ∧ ∀ l ∈ ls, (x l).sle r.1 = true)
      ∧ (op = .add → t ≠ .f32 → r = (BitVec.ofNat 32 (ls.map fun l => (x l).toNat).sum, 0))
      ∧ (op = .and → t ≠ .f32 → ∀ j, j < 32 → r.1.getLsbD j = ls.all fun l => (x l).getLsbD j)
      ∧ (op = .or → t ≠ .f32 → ∀ j, j < 32 → r.1.getLsbD j = ls.any fun l => (x l).getLsbD j)
      ∧ (op = .min → t = .i32 → c.p.mask ≠ 0 → (∃ l ∈ ls, r.1 = x l) ∧ ∀ l ∈ ls, r.1.sle (x l) = true)
      ∧ (op = .max → t = .n32 → c.p.mask ≠ 0 → (∃ l ∈ ls, r.1 = x l) ∧ ∀ l ∈ ls, (x l).ule r.1 = true))
    ∧ (∀ t : ElemTy, ready (.vredmi d a t) s c = true → ∃ (v : Word) (n : Nat),
      exec (.vredmi d a t) s = .next ((s.writeSs c.pid d.toNat [v, BitVec.ofNat 32 n]).retire c c.nextPc none)
      ∧ (c.p.mask = 0 → n = 0x7F ∧ v = redEmpty .min t)
      ∧ (c.p.mask ≠ 0 → t = .i32 → n ∈ ls ∧ v = x n ∧ ∀ l ∈ ls, v.slt (x l) = true ∨ (v = x l ∧ n ≤ l))
      ∧ (c.p.mask ≠ 0 → t = .f32 → n ∈ ls ∧ v = value t n ∧ ∀ l ∈ ls,
        (fp32.value v.toNat = .nan → fp32.value (x l).toNat = .nan ∧ n ≤ l)
          ∧ (fp32.value v.toNat ≠ .nan → fp32.value (x l).toNat = .nan ∨ orderKey v < orderKey (value t l) ∨ (v = value t l ∧ n ≤ l)))
      ∧ (c.p.mask ≠ 0 → t = .n32 → n ∈ ls ∧ v = x n ∧ ∀ l ∈ ls, v.ult (x l) = true ∨ (v = x l ∧ n ≤ l)))
    ∧ (∀ (op : RedOp) (t : ElemTy) (ex : Bool), ready (.vscan d a op t ex) s c = true → ∃ r : Nat → Word × Events,
      exec (.vscan d a op t ex) s = .next (s.laneResultCounted c d r)
      ∧ (∀ l ∈ ls,
        let upto := ((ls.filter fun q => if ex then q < l else q ≤ l).map (value t))
        r l = if op = .addDet then binnedSum c.mods.ftz upto else running op t upto)
      ∧ (op = .add → t ≠ .f32 → ∀ l ∈ ls,
        r l = (BitVec.ofNat 32 ((ls.filter fun q => if ex then q < l else q ≤ l).map fun q => (x q).toNat).sum, 0))))
  ∧ (∀ (s : State) (c : Ctx) (d a : BitVec 7) (k : BitVec 3),
    let x (l : Nat) := s.readV c.pid a.toNat l
    let partner (lo l : Nat) : Option Nat :=
      let n := (s.nbrOf c.pid l).toNat
      if n / 2 ^ 31 % 2 = 1 ∧ n / 2 ^ lo % 128 < 96 ∧ c.p.mask.getLsbD (n / 2 ^ lo % 128) = true then some (n / 2 ^ lo % 128) else none
    let marked (lo : Nat) (u : State) : Prop := ∃ new : Lanes, u = s.writeK c.pid k.toNat new ∧
      ∀ l, l < 96 → new.getLsbD l = if c.p.mask.getLsbD l then (partner lo l).isNone else (s.readK c.pid k.toNat).getLsbD l
    let difference (lo odd : Nat) (l : Nat) : Word × Events := match partner lo l with
      | none => (0, 0)
      | some q =>
        let me := fin32 c.mods.ftz (x l)
        let other := fin32 c.mods.ftz (x q)
        rounded32 c.mods.rnd c.mods.ftz
          (if (s.nbrOf c.pid l).toNat / 2 ^ odd % 2 = 1 then FV.add c.mods.rnd me other.neg else FV.add c.mods.rnd other me.neg)
    (∀ sel : NbrSel, ready (.vnbr d a sel k) s c = true →
      let lo := match sel with | .x => 16 | .y => 8 | .diagonal => 0
      ∃ u, marked lo u ∧ exec (.vnbr d a sel k) s = .next (u.laneResult c d fun l => x ((partner lo l).getD l)))
    ∧ (ready (.vddx d a k) s c = true →
      ∃ u, marked 16 u ∧ exec (.vddx d a k) s = .next (u.laneResultCounted c d (difference 16 29)))
    ∧ (ready (.vddy d a k) s c = true →
      ∃ u, marked 8 u ∧ exec (.vddy d a k) s = .next (u.laneResultCounted c d (difference 8 30))))

/-- What an instruction that computes on registers leaves unchanged: all memory and every other part of the machine, every register
of another owner, and every register, predicate and flag that is not its destination; the path's mask, mode, trap registers and
loan stay too, its mask but where exec0 to exec2 are the destination (R13, R14, R97). It then retires in sequence, which on a
core that writes no trace changes none of these for a path that holds no token, when it releases no group at a meeting point and
leaves a helper path a lane (R77, R206, R208, R379). From R97: what a write of lanes changes: lane `l` of register `r` of the
path's wave reads the new value where the instruction wrote it, and every other lane, register and owner reads as before. -/
def Obligations.RegisterInstructionFrame : Prop :=
  (∀ (i : Instr) (s : State) (c : Ctx), computes i = true → ready i s c = true →
    let r := i.regs c.mods c.pfx.length
    let kept (q : Path) : Prop :=
      q.sys = c.p.sys ∧ q.epc = c.p.epc ∧ q.ecause = c.p.ecause ∧ q.eaux = c.p.eaux ∧ q.emask = c.p.emask ∧ q.loan = c.p.loan
        ∧ q.loanst = c.p.loanst ∧ q.token = c.p.token
        ∧ (∀ g : BitVec 3, flagDest i ≠ some g → q.flags.getLsbD g.toNat = c.p.flags.getLsbD g.toNat)
        ∧ ((∀ e, 93 ≤ e → e < 96 → inRanges r.sw e = false) → q.mask = c.p.mask)
    -- a path whose beginning the trace has been told
    let announced (q : Path) : Path := { q with traceNew := false }
    ∃ u : State, exec i s = .next (u.retire c c.nextPc none)
      ∧ SameOutside s u
      ∧ (∀ owner q, q < 128 → (owner ≠ c.owner ∨ inRanges r.sw q = false) →
          tgetD 0 u.run.sregs (skey owner q) = tgetD 0 s.run.sregs (skey owner q))
      ∧ (∀ owner q l, q < 128 → l < 96 → (owner ≠ c.owner ∨ inRanges r.vw q = false ∨ c.p.mask.getLsbD l = false) →
          tgetD 0 u.run.vregs (vkey owner q l) = tgetD 0 s.run.vregs (vkey owner q l))
      ∧ (∀ owner q, q < 8 → (owner ≠ c.owner ∨ (∀ k, predicateDest i = some k → k.toNat ≠ q)) →
          tgetD 0 u.run.kregs (kkey owner q) = tgetD 0 s.run.kregs (kkey owner q))
      ∧ (c.helper = false → ∀ pid, pid ≠ c.pid → u.path pid = s.path pid)
      ∧ (∃ q, u.path c.pid = some q ∧ q.pc = c.p.pc ∧ kept q)
      ∧ ((s.core (coreOf c.pid)).trEn = false → s.tokensOf c.owner = [] →
        (∀ q ∈ s.pathsOf (c.pid / 4), q.1 ≠ c.pid → q.2.st ≠ .parkedMeeting) →
        (∀ h, u.helper c.pid = some h → h.lanes &&& u.helperHolds c.pid ≠ 0) →
        let t := u.retire c c.nextPc none
        SameOutside s t ∧ t.run.sregs = u.run.sregs ∧ t.run.vregs = u.run.vregs ∧ t.run.kregs = u.run.kregs
          ∧ (∀ pid, pid ≠ c.pid → (t.path pid).map announced = (u.path pid).map announced) ∧ ∃ q, t.path c.pid = some q ∧ q.pc = c.nextPc ∧ kept q))
  ∧ (∀ (s : State) (pid d : Nat) (m : Lanes) (f : Nat → Word) (owner r l : Nat), d < 128 → r < 128 → l < 96 →
    tgetD 0 (s.putLanes pid d ((lanesOf m).map fun x => (x, f x))).run.vregs (vkey owner r l)
      = if owner = ownerOf pid ∧ r = d ∧ m.getLsbD l = true then f l else tgetD 0 s.run.vregs (vkey owner r l))

/-- What the retirement of a bundle does on a core that writes no trace, for a path that holds no token, when it releases no group at a
meeting point and leaves a helper path a lane (R77, R208): the path's PC is the next
one, its hint words are consumed, it may issue again unless it sleeps, and a user-mode path that single-steps is due trap 0x0F
(R24, R358, R370); no register, predicate or byte of memory changes. -/
def Obligations.Retirement : Prop :=
  ∀ (s : State) (c : Ctx) (pc : Nat) (flow : Option Nat) (p : Path), s.path c.pid = some p → (s.core (coreOf c.pid)).trEn = false →
    s.tokensOf c.owner = [] → (∀ q ∈ s.pathsOf (c.pid / 4), q.1 ≠ c.pid → q.2.st ≠ .parkedMeeting) →
    (∀ h, s.helper c.pid = some h → h.lanes &&& s.helperHolds c.pid ≠ 0) →
    let announced (q : Path) : Path := { q with traceNew := false }
    let t := s.retire c pc flow
    SameOutside s t ∧ t.run.sregs = s.run.sregs ∧ t.run.vregs = s.run.vregs ∧ t.run.kregs = s.run.kregs ∧ t.irqs = s.irqs
    ∧ (∀ pid, pid ≠ c.pid → (t.path pid).map announced = (s.path pid).map announced)
    ∧ ∃ q, t.path c.pid = some q ∧ q.pc = pc ∧ q.hints = [] ∧ q.mask = p.mask ∧ q.flags = p.flags ∧ q.sys = p.sys ∧ q.wait = .none
      ∧ (q.st = .ready ↔ p.sleep = 0) ∧ q.issuedAt = (if c.counted then p.issuedAt else c.now s) ∧ q.readyAt = c.now s + 1
      ∧ q.lastFirst = c.first
      ∧ ((p.ss = true ∧ c.p.sys = false ∧ c.helper = false) → ⟨6, 0x0F, BitVec.ofNat 64 c.first, none, s.clk⟩ ∈ q.due)
      ∧ (¬ (p.ss = true ∧ c.p.sys = false ∧ c.helper = false) → q.due = p.due)

/-! Memory. -/

/-- From R26, R128, R130, R147, R340: the addresses of vector and scalar accesses; the checks that come before any lane takes effect, in their
order, each naming the first lane in ascending order that meets it; a page that is moving, which an access waits for before a later
lane's cause is raised; and .v accesses through the pin. -/
def Obligations.AccessChecks : Prop :=
  ∀ (s : State) (c : Ctx) (sp : Space) (acc : Access) (n : Nat) (vec : Bool),
    (c.pfx.length ≤ 2 → (∀ x ∈ c.pfx, x < 2 ^ 24) →
      (∀ a sa : BitVec 7, s.laneAddrs c a sa = (lanesOf c.p.mask).map fun l =>
        (l, (s.readS64 c.pid c.p sa.toNat + (s.readV c.pid a.toNat l).zeroExtend 64 + widenedImm c.pfx (0#0)).toNat))
      ∧ ∀ (sa size : Nat) (o : BitVec 7),
        s.scalarAddr c sa size o = (s.readS64 c.pid c.p sa + widenedImm c.pfx o * BitVec.ofNat 64 size).toNat)
    ∧ ∀ las : List (Nat × Nat),
      let name (l : Nat) : Option Nat := if vec then some l else none
      let arrives (x : Nat × Nat) : Reach := s.reachSpace c sp acc n x.2
      (∀ x xs, sp = .v → s.pinOf c.pid = none → las = x :: xs → s.checkAll c sp acc n vec las = .trap 0x13 x.2 (name x.1))
      ∧ (∀ p, sp = .v → s.pinOf c.pid = some p →
        s.checkAll c .v acc n vec las = s.checkAll c .g acc n vec (las.map fun x =>
          (x.1, if p.version.toNat % 2 = 1 then (BitVec.ofNat 64 x.2 + p.delta).toNat else x.2)))
      ∧ (∀ x, sp ≠ .v → las.find? (fun x => x.2 % n != 0) = some x → s.checkAll c sp acc n vec las = .trap 0x03 x.2 (name x.1))
      ∧ (∀ x, sp ≠ .v → (∀ y ∈ las, y.2 % n = 0) → las.find? (fun x => arrives x == .fault 4) = some x →
        s.checkAll c sp acc n vec las = if (las.takeWhile fun y => arrives y != .fault 4).any (fun y => arrives y == .wait) then .wait .translation
          else .trap 0x04 x.2 (name x.1))
      ∧ (sp ≠ .v → (∀ y ∈ las, y.2 % n = 0 ∧ arrives y ≠ .fault 4) → (∃ y ∈ las, arrives y = .wait) →
        s.checkAll c sp acc n vec las = .wait .translation)
      ∧ (∀ x, sp ≠ .v → (∀ y ∈ las, y.2 % n = 0 ∧ arrives y ≠ .fault 4 ∧ arrives y ≠ .wait) →
        las.find? (fun x => arrives x == .fault 5) = some x → s.checkAll c sp acc n vec las = .trap 0x05 x.2 (name x.1))
      ∧ (∀ f : Nat → Loc, sp ≠ .v → (∀ y ∈ las, y.2 % n = 0 ∧ arrives y = .at_ (f y.2) ∧ s.mustWait (f y.2) = false) →
        s.unseenStore c.pid (las.map fun x => (f x.2).span n).flatten = none →
        s.checkAll c sp acc n vec las = .ok (las.map fun x => ⟨x.1, x.2, f x.2⟩))

/-- From R80, R129, R133, R134, R158, R255: VLD without split, SLD, VST and SST whose lanes pass their checks issue one operation on
the checked places and go on; a store in an open region is held while the wave's escrow has room, and otherwise commits the
region first; a failed check traps with the address of the lane that failed, or kills a killable graphics wave; a place that is
not ready is waited for. From R80, R136, R298: a splitting load whose lanes do not all hit, in a wave with a free slot: the
lanes that hit go on with their data, and the others wait for theirs as a new path at the next instruction; and what a helper
lane's store puts in its escrow. -/
def Obligations.LoadsAndStoresIssueInEveryForm : Prop :=
  (∀ (s : State) (c : Ctx) (d a sa o : BitVec 7) (b : BitVec 6) (w : MemWidth) (sp : Space),
    let vas := s.laneAddrs c a sa
    let sas (l : Nat) : List (Nat × Nat) := [(l, s.scalarAddr c (2 * b.toNat) w.bytes o)]
    let rd : Access := ⟨c.p.sys, false, false⟩
    let wr : Access := ⟨c.p.sys, true, false⟩
    let load (dest : Dest) (accs : List LaneAcc) : Op :=
      (c.op .ld dest c.p.mask (.load w (accs.map fun x => (x.lane, x.loc)) (s.overlay c.pid w.bytes accs)) none).withVas accs
    let store (cells : List (Loc × Byte)) : State :=
      match c.p.region with
      | none => s.addAccess c (c.op .st .none c.p.mask (.store cells) none)
      | some r =>
        (((s.addOp { c.op .st .none c.p.mask (.store []) none with done := true }).prune).onPath c.pid fun p =>
          { p with region := some { r with stores := r.stores ++ [⟨s.nextOp, cells, none⟩] } })
    let room : Prop := ∀ r, c.p.region = some r → ∃ v, s.wave c.wid = some v ∧ s.regionStores c.wid < v.reservation
    let full : Prop := ∃ r v, c.p.region = some r ∧ s.wave c.wid = some v ∧ v.reservation ≤ s.regionStores c.wid
    let overflow (cells : List (Loc × Byte)) : State := match s.pendingLoad c.pid with
      | some pc => s.waitAt c.pid false (.counter pc)
      | none => ((s.commitRegion c.pid).addAccess c (c.op .st .none c.p.mask (.store cells) none)).retire c c.nextPc none
    let faulted (cause x : Nat) (lane : Option Nat) : State :=
      (s.takeTrap c.pid cause c.first (BitVec.ofNat 64 x) lane).unstep c.pid
    (∀ accs, ready (.vld d a sa w sp) s c = true → c.mods.split = false → accs ≠ [] →
      s.checkAll c sp rd w.bytes true vas = .ok accs → s.matchesOf c.core 0 w.bytes accs = [] →
      exec (.vld d a sa w sp) s = .next ((s.addAccess c (load (.vector d.toNat w.regs) accs)).retire c c.nextPc none))
    ∧ (∀ accs, ready (.sld d b o w sp) s c = true →
      s.checkAll c sp rd w.bytes false (sas ((lowestLane c.p.mask).getD 96)) = .ok accs → s.matchesOf c.core 0 w.bytes accs = [] →
      exec (.sld d b o w sp) s = .next ((s.addAccess c (load (.scalar d.toNat w.regs) accs)).retire c c.nextPc none))
    ∧ (∀ accs, ready (.vst d a sa w sp) s c = true → accs ≠ [] → c.helper = false → room →
      s.checkAll c sp wr w.bytes true vas = .ok accs → s.matchesOf c.core 1 w.bytes accs = [] →
      exec (.vst d a sa w sp) s = .next ((store (accs.map fun x =>
        storeCells w.bytes (s.readVs c.pid d.toNat x.lane w.regs) x).flatten).retire c c.nextPc none))
    ∧ (∀ accs, ready (.vst d a sa w sp) s c = true → accs ≠ [] → c.helper = false → full →
      s.checkAll c sp wr w.bytes true vas = .ok accs → s.matchesOf c.core 1 w.bytes accs = [] →
      exec (.vst d a sa w sp) s = .next (overflow (accs.map fun x => storeCells w.bytes (s.readVs c.pid d.toNat x.lane w.regs) x).flatten))
    ∧ (∀ accs, ready (.sst d b o w sp) s c = true → c.helper = false → full →
      s.checkAll c sp wr w.bytes false (sas 96) = .ok accs → s.matchesOf c.core 1 w.bytes accs = [] →
      exec (.sst d b o w sp) s = .next (overflow (accs.map fun x => storeCells w.bytes (s.readSs c.pid c.p d.toNat w.regs) x).flatten))
    ∧ (∀ accs, ready (.sst d b o w sp) s c = true → c.helper = false → room →
      s.checkAll c sp wr w.bytes false (sas 96) = .ok accs → s.matchesOf c.core 1 w.bytes accs = [] →
      exec (.sst d b o w sp) s = .next ((store (accs.map fun x =>
        storeCells w.bytes (s.readSs c.pid c.p d.toNat w.regs) x).flatten).retire c c.nextPc none))
    ∧ (c.p.mask = 0 → (ready (.vld d a sa w sp) s c = true → exec (.vld d a sa w sp) s = .next (s.retire c c.nextPc none))
      ∧ (ready (.vst d a sa w sp) s c = true → exec (.vst d a sa w sp) s = .next (s.retire c c.nextPc none)))
    ∧ (∀ cause x lane, (cause ≠ 4 ∨ sp = .s ∨ sp = .c ∨ c.helper = true ∨ s.faultKills (c.pid / 4) x = false) →
      (ready (.vld d a sa w sp) s c = true → s.checkAll c sp rd w.bytes true vas = .trap cause x lane →
        exec (.vld d a sa w sp) s = .next (faulted cause x lane))
      ∧ (ready (.sld d b o w sp) s c = true → s.checkAll c sp rd w.bytes false (sas ((lowestLane c.p.mask).getD 96)) = .trap cause x lane →
        exec (.sld d b o w sp) s = .next (faulted cause x lane)))
    ∧ (∀ cause x lane,
      (ready (.vst d a sa w sp) s c = true → s.checkAll c sp wr w.bytes true vas = .trap cause x lane →
        exec (.vst d a sa w sp) s = .next (faulted cause x lane))
      ∧ (ready (.sst d b o w sp) s c = true → c.helper = false → s.checkAll c sp wr w.bytes false (sas 96) = .trap cause x lane →
        exec (.sst d b o w sp) s = .next (faulted cause x lane)))
    ∧ (∀ x lane, (sp = .g ∨ sp = .v) → c.helper = false → s.faultKills (c.pid / 4) x = true →
      (ready (.vld d a sa w sp) s c = true → s.checkAll c sp rd w.bytes true vas = .trap 4 x lane →
        exec (.vld d a sa w sp) s = .next ((s.faultKill (c.pid / 4) x).unstep c.pid))
      ∧ (ready (.sld d b o w sp) s c = true → s.checkAll c sp rd w.bytes false (sas ((lowestLane c.p.mask).getD 96)) = .trap 4 x lane →
        exec (.sld d b o w sp) s = .next ((s.faultKill (c.pid / 4) x).unstep c.pid)))
    ∧ (∀ k, (ready (.vld d a sa w sp) s c = true → s.checkAll c sp rd w.bytes true vas = .wait k →
        exec (.vld d a sa w sp) s = .next (s.waitAt c.pid false k))
      ∧ (ready (.sld d b o w sp) s c = true → s.checkAll c sp rd w.bytes false (sas ((lowestLane c.p.mask).getD 96)) = .wait k →
        exec (.sld d b o w sp) s = .next (s.waitAt c.pid false k))
      ∧ (ready (.vst d a sa w sp) s c = true → s.checkAll c sp wr w.bytes true vas = .wait k →
        exec (.vst d a sa w sp) s = .next (s.waitAt c.pid false k))
      ∧ (ready (.sst d b o w sp) s c = true → c.helper = false → s.checkAll c sp wr w.bytes false (sas 96) = .wait k →
        exec (.sst d b o w sp) s = .next (s.waitAt c.pid false k)))
    ∧ (∀ (n v : Nat) (x : LaneAcc), storeCells n v x = (List.range n).map fun i => (x.loc.plus i, BitVec.ofNat 8 (v / 256 ^ i)))
    ∧ (∀ r l k i, i < k → s.readVs c.pid r l k / 2 ^ (32 * i) % 2 ^ 32 = (s.readV c.pid (r + i) l).toNat
      ∧ s.readSs c.pid c.p r k / 2 ^ (32 * i) % 2 ^ 32 = (s.readS c.pid c.p (r + i)).toNat))
  ∧ (∀ (s : State) (c : Ctx) (d a sa : BitVec 7) (w : MemWidth) (sp : Space) (accs : List LaneAcc),
    (∀ q, ready (.vld d a sa w sp) s c = true → c.mods.split = true → c.helper = false → c.mods.cpol ≠ 3 → (sp = .g ∨ sp = .v) →
      (s.freeSlots (c.pid / 4)).head? = some q → (s.core (coreOf c.pid)).trEn = false → s.path c.pid = some c.p →
      s.checkAll c sp ⟨c.p.sys, false, false⟩ w.bytes true (s.laneAddrs c a sa) = .ok accs → s.matchesOf c.core 0 w.bytes accs = [] →
      (∃ x ∈ accs, s.hitsL1 c w.bytes x = true) → (∃ x ∈ accs, s.hitsL1 c w.bytes x = false) →
      let hit := accs.filter (s.hitsL1 c w.bytes)
      let miss := accs.filter fun x => !s.hitsL1 c w.bytes x
      ∃ (u : State) (p r : Path) (op : Op), exec (.vld d a sa w sp) s = .next (u.retire c c.nextPc none)
        ∧ u.path c.pid = some p ∧ p = { c.p with mask := maskOf (hit.map (·.lane)) }
        ∧ u.path q = some r ∧ r.pc = c.nextPc ∧ r.mask = maskOf (miss.map (·.lane)) ∧ r.token = c.p.token ∧ r.flags = c.p.flags
        ∧ r.st = .waiting ∧ r.wait = .data s.nextOp ∧ r.loan = none
        ∧ u.ops = s.ops ++ [op] ∧ op.id = s.nextOp ∧ op.owner = c.owner ∧ op.pid = q ∧ op.dest = .vector d.toNat w.regs
        ∧ u.mem = s.mem)
    ∧ (∀ (pid lane : Nat) (h : Helper) (e : Held), s.helper pid = some h →
      ((tgetD [] h.held lane).length < 8 →
        ∃ h', (s.holdEntry pid lane e).helper pid = some h' ∧ tgetD [] h'.held lane = tgetD [] h.held lane ++ [e]
          ∧ h'.lanes = h.lanes ∧ h'.iters = h.iters)
      ∧ (8 ≤ (tgetD [] h.held lane).length → s.holdEntry pid lane e = (s.markLoan h.recruiter 0x200).releaseLane pid lane 0))
    ∧ (ready (.vst d a sa w sp) s c = true → c.helper = true → accs ≠ [] →
      s.checkAll c sp ⟨c.p.sys, true, false⟩ w.bytes true (s.laneAddrs c a sa) = .ok accs → s.matchesOf c.core 1 w.bytes accs = [] →
      let u := ((accs.foldl (fun t x => ({ t with nextOp := t.nextOp + 1 } : State).holdEntry c.pid x.lane
        (.store t.nextOp (storeCells w.bytes (s.readVs c.pid d.toNat x.lane w.regs) x) none)) s)).reapHelper c.pid
      exec (.vst d a sa w sp) s = .next (if (u.helper c.pid).isNone then u.unstep c.pid else u.retire c c.nextPc none)))

/-- From R138: every atomic, of the twelve operations in vector and in scalar form, whose lanes pass their checks issues one operation with its
operands; and what each operation leaves in memory of the old value and the operand. -/
def Obligations.Atomics : Prop :=
  (∀ (i : Instr) (s : State) (c : Ctx) (vec : Bool) (op : AtomOp) (d a b : BitVec 7) (p : Bool) (accs : List LaneAcc),
    ready i s c = true → atomicForm i = some (vec, op, d, a, b, p) →
    let u := s.entered i c
    let n := if op = .add64 then 8 else 4
    let operands := if op = .add64 ∨ op = .cas then 2 else 1
    let results := if op = .add64 then 2 else 1
    let las := if vec then u.laneAddrs c a b else [(96, u.scalarAddr c (a.toNat / 2 * 2) n b)]
    u.checkAll c (if p then .c else .g) ⟨c.p.sys, true, false⟩ n vec las = .ok accs →
    u.matchesOf c.core 2 n accs = [] → accs ≠ [] →
    exec i s = .next ((u.addAccess c ((c.op .ld (if vec then .vector d.toNat results else .scalar d.toNat results) c.p.mask
      (.atomic op (accs.map fun x => (x.lane, x.loc, BitVec.ofNat 64
        (if vec then u.readVs c.pid d.toNat x.lane operands else u.readSs c.pid c.p d.toNat operands)))) none).withVas accs)).retire c
          c.nextPc none))
  ∧ (∀ x y z : Word,
    let m := x.toNat
    let v := y.toNat
    AtomOp.add32.apply m v = (x + y).toNat ∧ AtomOp.and.apply m v = (x &&& y).toNat ∧ AtomOp.or.apply m v = (x ||| y).toNat
    ∧ AtomOp.xor.apply m v = (x ^^^ y).toNat ∧ AtomOp.swap.apply m v = v
    ∧ AtomOp.minI.apply m v = (if x.sle y then m else v) ∧ AtomOp.maxI.apply m v = (if y.sle x then m else v)
    ∧ AtomOp.minN.apply m v = min m v ∧ AtomOp.maxN.apply m v = max m v
    ∧ AtomOp.cas.apply m (v + 2 ^ 32 * z.toNat) = (if x = y then z.toNat else m)
    ∧ AtomOp.addF32.apply m v = (rounded32 .rne false (FV.add .rne (fp32.value m) (fp32.value v))).1.toNat)
  ∧ (∀ x y : DWord, AtomOp.add64.apply x.toNat y.toNat = (x + y).toNat)
  ∧ (∀ (s : State) (a : AtomOp) (l : Nat) (loc : Loc) (x : DWord) (rest : List (Nat × Loc × DWord)),
    let n := if a = .add64 then 8 else 4
    (loc.span n).any s.locBad = false →
    let old := s.readNum loc n
    let r := (s.writeNum loc n (a.apply old x.toNat)).applyAtomic a rest
    s.applyAtomic a ((l, loc, x) :: rest) =
      (r.1, (l, BitVec.ofNat 32 old :: (if a = .add64 then [BitVec.ofNat 32 (old / 2 ^ 32)] else []), none) :: r.2))

/-- From R131, R138, R157, R175, R319, R356: a store or an atomic waits while something earlier in its path, or at its scratchpad
bank, holds it back, and then is performed: memory and scratchpads take its bytes and keep all others; the atomic's values wait
to be returned; hscat's adds are made in their order. No store reaches a compressed page (R341). From R139, R140, R149, R320:
FENCE waits for what it names, and at package scope, or where engine commands follow it, for its stores too, which at a narrower
scope it makes visible in that scope in place of waiting; FENCE_OWN marks the accesses before it and goes on; FENCE_FAR waits
for the stores of its scope and for what a fence.own there has marked (both in the form that log entry 10 gives them); XPUT
issues one operation, whose pieces hold at most 256 bytes each. -/
def Obligations.StoresAtomicsFencesAndPuts : Prop :=
  (∀ (s : State) (n : Nat) (o : Op), s.findOp n = some o → Memory.wf s.mem = true →
    (s.mayPerform o = false → (∀ cells, o.kind = .store cells → exec (.storePerformed n) s = .next s)
      ∧ (∀ a accs, o.kind = .atomic a accs → exec (.atomicPerform n) s = .next s)
      ∧ (∀ adds, o.kind = .scatter adds → exec (.hscatAddsPerformed n) s = .next s))
    ∧ (s.mayPerform o = true → (∀ l ∈ o.kind.touches, ∀ f k, l ≠ .comp f k) →
    (∀ cells, o.kind = .store cells → ∃ t, exec (.storePerformed n) s = .next t ∧ Stored s t cells o.kind.touches ∧ t.findOp n = none
        ∧ t.run.sregs = s.run.sregs ∧ t.run.vregs = s.run.vregs ∧ t.run.paths = s.run.paths ∧ t.vault = s.vault)
    ∧ (∀ a accs, o.kind = .atomic a accs → ∃ t, exec (.atomicPerform n) s = .next t
        ∧ t.run.sregs = s.run.sregs ∧ t.run.vregs = s.run.vregs ∧ t.run.paths = s.run.paths
        ∧ (o.dropped = true → t.findOp n = none)
        ∧ (o.dropped = false → ∃ q, t.findOp n = some q ∧ q.kind = o.back (s.applyAtomic a accs).2 ∧ q.dest = o.dest ∧ q.owner = o.owner)
        ∧ (∀ rs : List (Nat × List Word × Option Loc), o.got = [] → (rs.map (·.1)).Pairwise (· < ·) →
          o.back rs = .values (rs.map fun x => (x.1, x.2.1))
            (rs.findSome? fun x => x.2.2.map fun l => (BitVec.ofNat 64 (o.vaOf l + 2 ^ 60), if x.1 < 96 then some x.1 else none)))
        ∧ (∀ l loc x, accs = [(l, loc, x)] → (loc.span a.bytes).any s.locBad = false →
            Stored s t ((loc.span a.bytes).zip (bytesOf a.bytes (a.apply (s.readNum loc a.bytes) x.toNat))) o.kind.touches))
    ∧ (∀ adds, o.kind = .scatter adds → ∃ t, exec (.hscatAddsPerformed n) s = .next t ∧ t.findOp n = none
        ∧ t.run.sregs = s.run.sregs ∧ t.run.vregs = s.run.vregs ∧ t.run.paths = s.run.paths
        ∧ (∀ loc w g, adds = [(loc, w, g)] → (loc.span 4).any s.locBad = false →
            Stored s t ((loc.span 4).zip (bytesOf 4 (rounded32 .rne false
              (FV.fma .rne (fin32 false w) (fin32 false g) (fp32.value (s.readNum loc 4)))).1.toNat)) o.kind.touches))))
  ∧ (∀ (s : State) (c : Ctx),
    let wide (k : Scope) (succ : BitVec 4) : Prop := k = .package ∨ k = .system ∨ succ.getLsbD 0 = true
    (∀ (p q : BitVec 4) (k : Scope), ready (.fence p q k) s c = true →
      let u := s.entered (.fence p q k) c
      let stores := p.getLsbD 2
      (wide k q →
        (∀ o, u.unperformed c.pid p.toNat = some o → exec (.fence p q k) s = .next (u.waitAt c.pid false (.counter o.pc))
          ∧ o ∈ u.ops ∧ o.done = false ∧ o.id ∈ u.priorOf c.pid ∧ o.kind.kinds &&& p.toNat ≠ 0)
        ∧ (u.unperformed c.pid p.toNat = none → stores = false → exec (.fence p q k) s = .next (u.retire c c.nextPc none))
        ∧ (u.unperformed c.pid p.toNat = none → stores = true → (∀ o ∈ u.ops, u.shownTo c.pid o = false) →
          exec (.fence p q k) s = .next (u.retire c c.nextPc none)))
      ∧ (¬ wide k q →
        (∀ pc, u.unfenced c.pid p.toNat = some pc → exec (.fence p q k) s = .next (u.waitAt c.pid false (.counter pc)))
        ∧ (u.unfenced c.pid p.toNat = none →
          exec (.fence p q k) s = .next ((if stores then u.showIn c.pid k else u).retire c c.nextPc none))))
    ∧ (∀ k : Scope, ready (.fenceOwn k) s c = true →
      let u := s.entered (.fenceOwn k) c
      let marked (o : Op) : Op := if o.id ∈ u.priorOf c.pid ∧ o.kind.kinds &&& 14 ≠ 0 then { o with own := true } else o
      exec (.fenceOwn k) s = .next (({ u with ops := u.ops.map marked } : State).retire c c.nextPc none))
    ∧ (∀ k : Scope, ready (.fenceFar k) s c = true →
      let u := s.entered (.fenceFar k) c
      (∀ o ∈ u.ops, o.done = false → (o.own = true ∨ o.kind.kinds = 4) → inScope k c.core (coreOf o.pid) = false) →
      (wide k 14 → u.unperformed c.pid 14 = none → (∀ o ∈ u.ops, u.shownTo c.pid o = false) →
        exec (.fenceFar k) s = .next (u.retire c c.nextPc none))
      ∧ (¬ wide k 14 → u.unfenced c.pid 14 = none → exec (.fenceFar k) s = .next ((u.showIn c.pid k).retire c c.nextPc none)))
    ∧ (∀ k : Scope, ready (.fenceFar k) s c = true →
      let u := s.entered (.fenceFar k) c
      (∃ o ∈ u.ops, o.done = false ∧ (o.own = true ∨ o.kind.kinds = 4) ∧ inScope k c.core (coreOf o.pid) = true) →
      ∃ pc, exec (.fenceFar k) s = .next (u.waitAt c.pid false (.counter pc)))
    ∧ (∀ (o : Op), (∀ cs, o.kind = .store cs → o.kind.kinds = 4) ∧ (∀ a xs, o.kind = .atomic a xs → o.kind.kinds = 2)
      ∧ (∀ w xs h, o.kind = .load w xs h → o.kind.kinds = 8) ∧ (∀ t ps, o.kind = .copyFill t ps → o.kind.kinds = 1))
    ∧ (∀ (d a sa : BitVec 7) (w : MemWidth) (k : BitVec 2) (accs : List LaneAcc), ready (.xput d a sa w k) s c = true →
      let u := s.entered (.xput d a sa w k) c
      u.checkAll c .g ⟨c.p.sys, true, true⟩ w.bytes true (u.laneAddrs c a sa) = .ok accs → u.matchesOf c.core 1 w.bytes accs = [] →
      accs ≠ [] →
      ∃ (v : State) (op : Op) (pieces : List (Loc × List Byte)), exec (.xput d a sa w k) s = .next (v.retire c c.nextPc none)
        ∧ v.ops = u.ops ++ [op] ∧ op.cls = .cp ∧ op.owner = c.owner ∧ op.done = false ∧ op.kind = .put pieces (List.range pieces.length)
        ∧ v.mem = u.mem ∧ v.run = { u.run with paths := v.run.paths }
        ∧ (∀ x ∈ pieces, x.2 ≠ [] ∧ x.2.length ≤ 256)
        ∧ (∀ x, accs = [x] → w.bytes ≤ 256 - x.addr % 256 →
          pieces = [(x.loc, bytesOf w.bytes (u.readVs c.pid d.toNat x.lane w.regs))])))

/-- From R80, R129, R135, R138, R157, R304, R305: a load that may return gives each of its lanes, vector registers or scalar
registers, the bytes at its place as its width says, those of the path's own held stores laid over them, and an atomic's values
and a load's taken at a scratchpad's bank come as they were kept; no other register and no memory changes; an uncorrectable word
makes trap 0x11 due, with bit 60 of sr.eaux set (log entry 47) and the lane named. From R155, R157, R172, R181: vacc.wr's words
reach the vault; hdesc's levels become its block's hash context, in the order of issue; an intersection result is written for
every active lane, in the order of the wave's queries. -/
def Obligations.LoadsAndTileLoadsReturn : Prop :=
  ((∀ (s : State) (n : Nat) (o : Op), s.findOp n = some o → o.dropped = false → s.mayPerform o = true →
    Memory.wf s.mem = true → (s.core (coreOf o.pid)).trEn = false →
    (∀ p, s.path o.pid = some p → p.wait = .data n → s.tokensOf (ownerOf o.pid) = []) →
    (∀ w accs held, o.kind = .load w accs held → o.got = [] →
      -- the byte that a held store of the path gives a lane, and the words that a lane receives
      let own (x : Nat × Loc) (b : Loc) : Option Byte := (held.find? fun h => h.1 == x.1 && h.2.1 == b).map (·.2.2)
      let words (x : Nat × Loc) : List Word :=
        loadedWords w (numOf ((x.2.span w.bytes).map fun b => match own x b with | some v => v | none => (s.readLoc b).getD 0))
      let sound (x : Nat × Loc) : Prop := ∀ b ∈ x.2.span w.bytes, own x b ≠ none ∨ (s.locBad b = false ∧ (s.readLoc b).isSome = true)
      let spoilt (x : Nat × Loc) : Prop := (∃ b ∈ x.2.span w.bytes, own x b = none ∧ s.locBad b = true)
        ∧ ∀ b ∈ x.2.span w.bytes, own x b = none → (s.readLoc b).isSome = true
      let trapped (x : Nat × Loc) (t : State) : Prop := ∀ p, s.path o.pid = some p → ∃ q, t.path o.pid = some q
        ∧ ⟨1, 0x11, BitVec.ofNat 64 (o.vaOf x.2 + 2 ^ 60), if x.1 < 96 then some x.1 else none, s.clk⟩ ∈ q.due
      (∀ f k, o.dest = .vector f k → (accs.map (·.1)).Nodup → (∀ x ∈ accs, x.1 < 96) → f + w.regs ≤ 128 →
        ∃ t, exec (.loadDataReturn n ⟨[], []⟩) s = .next t ∧ SameBytes s t o.kind.touches ∧ t.findOp n = none
          ∧ t.run.sregs = s.run.sregs ∧ t.run.kregs = s.run.kregs
          ∧ (∀ x ∈ accs, sound x → ∀ i, i < w.regs → tgetD 0 t.run.vregs (vkey o.owner (f + i) x.1) = (words x).getD i 0)
          ∧ (∀ owner r l, r < 128 → l < 96 → (owner ≠ o.owner ∨ r < f ∨ f + w.regs ≤ r ∨ l ∉ accs.map (·.1)) →
              tgetD 0 t.run.vregs (vkey owner r l) = tgetD 0 s.run.vregs (vkey owner r l))
          ∧ (∀ x ∈ accs, spoilt x → ∀ i, i < w.regs → tgetD 0 t.run.vregs (vkey o.owner (f + i) x.1) = 0)
          ∧ (∀ x, accs = [x] → spoilt x → trapped x t)
          ∧ (∀ p, s.path o.pid = some p → p.wait = .data n → ∃ q, t.path o.pid = some q ∧ q.st = .ready ∧ q.wait = .none ∧ q.pc = p.pc))
      ∧ (∀ f k x, o.dest = .scalar f k → accs = [x] → f + w.regs ≤ 93 →
        ∃ t, exec (.loadDataReturn n ⟨[], []⟩) s = .next t ∧ SameBytes s t o.kind.touches ∧ t.findOp n = none
          ∧ t.run.vregs = s.run.vregs ∧ t.run.kregs = s.run.kregs
          ∧ (sound x → ∀ i, i < w.regs → f + i ≠ 0 → tgetD 0 t.run.sregs (skey (ownerOf o.pid) (f + i)) = (words x).getD i 0)
          ∧ (∀ owner r, r < 128 → (owner ≠ ownerOf o.pid ∨ r < f ∨ f + w.regs ≤ r) →
              tgetD 0 t.run.sregs (skey owner r) = tgetD 0 s.run.sregs (skey owner r))
          ∧ (spoilt x → trapped x t ∧ ∀ i, i < w.regs → f + i ≠ 0 → tgetD 0 t.run.sregs (skey (ownerOf o.pid) (f + i)) = 0)))
    ∧ (∀ vals bad, o.kind = .values vals bad →
      let trapped (t : State) : Prop := ∀ aux lane p, bad = some (aux, lane) → s.path o.pid = some p →
        ∃ q, t.path o.pid = some q ∧ ⟨1, 0x11, aux, lane, s.clk⟩ ∈ q.due
      (o.dest = .none → ∃ t, exec (.loadDataReturn n ⟨[], []⟩) s = .next t ∧ t.mem = s.mem ∧ t.findOp n = none ∧ trapped t)
      ∧ (∀ f k, o.dest = .vector f k → (vals.map (·.1)).Nodup → (∀ x ∈ vals, x.1 < 96 ∧ f + x.2.length ≤ 128) →
        ∃ t, exec (.loadDataReturn n ⟨[], []⟩) s = .next t ∧ t.mem = s.mem ∧ t.findOp n = none ∧ t.run.sregs = s.run.sregs ∧ trapped t
          ∧ ∀ x ∈ vals, ∀ i, i < x.2.length → tgetD 0 t.run.vregs (vkey o.owner (f + i) x.1) = x.2.getD i 0)
      ∧ (∀ f k l ws, o.dest = .scalar f k → vals = [(l, ws)] → f + ws.length ≤ 93 →
        ∃ t, exec (.loadDataReturn n ⟨[], []⟩) s = .next t ∧ t.mem = s.mem ∧ t.findOp n = none ∧ t.run.vregs = s.run.vregs ∧ trapped t
          ∧ (∀ i, i < ws.length → f + i ≠ 0 → tgetD 0 t.run.sregs (skey (ownerOf o.pid) (f + i)) = ws.getD i 0)
          ∧ ∀ owner r, r < 128 → (owner ≠ ownerOf o.pid ∨ r < f ∨ f + ws.length ≤ r) →
              tgetD 0 t.run.sregs (skey owner r) = tgetD 0 s.run.sregs (skey owner r))))
  ∧ (∀ v : Nat,
    loadedWords .n8 v = [BitVec.ofNat 32 v] ∧ loadedWords .n16 v = [BitVec.ofNat 32 v] ∧ loadedWords .b32 v = [BitVec.ofNat 32 v]
    ∧ (v < 2 ^ 8 → loadedWords .i8 v = [(BitVec.ofNat 8 v).signExtend 32])
    ∧ (v < 2 ^ 16 → loadedWords .i16 v = [(BitVec.ofNat 16 v).signExtend 32])
    ∧ (∀ i, i < 2 → (loadedWords .b64 v)[i]? = some (BitVec.ofNat 32 (v / 2 ^ (32 * i))))
    ∧ (∀ i, i < 4 → (loadedWords .b128 v)[i]? = some (BitVec.ofNat 32 (v / 2 ^ (32 * i))))))
  ∧ (∀ (s : State) (n : Nat) (o : Op), s.findOp n = some o →
    (∀ ws, o.kind = .vaultWrite ws → s.mayPerform o = true →
      (∀ w ∈ ws, s.vaultTested (w.1 / 384 / 1024) (w.1 / 384 % 1024) = false) → ∃ t, exec (.vaccWrPerformed n) s = .next t ∧ t.vault = tsets s.vault ws ∧ t.mem = s.mem
      ∧ t.run = { s.run with blocks := t.run.blocks } ∧ t.findOp n = none)
    ∧ (∀ ls b, o.kind = .hashDesc ls → s.block (s.opBlock o) = some b →
      (∀ q ∈ s.ops, q.done = true ∨ n ≤ q.id ∨ s.opBlock q ≠ s.opBlock o ∨ ∀ l, q.kind ≠ .hashDesc l) →
      ∃ t, exec (.hdescLoaded n) s = .next t ∧ t.block (s.opBlock o) = some { b with hash := some ls } ∧ t.mem = s.mem
        ∧ t.findOp n = none)
    ∧ (∀ starts nx, o.kind = .query starts nx → Memory.wf s.mem = true →
      (∀ q ∈ s.ops, q.done = true ∨ n ≤ q.id ∨ q.owner ≠ o.owner ∨ ∀ a l, q.kind ≠ .query a l) →
      let r := s.answers o (lanesOf o.mask)
      let read := s.treeLocs o r.2
      (∀ q ∈ s.ops, q.done = true ∨ q.id ∉ o.after ∨ q.kind.changes = false ∨ ∀ l ∈ q.kind.touches, l ∉ read) →
      (∀ x ∈ r.1, x.2 = .none ∨ ∃ h, x.2 = .hit h) → ∀ f k, o.dest = .vector f k → f + 4 ≤ 128 →
      ∃ t, exec (.isectResult n) s = .next t ∧ SameBytes s t read ∧ t.findOp n = none ∧ r.1.map (·.1) = lanesOf o.mask
        ∧ ∀ x ∈ r.1, ∀ i, i < 4 → tgetD 0 t.run.vregs (vkey o.owner (f + i) x.1) =
          ((match x.2 with
            | .hit h => [h.t, BitVec.ofNat 32 h.index, h.u, h.v]
            | _ => [0x7F800000, 0xFFFFFFFF, 0, 0] : List Word)).getD i 0))

/-! Volumes, hash grids, queries, the vault, queues. -/

/-- From R154, R343, R344, R345: TEX3 and TEXP read a valid descriptor, check every texel and issue one operation; a misaligned or
invalid descriptor raises 0x13; how indices resolve, where texels lie, and the worked samples of R345. From R171 to R175: hdesc
of a valid descriptor issues its levels and of an invalid one raises 0x13 with its address; hgath and hscat use the context,
raise 0x13 without one, and issue one operation; the hash is R173's. -/
def Obligations.VolumesAndHashGrids : Prop :=
  ((∀ (s : State) (c : Ctx) (d a b : BitVec 7) (nearest : Bool),
    let i : Instr := if nearest then .texp d a b else .tex3 d a b
    let da := (s.readS64 c.pid c.p b.toNat).toNat
    let invalid : State := (s.takeFree.takeTrap c.pid 0x13 c.first s.openAux none).unstep c.pid
    ready i s c = true →
    (c.p.mask = 0 → exec i s = .next (s.retire c c.nextPc none))
    ∧ (c.p.mask ≠ 0 → da % 32 ≠ 0 → exec i s = .next invalid)
    ∧ (∀ bytes locs, c.p.mask ≠ 0 → da % 32 = 0 → s.readDesc c true da 32 = .ok bytes locs → volumeOf bytes = none → exec i s = .next invalid)
    ∧ (∀ bytes locs v accs, c.p.mask ≠ 0 → da % 32 = 0 → s.readDesc c true da 32 = .ok bytes locs → volumeOf bytes = some v →
      let sample (l : Nat) := v.sample nearest [s.readV c.pid a.toNat l, s.readV c.pid (a.toNat + 1) l, s.readV c.pid (a.toNat + 2) l]
      s.checkAll c .g ⟨c.p.sys, false, false⟩ 4 true
        ((lanesOf c.p.mask).map fun l => (sample l).2.filterMap fun t => t.map fun q => (l, q)).flatten = .ok accs →
      exec i s = .next (((s.dramTouch locs).addOp ((c.op .ld (.vector d.toNat 1) c.p.mask (.texel nearest ((lanesOf c.p.mask).map fun l =>
        (l, (sample l).1, (sample l).2.map fun t => t.bind (placeIn accs l), v.bord)))
        (c.watch s 0 (s.matchesOf c.core 0 4 accs))).withVas accs)).retire c c.nextPc none)))
  ∧ (∀ n i : Nat, 0 < n → n ≤ 32768 →
      (i < n → ∀ m, m < 3 → resolveIndex m n i = some i)
      ∧ (n ≤ i → i < 2 ^ 31 → resolveIndex 0 n i = some (n - 1) ∧ resolveIndex 1 n i = some (i % n) ∧ resolveIndex 2 n i = none)
      ∧ (0 < i → i ≤ 2 ^ 31 → resolveIndex 0 n (-(i : Int)) = some 0 ∧ resolveIndex 2 n (-(i : Int)) = none
          ∧ resolveIndex 1 n (-(i : Int)) = some ((n - i % n) % n)))
  ∧ (∀ (base nx ny nz x y z : Nat) (bord : Word), x < nx → y < ny → z < nz → nx ≤ 32768 → ny ≤ 32768 → nz ≤ 32768 →
      Volume.texel ⟨base, [nx, ny, nz], [0, 0, 0], bord⟩ x y z = some ((base + 2048 * (x / 8 + (nx + 7) / 8 * (y / 8 + (ny + 7) / 8 * (z / 8)))
        + 4 * (x % 8 + 8 * (y % 8) + 64 * (z % 8))) % 2 ^ 64))
  ∧ (let v (m : Nat) : Volume := ⟨0, [8, 8, 8], [m, 0, 0], 0⟩
     let at_ (m : Nat) (x : Word) : List Word := ((v m).sample false [x, 0x3F000000, 0x3F000000]).2.map fun t =>
       match t with
       | some q => (out32 .rne false (FV.ofInt (q / 4 % 8))).1
       | none => 0
     let result (m : Nat) (x : Word) : Word := texelResult false ((v m).sample false [x, 0x3F000000, 0x3F000000]).1 (at_ m x)
     result 0 0x40100000 = 0x3FE00000 ∧ result 0 0x41040000 = 0x40E00000 ∧ result 2 0x41040000 = 0x3FE00000
       ∧ result 1 0x41040000 = 0x3FE00000))
  ∧ ((∀ (s : State) (c : Ctx) (a b d : BitVec 7),
    (ready (.hdesc a) s c = true →
      let u := s.entered (.hdesc a) c
      let da := (u.readS64 c.pid c.p a.toNat).toNat
      let invalid : State := (u.takeTrap c.pid 0x13 c.first (BitVec.ofNat 64 da) none).unstep c.pid
      (da % 32 ≠ 0 → exec (.hdesc a) s = .next invalid)
      ∧ (∀ head hl, da % 32 = 0 → u.readDesc c false da 32 = .ok head hl →
        ((numOf (head.take 8) = 0 ∨ 16 < numOf (head.take 8) ∨ ∃ x ∈ head.drop 8, x ≠ 0) → exec (.hdesc a) s = .next invalid)
        ∧ (∀ body bl, 0 < numOf (head.take 8) → numOf (head.take 8) ≤ 16 → (∀ x ∈ head.drop 8, x = 0) →
          u.readDesc c false (da + 32) (32 * numOf (head.take 8)) = .ok body bl →
          (hashLevels (numOf (head.take 8)) body = none → exec (.hdesc a) s = .next invalid)
          ∧ ∀ ls, hashLevels (numOf (head.take 8)) body = some ls →
            exec (.hdesc a) s = .next (if ls.all (u.pinnedOk (clusterOf c.core)) = true
              then ((u.dramTouch (hl ++ bl)).addOp (c.op .tl .none c.p.mask (.hashDesc ls) none)).retire c c.nextPc none else invalid))))
    ∧ (ready (.hgath d a) s c = true → c.p.mask = 0 → exec (.hgath d a) s = .next (s.retire c c.nextPc none))
    ∧ (ready (.hgath d a) s c = true → c.p.mask ≠ 0 → s.hashContext c.pid = none →
      exec (.hgath d a) s = .next ((s.takeFree.takeTrap c.pid 0x13 c.first s.openAux none).unstep c.pid))
    ∧ (∀ ls, ready (.hgath d a) s c = true → c.p.mask ≠ 0 → s.hashContext c.pid = some ls →
      let r : Regs := ⟨[], [(d.toNat, totalFeatures ls / 2)], [], []⟩
      s.boundsBad c.pid c.wid r = false → (c.helper && helperWriteBad r) = false → s.registersPending c.owner r = none →
      (∀ l ∈ lanesOf c.p.mask, ∃ k, k < 3 ∧ isNan32 (s.readV c.pid (a.toNat + k) l) = true) →
      exec (.hgath d a) s = .next ((s.addOp (c.op .ld (.vector d.toNat (totalFeatures ls / 2)) c.p.mask
        (.gather (ls.map (·.four)) ((lanesOf c.p.mask).map fun l => (l, []))) none)).retire c c.nextPc none))
    ∧ (ready (.hscat a b) s c = true → c.p.mask = 0 → exec (.hscat a b) s = .next ((s.entered (.hscat a b) c).retire c c.nextPc none))
    ∧ (ready (.hscat a b) s c = true → c.p.mask ≠ 0 → (s.entered (.hscat a b) c).hashContext c.pid = none →
      exec (.hscat a b) s = .next (((s.entered (.hscat a b) c).takeFree.takeTrap c.pid 0x13 c.first (s.entered (.hscat a b) c).openAux none).unstep c.pid))
    ∧ (∀ ls, ready (.hscat a b) s c = true → c.p.mask ≠ 0 →
      let u := s.entered (.hscat a b) c
      u.hashContext c.pid = some ls →
      let r : Regs := ⟨[(b.toNat, totalFeatures ls)], [], [], []⟩
      u.boundsBad c.pid c.wid r = false → u.registersPending c.owner r = none →
      (∀ l ∈ lanesOf c.p.mask, ∃ k, k < 3 ∧ isNan32 (u.readV c.pid (a.toNat + k) l) = true) →
      exec (.hscat a b) s = .next ((u.addOp (c.op .st .none c.p.mask (.scatter []) none)).retire c c.nextPc none))
    ∧ (∀ (u : State) ls (shadow : Bool) (accs : List LaneAcc), c.p.mask ≠ 0 → u.hashContext c.pid = some ls →
      let r : Regs := if shadow then ⟨[(b.toNat, totalFeatures ls)], [], [], []⟩ else ⟨[], [(d.toNat, totalFeatures ls / 2)], [], []⟩
      u.boundsBad c.pid c.wid r = false → (c.helper && helperWriteBad r) = false → u.registersPending c.owner r = none →
      let coords (l : Nat) : List Word := [u.readV c.pid a.toNat l, u.readV c.pid (a.toNat + 1) l, u.readV c.pid (a.toNat + 2) l]
      let live := (lanesOf c.p.mask).filter fun l => !(coords l).any isNan32
      u.checkAll c .g ⟨c.p.sys, shadow, false⟩ 4 true (live.map fun x => (ls.map fun l =>
        if l.pinned then [] else (l.corners (coords x)).map fun z => (x, l.entryAt shadow z.2)).flatten).flatten = .ok accs →
      let place (x : Nat) (l : HashLevel) (e : Nat) : Loc :=
        if l.pinned then .sram (clusterOf c.core * 4 + l.entryAt shadow e / 1048576) (l.entryAt shadow e % 1048576)
        else (placeIn accs x (l.entryAt shadow e)).getD (.phys 0)
      (∀ x ∈ live, ∀ l ∈ ls, ∀ z ∈ l.corners (coords x), ∀ k, k < l.entryBytes shadow / 4 →
        ∀ y ∈ ((place x l z.2).plus (4 * k)).span 4, u.mustWait y = false ∧ u.unseenStore c.pid [y] = none) →
      (shadow = false → u = s → ready (.hgath d a) s c = true →
        ∃ op : Op, exec (.hgath d a) s = .next ((s.addOp op).retire c c.nextPc none) ∧ op.cls = .ld ∧ op.owner = c.owner
          ∧ op.mask = c.p.mask ∧ op.dest = .vector d.toNat (totalFeatures ls / 2)
          ∧ op.kind = .gather (ls.map (·.four)) ((lanesOf c.p.mask).map fun x => (x,
              if (coords x).any isNan32 then [] else ls.map fun l =>
                ((l.corners (coords x)).map (·.1), (l.corners (coords x)).map fun z => place x l z.2))))
      ∧ (shadow = true → u = s.entered (.hscat a b) c → ready (.hscat a b) s c = true →
        ∃ op : Op, exec (.hscat a b) s = .next ((u.addOp op).retire c c.nextPc none) ∧ op.cls = .st ∧ op.owner = c.owner
          ∧ op.mask = c.p.mask ∧ op.dest = .none
          ∧ op.kind = .scatter (u.scatterAdds c b.toNat (live.map fun x => (x, ls.map fun l =>
              (l.corners (coords x)).map fun z => (z.1, place x l z.2))) ls 0 0))))
  ∧ (∀ (lt : Nat) (x y z : Int), lt ≤ 22 → hashIndex lt x y z =
      (BitVec.ofInt 32 x ^^^ BitVec.ofInt 32 y * 0x6F2A3B15 ^^^ BitVec.ofInt 32 z * 0xC3E8D947).toNat % 2 ^ lt))

/-- From R155, R177 to R181, R252: ISECT_RAY, ISECT_TILE and ISECT_NEXT issue one operation with the queries that they start, a fifth of a
cluster waits, and a later hit of a query ranks after the one before it; VACC_RD and VACC_WR check their rows against the window, wait
for owned rows, and issue one operation on the words of the active lanes. -/
def Obligations.QueriesAndVault : Prop :=
  (∀ (s : State) (c : Ctx) (d a b : BitVec 7),
    let start (tile : Bool) (n : Nat) (l : Nat) : Nat × Query :=
      (l, ⟨tile, (List.range n).map fun k => s.readV c.pid (a.toNat + k) l, (s.readS64 c.pid c.p b.toNat).toNat, none⟩)
    let issued (next : Bool) (qs : List (Nat × Query)) : State :=
      if c.p.mask = 0 then s.retire c c.nextPc none
      else if 4 ≤ s.queriesOf (clusterOf c.core) then s.waitAt c.pid false .hold
      else ((if next then s else s.setQueries c.owner qs).addOp
        (c.op .tl (.vector d.toNat 4) c.p.mask (.query qs next) none)).retire c c.nextPc none
    (∀ o ∈ s.ops, s.shownTo c.pid o = true → o.id ∈ s.priorOf c.pid) →
    (ready (.isectRay d a b) s c = true → exec (.isectRay d a b) s = .next (issued false ((lanesOf c.p.mask).map (start false 8))))
    ∧ (ready (.isectTile d a b) s c = true → exec (.isectTile d a b) s = .next (issued false ((lanesOf c.p.mask).map (start true 2))))
    ∧ (ready (.isectNext d) s c = true → exec (.isectNext d) s = .next (issued true
        ((lanesOf c.p.mask).filterMap fun l => (s.queryOf c.owner l).map fun q => (l, q)))))
  ∧ (∀ (s : State) (core : Nat) (sys : Bool) (q : Query) (h : Hit) (k : Word × Word), (s.answer core sys q).1 = .hit h → q.last = some k →
      Rank.lt (valueKey k.1, k.2.toNat) h.rank = true)
  ∧ (∀ (s : State) (c : Ctx) (v r : BitVec 7) (q : BitVec 2) (n : BitVec 3) (b : Block), c.p.mask ≠ 0 →
    let u := s.entered (.vaccWr v r q n) c
    s.blockOf c.pid = some b → u.blockOf c.pid = some b →
    let r0 := (s.readS c.pid c.p r.toNat).toNat
    let w0 := (u.readS c.pid c.p r.toNat).toNat
    let cl := clusterOf c.core
    let inWindow (x : Nat) : Prop := b.awb.toNat ≤ x ∧ x < b.awb.toNat + b.awl.toNat ∧ x < 1024
    (ready (.vaccRd v r q n) s c = true → (∀ k, k ≤ n.toNat → inWindow (r0 + k)) →
      exec (.vaccRd v r q n) s = .next
        (if (List.range (n.toNat + 1)).any fun k => s.rowOwned cl (r0 + k) then s.waitAt c.pid false .vault
         else (s.addOp (c.op .tl (.vector v.toNat (n.toNat + 1)) c.p.mask (.vaultRead ((lanesOf c.p.mask).map fun l =>
          (l, (List.range (n.toNat + 1)).map fun k => s.vaultWord cl (r0 + k) (96 * q.toNat + l)))) none)).retire c c.nextPc none))
    ∧ (ready (.vaccRd v r q n) s c = true → ∀ x, x ≤ n.toNat → ¬ inWindow (r0 + x) → (∀ k, k < x → inWindow (r0 + k)) →
      exec (.vaccRd v r q n) s = .next ((s.takeTrap c.pid 0x06 c.first (BitVec.ofNat 64 (r0 + x)) none).unstep c.pid))
    ∧ (ready (.vaccWr v r q n) s c = true → (∀ k, k ≤ n.toNat → inWindow (w0 + k)) →
      exec (.vaccWr v r q n) s = .next
        (if (List.range (n.toNat + 1)).any fun k => u.rowOwned cl (w0 + k) then u.waitAt c.pid false .vault
         else (u.addOp (c.op .tl .none c.p.mask (.vaultWrite ((lanesOf c.p.mask).map fun l =>
          (List.range (n.toNat + 1)).map fun k =>
            (vaultKey cl (w0 + k) (96 * q.toNat + l), u.readV c.pid (v.toNat + k) l)).flatten) none)).retire c c.nextPc none))
    ∧ (ready (.vaccWr v r q n) s c = true → ∀ x, x ≤ n.toNat → ¬ inWindow (w0 + x) → (∀ k, k < x → inWindow (w0 + k)) →
      exec (.vaccWr v r q n) s = .next ((u.takeTrap c.pid 0x06 c.first (BitVec.ofNat 64 (w0 + x)) none).unstep c.pid)))
  ∧ (∀ (s : State) (c : Ctx) (v r : BitVec 7) (q : BitVec 2) (n : BitVec 3), c.p.mask = 0 →
    (ready (.vaccRd v r q n) s c = true → exec (.vaccRd v r q n) s = .next (s.retire c c.nextPc none))
    ∧ (ready (.vaccWr v r q n) s c = true →
      exec (.vaccWr v r q n) s = .next ((s.entered (.vaccWr v r q n) c).retire c c.nextPc none)))

/-- From R142, R143, R144, R277, R279: qpush and qpop on the item queue and on mapped rings, with the traps of a queue that is not mapped; a
path that waits retries; tq.enq and tq.deq; the scheduler's move of item tasks; and a ring's entry pushed or popped. -/
def Obligations.Queues : Prop :=
  (∀ (s : State) (c : Ctx) (nb : Bool) (g : BitVec 3) (r : BitVec 7),
    let words (u : State) := (List.range 8).map fun i => u.readS c.pid c.p (r.toNat + i)
    let flagged (u : State) (v : Bool) : State := u.onPath c.pid fun p => { p with flags := setFlag p.flags g v }
    let success (u : State) : State := (if nb then flagged u true else u).retire c c.nextPc none
    let failure (u : State) : State := if nb then (flagged u false).retire c c.nextPc none else u.waitAt c.pid true .queue
    let trapped (u : State) (q : Nat) : State := (u.takeTrap c.pid 0x08 c.first (BitVec.ofNat 64 q) none).unstep c.pid
    (ready (.qpush nb g 0 r) s c = true →
      let u := s.entered (.qpush nb g 0 r) c
      let v := u.showIn c.pid .block
      let k := v.core c.core
      (∀ pc, u.unfenced c.pid 14 = some pc → exec (.qpush nb g 0 r) s = .next (u.waitAt c.pid (!nb) (.counter pc)))
      ∧ (u.unfenced c.pid 14 = none → exec (.qpush nb g 0 r) s = .next
        (if 256 ≤ (u.core c.core).q0.length then failure u
         else success (v.setCore c.core { k with q0 := k.q0 ++ [(k.itemCounter, words u)], itemCounter := k.itemCounter + 1 }))))
    ∧ (ready (.qpop nb g 0 r) s c = true →
      let u := s.entered (.qpop nb g 0 r) c
      exec (.qpop nb g 0 r) s = .next
        (match (u.core c.core).q0 with
         | [] => failure u
         | it :: rest => success ((u.setCore c.core { u.core c.core with q0 := rest }).writeSs c.pid r.toNat
            ((List.range 8).map fun i => it.2.getD i 0))))
    ∧ (ready (.qpush nb g 1 r) s c = true → (s.entered (.qpush nb g 1 r) c).unreleased c.pid = none →
      exec (.qpush nb g 1 r) s = .next (trapped (s.entered (.qpush nb g 1 r) c) 1))
    ∧ (ready (.qpop nb g 1 r) s c = true → exec (.qpop nb g 1 r) s = .next (trapped (s.entered (.qpop nb g 1 r) c) 1))
    ∧ (∀ (q : BitVec 3) (l : Launch), 2 ≤ q.toNat →
      let u := s.entered (.qpush nb g q r) c
      let v := s.entered (.qpop nb g q r) c
      (ready (.qpush nb g q r) s c = true → (∀ pc, u.unreleased c.pid = some pc →
        exec (.qpush nb g q r) s = .next (u.waitAt c.pid (!nb) (.counter pc))))
      ∧ (ready (.qpush nb g q r) s c = true → u.unreleased c.pid = none → (u.blockOf c.pid).bind u.launchOf = some l →
        (l.queue q.toNat = 0 → exec (.qpush nb g q r) s = .next (trapped u q.toNat))
        ∧ (∀ loc, l.queue q.toNat ≠ 0 → u.reachMode c.core c.p.sys true (l.queue q.toNat) = .at_ loc →
          u.heldBy (some c.pid) (loc.span 32) = none →
          (∀ t e, u.ringPush (u.reachMode c.core c.p.sys) (some c.pid) (l.queue q.toNat) (u.groupBytes c r.toNat 8) = .done t e →
            exec (.qpush nb g q r) s = .next (success (t.pushEvent loc (List.range 8))))
          ∧ (u.ringPush (u.reachMode c.core c.p.sys) (some c.pid) (l.queue q.toNat) (u.groupBytes c r.toNat 8) = .no →
            exec (.qpush nb g q r) s = .next (failure u))
          ∧ (u.ringPush (u.reachMode c.core c.p.sys) (some c.pid) (l.queue q.toNat) (u.groupBytes c r.toNat 8) = .bad →
            exec (.qpush nb g q r) s = .next (trapped u q.toNat))))
      ∧ (ready (.qpop nb g q r) s c = true → (v.blockOf c.pid).bind v.launchOf = some l →
        (l.queue q.toNat = 0 → exec (.qpop nb g q r) s = .next (trapped v q.toNat))
        ∧ (∀ loc, l.queue q.toNat ≠ 0 → v.reachMode c.core c.p.sys true (l.queue q.toNat) = .at_ loc →
          v.heldBy (some c.pid) (loc.span 32) = none →
          (∀ t e, v.ringPop (v.reachMode c.core c.p.sys) (some c.pid) (l.queue q.toNat) = .done t e →
            exec (.qpop nb g q r) s = .next (success (t.writeSs c.pid r.toNat (wordsOf 8 e))))
          ∧ (v.ringPop (v.reachMode c.core c.p.sys) (some c.pid) (l.queue q.toNat) = .no →
            exec (.qpop nb g q r) s = .next (failure v))
          ∧ (v.ringPop (v.reachMode c.core c.p.sys) (some c.pid) (l.queue q.toNat) = .bad →
            exec (.qpop nb g q r) s = .next (trapped v q.toNat)))))
    ∧ (ready (.tqEnq nb g r) s c = true →
      let u := s.entered (.tqEnq nb g r) c
      let w0 := u.readS c.pid c.p r.toNat
      let seg := (w0.extractLsb' 16 8).toNat
      let ht := u.segment seg
      u.unreleased c.pid = none →
      ((u.dev.tqEn = false ∨ w0.extractLsb' 3 4 ≠ 0) →
        exec (.tqEnq nb g r) s = .next ((u.takeFree.takeTrap c.pid 0x08 c.first u.openAux none).unstep c.pid))
      ∧ (u.dev.tqEn = true → w0.extractLsb' 3 4 = 0 → 2 ^ u.dev.tqLseg ≤ ht.2 - ht.1 → exec (.tqEnq nb g r) s = .next (failure u))
      ∧ (∀ l, u.dev.tqEn = true → w0.extractLsb' 3 4 = 0 → ht.2 - ht.1 < 2 ^ u.dev.tqLseg →
        u.reachMode c.core c.p.sys true ((u.dev.tqbase + 32 * 2 ^ u.dev.tqLseg * seg + 32 * (ht.2 % 2 ^ u.dev.tqLseg)) % 2 ^ 49) = .at_ l →
        u.heldBy (some c.pid) (l.span 32) = none →
        exec (.tqEnq nb g r) s = .next (success
          (((u.writeLocs ((l.span 32).zip (u.groupBytes c r.toNat 8))).dramTouch (l.span 32)).setSegment seg ht.1 (ht.2 + 1)))))
    ∧ (ready (.tqDeq nb g r) s c = true →
      let u := s.entered (.tqDeq nb g r) c
      let f := u.reachMode c.core c.p.sys
      (u.dev.tqEn = false → exec (.tqDeq nb g r) s = .next ((u.takeFree.takeTrap c.pid 0x08 c.first u.openAux none).unstep c.pid))
      ∧ (u.dev.tqEn = true → u.findTask f (some c.pid) (searchOrder c.core) = .none → exec (.tqDeq nb g r) s = .next (failure u))
      ∧ (∀ seg i e, u.dev.tqEn = true → u.findTask f (some c.pid) (searchOrder c.core) = .some_ seg i e →
        exec (.tqDeq nb g r) s = .next (success ((u.segTake f seg i).writeSs c.pid r.toNat (wordsOf 8 e)))
          ∧ taskKind e ≠ 0xFF ∧ (dieOf c.core ≠ seg / 64 → taskMig e = true))))
  ∧ (∀ (s : State) (pid : Nat) (p : Path), s.path pid = some p → p.st = .waiting → p.wait = .queue →
    exec (.queueRetry pid) s = .next (s.setPath pid { p with st := .ready, readyAt := s.icc (coreOf pid) + 1 }))
  ∧ (∀ (s : State) (seg i core : Nat) (e : List Byte), s.dev.tqEn = true → seg < 256 →
    s.segFind s.reachDev none seg (fun e => taskKind e == 0xFF) (s.segment seg).1 ((s.segment seg).2 - (s.segment seg).1) = some (i, .ok e) →
    s.segBlocked s.reachDev none seg i = none →
    core / 4 = seg / 8 → (s.core core).q0.length < 256 → (∀ k, k / 4 = seg / 8 → k < core → 256 ≤ (s.core k).q0.length) →
    exec (.itemTaskMove seg) s = .next ((s.segTake s.reachDev seg i).pushItem core (wordsOf 8 e)))
  ∧ (∀ (s : State) (f : Reacher) (pid : Option Nat) (a : Nat) (entry : List Byte) (d : RingDesc) (dl l : Loc),
    f true a = .at_ dl → s.heldBy pid (dl.span 32) = none → s.ringAt dl = .ok d → d.head < 2 ^ 32 → d.tail < 2 ^ 32 →
    let used := (BitVec.ofNat 32 d.tail - BitVec.ofNat 32 d.head).toNat
    (used ≠ 2 ^ d.lcap → f true ((d.base + 32 * (d.tail % 2 ^ d.lcap)) % 2 ^ 64) = .at_ l → s.heldBy pid (l.span 32) = none →
      s.ringPush f pid a entry = .done (((s.writeLocs ((l.span 32).zip entry)).writeNum (dl.plus 20) 4 (d.tail + 1)).dramTouch
        (dl.span 32 ++ l.span 32)) entry)
    ∧ (used = 2 ^ d.lcap → s.ringPush f pid a entry = .no)
    ∧ (used = 0 → s.ringPop f pid a = .no)
    ∧ (used ≠ 0 → f false ((d.base + 32 * (d.head % 2 ^ d.lcap)) % 2 ^ 64) = .at_ l → s.heldBy pid (l.span 32) = none →
      s.ringPop f pid a = .done ((s.writeNum (dl.plus 16) 4 (d.head + 1)).dramTouch (dl.span 32 ++ l.span 32)) (s.readSpan l 32)))

/-- From R145, R146, R147: a vote changes the mint word as R146's step says, and mint writes the new word to memory and to its pair; vpin
writes the version, counts the pin in the record, gives up the count of the pin that it replaces, and remembers the new one; and a count
given up goes down by one. That a misaligned mint or vpin raises 0x03 is log entry 49; that a vpin waits while the record of the pin which it
replaces is being moved is log entry 103. -/
def Obligations.VotesAndPins : Prop :=
  (∀ m : DWord,
    let needed := (m.extractLsb' 1 15).toNat
    let received := (m.extractLsb' 16 16).toNat
    let rcv := min (received + 1) needed
    mintVote m.toNat = (if rcv = needed ∧ m.getLsbD 0 = false then (m.extractLsb' 32 32 + 1) ++ 0#16 ++ m.extractLsb' 0 16
      else m.extractLsb' 32 32 ++ BitVec.ofNat 16 rcv ++ m.extractLsb' 0 16 : DWord).toNat)
  ∧ (∀ (s : State) (c : Ctx) (d a : BitVec 7),
    let u := s.entered (.mint d a) c
    let ra := (u.readS64 c.pid c.p a.toNat).toNat
    ready (.mint d a) s c = true →
    (∀ pc, u.unreleasedAll c.pid = some pc → exec (.mint d a) s = .next (u.waitAt c.pid false (.counter pc)))
    ∧ (u.unreleasedAll c.pid = none →
      (ra % 8 ≠ 0 → exec (.mint d a) s = .next ((u.takeTrap c.pid 0x03 c.first (BitVec.ofNat 64 ra) none).unstep c.pid))
      ∧ (∀ l, ra % 8 = 0 → u.reachMode c.core c.p.sys true ra = .at_ l →
        (∀ pc, u.heldBy (some c.pid) (l.span 8) = some pc → exec (.mint d a) s = .next (u.waitAt c.pid false (.line pc)))
        ∧ (u.heldBy (some c.pid) (l.span 8) = none →
          (fld (u.readNum l 8) 1 15 = 0 → exec (.mint d a) s = .next ((u.takeFree.takeTrap c.pid 0x13 c.first u.openAux none).unstep c.pid))
          ∧ (fld (u.readNum l 8) 1 15 ≠ 0 → exec (.mint d a) s = .next (((((u.writeNum l 8 (mintVote (u.readNum l 8))).dramTouch
            (l.span 8)).writeS64 c.pid d.toNat (BitVec.ofNat 64 (mintVote (u.readNum l 8)))).retire c c.nextPc none)))))))
  ∧ (∀ (s : State) (c : Ctx) (d a : BitVec 7) (l pl dl : Loc),
    let u := s.entered (.vpin d a) c
    let ra := (u.readS64 c.pid c.p a.toNat).toNat
    let v := u.readNum (l.plus 4) 4
    ready (.vpin d a) s c = true →
    (ra % 8 ≠ 0 → exec (.vpin d a) s = .next ((u.takeTrap c.pid 0x03 c.first (BitVec.ofNat 64 ra) none).unstep c.pid))
    ∧ (ra % 8 = 0 → u.reachMode c.core c.p.sys true ra = .at_ l →
      u.reachMode c.core c.p.sys true (ra + 16) = .at_ pl → u.reachMode c.core c.p.sys false (ra + 8) = .at_ dl →
      u.heldBy (some c.pid) (l.span 8) = none → u.heldBy (some c.pid) (pl.span 8) = none → u.heldBy (some c.pid) (dl.span 8) = none →
      u.pinWaits c.wid = false →
      let counted := (u.writeNum (pl.plus (4 * (v % 2))) 4 (u.readNum (pl.plus (4 * (v % 2))) 4 + 1)).dramTouch
        (l.span 8 ++ dl.span 8 ++ pl.span 8)
      let freed := match u.pinOf c.pid with
        | some p => counted.unpin c.wid p
        | none => counted
      exec (.vpin d a) s = .next (((freed.onWave c.wid fun w =>
        { w with pin := some ⟨ra, BitVec.ofNat 32 v, BitVec.ofNat 64 (u.readNum dl 8)⟩ }).writeS c.pid d.toNat
          (BitVec.ofNat 32 v)).retire c c.nextPc none)))
  ∧ (∀ (s : State) (wid : Nat) (p : Pin) (l : Loc),
    s.reach (wid / 32) ⟨true, true, false⟩ (p.record + 16 + 4 * (p.version.toNat % 2)) = .at_ l → s.mustWait l = false →
      s.unpin wid p = s.writeNum l 4 (BitVec.ofNat 32 (s.readNum l 4) - 1).toNat)

/-! Tiles, copies, streams. -/

/-- From R150, R153, R234, R236: tdef, tfree and tstat on a tile of the block's allotment and on a number outside it, and what the table
update does to the entry's state. That a description of a B-deck tile with a base outside the multiples of 32 is refused with 0x13 is log
entry 51 (R232 gives the multiple, R234's list does not), and the wait for the table's updates in flight log entry 52. -/
def Obligations.TileTable : Prop :=
  (∀ (s : State) (c : Ctx) (t r : BitVec 7),
    let trapped (u : State) (cause x : Nat) : State := (u.takeTrap c.pid cause c.first (BitVec.ofNat 64 x) none).unstep c.pid
    (ready (.tstat t r) s c = true → s.tileOf (s.bidOf c.pid) t.toNat = none → exec (.tstat t r) s = .next (trapped s 0x02 t.toNat))
    ∧ (∀ e u, ready (.tstat t r) s c = true → s.tileOf (s.bidOf c.pid) t.toNat = some (e, u) →
      exec (.tstat t r) s = .next ((s.writeS c.pid r.toNat
        (match u.st with | .empty => 0 | .filling => 1 | .ready => 2 | .draining => 3)).retire c c.nextPc none))
    ∧ (ready (.tfree t) s c = true →
      let v := s.entered (.tfree t) c
      (v.tileOf (v.bidOf c.pid) t.toNat = none → exec (.tfree t) s = .next (trapped v 0x02 t.toNat))
      ∧ ∀ e u, v.tileOf (v.bidOf c.pid) t.toNat = some (e, u) → exec (.tfree t) s = .next
        (if u.st = .filling ∨ u.st = .draining then
          v.waitAt c.pid false (.line (match v.ops.find? fun o => !o.done && o.kind.holdsTile e with
            | some o => if coreOf o.pid = c.core then o.pc else 0
            | none => 0))
         else if v.tableBusy (clusterOf c.core) = true then v.waitAt c.pid false .hold
         else (v.addOp (c.op .tl .none c.p.mask (.table e none) none)).retire c c.nextPc none))
    ∧ (ready (.tdef t r) s c = true →
      let v := s.entered (.tdef t r) c
      (v.tileOf (v.bidOf c.pid) t.toNat = none → exec (.tdef t r) s = .next (trapped v 0x02 t.toNat))
      ∧ ∀ e u b, v.tileOf (v.bidOf c.pid) t.toNat = some (e, u) → v.blockOf c.pid = some b →
        (v.tableBusy (clusterOf c.core) = true → exec (.tdef t r) s = .next (v.waitAt c.pid false .hold))
        ∧ (v.tableBusy (clusterOf c.core) = false → (u.st ≠ .empty → exec (.tdef t r) s = .next (trapped v 0x07 t.toNat))
        ∧ (u.st = .empty →
          let words := (List.range 4).map fun k => (v.readS c.pid c.p (r.toNat + k)).toNat
          (describeTile b u words = none →
            exec (.tdef t r) s = .next ((v.takeFree.takeTrap c.pid 0x13 c.first v.openAux none).unstep c.pid))
          ∧ ∀ n, describeTile b u words = some n →
            (∀ x ∈ v.run.tiles, x.1 = e ∨ x.1 / 128 ≠ clusterOf c.core ∨ n.overlaps x.2 = false) →
            exec (.tdef t r) s = .next ((v.addOp (c.op .tl .none c.p.mask (.table e (some n)) none)).retire c c.nextPc none)))))
  ∧ (∀ (b : Block) (e n : Tile) (words : List Nat), describeTile b e words = some n →
      n.defined = true ∧ 0 < n.rows ∧ n.rows < 2 ^ 16 ∧ 0 < n.cols ∧ n.cols < 2 ^ 16 ∧ n.fmt < 8
        ∧ (n.bdeck = false → n.base % 128 = 0 ∧ n.pitch % 16 = 0 ∧ n.rowBytes ≤ n.pitch
            ∧ n.base + (n.rows - 1) * n.pitch + n.rowBytes ≤ b.scratch)
        ∧ (n.bdeck = true → n.base % 32 = 0 ∧ n.pitch + n.cols ≤ 384 ∧ n.base + n.rows * (formatBits n.fmt / 8) ≤ 16384)
        ∧ n.own = e.own ∧ n.tn = e.tn ∧ n.st = e.st)
  ∧ (∀ (s : State) (n : Nat) (o : Op) (e : Nat) (u : Tile), s.findOp n = some o → tget s.run.tiles e = some u →
    (∀ d, o.kind = .table e (some d) →
      (u.st ≠ .empty → exec (.tableEntryUpdated n) s = .next s)
      ∧ (u.st = .empty → ∃ t, exec (.tableEntryUpdated n) s = .next t ∧ t.findOp n = none
        ∧ tget t.run.tiles e = some { d with st := u.st, rel := u.rel, refs := u.refs } ∧ t.mem = s.mem ∧ t.sram = s.sram))
    ∧ (o.kind = .table e none → (u.st = .filling ∨ u.st = .draining) → exec (.tableEntryUpdated n) s = .next s)
    ∧ (o.kind = .table e none → u.st = .ready → ∃ t v, exec (.tableEntryUpdated n) s = .next t ∧ t.findOp n = none
      ∧ tget t.run.tiles e = some v
      ∧ (u.refs = 0 → v.st = .empty ∧ v.rel = false) ∧ (u.refs ≠ 0 → v = { u with rel := true })))

/-- From R150, R151, R236, R238: the copy commands check tile, state and kind, alignment and translation in their order and are
accepted, and what their completion writes: at a fill's tile, a drain's or a copy's memory, the source bytes as they stand then,
which is log entry 13. A tile copy waits for the table's updates in flight (log entry 52) and for a store that is visible to the
path and still to be performed in the tile (log entry 10). From R152, R330: a recalled line is written and given up by the
oldest command that owns it; a copy that meets uncorrectable data ends, its tile goes to empty (a drain's to ready), and its
wave's lowest path is due trap 0x11. The bytes move as they stand at the recall, which is log entry 13. -/
def Obligations.CopyEngine : Prop :=
  ((∀ (i : Instr) (s : State) (c : Ctx) (t a b : BitVec 7) (deck store : Bool) (e : Nat) (u : Tile) (blk : Block),
    ready i s c = true →
    ((i = .cpTile t a b ∧ deck = false ∧ store = false) ∨ (i = .cpBdeck t a b ∧ deck = true ∧ store = false)
      ∨ (i = .cpStore t a b ∧ deck = false ∧ store = true)) →
    let v := s.entered i c
    let sa := (v.readS64 c.pid c.p a.toNat).toNat
    let sb := (v.readS c.pid c.p b.toNat).toNat
    let trapped (cause x : Nat) : State := (v.takeTrap c.pid cause c.first (BitVec.ofNat 64 x) none).unstep c.pid
    (v.tileOf (v.bidOf c.pid) t.toNat = none → exec i s = .next (trapped 0x02 t.toNat))
    ∧ (v.tileOf (v.bidOf c.pid) t.toNat = some (e, u) → v.blockOf c.pid = some blk → v.tableBusy (clusterOf c.core) = true →
      exec i s = .next (v.waitAt c.pid false .hold))
    ∧ (v.tileOf (v.bidOf c.pid) t.toNat = some (e, u) → v.blockOf c.pid = some blk → v.tableBusy (clusterOf c.core) = false →
      ((u.defined = false ∨ u.bdeck ≠ deck ∨ u.st ≠ (if store then .ready else .empty)) → exec i s = .next (trapped 0x07 t.toNat))
      ∧ (u.defined = true → u.bdeck = deck → u.st = (if store then .ready else .empty) →
        (sa % 16 ≠ 0 → exec i s = .next (trapped 0x03 sa))
        ∧ (sa % 16 = 0 → (sb % 16 ≠ 0 ∨ sb < u.rowBytes) → exec i s = .next (trapped 0x03 sb))
        ∧ (∀ ps, sa % 16 = 0 → sb % 16 = 0 → u.rowBytes ≤ sb →
          v.checkRanges c ((rowChunks sa sb u.rowBytes u.rows).map fun r => (store, r)) = .ok ps →
          v.matchesOf c.core 3 1 (copyAccesses ps (u.places blk)) = [] →
          exec i s = .next (if 64 ≤ v.copiesHeld (clusterOf c.core) then v.waitAt c.pid false .hold else
            match v.unseenStore c.pid (u.places blk) with
            | some o => v.waitAt c.pid false (.line o.pc)
            | none =>
            let kind : OpKind := if store then .copyDrain e ((u.places blk).zip (ps.map (·.locs)).flatten)
              else .copyFill e ((ps.map (·.locs)).flatten.zip (u.places blk))
            let from_ : List (Loc × Nat) := if store then (u.places blk).map fun l => (l, match l with | .sram _ o => o - blk.base | _ => 0)
              else pieceVas ps
            ((v.addOp { c.op .cp .none c.p.mask kind none with vas := from_ }).onTile e
              fun v => v.become (if store then .draining else .filling)).retire c c.nextPc none)))))
  ∧ (∀ (s : State) (c : Ctx) (n a b : BitVec 7), ready (.cpCopy n a b) s c = true →
    let v := s.entered (.cpCopy n a b) c
    let dst := (v.readS64 c.pid c.p a.toNat).toNat
    let src := (v.readS64 c.pid c.p b.toNat).toNat
    let len := (v.readS c.pid c.p n.toNat).toNat
    let trapped (x : Nat) : State := (v.takeTrap c.pid 0x03 c.first (BitVec.ofNat 64 x) none).unstep c.pid
    (dst % 16 ≠ 0 → exec (.cpCopy n a b) s = .next (trapped dst))
    ∧ (dst % 16 = 0 → src % 16 ≠ 0 → exec (.cpCopy n a b) s = .next (trapped src))
    ∧ (dst % 16 = 0 → src % 16 = 0 → len % 16 ≠ 0 → exec (.cpCopy n a b) s = .next (trapped len))
    ∧ (dst % 16 = 0 → src % 16 = 0 → len = 0 → v.copiesHeld (clusterOf c.core) < 64 →
      exec (.cpCopy n a b) s = .next ((v.addOp (c.op .cp .none c.p.mask (.copyMem []) none)).retire c c.nextPc none))
    ∧ (∀ ps qs, dst % 16 = 0 → src % 16 = 0 → len % 16 = 0 → v.copiesHeld (clusterOf c.core) < 64 →
      v.checkRanges c ((chunks src len).map (fun r => (false, r)) ++ (chunks dst len).map fun r => (true, r)) = .ok (ps ++ qs) →
      ps.length = qs.length → v.matchesOf c.core 3 1 (copyAccesses (ps ++ qs) []) = [] →
      exec (.cpCopy n a b) s = .next ((v.addOp { c.op .cp .none c.p.mask (.copyMem ((ps.map (·.locs)).flatten.zip (qs.map (·.locs)).flatten)) none with vas := pieceVas ps }).retire c c.nextPc none)))
  ∧ (∀ (s : State) (n : Nat) (o : Op) (pairs : List (Loc × Loc)) (e : Nat) (u : Tile), s.findOp n = some o → s.mayMove n pairs = true →
    Memory.wf s.mem = true → tget s.run.tiles e = some u → s.tileBad e = false →
    (s.dev.hotbase = 0 ∨ ∀ p ∈ pairs, ∀ f k, p.1 ≠ .comp f k ∧ p.2 ≠ .comp f k) →
    let cells := pairs.map fun p => (p.2, (s.readLoc p.1).getD 0)
    let touched := pairs.map (·.1) ++ pairs.map (·.2)
    (o.kind = .copyFill e pairs → ∃ t, exec (.copyFillComplete n) s = .next t ∧ Stored s t cells touched ∧ t.findOp n = none
      ∧ tget t.run.tiles e = some { u with st := .ready } ∧ t.run.vregs = s.run.vregs ∧ t.run.sregs = s.run.sregs ∧ t.vault = s.vault)
    ∧ (o.kind = .copyDrain e pairs → ∃ t v, exec (.copyDrainComplete n) s = .next t ∧ Stored s t cells touched ∧ t.findOp n = none
      ∧ tget t.run.tiles e = some v ∧ (u.refs = 0 → v = { u with st := .empty, rel := false })
      ∧ (u.refs ≠ 0 → v = { u with st := .ready, rel := true }) ∧ t.run.vregs = s.run.vregs ∧ t.run.sregs = s.run.sregs)
    ∧ (o.kind = .copyMem pairs → ∃ t, exec (.cpCopyComplete n) s = .next t ∧ Stored s t cells touched ∧ t.findOp n = none
      ∧ t.run = { s.run with waves := t.run.waves })))
  ∧ ((∀ (s : State) (line : Nat),
    let inLine (p : Loc × Loc) : Bool := p.2.line == some line
    ((∀ o ∈ s.ops, o.done = true ∨ o.kind.pairs.any inLine = false) → exec (.directoryRecall line) s = .next s)
    ∧ (∀ o, Memory.wf s.mem = true → s.ops.find? (fun o => !o.done && o.kind.pairs.any inLine) = some o →
      s.mayMove o.id (o.kind.pairs.filter inLine) = true →
      (s.dev.hotbase = 0 ∨ ∀ p ∈ o.kind.pairs, ∀ f k, p.1 ≠ .comp f k ∧ p.2 ≠ .comp f k) →
      ∃ t, exec (.directoryRecall line) s = .next t ∧ t.run = s.run
        ∧ Stored s t ((o.kind.pairs.filter inLine).map fun p => (p.2, (s.readLoc p.1).getD 0))
            ((o.kind.pairs.filter inLine).map (·.1) ++ (o.kind.pairs.filter inLine).map (·.2))
        ∧ (∀ q ∈ t.ops, q.id = o.id → q.kind.pairs.any inLine = false)))
  ∧ (∀ (s : State) (n addr : Nat) (o : Op) (p : Loc × Loc) (g pid : Nat) (q : Path) (u : Tile) (e : Nat) (pairs : List (Loc × Loc)),
    s.findOp n = some o → (o.kind = .copyFill e pairs ∨ o.kind = .copyDrain e pairs) → tget s.run.tiles e = some u →
    pairs.find? (fun p => o.vaOf p.1 == addr && o.vas.any fun v => v.1 == p.1) = some p →
    (s.readLoc p.1).isSome = true → (s.granules p.1).head? = some g → s.tileBad e = false → o.owner < 4096 →
    (s.pathsOf o.owner).head? = some (pid, q) → s.path pid = some q →
    ∃ t r v, exec (.engineUeStop n addr) s = .next t ∧ t.findOp n = none
      ∧ t.dev.rasue = (if s.locBad p.1 then s.dev.rasue else min (s.dev.rasue + 1) 0xFFFFFFFF) ∧ t.path pid = some r
      ∧ ⟨1, 0x11, BitVec.ofNat 64 (addr % 2 ^ 49 + 2 ^ 62), none, s.clk⟩ ∈ r.due ∧ tget t.run.tiles e = some v
      ∧ (o.kind = .copyFill e pairs → v.st = .empty) ∧ (o.kind = .copyDrain e pairs → v.st = .ready)))

/-- From R163, R164, R165, R167, R168: what each matrix, map and vault instruction does when it issues: it retires where it has nothing to
do, stops the stream where a check fails, and otherwise stands in the table for the teller or the adders; an mma that has no pass and clears
has cleared its rows when nothing stands before it and no row is under assay, which is log entry 55. -/
def Obligations.MatrixInstructions : Prop :=
  ∀ (s : State) (c : SCtx),
    let stop (cause : Nat) : State := s.stopStream c.bid c.e.addr cause
    let m := c.e.map
    let retired (u : State) : State := (u.entryRetired c).settleStream c.bid
    let issued (u : State) : State := (u.entryIssued c).settleStream c.bid
    (∀ op g, streamTurn op s c → mmaOf op = some g →
      ((m.m = 0 ∨ m.n = 0 ∨ (m.k = 0 ∧ g.z = false)) → exec op.toInstr s = .next (retired s))
      ∧ (¬ (m.m = 0 ∨ m.n = 0 ∨ (m.k = 0 ∧ g.z = false)) →
        (∀ cause, c.mmaCheck s g = some cause → exec op.toInstr s = .next (stop cause))
        ∧ (c.mmaCheck s g = none → exec op.toInstr s = .next (issued s))
        ∧ (c.mmaCheck s g = none → m.k = 0 → c.st.blockedRows c.e false = false → s.vaccWrites (c.b.core / 4) m.row m.m = false → s.ras.running = [] →
          c.st.entries.length ≤ 32 → (∀ f ∈ c.st.entries, f.id = c.e.id → f = c.e) → m.n ≤ 384 →
          ∀ i j, i < m.m → j < m.n → (issued s).vaultWord (c.b.core / 4) (m.row + i) j = 0)))
    ∧ (∀ (z : Bool) (a b : BitVec 7) (k : BitVec 3), [mmaOf (.mmaE4m3E4m3 z a b k), mmaOf (.mmaE4m3E5m2 z a b k), mmaOf (.mmaE5m2E4m3 z a b k),
        mmaOf (.mmaE5m2E5m2 z a b k), mmaOf (.mmaI8 z a b k), mmaOf (.mmaBf16 z a b k), mmaOf (.mmaF16 z a b k), mmaOf (.mmaTriI8 z a b k)]
      = [(0, 0, 32), (0, 1, 32), (1, 0, 32), (1, 1, 32), (2, 2, 32), (4, 4, 16), (5, 5, 16), (3, 2, 64)].map fun f =>
        some ⟨f.1, f.2.1, f.2.2, z, a.toNat, b.toNat, k.toNat⟩)
    ∧ (∀ (n : BitVec 3) (x : BitVec 8) (y : BitVec 9), streamTurn (.mmapShape n x y) s c → exec (.mmapShape n x y) s = .next
      (retired (s.onStream c.bid fun st => { st with maps := tset st.maps n.toNat { st.map n.toNat with m := x.toNat, n := y.toNat } })))
    ∧ (∀ (n : BitVec 3) (k : BitVec 13) (o : BitVec 8), streamTurn (.mmapK n k o) s c → exec (.mmapK n k o) s = .next
      (retired (s.onStream c.bid fun st => { st with maps := tset st.maps n.toNat { st.map n.toNat with k := k.toNat, kofs := o.toNat } })))
    ∧ (∀ (n : BitVec 3) (r : BitVec 10) (a b : Bool), streamTurn (.mmapAcc n r a b) s c → exec (.mmapAcc n r a b) s = .next
      (retired (s.onStream c.bid fun st => { st with maps := tset st.maps n.toNat { st.map n.toNat with row := r.toNat, ta := a, tb := b } })))
    ∧ (∀ (r : BitVec 10) (n : BitVec 11), streamTurn (.macz r n) s c → exec (.macz r n) s = .next
      (if n = 0 then retired s
       else if c.b.awb.toNat ≤ r.toNat ∧ r.toNat + n.toNat ≤ c.b.awb.toNat + c.b.awl.toNat ∧ r.toNat + n.toNat ≤ 1024 then
        issued (s.onStream c.bid fun st => st.onEntry c.e.id fun e => { e with begun := true })
       else stop 0x06))
    ∧ (∀ (d a : BitVec 3) (t : BitVec 7) (mode : MsclMode), streamTurn (.mscl d a t mode) s c →
      ((m.m = 0 ∨ m.n = 0) → exec (.mscl d a t mode) s = .next (retired s))
      ∧ (m.m ≠ 0 → m.n ≠ 0 → s.tileOf c.bid t.toNat = none → exec (.mscl d a t mode) s = .next (stop 0x02))
      ∧ (∀ e u, m.m ≠ 0 → m.n ≠ 0 → s.tileOf c.bid t.toNat = some (e, u) →
        let fits := match mode with
          | .row => decide (m.m ≤ u.cols)
          | .col => decide (m.n ≤ u.cols)
          | .rc => decide (2 ≤ u.rows) && decide (m.m ≤ u.cols) && decide (m.n ≤ u.cols)
        exec (.mscl d a t mode) s = .next
          (if u.defined = false ∨ u.bdeck = true ∨ u.fmt ≠ 6 ∨ fits = false then stop 0x07
           else if c.b.rowsOk m.row m.m = false ∨ c.b.rowsOk c.e.map2.row m.m = false then stop 0x06
           else issued (s.onStream c.bid fun st => st.onEntry c.e.id fun e => { e with begun := true }))))

/-- From R86, R162, R169: mbar.wait, mbar.sig, mloop, mend, mhalt, mrel and mset when they issue; and what a stopped stream leaves:
the entries that had issued, and its trap due in the block's first wave, or an interrupt. From R161, R242, R243, R52, R53, R164:
a stream's fetch, the teller's grant, a pass's retirement and the adders' completion; what a pass computes of integers, and that
the order of a float pass's products does not matter. -/
def Obligations.StreamControlAndEvents : Prop :=
  ((∀ (s : State) (c : SCtx),
    let idle := c.st.before c.e.id = []
    let retired (u : State) : State := (u.entryRetired c).settleStream c.bid
    (∀ n : BitVec 4, streamTurn (.mbarSig n) s c →
      (idle → exec (.mbarSig n) s = .next (retired (s.completePhase c.bid n.toNat))) ∧ (¬ idle → exec (.mbarSig n) s = .next s))
    ∧ (∀ n : BitVec 4, streamTurn (.mbarWait n) s c →
      let old := tgetD 0 c.st.seen n.toNat
      let seen := if c.e.begun then old else old + 1
      let u := if c.e.begun then s else s.onStream c.bid fun st =>
        ({ st with seen := tset st.seen n.toNat (tgetD 0 st.seen n.toNat + 1) } : Stream).onEntry c.e.id fun e => { e with begun := true }
      (((c.b.barrier n.toNat).phase - seen).toNat < 2 ^ 31 → exec (.mbarWait n) s = .next (retired u))
      ∧ (2 ^ 31 ≤ ((c.b.barrier n.toNat).phase - seen).toNat →
        exec (.mbarWait n) s = .next (if s.firstWave c.bid = none then s.stopStream c.bid c.e.addr 0x12 else u)))
    ∧ (∀ (n : BitVec 2) (o : BitVec 21), streamTurn (.mloop n o) s c →
      let k := tgetD 0 c.st.counters n.toNat
      let off : DWord := widenedImm (match c.e.pfx with | some x => [x] | none => []) o
      (k = 0 → exec (.mloop n o) s = .next (retired s))
      ∧ (k = 1 → exec (.mloop n o) s = .next (retired (s.onStream c.bid fun st => { st with counters := tset st.counters n.toNat 0 })))
      ∧ (1 < k.toNat → (∀ x, c.e.pfx = some x → x < 2 ^ 24) → exec (.mloop n o) s = .next (retired (s.onStream c.bid fun st =>
          { st with counters := tset st.counters n.toNat (k - 1), pc := wordsFrom (c.e.addr + if c.e.pfx.isSome then 4 else 0) off }))))
    ∧ (streamTurn .mend s c →
      (¬ idle → exec .mend s = .next s)
      ∧ (idle → c.st.reservation = none → exec .mend s = .next
        (retired (s.onStream c.bid fun st => { st with state := .ended })))
      ∧ (∀ r, idle → c.st.reservation = some r → ∃ t, exec .mend s = .next t ∧ (t.streamOf c.bid).map (·.state) = some .ended
        ∧ (t.cluster (c.bid / 32)).reservations = tdel (s.cluster (c.bid / 32)).reservations r))
    ∧ (streamTurn .mhalt s c → exec .mhalt s = .next (if c.st.before c.e.id = [] then s.stopStream c.bid c.e.addr 0x10 else s))
    ∧ (∀ t : BitVec 7, streamTurn (.mrel t) s c →
      (s.tileOf c.bid t.toNat = none → exec (.mrel t) s = .next (s.stopStream c.bid c.e.addr 0x02))
      ∧ (∀ e u, s.tileOf c.bid t.toNat = some (e, u) →
        (u.defined = false → exec (.mrel t) s = .next (s.stopStream c.bid c.e.addr 0x07))
        ∧ (u.defined = true → (u.st = .filling ∨ u.st = .draining ∨ ∃ f ∈ c.st.before c.e.id, t.toNat ∈ f.tiles) →
          exec (.mrel t) s = .next s)
        ∧ (u.defined = true → (∀ f ∈ c.st.before c.e.id, t.toNat ∉ f.tiles) →
          (u.st = .empty → exec (.mrel t) s = .next (retired (s.setTile e u)))
          ∧ (u.st = .ready → u.refs = 0 → exec (.mrel t) s = .next (retired (s.setTile e { u with st := .empty, rel := false })))
          ∧ (u.st = .ready → u.refs ≠ 0 → exec (.mrel t) s = .next (retired (s.setTile e { u with rel := true }))))))
    ∧ (∀ (n : BitVec 2) (i : BitVec 21), streamTurn (.mset n i) s c → (∀ x, c.e.pfx = some x → x < 2 ^ 24) →
      let v : Word := (widenedImm (match c.e.pfx with | some x => [x] | none => []) i).truncate 32
      exec (.mset n i) s = .next (retired (s.onStream c.bid fun st => { st with counters := tset st.counters n.toNat v }))))
  ∧ (∀ (s : State) (bid addr cause : Nat) (b : Block) (st : Stream), s.block bid = some b → b.stream = some st →
      let t := s.stopStream bid addr cause
      let d : DueTrap := ⟨3, cause, BitVec.ofNat 64 (addr % 2 ^ 49 + 2 ^ 63), none, s.clk⟩
      (∀ wid pid q, s.firstWave bid = some wid → (s.pathsOf wid).head? = some (pid, q) → s.path pid = some q →
        ∃ r, t.path pid = some r ∧ d ∈ r.due)
      ∧ (∀ wid w, s.firstWave bid = some wid → s.pathsOf wid = [] → s.wave wid = some w → ∃ x, t.wave wid = some x ∧ d ∈ x.due)
      ∧ (s.firstWave bid = none → t.irqs = s.irqs ++ [.streamStopped bid addr cause])
      ∧ (t.streamOf bid).map (·.state) = some .stopped ∧ (t.streamOf bid).map (·.entries) = some (st.entries.filter (·.issued))))
  ∧ ((∀ (s : State) (bid w : Nat) (b : Block) (st : Stream) (op : StreamOp), s.block bid = some b → b.stream = some st → st.state = .running →
    s.run.running = true → s.run.halted = false → st.entries.length < 32 → st.entries.any StreamEntry.holdsFetch = false →
    (∀ l, s.reach b.core ⟨false, false, false⟩ st.pc = .at_ l → (l.span 4).any s.mustWait = false → s.readNum l 4 = w → (∀ p, parseHintWord w ≠ some (.pfx p)) →
      decodeStream w = .ok op →
      ∃ t st' e, exec (.streamFetch bid) s = .next t ∧ t.streamOf bid = some st' ∧ st'.pc = st.pc + 4 ∧ st'.entries = st.entries ++ [e]
        ∧ e.op = some op ∧ e.addr = st.pc ∧ e.issued = false ∧ (s.dev.hotbase = 0 → t.mem = s.mem)))
  ∧ (∀ (s : State) (cl bid : Nat) (b : Block) (st : Stream) (e : StreamEntry), (s.cluster cl).passes.length < 32 → s.run.running = true →
    s.run.halted = false → s.clusterStopped cl = false →
    let u := s.refreshCluster cl
    u.winner (s.clusterBlocks cl) = some bid → u.block bid = some b → b.stream = some st → u.offers bid b st = some e →
    exec (.tellerGrant cl) s = .next ((u.grantPass cl bid e).refreshStream bid)
      ∧ (u.grantPass cl bid e).cluster cl = { u.cluster cl with passes := (u.cluster cl).passes ++ [⟨bid, e.id, e.nextPass⟩] })
  ∧ (∀ (s : State) (cl : Nat) (p : Pass) (rest : List Pass) (b : Block) (st : Stream) (e : StreamEntry) (op : StreamOp) (g : Mma) (ta tb : Nat × Tile),
    (s.cluster cl).passes = p :: rest → s.block p.bid = some b → b.stream = some st → st.entries.find? (fun e => e.id == p.entry) = some e →
    e.op = some op → mmaOf op = some g → s.tileOf p.bid g.ta = some ta → s.tileOf p.bid g.tb = some tb →
    e.map.row + e.map.m ≤ 1024 → e.map.n ≤ 384 →
    (∀ f ∈ st.entries, ∀ h, f.op.bind mmaOf = some h → passesOf h f.map ≠ 0) →
    ∃ t, exec (.passRetire cl) s = .next t ∧ t.mem = s.mem ∧ t.sram = s.sram ∧ (t.cluster cl).passes = rest
      ∧ (∀ i j, i < e.map.m → j < e.map.n →
        let ks := (List.range g.kp).filter fun q => p.index * g.kp + q < e.map.k
        let at_ (q : Nat) := e.map.kofs * g.kp + p.index * g.kp + q
        t.vaultWord (b.core / 4) (e.map.row + i) j = (passWord g (ks.map fun q => s.operand b ta.2 e.map.ta i (at_ q))
          (ks.map fun q => s.operand b tb.2 e.map.tb (at_ q) j)
          (if g.z = true ∧ p.index = 0 then 0 else s.vaultWord (b.core / 4) (e.map.row + i) j)).1)
      ∧ (∀ row col, row < 1024 → col < 384 → (row < e.map.row ∨ e.map.row + e.map.m ≤ row ∨ e.map.n ≤ col) →
        t.vaultWord (b.core / 4) row col = s.vaultWord (b.core / 4) row col))
  ∧ (∀ (g : Mma) (as bs : List Nat) (v : Word), g.fb = 2 → g.fa = 2 → (∀ x ∈ as ++ bs, x < 256) →
    (passWord g as bs v).1 = (List.zip as bs).foldl (fun t x => t + (BitVec.ofNat 8 x.1).signExtend 32 * (BitVec.ofNat 8 x.2).signExtend 32) v)
  ∧ (∀ (ps qs : List (FV × FV)) (v : FV), ps.Perm qs → passElement ps v = passElement qs v)
  ∧ (let x (n : Int) (m : Nat) : FV := .fin false m n
     (passElement [(x 12 1, x 12 1), (x 0 1, x 0 1), (.fin true 1 12, x 12 1), (x (-15) 1, x (-15) 1)] (x 0 0)).1 = 0x3F800000)
  ∧ (∀ (s : State) (bid : Nat) (b : Block) (st : Stream) (e : StreamEntry),
    let u := s.startAdder bid
    u.block bid = some b → b.stream = some st → st.entries.find? StreamEntry.adding = some e →
    (∀ r n, e.op = some (.macz r n) → exec (.vaultAdderComplete bid) s = .next
      (((zeroVault u (b.core / 4) r.toNat n.toNat 384).onStream bid fun st => st.dropEntry e.id).settleStream bid))
    ∧ (∀ d a t mode k v, e.op = some (.mscl d a t mode) → u.tileOf bid t.toNat = some (k, v) →
      e.map.row + e.map.m ≤ 1024 → e.map.n ≤ 384 → (∀ f ∈ st.entries, ∀ h, f.op.bind mmaOf = some h → passesOf h f.map ≠ 0) →
      ∃ x, exec (.vaultAdderComplete bid) s = .next x ∧ x.mem = s.mem
        ∧ ∀ i j, i < e.map.m → j < e.map.n →
          let w (r q : Nat) : FV := fp32.value (u.element b v r q)
          let scale := match mode with | .row => w 0 i | .col => w 0 j | .rc => (FV.mul (w 0 i) (w 1 j)).1
          x.vaultWord (b.core / 4) (e.map.row + i) j = (out32 .rne false (FV.add .rne
            (FV.mul (fp32.value (s.vaultWord (b.core / 4) (e.map2.row + i) j).toNat) scale).1
            (fp32.value (s.vaultWord (b.core / 4) (e.map.row + i) j).toNat)).1).1)))

/-! Rings, launches and the events of paths. -/

/-- From R262, R263, R264, R269, R282: what the scheduler does with each kind of entry at a ring's head; and CQDESC, CQNOT, CQSTAT and
CQDROP as the host writes or reads them. That an invalid entry and a misaligned wait stop the ring with cause 0x01, and a wait whose word
faults with 0x0A, is log entry 30: R269 lists no cause for them. -/
def Obligations.CommandRings : Prop :=
  (∀ (s : State) (n a : Nat) (e : List Byte), n < 8 →
    let u := s.settleRing n
    u.ringHead n = .entry a e →
    (4 ≤ entryOp e → exec (.invalidRingEntry n) s = .next (u.stopRing n 0x07 a .skip))
    ∧ (entryBad e = true →
      (entryOp e = 0 → exec (.ringNop n) s = .next (u.stopRing n 0x01 a .skip))
      ∧ (entryOp e = 1 → exec (.ringLaunch n) s = .next (u.stopRing n 0x01 a .skip))
      ∧ (entryOp e = 2 → exec (.ringWait n) s = .next (u.stopRing n 0x01 a .skip))
      ∧ (entryOp e = 3 → exec (.ringFrame n) s = .next (u.stopRing n 0x01 a .skip)))
    ∧ (entryBad e = false →
      (entryOp e = 0 → exec (.ringNop n) s = .next (u.ringAdvance n))
      ∧ (entryOp e = 3 → exec (.ringFrame n) s = .next
        (if u.frameWaits (entryGraph e) = true then u else (u.startFrame (entryGraph e)).ringAdvance n))
      ∧ (entryOp e = 2 → entryAddr e % 8 ≠ 0 → exec (.ringWait n) s = .next (u.stopRing n 0x01 a .skip))
      ∧ (entryOp e = 2 → entryAddr e % 8 = 0 → u.devRead (entryAddr e) 8 = .fault →
        exec (.ringWait n) s = .next (u.stopRing n 0x0A a .skip))
      ∧ (entryOp e = 2 → entryAddr e % 8 = 0 → u.devRead (entryAddr e) 8 ≠ .fault →
        exec (.ringWait n) s = .next (u.setRing n { u.ring n with waiting := true }))
      ∧ (∀ v, entryOp e = 2 → (s.ring n).waiting = true → u.devRead (entryAddr e) 8 = .ok v →
        exec (.ringWaitComplete n) s = .next (if entryValue e ≤ v then u.ringAdvance n else u))
      ∧ (entryOp e = 1 → exec (.ringLaunch n) s = .next (u.launchEntry n a (entryAddr e)))))
  ∧ (∀ (s : State) (n cause addr : Nat) (r : ResumeAs), n < 8 → (s.settleRing n).ringHead n = .stop cause addr r →
    exec (.ringNop n) s = .next ((s.settleRing n).stopRing n cause addr r)
      ∧ exec (.ringLaunch n) s = .next ((s.settleRing n).stopRing n cause addr r))
  ∧ (∀ (s : State) (n : Nat), (s.ring n).stp = false → (s.ring n).owed = none → (s.ring n).resume ≠ .skip → s.settleRing n = s)
  ∧ (∀ (s : State) (n : Nat) (d : RingDesc), n < 8 → s.readRing s.reachDev true (s.ring n).desc = .ok d →
    s.ringAdvance n = (((s.setRing n { s.ring n with waiting := false }).writeNum (d.loc.plus 0x10) 4 (d.head + 1)).dramTouch (d.loc.span 32)).touchDev
      (d.entryAddr d.head) 32)
  ∧ (∀ (s : State) (n cause addr : Nat) (r : ResumeAs),
    let t := s.stopRing n cause addr r
    t.ring n = { s.ring n with stp := true, cause := cause, err := addr, resume := r } ∧ t.irqs = s.irqs ++ [.ringStopped n]
      ∧ t.mem = s.mem ∧ t.run = s.run ∧ t.launches = s.launches)
  ∧ (∀ (s : State) (n addr : Nat), n < 8 → s.boot.stopped = false → ∃ t, exec (.cqdescWrite n addr) s = .next t ∧ (s.dev.hotbase = 0 → t.mem = s.mem) ∧ t.run = s.run
      ∧ (t.ring n).desc = addr % 2 ^ 49 / 32 * 32 ∧ (t.ring n).waiting = false)
  ∧ (∀ (s : State) (n : Nat) (tail : Word), n < 8 →
    exec (.cqnotWrite n tail true) s = .next { s with dev := { s.dev with cqdrop := min (s.dev.cqdrop + 1) 0xFFFFFFFF } }
      ∧ ∃ t, exec (.cqnotWrite n tail false) s = .next t ∧ (t.ring n).notTail = tail ∧ (s.dev.hotbase = 0 → t.mem = s.mem) ∧ t.run = s.run ∧ t.launches = s.launches)
  ∧ (∀ (s : State) (n : Nat), (s.ring n).stp = true → (s.ring n).resume = .next →
    exec (.cqstatResume n) s = .next (s.setRing n { s.ring n with stp := false }))
  ∧ (∀ (s : State) (n : Nat), (s.ring n).stp = true → (s.ring n).resume = .skip →
    let u := s.setRing n { s.ring n with stp := false }
    exec (.cqstatResume n) s = .next (u.settleRing n)
      ∧ (n < 8 → (u.ring n).desc ≠ 0 → u.devWaits true (u.ring n).desc 32 = false → (u.ring n).owed = none →
        u.settleRing n = (u.setRing n { u.ring n with resume := .next }).ringAdvance n))
  ∧ (∀ s : State, ∃ t, exec .cqdropRead s = .next t ∧ numOf t.hostData = s.dev.cqdrop % 2 ^ 32 ∧ t.dev = { s.dev with cqdrop := 0 } ∧ t.mem = s.mem
      ∧ t.run = s.run)

/-- From R146, R265 to R272, R281, R283: a launch record's acceptance, the counts that it reads late, and the expiry of a class's budget. -/
def Obligations.LaunchAcceptance : Prop :=
  (∀ (s : State) (n a addr : Nat) (r : List Byte), addr % 128 = 0 →
    (s.devWaits false addr 256 = true → s.launchEntry n a addr = s)
    ∧ (s.devWaits false addr 256 = false → s.devLines addr 2 = none → s.launchEntry n a addr = s.stopRing n 0x0A a .skip)
    ∧ (s.devWaits false addr 256 = false → s.devLines addr 2 = some r →
      -- the record's lines have been read
      let u := s.touchDev addr 256
      let l := u.newLaunch n a r
      (∀ cause, l.check addr = some cause → s.launchEntry n a addr = u.stopRing n cause a .skip)
      ∧ (l.check addr = none → (l.indirect = false ∨ l.pbmap = 0) →
        (l.readCounts u l.levels [] = .fault → s.launchEntry n a addr = u.stopRing n 0x0A a .skip)
        ∧ (l.readCounts u l.levels [] = .wait → s.launchEntry n a addr = u)
        ∧ (∀ cs, l.readCounts u l.levels [] = .ok cs →
          let m := l.withCounts cs
          (∀ cause, m.checkCount = some cause → s.launchEntry n a addr = u.stopRing n cause a .skip)
          ∧ (m.checkCount = none → u.acceptWaits m = true → s.launchEntry n a addr = u)
          ∧ (m.checkCount = none → u.acceptWaits m = false →
            let t : State := ({ u with launches := u.launches ++ [m] } : State).openBitmap m.id
            s.launchEntry n a addr = (if m.known = true ∧ m.blocks = 0 ∧ m.pbmap = 0 then t.finishLaunch m else t.deferLate m).ringAdvance n)))
      ∧ (l.check addr = none → l.indirect = true → l.pbmap ≠ 0 → u.acceptWaits l = false →
        s.launchEntry n a addr = ((({ u with launches := u.launches ++ [l] } : State).openBitmap l.id).deferLate l).ringAdvance n)))
  ∧ (∀ (s : State) (a n : Nat), s.dev.hotbase = 0 → s.touchDev a n = s)
  ∧ (∀ (s : State) (n a addr : Nat), addr % 128 ≠ 0 → s.launchEntry n a addr = s.stopRing n 0x01 a .skip)
  ∧ (∀ (s : State) (n a : Nat), 8 ≤ n → s.ringHead n = .kicked a → exec (.ringLaunch n) s = .next (s.launchEntry n a a))
  ∧ (∀ (l : Launch) (addr : Nat), l.check addr = none →
      addr % 128 = 0 ∧ l.entryPc % 4 = 0 ∧ l.kind ≠ 3 ∧ 3 ≤ l.nlev ∧ l.nlev ≤ 8 ∧ l.levelCount 0 ≤ 96 ∧ l.levelCount 1 ≤ 32
        ∧ 8 ≤ l.regs ∧ l.regs ≤ 128 ∧ l.regs % 8 = 0 ∧ l.tiles ≤ 128 ∧ l.scratch ≤ 7 ∧ l.replay ≤ 256 ∧ (l.levelCount 1 + 3) / 4 * l.regs ≤ 512
        ∧ (l.pbmap = 0 → l.width = 0) ∧ (l.pbmap ≠ 0 → 1 ≤ l.width ∧ l.width ≤ 65536)
        ∧ (l.pixel = false → l.proot = 0 ∧ l.porg = 0 ∧ l.psize = 0))
  ∧ (∀ (l : Launch) (cs : List Nat), l.pixel = false → (l.withCounts cs).known = true ∧ (l.withCounts cs).blocks = (cs.drop 2).foldl (· * ·) 1)
  ∧ (∀ (s : State) (id : Nat) (l : Launch), s.launchBy id = some l → l.counted = false →
    (s.producerDone l = .no → exec (.indirectCountRead id) s = .next s)
    ∧ (s.producerDone l = .fault → exec (.indirectCountRead id) s = .next (s.rejectLate l 0x0A))
    ∧ (s.producerDone l = .yes →
      (l.readCounts s l.levels [] = .fault → exec (.indirectCountRead id) s = .next (s.rejectLate l 0x0A))
      ∧ ∀ cs, l.readCounts s l.levels [] = .ok cs →
        let m := l.withCounts cs
        (∀ cause, m.checkCount = some cause → exec (.indirectCountRead id) s = .next (s.rejectLate l cause))
        ∧ (m.checkCount = none → exec (.indirectCountRead id) s = .next
          (if s.launchWaits m (if m.known then m.blocks else 0) = true then s
           else ((s.onLaunch id fun _ => m).openBitmap id).settleLaunch id))))
  ∧ (∀ (s : State) (g k : Nat), k < 4 → g < 65536 →
    (s.frameWaits g = true → exec (.budgetExpiry g k) s = .next s)
    ∧ ((s.pastBudget g k = false ∨ s.expiryDone g k = true) → exec (.budgetExpiry g k) s = .next s)
    ∧ (∀ flags, s.frameWaits g = false → s.pastBudget g k = true → s.expiryDone g k = false → s.deferredBy g k = [] →
      s.devRead (s.frameAddr g + 0x24) 4 = .ok flags →
      exec (.budgetExpiry g k) s = .next (s.devWrite (s.frameAddr g + 0x24) 4 (flags ||| 2 ^ k)))
    ∧ (∀ id, s.frameWaits g = false → s.pastBudget g k = true → s.expiryDone g k = false → id ∈ s.deferredBy g k →
      ∃ t, exec (.budgetExpiry g k) s = .next t ∧ t.run = s.run ∧ ∀ l ∈ t.launches, l.id = id → l.deferred = true))
  ∧ (∀ (s : State) (l m : Launch), l.gv = true → s.pastBudget l.graph l.cls = true → m ∈ (s.deferLate l).launches → m.id = l.id →
    m.deferred = true)

/-- From R90, R197, R256, R257, R267, R270, R273, R303: the dispatch of a ready block, the wave that it starts, the completion of a block, and
wpred and sucstart. -/
def Obligations.DispatchAndCompletion : Prop :=
  (∀ (s : State) (id i core : Nat) (l : Launch) (cs : List Nat), s.launchBy id = some l → s.run.halted = false → s.launchOpen l = true →
    l.persistent = false → (l.pixel = false ∨ l.known = true ∨ s.walkBlocks l ≠ some l.placed.length) → s.mayDispatch l i ≠ .fault →
    s.launchWaits l (if l.pixel then i + 1 else 0) = false → (∀ m ∈ s.launches, s.goesBefore m l = true → s.launchReady m = none) →
    s.launchReady l = some i → s.choices l i = core :: cs →
    exec (.blockDispatch id i) s = .next ((s.clearBit l i).placeOn l i core (s.blockWaves l i)))
  ∧ (∀ (s : State) (l : Launch) (i : Nat), l.pixel = false → s.clearBit l i = s)
  ∧ (∀ (s : State) (l : Launch) (bid i w wid : Nat) (start : Option StartRecord), start = none → wid < 4096 → 0 < l.count 0 → l.count 0 ≤ 96 →
    ∃ (v : Wave) (p : Path), (s.startWave l bid i w wid start).wave wid = some v ∧ (s.startWave l bid i w wid start).path (4 * wid) = some p
      ∧ v.block = bid ∧ v.index = w ∧ v.role = l.role w ∧ v.regCount = l.regs ∧ v.tvec = BitVec.ofNat 64 s.dev.tvec ∧ v.pin = none
      ∧ (∀ x, x < 96 → v.live.getLsbD x = decide (x < l.count 0)) ∧ v.lent = 0
      ∧ p.pc = l.entryPc ∧ p.mask = v.live ∧ p.flags = 0 ∧ p.sys = false ∧ p.token = none ∧ p.loan = none ∧ p.due = [] ∧ p.st = .ready
      ∧ (p.region.isSome = (l.pixel || decide (0 < l.replay))))
  ∧ (∀ (s : State) (bid : Nat) (b : Block) (l : Launch), s.block bid = some b → s.blockOver bid b = true →
    (s.launchOf b).any (fun l => s.launchWaits l (b.index + 1)) = false → (s.removeBlock bid).launchBy b.launch = some l →
    exec (.blockComplete bid) s = .next ((((( s.removeBlock bid).onLaunch l.id fun m => { m with completed := m.completed ++ [b.index] }).setBit
        l b.index).putHeader l.id).settleLaunch l.id)
      ∧ (s.removeBlock bid).block bid = none
      ∧ (∀ e ∈ (s.removeBlock bid).run.tiles, e.1 / 128 = bid / 32 → e.2.own ≠ bid % 32))
  ∧ (∀ (s : State) (l : Launch), l.signal = 0 → s.finishLaunch l =
      ((if l.irq then s.interrupt (.launchDone l.id) else s).dropLaunch l.id))
  ∧ (∀ (s : State) (l : Launch) (v : Nat), l.signal ≠ 0 → s.devRead l.signal 8 = .ok v →
      (s.finishLaunch l).mem = (s.devWrite l.signal 8 (v + 1)).mem ∧ (l.irq = true → .launchDone l.id ∈ (s.finishLaunch l).irqs)
        ∧ ∀ m ∈ (s.finishLaunch l).launches, m.id ≠ l.id)
  ∧ (∀ (s : State) (c : Ctx) (b : Block) (l : Launch), s.blockOf c.pid = some b →
    (ready .wpred s c = true → s.launchOf b = some l → exec .wpred s = .next
      (if b.wpredDone = true ∨ s.namedDone l b.index = .yes then (s.onBlock (s.bidOf c.pid) fun b => { b with wpredDone := true }).retire c c.nextPc none
       else s.waitAt c.pid true .hold))
    ∧ (ready .sucstart s c = true → b.sucstart = true → exec .sucstart s = .next (s.retire c c.nextPc none))
    ∧ (ready .sucstart s c = true → b.sucstart = false → (s.launchOf b).any (fun l => s.launchWaits l 0) = true →
      exec .sucstart s = .next (s.waitAt c.pid false .translation))
    ∧ (ready .sucstart s c = true → b.sucstart = false → (s.launchOf b).any (fun l => s.launchWaits l 0) = false → exec .sucstart s = .next
      ((((s.onBlock (s.bidOf c.pid) fun b => { b with sucstart := true }).onLaunch b.launch fun l =>
        { l with sucstarted := l.sucstarted ++ [b.index] }).putHeader b.launch).retire c c.nextPc none)))
  ∧ (∀ (l : Launch) (i b : Nat) (k : Nat),
    let base := (BitVec.ofNat 32 (l.num 0xC8 4)).toInt * i + (BitVec.ofNat 32 (l.num 0xCC 4)).toInt
    (((l.names i b).1 ≤ k ∧ k < (l.names i b).1 + (l.names i b).2) ↔ (base ≤ k ∧ (k : Int) < base + l.width ∧ k < b)))

/-- From R11, R18 to R24, R307: hint words join the bundle; a word that is no instruction and a fetch that faults trap; a due trap
is taken at the boundary. From R23, R89, R211, R212, R221, R306: the events of a path that wait for time: its age, a rejoin
deadlock, a forced merge, the end of a sleep and of a stall, and the wait limit. -/
def Obligations.BundlesAndPathEvents : Prop :=
  (∀ (s : State) (pid : Nat) (p : Path), s.cur = .path pid → s.path pid = some p → s.mayIssue pid p = true →
    let joined (w : Word) : State :=
      let q : Path := { p with
        hints := p.hints ++ [⟨p.pc, w⟩], pc := (p.pc + 4) % 2 ^ 49, readyAt := s.icc (coreOf pid) + 1, st := .ready, wait := .none }
      let u := (s.setPath pid q).issued pid
      if s.atRejoin pid p ((p.pc + 4) % 2 ^ 49) then
        (match p.hints with
         | h :: _ => (u.takeTrap pid 0x01 h.addr (h.word.zeroExtend 64) none).unstep pid
         | [] => (u.takeTrap pid 0x01 p.pc (w.zeroExtend 64) none).unstep pid)
      else u
    (p.nextDue = none →
      (∀ i : BitVec 24, exec (.pfx i) s = .next (joined (BitVec.ofNat 32 (encodeWord (.pfx i)))))
      ∧ (∀ m, exec (.mod m) s = .next (joined (BitVec.ofNat 32 (encodeWord (.mod m)))))
      ∧ (∀ y u n, exec (.sch y u n) s = .next (joined (BitVec.ofNat 32 (encodeWord (.sch y u n)))))
      ∧ (∀ w : Word, w.extractLsb' 26 6 ≠ 0x3F → p.hints = [] → exec (.notAnInstruction (.word w)) s =
          .next ((s.takeTrap pid 0x01 p.pc (w.zeroExtend 64) none).unstep pid))
      ∧ (∀ w : Word, w.extractLsb' 26 6 = 0x3F → exec (.notAnInstruction (.word w)) s = .next (joined w))
      ∧ (∀ cause addr, p.sys = false → exec (.notAnInstruction (.fetchFault cause addr)) s =
          .next ((s.takeTrap pid cause p.bundleStart (BitVec.ofNat 64 addr) none).unstep pid))
      ∧ (∀ cause addr w, isHelper pid = false → p.sys = true → s.wave (pid / 4) = some w → codeAddr w.tvec = p.pc →
          exec (.notAnInstruction (.fetchFault cause addr)) s = .next (s.stopWave pid cause)))
    ∧ (∀ d, p.nextDue = some d → p.hints = [] →
      exec .deferredTrap s = .next ((s.setPath pid { p with due := p.due.erase d }).takeTrap pid d.cause p.pc d.eaux d.lane))
    ∧ (∀ d ds, p.due = d :: ds → d.cause ≠ 0x09 ∨ p.helperTrap = 0 → p.nextDue = some d)
    ∧ (p.helperTrap ≠ 0 → (∀ d ∈ p.due, d.cause = 0x09) → exec .deferredTrap s = .next s))
  ∧ ((∀ (s : State) (pid : Nat) (p : Path), s.path pid = some p →
    (p.st = .ready → p.readyAt + 256 ≤ s.icc (coreOf pid) →
      ((s.pipePaths (coreOf pid) (s.issueWave pid % 4)).find? fun e => e.2.st == .ready).map (·.1) = some pid →
      exec (.pathAgeLimit pid) s = .next { s with cur := .path pid })
    ∧ (0 < p.sleep → s.icc (coreOf pid) < p.readyAt + p.sleep → exec (.sleepExpire pid) s = .next s)
    ∧ (0 < p.sleep → p.readyAt + p.sleep ≤ s.icc (coreOf pid) → p.hold = false → s.run.running = true → s.run.halted = false →
      s.clusterStopped (clusterOf (coreOf pid)) = false → p.st = .waiting →
      exec (.sleepExpire pid) s = .next (s.setPath pid { p with sleep := 0, st := .ready, readyAt := p.readyAt + p.sleep }))
    ∧ (p.st = .waiting → p.wait = .hold → p.hints ≠ [] → exec (.schStallExpire pid) s = .next
      (if p.issuedAt + (bundleSch p.hints).2 ≤ s.icc (coreOf pid) then
          s.setPath pid { p with st := .ready, wait := .none, readyAt := p.issuedAt + (bundleSch p.hints).2 } else s))
    ∧ (∀ t0, p.waitFrom = some t0 → p.st = .waiting →
      let lim := (s.core (coreOf pid)).wlim.toNat
      ((lim = 0 ∨ s.clk - t0 ≤ lim * 65536) → exec (.waitLimit pid) s = .next s)
      ∧ (lim ≠ 0 → lim * 65536 < s.clk - t0 → s.clusterStopped (clusterOf (coreOf pid)) = false →
        s.mayIssue pid { p with wait := .none } = true →
        exec (.waitLimit pid) s = .next ((s.takeTrap pid 0x12 p.bundleStart (BitVec.ofNat 64 ((s.clk - t0) / 65536)) none).unstep pid))))
  ∧ (∀ (s : State) (wid pid id : Nat) (p : Path), s.pathsOf wid = [(pid, p)] → s.path pid = some p → p.st = .parkedRejoin → p.token = some id → p.hold = false →
    p.readyAt + 64 ≤ s.icc (coreOf pid) →
    (s.tokensOf wid).any (s.completes wid) = false → s.run.running = true → s.run.halted = false →
    s.clusterStopped (clusterOf (coreOf pid)) = false →
    exec (.rejoinDeadlock wid) s = .next ((s.setPath pid { p with parkedTrap := some (id, if p.sys then 2 else 1) }).takeTrap pid 0x0A p.pc
      (BitVec.ofNat 64 (2 ^ (pid % 4) + id * 256)) none))
  ∧ (∀ (s : State) (pid : Nat) (p : Path) (x : Token), s.path pid = some p → isHelper pid = false → s.innermost pid p = some x →
    (p.st = .parkedRejoin → exec (.pathForceMerge pid) s = .next ((s.setTokens (pid / 4) (replaceToken (s.tokensOf (pid / 4))
      { x with forced := true, awaits := false })).completeTokens (pid / 4) 65))
    ∧ (p.st ≠ .parkedRejoin → p.parkedTrap.map (·.1) = some x.id → x.forced = false →
      exec (.pathForceMerge pid) s = .next ((s.setTokens (pid / 4) (replaceToken (s.tokensOf (pid / 4))
        { x with forced := true, awaits := true })).completeTokens (pid / 4) 65))
    ∧ (p.st ≠ .parkedRejoin → p.parkedTrap.map (·.1) ≠ some x.id → exec (.pathForceMerge pid) s = .next s)))

/-! Clearing engines. -/

/-- From R183, R189, R190, R191, R192: the control instructions of a chunk program: setd, addd, loop, brd, nop, halt, wait.ops, wait.ge, sig
and kick. That sig's own faults come before it waits is log entry 67, which operations a fault cancels log entry 128, the PC modulo 4096 log
entry 129, a signal word read as it stands log entry 130, the wait for stores that the die is to see log entry 10. -/
def Obligations.ChunkControl : Prop :=
  ∀ (s : State) (cid : Nat) (c : Clear), c = s.clear cid → clearTurn s cid → c.pc < 2 ^ 32 →
    let set (d : BitVec 4) (v : Word) : State := s.onClear cid fun x => { x with d := tset x.d d.toNat v }
    let target (o : BitVec 21) : Nat := (BitVec.ofNat 32 c.pc + o.signExtend 32).toNat
    let held : State := s.onClear cid fun x => x.holdAt s.clk
    (∀ (d : BitVec 4) (i : BitVec 24), exec (.setd d i) s = .next ((set d (i.signExtend 32)).chunkNext cid))
    ∧ (∀ (d a : BitVec 4) (i : BitVec 20), exec (.addd d a i) s = .next ((set d (c.reg a + i.signExtend 32)).chunkNext cid))
    ∧ (∀ (d : BitVec 4) (o : BitVec 21), exec (.loop d o) s = .next
      (if c.reg d = 0 then s.chunkNext cid
       else if c.reg d = 1 then (set d 0).chunkNext cid
       else (set d (c.reg d - 1)).chunkJump cid (target o)))
    ∧ (∀ (d : BitVec 4) (k : BrdCond) (o : BitVec 21),
      let taken := match k with
        | .z => decide (c.reg d = 0)
        | .nz => decide (c.reg d ≠ 0)
        | .lt => (c.reg d).slt 0
        | .ge => !(c.reg d).slt 0
      exec (.brd d k o) s = .next (if taken then s.chunkJump cid (target o) else s.chunkNext cid))
    ∧ exec .drafelNop s = .next (s.chunkNext cid)
    ∧ (c.ops ≠ [] → exec .drafelHalt s = .next held)
    ∧ (c.ops = [] → ∃ t, exec .drafelHalt s = .next t ∧ (t.clear cid).st = .halted ∧ (t.clear cid).statPc = c.pc % 4096 ∧ (t.clear cid).counters = []
      ∧ (t.clear cid).irq = (c.irq || c.hie) ∧ t.mem = s.mem ∧ t.run = s.run
      ∧ t.flits = s.flits ++ c.peers.map fun p => controlFlit .close (endpointOf cid) p.2 0)
    ∧ (∀ n : BitVec 6, exec (.waitOps n) s = .next (if c.ops.length ≤ n.toNat then s.chunkNext cid else held))
    ∧ (∀ b d v : BitVec 4,
      (c.signalAddr b d = none → exec (.waitGe b d v) s = .next (s.clearFault cid 0x02 c.pc)
        ∧ exec (.sig b d v) s = .next (s.clearFault cid 0x02 c.pc))
      ∧ (∀ a l, c.signalAddr b d = some a → s.reachClear c false a = .at_ l →
        exec (.waitGe b d v) s = .next
          (if s.clearWaits cid (l.span 8) = false ∧ (c.reg v).toNat ≤ s.readNum l 8 then (s.dramTouch [l]).chunkNext cid else held))
      ∧ (∀ a, c.signalAddr b d = some a → s.reachClear c false a = .absent →
        exec (.waitGe b d v) s = .next (if c.ops = [] then s.parkProgram cid else held))
      ∧ (∀ a, c.signalAddr b d = some a → s.reachClear c false a = .wait → exec (.waitGe b d v) s = .next held)
      ∧ (∀ a, c.signalAddr b d = some a → c.writable b = false → exec (.sig b d v) s = .next (s.clearFault cid 0x04 c.pc))
      ∧ (∀ a l, c.signalAddr b d = some a → c.writable b = true → s.reachClear c true a = .at_ l → c.ops ≠ [] →
        exec (.sig b d v) s = .next held)
      ∧ (∀ a l, c.signalAddr b d = some a → c.writable b = true → s.reachClear c true a = .at_ l → c.ops = [] →
        exec (.sig b d v) s = .next
          (if s.clearWaits cid (l.span 8) = true then s else (s.writeClear cid a (l.span 8) (bytesOf 8 ((BitVec.ofNat 64 (s.readNum l 8) + (c.reg v).zeroExtend 64).toNat))).chunkNext cid)))
    ∧ (∀ (k : BitVec 2) (dc b x ch : BitVec 4) (u : Buffer), tget c.buffers b.toNat = some u →
      let i := (c.reg x).toNat
      (u.len < 256 * i + 256 → exec (.kick k dc b x ch) s = .next (s.clearFault cid 0x02 c.pc))
      ∧ (256 * i + 256 ≤ u.len → (tget c.counters k.toNat).isSome = true → exec (.kick k dc b x ch) s = .next (s.clearFault cid 0x06 c.pc))
      ∧ (256 * i + 256 ≤ u.len → tget c.counters k.toNat = none → exec (.kick k dc b x ch) s = .next
        (if c.reg dc = 0 then (s.enqueueKick cid (u.base + 256 * i)).chunkNext cid
         else (s.onClear cid fun x => { x with counters := tset x.counters k.toNat ⟨c.reg dc, ch.toNat, u.base + 256 * i⟩ }).chunkNext cid)))
    ∧ (∀ w, exec (.notADrafelInstruction (.word w)) s = .next (s.clearFault cid 0x01 c.pc))
    ∧ exec (.notADrafelInstruction .outside) s = .next (s.clearFault cid 0x09 c.pc)
    ∧ (∀ cause pc, ∃ t, s.clearFault cid cause pc = t ∧ (t.clear cid).st = .faulted ∧ (t.clear cid).cause = cause ∧ (t.clear cid).statPc = pc % 4096
      ∧ (t.clear cid).counters = c.counters ∧ (t.clear cid).ops = c.ops.filter (fun o => !o.idle) ∧ (t.clear cid).irq = true
      ∧ .clearing cid ∈ t.irqs ∧ t.mem = s.mem)

/-- From R185, R186, R187, R188: a data instruction checks its operands in their order, waits for room and for what it overlaps, and stands
in the table of outstanding operations with the numbers of its chunks; a copy, a recv and a red whose chunks have all arrived write their
results, of which a red's elements are the reductions of its source's and its shares', and a recv and a red count their chunks for kick; one
that meets uncorrectable data takes fault 0x08. The wait for what else owns the bytes is log entry 13, for stores that the die is to see log
entry 10, and a destination in another module's page is complete when its flits leave, log entry 68. -/
def Obligations.ChunkOperations : Prop :=
  (∀ (s : State) (cid : Nat) (c : Clear), c = s.clear cid → clearTurn s cid →
    let inside (b d : BitVec 4) : Prop := (c.chunkAddr b d).isSome = true
    let mapped (p : Nat) : Prop := (tget c.peers p).isSome = true
    let fault (cause : Nat) : State := s.clearFault cid cause c.pc
    let free (va dva : Nat) (reads writes : Bool) : Prop :=
      c.ops.length < 64 ∧ ∀ o ∈ c.ops, o.clashes c.chunk va dva reads writes = false
    let added (u : Clear) (k : ChunkKind) (src dst : List Loc) (va dva : Nat) : State :=
      (({ s with nextOp := s.nextOp + 1 } : State).setClear cid { u with
        nextOp := c.nextOp + 1, ops := c.ops ++ [⟨c.nextOp, s.nextOp, c.pc, k, src, dst, va, dva, false, [], 0⟩] }).chunkNext cid
    (∀ p b d ch : BitVec 4,
      (¬ inside b d → exec (.send p b d ch) s = .next (fault 0x02) ∧ exec (.recv p b d ch) s = .next (fault 0x02))
      ∧ (inside b d → ¬ mapped p.toNat → exec (.send p b d ch) s = .next (fault 0x03) ∧ exec (.recv p b d ch) s = .next (fault 0x03))
      ∧ (inside b d → mapped p.toNat → c.writable b = false → exec (.recv p b d ch) s = .next (fault 0x04))
      ∧ (∀ a ls e, c.chunkAddr b d = some a → tget c.peers p.toNat = some e → s.spanClear c false a (c.chunk / 128) = .ok ls →
        free a 0 true false →
        let n := tgetD 0 c.sent (pairKey e ch.toNat)
        exec (.send p b d ch) s =
          .next (added { c with sent := tset c.sent (pairKey e ch.toNat) (n + 1) } (.send p.toNat ch.toNat n) ls [] a 0))
      ∧ (∀ a ls e, c.chunkAddr b d = some a → tget c.peers p.toNat = some e → c.writable b = true →
        s.spanClear c true a (c.chunk / 128) = .ok ls → free 0 a false true → s.clearWaits cid ls = false →
        let n := tgetD 0 c.used (pairKey e ch.toNat)
        exec (.recv p b d ch) s =
          .next (added { c with used := tset c.used (pairKey e ch.toNat) (n + 1) } (.recv p.toNat ch.toNat n) [] ls 0 a)))
    ∧ (∀ (b d b2 d2 : BitVec 4) (a a2 : Nat) (ls ls2 : List Loc), c.chunkAddr b d = some a → c.chunkAddr b2 d2 = some a2 → c.writable b = true →
      s.spanClear c false a2 (c.chunk / 128) = .ok ls2 → s.spanClear c true a (c.chunk / 128) = .ok ls → free a2 a true true →
      s.clearWaits cid ls = false → exec (.drafelCopy b d b2 d2) s = .next (added c .copy ls2 ls a2 a))
    ∧ (∀ (op : ChunkOp) (rop : Nat) (m b d b2 d2 ch : BitVec 4) (a a2 : Nat) (ls ls2 : List Loc),
      reduction op = some (rop, m, (b, d), (b2, d2), ch) → c.chunkAddr b d = some a → c.chunkAddr b2 d2 = some a2 → c.writable b = true →
      (∀ p ∈ maskPeers (c.reg m), mapped p) →
      s.spanClear c false a2 (c.chunk / 128) = .ok ls2 → s.spanClear c true a (c.chunk / 128) = .ok ls → free a2 a true true →
      s.clearWaits cid ls = false →
      -- each peer of the mask, in ascending number, gives the next chunk of its pairing
      let key (p : Nat) : Nat := pairKey ((tget c.peers p).getD ⟨0, 0, 0⟩) ch.toNat
      ∃ u shares, exec op.toInstr s = .next (added u (.red shares ch.toNat rop) ls2 ls a2 a) ∧ shares.map (·.1) = maskPeers (c.reg m)
        ∧ (∀ i p n, shares[i]? = some (p, n) →
          n = tgetD 0 c.used (key p) + ((maskPeers (c.reg m)).take i).countP fun q => key q == key p)
        ∧ (∀ k, tgetD 0 u.used k = tgetD 0 c.used k + (maskPeers (c.reg m)).countP fun q => key q == k)
        ∧ u = { c with used := u.used })
    ∧ (∀ (op : ChunkOp) (rop : Nat) (m b d b2 d2 ch : BitVec 4), reduction op = some (rop, m, (b, d), (b2, d2), ch) →
      ((¬ inside b d ∨ ¬ inside b2 d2) → exec op.toInstr s = .next (fault 0x02))
      ∧ (inside b d → inside b2 d2 → (∃ p ∈ maskPeers (c.reg m), ¬ mapped p) → exec op.toInstr s = .next (fault 0x03))
      ∧ (inside b d → inside b2 d2 → (∀ p ∈ maskPeers (c.reg m), mapped p) → c.writable b = false → exec op.toInstr s = .next (fault 0x04))))
  ∧ (∀ (s : State) (cid n : Nat) (o : ChunkOperation), s.findChunk cid n = some o → s.chunkWaits cid o (o.src ++ o.dst) = false →
    let c := s.clear cid
    let bytes := o.src.map fun l => (s.readLoc l).getD 0
    let bad := s.sourceBad o.src = true ∨ o.dst.any s.locBad = true
    (o.kind = .copy → exec (.localDataOperationComplete cid n) s = .next
      (if bad then s.chunkUe cid o else ((s.dramTouch o.src).writeClear cid o.dstVa o.dst bytes).dropChunk cid o.id))
    ∧ (∀ p ch k, o.kind = .recv p ch k → (tgetD [] o.got p).length = c.chunk → exec (.localDataOperationComplete cid n) s = .next
      (if bad then s.chunkUe cid o else ((s.writeClear cid o.dstVa o.dst (tgetD [] o.got p)).dropChunk cid o.id).chunksDone cid ch 1))
    ∧ (∀ shares ch rop, o.kind = .red shares ch rop → (∀ p ∈ shares, (tgetD [] o.got p.1).length = c.chunk) →
      exec (.localDataOperationComplete cid n) s = .next
        (if bad then s.chunkUe cid o
         else (((s.dramTouch o.src).writeClear cid o.dstVa o.dst (redBytes rop c.chunk (bytes :: shares.map fun p => tgetD [] o.got p.1))).dropChunk
          cid o.id).chunksDone cid ch shares.length))
    ∧ s.chunkUe cid o = (s.dropChunk cid o.id).clearFault cid 0x08 o.pc)
  ∧ (∀ (rop chunk : Nat) (parts : List (List Byte)), (redBytes rop chunk parts).length = 4 * (chunk / 4)
    ∧ ∀ e b, e < chunk / 4 → b < 4 → (redBytes rop chunk parts)[4 * e + b]?
      = (bytesOf 4 (redElement rop (parts.map fun x => BitVec.ofNat 32 (numOf ((x.drop (4 * e)).take 4)))).toNat)[b]?)
  ∧ (∀ (s : State) (cid va : Nat) (ls : List Loc) (bs : List Byte), Memory.wf s.mem = true →
    (s.dev.hotbase = 0 ∨ ∀ l ∈ ls, ∀ f k, l ≠ .comp f k) →
    Stored s (s.writeClear cid va ls bs) (ls.zip bs) ls ∧ (s.writeClear cid va ls bs).run = s.run)
  ∧ (∀ (x : Word) (vs : List Word),
    (redElement 1 (x :: vs)).toNat = ((x :: vs).map (·.toNat)).sum % 2 ^ 32
    ∧ (∀ j, j < 32 → (redElement 6 (x :: vs)).getLsbD j = (x :: vs).all (·.getLsbD j) ∧ (redElement 7 (x :: vs)).getLsbD j = (x :: vs).any (·.getLsbD j))
    ∧ (∀ y ∈ x :: vs, (redElement 4 (x :: vs)).sle y = true ∧ y.sle (redElement 5 (x :: vs)) = true)
    ∧ redElement 4 (x :: vs) ∈ x :: vs ∧ redElement 5 (x :: vs) ∈ x :: vs
    ∧ redElement 0 (x :: vs) = (binnedSum false (x :: vs)).1
    ∧ (∀ (max : Bool), redElement (if max then 3 else 2) (x :: vs) =
      (vs.map fun w => if isNan32 w then nan32 else w).foldl (fun a b => minmax32 max false a b) (if isNan32 x then nan32 else x)))

/-- From R149, R185, R349, R351, R353: chunks leave when their consumer has issued, arrive flit by flit, are acknowledged and complete; puts
of other modules are performed and acknowledged; PAUSE, RESUME and CLOSE; flits that a link drops or sends again. An ACK acknowledges the
oldest started transfer of its pairing, which is log entry 65; whether a peer of another module has another chunk size is a free value, log
entry 115; control flits of any endpoint are taken, and a retrain holds puts' acknowledgements, which is log entry 32. -/
def Obligations.Flits : Prop :=
  (∀ (s : State) (cid n : Nat) (o : ChunkOperation) (p ch nth : Nat) (e : Endpoint), s.findChunk cid n = some o → o.kind = .send p ch nth →
    o.started = false → (∀ q ∈ (s.clear cid).ops, n ≤ q.id ∨ q.started = true ∨ ∀ k, q.kind ≠ .send p ch k) → tget (s.clear cid).peers p = some e →
    s.chunkWaits cid o o.src = false →
    (cidOf e = none → exec (.sendTransferStart cid n) s = .next
      (if s.drawMismatch e = true then ((({ s with free := s.free + 1 } : State).dropChunk cid n).clearFault cid 0x07 o.pc)
       else ({ s with free := s.free + 1 } : State).startSend cid o e ch nth))
    ∧ (∀ b q x, cidOf e = some b → (s.clear b).consumer (endpointOf cid) ch nth = some (q, x) →
      ((s.clear b).chunk = (s.clear cid).chunk → exec (.sendTransferStart cid n) s = .next (s.startSend cid o e ch nth))
      ∧ ((s.clear b).chunk ≠ (s.clear cid).chunk → exec (.sendTransferStart cid n) s =
        .next ((((s.dropChunk cid n).dropChunk b q.id).clearFault cid 0x07 o.pc).clearFault b 0x07 q.pc)))
    ∧ (∀ b, cidOf e = some b → (s.clear b).consumer (endpointOf cid) ch nth = none → exec (.sendTransferStart cid n) s = .next s))
  ∧ (∀ (s : State) (cid n : Nat) (o : ChunkOperation) (p ch nth : Nat) (e : Endpoint), s.findChunk cid n = some o → o.kind = .recv p ch nth →
    tgetD [] o.got p = [] → tget (s.clear cid).peers p = some e →
    (e.module = Config.here → exec (.sendTransferStart cid n) s = .next s)
    ∧ (e.module ≠ Config.here → exec (.sendTransferStart cid n) s = .next
      (let t : State := { s with free := s.free + 1 }
       if s.drawMismatch e = true then (t.dropChunk cid n).clearFault cid 0x07 o.pc else t)))
  ∧ (∀ (s : State) (cid : Nat) (o : ChunkOperation) (e : Endpoint) (ch nth : Nat), s.sourceBad o.src = false →
    (s.startSend cid o e ch nth).flits = s.flits ++ dataFlits (endpointOf cid) e (s.clear cid).cls ch nth
      (o.src.map fun l => (s.readLoc l).getD 0))
  ∧ (∀ (s t : State) (f : Flit) (cid : Nat), s.takeFlit f = some t → cidOf f.dst = some cid →
    (f.kind = .data → f.clean = true → ∀ o p, (t.clear cid).consumer f.src f.ch f.chunk = some (o, p) →
      ((t.clear cid).chunk ≤ 256 * f.index → exec (.data f) s = .next ((t.dropChunk cid o.id).clearFault cid 0x07 o.pc))
      ∧ (256 * f.index < (t.clear cid).chunk → (tgetD [] o.got p).length = 256 * f.index →
        256 * f.index + (f.payload.take 256).length < (t.clear cid).chunk → f.src.module = f.dst.module →
        exec (.data f) s = .next (t.onChunk cid o.id fun _ => { o with got := tset o.got p (tgetD [] o.got p ++ f.payload.take 256) }))
      ∧ (∀ k, o.kind = .recv p f.ch k → 256 * f.index < (t.clear cid).chunk → (tgetD [] o.got p).length = 256 * f.index →
        256 * f.index + (f.payload.take 256).length = (t.clear cid).chunk → f.src.module = f.dst.module →
        let u : ChunkOperation := { o with got := tset o.got p (tgetD [] o.got p ++ f.payload.take 256) }
        t.chunkWaits cid u (u.src ++ u.dst) = false → exec (.data f) s = .next (((t.onChunk cid o.id fun _ => u).send [controlFlit .ack f.dst f.src f.ch]).finishChunk cid u)))
    ∧ (f.kind = .ack → f.clean = true → ∀ o, (t.clear cid).ops.find? (fun o => o.started && (match o.kind with
        | .send p ch _ => tget (t.clear cid).peers p == some f.src && ch == f.ch
        | _ => false)) = some o → exec (.ack f) s = .next (t.dropChunk cid o.id))
    ∧ ((f.kind = .reserved ∨ f.clean = false) → exec (.reservedTypeFlit f) s = .next t)
    ∧ (f.kind = .data → f.clean = false → exec (.data f) s = .next t))
  ∧ (∀ (s : State) (f : Flit), exec (.flitCrcRetransmit f) s = .next s)
  ∧ (∀ (s : State) (f : Flit), f.kind = .write → f.src.module ≠ Config.here → f.dst.module = Config.here → f.clean = true → f.payload ≠ [] →
    f.fits = true → physValid f.addr = true → physValid (f.addr + f.payload.length - 1) = true → s.linkDown f.src f.dst = false →
    ((Loc.phys f.addr).span f.payload.length).any s.mustWait = false → Memory.wf s.mem = true →
    ∃ t, exec (.write f) s = .next t ∧ Stored s t (((Loc.phys f.addr).span f.payload.length).zip f.payload) ((Loc.phys f.addr).span f.payload.length)
      ∧ t.flits = s.flits ++ [controlFlit .wack f.dst f.src 0] ∧ t.run = s.run)
  ∧ (∀ (s : State) (n piece : Nat) (o : Op) (ps : List (Loc × List Byte)) (left : List Nat) (x : Loc × List Byte), s.findOp n = some o →
    o.kind = .put ps left → piece ∈ left → ps[piece]? = some x → s.pieceHeld (some x) = false → (∀ l ∈ x.1.span x.2.length, s.mustWait l = false) →
    s.mayPerform { o with kind := .put [x] [] } = true → Memory.wf s.mem = true →
    ∃ t, exec (.wack n piece) s = .next t ∧ Stored s t ((x.1.span x.2.length).zip x.2) (x.1.span x.2.length)
      ∧ ((∀ k ∈ left, k = piece) → t.findOp n = none)
      ∧ ((∃ k ∈ left, k ≠ piece) → ∃ q, t.findOp n = some q ∧ q.kind = .put ps (left.filter (· != piece))))
  ∧ (∀ (s t : State) (dst src : Nat), dst < 64 →
    (s.takeFlit (controlFlit .pause (endpointNumbered src) (endpointOf dst) 0) = some t →
      ∃ u, exec (.pause dst src) s = .next u ∧ endpointNumbered src ∈ (u.clear dst).pausedBy ∧ (u.clear dst).timerFrom = none
        ∧ u.mem = s.mem ∧ u.run = s.run)
    ∧ (s.takeFlit (controlFlit .resume (endpointNumbered src) (endpointOf dst) 0) = some t →
      ∃ u, exec (.resume dst src) s = .next u ∧ endpointNumbered src ∉ (u.clear dst).pausedBy ∧ u.mem = s.mem ∧ u.run = s.run)
    ∧ (s.takeFlit (controlFlit .close (endpointNumbered src) (endpointOf dst) 0) = some t →
      ∃ u, exec (.close dst src) s = .next u ∧ endpointNumbered src ∉ (u.clear dst).pausedBy ∧ u.mem = s.mem ∧ u.run = s.run
        ∧ endpointNumbered src ∈ (u.clear dst).closed
        ∧ ∀ p ∈ u.slots, ¬ (p.1 = endpointNumbered src ∧ p.2.1 = endpointOf dst) ∧ ¬ (p.1 = endpointOf dst ∧ p.2.1 = endpointNumbered src)))
  ∧ (∀ f : Flit, f.clean = true → f.kind = .data → f.cls < 4 → f.ch < 16 → f.src.module < 1024 → f.dst.module < 1024 → f.src.die < 4 →
    f.dst.die < 4 → f.src.ctx < 16 → f.dst.ctx < 16 → f.chunk < 2 ^ 32 → f.index < 2 ^ 16 →
    let h := f.header
    h.extractLsb' 0 4 = 1 ∧ h.extractLsb' 4 2 = BitVec.ofNat 2 f.cls ∧ h.extractLsb' 6 2 = 0
      ∧ h.extractLsb' 8 10 = BitVec.ofNat 10 f.dst.module ∧ h.extractLsb' 18 2 = BitVec.ofNat 2 f.dst.die
      ∧ h.extractLsb' 20 4 = BitVec.ofNat 4 f.dst.ctx ∧ h.extractLsb' 24 10 = BitVec.ofNat 10 f.src.module
      ∧ h.extractLsb' 34 2 = BitVec.ofNat 2 f.src.die ∧ h.extractLsb' 36 4 = BitVec.ofNat 4 f.src.ctx
      ∧ h.extractLsb' 40 4 = BitVec.ofNat 4 f.ch ∧ h.extractLsb' 44 20 = 0 ∧ h.extractLsb' 64 32 = BitVec.ofNat 32 f.chunk
      ∧ h.extractLsb' 96 16 = BitVec.ofNat 16 f.index ∧ h.extractLsb' 112 16 = 0)

/-- From R194, R195, R346, R347, R348: a context loads its descriptor and image, stops, has its interrupt cleared, times out and resumes when
its page is there. That a load that fails sets the interrupt is log entry 66, and that the timer's fault comes after the uncore cycle of the
die in which it reaches the timeout log entry 121. -/
def Obligations.ClearingContexts : Prop :=
  ∀ (s : State) (cid : Nat) (c : Clear), c = s.clear cid → cid < 64 →
    (∀ d image, c.st ≠ .running → c.st ≠ .parked → s.devWaits false c.desc 512 = false → s.devLines c.desc 4 = some d → descBad cid d = false →
      s.devWaits false (descNum d 0 8) (4 * fld (descNum d 0x08 8) 0 16) = false →
      s.devWords (descNum d 0 8) (fld (descNum d 0x08 8) 0 16) = some image →
      ∃ t, exec (.clctlLoad cid) s = .next t ∧ t.mem = s.mem ∧ t.run = s.run
        ∧ (t.clear cid).st = .running ∧ (t.clear cid).pc = 0 ∧ (t.clear cid).program = image ∧ (t.clear cid).root = s.dev.ptroot
        ∧ (t.clear cid).chunk = 256 * 2 ^ fld (descNum d 0x08 8) 16 4 ∧ (t.clear cid).tmo = descNum d 0x10 4 ∧ (t.clear cid).ops = []
        ∧ (∀ r, r < 16 → tgetD 0 (t.clear cid).d r = BitVec.ofNat 32 (descNum d (0x1A0 + 4 * r) 4))
        ∧ (∀ b, b < 16 → tget (t.clear cid).buffers b = some ⟨fld (descNum d (0x20 + 16 * b) 8) 63 1 == 1, fld (descNum d (0x20 + 16 * b) 8) 0 49,
            descNum d (0x28 + 16 * b) 4⟩))
    ∧ (c.st ≠ .running → c.st ≠ .parked → s.devWaits false c.desc 512 = true → exec (.clctlLoad cid) s = .next s)
    ∧ (c.st ≠ .running → c.st ≠ .parked → s.devWaits false c.desc 512 = false → (s.devLines c.desc 4 = none ∨ ∃ d, s.devLines c.desc 4 = some d ∧ descBad cid d = true) →
      ∃ t, exec (.clctlLoad cid) s = .next t ∧ (t.clear cid).st = .faulted ∧ (t.clear cid).cause = 0x0A ∧ (t.clear cid).irq = true)
    ∧ ((c.st = .running ∨ c.st = .parked) → exec (.clctlLoad cid) s = .next s
      ∧ ∃ t, exec (.clctlStop cid) s = .next t ∧ (t.clear cid).st = .stopped ∧ (t.clear cid).counters = [] ∧ (t.clear cid).ops = c.ops ∧ t.mem = s.mem
        ∧ t.run = s.run)
    ∧ exec (.clstatIrqClear cid) s = .next (s.setClear cid { c with irq := false })
    ∧ (∀ t0, c.st = .running → c.timerFrom = some t0 → c.paused = false → c.tmo ≠ 0 →
      let lim := t0 + (c.tmo * 65536 - c.timer)
      let uncore := s.island (32 + cid / 16)
      exec (.collectiveTimeout cid) s = .next
        (if lim ≤ s.clk ∧ uncore.count lim < uncore.count s.clk then s.clearFault cid 0x05 c.pc else s))
    ∧ (c.paused = true → exec (.collectiveTimeout cid) s = .next s)
    ∧ (c.st = .parked → s.needsPage c = false → ∃ t, exec (.programUnpark cid) s = .next t ∧ (t.clear cid).st = .running
      ∧ (t.clear cid).pc = c.pc ∧ t.mem = s.mem ∧ t.flits = s.flits ++ c.peers.map fun p => controlFlit .resume (endpointOf cid) p.2 0)
    ∧ (c.st = .parked → s.needsPage c = true → exec (.programUnpark cid) s = .next s)

/-! Control registers, translation, migration and the host. -/

/-- From R8, R58, R202, R205, R235, R263, R306, R337, R339, R367, R371, R372, R375, R376, R379, R387, R394: what a write to each
writable register without behaviour of its own keeps; a write to an offset below 0x0800 of a device control page that holds no
register, or one that is read only, changes nothing, and those to CQDESC, CQNOT, PTROOT and TLBINV are events of their own. A
read gives the register's fields, path tables, token pools and tile tables among them; a path reads and writes them in system
mode and takes 0x05 in user mode. That a read takes a word at any offset and a write a whole register at its own is log entry
132; that no instruction names the access, the register that it reads into and the events of their own are log entry 113;
HOTBASE's halving is log entry 29, the ring that CQDESC names anew log entry 74. From R317, R330, R332, R385: the host reads and
writes bytes by physical address, or through PTROOT; it waits for a line that an engine owns, a row under assay, and a byte of
the host's memory while its link retrains (log entry 32). -/
def Obligations.ControlRegistersAndHostAccesses : Prop :=
  ((∀ (s : State) (n : Nat) (v : DWord),
    let w (off : Nat) (d : Device) : Prop := exec (.registerWrite .dev n off v) s = .next { s with dev := d }
    let lo (k : Nat) : Nat := v.toNat % 2 ^ k
    w 0x310 { s.dev with tqbase := lo 49 } ∧ w 0x318 { s.dev with tqEn := v.getLsbD 31, tqLseg := lo 5 }
      ∧ w 0x320 { s.dev with fgbase := lo 49 } ∧ w 0x360 { s.dev with rmapbase := lo 52 }
      ∧ w 0x368 { s.dev with migEn := v.getLsbD 31, migUp := (v.extractLsb' 16 8).toNat, migDn := (v.extractLsb' 8 8).toNat, migRate := lo 8 }
      ∧ w 0x370 { s.dev with poolh := lo 52 } ∧ w 0x378 { s.dev with pooll := lo 52 } ∧ w 0x390 { s.dev with tvec := (v &&& 0x1FFFFFFFFFFFC#64).toNat }
      ∧ w 0xC00 { s.dev with dumpadr := lo 49 } ∧ w 0xC08 { s.dev with dumplen := v.toNat }
      ∧ w 0xD00 { s.dev with rasEn := v.getLsbD 31, rasIrq := v.getLsbD 30 } ∧ w 0xD08 { s.dev with raslog := lo 49 }
      ∧ w 0xF90 { s.dev with attadr := v.toNat }
      ∧ (∀ off, off < 0x800 → ¬ (0x200 ≤ off ∧ off < 0x300) →
        off ∉ [0x310, 0x318, 0x320, 0x340, 0x348, 0x358, 0x360, 0x368, 0x370, 0x378, 0x390] → w off s.dev)
      ∧ exec (.registerWrite .dev n 0x358 v) s = .next { s.halveHot with dev := { s.halveHot.dev with hotbase := lo 52 } })
  ∧ (∀ (s : State) (n : Nat) (v : DWord), n < 128 →
    let w (off : Nat) (k : Core) : Prop := exec (.registerWrite .core n off v) s = .next (s.setCore n k)
    let k := s.core n
    w 0x500 { k with wlim := v.extractLsb' 0 32 } ∧ w 0x808 { k with smpBase := v.toNat % 2 ^ 49 } ∧ w 0x818 { k with smpRp := v.toNat }
      ∧ w 0x908 { k with trBase := v.toNat % 2 ^ 49 }
      ∧ (∀ c, c < 8 → w (0x440 + 4 * c) { k with nevCnt := tset k.nevCnt c (v.extractLsb' 0 32) }
        ∧ w (0x480 + 4 * c) { k with nevThr := tset k.nevThr c (v.extractLsb' 0 32) })
      ∧ ∃ t, exec (.registerWrite .core n 0x400 v) s = .next t ∧ (t.core n).nevAct = v.extractLsb' 16 8 ∧ (t.core n).nevEn = v.extractLsb' 8 8
        ∧ (t.core n).nevFrz = v.getLsbD 0 ∧ (t.core n).nevCnt = k.nevCnt ∧ (t.core n).nevHit = k.nevHit ∧ t.mem = s.mem ∧ t.run = s.run)
  ∧ (∀ (s : State) (n i : Nat) (v : DWord), n < 32 → i < 8 →
    let w (off : Nat) (k : Cluster) : Prop := exec (.registerWrite .cluster n off v) s = .next (s.setCluster n k)
    let k := s.cluster n
    w 0x9040 { k with dbgPath := v.extractLsb' 0 9 }
      ∧ w (0x9100 + 32 * i) { k with watch := tset k.watch i { tgetD Watchpoint.reset k.watch i with adr := v } }
      ∧ w (0x9108 + 32 * i) { k with watch := tset k.watch i { tgetD Watchpoint.reset k.watch i with ctl := v.extractLsb' 0 32 &&& 0xFFC000FF#32 } }
      ∧ w (0x9200 + 16 * i) { k with breaks := tset k.breaks i { tgetD Breakpoint.reset k.breaks i with adr := (v &&& 0x1FFFFFFFFFFFC#64).toNat } }
      ∧ w (0x9208 + 16 * i) { k with breaks := tset k.breaks i { tgetD Breakpoint.reset k.breaks i with en := v.getLsbD 31, stp := v.getLsbD 30 } })
  ∧ (∀ s : State, exec .migstatRead s = .next { s with hostData := bytesOf 4 (s.dev.migstat % 2 ^ 32), dev := { s.dev with migstat := 0 } }
    ∧ exec .rasceRead s = .next { s with hostData := bytesOf 4 s.dev.rasce, dev := { s.dev with rasce := 0 } }
    ∧ exec .rasueRead s = .next { s with hostData := bytesOf 4 s.dev.rasue, dev := { s.dev with rasue := 0 } })
  ∧ (∀ (s : State) (n off : Nat), n < 128 → 0x400 ≤ off → off < 0xC00 → off ≠ 0x820 → off ≠ 0x91C →
    exec (.hostMemoryAccess (.registerRead .core n off)) s = .next { s with hostData := bytesOf 4 (s.pageWord n off) })
  ∧ (∀ (s : State) (n w k : Nat), n < 128 → w < 32 → k < 0x800 → exec (.hostMemoryAccess (.registerRead .core n (0x4000 + 0x800 * w + k))) s =
    .next { s with hostData := bytesOf 4 (numOf (((s.pathTable (32 * n + w)).drop k).take 4)) })
  ∧ (∀ (s : State) (n e k : Nat) (t : Tile), n < 32 → e < 128 → k < 32 → tget s.run.tiles (128 * n + e) = some t →
    exec (.hostMemoryAccess (.registerRead .cluster n (0x8000 + 32 * e + k))) s =
      .next { s with hostData := bytesOf 4 (numOf (((tileEntry t).drop k).take 4)) })
  ∧ (∀ (s : State) (pid n off : Nat) (v : DWord) (p : Path) (page : CtlPage), s.path pid = some p → s.mayIssue pid p = true →
    (p.sys = false →
      (∀ dest, exec (.hostMemoryAccess (.pathRead pid dest page n off)) s = .next (s.takeFree.takeTrap pid 0x05 p.bundleStart s.openAux none))
      ∧ exec (.hostMemoryAccess (.pathWrite pid page n off v)) s = .next (s.takeFree.takeTrap pid 0x05 p.bundleStart s.openAux none))
    ∧ (p.sys = true →
      (∀ dest t, exec (.hostMemoryAccess (.registerRead page n off)) s = .next t → exec (.hostMemoryAccess (.pathRead pid dest page n off)) s =
        .next (let u : State := { t with hostData := s.hostData }
               if dest < 96 then u.writeS pid dest (BitVec.ofNat 32 (numOf t.hostData)) else u))
      ∧ (∀ k, k < 8 →
        exec (.hostMemoryAccess (.pathWrite pid .dev n (0x200 + 32 * k) v)) s = exec (.cqdescWrite k (v.toNat % 2 ^ 49)) s
        ∧ exec (.hostMemoryAccess (.pathWrite pid .dev n (0x208 + 32 * k) v)) s = exec (.cqnotWrite k (v.extractLsb' 0 32) false) s
        ∧ (v.getLsbD 31 = true → exec (.hostMemoryAccess (.pathWrite pid .dev n (0x20C + 32 * k) v)) s = exec (.cqstatResume k) s))
      ∧ exec (.hostMemoryAccess (.pathWrite pid .dev n 0x340 v)) s = exec (.ptrootWrite v) s
      ∧ exec (.hostMemoryAccess (.pathWrite pid .dev n 0x348 v)) s = exec (.tlbinvWrite v) s
      ∧ (off ∈ [0x310, 0x318, 0x320, 0x358, 0x360, 0x368, 0x370, 0x378, 0x390] →
        exec (.hostMemoryAccess (.pathWrite pid .dev n off v)) s = exec (.registerWrite .dev 0 off v) s))))
  ∧ (∀ (s : State) (v : Bool) (a : Nat),
    let f : Reacher := if v then s.reachDev else reachPhys
    (∀ (n : Nat) (l : Nat → Loc), (∀ i, i < n → f false (a + i) = .at_ (l i)) →
      ((∀ i, i < n → s.mustWait (l i) = false) →
        exec (.hostMemoryAccess (.read v a n)) s =
          .next { s.dramTouch ((List.range n).map l) with hostData := (List.range n).map fun i => (s.readLoc (l i)).getD 0 })
      ∧ ((∃ i, i < n ∧ s.mustWait (l i) = true) → exec (.hostMemoryAccess (.read v a n)) s = .next s))
    ∧ (∀ (bs : List Byte) (l : Nat → Loc), (∀ i, i < bs.length → f true (a + i) = .at_ (l i)) →
      ((∀ i, i < bs.length → s.mustWait (l i) = false) → Memory.wf s.mem = true → ∃ t, exec (.hostMemoryAccess (.write v a bs)) s = .next t
        ∧ Stored s t (((List.range bs.length).map l).zip bs) ((List.range bs.length).map l) ∧ t.run = s.run
        ∧ (s.dev.hotbase = 0 → t.dev = s.dev))
      ∧ ((∃ i, i < bs.length ∧ s.mustWait (l i) = true) → exec (.hostMemoryAccess (.write v a bs)) s = .next s))
    ∧ (∀ i, physValid (a + i) = true → reachPhys false (a + i) = .at_ (.phys (a + i)) ∧ s.readLoc (.phys (a + i)) = some (Memory.byte s.mem (a + i))))

/-- From R335, R336, R337, R338: a walk fills a core's TLB without changing where its accesses arrive; PTROOT and TLBINV drop what
they name from every TLB and walk cache and set busy, which clears once the accesses issued before, held stores and clearing
engines' operations among them, are performed. From R142, R337, R339, R340, R386: the hotness table halves; a move takes a frame
from its pool and sets mg, copies the frame with its hotness byte and the two words of the reverse map, then points the entry at
the new frame and counts; no more moves begin within a ms, 3,600,000 cc (log entry 29), than MIGCTL's rate (R337). A popped
frame that is not of its tier is discarded (log entry 116). -/
def Obligations.TranslationAndMigration : Prop :=
  ((∀ (s : State) (n va : Nat), n < 128 → va < 2 ^ 49 → ∃ t, exec (.translationWalk n va) s = .next t
    ∧ (s.dev.hotbase = 0 → (∀ acc, t.reach n acc va = s.reach n acc va) ∧ t.mem = s.mem ∧ t.dev = s.dev) ∧ t.run = s.run
    ∧ (Memory.wf s.mem = true → SameBytes s t ((s.walkReads s.dev.ptroot (tgetD [] s.walks (dieOf n)) va).map .phys))
    ∧ (∀ e a b, s.walkFrom s.dev.ptroot (tgetD [] s.walks (dieOf n)) va = .leaf e a b → (t.core n).tlb.any (·.hits va) = true))
  ∧ (∀ (s : State) (v : DWord), ∃ t, exec (.ptrootWrite v) s = .next t ∧ t.dev.ptroot = (v &&& 0xFFFFFFFFFE000#64).toNat
    ∧ t.dev.tlbBusy = true ∧ t.dev.tlbMark = s.nextOp ∧ t.mem = s.mem ∧ t.run = s.run
    ∧ (∀ k, (t.core k).tlb = [] ∧ (t.cluster k).tlb = []) ∧ ∀ d, tgetD [] t.walks d = [])
  ∧ (∀ (s : State) (v : DWord), ∃ t, exec (.tlbinvWrite v) s = .next t ∧ t.dev.tlbinv = v &&& 0x8001FFFFFFFF0001#64
    ∧ t.dev.tlbBusy = true ∧ t.dev.tlbMark = s.nextOp ∧ t.mem = s.mem ∧ t.run = s.run
    ∧ (v.getLsbD 63 = true → (∀ k, (t.core k).tlb = [] ∧ (t.cluster k).tlb = []) ∧ ∀ d, tgetD [] t.walks d = [])
    ∧ (v.getLsbD 63 = false →
      let va := (v &&& 0x1FFFFFFFF0000#64).toNat
      let stays (e : TlbEntry) : Bool := e.big != v.getLsbD 0 || e.page != (if e.big then va / 2 ^ 21 else va / 2 ^ 16)
      (∀ k, (t.core k).tlb = (s.core k).tlb.filter stays ∧ (t.cluster k).tlb = (s.cluster k).tlb.filter stays)
        ∧ ∀ d, tgetD [] t.walks d = (tgetD [] s.walks d).filter fun e => !e.covers va))
  ∧ (∀ s : State,
    (s.dev.tlbBusy = true → (∀ o ∈ s.ops, o.id < s.dev.tlbMark → o.done = true) → (∀ x ∈ s.heldStores, s.dev.tlbMark ≤ x.1) →
      (∀ c ∈ s.clears, ∀ o ∈ c.2.ops, s.dev.tlbMark ≤ o.stamp) →
      exec .tlbInvalidateDone s = .next { s with dev := { s.dev with tlbBusy := false } })
    ∧ ((∃ o ∈ s.ops, o.id < s.dev.tlbMark ∧ o.done = false) ∨ (∃ x ∈ s.heldStores, x.1 < s.dev.tlbMark)
      ∨ (∃ c ∈ s.clears, ∃ o ∈ c.2.ops, o.stamp < s.dev.tlbMark) → exec .tlbInvalidateDone s = .next s)))
  ∧ ((∀ s : State, Memory.wf s.mem = true →
    (s.clk < s.dev.halvedAt + 3600000 → exec .hotnessHalving s = .next s)
    ∧ (s.dev.halvedAt + 3600000 ≤ s.clk → ∃ t, exec .hotnessHalving s = .next t ∧ t.run = s.run
      ∧ t.dev = { s.dev with halvedAt := s.clk / 3600000 * 3600000 }
      ∧ ∀ a, Memory.byte t.mem a =
        if s.dev.hotbase ≠ 0 ∧ s.dev.hotbase ≤ a ∧ a < s.dev.hotbase + 2 ^ 36 ∧ physValid a = true then
          Memory.byte s.mem a >>> (min ((s.clk - s.dev.halvedAt) / 3600000) 8 : Nat)
        else Memory.byte s.mem a))
  ∧ (∀ s : State,
    let u := s.halveHot
    let lately := s.dev.migTimes.filter fun t => decide (s.clk < t + 3600000)
    ((s.dev.migEn = false ∨ s.move ≠ none ∨ u.nextMove = none ∨ (s.dev.migRate ≠ 0 ∧ s.dev.migRate ≤ lately.length)) →
      exec .migrationStart s = .next u)
    ∧ (∀ f up, s.dev.migEn = true → s.move = none → (s.dev.migRate = 0 ∨ lately.length < s.dev.migRate) → u.nextMove = some (f, up) →
      let a := u.rmapOf f
      let pop := u.ringPop reachPhys none (if up then s.dev.poolh else s.dev.pooll)
      let own (n : Nat) : Prop := n % 65536 = 0 ∧ (if up then n < 2 ^ 39 else 2 ^ 41 ≤ n ∧ n < 2 ^ 42)
      (u.mustWait (.phys a) = true → exec .migrationStart s = .next u)
      ∧ (u.mustWait (.phys a) = false → pop = .no → exec .migrationStart s = .next { u with scanAt := f + 65536 })
      ∧ (∀ l, u.mustWait (.phys a) = false → pop = .wait l → exec .migrationStart s = .next u)
      ∧ (∀ v e, u.mustWait (.phys a) = false → pop = .done v e → ¬ own (numOf (e.take 8)) →
        exec .migrationStart s = .next { v with scanAt := f + 65536 })
      ∧ (∀ v e, u.mustWait (.phys a) = false → pop = .done v e → own (numOf (e.take 8)) →
        ∃ t, exec .migrationStart s = .next t ∧ t.move = some ⟨a, f, numOf (e.take 8), false⟩ ∧ t.dev.migTimes = lately ++ [s.clk]
          ∧ t.mem = Memory.write v.mem a (bytesOf 8 (Memory.num v.mem a 8 ||| 128)) ∧ t.run = v.run
          ∧ ∀ k ∈ t.cores, ∀ x ∈ k.2.tlb, x.big = true ∨ (x.pte.extractLsb' 8 44).toNat * 256 ≠ f)))
  ∧ (∀ (s : State) (f : Nat) (up : Bool), s.nextMove = some (f, up) →
    let a := s.rmapOf f
    let e := BitVec.ofNat 64 (Memory.num s.mem a 8)
    a ≠ 0 ∧ physValid a = true ∧ e.getLsbD 0 = true ∧ e.getLsbD 63 = true ∧ e.extractLsb' 6 2 = 0 ∧ e.extractLsb' 3 2 = 0
      ∧ (e.extractLsb' 8 44).toNat * 256 = f ∧ ¬ (f % 2 ^ 21 = 0 ∧ s.atLevel1 a = true)
      ∧ (s.ras.retired.contains f = false →
        (up = true ∧ 2 ^ 41 ≤ f ∧ f < 2 ^ 42 ∧ s.dev.migUp ≤ s.hotness f)
          ∨ (up = false ∧ f < 2 ^ 39 ∧ s.hotness f ≤ s.dev.migDn ∧ s.poolUsed s.dev.poolh < 64))
      ∧ (s.ras.retired.contains f = true → (up = true ↔ f < 2 ^ 39)))
  ∧ (∀ (s : State) (m : PageMove), s.move = some m → m.copied = false → Memory.wf s.mem = true → m.old / 65536 ≠ m.new / 65536 →
    let u := s.halveHot
    let map (f : Nat) : Nat := s.dev.rmapbase + 8 * (f / 65536)
    let hot (f : Nat) : Nat := s.dev.hotbase + f / 65536
    let lines := frameLines m.old ++ frameLines m.new
    -- the frame copied, and the lines that this read and wrote counted
    let v := ({ u with mem := Memory.write u.mem m.new (Memory.bytes u.mem m.old 65536) } : State).dramTouch lines
    (s.frameBusy m.old = true → exec .migrationCopy s = .next s)
    ∧ (s.frameBusy m.old = false → physValid (map m.new) = true → physValid (map m.old) = true →
      ∃ t, exec .migrationCopy s = .next t ∧ t.move = some { m with copied := true } ∧ t.run = s.run
      ∧ Memory.num t.mem (map m.new) 8 = m.pte % 2 ^ 64 ∧ Memory.num t.mem (map m.old) 8 = 0
      ∧ (∀ a, ¬ (map m.new ≤ a ∧ a < map m.new + 8) → ¬ (map m.old ≤ a ∧ a < map m.old + 8) →
        (s.dev.hotbase = 0 ∨ ∀ l ∈ lines, ∀ n ∈ s.dramLines l, a ≠ s.hotAddr (n * 128)) →
        Memory.byte t.mem a = if m.new ≤ a ∧ a < m.new + 65536 then Memory.byte u.mem (m.old + (a - m.new)) else Memory.byte u.mem a)
      ∧ (s.dev.hotbase ≠ 0 → physValid (hot m.new) = true → physValid (hot m.old) = true →
        (∀ f, f = m.new ∨ f = m.old → ¬ (map f ≤ hot m.new ∧ hot m.new < map f + 8)) →
        Memory.byte t.mem (hot m.new) = Memory.byte v.mem (hot m.old))))
  ∧ (∀ (s : State) (m : PageMove), s.move = some m → m.copied = true →
    let v := s.physWrite m.pte 8 (pteMoved (s.pteAt m.pte) m.new)
    let u : State := { v with move := none, dev := { s.dev with migstat := s.dev.migstat + 1 } }
    let push := u.ringPush reachPhys none (if m.old < 2 ^ 39 then s.dev.poolh else s.dev.pooll) (bytesOf 32 m.old)
    (s.ras.retired.contains m.old = true → exec .migrationFinish s = .next (u.writeLog s.ras.log))
    ∧ (s.ras.retired.contains m.old = false → push = .no → exec .migrationFinish s = .next (u.writeLog s.ras.log))
    ∧ (∀ l, s.ras.retired.contains m.old = false → push = .wait l → exec .migrationFinish s = .next s)
    ∧ (∀ t e, s.ras.retired.contains m.old = false → push = .done t e → exec .migrationFinish s = .next (t.writeLog t.ras.log)))
  ∧ (∀ s : State, s.writeLog [] = { s with ras := { s.ras with log := [] } })
  ∧ (∀ e f : Nat, e < 2 ^ 64 → f < 2 ^ 52 → f % 256 = 0 →
    let x := BitVec.ofNat 64 (pteMoved e f)
    (x.extractLsb' 8 44).toNat * 256 = f ∧ x.getLsbD 7 = false ∧ x.extractLsb' 0 7 = (BitVec.ofNat 64 e).extractLsb' 0 7
      ∧ x.extractLsb' 52 12 = (BitVec.ofNat 64 e).extractLsb' 52 12))

/-! Pre-emption. -/

/-- From R24, R96, R159, R254, R308, R309: a halt leaves every path before a bundle, with no wait but for a load's data or a sleep,
no claim waiting and nothing that may issue; a killed graphics wave starts again at its entry. From R223, R246, R310, R312: a
save waits for what it must, empties the core resources and keeps the context and writes the save area, whose layout the spec
leaves to the device (log entry 17); the restore that follows gives back every register, token, wave and path with its PC, mask,
mode, flags, trap registers and due traps. That Q0 is empty after the save is log entry 76. -/
def Obligations.PreemptionSaveAndRestore : Prop :=
  ((∀ s : State,
    (s.dev.dumpBusy = true → exec .preemptionRequest s = .next { s with dev := { s.dev with preempt := true } })
    ∧ (s.dev.dumpBusy = false → (s.run.running = false ∨ s.run.halted = true) → exec .preemptionRequest s = .next s)
    ∧ (s.run.running = true → s.run.halted = false → s.dev.dumpBusy = false → ∃ t, exec .preemptionRequest s = .next t ∧ t.run.halted = true
      ∧ (∀ k, (t.core k).claims = []) ∧ (∀ pid p, t.mayIssue pid p = false)
      ∧ ∀ e ∈ t.run.paths, e.2.hints = [] ∧ (e.2.st = .waiting → (∃ n, e.2.wait = .data n) ∨ e.2.sleep ≠ 0)))
  ∧ (∀ (s : State) (wid : Nat) (w : Wave) (r : StartRecord), s.wave wid = some w → w.start = some r →
    ((w.killed = false ∨ s.run.running = false ∨ s.run.halted = true) → exec (.graphicsWaveReissue wid) s = .next s)
    ∧ (w.killed = true → s.run.running = true → s.run.halted = false → w.reissues.1 = 0 → ∃ t, exec (.graphicsWaveReissue wid) s = .next t
      ∧ t.wave wid = some { w with killed := false, live := r.mask, lent := 0, due := [] }
      ∧ t.path (4 * wid) = some { Path.fresh w.entry r.mask (s.icc (wid / 32) + 1) with region := some ⟨w.entry, none, true, []⟩, due := w.due }
      ∧ (∀ pid, pid ≠ 4 * wid → t.path pid = s.path pid) ∧ t.mem = s.mem ∧ t.ops = s.ops)))
  ∧ ((∀ s : State, ((s.run.halted = false ∨ s.dev.dumpBusy = true ∨ ∃ k ∈ s.contextCores, (s.cluster (clusterOf k)).stopping ≠ none) →
      exec .contextSave s = .next s)
    ∧ (s.run.halted = true → s.dev.dumpBusy = false → (∀ k ∈ s.contextCores, (s.cluster (clusterOf k)).stopping = none) →
      -- what the open regions hold is performed before the save, which waits for it
      let u := s.commitRegions
      ((∃ o ∈ u.ops, o.done = false) ∨ ∃ k, k < 32 ∧ (u.cluster k).passes ≠ []) → exec .contextSave s = .next u)
    ∧ ((∀ e ∈ s.run.paths, e.2.region = none) → s.commitRegions = s))
  ∧ (∀ (s : State) (n : Nat), (s.run.running = true ∨ s.run.halted = true ∨ s.saved.length ≤ n) → exec (.contextRestore n) s = .next s)
  ∧ (∀ s : State, s.run.halted = true → s.dev.dumpBusy = false → s.quiet = true → (∀ e ∈ s.run.paths, e.2.region = none) →
    (∀ k ∈ s.contextCores, (s.cluster (clusterOf k)).stopping = none) →
    (∀ k, (s.core k).trEn = false) →
    let view (p : Path) := (p.pc, p.mask, p.sys, p.flags, p.token, p.epc, p.ecause, p.eaux, p.emask, p.due, p.loan, p.loanst)
    ∃ t u : State, exec .contextSave s = .next t ∧ t.run = Context.empty ∧ t.ops = []
      ∧ t.mem = s.writeArea (Config.saveArea s.free) s.free ∧ t.saved.length = s.saved.length + 1
      ∧ (∀ b ∈ s.run.blocks, (t.core b.2.core).q0 = [])
      ∧ exec (.contextRestore s.saved.length) t = .next u ∧ u.saved = s.saved ∧ u.mem = t.mem ∧ u.run.running = true ∧ u.run.halted = false
      ∧ u.run.sregs = s.run.sregs ∧ u.run.vregs = s.run.vregs ∧ u.run.kregs = s.run.kregs ∧ u.run.tokens = s.run.tokens
      ∧ u.run.waves = s.run.waves ∧ u.run.items = s.run.items
      ∧ (u.run.paths.map fun e => (e.1, view e.2)) = (s.run.paths.map fun e => (e.1, view e.2))
      ∧ (∀ b ∈ s.run.blocks, (u.core b.2.core).q0 = (s.core b.2.core).q0 ∧ (u.core b.2.core).itemCounter = (s.core b.2.core).itemCounter)))

/-! Service. -/

/-- From R58, R59, R384, R385, R386, R387: a numerical event window ends and restarts; hit bits clear with their interrupt; a corrected error is
counted and asks for an assay; an assay starts in its turn on a free core, and its end is transient or spares, withdraws, degrades or
retires. Which cores run a row's assay and the banks that have spares are log entry 24; that NEVSTAT's clear ends the pending interrupt is
log entry 87; the sizes of structures log entry 83. -/
def Obligations.EventWindowsAndRepair : Prop :=
  (∀ (s : State) (n c : Nat), n < 128 → c < 8 →
    let k := s.core n
    (∀ len, exec (.nevwinWrite n c len) s = .next (s.setCore n { k with
      nevWin := tset k.nevWin c (len % 2 ^ 24), nevCnt := tset k.nevCnt c 0, nevStart := tset k.nevStart c (if k.nevFrz then 0 else s.clk) }))
    ∧ (k.nevFrz = true ∨ tgetD 0 k.nevWin c = 0 ∨ s.clk < tgetD 0 k.nevStart c + 1024 * tgetD 0 k.nevWin c → exec (.nevWindowEnd n c) s = .next s)
    ∧ (k.nevFrz = false → tgetD 0 k.nevWin c ≠ 0 → tgetD 0 k.nevStart c + 1024 * tgetD 0 k.nevWin c ≤ s.clk →
      exec (.nevWindowEnd n c) s = .next (s.setCore n { k with
        nevCnt := tset k.nevCnt c 0, nevStart := tset k.nevStart c (tgetD 0 k.nevStart c + 1024 * tgetD 0 k.nevWin c) }))
    ∧ (∀ bits, ∃ t, exec (.nevstatClear n bits) s = .next t ∧ t.core n = { k with nevHit := k.nevHit &&& ~~~bits } ∧ t.mem = s.mem ∧ t.run = s.run
      ∧ (k.nevHit &&& ~~~bits &&& k.nevAct = 0 → .numeric n ∉ t.irqs)
      ∧ (k.nevHit &&& ~~~bits &&& k.nevAct ≠ 0 → t.irqs = if s.irqs.contains (.numeric n) then s.irqs else s.irqs ++ [.numeric n])))
  ∧ (∀ (s : State) (r : RasRow),
    let started (k : Nat) : State := { s with ras := { s.ras with running := s.ras.running ++ [(r, k)], waiting := s.ras.waiting.erase r } }
    let ended : State := { s with ras := { s.ras with running := s.ras.running.filter fun q => !sameRow q.1 r } }
    let times : List Nat := (s.ras.history.filter fun h => sameRow h.1 r).map (·.2)
    -- some three of the row's corrected errors came within one second, and after a lasting fault all are forgotten
    let third : Prop := ∃ (i a b : Nat), times[i]? = some a ∧ times[i + 2]? = some b ∧ b < a + 3600000000
    let forgot : State := { ended with ras := { ended.ras with history := s.ras.history.filter fun h => !sameRow h.1 r } }
    (∀ k, s.assayCore r = some k → (∀ q ∈ s.ras.running, q.2 ≠ k)
      ∧ (∀ c, r.core = some c → k = c) ∧ (∀ c, r.core = none → r.cluster = some c → k / 4 = c) ∧ (r.core = none → r.cluster = none → k < 128))
    ∧ (s.assayCore r = none → ∀ k, (r.core = some k ∨ (r.core = none ∧ r.cluster = some (k / 4)) ∨ (r.core = none ∧ r.cluster = none ∧ k < 128)) →
      ∃ q ∈ s.ras.running, q.2 = k)
    ∧ (s.corrected r = (
      let u : State := { s with
        dev := { s.dev with rasce := min (s.dev.rasce + 1) 0xFFFFFFFF }, ras := { s.ras with history := s.ras.history ++ [(r, s.clk)] } }
      if s.dev.rasEn = true ∧ s.assayed r = false ∧ s.ras.waiting.any (sameRow r) = false then
        { u with ras := { u.ras with waiting := s.ras.waiting ++ [r] } }
      else u.logRas r.structure_ 0 (rowLogged r)))
    ∧ (s.dev.rasEn = false → exec (.assayStart r) s = .next s)
    ∧ (s.dev.rasEn = true → (∀ q ∈ s.ras.waiting, s.assayCore q = none) → exec (.assayStart r) s = .next s)
    ∧ (∀ pre post k, s.dev.rasEn = true → s.ras.waiting = pre ++ r :: post → (∀ q ∈ pre, s.assayCore q = none) → s.assayCore r = some k →
      exec (.assayStart r) s = .next (started k))
    ∧ (s.assayed r = false → ∀ m, exec (.assayEnd r m) s = .next s)
    ∧ (s.assayed r = true → ¬ third → exec (.assayEnd r false) s = .next (ended.logRas r.structure_ 0 (rowLogged r)))
    ∧ (∀ m : Bool, s.assayed r = true → (m = true ∨ third) →
      let used := s.sparesUsed (bankOf r)
      let frame := r.row * 65536
      (r.dram = true → exec (.assayEnd r m) s = .next (({ forgot with ras := { forgot.ras with
          retired := if s.ras.retired.contains frame then s.ras.retired else s.ras.retired ++ [frame] } } : State).logRas r.structure_ 4 r.addr))
      ∧ (r.dram = false → used < 4 → ∃ u : State, exec (.assayEnd r m) s = .next (u.logRas r.structure_ 1 r.row) ∧ u.mem = s.mem ∧ u.run = s.run
        ∧ u.sparesUsed (bankOf r) = used + 1 ∧ (∀ b : Nat × Nat, b ≠ bankOf r → u.sparesUsed b = s.sparesUsed b)
        ∧ u.ras.withdrawn = s.ras.withdrawn ∧ u.ras.retired = s.ras.retired ∧ u.clusters = s.clusters)
      ∧ (r.dram = false → 4 ≤ used → r.l2 = true → exec (.assayEnd r m) s =
        .next (({ forgot with ras := { forgot.ras with withdrawn := s.ras.withdrawn ++ [r] } } : State).logRas r.structure_ 2 r.row))
      ∧ (∀ k, r.dram = false → 4 ≤ used → r.l2 = false → (r.cluster = some k ∨ (r.cluster = none ∧ r.core.map (· / 4) = some k)) →
        exec (.assayEnd r m) s = .next ((forgot.setCluster k { s.cluster k with degraded := true }).logRas r.structure_ 3 r.row))))

/-- From R388 to R394: islands, thermal limits, links, boot and attestation. The sensors' figures are inputs. SHA-512 and ECDSA are those of FIPS,
and the keys, the nonce of a signature and the serial number free values (log entry 15); the images are those of stages 1 to 3 (log entry 84);
a measurement stands in the digest's order of bytes (log entry 85); the islands' clocks after reset are log entry 99. -/
def Obligations.IslandsBootAndAttestation : Prop :=
  (∀ (s : State) (i : Nat) (x : IslandReading), i < 40 →
    let now := s.island i
    let figures (st th : Bool) : Island :=
      ⟨x.tj % 256, min (min (2 * (105 - x.tj)) ((x.vmax - x.mv) / 5)) 255, x.mhz % 4096, x.mv % 4096, st, th, now.count s.clk, s.clk⟩
    let shown (st th : Bool) : State := { s with islands := tset s.islands i (figures st th) }
    -- at 105 °C the clock falls, or stays at the lowest that the island may have
    let lower : Prop := x.mhz < now.mhz ∨ (x.mhz = now.mhz ∧ now.mhz = if i < 32 then 1200 else 0)
    (clockOk i x.mhz = false → x.tj < 115 → exec (.islandDvfs i x) s = .next s)
    ∧ (clockOk i x.mhz = true → x.tj < 105 → exec (.islandDvfs i x) s = .next (shown false false))
    ∧ (clockOk i x.mhz = true → 105 ≤ x.tj → x.tj < 115 → lower → exec (.islandDvfs i x) s = .next (shown false true))
    ∧ (clockOk i x.mhz = true → 105 ≤ x.tj → x.tj < 115 → ¬ lower → exec (.islandDvfs i x) s = .next s)
    ∧ (clockOk i x.mhz = true → 105 ≤ x.tj → x.tj < 115 → x.mhz < now.mhz →
      exec (.thermalThrottle i x) s = .next (shown now.stretched true))
    ∧ (x.tj < 105 → exec (.thermalThrottle i x) s = .next s)
    ∧ (x.tj < 115 → exec (.thermalTrip i x) s = .next s)
    ∧ exec (.droopStretch i) s = .next { s with islands := tset s.islands i { now with stretched := true } })
  ∧ (∀ (s : State) (i : Nat) (x : IslandReading), i < 40 → 115 ≤ x.tj → ∃ t, exec (.thermalTrip i x) s = .next t
    ∧ exec (.islandDvfs i x) s = .next t ∧ exec (.thermalThrottle i x) s = .next t ∧ t.stopped = true
    ∧ .thermal ∈ t.irqs ∧ (s.run.running = true → t.run.halted = true) ∧ step t = .fault .clocksStopped)
  ∧ (∀ (i mhz : Nat), clockOk i mhz = true → (i < 32 → 1200 ≤ mhz ∧ mhz ≤ 3600) ∧ (32 ≤ i → i < 36 → mhz ≤ 2400))
  ∧ (∀ i, i < 40 → (State.reset.island i).mhz = if i < 32 then 3600 else 2400)
  ∧ (∀ (s : State) (n : Nat), ∃ t u, exec (.linkRetrain n) s = .next t ∧ n ∈ t.linksDown ∧ (∀ k, k ≠ n → (k ∈ t.linksDown ↔ k ∈ s.linksDown))
    ∧ t.mem = s.mem ∧ t.run = s.run
    ∧ exec (.retrainingEnd n) s = .next u ∧ n ∉ u.linksDown ∧ (∀ k, k ≠ n → (k ∈ u.linksDown ↔ k ∈ s.linksDown)) ∧ u.mem = s.mem ∧ u.run = s.run)
  ∧ (∀ (s : State) (images : List BootImage), s.boot.stage = 0 → s.boot.stopped = false → ∃ t, exec (.boot images) s = .next t
    ∧ t.mem = s.mem ∧ t.run = s.run
    ∧ (t.boot.stopped = true → t.boot.stage < 4 ∧ t.dev.attSt = 3 ∧ .bootStopped ∈ t.irqs ∧ ∀ n a, n < 8 → exec (.cqdescWrite n a) t = .next t)
    ∧ (t.boot.stopped = false ↔ ∃ x y z, images = x :: y :: z :: images.drop 3 ∧ imageOk x Config.fusedKeyDigest = true
      ∧ imageOk y (Config.manifestKeyDigest x.code 2) = true ∧ imageOk z (Config.manifestKeyDigest x.code 3) = true)
    ∧ (t.boot.stopped = false → t.boot.stage = 4
      ∧ t.boot.measurements = s.boot.measurements ++ (sha512 Config.romCode :: (images.take 3).map fun i => sha512 i.code)))
  ∧ (∀ (i : BootImage) (d : BitVec 512), imageOk i d = true ↔
    ecdsaVerifies i.key i.signature (sha512 i.code) = true ∧ sha512 i.key = d ∧ Config.fusedRollback ≤ i.version)
  ∧ (∀ s : State, (s.dev.attBusy = true → exec .attctlGo s = .next s)
    ∧ (s.dev.attBusy = false → s.boot.stopped = true → exec .attctlGo s = .next { s with dev := { s.dev with attSt := 3 } })
    ∧ (s.dev.attBusy = false → s.boot.stopped = false → exec .attctlGo s = .next { s with dev := { s.dev with attBusy := true } })
    ∧ (s.dev.attBusy = false → exec .attestDone s = .next s)
    ∧ (s.dev.attBusy = true → s.dev.attadr % 512 = 0 → physHost s.dev.attadr = true → physValid (s.dev.attadr + 511) = true →
      (((Loc.phys s.dev.attadr).span 512).any s.mustWait = true → exec .attestDone s = .next s)
      ∧ (((Loc.phys s.dev.attadr).span 512).any s.mustWait = false → Memory.wf s.mem = true → ∃ t, exec .attestDone s = .next t ∧ t.dev = { s.dev with attBusy := false, attSt := 0 } ∧ t.run = s.run
        ∧ Memory.num t.mem s.dev.attadr 8 = 0x0000000100000200 ∧ Memory.num t.mem (s.dev.attadr + 8) 8 = Config.devId
        ∧ Memory.bytes t.mem (s.dev.attadr + 0x10) 64 = Memory.bytes s.mem (s.dev.attadr + 0x10) 64
        ∧ Memory.num t.mem (s.dev.attadr + 0x50) 32 = (Config.serial 0).toNat
        ∧ (∀ n, n < 4 → Memory.bytes t.mem (s.dev.attadr + 0x70 + 64 * n) 64 = (bytesOf 64 (s.boot.measurements.getD n 0).toNat).reverse)
        -- the signature of the digest of what stands before it: r and s, of 66 bytes each
        ∧ (∃ k, 0 < k ∧ k < curveN ∧ Memory.bytes t.mem (s.dev.attadr + 0x170) 132
          = (ecdsaSign Config.identityKey k (sha512 ((Memory.bytes t.mem s.dev.attadr 0x170).map (·.toNat)))).map (BitVec.ofNat 8))
        ∧ Memory.num t.mem (s.dev.attadr + 0x1F4) 12 = 0
        ∧ (∀ a, ¬ (s.dev.attadr ≤ a ∧ a < s.dev.attadr + 512) → Memory.byte t.mem a = Memory.byte s.mem a))))

/-! Debugging. -/

/-- From R223, R357 to R361, R371, R372, R375: stopping, stepping and resuming a cluster; counts that a read clears; a stop met while
the cluster is stopped follows a resume in the same cc. -/
def Obligations.StopStepAndResume : Prop :=
  ∀ (s : State) (n : Nat), n < 32 →
    let k := s.cluster n
    let quiet : Prop := ∀ c, (s.core c).trEn = false
    (k.stopped = false → k.stopping = none → ∃ t, exec (.dbgctlStop n) s = .next t ∧ t.run.paths = s.run.paths ∧ t.mem = s.mem
      ∧ t.cluster n = { k with whClk := s.clk, whSrc := 0, whAdr := 0, whMore := 0, whHlp := 0, stopping := some (s.icc (4 * n)) }
      ∧ ∀ m, m ≠ n → t.cluster m = s.cluster m)
    ∧ (k.stopping ≠ none → exec (.dbgctlStop n) s = .next s)
    -- a stop met while the cluster is stopped is kept for a resume in the same cc
    ∧ (k.stopped = true → k.stopping = none → exec (.dbgctlStop n) s = .next (s.setCluster n { k with
        asked := if k.asked.any (fun a => a.1 == s.clk) then k.asked else some (s.clk, 0, 0, 0) }))
    ∧ (k.stopping = none → exec (.clusterStop n) s = .next s)
    ∧ (∀ h, k.stopping = some h → s.icc (4 * n) < h + 12 → exec (.clusterStop n) s = .next s)
    ∧ (∀ h, k.stopping = some h → h + 12 ≤ s.icc (4 * n) → quiet → ∃ t, exec (.clusterStop n) s = .next t
      ∧ t.cluster n = { k with stopped := true, stopping := none } ∧ .clusterStopped n ∈ t.irqs ∧ t.mem = s.mem ∧ t.run.waves = s.run.waves
      ∧ (∀ pid p, clusterOf (coreOf pid) = n → p.hints = [] → p.hold = false → k.stepping ≠ some pid → t.mayIssue pid p = false)
      ∧ (∀ c, c < 4 → (t.core (4 * n + c)).skid = (trange s.run.waves (32 * (4 * n + c)) (32 * (4 * n + c) + 32)).map fun w =>
          (w.1 % 32, w.2.skid, w.2.last)))
    ∧ (k.stopped = false → exec (.dbgctlResume n) s = .next s
      ∧ (k.stepping = none → ∀ c w p, exec (.dbgctlStep n c w p) s = .next s))
    ∧ (∀ src adr hlp, k.stopped = true → quiet → k.asked = some (s.clk, src, adr, hlp) → ∃ t, exec (.dbgctlResume n) s = .next t
      ∧ (t.cluster n).stopped = false ∧ (t.cluster n).stopping = some (s.icc (4 * n)) ∧ (t.cluster n).whSrc = src ∧ (t.cluster n).whClk = s.clk)
    ∧ (k.stopped = true → quiet → (∀ a, k.asked = some a → a.1 ≠ s.clk) → ∃ t, exec (.dbgctlResume n) s = .next t
      ∧ t.cluster n = { k with stopped := false, stepping := none, asked := none }
      ∧ t.mem = s.mem ∧ t.run.waves = s.run.waves ∧ (∀ m, m ≠ n → t.cluster m = s.cluster m)
      ∧ (∀ e ∈ t.run.paths, ∃ p, (e.1, p) ∈ s.run.paths ∧ e.2.pc = p.pc ∧ e.2.mask = p.mask ∧ e.2.sleep = p.sleep
          ∧ (s.run.halted = false → clusterOf (coreOf e.1) = n → e.2.readyAt = s.icc (4 * n) + 1 ∧ e.2.wait ≠ .breakpoint)
          ∧ (clusterOf (coreOf e.1) ≠ n → e.2 = p)))
    ∧ (∀ c w p, k.stopped = true → k.stepping = none → c < 4 → w < 32 → p < 4 → quiet →
      ∃ t, exec (.dbgctlStep n c w p) s = .next t ∧ (t.cluster n).stepping = some (((4 * n + c) * 32 + w) * 4 + p)
        ∧ (t.cluster n).stopped = true ∧ (t.cluster n).stepFrom = s.icc (4 * n) ∧ (t.cluster n).dbgPath = BitVec.ofNat 9 (c * 128 + w * 4 + p) ∧ t.mem = s.mem
        ∧ exec (.dbgctlStep n c w p) t = .next t)
    ∧ (∀ pid p, k.stepping = some pid → s.path pid = some p →
      (s.icc (4 * n) < k.stepFrom + 4096 → exec (.stepTimeout n) s = .next s)
      ∧ (k.stepFrom + 4096 ≤ s.icc (4 * n) → ∃ t, exec (.stepTimeout n) s = .next t ∧ t.cluster n = { k with stepping := none, stepNoIssue := true }
        ∧ t.path pid = some { p with pc := p.bundleStart, hints := [] } ∧ t.mem = s.mem))
    ∧ (∃ t, exec (.whmoreRead n) s = .next t ∧ t.hostData = bytesOf 4 k.whMore ∧ t.cluster n = { k with whMore := 0 } ∧ t.run = s.run ∧ t.mem = s.mem)
    ∧ (∀ i, i < 8 → ∃ t u, exec (.watchpointHitsRead n i) s = .next t ∧ t.hostData = bytesOf 4 (tgetD Watchpoint.reset k.watch i).hits
      ∧ t.cluster n = { k with watch := tset k.watch i { tgetD Watchpoint.reset k.watch i with hits := 0 } } ∧ t.run = s.run ∧ t.mem = s.mem
      ∧ exec (.breakpointHitsRead n i) s = .next u ∧ u.hostData = bytesOf 4 (tgetD Breakpoint.reset k.breaks i).hits
      ∧ u.cluster n = { k with breaks := tset k.breaks i { tgetD Breakpoint.reset k.breaks i with hits := 0 } } ∧ u.run = s.run ∧ u.mem = s.mem)

/-- From R364 to R370, R375, R379 to R383: debug registers of a wave; a breakpoint's trap and stop; sampling and trace control. That
en going from 0 to 1 restarts a ring's pointers is log entry 78, that the lowest-numbered breakpoint acts while all count log entry 80, and
that a record's write reaches its page while it moves log entry 119. -/
def Obligations.HoldsBreakpointsSamplingAndTrace : Prop :=
  (∀ (s : State) (n w slot : Nat) (bits : BitVec 4) (p : Path), n < 128 → w < 32 → slot < 4 →
    (s.path ((32 * n + w) * 4 + slot) = some p → (∃ t q, exec (.debugSsWrite n w bits) s = .next t ∧ t.path ((32 * n + w) * 4 + slot) = some q
      ∧ q = { p with ss := bits.getLsbD slot } ∧ t.mem = s.mem ∧ t.run.waves = s.run.waves ∧ t.run.sregs = s.run.sregs))
    ∧ ((∀ k, k < 4 → ∀ q, s.path ((32 * n + w) * 4 + k) = some q → q.hold = true → bits.getLsbD k = true) →
      s.path ((32 * n + w) * 4 + slot) = some p → bits.getLsbD slot = true → ∃ t q, exec (.debugHoldWrite n w bits) s = .next t
        ∧ t.path ((32 * n + w) * 4 + slot) = some q ∧ q.hold = true ∧ { q with hold := p.hold, sleep := p.sleep } = p ∧ t.mem = s.mem
        ∧ t.run.waves = s.run.waves
        ∧ (q.hints = [] → (s.cluster (clusterOf n)).stepping ≠ some ((32 * n + w) * 4 + slot) → t.mayIssue ((32 * n + w) * 4 + slot) q = false))
    ∧ ((s.tokensOf (32 * n + w) = [] ∧ s.path ((32 * n + w) * 4 + slot) = some p ∧ p.hold = true ∧ bits = 0) →
      ∃ t, exec (.debugHoldWrite n w bits) s = .next t ∧ t.path ((32 * n + w) * 4 + slot) = some { p with hold := false, readyAt := s.icc n + 1 }
        ∧ t.mem = s.mem))
  ∧ (∀ (s : State) (pid i : Nat) (p : Path) (is : List Nat),
    let b := tgetD Breakpoint.reset (s.cluster (clusterOf (coreOf pid))).breaks i
    s.path pid = some p → p.wait ≠ .breakpoint →
    (b.stp = true → (s.cluster (clusterOf (coreOf pid))).stopping = none → ((s.breakAt pid p (i :: is)).cluster (clusterOf (coreOf pid))).stopping =
      some (s.icc (4 * clusterOf (coreOf pid))))
    ∧ (b.stp = false → s.breakAt pid p (i :: is) =
      ((s.setCluster (clusterOf (coreOf pid)) ((s.cluster (clusterOf (coreOf pid))).countBreaks (i :: is))).takeTrap pid 0x0E p.pc
        (BitVec.ofNat 64 b.adr) none)))
  ∧ (∀ (s : State) (n : Nat), n < 128 →
    let k := s.core n
    ((k.smpEn = false ∨ k.smpPer = 0 ∨ s.clk % (16 * k.smpPer) ≠ 0 ∨ s.clusterStopped (clusterOf n) = true ∨ s.run.halted = true) →
      exec (.stallSample n) s = .next s)
    ∧ (∀ w, k.smpEn = true → k.smpPer ≠ 0 → s.clk % (16 * k.smpPer) = 0 → s.clusterStopped (clusterOf n) = false → s.run.running = true →
      s.run.halted = false → s.nextSampled n = some w → exec (.stallSample n) s =
        .next { ((s.pathsOf (32 * n + w)).map fun q => s.sampleRecord q.1 q.2).foldl (fun t bs => t.writeSample n bs)
          (s.setCore n { k with smpLast := w }) with free := s.free + 1 })
    ∧ (∀ bs : List Byte, bs.length = 32 →
      (4096 * 2 ^ k.smpLsz < k.smpWp + 32 - k.smpRp → s.writeSample n bs = s.setCore n { k with smpDrop := min (k.smpDrop + 1) 0xFFFFFFFF })
      ∧ (∀ l : Nat → Loc, k.smpWp + 32 - k.smpRp ≤ 4096 * 2 ^ k.smpLsz → Memory.wf s.mem = true →
        (∀ j, j < 32 → s.reachStill n (k.smpBase + k.smpWp % (4096 * 2 ^ k.smpLsz) + j) = .at_ (l j)) →
        Stored s (s.writeSample n bs) (((List.range 32).map l).zip bs) [] ∧ ((s.writeSample n bs).core n).smpWp = k.smpWp + 32))
    ∧ (∀ v : Word, exec (.smpctlWrite n v) s = .next (s.setCore n { k with
        smpEn := v.getLsbD 31, smpLsz := (v.extractLsb' 16 5).toNat, smpPer := (v.extractLsb' 0 16).toNat,
        smpWp := if v.getLsbD 31 && !k.smpEn then 0 else k.smpWp, smpRp := if v.getLsbD 31 && !k.smpEn then 0 else k.smpRp }))
    ∧ (∃ t u, exec (.smpdropRead n) s = .next t ∧ t.hostData = bytesOf 4 k.smpDrop ∧ t.core n = { k with smpDrop := 0 } ∧ t.run = s.run ∧ t.mem = s.mem
      ∧ exec (.trlostRead n) s = .next u ∧ u.hostData = bytesOf 4 k.trLost ∧ u.core n = { k with trLost := 0 } ∧ u.run = s.run ∧ u.mem = s.mem)
    ∧ exec (.trstatGapClear n) s = .next (s.setCore n { k with trGap := false })
    ∧ (∀ v : Word, ∃ t, exec (.trctlWrite n v) s = .next t ∧ (t.core n).trEn = v.getLsbD 31 ∧ (t.core n).trWrap = v.getLsbD 30
      ∧ (t.core n).trLsz = (v.extractLsb' 0 4).toNat ∧ (t.core n).trBase = k.trBase ∧ t.mem = s.mem ∧ t.run.waves = s.run.waves
      ∧ (v.getLsbD 31 = true → k.trEn = false → (t.core n).trWp = 0 ∧ ∀ e ∈ t.run.paths, e.1 / 128 = n → e.2.traceSync = true)
      ∧ (v.getLsbD 31 = false ∨ k.trEn = true → (t.core n).trWp = k.trWp ∧ t.run = s.run)))

/-- From R376, R377, R378: a dump halts the context without recalling helpers or killing waves; its end writes the image or reports why
not, and every path is ready again. That a go with nothing to halt gives st 1, and the clock that the image holds, is log entry 53, and that the
image's write reaches a page while it moves log entry 119. A pre-emption requested meanwhile takes effect at the end. -/
def Obligations.LiveDump : Prop :=
  (∀ s : State,
    (s.dev.dumpBusy = true → exec .dumpctlGo s = .next s)
    ∧ (s.dev.dumpBusy = false → (s.run.running = false ∨ s.run.halted = true) →
      exec .dumpctlGo s = .next { s with dev := { s.dev with dumpSt := 1 } })
    ∧ (s.dev.dumpBusy = false → s.run.running = true → s.run.halted = false → (∀ k, (s.core k).trEn = false) →
      ∃ t, exec .dumpctlGo s = .next t ∧ t.run.halted = true ∧ t.dev.dumpBusy = true ∧ t.dumpClk = s.clk ∧ t.mem = s.mem ∧ t.ops = s.ops
        ∧ t.run.helpers = s.run.helpers ∧ t.run.waves = s.run.waves ∧ t.run.sregs = s.run.sregs ∧ t.run.vregs = s.run.vregs
        ∧ (t.run.paths.map fun e => (e.1, e.2.region, e.2.loan, e.2.mask)) = s.run.paths.map fun e => (e.1, e.2.region, e.2.loan, e.2.mask))
    ∧ ((s.dev.dumpBusy = false ∨ ∃ o ∈ s.ops, o.done = false) → exec .dumpEnd s = .next s)
    ∧ (s.dev.dumpBusy = true → s.quiet = true → s.dev.dumplen < s.image.length → (∀ k, (s.core k).trEn = false) →
      s.dev.preempt = false → ∃ t, exec .dumpEnd s = .next t ∧ t.dev.dumpBusy = false ∧ t.dev.dumpSt = 2 ∧ t.run.halted = false ∧ t.mem = s.mem ∧ t.sram = s.sram)
    ∧ (∀ w ok, s.dev.dumpBusy = true → s.quiet = true → s.image.length ≤ s.dev.dumplen → (∀ k, (s.core k).trEn = false) →
      s.writePieces s.dev.dumpadr (s.image.length / 4096 + 1) s.image = (w, ok) → s.dev.preempt = false →
      ∃ t, exec .dumpEnd s = .next t ∧ t.dev.dumpBusy = false ∧ t.dev.dumpSt = (if ok then 0 else 3) ∧ t.run.halted = false
        ∧ t.run.sregs = s.run.sregs ∧ t.run.vregs = s.run.vregs ∧ t.run.waves = s.run.waves ∧ t.mem = w.mem ∧ t.sram = w.sram)
    ∧ (s.dev.dumpBusy = true → s.quiet = true → s.dev.preempt = true → s.run.running = true → ∃ t, exec .dumpEnd s = .next t ∧ t.run.halted = true))
  ∧ (∀ (s : State) (va n : Nat) (bs : List Byte), bs ≠ [] → s.writePieces va (n + 1) bs =
      match s.writeVirtual noCore va (bs.take 4096) with
      | some t => t.writePieces (va + 4096) n (bs.drop 4096)
      | none => (s, false))
  ∧ (∀ (s : State) (va : Nat) (bs : List Byte) (l : Nat → Loc), Memory.wf s.mem = true →
    (∀ j, j < bs.length → s.reachStill noCore (va + j) = .at_ (l j)) →
    ∃ t, s.writeVirtual noCore va bs = some t ∧ t.run = s.run ∧ t.dev = s.dev ∧ Stored s t (((List.range bs.length).map l).zip bs) [])
  ∧ (∀ x : Section, x.encode.length % 16 = 0 ∧ numOf (x.encode.drop 8 |>.take 8) = x.bytes.length % 2 ^ 64 ∧ (x.encode.drop 16).take x.bytes.length = x.bytes)
  ∧ (∀ s : State, numOf (s.image.take 8) = s.image.length % 2 ^ 64 ∧ numOf ((s.image.drop 8).take 8) = s.dumpClk % 2 ^ 64
    ∧ numOf ((s.image.drop 24).take 8) = 0)
end

