-- ==== Sys2Proof/Laws/Arms.lean ====
section
/-! SUPPORT. The arms of `exec` one by one, and the state in which each wave instruction's own effect happens. -/

namespace Sys2Proof.Machine

variable (s : State) (c : Ctx)

/-! Arms of `exec`. -/

theorem exec_sadd (d : BitVec 7) (a : BitVec 7) (b : BitVec 7) : exec (.sadd d a b) s = execSadd d a b s := rfl
theorem exec_ssub (d : BitVec 7) (a : BitVec 7) (b : BitVec 7) : exec (.ssub d a b) s = execSsub d a b s := rfl
theorem exec_smul (d : BitVec 7) (a : BitVec 7) (b : BitVec 7) : exec (.smul d a b) s = execSmul d a b s := rfl
theorem exec_smulhI32 (d : BitVec 7) (a : BitVec 7) (b : BitVec 7) : exec (.smulhI32 d a b) s = execSmulhI32 d a b s := rfl
theorem exec_smulhN32 (d : BitVec 7) (a : BitVec 7) (b : BitVec 7) : exec (.smulhN32 d a b) s = execSmulhN32 d a b s := rfl
theorem exec_sdivI32 (d : BitVec 7) (a : BitVec 7) (b : BitVec 7) : exec (.sdivI32 d a b) s = execSdivI32 d a b s := rfl
theorem exec_sdivN32 (d : BitVec 7) (a : BitVec 7) (b : BitVec 7) : exec (.sdivN32 d a b) s = execSdivN32 d a b s := rfl
theorem exec_sremI32 (d : BitVec 7) (a : BitVec 7) (b : BitVec 7) : exec (.sremI32 d a b) s = execSremI32 d a b s := rfl
theorem exec_sremN32 (d : BitVec 7) (a : BitVec 7) (b : BitVec 7) : exec (.sremN32 d a b) s = execSremN32 d a b s := rfl
theorem exec_sand (d : BitVec 7) (a : BitVec 7) (b : BitVec 7) : exec (.sand d a b) s = execSand d a b s := rfl
theorem exec_sor (d : BitVec 7) (a : BitVec 7) (b : BitVec 7) : exec (.sor d a b) s = execSor d a b s := rfl
theorem exec_sxor (d : BitVec 7) (a : BitVec 7) (b : BitVec 7) : exec (.sxor d a b) s = execSxor d a b s := rfl
theorem exec_sandn (d : BitVec 7) (a : BitVec 7) (b : BitVec 7) : exec (.sandn d a b) s = execSandn d a b s := rfl
theorem exec_sshl (d : BitVec 7) (a : BitVec 7) (b : BitVec 7) : exec (.sshl d a b) s = execSshl d a b s := rfl
theorem exec_sshr (d : BitVec 7) (a : BitVec 7) (b : BitVec 7) : exec (.sshr d a b) s = execSshr d a b s := rfl
theorem exec_ssra (d : BitVec 7) (a : BitVec 7) (b : BitVec 7) : exec (.ssra d a b) s = execSsra d a b s := rfl
theorem exec_sminI32 (d : BitVec 7) (a : BitVec 7) (b : BitVec 7) : exec (.sminI32 d a b) s = execSminI32 d a b s := rfl
theorem exec_sminN32 (d : BitVec 7) (a : BitVec 7) (b : BitVec 7) : exec (.sminN32 d a b) s = execSminN32 d a b s := rfl
theorem exec_smaxI32 (d : BitVec 7) (a : BitVec 7) (b : BitVec 7) : exec (.smaxI32 d a b) s = execSmaxI32 d a b s := rfl
theorem exec_smaxN32 (d : BitVec 7) (a : BitVec 7) (b : BitVec 7) : exec (.smaxN32 d a b) s = execSmaxN32 d a b s := rfl
theorem exec_smov (d : BitVec 7) (a : BitVec 7) : exec (.smov d a) s = execSmov d a s := rfl
theorem exec_spopc (d : BitVec 7) (a : BitVec 7) : exec (.spopc d a) s = execSpopc d a s := rfl
theorem exec_sclz (d : BitVec 7) (a : BitVec 7) : exec (.sclz d a) s = execSclz d a s := rfl
theorem exec_sctz (d : BitVec 7) (a : BitVec 7) : exec (.sctz d a) s = execSctz d a s := rfl
theorem exec_sbrev (d : BitVec 7) (a : BitVec 7) : exec (.sbrev d a) s = execSbrev d a s := rfl
theorem exec_scmp (cond : CmpCond) (g : BitVec 3) (a : BitVec 7) (b : BitVec 7) : exec (.scmp cond g a b) s = execScmp cond g a b s := rfl
theorem exec_slea (d : BitVec 7) (a : BitVec 7) (b : BitVec 7) : exec (.slea d a b) s = execSlea d a b s := rfl
theorem exec_sbfi (d : BitVec 7) (a : BitVec 7) (b : BitVec 7) : exec (.sbfi d a b) s = execSbfi d a b s := rfl
theorem exec_ssel (d : BitVec 7) (a : BitVec 7) (b : BitVec 7) (n : BitVec 3) : exec (.ssel d a b n) s = execSsel d a b n s := rfl
theorem exec_saddImm (d : BitVec 7) (w : Bool) (i : BitVec 12) : exec (.saddImm d w i) s = execSaddImm d w i s := rfl
theorem exec_smulImm (d : BitVec 7) (w : Bool) (i : BitVec 12) : exec (.smulImm d w i) s = execSmulImm d w i s := rfl
theorem exec_sandImm (d : BitVec 7) (w : Bool) (i : BitVec 12) : exec (.sandImm d w i) s = execSandImm d w i s := rfl
theorem exec_sorImm (d : BitVec 7) (w : Bool) (i : BitVec 12) : exec (.sorImm d w i) s = execSorImm d w i s := rfl
theorem exec_sxorImm (d : BitVec 7) (w : Bool) (i : BitVec 12) : exec (.sxorImm d w i) s = execSxorImm d w i s := rfl
theorem exec_sshlImm (d : BitVec 7) (w : Bool) (i : BitVec 12) : exec (.sshlImm d w i) s = execSshlImm d w i s := rfl
theorem exec_sshrImm (d : BitVec 7) (w : Bool) (i : BitVec 12) : exec (.sshrImm d w i) s = execSshrImm d w i s := rfl
theorem exec_ssraImm (d : BitVec 7) (w : Bool) (i : BitVec 12) : exec (.ssraImm d w i) s = execSsraImm d w i s := rfl
theorem exec_sminI32Imm (d : BitVec 7) (w : Bool) (i : BitVec 12) : exec (.sminI32Imm d w i) s = execSminI32Imm d w i s := rfl
theorem exec_sminN32Imm (d : BitVec 7) (w : Bool) (i : BitVec 12) : exec (.sminN32Imm d w i) s = execSminN32Imm d w i s := rfl
theorem exec_smaxI32Imm (d : BitVec 7) (w : Bool) (i : BitVec 12) : exec (.smaxI32Imm d w i) s = execSmaxI32Imm d w i s := rfl
theorem exec_smaxN32Imm (d : BitVec 7) (w : Bool) (i : BitVec 12) : exec (.smaxN32Imm d w i) s = execSmaxN32Imm d w i s := rfl
theorem exec_smovImm (d : BitVec 7) (w : Bool) (i : BitVec 12) : exec (.smovImm d w i) s = execSmovImm d w i s := rfl
theorem exec_sbfeI32 (d : BitVec 7) (w : Bool) (i : BitVec 12) : exec (.sbfeI32 d w i) s = execSbfeI32 d w i s := rfl
theorem exec_sbfeN32 (d : BitVec 7) (w : Bool) (i : BitVec 12) : exec (.sbfeN32 d w i) s = execSbfeN32 d w i s := rfl
theorem exec_smovi (d : BitVec 6) (i : BitVec 20) : exec (.smovi d i) s = execSmovi d i s := rfl
theorem exec_srd (src : BitVec 7) (n : BitVec 12) : exec (.srd src n) s = execSrd src n s := rfl
theorem exec_swr (src : BitVec 7) (n : BitVec 12) : exec (.swr src n) s = execSwr src n s := rfl
theorem exec_nfset (src : BitVec 7) (n : BitVec 2) : exec (.nfset src n) s = execNfset src n s := rfl
theorem exec_br (g : BitVec 3) (o : BitVec 22) : exec (.br g o) s = execBr g o s := rfl
theorem exec_brn (g : BitVec 3) (o : BitVec 22) : exec (.brn g o) s = execBrn g o s := rfl
theorem exec_jmp (o : BitVec 23) : exec (.jmp o) s = execJmp o s := rfl
theorem exec_call (o : BitVec 23) : exec (.call o) s = execCall o s := rfl
theorem exec_jmpReg (a : BitVec 7) : exec (.jmpReg a) s = execJmpReg a s := rfl
theorem exec_callReg (a : BitVec 7) : exec (.callReg a) s = execCallReg a s := rfl
theorem exec_ret : exec .ret s = execRet s := rfl
theorem exec_vbr (n : Bool) (k : BitVec 3) (t : BitVec 10) (j : BitVec 10) : exec (.vbr n k t j) s = execVbr n k t j s := rfl
theorem exec_vbrk (n : Bool) (k : BitVec 3) : exec (.vbrk n k) s = execVbrk n k s := rfl
theorem exec_split (n : Bool) (k : BitVec 3) (t : BitVec 10) (j : BitVec 10) : exec (.split n k t j) s = execSplit n k t j s := rfl
theorem exec_join : exec .join s = execJoin s := rfl
theorem exec_exit : exec .exit s = execExit s := rfl
theorem exec_refill : exec .refill s = execRefill s := rfl
theorem exec_loan (d : BitVec 7) (a : BitVec 7) (x : BitVec 3) (y : BitVec 6) : exec (.loan d a x y) s = execLoan d a x y s := rfl
theorem exec_lnext (d : BitVec 7) (x : BitVec 3) : exec (.lnext d x) s = execLnext d x s := rfl
theorem exec_repay (d : BitVec 7) (a : BitVec 7) (r : RedOp) (t : RepayTy) : exec (.repay d a r t) s = execRepay d a r t s := rfl
theorem exec_ldone : exec .ldone s = execLdone s := rfl
theorem exec_rgn : exec .rgn s = execRgn s := rfl
theorem exec_barArrive (n : BitVec 4) : exec (.barArrive n) s = execBarArrive n s := rfl
theorem exec_barWait (n : BitVec 4) : exec (.barWait n) s = execBarWait n s := rfl
theorem exec_barSync (n : BitVec 4) : exec (.barSync n) s = execBarSync n s := rfl
theorem exec_waitC (l : BitVec 6) (src : BitVec 6) (cond : BitVec 4) (t : BitVec 4) : exec (.waitC l src cond t) s = execWaitC l src cond t s := rfl
theorem exec_yield : exec .yield s = execYield s := rfl
theorem exec_sleep (i : BitVec 16) : exec (.sleep i) s = execSleep i s := rfl
theorem exec_nop : exec .nop s = execNop s := rfl
theorem exec_wpred : exec .wpred s = execWpred s := rfl
theorem exec_sucstart : exec .sucstart s = execSucstart s := rfl
theorem exec_trap (cond : BitVec 8) : exec (.trap cond) s = execTrap cond s := rfl
theorem exec_eret : exec .eret s = execEret s := rfl
theorem exec_halt : exec .halt s = execHalt s := rfl
theorem exec_brkpt : exec .brkpt s = execBrkpt s := rfl
theorem exec_claim (n : Bool) (g : BitVec 3) (cond : BitVec 5) : exec (.claim n g cond) s = execClaim n g cond s := rfl
theorem exec_giveback (cond : BitVec 5) : exec (.giveback cond) s = execGiveback cond s := rfl
theorem exec_vadd (d : BitVec 7) (a : BitVec 7) (b : BitVec 7) : exec (.vadd d a b) s = execVadd d a b s := rfl
theorem exec_vsub (d : BitVec 7) (a : BitVec 7) (b : BitVec 7) : exec (.vsub d a b) s = execVsub d a b s := rfl
theorem exec_vmul (d : BitVec 7) (a : BitVec 7) (b : BitVec 7) : exec (.vmul d a b) s = execVmul d a b s := rfl
theorem exec_vmulhI32 (d : BitVec 7) (a : BitVec 7) (b : BitVec 7) : exec (.vmulhI32 d a b) s = execVmulhI32 d a b s := rfl
theorem exec_vmulhN32 (d : BitVec 7) (a : BitVec 7) (b : BitVec 7) : exec (.vmulhN32 d a b) s = execVmulhN32 d a b s := rfl
theorem exec_vmad (d : BitVec 7) (a : BitVec 7) (b : BitVec 7) : exec (.vmad d a b) s = execVmad d a b s := rfl
theorem exec_vand (d : BitVec 7) (a : BitVec 7) (b : BitVec 7) : exec (.vand d a b) s = execVand d a b s := rfl
theorem exec_vor (d : BitVec 7) (a : BitVec 7) (b : BitVec 7) : exec (.vor d a b) s = execVor d a b s := rfl
theorem exec_vxor (d : BitVec 7) (a : BitVec 7) (b : BitVec 7) : exec (.vxor d a b) s = execVxor d a b s := rfl
theorem exec_vandn (d : BitVec 7) (a : BitVec 7) (b : BitVec 7) : exec (.vandn d a b) s = execVandn d a b s := rfl
theorem exec_vshl (d : BitVec 7) (a : BitVec 7) (b : BitVec 7) : exec (.vshl d a b) s = execVshl d a b s := rfl
theorem exec_vshr (d : BitVec 7) (a : BitVec 7) (b : BitVec 7) : exec (.vshr d a b) s = execVshr d a b s := rfl
theorem exec_vsra (d : BitVec 7) (a : BitVec 7) (b : BitVec 7) : exec (.vsra d a b) s = execVsra d a b s := rfl
theorem exec_vminI32 (d : BitVec 7) (a : BitVec 7) (b : BitVec 7) : exec (.vminI32 d a b) s = execVminI32 d a b s := rfl
theorem exec_vminN32 (d : BitVec 7) (a : BitVec 7) (b : BitVec 7) : exec (.vminN32 d a b) s = execVminN32 d a b s := rfl
theorem exec_vmaxI32 (d : BitVec 7) (a : BitVec 7) (b : BitVec 7) : exec (.vmaxI32 d a b) s = execVmaxI32 d a b s := rfl
theorem exec_vmaxN32 (d : BitVec 7) (a : BitVec 7) (b : BitVec 7) : exec (.vmaxN32 d a b) s = execVmaxN32 d a b s := rfl
theorem exec_vabsdI32 (d : BitVec 7) (a : BitVec 7) (b : BitVec 7) : exec (.vabsdI32 d a b) s = execVabsdI32 d a b s := rfl
theorem exec_vabsdN32 (d : BitVec 7) (a : BitVec 7) (b : BitVec 7) : exec (.vabsdN32 d a b) s = execVabsdN32 d a b s := rfl
theorem exec_vpopc (d : BitVec 7) (a : BitVec 7) : exec (.vpopc d a) s = execVpopc d a s := rfl
theorem exec_vclz (d : BitVec 7) (a : BitVec 7) : exec (.vclz d a) s = execVclz d a s := rfl
theorem exec_vbrev (d : BitVec 7) (a : BitVec 7) : exec (.vbrev d a) s = execVbrev d a s := rfl
theorem exec_vbfeI32 (d : BitVec 7) (a : BitVec 7) (b : BitVec 7) : exec (.vbfeI32 d a b) s = execVbfeI32 d a b s := rfl
theorem exec_vbfeN32 (d : BitVec 7) (a : BitVec 7) (b : BitVec 7) : exec (.vbfeN32 d a b) s = execVbfeN32 d a b s := rfl
theorem exec_vbfi (d : BitVec 7) (a : BitVec 7) (b : BitVec 7) : exec (.vbfi d a b) s = execVbfi d a b s := rfl
theorem exec_vaddImm (d : BitVec 7) (a : BitVec 7) (i : BitVec 8) : exec (.vaddImm d a i) s = execVaddImm d a i s := rfl
theorem exec_vmulImm (d : BitVec 7) (a : BitVec 7) (i : BitVec 8) : exec (.vmulImm d a i) s = execVmulImm d a i s := rfl
theorem exec_vandImm (d : BitVec 7) (a : BitVec 7) (i : BitVec 8) : exec (.vandImm d a i) s = execVandImm d a i s := rfl
theorem exec_vorImm (d : BitVec 7) (a : BitVec 7) (i : BitVec 8) : exec (.vorImm d a i) s = execVorImm d a i s := rfl
theorem exec_vxorImm (d : BitVec 7) (a : BitVec 7) (i : BitVec 8) : exec (.vxorImm d a i) s = execVxorImm d a i s := rfl
theorem exec_vandnImm (d : BitVec 7) (a : BitVec 7) (i : BitVec 8) : exec (.vandnImm d a i) s = execVandnImm d a i s := rfl
theorem exec_vshlImm (d : BitVec 7) (a : BitVec 7) (i : BitVec 8) : exec (.vshlImm d a i) s = execVshlImm d a i s := rfl
theorem exec_vshrImm (d : BitVec 7) (a : BitVec 7) (i : BitVec 8) : exec (.vshrImm d a i) s = execVshrImm d a i s := rfl
theorem exec_vsraImm (d : BitVec 7) (a : BitVec 7) (i : BitVec 8) : exec (.vsraImm d a i) s = execVsraImm d a i s := rfl
theorem exec_vminI32Imm (d : BitVec 7) (a : BitVec 7) (i : BitVec 8) : exec (.vminI32Imm d a i) s = execVminI32Imm d a i s := rfl
theorem exec_vminN32Imm (d : BitVec 7) (a : BitVec 7) (i : BitVec 8) : exec (.vminN32Imm d a i) s = execVminN32Imm d a i s := rfl
theorem exec_vmaxI32Imm (d : BitVec 7) (a : BitVec 7) (i : BitVec 8) : exec (.vmaxI32Imm d a i) s = execVmaxI32Imm d a i s := rfl
theorem exec_vmaxN32Imm (d : BitVec 7) (a : BitVec 7) (i : BitVec 8) : exec (.vmaxN32Imm d a i) s = execVmaxN32Imm d a i s := rfl
theorem exec_vabsdI32Imm (d : BitVec 7) (a : BitVec 7) (i : BitVec 8) : exec (.vabsdI32Imm d a i) s = execVabsdI32Imm d a i s := rfl
theorem exec_vabsdN32Imm (d : BitVec 7) (a : BitVec 7) (i : BitVec 8) : exec (.vabsdN32Imm d a i) s = execVabsdN32Imm d a i s := rfl
theorem exec_vfadd (d : BitVec 7) (a : BitVec 7) (b : BitVec 7) : exec (.vfadd d a b) s = execVfadd d a b s := rfl
theorem exec_vfsub (d : BitVec 7) (a : BitVec 7) (b : BitVec 7) : exec (.vfsub d a b) s = execVfsub d a b s := rfl
theorem exec_vfmul (d : BitVec 7) (a : BitVec 7) (b : BitVec 7) : exec (.vfmul d a b) s = execVfmul d a b s := rfl
theorem exec_vfmin (d : BitVec 7) (a : BitVec 7) (b : BitVec 7) : exec (.vfmin d a b) s = execVfmin d a b s := rfl
theorem exec_vfmax (d : BitVec 7) (a : BitVec 7) (b : BitVec 7) : exec (.vfmax d a b) s = execVfmax d a b s := rfl
theorem exec_vfscale (d : BitVec 7) (a : BitVec 7) (b : BitVec 7) : exec (.vfscale d a b) s = execVfscale d a b s := rfl
theorem exec_vfclass (d : BitVec 7) (a : BitVec 7) : exec (.vfclass d a) s = execVfclass d a s := rfl
theorem exec_vhadd (d : BitVec 7) (a : BitVec 7) (b : BitVec 7) : exec (.vhadd d a b) s = execVhadd d a b s := rfl
theorem exec_vhmul (d : BitVec 7) (a : BitVec 7) (b : BitVec 7) : exec (.vhmul d a b) s = execVhmul d a b s := rfl
theorem exec_vffma (d : BitVec 7) (a : BitVec 7) (b : BitVec 7) : exec (.vffma d a b) s = execVffma d a b s := rfl
theorem exec_vhfma (d : BitVec 7) (a : BitVec 7) (b : BitVec 7) : exec (.vhfma d a b) s = execVhfma d a b s := rfl
theorem exec_vfrcp (d : BitVec 7) (a : BitVec 7) : exec (.vfrcp d a) s = execVfrcp d a s := rfl
theorem exec_vfrsq (d : BitVec 7) (a : BitVec 7) : exec (.vfrsq d a) s = execVfrsq d a s := rfl
theorem exec_vfsqrt (d : BitVec 7) (a : BitVec 7) : exec (.vfsqrt d a) s = execVfsqrt d a s := rfl
theorem exec_vfdiv (d : BitVec 7) (a : BitVec 7) (b : BitVec 7) : exec (.vfdiv d a b) s = execVfdiv d a b s := rfl
theorem exec_vfexp2 (d : BitVec 7) (a : BitVec 7) : exec (.vfexp2 d a) s = execVfexp2 d a s := rfl
theorem exec_vflog2 (d : BitVec 7) (a : BitVec 7) : exec (.vflog2 d a) s = execVflog2 d a s := rfl
theorem exec_vfsin (d : BitVec 7) (a : BitVec 7) : exec (.vfsin d a) s = execVfsin d a s := rfl
theorem exec_vfcos (d : BitVec 7) (a : BitVec 7) : exec (.vfcos d a) s = execVfcos d a s := rfl
theorem exec_vfexp (d : BitVec 7) (a : BitVec 7) : exec (.vfexp d a) s = execVfexp d a s := rfl
theorem exec_vfcvtF32I32 (d : BitVec 7) (a : BitVec 7) : exec (.vfcvtF32I32 d a) s = execVfcvtF32I32 d a s := rfl
theorem exec_vfcvtF32N32 (d : BitVec 7) (a : BitVec 7) : exec (.vfcvtF32N32 d a) s = execVfcvtF32N32 d a s := rfl
theorem exec_vfcvtI32F32 (d : BitVec 7) (a : BitVec 7) : exec (.vfcvtI32F32 d a) s = execVfcvtI32F32 d a s := rfl
theorem exec_vfcvtN32F32 (d : BitVec 7) (a : BitVec 7) : exec (.vfcvtN32F32 d a) s = execVfcvtN32F32 d a s := rfl
theorem exec_vfcvtF32F16 (d : BitVec 7) (a : BitVec 7) (src : BitVec 4) : exec (.vfcvtF32F16 d a src) s = execVfcvtF32F16 d a src s := rfl
theorem exec_vfcvtF16F32 (d : BitVec 7) (a : BitVec 7) (src : BitVec 4) : exec (.vfcvtF16F32 d a src) s = execVfcvtF16F32 d a src s := rfl
theorem exec_vfcvtF32Bf16 (d : BitVec 7) (a : BitVec 7) (src : BitVec 4) : exec (.vfcvtF32Bf16 d a src) s = execVfcvtF32Bf16 d a src s := rfl
theorem exec_vfcvtBf16F32 (d : BitVec 7) (a : BitVec 7) (src : BitVec 4) : exec (.vfcvtBf16F32 d a src) s = execVfcvtBf16F32 d a src s := rfl
theorem exec_vfcvtF32E4m3 (d : BitVec 7) (a : BitVec 7) (src : BitVec 4) : exec (.vfcvtF32E4m3 d a src) s = execVfcvtF32E4m3 d a src s := rfl
theorem exec_vfcvtE4m3F32 (d : BitVec 7) (a : BitVec 7) (src : BitVec 4) : exec (.vfcvtE4m3F32 d a src) s = execVfcvtE4m3F32 d a src s := rfl
theorem exec_vfcvtF32E5m2 (d : BitVec 7) (a : BitVec 7) (src : BitVec 4) : exec (.vfcvtF32E5m2 d a src) s = execVfcvtF32E5m2 d a src s := rfl
theorem exec_vfcvtE5m2F32 (d : BitVec 7) (a : BitVec 7) (src : BitVec 4) : exec (.vfcvtE5m2F32 d a src) s = execVfcvtE5m2F32 d a src s := rfl
theorem exec_vfcvtI32I8 (d : BitVec 7) (a : BitVec 7) (src : BitVec 4) : exec (.vfcvtI32I8 d a src) s = execVfcvtI32I8 d a src s := rfl
theorem exec_vfcvtI8I32 (d : BitVec 7) (a : BitVec 7) (src : BitVec 4) : exec (.vfcvtI8I32 d a src) s = execVfcvtI8I32 d a src s := rfl
theorem exec_vfcvtI32Tri (d : BitVec 7) (a : BitVec 7) (src : BitVec 4) : exec (.vfcvtI32Tri d a src) s = execVfcvtI32Tri d a src s := rfl
theorem exec_vfcvtTriI32 (d : BitVec 7) (a : BitVec 7) (src : BitVec 4) : exec (.vfcvtTriI32 d a src) s = execVfcvtTriI32 d a src s := rfl
theorem exec_vncvtF32 (d : BitVec 7) (a : BitVec 7) (src : BitVec 4) (n : BitVec 2) : exec (.vncvtF32 d a src n) s = execVncvtF32 d a src n s := rfl
theorem exec_vncvtNf (d : BitVec 7) (a : BitVec 7) (src : BitVec 4) (n : BitVec 2) : exec (.vncvtNf d a src n) s = execVncvtNf d a src n s := rfl
theorem exec_vfcvtI32I16 (d : BitVec 7) (a : BitVec 7) (src : BitVec 4) : exec (.vfcvtI32I16 d a src) s = execVfcvtI32I16 d a src s := rfl
theorem exec_vfcvtI16I32 (d : BitVec 7) (a : BitVec 7) (src : BitVec 4) : exec (.vfcvtI16I32 d a src) s = execVfcvtI16I32 d a src s := rfl
theorem exec_vfcvtN32N8 (d : BitVec 7) (a : BitVec 7) (src : BitVec 4) : exec (.vfcvtN32N8 d a src) s = execVfcvtN32N8 d a src s := rfl
theorem exec_vfcvtN8N32 (d : BitVec 7) (a : BitVec 7) (src : BitVec 4) : exec (.vfcvtN8N32 d a src) s = execVfcvtN8N32 d a src s := rfl
theorem exec_vfcvtN32N16 (d : BitVec 7) (a : BitVec 7) (src : BitVec 4) : exec (.vfcvtN32N16 d a src) s = execVfcvtN32N16 d a src s := rfl
theorem exec_vfcvtN16N32 (d : BitVec 7) (a : BitVec 7) (src : BitVec 4) : exec (.vfcvtN16N32 d a src) s = execVfcvtN16N32 d a src s := rfl
theorem exec_vshfl (d : BitVec 7) (a : BitVec 7) (b : BitVec 7) : exec (.vshfl d a b) s = execVshfl d a b s := rfl
theorem exec_vbfly (d : BitVec 7) (a : BitVec 7) (m : BitVec 7) : exec (.vbfly d a m) s = execVbfly d a m s := rfl
theorem exec_vbcast (d : BitVec 7) (a : BitVec 7) (n : BitVec 7) : exec (.vbcast d a n) s = execVbcast d a n s := rfl
theorem exec_vrfl (d : BitVec 7) (a : BitVec 7) : exec (.vrfl d a) s = execVrfl d a s := rfl
theorem exec_vred (d : BitVec 7) (a : BitVec 7) (o : RedOp) (t : ElemTy) : exec (.vred d a o t) s = execVred d a o t s := rfl
theorem exec_vredmi (d : BitVec 7) (a : BitVec 7) (t : ElemTy) : exec (.vredmi d a t) s = execVredmi d a t s := rfl
theorem exec_vscan (d : BitVec 7) (a : BitVec 7) (o : RedOp) (t : ElemTy) (x : Bool) : exec (.vscan d a o t x) s = execVscan d a o t x s := rfl
theorem exec_vnbr (d : BitVec 7) (a : BitVec 7) (src : NbrSel) (k : BitVec 3) : exec (.vnbr d a src k) s = execVnbr d a src k s := rfl
theorem exec_vddx (d : BitVec 7) (a : BitVec 7) (k : BitVec 3) : exec (.vddx d a k) s = execVddx d a k s := rfl
theorem exec_vddy (d : BitVec 7) (a : BitVec 7) (k : BitVec 3) : exec (.vddy d a k) s = execVddy d a k s := rfl
theorem exec_vballot (d : BitVec 7) (k : BitVec 3) : exec (.vballot d k) s = execVballot d k s := rfl
theorem exec_vcount (d : BitVec 7) (k : BitVec 3) : exec (.vcount d k) s = execVcount d k s := rfl
theorem exec_vcmpI32 (k : BitVec 3) (cond : CmpCond) (a : BitVec 7) (b : BitVec 7) (m : CmpMode) : exec (.vcmpI32 k cond a b m) s = execVcmpI32 k cond a b m s := rfl
theorem exec_vcmpN32 (k : BitVec 3) (cond : CmpCond) (a : BitVec 7) (b : BitVec 7) (m : CmpMode) : exec (.vcmpN32 k cond a b m) s = execVcmpN32 k cond a b m s := rfl
theorem exec_vfcmp (k : BitVec 3) (cond : CmpCond) (a : BitVec 7) (b : BitVec 7) (m : CmpMode) : exec (.vfcmp k cond a b m) s = execVfcmp k cond a b m s := rfl
theorem exec_kand (d : BitVec 3) (a : BitVec 3) (b : BitVec 3) (p : Bool) : exec (.kand d a b p) s = execKand d a b p s := rfl
theorem exec_kor (d : BitVec 3) (a : BitVec 3) (b : BitVec 3) (p : Bool) : exec (.kor d a b p) s = execKor d a b p s := rfl
theorem exec_kxor (d : BitVec 3) (a : BitVec 3) (b : BitVec 3) (p : Bool) : exec (.kxor d a b p) s = execKxor d a b p s := rfl
theorem exec_kandn (d : BitVec 3) (a : BitVec 3) (b : BitVec 3) (p : Bool) : exec (.kandn d a b p) s = execKandn d a b p s := rfl
theorem exec_knot (d : BitVec 3) (a : BitVec 3) (p : Bool) : exec (.knot d a p) s = execKnot d a p s := rfl
theorem exec_kmov (d : BitVec 3) (a : BitVec 3) (p : Bool) : exec (.kmov d a p) s = execKmov d a p s := rfl
theorem exec_kmovFromScalar (d : BitVec 3) (src : BitVec 7) : exec (.kmovFromScalar d src) s = execKmovFromScalar d src s := rfl
theorem exec_kmovToScalar (a : BitVec 3) (src : BitVec 7) : exec (.kmovToScalar a src) s = execKmovToScalar a src s := rfl
theorem exec_kpop (a : BitVec 3) (src : BitVec 7) : exec (.kpop a src) s = execKpop a src s := rfl
theorem exec_kany (d : BitVec 3) (a : BitVec 3) : exec (.kany d a) s = execKany d a s := rfl
theorem exec_kall (d : BitVec 3) (a : BitVec 3) : exec (.kall d a) s = execKall d a s := rfl
theorem exec_vnadd (d : BitVec 7) (a : BitVec 7) (b : BitVec 7) (n : BitVec 2) : exec (.vnadd d a b n) s = execVnadd d a b n s := rfl
theorem exec_vnmul (d : BitVec 7) (a : BitVec 7) (b : BitVec 7) (n : BitVec 2) : exec (.vnmul d a b n) s = execVnmul d a b n s := rfl
theorem exec_vnfma (d : BitVec 7) (a : BitVec 7) (b : BitVec 7) (n : BitVec 2) : exec (.vnfma d a b n) s = execVnfma d a b n s := rfl
theorem exec_vsel (d : BitVec 7) (a : BitVec 7) (b : BitVec 7) (k : BitVec 3) : exec (.vsel d a b k) s = execVsel d a b k s := rfl
theorem exec_vmov (d : BitVec 7) (a : BitVec 7) : exec (.vmov d a) s = execVmov d a s := rfl
theorem exec_vmovScalar (d : BitVec 7) (a : BitVec 7) : exec (.vmovScalar d a) s = execVmovScalar d a s := rfl
theorem exec_vmovi (d : BitVec 7) (i : BitVec 14) : exec (.vmovi d i) s = execVmovi d i s := rfl
theorem exec_vsr (d : BitVec 7) (n : BitVec 12) : exec (.vsr d n) s = execVsr d n s := rfl
theorem exec_vld (d : BitVec 7) (a : BitVec 7) (src : BitVec 7) (w : MemWidth) (p : Space) : exec (.vld d a src w p) s = execVld d a src w p s := rfl
theorem exec_vst (d : BitVec 7) (a : BitVec 7) (src : BitVec 7) (w : MemWidth) (p : Space) : exec (.vst d a src w p) s = execVst d a src w p s := rfl
theorem exec_sld (d : BitVec 7) (a : BitVec 6) (o : BitVec 7) (w : MemWidth) (p : Space) : exec (.sld d a o w p) s = execSld d a o w p s := rfl
theorem exec_sst (d : BitVec 7) (a : BitVec 6) (o : BitVec 7) (w : MemWidth) (p : Space) : exec (.sst d a o w p) s = execSst d a o w p s := rfl
theorem exec_vatomAddN32 (d : BitVec 7) (a : BitVec 7) (src : BitVec 7) (p : Bool) : exec (.vatomAddN32 d a src p) s = execVatomAddN32 d a src p s := rfl
theorem exec_vatomAddF32 (d : BitVec 7) (a : BitVec 7) (src : BitVec 7) (p : Bool) : exec (.vatomAddF32 d a src p) s = execVatomAddF32 d a src p s := rfl
theorem exec_vatomMinI32 (d : BitVec 7) (a : BitVec 7) (src : BitVec 7) (p : Bool) : exec (.vatomMinI32 d a src p) s = execVatomMinI32 d a src p s := rfl
theorem exec_vatomMinN32 (d : BitVec 7) (a : BitVec 7) (src : BitVec 7) (p : Bool) : exec (.vatomMinN32 d a src p) s = execVatomMinN32 d a src p s := rfl
theorem exec_vatomMaxI32 (d : BitVec 7) (a : BitVec 7) (src : BitVec 7) (p : Bool) : exec (.vatomMaxI32 d a src p) s = execVatomMaxI32 d a src p s := rfl
theorem exec_vatomMaxN32 (d : BitVec 7) (a : BitVec 7) (src : BitVec 7) (p : Bool) : exec (.vatomMaxN32 d a src p) s = execVatomMaxN32 d a src p s := rfl
theorem exec_vatomAnd (d : BitVec 7) (a : BitVec 7) (src : BitVec 7) (p : Bool) : exec (.vatomAnd d a src p) s = execVatomAnd d a src p s := rfl
theorem exec_vatomOr (d : BitVec 7) (a : BitVec 7) (src : BitVec 7) (p : Bool) : exec (.vatomOr d a src p) s = execVatomOr d a src p s := rfl
theorem exec_vatomXor (d : BitVec 7) (a : BitVec 7) (src : BitVec 7) (p : Bool) : exec (.vatomXor d a src p) s = execVatomXor d a src p s := rfl
theorem exec_vatomSwap (d : BitVec 7) (a : BitVec 7) (src : BitVec 7) (p : Bool) : exec (.vatomSwap d a src p) s = execVatomSwap d a src p s := rfl
theorem exec_vatomCas (d : BitVec 7) (a : BitVec 7) (src : BitVec 7) (p : Bool) : exec (.vatomCas d a src p) s = execVatomCas d a src p s := rfl
theorem exec_vatomAddN64 (d : BitVec 7) (a : BitVec 7) (src : BitVec 7) (p : Bool) : exec (.vatomAddN64 d a src p) s = execVatomAddN64 d a src p s := rfl
theorem exec_satomAddN32 (d : BitVec 7) (a : BitVec 7) (o : BitVec 7) (p : Bool) : exec (.satomAddN32 d a o p) s = execSatomAddN32 d a o p s := rfl
theorem exec_satomAddF32 (d : BitVec 7) (a : BitVec 7) (o : BitVec 7) (p : Bool) : exec (.satomAddF32 d a o p) s = execSatomAddF32 d a o p s := rfl
theorem exec_satomMinI32 (d : BitVec 7) (a : BitVec 7) (o : BitVec 7) (p : Bool) : exec (.satomMinI32 d a o p) s = execSatomMinI32 d a o p s := rfl
theorem exec_satomMinN32 (d : BitVec 7) (a : BitVec 7) (o : BitVec 7) (p : Bool) : exec (.satomMinN32 d a o p) s = execSatomMinN32 d a o p s := rfl
theorem exec_satomMaxI32 (d : BitVec 7) (a : BitVec 7) (o : BitVec 7) (p : Bool) : exec (.satomMaxI32 d a o p) s = execSatomMaxI32 d a o p s := rfl
theorem exec_satomMaxN32 (d : BitVec 7) (a : BitVec 7) (o : BitVec 7) (p : Bool) : exec (.satomMaxN32 d a o p) s = execSatomMaxN32 d a o p s := rfl
theorem exec_satomAnd (d : BitVec 7) (a : BitVec 7) (o : BitVec 7) (p : Bool) : exec (.satomAnd d a o p) s = execSatomAnd d a o p s := rfl
theorem exec_satomOr (d : BitVec 7) (a : BitVec 7) (o : BitVec 7) (p : Bool) : exec (.satomOr d a o p) s = execSatomOr d a o p s := rfl
theorem exec_satomXor (d : BitVec 7) (a : BitVec 7) (o : BitVec 7) (p : Bool) : exec (.satomXor d a o p) s = execSatomXor d a o p s := rfl
theorem exec_satomSwap (d : BitVec 7) (a : BitVec 7) (o : BitVec 7) (p : Bool) : exec (.satomSwap d a o p) s = execSatomSwap d a o p s := rfl
theorem exec_satomCas (d : BitVec 7) (a : BitVec 7) (o : BitVec 7) (p : Bool) : exec (.satomCas d a o p) s = execSatomCas d a o p s := rfl
theorem exec_satomAddN64 (d : BitVec 7) (a : BitVec 7) (o : BitVec 7) (p : Bool) : exec (.satomAddN64 d a o p) s = execSatomAddN64 d a o p s := rfl
theorem exec_fence (p : BitVec 4) (src : BitVec 4) (cond : Scope) : exec (.fence p src cond) s = execFence p src cond s := rfl
theorem exec_fenceOwn (cond : Scope) : exec (.fenceOwn cond) s = execFenceOwn cond s := rfl
theorem exec_fenceFar (cond : Scope) : exec (.fenceFar cond) s = execFenceFar cond s := rfl
theorem exec_qpush (n : Bool) (g : BitVec 3) (q : BitVec 3) (src : BitVec 7) : exec (.qpush n g q src) s = execQpush n g q src s := rfl
theorem exec_qpop (n : Bool) (g : BitVec 3) (q : BitVec 3) (src : BitVec 7) : exec (.qpop n g q src) s = execQpop n g q src s := rfl
theorem exec_tqEnq (n : Bool) (g : BitVec 3) (src : BitVec 7) : exec (.tqEnq n g src) s = execTqEnq n g src s := rfl
theorem exec_tqDeq (n : Bool) (g : BitVec 3) (src : BitVec 7) : exec (.tqDeq n g src) s = execTqDeq n g src s := rfl
theorem exec_mint (d : BitVec 7) (a : BitVec 7) : exec (.mint d a) s = execMint d a s := rfl
theorem exec_vpin (d : BitVec 7) (a : BitVec 7) : exec (.vpin d a) s = execVpin d a s := rfl
theorem exec_xput (d : BitVec 7) (a : BitVec 7) (src : BitVec 7) (w : MemWidth) (cond : BitVec 2) : exec (.xput d a src w cond) s = execXput d a src w cond s := rfl
theorem exec_cpTile (t : BitVec 7) (a : BitVec 7) (b : BitVec 7) : exec (.cpTile t a b) s = execCpTile t a b s := rfl
theorem exec_cpBdeck (t : BitVec 7) (a : BitVec 7) (b : BitVec 7) : exec (.cpBdeck t a b) s = execCpBdeck t a b s := rfl
theorem exec_cpStore (t : BitVec 7) (a : BitVec 7) (b : BitVec 7) : exec (.cpStore t a b) s = execCpStore t a b s := rfl
theorem exec_cpCopy (cond : BitVec 7) (a : BitVec 7) (b : BitVec 7) : exec (.cpCopy cond a b) s = execCpCopy cond a b s := rfl
theorem exec_tdef (t : BitVec 7) (src : BitVec 7) : exec (.tdef t src) s = execTdef t src s := rfl
theorem exec_tfree (t : BitVec 7) : exec (.tfree t) s = execTfree t s := rfl
theorem exec_tstat (t : BitVec 7) (src : BitVec 7) : exec (.tstat t src) s = execTstat t src s := rfl
theorem exec_tex3 (d : BitVec 7) (a : BitVec 7) (b : BitVec 7) : exec (.tex3 d a b) s = execTex3 d a b s := rfl
theorem exec_texp (d : BitVec 7) (a : BitVec 7) (b : BitVec 7) : exec (.texp d a b) s = execTexp d a b s := rfl
theorem exec_isectRay (d : BitVec 7) (a : BitVec 7) (b : BitVec 7) : exec (.isectRay d a b) s = execIsectRay d a b s := rfl
theorem exec_isectTile (d : BitVec 7) (a : BitVec 7) (b : BitVec 7) : exec (.isectTile d a b) s = execIsectTile d a b s := rfl
theorem exec_isectNext (d : BitVec 7) : exec (.isectNext d) s = execIsectNext d s := rfl
theorem exec_hdesc (a : BitVec 7) : exec (.hdesc a) s = execHdesc a s := rfl
theorem exec_hgath (d : BitVec 7) (a : BitVec 7) : exec (.hgath d a) s = execHgath d a s := rfl
theorem exec_hscat (a : BitVec 7) (b : BitVec 7) : exec (.hscat a b) s = execHscat a b s := rfl
theorem exec_vaccRd (v : BitVec 7) (src : BitVec 7) (q : BitVec 2) (n : BitVec 3) : exec (.vaccRd v src q n) s = execVaccRd v src q n s := rfl
theorem exec_vaccWr (v : BitVec 7) (src : BitVec 7) (q : BitVec 2) (n : BitVec 3) : exec (.vaccWr v src q n) s = execVaccWr v src q n s := rfl
theorem exec_mmaE4m3E4m3 (z : Bool) (a : BitVec 7) (b : BitVec 7) (m : BitVec 3) : exec (.mmaE4m3E4m3 z a b m) s = execMmaE4m3E4m3 z a b m s := rfl
theorem exec_mmaE4m3E5m2 (z : Bool) (a : BitVec 7) (b : BitVec 7) (m : BitVec 3) : exec (.mmaE4m3E5m2 z a b m) s = execMmaE4m3E5m2 z a b m s := rfl
theorem exec_mmaE5m2E4m3 (z : Bool) (a : BitVec 7) (b : BitVec 7) (m : BitVec 3) : exec (.mmaE5m2E4m3 z a b m) s = execMmaE5m2E4m3 z a b m s := rfl
theorem exec_mmaE5m2E5m2 (z : Bool) (a : BitVec 7) (b : BitVec 7) (m : BitVec 3) : exec (.mmaE5m2E5m2 z a b m) s = execMmaE5m2E5m2 z a b m s := rfl
theorem exec_mmaI8 (z : Bool) (a : BitVec 7) (b : BitVec 7) (m : BitVec 3) : exec (.mmaI8 z a b m) s = execMmaI8 z a b m s := rfl
theorem exec_mmaBf16 (z : Bool) (a : BitVec 7) (b : BitVec 7) (m : BitVec 3) : exec (.mmaBf16 z a b m) s = execMmaBf16 z a b m s := rfl
theorem exec_mmaF16 (z : Bool) (a : BitVec 7) (b : BitVec 7) (m : BitVec 3) : exec (.mmaF16 z a b m) s = execMmaF16 z a b m s := rfl
theorem exec_mmaTriI8 (z : Bool) (a : BitVec 7) (b : BitVec 7) (m : BitVec 3) : exec (.mmaTriI8 z a b m) s = execMmaTriI8 z a b m s := rfl
theorem exec_mmapShape (m : BitVec 3) (x : BitVec 8) (y : BitVec 9) : exec (.mmapShape m x y) s = execMmapShape m x y s := rfl
theorem exec_mmapK (m : BitVec 3) (k : BitVec 13) (o : BitVec 8) : exec (.mmapK m k o) s = execMmapK m k o s := rfl
theorem exec_mmapAcc (m : BitVec 3) (r : BitVec 10) (a : Bool) (b : Bool) : exec (.mmapAcc m r a b) s = execMmapAcc m r a b s := rfl
theorem exec_macz (r : BitVec 10) (cond : BitVec 11) : exec (.macz r cond) s = execMacz r cond s := rfl
theorem exec_mscl (d : BitVec 3) (src : BitVec 3) (t : BitVec 7) (m : MsclMode) : exec (.mscl d src t m) s = execMscl d src t m s := rfl
theorem exec_mbarWait (n : BitVec 4) : exec (.mbarWait n) s = execMbarWait n s := rfl
theorem exec_mbarSig (n : BitVec 4) : exec (.mbarSig n) s = execMbarSig n s := rfl
theorem exec_mloop (cond : BitVec 2) (o : BitVec 21) : exec (.mloop cond o) s = execMloop cond o s := rfl
theorem exec_mend : exec .mend s = execMend s := rfl
theorem exec_mhalt : exec .mhalt s = execMhalt s := rfl
theorem exec_mrel (t : BitVec 7) : exec (.mrel t) s = execMrel t s := rfl
theorem exec_mset (cond : BitVec 2) (i : BitVec 21) : exec (.mset cond i) s = execMset cond i s := rfl
theorem exec_pfx (i : BitVec 24) : exec (.pfx i) s = execPfx i s := rfl
theorem exec_mod (m : ModFields) : exec (.mod m) s = execMod m s := rfl
theorem exec_sch (y : Bool) (u : BitVec 3) (src : BitVec 4) : exec (.sch y u src) s = execSch y u src s := rfl
theorem exec_send (p : BitVec 4) (b : BitVec 4) (d : BitVec 4) (cond : BitVec 4) : exec (.send p b d cond) s = execSend p b d cond s := rfl
theorem exec_recv (p : BitVec 4) (b : BitVec 4) (d : BitVec 4) (cond : BitVec 4) : exec (.recv p b d cond) s = execRecv p b d cond s := rfl
theorem exec_redAddF32 (m : BitVec 4) (b : BitVec 4) (d : BitVec 4) (src : BitVec 4) (e : BitVec 4) (cond : BitVec 4) : exec (.redAddF32 m b d src e cond) s = execRedAddF32 m b d src e cond s := rfl
theorem exec_redAddI32 (m : BitVec 4) (b : BitVec 4) (d : BitVec 4) (src : BitVec 4) (e : BitVec 4) (cond : BitVec 4) : exec (.redAddI32 m b d src e cond) s = execRedAddI32 m b d src e cond s := rfl
theorem exec_redMinF32 (m : BitVec 4) (b : BitVec 4) (d : BitVec 4) (src : BitVec 4) (e : BitVec 4) (cond : BitVec 4) : exec (.redMinF32 m b d src e cond) s = execRedMinF32 m b d src e cond s := rfl
theorem exec_redMaxF32 (m : BitVec 4) (b : BitVec 4) (d : BitVec 4) (src : BitVec 4) (e : BitVec 4) (cond : BitVec 4) : exec (.redMaxF32 m b d src e cond) s = execRedMaxF32 m b d src e cond s := rfl
theorem exec_redMinI32 (m : BitVec 4) (b : BitVec 4) (d : BitVec 4) (src : BitVec 4) (e : BitVec 4) (cond : BitVec 4) : exec (.redMinI32 m b d src e cond) s = execRedMinI32 m b d src e cond s := rfl
theorem exec_redMaxI32 (m : BitVec 4) (b : BitVec 4) (d : BitVec 4) (src : BitVec 4) (e : BitVec 4) (cond : BitVec 4) : exec (.redMaxI32 m b d src e cond) s = execRedMaxI32 m b d src e cond s := rfl
theorem exec_redAndB32 (m : BitVec 4) (b : BitVec 4) (d : BitVec 4) (src : BitVec 4) (e : BitVec 4) (cond : BitVec 4) : exec (.redAndB32 m b d src e cond) s = execRedAndB32 m b d src e cond s := rfl
theorem exec_redOrB32 (m : BitVec 4) (b : BitVec 4) (d : BitVec 4) (src : BitVec 4) (e : BitVec 4) (cond : BitVec 4) : exec (.redOrB32 m b d src e cond) s = execRedOrB32 m b d src e cond s := rfl
theorem exec_drafelCopy (b : BitVec 4) (d : BitVec 4) (src : BitVec 4) (e : BitVec 4) : exec (.drafelCopy b d src e) s = execDrafelCopy b d src e s := rfl
theorem exec_waitOps (n : BitVec 6) : exec (.waitOps n) s = execWaitOps n s := rfl
theorem exec_waitGe (b : BitVec 4) (d : BitVec 4) (v : BitVec 4) : exec (.waitGe b d v) s = execWaitGe b d v s := rfl
theorem exec_sig (b : BitVec 4) (d : BitVec 4) (v : BitVec 4) : exec (.sig b d v) s = execSig b d v s := rfl
theorem exec_loop (d : BitVec 4) (o : BitVec 21) : exec (.loop d o) s = execLoop d o s := rfl
theorem exec_kick (k : BitVec 2) (cond : BitVec 4) (b : BitVec 4) (x : BitVec 4) (h : BitVec 4) : exec (.kick k cond b x h) s = execKick k cond b x h s := rfl
theorem exec_setd (d : BitVec 4) (i : BitVec 24) : exec (.setd d i) s = execSetd d i s := rfl
theorem exec_addd (d : BitVec 4) (src : BitVec 4) (i : BitVec 20) : exec (.addd d src i) s = execAddd d src i s := rfl
theorem exec_brd (d : BitVec 4) (cond : BrdCond) (o : BitVec 21) : exec (.brd d cond o) s = execBrd d cond o s := rfl
theorem exec_drafelHalt : exec .drafelHalt s = execDrafelHalt s := rfl
theorem exec_drafelNop : exec .drafelNop s = execDrafelNop s := rfl
theorem exec_registerWrite (page : CtlPage) (index : Nat) (off : Nat) (value : DWord) : exec (.registerWrite page index off value) s = execRegisterWrite page index off value s := rfl
theorem exec_deferredTrap : exec .deferredTrap s = execDeferredTrap s := rfl
theorem exec_pathAgeLimit (pid : Nat) : exec (.pathAgeLimit pid) s = execPathAgeLimit pid s := rfl
theorem exec_rejoinDeadlock (wid : Nat) : exec (.rejoinDeadlock wid) s = execRejoinDeadlock wid s := rfl
theorem exec_pathForceMerge (pid : Nat) : exec (.pathForceMerge pid) s = execPathForceMerge pid s := rfl
theorem exec_sleepExpire (pid : Nat) : exec (.sleepExpire pid) s = execSleepExpire pid s := rfl
theorem exec_schStallExpire (pid : Nat) : exec (.schStallExpire pid) s = execSchStallExpire pid s := rfl
theorem exec_claimGrant (core : Nat) (pipe : Nat) : exec (.claimGrant core pipe) s = execClaimGrant core pipe s := rfl
theorem exec_queueRetry (pid : Nat) : exec (.queueRetry pid) s = execQueueRetry pid s := rfl
theorem exec_waitLimit (pid : Nat) : exec (.waitLimit pid) s = execWaitLimit pid s := rfl
theorem exec_loadDataReturn (op : Nat) (soft : SoftErrors) : exec (.loadDataReturn op soft) s = execLoadDataReturn op soft s := rfl
theorem exec_storePerformed (op : Nat) : exec (.storePerformed op) s = execStorePerformed op s := rfl
theorem exec_atomicPerform (op : Nat) : exec (.atomicPerform op) s = execAtomicPerform op s := rfl
theorem exec_hscatAddsPerformed (op : Nat) : exec (.hscatAddsPerformed op) s = execHscatAddsPerformed op s := rfl
theorem exec_hdescLoaded (op : Nat) : exec (.hdescLoaded op) s = execHdescLoaded op s := rfl
theorem exec_isectResult (op : Nat) : exec (.isectResult op) s = execIsectResult op s := rfl
theorem exec_translationWalk (core : Nat) (va : Nat) : exec (.translationWalk core va) s = execTranslationWalk core va s := rfl
theorem exec_directoryRecall (line : Nat) : exec (.directoryRecall line) s = execDirectoryRecall line s := rfl
theorem exec_copyFillComplete (op : Nat) : exec (.copyFillComplete op) s = execCopyFillComplete op s := rfl
theorem exec_copyDrainComplete (op : Nat) : exec (.copyDrainComplete op) s = execCopyDrainComplete op s := rfl
theorem exec_cpCopyComplete (op : Nat) : exec (.cpCopyComplete op) s = execCpCopyComplete op s := rfl
theorem exec_engineUeStop (op : Nat) (addr : Nat) : exec (.engineUeStop op addr) s = execEngineUeStop op addr s := rfl
theorem exec_streamFetch (bid : Nat) : exec (.streamFetch bid) s = execStreamFetch bid s := rfl
theorem exec_tellerGrant (cluster : Nat) : exec (.tellerGrant cluster) s = execTellerGrant cluster s := rfl
theorem exec_passRetire (cluster : Nat) : exec (.passRetire cluster) s = execPassRetire cluster s := rfl
theorem exec_vaultAdderComplete (bid : Nat) : exec (.vaultAdderComplete bid) s = execVaultAdderComplete bid s := rfl
theorem exec_preemptionRequest : exec .preemptionRequest s = execPreemptionRequest s := rfl
theorem exec_contextSave : exec .contextSave s = execContextSave s := rfl
theorem exec_contextRestore (which : Nat) : exec (.contextRestore which) s = execContextRestore which s := rfl
theorem exec_graphicsWaveReissue (which : Nat) : exec (.graphicsWaveReissue which) s = execGraphicsWaveReissue which s := rfl
theorem exec_nevWindowEnd (core : Nat) (cls : Nat) : exec (.nevWindowEnd core cls) s = execNevWindowEnd core cls s := rfl
theorem exec_nevwinWrite (core : Nat) (cls : Nat) (len : Nat) : exec (.nevwinWrite core cls len) s = execNevwinWrite core cls len s := rfl
theorem exec_nevstatClear (core : Nat) (bits : BitVec 8) : exec (.nevstatClear core bits) s = execNevstatClear core bits s := rfl
theorem exec_cqdescWrite (ring : Nat) (addr : Nat) : exec (.cqdescWrite ring addr) s = execCqdescWrite ring addr s := rfl
theorem exec_cqnotWrite (ring : Nat) (tail : Word) (relaxed : Bool) : exec (.cqnotWrite ring tail relaxed) s = execCqnotWrite ring tail relaxed s := rfl
theorem exec_cqstatResume (ring : Nat) : exec (.cqstatResume ring) s = execCqstatResume ring s := rfl
theorem exec_cqdropRead : exec .cqdropRead s = execCqdropRead s := rfl
theorem exec_ringNop (ring : Nat) : exec (.ringNop ring) s = execRingNop ring s := rfl
theorem exec_ringLaunch (ring : Nat) : exec (.ringLaunch ring) s = execRingLaunch ring s := rfl
theorem exec_ringWait (ring : Nat) : exec (.ringWait ring) s = execRingWait ring s := rfl
theorem exec_ringWaitComplete (ring : Nat) : exec (.ringWaitComplete ring) s = execRingWaitComplete ring s := rfl
theorem exec_ringFrame (ring : Nat) : exec (.ringFrame ring) s = execRingFrame ring s := rfl
theorem exec_indirectCountRead (launch : Nat) : exec (.indirectCountRead launch) s = execIndirectCountRead launch s := rfl
theorem exec_blockDispatch (launch : Nat) (index : Nat) : exec (.blockDispatch launch index) s = execBlockDispatch launch index s := rfl
theorem exec_blockComplete (bid : Nat) : exec (.blockComplete bid) s = execBlockComplete bid s := rfl
theorem exec_budgetExpiry (graph : Nat) (cls : Nat) : exec (.budgetExpiry graph cls) s = execBudgetExpiry graph cls s := rfl
theorem exec_itemTaskMove (segment : Nat) : exec (.itemTaskMove segment) s = execItemTaskMove segment s := rfl
theorem exec_sendTransferStart (cid : Nat) (op : Nat) : exec (.sendTransferStart cid op) s = execSendTransferStart cid op s := rfl
theorem exec_data (f : Flit) : exec (.data f) s = execData f s := rfl
theorem exec_ack (f : Flit) : exec (.ack f) s = execAck f s := rfl
theorem exec_write (f : Flit) : exec (.write f) s = execWrite f s := rfl
theorem exec_wack (op : Nat) (piece : Nat) : exec (.wack op piece) s = execWack op piece s := rfl
theorem exec_pause (dst : Nat) (src : Nat) : exec (.pause dst src) s = execPause dst src s := rfl
theorem exec_resume (dst : Nat) (src : Nat) : exec (.resume dst src) s = execResume dst src s := rfl
theorem exec_close (dst : Nat) (src : Nat) : exec (.close dst src) s = execClose dst src s := rfl
theorem exec_flitCrcRetransmit (f : Flit) : exec (.flitCrcRetransmit f) s = execFlitCrcRetransmit f s := rfl
theorem exec_programUnpark (cid : Nat) : exec (.programUnpark cid) s = execProgramUnpark cid s := rfl
theorem exec_collectiveTimeout (cid : Nat) : exec (.collectiveTimeout cid) s = execCollectiveTimeout cid s := rfl
theorem exec_clctlLoad (cid : Nat) : exec (.clctlLoad cid) s = execClctlLoad cid s := rfl
theorem exec_clctlStop (cid : Nat) : exec (.clctlStop cid) s = execClctlStop cid s := rfl
theorem exec_clstatIrqClear (cid : Nat) : exec (.clstatIrqClear cid) s = execClstatIrqClear cid s := rfl
theorem exec_ptrootWrite (value : DWord) : exec (.ptrootWrite value) s = execPtrootWrite value s := rfl
theorem exec_tlbinvWrite (value : DWord) : exec (.tlbinvWrite value) s = execTlbinvWrite value s := rfl
theorem exec_tlbInvalidateDone : exec .tlbInvalidateDone s = execTlbInvalidateDone s := rfl
theorem exec_hotnessHalving : exec .hotnessHalving s = execHotnessHalving s := rfl
theorem exec_migrationStart : exec .migrationStart s = execMigrationStart s := rfl
theorem exec_migrationCopy : exec .migrationCopy s = execMigrationCopy s := rfl
theorem exec_migrationFinish : exec .migrationFinish s = execMigrationFinish s := rfl
theorem exec_migstatRead : exec .migstatRead s = execMigstatRead s := rfl
theorem exec_assayStart (row : RasRow) : exec (.assayStart row) s = execAssayStart row s := rfl
theorem exec_assayEnd (row : RasRow) (mismatch : Bool) : exec (.assayEnd row mismatch) s = execAssayEnd row mismatch s := rfl
theorem exec_rasceRead : exec .rasceRead s = execRasceRead s := rfl
theorem exec_rasueRead : exec .rasueRead s = execRasueRead s := rfl
theorem exec_islandDvfs (island : Nat) (sensed : IslandReading) : exec (.islandDvfs island sensed) s = execIslandDvfs island sensed s := rfl
theorem exec_droopStretch (island : Nat) : exec (.droopStretch island) s = execDroopStretch island s := rfl
theorem exec_thermalThrottle (island : Nat) (sensed : IslandReading) : exec (.thermalThrottle island sensed) s = execThermalThrottle island sensed s := rfl
theorem exec_thermalTrip (island : Nat) (sensed : IslandReading) : exec (.thermalTrip island sensed) s = execThermalTrip island sensed s := rfl
theorem exec_linkRetrain (link : Nat) : exec (.linkRetrain link) s = execLinkRetrain link s := rfl
theorem exec_boot (images : List BootImage) : exec (.boot images) s = execBoot images s := rfl
theorem exec_attctlGo : exec .attctlGo s = execAttctlGo s := rfl
theorem exec_attestDone : exec .attestDone s = execAttestDone s := rfl
theorem exec_dumpctlGo : exec .dumpctlGo s = execDumpctlGo s := rfl
theorem exec_dumpEnd : exec .dumpEnd s = execDumpEnd s := rfl
theorem exec_clusterStop (cluster : Nat) : exec (.clusterStop cluster) s = execClusterStop cluster s := rfl
theorem exec_dbgctlStop (cluster : Nat) : exec (.dbgctlStop cluster) s = execDbgctlStop cluster s := rfl
theorem exec_dbgctlResume (cluster : Nat) : exec (.dbgctlResume cluster) s = execDbgctlResume cluster s := rfl
theorem exec_dbgctlStep (cluster : Nat) (core : Nat) (wave : Nat) (slot : Nat) : exec (.dbgctlStep cluster core wave slot) s = execDbgctlStep cluster core wave slot s := rfl
theorem exec_stepTimeout (cluster : Nat) : exec (.stepTimeout cluster) s = execStepTimeout cluster s := rfl
theorem exec_whmoreRead (cluster : Nat) : exec (.whmoreRead cluster) s = execWhmoreRead cluster s := rfl
theorem exec_watchpointHitsRead (cluster : Nat) (n : Nat) : exec (.watchpointHitsRead cluster n) s = execWatchpointHitsRead cluster n s := rfl
theorem exec_breakpointHitsRead (cluster : Nat) (n : Nat) : exec (.breakpointHitsRead cluster n) s = execBreakpointHitsRead cluster n s := rfl
theorem exec_debugHoldWrite (core : Nat) (wave : Nat) (bits : BitVec 4) : exec (.debugHoldWrite core wave bits) s = execDebugHoldWrite core wave bits s := rfl
theorem exec_debugSsWrite (core : Nat) (wave : Nat) (bits : BitVec 4) : exec (.debugSsWrite core wave bits) s = execDebugSsWrite core wave bits s := rfl
theorem exec_stallSample (core : Nat) : exec (.stallSample core) s = execStallSample core s := rfl
theorem exec_smpctlWrite (core : Nat) (value : Word) : exec (.smpctlWrite core value) s = execSmpctlWrite core value s := rfl
theorem exec_smpdropRead (core : Nat) : exec (.smpdropRead core) s = execSmpdropRead core s := rfl
theorem exec_trctlWrite (core : Nat) (value : Word) : exec (.trctlWrite core value) s = execTrctlWrite core value s := rfl
theorem exec_trstatGapClear (core : Nat) : exec (.trstatGapClear core) s = execTrstatGapClear core s := rfl
theorem exec_trlostRead (core : Nat) : exec (.trlostRead core) s = execTrlostRead core s := rfl
theorem exec_notAnInstruction (why : FetchReject) : exec (.notAnInstruction why) s = execNotAnInstruction why s := rfl
theorem exec_notADrafelInstruction (why : ChunkReject) : exec (.notADrafelInstruction why) s = execNotADrafelInstruction why s := rfl
theorem exec_hostMemoryAccess (a : HostAccess) : exec (.hostMemoryAccess a) s = execHostMemoryAccess a s := rfl
theorem exec_vaccWrPerformed (op : Nat) : exec (.vaccWrPerformed op) s = execVaccWrPerformed op s := rfl
theorem exec_tableEntryUpdated (op : Nat) : exec (.tableEntryUpdated op) s = execTableEntryUpdated op s := rfl
theorem exec_localDataOperationComplete (cid : Nat) (op : Nat) : exec (.localDataOperationComplete cid op) s = execLocalDataOperationComplete cid op s := rfl
theorem exec_reservedTypeFlit (f : Flit) : exec (.reservedTypeFlit f) s = execReservedTypeFlit f s := rfl
theorem exec_invalidRingEntry (ring : Nat) : exec (.invalidRingEntry ring) s = execInvalidRingEntry ring s := rfl
theorem exec_retrainingEnd (link : Nat) : exec (.retrainingEnd link) s = execRetrainingEnd link s := rfl

/-! Regions that an instruction commits before its effect (R80). -/

theorem entered_sadd (d : BitVec 7) (a : BitVec 7) (b : BitVec 7) : s.entered (.sadd d a b) c = s := rfl
theorem entered_ssub (d : BitVec 7) (a : BitVec 7) (b : BitVec 7) : s.entered (.ssub d a b) c = s := rfl
theorem entered_smul (d : BitVec 7) (a : BitVec 7) (b : BitVec 7) : s.entered (.smul d a b) c = s := rfl
theorem entered_smulhI32 (d : BitVec 7) (a : BitVec 7) (b : BitVec 7) : s.entered (.smulhI32 d a b) c = s := rfl
theorem entered_smulhN32 (d : BitVec 7) (a : BitVec 7) (b : BitVec 7) : s.entered (.smulhN32 d a b) c = s := rfl
theorem entered_sdivI32 (d : BitVec 7) (a : BitVec 7) (b : BitVec 7) : s.entered (.sdivI32 d a b) c = s := rfl
theorem entered_sdivN32 (d : BitVec 7) (a : BitVec 7) (b : BitVec 7) : s.entered (.sdivN32 d a b) c = s := rfl
theorem entered_sremI32 (d : BitVec 7) (a : BitVec 7) (b : BitVec 7) : s.entered (.sremI32 d a b) c = s := rfl
theorem entered_sremN32 (d : BitVec 7) (a : BitVec 7) (b : BitVec 7) : s.entered (.sremN32 d a b) c = s := rfl
theorem entered_sand (d : BitVec 7) (a : BitVec 7) (b : BitVec 7) : s.entered (.sand d a b) c = s := rfl
theorem entered_sor (d : BitVec 7) (a : BitVec 7) (b : BitVec 7) : s.entered (.sor d a b) c = s := rfl
theorem entered_sxor (d : BitVec 7) (a : BitVec 7) (b : BitVec 7) : s.entered (.sxor d a b) c = s := rfl
theorem entered_sandn (d : BitVec 7) (a : BitVec 7) (b : BitVec 7) : s.entered (.sandn d a b) c = s := rfl
theorem entered_sshl (d : BitVec 7) (a : BitVec 7) (b : BitVec 7) : s.entered (.sshl d a b) c = s := rfl
theorem entered_sshr (d : BitVec 7) (a : BitVec 7) (b : BitVec 7) : s.entered (.sshr d a b) c = s := rfl
theorem entered_ssra (d : BitVec 7) (a : BitVec 7) (b : BitVec 7) : s.entered (.ssra d a b) c = s := rfl
theorem entered_sminI32 (d : BitVec 7) (a : BitVec 7) (b : BitVec 7) : s.entered (.sminI32 d a b) c = s := rfl
theorem entered_sminN32 (d : BitVec 7) (a : BitVec 7) (b : BitVec 7) : s.entered (.sminN32 d a b) c = s := rfl
theorem entered_smaxI32 (d : BitVec 7) (a : BitVec 7) (b : BitVec 7) : s.entered (.smaxI32 d a b) c = s := rfl
theorem entered_smaxN32 (d : BitVec 7) (a : BitVec 7) (b : BitVec 7) : s.entered (.smaxN32 d a b) c = s := rfl
theorem entered_smov (d : BitVec 7) (a : BitVec 7) : s.entered (.smov d a) c = s := rfl
theorem entered_spopc (d : BitVec 7) (a : BitVec 7) : s.entered (.spopc d a) c = s := rfl
theorem entered_sclz (d : BitVec 7) (a : BitVec 7) : s.entered (.sclz d a) c = s := rfl
theorem entered_sctz (d : BitVec 7) (a : BitVec 7) : s.entered (.sctz d a) c = s := rfl
theorem entered_sbrev (d : BitVec 7) (a : BitVec 7) : s.entered (.sbrev d a) c = s := rfl
theorem entered_scmp (cond : CmpCond) (g : BitVec 3) (a : BitVec 7) (b : BitVec 7) : s.entered (.scmp cond g a b) c = s := rfl
theorem entered_slea (d : BitVec 7) (a : BitVec 7) (b : BitVec 7) : s.entered (.slea d a b) c = s := rfl
theorem entered_sbfi (d : BitVec 7) (a : BitVec 7) (b : BitVec 7) : s.entered (.sbfi d a b) c = s := rfl
theorem entered_ssel (d : BitVec 7) (a : BitVec 7) (b : BitVec 7) (n : BitVec 3) : s.entered (.ssel d a b n) c = s := rfl
theorem entered_saddImm (d : BitVec 7) (w : Bool) (i : BitVec 12) : s.entered (.saddImm d w i) c = s := rfl
theorem entered_smulImm (d : BitVec 7) (w : Bool) (i : BitVec 12) : s.entered (.smulImm d w i) c = s := rfl
theorem entered_sandImm (d : BitVec 7) (w : Bool) (i : BitVec 12) : s.entered (.sandImm d w i) c = s := rfl
theorem entered_sorImm (d : BitVec 7) (w : Bool) (i : BitVec 12) : s.entered (.sorImm d w i) c = s := rfl
theorem entered_sxorImm (d : BitVec 7) (w : Bool) (i : BitVec 12) : s.entered (.sxorImm d w i) c = s := rfl
theorem entered_sshlImm (d : BitVec 7) (w : Bool) (i : BitVec 12) : s.entered (.sshlImm d w i) c = s := rfl
theorem entered_sshrImm (d : BitVec 7) (w : Bool) (i : BitVec 12) : s.entered (.sshrImm d w i) c = s := rfl
theorem entered_ssraImm (d : BitVec 7) (w : Bool) (i : BitVec 12) : s.entered (.ssraImm d w i) c = s := rfl
theorem entered_sminI32Imm (d : BitVec 7) (w : Bool) (i : BitVec 12) : s.entered (.sminI32Imm d w i) c = s := rfl
theorem entered_sminN32Imm (d : BitVec 7) (w : Bool) (i : BitVec 12) : s.entered (.sminN32Imm d w i) c = s := rfl
theorem entered_smaxI32Imm (d : BitVec 7) (w : Bool) (i : BitVec 12) : s.entered (.smaxI32Imm d w i) c = s := rfl
theorem entered_smaxN32Imm (d : BitVec 7) (w : Bool) (i : BitVec 12) : s.entered (.smaxN32Imm d w i) c = s := rfl
theorem entered_smovImm (d : BitVec 7) (w : Bool) (i : BitVec 12) : s.entered (.smovImm d w i) c = s := rfl
theorem entered_sbfeI32 (d : BitVec 7) (w : Bool) (i : BitVec 12) : s.entered (.sbfeI32 d w i) c = s := rfl
theorem entered_sbfeN32 (d : BitVec 7) (w : Bool) (i : BitVec 12) : s.entered (.sbfeN32 d w i) c = s := rfl
theorem entered_smovi (d : BitVec 6) (i : BitVec 20) : s.entered (.smovi d i) c = s := rfl
theorem entered_srd (src : BitVec 7) (n : BitVec 12) : s.entered (.srd src n) c = s := rfl
theorem entered_swr (src : BitVec 7) (n : BitVec 12) : s.entered (.swr src n) c = s := rfl
theorem entered_nfset (src : BitVec 7) (n : BitVec 2) : s.entered (.nfset src n) c = s := rfl
theorem entered_br (g : BitVec 3) (o : BitVec 22) : s.entered (.br g o) c = s := rfl
theorem entered_brn (g : BitVec 3) (o : BitVec 22) : s.entered (.brn g o) c = s := rfl
theorem entered_jmp (o : BitVec 23) : s.entered (.jmp o) c = s := rfl
theorem entered_call (o : BitVec 23) : s.entered (.call o) c = s := rfl
theorem entered_jmpReg (a : BitVec 7) : s.entered (.jmpReg a) c = s := rfl
theorem entered_callReg (a : BitVec 7) : s.entered (.callReg a) c = s := rfl
theorem entered_ret : s.entered .ret c = s := rfl
theorem entered_vbr (n : Bool) (k : BitVec 3) (t : BitVec 10) (j : BitVec 10) : s.entered (.vbr n k t j) c = s := rfl
theorem entered_vbrk (n : Bool) (k : BitVec 3) : s.entered (.vbrk n k) c = s := rfl
theorem entered_split (n : Bool) (k : BitVec 3) (t : BitVec 10) (j : BitVec 10) : s.entered (.split n k t j) c = s := rfl
theorem entered_join : s.entered .join c = s := rfl
theorem entered_exit : s.entered .exit c = s := rfl
theorem entered_refill : s.entered .refill c = s := rfl
theorem entered_loan (d : BitVec 7) (a : BitVec 7) (x : BitVec 3) (y : BitVec 6) : s.entered (.loan d a x y) c = s := rfl
theorem entered_lnext (d : BitVec 7) (x : BitVec 3) : s.entered (.lnext d x) c = s := rfl
theorem entered_repay (d : BitVec 7) (a : BitVec 7) (r : RedOp) (t : RepayTy) : s.entered (.repay d a r t) c = s := rfl
theorem entered_ldone : s.entered .ldone c = s := rfl
theorem entered_rgn : s.entered .rgn c = s := rfl
theorem entered_barArrive (n : BitVec 4) : s.entered (.barArrive n) c = s.commitRegion c.pid := rfl
theorem entered_barWait (n : BitVec 4) : s.entered (.barWait n) c = s.commitRegion c.pid := rfl
theorem entered_barSync (n : BitVec 4) : s.entered (.barSync n) c = s.commitRegion c.pid := rfl
theorem entered_waitC (l : BitVec 6) (src : BitVec 6) (cond : BitVec 4) (t : BitVec 4) : s.entered (.waitC l src cond t) c = s := rfl
theorem entered_yield : s.entered .yield c = s := rfl
theorem entered_sleep (i : BitVec 16) : s.entered (.sleep i) c = s := rfl
theorem entered_nop : s.entered .nop c = s := rfl
theorem entered_wpred : s.entered .wpred c = s := rfl
theorem entered_sucstart : s.entered .sucstart c = s := rfl
theorem entered_trap (cond : BitVec 8) : s.entered (.trap cond) c = s := rfl
theorem entered_eret : s.entered .eret c = s := rfl
theorem entered_halt : s.entered .halt c = s.commitRegion c.pid := rfl
theorem entered_brkpt : s.entered .brkpt c = s := rfl
theorem entered_claim (n : Bool) (g : BitVec 3) (cond : BitVec 5) : s.entered (.claim n g cond) c = s := rfl
theorem entered_giveback (cond : BitVec 5) : s.entered (.giveback cond) c = s := rfl
theorem entered_vadd (d : BitVec 7) (a : BitVec 7) (b : BitVec 7) : s.entered (.vadd d a b) c = s := rfl
theorem entered_vsub (d : BitVec 7) (a : BitVec 7) (b : BitVec 7) : s.entered (.vsub d a b) c = s := rfl
theorem entered_vmul (d : BitVec 7) (a : BitVec 7) (b : BitVec 7) : s.entered (.vmul d a b) c = s := rfl
theorem entered_vmulhI32 (d : BitVec 7) (a : BitVec 7) (b : BitVec 7) : s.entered (.vmulhI32 d a b) c = s := rfl
theorem entered_vmulhN32 (d : BitVec 7) (a : BitVec 7) (b : BitVec 7) : s.entered (.vmulhN32 d a b) c = s := rfl
theorem entered_vmad (d : BitVec 7) (a : BitVec 7) (b : BitVec 7) : s.entered (.vmad d a b) c = s := rfl
theorem entered_vand (d : BitVec 7) (a : BitVec 7) (b : BitVec 7) : s.entered (.vand d a b) c = s := rfl
theorem entered_vor (d : BitVec 7) (a : BitVec 7) (b : BitVec 7) : s.entered (.vor d a b) c = s := rfl
theorem entered_vxor (d : BitVec 7) (a : BitVec 7) (b : BitVec 7) : s.entered (.vxor d a b) c = s := rfl
theorem entered_vandn (d : BitVec 7) (a : BitVec 7) (b : BitVec 7) : s.entered (.vandn d a b) c = s := rfl
theorem entered_vshl (d : BitVec 7) (a : BitVec 7) (b : BitVec 7) : s.entered (.vshl d a b) c = s := rfl
theorem entered_vshr (d : BitVec 7) (a : BitVec 7) (b : BitVec 7) : s.entered (.vshr d a b) c = s := rfl
theorem entered_vsra (d : BitVec 7) (a : BitVec 7) (b : BitVec 7) : s.entered (.vsra d a b) c = s := rfl
theorem entered_vminI32 (d : BitVec 7) (a : BitVec 7) (b : BitVec 7) : s.entered (.vminI32 d a b) c = s := rfl
theorem entered_vminN32 (d : BitVec 7) (a : BitVec 7) (b : BitVec 7) : s.entered (.vminN32 d a b) c = s := rfl
theorem entered_vmaxI32 (d : BitVec 7) (a : BitVec 7) (b : BitVec 7) : s.entered (.vmaxI32 d a b) c = s := rfl
theorem entered_vmaxN32 (d : BitVec 7) (a : BitVec 7) (b : BitVec 7) : s.entered (.vmaxN32 d a b) c = s := rfl
theorem entered_vabsdI32 (d : BitVec 7) (a : BitVec 7) (b : BitVec 7) : s.entered (.vabsdI32 d a b) c = s := rfl
theorem entered_vabsdN32 (d : BitVec 7) (a : BitVec 7) (b : BitVec 7) : s.entered (.vabsdN32 d a b) c = s := rfl
theorem entered_vpopc (d : BitVec 7) (a : BitVec 7) : s.entered (.vpopc d a) c = s := rfl
theorem entered_vclz (d : BitVec 7) (a : BitVec 7) : s.entered (.vclz d a) c = s := rfl
theorem entered_vbrev (d : BitVec 7) (a : BitVec 7) : s.entered (.vbrev d a) c = s := rfl
theorem entered_vbfeI32 (d : BitVec 7) (a : BitVec 7) (b : BitVec 7) : s.entered (.vbfeI32 d a b) c = s := rfl
theorem entered_vbfeN32 (d : BitVec 7) (a : BitVec 7) (b : BitVec 7) : s.entered (.vbfeN32 d a b) c = s := rfl
theorem entered_vbfi (d : BitVec 7) (a : BitVec 7) (b : BitVec 7) : s.entered (.vbfi d a b) c = s := rfl
theorem entered_vaddImm (d : BitVec 7) (a : BitVec 7) (i : BitVec 8) : s.entered (.vaddImm d a i) c = s := rfl
theorem entered_vmulImm (d : BitVec 7) (a : BitVec 7) (i : BitVec 8) : s.entered (.vmulImm d a i) c = s := rfl
theorem entered_vandImm (d : BitVec 7) (a : BitVec 7) (i : BitVec 8) : s.entered (.vandImm d a i) c = s := rfl
theorem entered_vorImm (d : BitVec 7) (a : BitVec 7) (i : BitVec 8) : s.entered (.vorImm d a i) c = s := rfl
theorem entered_vxorImm (d : BitVec 7) (a : BitVec 7) (i : BitVec 8) : s.entered (.vxorImm d a i) c = s := rfl
theorem entered_vandnImm (d : BitVec 7) (a : BitVec 7) (i : BitVec 8) : s.entered (.vandnImm d a i) c = s := rfl
theorem entered_vshlImm (d : BitVec 7) (a : BitVec 7) (i : BitVec 8) : s.entered (.vshlImm d a i) c = s := rfl
theorem entered_vshrImm (d : BitVec 7) (a : BitVec 7) (i : BitVec 8) : s.entered (.vshrImm d a i) c = s := rfl
theorem entered_vsraImm (d : BitVec 7) (a : BitVec 7) (i : BitVec 8) : s.entered (.vsraImm d a i) c = s := rfl
theorem entered_vminI32Imm (d : BitVec 7) (a : BitVec 7) (i : BitVec 8) : s.entered (.vminI32Imm d a i) c = s := rfl
theorem entered_vminN32Imm (d : BitVec 7) (a : BitVec 7) (i : BitVec 8) : s.entered (.vminN32Imm d a i) c = s := rfl
theorem entered_vmaxI32Imm (d : BitVec 7) (a : BitVec 7) (i : BitVec 8) : s.entered (.vmaxI32Imm d a i) c = s := rfl
theorem entered_vmaxN32Imm (d : BitVec 7) (a : BitVec 7) (i : BitVec 8) : s.entered (.vmaxN32Imm d a i) c = s := rfl
theorem entered_vabsdI32Imm (d : BitVec 7) (a : BitVec 7) (i : BitVec 8) : s.entered (.vabsdI32Imm d a i) c = s := rfl
theorem entered_vabsdN32Imm (d : BitVec 7) (a : BitVec 7) (i : BitVec 8) : s.entered (.vabsdN32Imm d a i) c = s := rfl
theorem entered_vfadd (d : BitVec 7) (a : BitVec 7) (b : BitVec 7) : s.entered (.vfadd d a b) c = s := rfl
theorem entered_vfsub (d : BitVec 7) (a : BitVec 7) (b : BitVec 7) : s.entered (.vfsub d a b) c = s := rfl
theorem entered_vfmul (d : BitVec 7) (a : BitVec 7) (b : BitVec 7) : s.entered (.vfmul d a b) c = s := rfl
theorem entered_vfmin (d : BitVec 7) (a : BitVec 7) (b : BitVec 7) : s.entered (.vfmin d a b) c = s := rfl
theorem entered_vfmax (d : BitVec 7) (a : BitVec 7) (b : BitVec 7) : s.entered (.vfmax d a b) c = s := rfl
theorem entered_vfscale (d : BitVec 7) (a : BitVec 7) (b : BitVec 7) : s.entered (.vfscale d a b) c = s := rfl
theorem entered_vfclass (d : BitVec 7) (a : BitVec 7) : s.entered (.vfclass d a) c = s := rfl
theorem entered_vhadd (d : BitVec 7) (a : BitVec 7) (b : BitVec 7) : s.entered (.vhadd d a b) c = s := rfl
theorem entered_vhmul (d : BitVec 7) (a : BitVec 7) (b : BitVec 7) : s.entered (.vhmul d a b) c = s := rfl
theorem entered_vffma (d : BitVec 7) (a : BitVec 7) (b : BitVec 7) : s.entered (.vffma d a b) c = s := rfl
theorem entered_vhfma (d : BitVec 7) (a : BitVec 7) (b : BitVec 7) : s.entered (.vhfma d a b) c = s := rfl
theorem entered_vfrcp (d : BitVec 7) (a : BitVec 7) : s.entered (.vfrcp d a) c = s := rfl
theorem entered_vfrsq (d : BitVec 7) (a : BitVec 7) : s.entered (.vfrsq d a) c = s := rfl
theorem entered_vfsqrt (d : BitVec 7) (a : BitVec 7) : s.entered (.vfsqrt d a) c = s := rfl
theorem entered_vfdiv (d : BitVec 7) (a : BitVec 7) (b : BitVec 7) : s.entered (.vfdiv d a b) c = s := rfl
theorem entered_vfexp2 (d : BitVec 7) (a : BitVec 7) : s.entered (.vfexp2 d a) c = s := rfl
theorem entered_vflog2 (d : BitVec 7) (a : BitVec 7) : s.entered (.vflog2 d a) c = s := rfl
theorem entered_vfsin (d : BitVec 7) (a : BitVec 7) : s.entered (.vfsin d a) c = s := rfl
theorem entered_vfcos (d : BitVec 7) (a : BitVec 7) : s.entered (.vfcos d a) c = s := rfl
theorem entered_vfexp (d : BitVec 7) (a : BitVec 7) : s.entered (.vfexp d a) c = s := rfl
theorem entered_vfcvtF32I32 (d : BitVec 7) (a : BitVec 7) : s.entered (.vfcvtF32I32 d a) c = s := rfl
theorem entered_vfcvtF32N32 (d : BitVec 7) (a : BitVec 7) : s.entered (.vfcvtF32N32 d a) c = s := rfl
theorem entered_vfcvtI32F32 (d : BitVec 7) (a : BitVec 7) : s.entered (.vfcvtI32F32 d a) c = s := rfl
theorem entered_vfcvtN32F32 (d : BitVec 7) (a : BitVec 7) : s.entered (.vfcvtN32F32 d a) c = s := rfl
theorem entered_vfcvtF32F16 (d : BitVec 7) (a : BitVec 7) (src : BitVec 4) : s.entered (.vfcvtF32F16 d a src) c = s := rfl
theorem entered_vfcvtF16F32 (d : BitVec 7) (a : BitVec 7) (src : BitVec 4) : s.entered (.vfcvtF16F32 d a src) c = s := rfl
theorem entered_vfcvtF32Bf16 (d : BitVec 7) (a : BitVec 7) (src : BitVec 4) : s.entered (.vfcvtF32Bf16 d a src) c = s := rfl
theorem entered_vfcvtBf16F32 (d : BitVec 7) (a : BitVec 7) (src : BitVec 4) : s.entered (.vfcvtBf16F32 d a src) c = s := rfl
theorem entered_vfcvtF32E4m3 (d : BitVec 7) (a : BitVec 7) (src : BitVec 4) : s.entered (.vfcvtF32E4m3 d a src) c = s := rfl
theorem entered_vfcvtE4m3F32 (d : BitVec 7) (a : BitVec 7) (src : BitVec 4) : s.entered (.vfcvtE4m3F32 d a src) c = s := rfl
theorem entered_vfcvtF32E5m2 (d : BitVec 7) (a : BitVec 7) (src : BitVec 4) : s.entered (.vfcvtF32E5m2 d a src) c = s := rfl
theorem entered_vfcvtE5m2F32 (d : BitVec 7) (a : BitVec 7) (src : BitVec 4) : s.entered (.vfcvtE5m2F32 d a src) c = s := rfl
theorem entered_vfcvtI32I8 (d : BitVec 7) (a : BitVec 7) (src : BitVec 4) : s.entered (.vfcvtI32I8 d a src) c = s := rfl
theorem entered_vfcvtI8I32 (d : BitVec 7) (a : BitVec 7) (src : BitVec 4) : s.entered (.vfcvtI8I32 d a src) c = s := rfl
theorem entered_vfcvtI32Tri (d : BitVec 7) (a : BitVec 7) (src : BitVec 4) : s.entered (.vfcvtI32Tri d a src) c = s := rfl
theorem entered_vfcvtTriI32 (d : BitVec 7) (a : BitVec 7) (src : BitVec 4) : s.entered (.vfcvtTriI32 d a src) c = s := rfl
theorem entered_vncvtF32 (d : BitVec 7) (a : BitVec 7) (src : BitVec 4) (n : BitVec 2) : s.entered (.vncvtF32 d a src n) c = s := rfl
theorem entered_vncvtNf (d : BitVec 7) (a : BitVec 7) (src : BitVec 4) (n : BitVec 2) : s.entered (.vncvtNf d a src n) c = s := rfl
theorem entered_vfcvtI32I16 (d : BitVec 7) (a : BitVec 7) (src : BitVec 4) : s.entered (.vfcvtI32I16 d a src) c = s := rfl
theorem entered_vfcvtI16I32 (d : BitVec 7) (a : BitVec 7) (src : BitVec 4) : s.entered (.vfcvtI16I32 d a src) c = s := rfl
theorem entered_vfcvtN32N8 (d : BitVec 7) (a : BitVec 7) (src : BitVec 4) : s.entered (.vfcvtN32N8 d a src) c = s := rfl
theorem entered_vfcvtN8N32 (d : BitVec 7) (a : BitVec 7) (src : BitVec 4) : s.entered (.vfcvtN8N32 d a src) c = s := rfl
theorem entered_vfcvtN32N16 (d : BitVec 7) (a : BitVec 7) (src : BitVec 4) : s.entered (.vfcvtN32N16 d a src) c = s := rfl
theorem entered_vfcvtN16N32 (d : BitVec 7) (a : BitVec 7) (src : BitVec 4) : s.entered (.vfcvtN16N32 d a src) c = s := rfl
theorem entered_vshfl (d : BitVec 7) (a : BitVec 7) (b : BitVec 7) : s.entered (.vshfl d a b) c = s := rfl
theorem entered_vbfly (d : BitVec 7) (a : BitVec 7) (m : BitVec 7) : s.entered (.vbfly d a m) c = s := rfl
theorem entered_vbcast (d : BitVec 7) (a : BitVec 7) (n : BitVec 7) : s.entered (.vbcast d a n) c = s := rfl
theorem entered_vrfl (d : BitVec 7) (a : BitVec 7) : s.entered (.vrfl d a) c = s := rfl
theorem entered_vred (d : BitVec 7) (a : BitVec 7) (o : RedOp) (t : ElemTy) : s.entered (.vred d a o t) c = s := rfl
theorem entered_vredmi (d : BitVec 7) (a : BitVec 7) (t : ElemTy) : s.entered (.vredmi d a t) c = s := rfl
theorem entered_vscan (d : BitVec 7) (a : BitVec 7) (o : RedOp) (t : ElemTy) (x : Bool) : s.entered (.vscan d a o t x) c = s := rfl
theorem entered_vnbr (d : BitVec 7) (a : BitVec 7) (src : NbrSel) (k : BitVec 3) : s.entered (.vnbr d a src k) c = s := rfl
theorem entered_vddx (d : BitVec 7) (a : BitVec 7) (k : BitVec 3) : s.entered (.vddx d a k) c = s := rfl
theorem entered_vddy (d : BitVec 7) (a : BitVec 7) (k : BitVec 3) : s.entered (.vddy d a k) c = s := rfl
theorem entered_vballot (d : BitVec 7) (k : BitVec 3) : s.entered (.vballot d k) c = s := rfl
theorem entered_vcount (d : BitVec 7) (k : BitVec 3) : s.entered (.vcount d k) c = s := rfl
theorem entered_vcmpI32 (k : BitVec 3) (cond : CmpCond) (a : BitVec 7) (b : BitVec 7) (m : CmpMode) : s.entered (.vcmpI32 k cond a b m) c = s := rfl
theorem entered_vcmpN32 (k : BitVec 3) (cond : CmpCond) (a : BitVec 7) (b : BitVec 7) (m : CmpMode) : s.entered (.vcmpN32 k cond a b m) c = s := rfl
theorem entered_vfcmp (k : BitVec 3) (cond : CmpCond) (a : BitVec 7) (b : BitVec 7) (m : CmpMode) : s.entered (.vfcmp k cond a b m) c = s := rfl
theorem entered_kand (d : BitVec 3) (a : BitVec 3) (b : BitVec 3) (p : Bool) : s.entered (.kand d a b p) c = s := rfl
theorem entered_kor (d : BitVec 3) (a : BitVec 3) (b : BitVec 3) (p : Bool) : s.entered (.kor d a b p) c = s := rfl
theorem entered_kxor (d : BitVec 3) (a : BitVec 3) (b : BitVec 3) (p : Bool) : s.entered (.kxor d a b p) c = s := rfl
theorem entered_kandn (d : BitVec 3) (a : BitVec 3) (b : BitVec 3) (p : Bool) : s.entered (.kandn d a b p) c = s := rfl
theorem entered_knot (d : BitVec 3) (a : BitVec 3) (p : Bool) : s.entered (.knot d a p) c = s := rfl
theorem entered_kmov (d : BitVec 3) (a : BitVec 3) (p : Bool) : s.entered (.kmov d a p) c = s := rfl
theorem entered_kmovFromScalar (d : BitVec 3) (src : BitVec 7) : s.entered (.kmovFromScalar d src) c = s := rfl
theorem entered_kmovToScalar (a : BitVec 3) (src : BitVec 7) : s.entered (.kmovToScalar a src) c = s := rfl
theorem entered_kpop (a : BitVec 3) (src : BitVec 7) : s.entered (.kpop a src) c = s := rfl
theorem entered_kany (d : BitVec 3) (a : BitVec 3) : s.entered (.kany d a) c = s := rfl
theorem entered_kall (d : BitVec 3) (a : BitVec 3) : s.entered (.kall d a) c = s := rfl
theorem entered_vnadd (d : BitVec 7) (a : BitVec 7) (b : BitVec 7) (n : BitVec 2) : s.entered (.vnadd d a b n) c = s := rfl
theorem entered_vnmul (d : BitVec 7) (a : BitVec 7) (b : BitVec 7) (n : BitVec 2) : s.entered (.vnmul d a b n) c = s := rfl
theorem entered_vnfma (d : BitVec 7) (a : BitVec 7) (b : BitVec 7) (n : BitVec 2) : s.entered (.vnfma d a b n) c = s := rfl
theorem entered_vsel (d : BitVec 7) (a : BitVec 7) (b : BitVec 7) (k : BitVec 3) : s.entered (.vsel d a b k) c = s := rfl
theorem entered_vmov (d : BitVec 7) (a : BitVec 7) : s.entered (.vmov d a) c = s := rfl
theorem entered_vmovScalar (d : BitVec 7) (a : BitVec 7) : s.entered (.vmovScalar d a) c = s := rfl
theorem entered_vmovi (d : BitVec 7) (i : BitVec 14) : s.entered (.vmovi d i) c = s := rfl
theorem entered_vsr (d : BitVec 7) (n : BitVec 12) : s.entered (.vsr d n) c = s := rfl
theorem entered_vld (d : BitVec 7) (a : BitVec 7) (src : BitVec 7) (w : MemWidth) (p : Space) : s.entered (.vld d a src w p) c = s := rfl
theorem entered_vst (d : BitVec 7) (a : BitVec 7) (src : BitVec 7) (w : MemWidth) (p : Space) : s.entered (.vst d a src w p) c = s := rfl
theorem entered_sld (d : BitVec 7) (a : BitVec 6) (o : BitVec 7) (w : MemWidth) (p : Space) : s.entered (.sld d a o w p) c = s := rfl
theorem entered_sst (d : BitVec 7) (a : BitVec 6) (o : BitVec 7) (w : MemWidth) (p : Space) : s.entered (.sst d a o w p) c = s := rfl
theorem entered_vatomAddN32 (d : BitVec 7) (a : BitVec 7) (src : BitVec 7) (p : Bool) : s.entered (.vatomAddN32 d a src p) c = s.commitRegion c.pid := rfl
theorem entered_vatomAddF32 (d : BitVec 7) (a : BitVec 7) (src : BitVec 7) (p : Bool) : s.entered (.vatomAddF32 d a src p) c = s.commitRegion c.pid := rfl
theorem entered_vatomMinI32 (d : BitVec 7) (a : BitVec 7) (src : BitVec 7) (p : Bool) : s.entered (.vatomMinI32 d a src p) c = s.commitRegion c.pid := rfl
theorem entered_vatomMinN32 (d : BitVec 7) (a : BitVec 7) (src : BitVec 7) (p : Bool) : s.entered (.vatomMinN32 d a src p) c = s.commitRegion c.pid := rfl
theorem entered_vatomMaxI32 (d : BitVec 7) (a : BitVec 7) (src : BitVec 7) (p : Bool) : s.entered (.vatomMaxI32 d a src p) c = s.commitRegion c.pid := rfl
theorem entered_vatomMaxN32 (d : BitVec 7) (a : BitVec 7) (src : BitVec 7) (p : Bool) : s.entered (.vatomMaxN32 d a src p) c = s.commitRegion c.pid := rfl
theorem entered_vatomAnd (d : BitVec 7) (a : BitVec 7) (src : BitVec 7) (p : Bool) : s.entered (.vatomAnd d a src p) c = s.commitRegion c.pid := rfl
theorem entered_vatomOr (d : BitVec 7) (a : BitVec 7) (src : BitVec 7) (p : Bool) : s.entered (.vatomOr d a src p) c = s.commitRegion c.pid := rfl
theorem entered_vatomXor (d : BitVec 7) (a : BitVec 7) (src : BitVec 7) (p : Bool) : s.entered (.vatomXor d a src p) c = s.commitRegion c.pid := rfl
theorem entered_vatomSwap (d : BitVec 7) (a : BitVec 7) (src : BitVec 7) (p : Bool) : s.entered (.vatomSwap d a src p) c = s.commitRegion c.pid := rfl
theorem entered_vatomCas (d : BitVec 7) (a : BitVec 7) (src : BitVec 7) (p : Bool) : s.entered (.vatomCas d a src p) c = s.commitRegion c.pid := rfl
theorem entered_vatomAddN64 (d : BitVec 7) (a : BitVec 7) (src : BitVec 7) (p : Bool) : s.entered (.vatomAddN64 d a src p) c = s.commitRegion c.pid := rfl
theorem entered_satomAddN32 (d : BitVec 7) (a : BitVec 7) (o : BitVec 7) (p : Bool) : s.entered (.satomAddN32 d a o p) c = s.commitRegion c.pid := rfl
theorem entered_satomAddF32 (d : BitVec 7) (a : BitVec 7) (o : BitVec 7) (p : Bool) : s.entered (.satomAddF32 d a o p) c = s.commitRegion c.pid := rfl
theorem entered_satomMinI32 (d : BitVec 7) (a : BitVec 7) (o : BitVec 7) (p : Bool) : s.entered (.satomMinI32 d a o p) c = s.commitRegion c.pid := rfl
theorem entered_satomMinN32 (d : BitVec 7) (a : BitVec 7) (o : BitVec 7) (p : Bool) : s.entered (.satomMinN32 d a o p) c = s.commitRegion c.pid := rfl
theorem entered_satomMaxI32 (d : BitVec 7) (a : BitVec 7) (o : BitVec 7) (p : Bool) : s.entered (.satomMaxI32 d a o p) c = s.commitRegion c.pid := rfl
theorem entered_satomMaxN32 (d : BitVec 7) (a : BitVec 7) (o : BitVec 7) (p : Bool) : s.entered (.satomMaxN32 d a o p) c = s.commitRegion c.pid := rfl
theorem entered_satomAnd (d : BitVec 7) (a : BitVec 7) (o : BitVec 7) (p : Bool) : s.entered (.satomAnd d a o p) c = s.commitRegion c.pid := rfl
theorem entered_satomOr (d : BitVec 7) (a : BitVec 7) (o : BitVec 7) (p : Bool) : s.entered (.satomOr d a o p) c = s.commitRegion c.pid := rfl
theorem entered_satomXor (d : BitVec 7) (a : BitVec 7) (o : BitVec 7) (p : Bool) : s.entered (.satomXor d a o p) c = s.commitRegion c.pid := rfl
theorem entered_satomSwap (d : BitVec 7) (a : BitVec 7) (o : BitVec 7) (p : Bool) : s.entered (.satomSwap d a o p) c = s.commitRegion c.pid := rfl
theorem entered_satomCas (d : BitVec 7) (a : BitVec 7) (o : BitVec 7) (p : Bool) : s.entered (.satomCas d a o p) c = s.commitRegion c.pid := rfl
theorem entered_satomAddN64 (d : BitVec 7) (a : BitVec 7) (o : BitVec 7) (p : Bool) : s.entered (.satomAddN64 d a o p) c = s.commitRegion c.pid := rfl
theorem entered_fence (p : BitVec 4) (src : BitVec 4) (cond : Scope) : s.entered (.fence p src cond) c = s.commitRegion c.pid := rfl
theorem entered_fenceOwn (cond : Scope) : s.entered (.fenceOwn cond) c = s.commitRegion c.pid := rfl
theorem entered_fenceFar (cond : Scope) : s.entered (.fenceFar cond) c = s.commitRegion c.pid := rfl
theorem entered_qpush (n : Bool) (g : BitVec 3) (q : BitVec 3) (src : BitVec 7) : s.entered (.qpush n g q src) c = s.commitRegion c.pid := rfl
theorem entered_qpop (n : Bool) (g : BitVec 3) (q : BitVec 3) (src : BitVec 7) : s.entered (.qpop n g q src) c = s.commitRegion c.pid := rfl
theorem entered_tqEnq (n : Bool) (g : BitVec 3) (src : BitVec 7) : s.entered (.tqEnq n g src) c = s.commitRegion c.pid := rfl
theorem entered_tqDeq (n : Bool) (g : BitVec 3) (src : BitVec 7) : s.entered (.tqDeq n g src) c = s.commitRegion c.pid := rfl
theorem entered_mint (d : BitVec 7) (a : BitVec 7) : s.entered (.mint d a) c = s.commitRegion c.pid := rfl
theorem entered_vpin (d : BitVec 7) (a : BitVec 7) : s.entered (.vpin d a) c = s.commitRegion c.pid := rfl
theorem entered_xput (d : BitVec 7) (a : BitVec 7) (src : BitVec 7) (w : MemWidth) (cond : BitVec 2) : s.entered (.xput d a src w cond) c = s.commitRegion c.pid := rfl
theorem entered_cpTile (t : BitVec 7) (a : BitVec 7) (b : BitVec 7) : s.entered (.cpTile t a b) c = s.commitRegion c.pid := rfl
theorem entered_cpBdeck (t : BitVec 7) (a : BitVec 7) (b : BitVec 7) : s.entered (.cpBdeck t a b) c = s.commitRegion c.pid := rfl
theorem entered_cpStore (t : BitVec 7) (a : BitVec 7) (b : BitVec 7) : s.entered (.cpStore t a b) c = s.commitRegion c.pid := rfl
theorem entered_cpCopy (cond : BitVec 7) (a : BitVec 7) (b : BitVec 7) : s.entered (.cpCopy cond a b) c = s.commitRegion c.pid := rfl
theorem entered_tdef (t : BitVec 7) (src : BitVec 7) : s.entered (.tdef t src) c = s.commitRegion c.pid := rfl
theorem entered_tfree (t : BitVec 7) : s.entered (.tfree t) c = s.commitRegion c.pid := rfl
theorem entered_tstat (t : BitVec 7) (src : BitVec 7) : s.entered (.tstat t src) c = s := rfl
theorem entered_tex3 (d : BitVec 7) (a : BitVec 7) (b : BitVec 7) : s.entered (.tex3 d a b) c = s := rfl
theorem entered_texp (d : BitVec 7) (a : BitVec 7) (b : BitVec 7) : s.entered (.texp d a b) c = s := rfl
theorem entered_isectRay (d : BitVec 7) (a : BitVec 7) (b : BitVec 7) : s.entered (.isectRay d a b) c = s := rfl
theorem entered_isectTile (d : BitVec 7) (a : BitVec 7) (b : BitVec 7) : s.entered (.isectTile d a b) c = s := rfl
theorem entered_isectNext (d : BitVec 7) : s.entered (.isectNext d) c = s := rfl
theorem entered_hdesc (a : BitVec 7) : s.entered (.hdesc a) c = s.commitRegion c.pid := rfl
theorem entered_hgath (d : BitVec 7) (a : BitVec 7) : s.entered (.hgath d a) c = s := rfl
theorem entered_hscat (a : BitVec 7) (b : BitVec 7) : s.entered (.hscat a b) c = s.commitRegion c.pid := rfl
theorem entered_vaccRd (v : BitVec 7) (src : BitVec 7) (q : BitVec 2) (n : BitVec 3) : s.entered (.vaccRd v src q n) c = s := rfl
theorem entered_vaccWr (v : BitVec 7) (src : BitVec 7) (q : BitVec 2) (n : BitVec 3) : s.entered (.vaccWr v src q n) c = s.commitRegion c.pid := rfl

end Sys2Proof.Machine
end

