-- ==== Sys2Proof/Laws/Issue.lean ====
section
/-! SUPPORT. What the shared operation of issue does: under `ready` the gate lets the instruction through. -/

namespace Sys2Proof.Machine

/-- Under `ready` the shared checks let the instruction through. -/
theorem gate_of_ready {i : Instr} {s : State} {c : Ctx} (aux : Ctx → State → Option DWord) (h : ready i s c = true) :
    gate i aux s = .go c (s.entered i c) := by
  obtain ⟨pid, p, wid, mods, pfx, y, first, word⟩ := c
  simp only [ready, checked, taken, Bool.and_eq_true, decide_eq_true_eq, beq_iff_eq, ctxOf, Ctx.mk.injEq] at h
  obtain ⟨⟨⟨⟨⟨⟨⟨⟨⟨⟨⟨⟨⟨⟨⟨⟨hcur, hp⟩, _, _, rfl, rfl, rfl, rfl, rfl, rfl⟩, hmay⟩, hdue⟩, hb⟩, hsc⟩, hmis⟩, hst⟩, hh⟩, hm⟩, hr⟩, hse⟩, hbd⟩, hw⟩,
    hcm⟩, hk⟩ := h
  simp only [Ctx.helper, Ctx.core, Ctx.counted, Bool.not_eq_true', Bool.or_eq_true, Option.isNone_iff_eq_none] at *
  have hdue' : (p.nextDue.isSome && (p.hints.isEmpty || p.st == .waiting)) = false := by
    rcases hdue with h | h
    · simp [h]
    · simp only [Bool.and_eq_true, Bool.not_eq_true', bne_iff_ne] at h
      simp [h.1, h.2]
  have hm' : (if i.meets then s.meet pid p (i == .halt) else none) = none := by
    rcases hm with h | h <;> simp [h]
  have hcm' : (if i.commits && p.region.isSome then s.pendingLoad pid else none) = none := by
    rcases hcm with h | h <;> simp [h]
  have hst' : (!(p.arrivedAt == some p.pc && p.begun) && decide (s.icc (coreOf pid) < p.issuedAt + (bundleSch p.hints).2)) = false := by
    rcases hst with h | h
    · rw [h]; rfl
    · have := of_decide_eq_true h
      simp [Nat.not_lt.mpr this]
  simp only [gate, hcur, hp, hmay, hdue', hb, hsc, hmis, hst', hh, hm', hse, hbd, hw, hr, hcm', Ctx.counted, Ctx.owner, Bool.not_true, Bool.or_false,
    Bool.false_eq_true, if_false]
  cases hop : i.opClass with
  | none => rfl
  | some k =>
    simp only [hop, Bool.not_eq_true'] at hk
    simp [hk, State.entered]

/-- A word whose fields name what its instruction cannot name raises 0x01 with itself in sr.eaux (R11, R17, R113). -/
theorem issueWith_of_misnames {i : Instr} {s : State} {c : Ctx} (aux : Ctx → State → Option DWord) (body : Ctx → State → Fate)
    (h : taken i s c = true) (m : misnames i = true) :
    issueWith i aux body s = .next ((s.takeTrap c.pid 0x01 c.first (BitVec.ofNat 64 c.word) none).unstep c.pid) := by
  obtain ⟨pid, p, wid, mods, pfx, y, first, word⟩ := c
  simp only [taken, Bool.and_eq_true, decide_eq_true_eq, beq_iff_eq, ctxOf, Ctx.mk.injEq] at h
  obtain ⟨⟨⟨⟨⟨⟨hcur, hp⟩, _, _, rfl, rfl, rfl, rfl, rfl, rfl⟩, hmay⟩, hdue⟩, hb⟩, hsc⟩ := h
  simp only [Bool.not_eq_true', Bool.or_eq_true, Option.isNone_iff_eq_none] at *
  have hdue' : (p.nextDue.isSome && (p.hints.isEmpty || p.st == .waiting)) = false := by
    rcases hdue with h | h
    · simp [h]
    · simp only [Bool.and_eq_true, Bool.not_eq_true', bne_iff_ne] at h
      simp [h.1, h.2]
  simp [issueWith, gate, hcur, hp, hmay, hdue', hb, hsc, m]

/-- Under `ready` an instruction is concluded as its own body says. -/
theorem issueWith_of_ready {i : Instr} {s : State} {c : Ctx} (aux : Ctx → State → Option DWord) (body : Ctx → State → Fate)
    (h : ready i s c = true) : issueWith i aux body s = .next (conclude i c (body c (s.entered i c)) (s.entered i c)) := by
  simp [issueWith, gate_of_ready aux h]

theorem issue_of_ready {i : Instr} {s : State} {c : Ctx} (body : Ctx → State → Fate) (h : ready i s c = true) :
    issue i body s = .next (conclude i c (body c (s.entered i c)) (s.entered i c)) := issueWith_of_ready _ body h

/-- An instruction that commits no region takes effect in the state in which it issues. -/
theorem entered_of_not_commits {i : Instr} {s : State} {c : Ctx} (h : i.commits = false) : s.entered i c = s := by
  simp [State.entered, h]

/-- An instruction that completes in sequence. -/
theorem issue_done {i : Instr} {s t : State} {c : Ctx} {body : Ctx → State → Fate} (h : ready i s c = true)
    (hb : body c (s.entered i c) = .done t) : issue i body s = .next (t.retire c c.nextPc none) := by
  simp [issue_of_ready body h, hb, conclude]

/-- An instruction that completes at another address. -/
theorem issue_jump {i : Instr} {s t : State} {c : Ctx} {pc kind : Nat} {body : Ctx → State → Fate}
    (h : ready i s c = true) (hb : body c (s.entered i c) = .jump t pc kind) :
    issue i body s = .next (t.retire c pc (some kind)) := by
  simp [issue_of_ready body h, hb, conclude]

end Sys2Proof.Machine
end

