-- ==== Sys2Proof/Laws/Table.lean ====
section
/-! SUPPORT. Tables read after a write. -/

namespace Sys2Proof.Machine

variable {α : Type}

@[simp] theorem tget_tset_same (m : Sparse α) (n : Nat) (v : α) : tget (tset m n v) n = some v := by
  induction m with
  | nil => simp [tset, tget]
  | cons e m ih =>
    obtain ⟨k, w⟩ := e
    by_cases h : n = k
    · simp [tset, tget, h]
    · by_cases g : n < k <;> simp [tset, tget, h, g, ih]

@[simp] theorem tget_tset_other (m : Sparse α) (n j : Nat) (v : α) (h : j ≠ n) : tget (tset m n v) j = tget m j := by
  induction m with
  | nil => by_cases g : j < n <;> simp [tset, tget, h]
  | cons e m ih =>
    obtain ⟨k, w⟩ := e
    by_cases a : n = k
    · subst a; simp [tset, tget, h]
    · by_cases b : n < k
      · by_cases c : j = k
        · simp [tset, tget, a, b, c, show ¬ k < n by omega, show ¬ k = n by omega]
        · by_cases d : j < n
          · simp [tset, tget, a, b, c, d, h, show j < k by omega]
          · simp [tset, tget, a, b, c, d, h]
      · simp only [tset, a, b, if_false, tget, ih]

theorem tget_tset (m : Sparse α) (n j : Nat) (v : α) : tget (tset m n v) j = if j = n then some v else tget m j := by
  by_cases h : j = n
  · subst h; simp
  · simp [h]

@[simp] theorem tgetD_tset_same (d : α) (m : Sparse α) (n : Nat) (v : α) : tgetD d (tset m n v) n = v := by simp [tgetD]

@[simp] theorem tgetD_tset_other (d : α) (m : Sparse α) (n j : Nat) (v : α) (h : j ≠ n) : tgetD d (tset m n v) j = tgetD d m j := by
  simp [tgetD, h]

theorem tgetD_tset (d : α) (m : Sparse α) (n j : Nat) (v : α) : tgetD d (tset m n v) j = if j = n then v else tgetD d m j := by
  by_cases h : j = n
  · subst h; simp
  · simp [h]

/-- Entries that a function gives from each entry, keyed alike. -/
theorem tget_map {β : Type} (m : Sparse α) (f : Nat → α → β) (j : Nat) :
    tget (m.map fun e => (e.1, f e.1 e.2)) j = (tget m j).map (f j) := by
  induction m with
  | nil => rfl
  | cons e m ih =>
    obtain ⟨k, w⟩ := e
    by_cases h : j = k
    · subst h; simp [tget]
    · by_cases g : j < k <;> simp [tget, h, g] ; exact ih

/-- An entry that is read stands in the table. -/
theorem mem_of_tget (m : Sparse α) (n : Nat) (v : α) (h : tget m n = some v) : (n, v) ∈ m := by
  induction m with
  | nil => simp [tget] at h
  | cons e m ih =>
    obtain ⟨k, w⟩ := e
    by_cases a : n = k
    · subst a; simp [tget] at h; simp [h]
    · by_cases b : n < k
      · simp [tget, a, b] at h
      · simp [tget, a, b] at h; exact List.mem_cons_of_mem _ (ih h)

/-- Removed entries read as nothing. -/
@[simp] theorem tget_tdel_same (m : Sparse α) (n : Nat) : tget (tdel m n) n = none := by
  cases h : tget (tdel m n) n with
  | none => rfl
  | some v => simpa [tdel] using mem_of_tget _ _ _ h

theorem tget_tdrop_none (m : Sparse α) (lo hi n : Nat) (h : lo ≤ n ∧ n < hi) : tget (tdrop m lo hi) n = none := by
  cases g : tget (tdrop m lo hi) n with
  | none => rfl
  | some v =>
    have := mem_of_tget _ _ _ g
    simp [tdrop] at this; omega

/-- Several entries written: the last one written under a number is read. -/
theorem tget_tsets (es : List (Nat × α)) (m : Sparse α) (n : Nat) :
    tget (tsets m es) n = ((es.reverse.find? fun e => e.1 == n).map (·.2)).or (tget m n) := by
  induction es generalizing m with
  | nil => simp [tsets]
  | cons e es ih =>
    obtain ⟨k, v⟩ := e
    simp only [tsets, ih, tget_tset, List.reverse_cons, List.find?_append]
    cases h : es.reverse.find? fun e => e.1 == n with
    | some x => simp
    | none => by_cases g : k = n <;> simp [g, show (n = k) = (k = n) from propext eq_comm]

end Sys2Proof.Machine
end

