-- ==== Sys2Proof/Laws/State.lean ====
section
/-! SUPPORT. What each update of the state leaves in each field: one lemma a field, so that no later proof unfolds a record. -/

namespace Sys2Proof.Machine

variable (s : State)

/-! setPath. -/

@[simp] theorem State.setPath_clk (i : Nat) (p : Path) : (s.setPath i p).clk = s.clk := rfl
@[simp] theorem State.setPath_schedule (i : Nat) (p : Path) : (s.setPath i p).schedule = s.schedule := rfl
@[simp] theorem State.setPath_cur (i : Nat) (p : Path) : (s.setPath i p).cur = s.cur := rfl
@[simp] theorem State.setPath_free (i : Nat) (p : Path) : (s.setPath i p).free = s.free := rfl
@[simp] theorem State.setPath_nextOp (i : Nat) (p : Path) : (s.setPath i p).nextOp = s.nextOp := rfl
@[simp] theorem State.setPath_irqs (i : Nat) (p : Path) : (s.setPath i p).irqs = s.irqs := rfl
@[simp] theorem State.setPath_hostData (i : Nat) (p : Path) : (s.setPath i p).hostData = s.hostData := rfl
@[simp] theorem State.setPath_stopped (i : Nat) (p : Path) : (s.setPath i p).stopped = s.stopped := rfl
@[simp] theorem State.setPath_saved (i : Nat) (p : Path) : (s.setPath i p).saved = s.saved := rfl
@[simp] theorem State.setPath_mem (i : Nat) (p : Path) : (s.setPath i p).mem = s.mem := rfl
@[simp] theorem State.setPath_sram (i : Nat) (p : Path) : (s.setPath i p).sram = s.sram := rfl
@[simp] theorem State.setPath_vault (i : Nat) (p : Path) : (s.setPath i p).vault = s.vault := rfl
@[simp] theorem State.setPath_bdeck (i : Nat) (p : Path) : (s.setPath i p).bdeck = s.bdeck := rfl
@[simp] theorem State.setPath_ops (i : Nat) (p : Path) : (s.setPath i p).ops = s.ops := rfl
@[simp] theorem State.setPath_cores (i : Nat) (p : Path) : (s.setPath i p).cores = s.cores := rfl
@[simp] theorem State.setPath_clusters (i : Nat) (p : Path) : (s.setPath i p).clusters = s.clusters := rfl
@[simp] theorem State.setPath_walks (i : Nat) (p : Path) : (s.setPath i p).walks = s.walks := rfl
@[simp] theorem State.setPath_clears (i : Nat) (p : Path) : (s.setPath i p).clears = s.clears := rfl
@[simp] theorem State.setPath_flits (i : Nat) (p : Path) : (s.setPath i p).flits = s.flits := rfl
@[simp] theorem State.setPath_slots (i : Nat) (p : Path) : (s.setPath i p).slots = s.slots := rfl
@[simp] theorem State.setPath_rings (i : Nat) (p : Path) : (s.setPath i p).rings = s.rings := rfl
@[simp] theorem State.setPath_inner (i : Nat) (p : Path) : (s.setPath i p).inner = s.inner := rfl
@[simp] theorem State.setPath_tq (i : Nat) (p : Path) : (s.setPath i p).tq = s.tq := rfl
@[simp] theorem State.setPath_launches (i : Nat) (p : Path) : (s.setPath i p).launches = s.launches := rfl
@[simp] theorem State.setPath_dev (i : Nat) (p : Path) : (s.setPath i p).dev = s.dev := rfl
@[simp] theorem State.setPath_islands (i : Nat) (p : Path) : (s.setPath i p).islands = s.islands := rfl
@[simp] theorem State.setPath_ras (i : Nat) (p : Path) : (s.setPath i p).ras = s.ras := rfl
@[simp] theorem State.setPath_scanAt (i : Nat) (p : Path) : (s.setPath i p).scanAt = s.scanAt := rfl
@[simp] theorem State.setPath_move (i : Nat) (p : Path) : (s.setPath i p).move = s.move := rfl
@[simp] theorem State.setPath_linksDown (i : Nat) (p : Path) : (s.setPath i p).linksDown = s.linksDown := rfl
@[simp] theorem State.setPath_boot (i : Nat) (p : Path) : (s.setPath i p).boot = s.boot := rfl
@[simp] theorem State.setPath_dumpClk (i : Nat) (p : Path) : (s.setPath i p).dumpClk = s.dumpClk := rfl
@[simp] theorem State.setPath_run_running (i : Nat) (p : Path) : (s.setPath i p).run.running = s.run.running := rfl
@[simp] theorem State.setPath_run_halted (i : Nat) (p : Path) : (s.setPath i p).run.halted = s.run.halted := rfl
@[simp] theorem State.setPath_run_waves (i : Nat) (p : Path) : (s.setPath i p).run.waves = s.run.waves := rfl
@[simp] theorem State.setPath_run_paths (i : Nat) (p : Path) : (s.setPath i p).run.paths = tset s.run.paths i p := rfl
@[simp] theorem State.setPath_run_helpers (i : Nat) (p : Path) : (s.setPath i p).run.helpers = s.run.helpers := rfl
@[simp] theorem State.setPath_run_sregs (i : Nat) (p : Path) : (s.setPath i p).run.sregs = s.run.sregs := rfl
@[simp] theorem State.setPath_run_vregs (i : Nat) (p : Path) : (s.setPath i p).run.vregs = s.run.vregs := rfl
@[simp] theorem State.setPath_run_kregs (i : Nat) (p : Path) : (s.setPath i p).run.kregs = s.run.kregs := rfl
@[simp] theorem State.setPath_run_items (i : Nat) (p : Path) : (s.setPath i p).run.items = s.run.items := rfl
@[simp] theorem State.setPath_run_nbrs (i : Nat) (p : Path) : (s.setPath i p).run.nbrs = s.run.nbrs := rfl
@[simp] theorem State.setPath_run_queries (i : Nat) (p : Path) : (s.setPath i p).run.queries = s.run.queries := rfl
@[simp] theorem State.setPath_run_queryFrom (i : Nat) (p : Path) : (s.setPath i p).run.queryFrom = s.run.queryFrom := rfl
@[simp] theorem State.setPath_run_tokens (i : Nat) (p : Path) : (s.setPath i p).run.tokens = s.run.tokens := rfl
@[simp] theorem State.setPath_run_blocks (i : Nat) (p : Path) : (s.setPath i p).run.blocks = s.run.blocks := rfl
@[simp] theorem State.setPath_run_tiles (i : Nat) (p : Path) : (s.setPath i p).run.tiles = s.run.tiles := rfl

/-! delPath. -/

@[simp] theorem State.delPath_clk (i : Nat) : (s.delPath i).clk = s.clk := rfl
@[simp] theorem State.delPath_schedule (i : Nat) : (s.delPath i).schedule = s.schedule := rfl
@[simp] theorem State.delPath_cur (i : Nat) : (s.delPath i).cur = s.cur := rfl
@[simp] theorem State.delPath_free (i : Nat) : (s.delPath i).free = s.free := rfl
@[simp] theorem State.delPath_nextOp (i : Nat) : (s.delPath i).nextOp = s.nextOp := rfl
@[simp] theorem State.delPath_irqs (i : Nat) : (s.delPath i).irqs = s.irqs := rfl
@[simp] theorem State.delPath_hostData (i : Nat) : (s.delPath i).hostData = s.hostData := rfl
@[simp] theorem State.delPath_stopped (i : Nat) : (s.delPath i).stopped = s.stopped := rfl
@[simp] theorem State.delPath_saved (i : Nat) : (s.delPath i).saved = s.saved := rfl
@[simp] theorem State.delPath_mem (i : Nat) : (s.delPath i).mem = s.mem := rfl
@[simp] theorem State.delPath_sram (i : Nat) : (s.delPath i).sram = s.sram := rfl
@[simp] theorem State.delPath_vault (i : Nat) : (s.delPath i).vault = s.vault := rfl
@[simp] theorem State.delPath_bdeck (i : Nat) : (s.delPath i).bdeck = s.bdeck := rfl
@[simp] theorem State.delPath_ops (i : Nat) : (s.delPath i).ops = s.ops := rfl
@[simp] theorem State.delPath_cores (i : Nat) : (s.delPath i).cores = s.cores := rfl
@[simp] theorem State.delPath_clusters (i : Nat) : (s.delPath i).clusters = s.clusters := rfl
@[simp] theorem State.delPath_walks (i : Nat) : (s.delPath i).walks = s.walks := rfl
@[simp] theorem State.delPath_clears (i : Nat) : (s.delPath i).clears = s.clears := rfl
@[simp] theorem State.delPath_flits (i : Nat) : (s.delPath i).flits = s.flits := rfl
@[simp] theorem State.delPath_slots (i : Nat) : (s.delPath i).slots = s.slots := rfl
@[simp] theorem State.delPath_rings (i : Nat) : (s.delPath i).rings = s.rings := rfl
@[simp] theorem State.delPath_inner (i : Nat) : (s.delPath i).inner = s.inner := rfl
@[simp] theorem State.delPath_tq (i : Nat) : (s.delPath i).tq = s.tq := rfl
@[simp] theorem State.delPath_launches (i : Nat) : (s.delPath i).launches = s.launches := rfl
@[simp] theorem State.delPath_dev (i : Nat) : (s.delPath i).dev = s.dev := rfl
@[simp] theorem State.delPath_islands (i : Nat) : (s.delPath i).islands = s.islands := rfl
@[simp] theorem State.delPath_ras (i : Nat) : (s.delPath i).ras = s.ras := rfl
@[simp] theorem State.delPath_scanAt (i : Nat) : (s.delPath i).scanAt = s.scanAt := rfl
@[simp] theorem State.delPath_move (i : Nat) : (s.delPath i).move = s.move := rfl
@[simp] theorem State.delPath_linksDown (i : Nat) : (s.delPath i).linksDown = s.linksDown := rfl
@[simp] theorem State.delPath_boot (i : Nat) : (s.delPath i).boot = s.boot := rfl
@[simp] theorem State.delPath_dumpClk (i : Nat) : (s.delPath i).dumpClk = s.dumpClk := rfl
@[simp] theorem State.delPath_run_running (i : Nat) : (s.delPath i).run.running = s.run.running := rfl
@[simp] theorem State.delPath_run_halted (i : Nat) : (s.delPath i).run.halted = s.run.halted := rfl
@[simp] theorem State.delPath_run_waves (i : Nat) : (s.delPath i).run.waves = s.run.waves := rfl
@[simp] theorem State.delPath_run_paths (i : Nat) : (s.delPath i).run.paths = tdel s.run.paths i := rfl
@[simp] theorem State.delPath_run_helpers (i : Nat) : (s.delPath i).run.helpers = s.run.helpers := rfl
@[simp] theorem State.delPath_run_sregs (i : Nat) : (s.delPath i).run.sregs = s.run.sregs := rfl
@[simp] theorem State.delPath_run_vregs (i : Nat) : (s.delPath i).run.vregs = s.run.vregs := rfl
@[simp] theorem State.delPath_run_kregs (i : Nat) : (s.delPath i).run.kregs = s.run.kregs := rfl
@[simp] theorem State.delPath_run_items (i : Nat) : (s.delPath i).run.items = s.run.items := rfl
@[simp] theorem State.delPath_run_nbrs (i : Nat) : (s.delPath i).run.nbrs = s.run.nbrs := rfl
@[simp] theorem State.delPath_run_queries (i : Nat) : (s.delPath i).run.queries = s.run.queries := rfl
@[simp] theorem State.delPath_run_queryFrom (i : Nat) : (s.delPath i).run.queryFrom = s.run.queryFrom := rfl
@[simp] theorem State.delPath_run_tokens (i : Nat) : (s.delPath i).run.tokens = s.run.tokens := rfl
@[simp] theorem State.delPath_run_blocks (i : Nat) : (s.delPath i).run.blocks = s.run.blocks := rfl
@[simp] theorem State.delPath_run_tiles (i : Nat) : (s.delPath i).run.tiles = s.run.tiles := rfl

/-! setWave. -/

@[simp] theorem State.setWave_clk (i : Nat) (w : Wave) : (s.setWave i w).clk = s.clk := rfl
@[simp] theorem State.setWave_schedule (i : Nat) (w : Wave) : (s.setWave i w).schedule = s.schedule := rfl
@[simp] theorem State.setWave_cur (i : Nat) (w : Wave) : (s.setWave i w).cur = s.cur := rfl
@[simp] theorem State.setWave_free (i : Nat) (w : Wave) : (s.setWave i w).free = s.free := rfl
@[simp] theorem State.setWave_nextOp (i : Nat) (w : Wave) : (s.setWave i w).nextOp = s.nextOp := rfl
@[simp] theorem State.setWave_irqs (i : Nat) (w : Wave) : (s.setWave i w).irqs = s.irqs := rfl
@[simp] theorem State.setWave_hostData (i : Nat) (w : Wave) : (s.setWave i w).hostData = s.hostData := rfl
@[simp] theorem State.setWave_stopped (i : Nat) (w : Wave) : (s.setWave i w).stopped = s.stopped := rfl
@[simp] theorem State.setWave_saved (i : Nat) (w : Wave) : (s.setWave i w).saved = s.saved := rfl
@[simp] theorem State.setWave_mem (i : Nat) (w : Wave) : (s.setWave i w).mem = s.mem := rfl
@[simp] theorem State.setWave_sram (i : Nat) (w : Wave) : (s.setWave i w).sram = s.sram := rfl
@[simp] theorem State.setWave_vault (i : Nat) (w : Wave) : (s.setWave i w).vault = s.vault := rfl
@[simp] theorem State.setWave_bdeck (i : Nat) (w : Wave) : (s.setWave i w).bdeck = s.bdeck := rfl
@[simp] theorem State.setWave_ops (i : Nat) (w : Wave) : (s.setWave i w).ops = s.ops := rfl
@[simp] theorem State.setWave_cores (i : Nat) (w : Wave) : (s.setWave i w).cores = s.cores := rfl
@[simp] theorem State.setWave_clusters (i : Nat) (w : Wave) : (s.setWave i w).clusters = s.clusters := rfl
@[simp] theorem State.setWave_walks (i : Nat) (w : Wave) : (s.setWave i w).walks = s.walks := rfl
@[simp] theorem State.setWave_clears (i : Nat) (w : Wave) : (s.setWave i w).clears = s.clears := rfl
@[simp] theorem State.setWave_flits (i : Nat) (w : Wave) : (s.setWave i w).flits = s.flits := rfl
@[simp] theorem State.setWave_slots (i : Nat) (w : Wave) : (s.setWave i w).slots = s.slots := rfl
@[simp] theorem State.setWave_rings (i : Nat) (w : Wave) : (s.setWave i w).rings = s.rings := rfl
@[simp] theorem State.setWave_inner (i : Nat) (w : Wave) : (s.setWave i w).inner = s.inner := rfl
@[simp] theorem State.setWave_tq (i : Nat) (w : Wave) : (s.setWave i w).tq = s.tq := rfl
@[simp] theorem State.setWave_launches (i : Nat) (w : Wave) : (s.setWave i w).launches = s.launches := rfl
@[simp] theorem State.setWave_dev (i : Nat) (w : Wave) : (s.setWave i w).dev = s.dev := rfl
@[simp] theorem State.setWave_islands (i : Nat) (w : Wave) : (s.setWave i w).islands = s.islands := rfl
@[simp] theorem State.setWave_ras (i : Nat) (w : Wave) : (s.setWave i w).ras = s.ras := rfl
@[simp] theorem State.setWave_scanAt (i : Nat) (w : Wave) : (s.setWave i w).scanAt = s.scanAt := rfl
@[simp] theorem State.setWave_move (i : Nat) (w : Wave) : (s.setWave i w).move = s.move := rfl
@[simp] theorem State.setWave_linksDown (i : Nat) (w : Wave) : (s.setWave i w).linksDown = s.linksDown := rfl
@[simp] theorem State.setWave_boot (i : Nat) (w : Wave) : (s.setWave i w).boot = s.boot := rfl
@[simp] theorem State.setWave_dumpClk (i : Nat) (w : Wave) : (s.setWave i w).dumpClk = s.dumpClk := rfl
@[simp] theorem State.setWave_run_running (i : Nat) (w : Wave) : (s.setWave i w).run.running = s.run.running := rfl
@[simp] theorem State.setWave_run_halted (i : Nat) (w : Wave) : (s.setWave i w).run.halted = s.run.halted := rfl
@[simp] theorem State.setWave_run_waves (i : Nat) (w : Wave) : (s.setWave i w).run.waves = tset s.run.waves i w := rfl
@[simp] theorem State.setWave_run_paths (i : Nat) (w : Wave) : (s.setWave i w).run.paths = s.run.paths := rfl
@[simp] theorem State.setWave_run_helpers (i : Nat) (w : Wave) : (s.setWave i w).run.helpers = s.run.helpers := rfl
@[simp] theorem State.setWave_run_sregs (i : Nat) (w : Wave) : (s.setWave i w).run.sregs = s.run.sregs := rfl
@[simp] theorem State.setWave_run_vregs (i : Nat) (w : Wave) : (s.setWave i w).run.vregs = s.run.vregs := rfl
@[simp] theorem State.setWave_run_kregs (i : Nat) (w : Wave) : (s.setWave i w).run.kregs = s.run.kregs := rfl
@[simp] theorem State.setWave_run_items (i : Nat) (w : Wave) : (s.setWave i w).run.items = s.run.items := rfl
@[simp] theorem State.setWave_run_nbrs (i : Nat) (w : Wave) : (s.setWave i w).run.nbrs = s.run.nbrs := rfl
@[simp] theorem State.setWave_run_queries (i : Nat) (w : Wave) : (s.setWave i w).run.queries = s.run.queries := rfl
@[simp] theorem State.setWave_run_queryFrom (i : Nat) (w : Wave) : (s.setWave i w).run.queryFrom = s.run.queryFrom := rfl
@[simp] theorem State.setWave_run_tokens (i : Nat) (w : Wave) : (s.setWave i w).run.tokens = s.run.tokens := rfl
@[simp] theorem State.setWave_run_blocks (i : Nat) (w : Wave) : (s.setWave i w).run.blocks = s.run.blocks := rfl
@[simp] theorem State.setWave_run_tiles (i : Nat) (w : Wave) : (s.setWave i w).run.tiles = s.run.tiles := rfl

/-! setBlock. -/

@[simp] theorem State.setBlock_clk (i : Nat) (b : Block) : (s.setBlock i b).clk = s.clk := rfl
@[simp] theorem State.setBlock_schedule (i : Nat) (b : Block) : (s.setBlock i b).schedule = s.schedule := rfl
@[simp] theorem State.setBlock_cur (i : Nat) (b : Block) : (s.setBlock i b).cur = s.cur := rfl
@[simp] theorem State.setBlock_free (i : Nat) (b : Block) : (s.setBlock i b).free = s.free := rfl
@[simp] theorem State.setBlock_nextOp (i : Nat) (b : Block) : (s.setBlock i b).nextOp = s.nextOp := rfl
@[simp] theorem State.setBlock_irqs (i : Nat) (b : Block) : (s.setBlock i b).irqs = s.irqs := rfl
@[simp] theorem State.setBlock_hostData (i : Nat) (b : Block) : (s.setBlock i b).hostData = s.hostData := rfl
@[simp] theorem State.setBlock_stopped (i : Nat) (b : Block) : (s.setBlock i b).stopped = s.stopped := rfl
@[simp] theorem State.setBlock_saved (i : Nat) (b : Block) : (s.setBlock i b).saved = s.saved := rfl
@[simp] theorem State.setBlock_mem (i : Nat) (b : Block) : (s.setBlock i b).mem = s.mem := rfl
@[simp] theorem State.setBlock_sram (i : Nat) (b : Block) : (s.setBlock i b).sram = s.sram := rfl
@[simp] theorem State.setBlock_vault (i : Nat) (b : Block) : (s.setBlock i b).vault = s.vault := rfl
@[simp] theorem State.setBlock_bdeck (i : Nat) (b : Block) : (s.setBlock i b).bdeck = s.bdeck := rfl
@[simp] theorem State.setBlock_ops (i : Nat) (b : Block) : (s.setBlock i b).ops = s.ops := rfl
@[simp] theorem State.setBlock_cores (i : Nat) (b : Block) : (s.setBlock i b).cores = s.cores := rfl
@[simp] theorem State.setBlock_clusters (i : Nat) (b : Block) : (s.setBlock i b).clusters = s.clusters := rfl
@[simp] theorem State.setBlock_walks (i : Nat) (b : Block) : (s.setBlock i b).walks = s.walks := rfl
@[simp] theorem State.setBlock_clears (i : Nat) (b : Block) : (s.setBlock i b).clears = s.clears := rfl
@[simp] theorem State.setBlock_flits (i : Nat) (b : Block) : (s.setBlock i b).flits = s.flits := rfl
@[simp] theorem State.setBlock_slots (i : Nat) (b : Block) : (s.setBlock i b).slots = s.slots := rfl
@[simp] theorem State.setBlock_rings (i : Nat) (b : Block) : (s.setBlock i b).rings = s.rings := rfl
@[simp] theorem State.setBlock_inner (i : Nat) (b : Block) : (s.setBlock i b).inner = s.inner := rfl
@[simp] theorem State.setBlock_tq (i : Nat) (b : Block) : (s.setBlock i b).tq = s.tq := rfl
@[simp] theorem State.setBlock_launches (i : Nat) (b : Block) : (s.setBlock i b).launches = s.launches := rfl
@[simp] theorem State.setBlock_dev (i : Nat) (b : Block) : (s.setBlock i b).dev = s.dev := rfl
@[simp] theorem State.setBlock_islands (i : Nat) (b : Block) : (s.setBlock i b).islands = s.islands := rfl
@[simp] theorem State.setBlock_ras (i : Nat) (b : Block) : (s.setBlock i b).ras = s.ras := rfl
@[simp] theorem State.setBlock_scanAt (i : Nat) (b : Block) : (s.setBlock i b).scanAt = s.scanAt := rfl
@[simp] theorem State.setBlock_move (i : Nat) (b : Block) : (s.setBlock i b).move = s.move := rfl
@[simp] theorem State.setBlock_linksDown (i : Nat) (b : Block) : (s.setBlock i b).linksDown = s.linksDown := rfl
@[simp] theorem State.setBlock_boot (i : Nat) (b : Block) : (s.setBlock i b).boot = s.boot := rfl
@[simp] theorem State.setBlock_dumpClk (i : Nat) (b : Block) : (s.setBlock i b).dumpClk = s.dumpClk := rfl
@[simp] theorem State.setBlock_run_running (i : Nat) (b : Block) : (s.setBlock i b).run.running = s.run.running := rfl
@[simp] theorem State.setBlock_run_halted (i : Nat) (b : Block) : (s.setBlock i b).run.halted = s.run.halted := rfl
@[simp] theorem State.setBlock_run_waves (i : Nat) (b : Block) : (s.setBlock i b).run.waves = s.run.waves := rfl
@[simp] theorem State.setBlock_run_paths (i : Nat) (b : Block) : (s.setBlock i b).run.paths = s.run.paths := rfl
@[simp] theorem State.setBlock_run_helpers (i : Nat) (b : Block) : (s.setBlock i b).run.helpers = s.run.helpers := rfl
@[simp] theorem State.setBlock_run_sregs (i : Nat) (b : Block) : (s.setBlock i b).run.sregs = s.run.sregs := rfl
@[simp] theorem State.setBlock_run_vregs (i : Nat) (b : Block) : (s.setBlock i b).run.vregs = s.run.vregs := rfl
@[simp] theorem State.setBlock_run_kregs (i : Nat) (b : Block) : (s.setBlock i b).run.kregs = s.run.kregs := rfl
@[simp] theorem State.setBlock_run_items (i : Nat) (b : Block) : (s.setBlock i b).run.items = s.run.items := rfl
@[simp] theorem State.setBlock_run_nbrs (i : Nat) (b : Block) : (s.setBlock i b).run.nbrs = s.run.nbrs := rfl
@[simp] theorem State.setBlock_run_queries (i : Nat) (b : Block) : (s.setBlock i b).run.queries = s.run.queries := rfl
@[simp] theorem State.setBlock_run_queryFrom (i : Nat) (b : Block) : (s.setBlock i b).run.queryFrom = s.run.queryFrom := rfl
@[simp] theorem State.setBlock_run_tokens (i : Nat) (b : Block) : (s.setBlock i b).run.tokens = s.run.tokens := rfl
@[simp] theorem State.setBlock_run_blocks (i : Nat) (b : Block) : (s.setBlock i b).run.blocks = tset s.run.blocks i b := rfl
@[simp] theorem State.setBlock_run_tiles (i : Nat) (b : Block) : (s.setBlock i b).run.tiles = s.run.tiles := rfl

/-! setHelper. -/

@[simp] theorem State.setHelper_clk (i : Nat) (v : Helper) : (s.setHelper i v).clk = s.clk := rfl
@[simp] theorem State.setHelper_schedule (i : Nat) (v : Helper) : (s.setHelper i v).schedule = s.schedule := rfl
@[simp] theorem State.setHelper_cur (i : Nat) (v : Helper) : (s.setHelper i v).cur = s.cur := rfl
@[simp] theorem State.setHelper_free (i : Nat) (v : Helper) : (s.setHelper i v).free = s.free := rfl
@[simp] theorem State.setHelper_nextOp (i : Nat) (v : Helper) : (s.setHelper i v).nextOp = s.nextOp := rfl
@[simp] theorem State.setHelper_irqs (i : Nat) (v : Helper) : (s.setHelper i v).irqs = s.irqs := rfl
@[simp] theorem State.setHelper_hostData (i : Nat) (v : Helper) : (s.setHelper i v).hostData = s.hostData := rfl
@[simp] theorem State.setHelper_stopped (i : Nat) (v : Helper) : (s.setHelper i v).stopped = s.stopped := rfl
@[simp] theorem State.setHelper_saved (i : Nat) (v : Helper) : (s.setHelper i v).saved = s.saved := rfl
@[simp] theorem State.setHelper_mem (i : Nat) (v : Helper) : (s.setHelper i v).mem = s.mem := rfl
@[simp] theorem State.setHelper_sram (i : Nat) (v : Helper) : (s.setHelper i v).sram = s.sram := rfl
@[simp] theorem State.setHelper_vault (i : Nat) (v : Helper) : (s.setHelper i v).vault = s.vault := rfl
@[simp] theorem State.setHelper_bdeck (i : Nat) (v : Helper) : (s.setHelper i v).bdeck = s.bdeck := rfl
@[simp] theorem State.setHelper_ops (i : Nat) (v : Helper) : (s.setHelper i v).ops = s.ops := rfl
@[simp] theorem State.setHelper_cores (i : Nat) (v : Helper) : (s.setHelper i v).cores = s.cores := rfl
@[simp] theorem State.setHelper_clusters (i : Nat) (v : Helper) : (s.setHelper i v).clusters = s.clusters := rfl
@[simp] theorem State.setHelper_walks (i : Nat) (v : Helper) : (s.setHelper i v).walks = s.walks := rfl
@[simp] theorem State.setHelper_clears (i : Nat) (v : Helper) : (s.setHelper i v).clears = s.clears := rfl
@[simp] theorem State.setHelper_flits (i : Nat) (v : Helper) : (s.setHelper i v).flits = s.flits := rfl
@[simp] theorem State.setHelper_slots (i : Nat) (v : Helper) : (s.setHelper i v).slots = s.slots := rfl
@[simp] theorem State.setHelper_rings (i : Nat) (v : Helper) : (s.setHelper i v).rings = s.rings := rfl
@[simp] theorem State.setHelper_inner (i : Nat) (v : Helper) : (s.setHelper i v).inner = s.inner := rfl
@[simp] theorem State.setHelper_tq (i : Nat) (v : Helper) : (s.setHelper i v).tq = s.tq := rfl
@[simp] theorem State.setHelper_launches (i : Nat) (v : Helper) : (s.setHelper i v).launches = s.launches := rfl
@[simp] theorem State.setHelper_dev (i : Nat) (v : Helper) : (s.setHelper i v).dev = s.dev := rfl
@[simp] theorem State.setHelper_islands (i : Nat) (v : Helper) : (s.setHelper i v).islands = s.islands := rfl
@[simp] theorem State.setHelper_ras (i : Nat) (v : Helper) : (s.setHelper i v).ras = s.ras := rfl
@[simp] theorem State.setHelper_scanAt (i : Nat) (v : Helper) : (s.setHelper i v).scanAt = s.scanAt := rfl
@[simp] theorem State.setHelper_move (i : Nat) (v : Helper) : (s.setHelper i v).move = s.move := rfl
@[simp] theorem State.setHelper_linksDown (i : Nat) (v : Helper) : (s.setHelper i v).linksDown = s.linksDown := rfl
@[simp] theorem State.setHelper_boot (i : Nat) (v : Helper) : (s.setHelper i v).boot = s.boot := rfl
@[simp] theorem State.setHelper_dumpClk (i : Nat) (v : Helper) : (s.setHelper i v).dumpClk = s.dumpClk := rfl
@[simp] theorem State.setHelper_run_running (i : Nat) (v : Helper) : (s.setHelper i v).run.running = s.run.running := rfl
@[simp] theorem State.setHelper_run_halted (i : Nat) (v : Helper) : (s.setHelper i v).run.halted = s.run.halted := rfl
@[simp] theorem State.setHelper_run_waves (i : Nat) (v : Helper) : (s.setHelper i v).run.waves = s.run.waves := rfl
@[simp] theorem State.setHelper_run_paths (i : Nat) (v : Helper) : (s.setHelper i v).run.paths = s.run.paths := rfl
@[simp] theorem State.setHelper_run_helpers (i : Nat) (v : Helper) : (s.setHelper i v).run.helpers = tset s.run.helpers i v := rfl
@[simp] theorem State.setHelper_run_sregs (i : Nat) (v : Helper) : (s.setHelper i v).run.sregs = s.run.sregs := rfl
@[simp] theorem State.setHelper_run_vregs (i : Nat) (v : Helper) : (s.setHelper i v).run.vregs = s.run.vregs := rfl
@[simp] theorem State.setHelper_run_kregs (i : Nat) (v : Helper) : (s.setHelper i v).run.kregs = s.run.kregs := rfl
@[simp] theorem State.setHelper_run_items (i : Nat) (v : Helper) : (s.setHelper i v).run.items = s.run.items := rfl
@[simp] theorem State.setHelper_run_nbrs (i : Nat) (v : Helper) : (s.setHelper i v).run.nbrs = s.run.nbrs := rfl
@[simp] theorem State.setHelper_run_queries (i : Nat) (v : Helper) : (s.setHelper i v).run.queries = s.run.queries := rfl
@[simp] theorem State.setHelper_run_queryFrom (i : Nat) (v : Helper) : (s.setHelper i v).run.queryFrom = s.run.queryFrom := rfl
@[simp] theorem State.setHelper_run_tokens (i : Nat) (v : Helper) : (s.setHelper i v).run.tokens = s.run.tokens := rfl
@[simp] theorem State.setHelper_run_blocks (i : Nat) (v : Helper) : (s.setHelper i v).run.blocks = s.run.blocks := rfl
@[simp] theorem State.setHelper_run_tiles (i : Nat) (v : Helper) : (s.setHelper i v).run.tiles = s.run.tiles := rfl

/-! setTile. -/

@[simp] theorem State.setTile_clk (i : Nat) (t : Tile) : (s.setTile i t).clk = s.clk := rfl
@[simp] theorem State.setTile_schedule (i : Nat) (t : Tile) : (s.setTile i t).schedule = s.schedule := rfl
@[simp] theorem State.setTile_cur (i : Nat) (t : Tile) : (s.setTile i t).cur = s.cur := rfl
@[simp] theorem State.setTile_free (i : Nat) (t : Tile) : (s.setTile i t).free = s.free := rfl
@[simp] theorem State.setTile_nextOp (i : Nat) (t : Tile) : (s.setTile i t).nextOp = s.nextOp := rfl
@[simp] theorem State.setTile_irqs (i : Nat) (t : Tile) : (s.setTile i t).irqs = s.irqs := rfl
@[simp] theorem State.setTile_hostData (i : Nat) (t : Tile) : (s.setTile i t).hostData = s.hostData := rfl
@[simp] theorem State.setTile_stopped (i : Nat) (t : Tile) : (s.setTile i t).stopped = s.stopped := rfl
@[simp] theorem State.setTile_saved (i : Nat) (t : Tile) : (s.setTile i t).saved = s.saved := rfl
@[simp] theorem State.setTile_mem (i : Nat) (t : Tile) : (s.setTile i t).mem = s.mem := rfl
@[simp] theorem State.setTile_sram (i : Nat) (t : Tile) : (s.setTile i t).sram = s.sram := rfl
@[simp] theorem State.setTile_vault (i : Nat) (t : Tile) : (s.setTile i t).vault = s.vault := rfl
@[simp] theorem State.setTile_bdeck (i : Nat) (t : Tile) : (s.setTile i t).bdeck = s.bdeck := rfl
@[simp] theorem State.setTile_ops (i : Nat) (t : Tile) : (s.setTile i t).ops = s.ops := rfl
@[simp] theorem State.setTile_cores (i : Nat) (t : Tile) : (s.setTile i t).cores = s.cores := rfl
@[simp] theorem State.setTile_clusters (i : Nat) (t : Tile) : (s.setTile i t).clusters = s.clusters := rfl
@[simp] theorem State.setTile_walks (i : Nat) (t : Tile) : (s.setTile i t).walks = s.walks := rfl
@[simp] theorem State.setTile_clears (i : Nat) (t : Tile) : (s.setTile i t).clears = s.clears := rfl
@[simp] theorem State.setTile_flits (i : Nat) (t : Tile) : (s.setTile i t).flits = s.flits := rfl
@[simp] theorem State.setTile_slots (i : Nat) (t : Tile) : (s.setTile i t).slots = s.slots := rfl
@[simp] theorem State.setTile_rings (i : Nat) (t : Tile) : (s.setTile i t).rings = s.rings := rfl
@[simp] theorem State.setTile_inner (i : Nat) (t : Tile) : (s.setTile i t).inner = s.inner := rfl
@[simp] theorem State.setTile_tq (i : Nat) (t : Tile) : (s.setTile i t).tq = s.tq := rfl
@[simp] theorem State.setTile_launches (i : Nat) (t : Tile) : (s.setTile i t).launches = s.launches := rfl
@[simp] theorem State.setTile_dev (i : Nat) (t : Tile) : (s.setTile i t).dev = s.dev := rfl
@[simp] theorem State.setTile_islands (i : Nat) (t : Tile) : (s.setTile i t).islands = s.islands := rfl
@[simp] theorem State.setTile_ras (i : Nat) (t : Tile) : (s.setTile i t).ras = s.ras := rfl
@[simp] theorem State.setTile_scanAt (i : Nat) (t : Tile) : (s.setTile i t).scanAt = s.scanAt := rfl
@[simp] theorem State.setTile_move (i : Nat) (t : Tile) : (s.setTile i t).move = s.move := rfl
@[simp] theorem State.setTile_linksDown (i : Nat) (t : Tile) : (s.setTile i t).linksDown = s.linksDown := rfl
@[simp] theorem State.setTile_boot (i : Nat) (t : Tile) : (s.setTile i t).boot = s.boot := rfl
@[simp] theorem State.setTile_dumpClk (i : Nat) (t : Tile) : (s.setTile i t).dumpClk = s.dumpClk := rfl
@[simp] theorem State.setTile_run_running (i : Nat) (t : Tile) : (s.setTile i t).run.running = s.run.running := rfl
@[simp] theorem State.setTile_run_halted (i : Nat) (t : Tile) : (s.setTile i t).run.halted = s.run.halted := rfl
@[simp] theorem State.setTile_run_waves (i : Nat) (t : Tile) : (s.setTile i t).run.waves = s.run.waves := rfl
@[simp] theorem State.setTile_run_paths (i : Nat) (t : Tile) : (s.setTile i t).run.paths = s.run.paths := rfl
@[simp] theorem State.setTile_run_helpers (i : Nat) (t : Tile) : (s.setTile i t).run.helpers = s.run.helpers := rfl
@[simp] theorem State.setTile_run_sregs (i : Nat) (t : Tile) : (s.setTile i t).run.sregs = s.run.sregs := rfl
@[simp] theorem State.setTile_run_vregs (i : Nat) (t : Tile) : (s.setTile i t).run.vregs = s.run.vregs := rfl
@[simp] theorem State.setTile_run_kregs (i : Nat) (t : Tile) : (s.setTile i t).run.kregs = s.run.kregs := rfl
@[simp] theorem State.setTile_run_items (i : Nat) (t : Tile) : (s.setTile i t).run.items = s.run.items := rfl
@[simp] theorem State.setTile_run_nbrs (i : Nat) (t : Tile) : (s.setTile i t).run.nbrs = s.run.nbrs := rfl
@[simp] theorem State.setTile_run_queries (i : Nat) (t : Tile) : (s.setTile i t).run.queries = s.run.queries := rfl
@[simp] theorem State.setTile_run_queryFrom (i : Nat) (t : Tile) : (s.setTile i t).run.queryFrom = s.run.queryFrom := rfl
@[simp] theorem State.setTile_run_tokens (i : Nat) (t : Tile) : (s.setTile i t).run.tokens = s.run.tokens := rfl
@[simp] theorem State.setTile_run_blocks (i : Nat) (t : Tile) : (s.setTile i t).run.blocks = s.run.blocks := rfl
@[simp] theorem State.setTile_run_tiles (i : Nat) (t : Tile) : (s.setTile i t).run.tiles = tset s.run.tiles i t := rfl

/-! setTokens. -/

@[simp] theorem State.setTokens_clk (i : Nat) (ts : List Token) : (s.setTokens i ts).clk = s.clk := rfl
@[simp] theorem State.setTokens_schedule (i : Nat) (ts : List Token) : (s.setTokens i ts).schedule = s.schedule := rfl
@[simp] theorem State.setTokens_cur (i : Nat) (ts : List Token) : (s.setTokens i ts).cur = s.cur := rfl
@[simp] theorem State.setTokens_free (i : Nat) (ts : List Token) : (s.setTokens i ts).free = s.free := rfl
@[simp] theorem State.setTokens_nextOp (i : Nat) (ts : List Token) : (s.setTokens i ts).nextOp = s.nextOp := rfl
@[simp] theorem State.setTokens_irqs (i : Nat) (ts : List Token) : (s.setTokens i ts).irqs = s.irqs := rfl
@[simp] theorem State.setTokens_hostData (i : Nat) (ts : List Token) : (s.setTokens i ts).hostData = s.hostData := rfl
@[simp] theorem State.setTokens_stopped (i : Nat) (ts : List Token) : (s.setTokens i ts).stopped = s.stopped := rfl
@[simp] theorem State.setTokens_saved (i : Nat) (ts : List Token) : (s.setTokens i ts).saved = s.saved := rfl
@[simp] theorem State.setTokens_mem (i : Nat) (ts : List Token) : (s.setTokens i ts).mem = s.mem := rfl
@[simp] theorem State.setTokens_sram (i : Nat) (ts : List Token) : (s.setTokens i ts).sram = s.sram := rfl
@[simp] theorem State.setTokens_vault (i : Nat) (ts : List Token) : (s.setTokens i ts).vault = s.vault := rfl
@[simp] theorem State.setTokens_bdeck (i : Nat) (ts : List Token) : (s.setTokens i ts).bdeck = s.bdeck := rfl
@[simp] theorem State.setTokens_ops (i : Nat) (ts : List Token) : (s.setTokens i ts).ops = s.ops := rfl
@[simp] theorem State.setTokens_cores (i : Nat) (ts : List Token) : (s.setTokens i ts).cores = s.cores := rfl
@[simp] theorem State.setTokens_clusters (i : Nat) (ts : List Token) : (s.setTokens i ts).clusters = s.clusters := rfl
@[simp] theorem State.setTokens_walks (i : Nat) (ts : List Token) : (s.setTokens i ts).walks = s.walks := rfl
@[simp] theorem State.setTokens_clears (i : Nat) (ts : List Token) : (s.setTokens i ts).clears = s.clears := rfl
@[simp] theorem State.setTokens_flits (i : Nat) (ts : List Token) : (s.setTokens i ts).flits = s.flits := rfl
@[simp] theorem State.setTokens_slots (i : Nat) (ts : List Token) : (s.setTokens i ts).slots = s.slots := rfl
@[simp] theorem State.setTokens_rings (i : Nat) (ts : List Token) : (s.setTokens i ts).rings = s.rings := rfl
@[simp] theorem State.setTokens_inner (i : Nat) (ts : List Token) : (s.setTokens i ts).inner = s.inner := rfl
@[simp] theorem State.setTokens_tq (i : Nat) (ts : List Token) : (s.setTokens i ts).tq = s.tq := rfl
@[simp] theorem State.setTokens_launches (i : Nat) (ts : List Token) : (s.setTokens i ts).launches = s.launches := rfl
@[simp] theorem State.setTokens_dev (i : Nat) (ts : List Token) : (s.setTokens i ts).dev = s.dev := rfl
@[simp] theorem State.setTokens_islands (i : Nat) (ts : List Token) : (s.setTokens i ts).islands = s.islands := rfl
@[simp] theorem State.setTokens_ras (i : Nat) (ts : List Token) : (s.setTokens i ts).ras = s.ras := rfl
@[simp] theorem State.setTokens_scanAt (i : Nat) (ts : List Token) : (s.setTokens i ts).scanAt = s.scanAt := rfl
@[simp] theorem State.setTokens_move (i : Nat) (ts : List Token) : (s.setTokens i ts).move = s.move := rfl
@[simp] theorem State.setTokens_linksDown (i : Nat) (ts : List Token) : (s.setTokens i ts).linksDown = s.linksDown := rfl
@[simp] theorem State.setTokens_boot (i : Nat) (ts : List Token) : (s.setTokens i ts).boot = s.boot := rfl
@[simp] theorem State.setTokens_dumpClk (i : Nat) (ts : List Token) : (s.setTokens i ts).dumpClk = s.dumpClk := rfl
@[simp] theorem State.setTokens_run_running (i : Nat) (ts : List Token) : (s.setTokens i ts).run.running = s.run.running := rfl
@[simp] theorem State.setTokens_run_halted (i : Nat) (ts : List Token) : (s.setTokens i ts).run.halted = s.run.halted := rfl
@[simp] theorem State.setTokens_run_waves (i : Nat) (ts : List Token) : (s.setTokens i ts).run.waves = s.run.waves := rfl
@[simp] theorem State.setTokens_run_paths (i : Nat) (ts : List Token) : (s.setTokens i ts).run.paths = s.run.paths := rfl
@[simp] theorem State.setTokens_run_helpers (i : Nat) (ts : List Token) : (s.setTokens i ts).run.helpers = s.run.helpers := rfl
@[simp] theorem State.setTokens_run_sregs (i : Nat) (ts : List Token) : (s.setTokens i ts).run.sregs = s.run.sregs := rfl
@[simp] theorem State.setTokens_run_vregs (i : Nat) (ts : List Token) : (s.setTokens i ts).run.vregs = s.run.vregs := rfl
@[simp] theorem State.setTokens_run_kregs (i : Nat) (ts : List Token) : (s.setTokens i ts).run.kregs = s.run.kregs := rfl
@[simp] theorem State.setTokens_run_items (i : Nat) (ts : List Token) : (s.setTokens i ts).run.items = s.run.items := rfl
@[simp] theorem State.setTokens_run_nbrs (i : Nat) (ts : List Token) : (s.setTokens i ts).run.nbrs = s.run.nbrs := rfl
@[simp] theorem State.setTokens_run_queries (i : Nat) (ts : List Token) : (s.setTokens i ts).run.queries = s.run.queries := rfl
@[simp] theorem State.setTokens_run_queryFrom (i : Nat) (ts : List Token) : (s.setTokens i ts).run.queryFrom = s.run.queryFrom := rfl
@[simp] theorem State.setTokens_run_tokens (i : Nat) (ts : List Token) : (s.setTokens i ts).run.tokens = if ts.isEmpty then tdel s.run.tokens i else tset s.run.tokens i ts := rfl
@[simp] theorem State.setTokens_run_blocks (i : Nat) (ts : List Token) : (s.setTokens i ts).run.blocks = s.run.blocks := rfl
@[simp] theorem State.setTokens_run_tiles (i : Nat) (ts : List Token) : (s.setTokens i ts).run.tiles = s.run.tiles := rfl

/-! setCore. -/

@[simp] theorem State.setCore_clk (i : Nat) (k : Core) : (s.setCore i k).clk = s.clk := rfl
@[simp] theorem State.setCore_schedule (i : Nat) (k : Core) : (s.setCore i k).schedule = s.schedule := rfl
@[simp] theorem State.setCore_cur (i : Nat) (k : Core) : (s.setCore i k).cur = s.cur := rfl
@[simp] theorem State.setCore_free (i : Nat) (k : Core) : (s.setCore i k).free = s.free := rfl
@[simp] theorem State.setCore_nextOp (i : Nat) (k : Core) : (s.setCore i k).nextOp = s.nextOp := rfl
@[simp] theorem State.setCore_irqs (i : Nat) (k : Core) : (s.setCore i k).irqs = s.irqs := rfl
@[simp] theorem State.setCore_hostData (i : Nat) (k : Core) : (s.setCore i k).hostData = s.hostData := rfl
@[simp] theorem State.setCore_stopped (i : Nat) (k : Core) : (s.setCore i k).stopped = s.stopped := rfl
@[simp] theorem State.setCore_run (i : Nat) (k : Core) : (s.setCore i k).run = s.run := rfl
@[simp] theorem State.setCore_saved (i : Nat) (k : Core) : (s.setCore i k).saved = s.saved := rfl
@[simp] theorem State.setCore_mem (i : Nat) (k : Core) : (s.setCore i k).mem = s.mem := rfl
@[simp] theorem State.setCore_sram (i : Nat) (k : Core) : (s.setCore i k).sram = s.sram := rfl
@[simp] theorem State.setCore_vault (i : Nat) (k : Core) : (s.setCore i k).vault = s.vault := rfl
@[simp] theorem State.setCore_bdeck (i : Nat) (k : Core) : (s.setCore i k).bdeck = s.bdeck := rfl
@[simp] theorem State.setCore_ops (i : Nat) (k : Core) : (s.setCore i k).ops = s.ops := rfl
@[simp] theorem State.setCore_cores (i : Nat) (k : Core) : (s.setCore i k).cores = tset s.cores i k := rfl
@[simp] theorem State.setCore_clusters (i : Nat) (k : Core) : (s.setCore i k).clusters = s.clusters := rfl
@[simp] theorem State.setCore_walks (i : Nat) (k : Core) : (s.setCore i k).walks = s.walks := rfl
@[simp] theorem State.setCore_clears (i : Nat) (k : Core) : (s.setCore i k).clears = s.clears := rfl
@[simp] theorem State.setCore_flits (i : Nat) (k : Core) : (s.setCore i k).flits = s.flits := rfl
@[simp] theorem State.setCore_slots (i : Nat) (k : Core) : (s.setCore i k).slots = s.slots := rfl
@[simp] theorem State.setCore_rings (i : Nat) (k : Core) : (s.setCore i k).rings = s.rings := rfl
@[simp] theorem State.setCore_inner (i : Nat) (k : Core) : (s.setCore i k).inner = s.inner := rfl
@[simp] theorem State.setCore_tq (i : Nat) (k : Core) : (s.setCore i k).tq = s.tq := rfl
@[simp] theorem State.setCore_launches (i : Nat) (k : Core) : (s.setCore i k).launches = s.launches := rfl
@[simp] theorem State.setCore_dev (i : Nat) (k : Core) : (s.setCore i k).dev = s.dev := rfl
@[simp] theorem State.setCore_islands (i : Nat) (k : Core) : (s.setCore i k).islands = s.islands := rfl
@[simp] theorem State.setCore_ras (i : Nat) (k : Core) : (s.setCore i k).ras = s.ras := rfl
@[simp] theorem State.setCore_scanAt (i : Nat) (k : Core) : (s.setCore i k).scanAt = s.scanAt := rfl
@[simp] theorem State.setCore_move (i : Nat) (k : Core) : (s.setCore i k).move = s.move := rfl
@[simp] theorem State.setCore_linksDown (i : Nat) (k : Core) : (s.setCore i k).linksDown = s.linksDown := rfl
@[simp] theorem State.setCore_boot (i : Nat) (k : Core) : (s.setCore i k).boot = s.boot := rfl
@[simp] theorem State.setCore_dumpClk (i : Nat) (k : Core) : (s.setCore i k).dumpClk = s.dumpClk := rfl

/-! setCluster. -/

@[simp] theorem State.setCluster_clk (i : Nat) (k : Cluster) : (s.setCluster i k).clk = s.clk := rfl
@[simp] theorem State.setCluster_schedule (i : Nat) (k : Cluster) : (s.setCluster i k).schedule = s.schedule := rfl
@[simp] theorem State.setCluster_cur (i : Nat) (k : Cluster) : (s.setCluster i k).cur = s.cur := rfl
@[simp] theorem State.setCluster_free (i : Nat) (k : Cluster) : (s.setCluster i k).free = s.free := rfl
@[simp] theorem State.setCluster_nextOp (i : Nat) (k : Cluster) : (s.setCluster i k).nextOp = s.nextOp := rfl
@[simp] theorem State.setCluster_irqs (i : Nat) (k : Cluster) : (s.setCluster i k).irqs = s.irqs := rfl
@[simp] theorem State.setCluster_hostData (i : Nat) (k : Cluster) : (s.setCluster i k).hostData = s.hostData := rfl
@[simp] theorem State.setCluster_stopped (i : Nat) (k : Cluster) : (s.setCluster i k).stopped = s.stopped := rfl
@[simp] theorem State.setCluster_run (i : Nat) (k : Cluster) : (s.setCluster i k).run = s.run := rfl
@[simp] theorem State.setCluster_saved (i : Nat) (k : Cluster) : (s.setCluster i k).saved = s.saved := rfl
@[simp] theorem State.setCluster_mem (i : Nat) (k : Cluster) : (s.setCluster i k).mem = s.mem := rfl
@[simp] theorem State.setCluster_sram (i : Nat) (k : Cluster) : (s.setCluster i k).sram = s.sram := rfl
@[simp] theorem State.setCluster_vault (i : Nat) (k : Cluster) : (s.setCluster i k).vault = s.vault := rfl
@[simp] theorem State.setCluster_bdeck (i : Nat) (k : Cluster) : (s.setCluster i k).bdeck = s.bdeck := rfl
@[simp] theorem State.setCluster_ops (i : Nat) (k : Cluster) : (s.setCluster i k).ops = s.ops := rfl
@[simp] theorem State.setCluster_cores (i : Nat) (k : Cluster) : (s.setCluster i k).cores = s.cores := rfl
@[simp] theorem State.setCluster_clusters (i : Nat) (k : Cluster) : (s.setCluster i k).clusters = tset s.clusters i k := rfl
@[simp] theorem State.setCluster_walks (i : Nat) (k : Cluster) : (s.setCluster i k).walks = s.walks := rfl
@[simp] theorem State.setCluster_clears (i : Nat) (k : Cluster) : (s.setCluster i k).clears = s.clears := rfl
@[simp] theorem State.setCluster_flits (i : Nat) (k : Cluster) : (s.setCluster i k).flits = s.flits := rfl
@[simp] theorem State.setCluster_slots (i : Nat) (k : Cluster) : (s.setCluster i k).slots = s.slots := rfl
@[simp] theorem State.setCluster_rings (i : Nat) (k : Cluster) : (s.setCluster i k).rings = s.rings := rfl
@[simp] theorem State.setCluster_inner (i : Nat) (k : Cluster) : (s.setCluster i k).inner = s.inner := rfl
@[simp] theorem State.setCluster_tq (i : Nat) (k : Cluster) : (s.setCluster i k).tq = s.tq := rfl
@[simp] theorem State.setCluster_launches (i : Nat) (k : Cluster) : (s.setCluster i k).launches = s.launches := rfl
@[simp] theorem State.setCluster_dev (i : Nat) (k : Cluster) : (s.setCluster i k).dev = s.dev := rfl
@[simp] theorem State.setCluster_islands (i : Nat) (k : Cluster) : (s.setCluster i k).islands = s.islands := rfl
@[simp] theorem State.setCluster_ras (i : Nat) (k : Cluster) : (s.setCluster i k).ras = s.ras := rfl
@[simp] theorem State.setCluster_scanAt (i : Nat) (k : Cluster) : (s.setCluster i k).scanAt = s.scanAt := rfl
@[simp] theorem State.setCluster_move (i : Nat) (k : Cluster) : (s.setCluster i k).move = s.move := rfl
@[simp] theorem State.setCluster_linksDown (i : Nat) (k : Cluster) : (s.setCluster i k).linksDown = s.linksDown := rfl
@[simp] theorem State.setCluster_boot (i : Nat) (k : Cluster) : (s.setCluster i k).boot = s.boot := rfl
@[simp] theorem State.setCluster_dumpClk (i : Nat) (k : Cluster) : (s.setCluster i k).dumpClk = s.dumpClk := rfl

/-! setClear. -/

@[simp] theorem State.setClear_clk (i : Nat) (c : Clear) : (s.setClear i c).clk = s.clk := rfl
@[simp] theorem State.setClear_schedule (i : Nat) (c : Clear) : (s.setClear i c).schedule = s.schedule := rfl
@[simp] theorem State.setClear_cur (i : Nat) (c : Clear) : (s.setClear i c).cur = s.cur := rfl
@[simp] theorem State.setClear_free (i : Nat) (c : Clear) : (s.setClear i c).free = s.free := rfl
@[simp] theorem State.setClear_nextOp (i : Nat) (c : Clear) : (s.setClear i c).nextOp = s.nextOp := rfl
@[simp] theorem State.setClear_irqs (i : Nat) (c : Clear) : (s.setClear i c).irqs = s.irqs := rfl
@[simp] theorem State.setClear_hostData (i : Nat) (c : Clear) : (s.setClear i c).hostData = s.hostData := rfl
@[simp] theorem State.setClear_stopped (i : Nat) (c : Clear) : (s.setClear i c).stopped = s.stopped := rfl
@[simp] theorem State.setClear_run (i : Nat) (c : Clear) : (s.setClear i c).run = s.run := rfl
@[simp] theorem State.setClear_saved (i : Nat) (c : Clear) : (s.setClear i c).saved = s.saved := rfl
@[simp] theorem State.setClear_mem (i : Nat) (c : Clear) : (s.setClear i c).mem = s.mem := rfl
@[simp] theorem State.setClear_sram (i : Nat) (c : Clear) : (s.setClear i c).sram = s.sram := rfl
@[simp] theorem State.setClear_vault (i : Nat) (c : Clear) : (s.setClear i c).vault = s.vault := rfl
@[simp] theorem State.setClear_bdeck (i : Nat) (c : Clear) : (s.setClear i c).bdeck = s.bdeck := rfl
@[simp] theorem State.setClear_ops (i : Nat) (c : Clear) : (s.setClear i c).ops = s.ops := rfl
@[simp] theorem State.setClear_cores (i : Nat) (c : Clear) : (s.setClear i c).cores = s.cores := rfl
@[simp] theorem State.setClear_clusters (i : Nat) (c : Clear) : (s.setClear i c).clusters = s.clusters := rfl
@[simp] theorem State.setClear_walks (i : Nat) (c : Clear) : (s.setClear i c).walks = s.walks := rfl
@[simp] theorem State.setClear_clears (i : Nat) (c : Clear) : (s.setClear i c).clears = tset s.clears i c := rfl
@[simp] theorem State.setClear_flits (i : Nat) (c : Clear) : (s.setClear i c).flits = s.flits := rfl
@[simp] theorem State.setClear_slots (i : Nat) (c : Clear) : (s.setClear i c).slots = s.slots := rfl
@[simp] theorem State.setClear_rings (i : Nat) (c : Clear) : (s.setClear i c).rings = s.rings := rfl
@[simp] theorem State.setClear_inner (i : Nat) (c : Clear) : (s.setClear i c).inner = s.inner := rfl
@[simp] theorem State.setClear_tq (i : Nat) (c : Clear) : (s.setClear i c).tq = s.tq := rfl
@[simp] theorem State.setClear_launches (i : Nat) (c : Clear) : (s.setClear i c).launches = s.launches := rfl
@[simp] theorem State.setClear_dev (i : Nat) (c : Clear) : (s.setClear i c).dev = s.dev := rfl
@[simp] theorem State.setClear_islands (i : Nat) (c : Clear) : (s.setClear i c).islands = s.islands := rfl
@[simp] theorem State.setClear_ras (i : Nat) (c : Clear) : (s.setClear i c).ras = s.ras := rfl
@[simp] theorem State.setClear_scanAt (i : Nat) (c : Clear) : (s.setClear i c).scanAt = s.scanAt := rfl
@[simp] theorem State.setClear_move (i : Nat) (c : Clear) : (s.setClear i c).move = s.move := rfl
@[simp] theorem State.setClear_linksDown (i : Nat) (c : Clear) : (s.setClear i c).linksDown = s.linksDown := rfl
@[simp] theorem State.setClear_boot (i : Nat) (c : Clear) : (s.setClear i c).boot = s.boot := rfl
@[simp] theorem State.setClear_dumpClk (i : Nat) (c : Clear) : (s.setClear i c).dumpClk = s.dumpClk := rfl

/-! setRing. -/

@[simp] theorem State.setRing_clk (i : Nat) (r : Ring) : (s.setRing i r).clk = s.clk := rfl
@[simp] theorem State.setRing_schedule (i : Nat) (r : Ring) : (s.setRing i r).schedule = s.schedule := rfl
@[simp] theorem State.setRing_cur (i : Nat) (r : Ring) : (s.setRing i r).cur = s.cur := rfl
@[simp] theorem State.setRing_free (i : Nat) (r : Ring) : (s.setRing i r).free = s.free := rfl
@[simp] theorem State.setRing_nextOp (i : Nat) (r : Ring) : (s.setRing i r).nextOp = s.nextOp := rfl
@[simp] theorem State.setRing_irqs (i : Nat) (r : Ring) : (s.setRing i r).irqs = s.irqs := rfl
@[simp] theorem State.setRing_hostData (i : Nat) (r : Ring) : (s.setRing i r).hostData = s.hostData := rfl
@[simp] theorem State.setRing_stopped (i : Nat) (r : Ring) : (s.setRing i r).stopped = s.stopped := rfl
@[simp] theorem State.setRing_run (i : Nat) (r : Ring) : (s.setRing i r).run = s.run := rfl
@[simp] theorem State.setRing_saved (i : Nat) (r : Ring) : (s.setRing i r).saved = s.saved := rfl
@[simp] theorem State.setRing_mem (i : Nat) (r : Ring) : (s.setRing i r).mem = s.mem := rfl
@[simp] theorem State.setRing_sram (i : Nat) (r : Ring) : (s.setRing i r).sram = s.sram := rfl
@[simp] theorem State.setRing_vault (i : Nat) (r : Ring) : (s.setRing i r).vault = s.vault := rfl
@[simp] theorem State.setRing_bdeck (i : Nat) (r : Ring) : (s.setRing i r).bdeck = s.bdeck := rfl
@[simp] theorem State.setRing_ops (i : Nat) (r : Ring) : (s.setRing i r).ops = s.ops := rfl
@[simp] theorem State.setRing_cores (i : Nat) (r : Ring) : (s.setRing i r).cores = s.cores := rfl
@[simp] theorem State.setRing_clusters (i : Nat) (r : Ring) : (s.setRing i r).clusters = s.clusters := rfl
@[simp] theorem State.setRing_walks (i : Nat) (r : Ring) : (s.setRing i r).walks = s.walks := rfl
@[simp] theorem State.setRing_clears (i : Nat) (r : Ring) : (s.setRing i r).clears = s.clears := rfl
@[simp] theorem State.setRing_flits (i : Nat) (r : Ring) : (s.setRing i r).flits = s.flits := rfl
@[simp] theorem State.setRing_slots (i : Nat) (r : Ring) : (s.setRing i r).slots = s.slots := rfl
@[simp] theorem State.setRing_rings (i : Nat) (r : Ring) : (s.setRing i r).rings = tset s.rings i r := rfl
@[simp] theorem State.setRing_inner (i : Nat) (r : Ring) : (s.setRing i r).inner = s.inner := rfl
@[simp] theorem State.setRing_tq (i : Nat) (r : Ring) : (s.setRing i r).tq = s.tq := rfl
@[simp] theorem State.setRing_launches (i : Nat) (r : Ring) : (s.setRing i r).launches = s.launches := rfl
@[simp] theorem State.setRing_dev (i : Nat) (r : Ring) : (s.setRing i r).dev = s.dev := rfl
@[simp] theorem State.setRing_islands (i : Nat) (r : Ring) : (s.setRing i r).islands = s.islands := rfl
@[simp] theorem State.setRing_ras (i : Nat) (r : Ring) : (s.setRing i r).ras = s.ras := rfl
@[simp] theorem State.setRing_scanAt (i : Nat) (r : Ring) : (s.setRing i r).scanAt = s.scanAt := rfl
@[simp] theorem State.setRing_move (i : Nat) (r : Ring) : (s.setRing i r).move = s.move := rfl
@[simp] theorem State.setRing_linksDown (i : Nat) (r : Ring) : (s.setRing i r).linksDown = s.linksDown := rfl
@[simp] theorem State.setRing_boot (i : Nat) (r : Ring) : (s.setRing i r).boot = s.boot := rfl
@[simp] theorem State.setRing_dumpClk (i : Nat) (r : Ring) : (s.setRing i r).dumpClk = s.dumpClk := rfl

/-! interrupt. -/

@[simp] theorem State.interrupt_clk (q : Irq) : (s.interrupt q).clk = s.clk := rfl
@[simp] theorem State.interrupt_schedule (q : Irq) : (s.interrupt q).schedule = s.schedule := rfl
@[simp] theorem State.interrupt_cur (q : Irq) : (s.interrupt q).cur = s.cur := rfl
@[simp] theorem State.interrupt_free (q : Irq) : (s.interrupt q).free = s.free := rfl
@[simp] theorem State.interrupt_nextOp (q : Irq) : (s.interrupt q).nextOp = s.nextOp := rfl
@[simp] theorem State.interrupt_irqs (q : Irq) : (s.interrupt q).irqs = s.irqs ++ [q] := rfl
@[simp] theorem State.interrupt_hostData (q : Irq) : (s.interrupt q).hostData = s.hostData := rfl
@[simp] theorem State.interrupt_stopped (q : Irq) : (s.interrupt q).stopped = s.stopped := rfl
@[simp] theorem State.interrupt_run (q : Irq) : (s.interrupt q).run = s.run := rfl
@[simp] theorem State.interrupt_saved (q : Irq) : (s.interrupt q).saved = s.saved := rfl
@[simp] theorem State.interrupt_mem (q : Irq) : (s.interrupt q).mem = s.mem := rfl
@[simp] theorem State.interrupt_sram (q : Irq) : (s.interrupt q).sram = s.sram := rfl
@[simp] theorem State.interrupt_vault (q : Irq) : (s.interrupt q).vault = s.vault := rfl
@[simp] theorem State.interrupt_bdeck (q : Irq) : (s.interrupt q).bdeck = s.bdeck := rfl
@[simp] theorem State.interrupt_ops (q : Irq) : (s.interrupt q).ops = s.ops := rfl
@[simp] theorem State.interrupt_cores (q : Irq) : (s.interrupt q).cores = s.cores := rfl
@[simp] theorem State.interrupt_clusters (q : Irq) : (s.interrupt q).clusters = s.clusters := rfl
@[simp] theorem State.interrupt_walks (q : Irq) : (s.interrupt q).walks = s.walks := rfl
@[simp] theorem State.interrupt_clears (q : Irq) : (s.interrupt q).clears = s.clears := rfl
@[simp] theorem State.interrupt_flits (q : Irq) : (s.interrupt q).flits = s.flits := rfl
@[simp] theorem State.interrupt_slots (q : Irq) : (s.interrupt q).slots = s.slots := rfl
@[simp] theorem State.interrupt_rings (q : Irq) : (s.interrupt q).rings = s.rings := rfl
@[simp] theorem State.interrupt_inner (q : Irq) : (s.interrupt q).inner = s.inner := rfl
@[simp] theorem State.interrupt_tq (q : Irq) : (s.interrupt q).tq = s.tq := rfl
@[simp] theorem State.interrupt_launches (q : Irq) : (s.interrupt q).launches = s.launches := rfl
@[simp] theorem State.interrupt_dev (q : Irq) : (s.interrupt q).dev = s.dev := rfl
@[simp] theorem State.interrupt_islands (q : Irq) : (s.interrupt q).islands = s.islands := rfl
@[simp] theorem State.interrupt_ras (q : Irq) : (s.interrupt q).ras = s.ras := rfl
@[simp] theorem State.interrupt_scanAt (q : Irq) : (s.interrupt q).scanAt = s.scanAt := rfl
@[simp] theorem State.interrupt_move (q : Irq) : (s.interrupt q).move = s.move := rfl
@[simp] theorem State.interrupt_linksDown (q : Irq) : (s.interrupt q).linksDown = s.linksDown := rfl
@[simp] theorem State.interrupt_boot (q : Irq) : (s.interrupt q).boot = s.boot := rfl
@[simp] theorem State.interrupt_dumpClk (q : Irq) : (s.interrupt q).dumpClk = s.dumpClk := rfl

/-! The tables of the running context and of the device, read after an update. -/

@[simp] theorem State.setPath_wave (i : Nat) (p : Path) (j : Nat) : (s.setPath i p).wave j = s.wave j := rfl
@[simp] theorem State.setPath_block (i : Nat) (p : Path) (j : Nat) : (s.setPath i p).block j = s.block j := rfl
@[simp] theorem State.setPath_helper (i : Nat) (p : Path) (j : Nat) : (s.setPath i p).helper j = s.helper j := rfl
@[simp] theorem State.setPath_core (i : Nat) (p : Path) (j : Nat) : (s.setPath i p).core j = s.core j := rfl
@[simp] theorem State.setPath_cluster (i : Nat) (p : Path) (j : Nat) : (s.setPath i p).cluster j = s.cluster j := rfl
@[simp] theorem State.setPath_clear (i : Nat) (p : Path) (j : Nat) : (s.setPath i p).clear j = s.clear j := rfl
@[simp] theorem State.setPath_ring (i : Nat) (p : Path) (j : Nat) : (s.setPath i p).ring j = s.ring j := rfl
@[simp] theorem State.setPath_tokensOf (i : Nat) (p : Path) (j : Nat) : (s.setPath i p).tokensOf j = s.tokensOf j := rfl
@[simp] theorem State.setPath_path_same (i : Nat) (p : Path) : (s.setPath i p).path i = some p := by simp [State.path]
theorem State.setPath_path_other (i : Nat) (p : Path) (j : Nat) (h : j ≠ i) : (s.setPath i p).path j = s.path j := by simp [State.path, h]
@[simp] theorem State.delPath_wave (i : Nat) (j : Nat) : (s.delPath i).wave j = s.wave j := rfl
@[simp] theorem State.delPath_block (i : Nat) (j : Nat) : (s.delPath i).block j = s.block j := rfl
@[simp] theorem State.delPath_helper (i : Nat) (j : Nat) : (s.delPath i).helper j = s.helper j := rfl
@[simp] theorem State.delPath_core (i : Nat) (j : Nat) : (s.delPath i).core j = s.core j := rfl
@[simp] theorem State.delPath_cluster (i : Nat) (j : Nat) : (s.delPath i).cluster j = s.cluster j := rfl
@[simp] theorem State.delPath_clear (i : Nat) (j : Nat) : (s.delPath i).clear j = s.clear j := rfl
@[simp] theorem State.delPath_ring (i : Nat) (j : Nat) : (s.delPath i).ring j = s.ring j := rfl
@[simp] theorem State.delPath_tokensOf (i : Nat) (j : Nat) : (s.delPath i).tokensOf j = s.tokensOf j := rfl
@[simp] theorem State.setWave_path (i : Nat) (w : Wave) (j : Nat) : (s.setWave i w).path j = s.path j := rfl
@[simp] theorem State.setWave_block (i : Nat) (w : Wave) (j : Nat) : (s.setWave i w).block j = s.block j := rfl
@[simp] theorem State.setWave_helper (i : Nat) (w : Wave) (j : Nat) : (s.setWave i w).helper j = s.helper j := rfl
@[simp] theorem State.setWave_core (i : Nat) (w : Wave) (j : Nat) : (s.setWave i w).core j = s.core j := rfl
@[simp] theorem State.setWave_cluster (i : Nat) (w : Wave) (j : Nat) : (s.setWave i w).cluster j = s.cluster j := rfl
@[simp] theorem State.setWave_clear (i : Nat) (w : Wave) (j : Nat) : (s.setWave i w).clear j = s.clear j := rfl
@[simp] theorem State.setWave_ring (i : Nat) (w : Wave) (j : Nat) : (s.setWave i w).ring j = s.ring j := rfl
@[simp] theorem State.setWave_tokensOf (i : Nat) (w : Wave) (j : Nat) : (s.setWave i w).tokensOf j = s.tokensOf j := rfl
@[simp] theorem State.setWave_wave_same (i : Nat) (w : Wave) : (s.setWave i w).wave i = some w := by simp [State.wave]
theorem State.setWave_wave_other (i : Nat) (w : Wave) (j : Nat) (h : j ≠ i) : (s.setWave i w).wave j = s.wave j := by simp [State.wave, h]
@[simp] theorem State.setBlock_path (i : Nat) (b : Block) (j : Nat) : (s.setBlock i b).path j = s.path j := rfl
@[simp] theorem State.setBlock_wave (i : Nat) (b : Block) (j : Nat) : (s.setBlock i b).wave j = s.wave j := rfl
@[simp] theorem State.setBlock_helper (i : Nat) (b : Block) (j : Nat) : (s.setBlock i b).helper j = s.helper j := rfl
@[simp] theorem State.setBlock_core (i : Nat) (b : Block) (j : Nat) : (s.setBlock i b).core j = s.core j := rfl
@[simp] theorem State.setBlock_cluster (i : Nat) (b : Block) (j : Nat) : (s.setBlock i b).cluster j = s.cluster j := rfl
@[simp] theorem State.setBlock_clear (i : Nat) (b : Block) (j : Nat) : (s.setBlock i b).clear j = s.clear j := rfl
@[simp] theorem State.setBlock_ring (i : Nat) (b : Block) (j : Nat) : (s.setBlock i b).ring j = s.ring j := rfl
@[simp] theorem State.setBlock_tokensOf (i : Nat) (b : Block) (j : Nat) : (s.setBlock i b).tokensOf j = s.tokensOf j := rfl
@[simp] theorem State.setBlock_block_same (i : Nat) (b : Block) : (s.setBlock i b).block i = some b := by simp [State.block]
theorem State.setBlock_block_other (i : Nat) (b : Block) (j : Nat) (h : j ≠ i) : (s.setBlock i b).block j = s.block j := by simp [State.block, h]
@[simp] theorem State.setHelper_path (i : Nat) (v : Helper) (j : Nat) : (s.setHelper i v).path j = s.path j := rfl
@[simp] theorem State.setHelper_wave (i : Nat) (v : Helper) (j : Nat) : (s.setHelper i v).wave j = s.wave j := rfl
@[simp] theorem State.setHelper_block (i : Nat) (v : Helper) (j : Nat) : (s.setHelper i v).block j = s.block j := rfl
@[simp] theorem State.setHelper_core (i : Nat) (v : Helper) (j : Nat) : (s.setHelper i v).core j = s.core j := rfl
@[simp] theorem State.setHelper_cluster (i : Nat) (v : Helper) (j : Nat) : (s.setHelper i v).cluster j = s.cluster j := rfl
@[simp] theorem State.setHelper_clear (i : Nat) (v : Helper) (j : Nat) : (s.setHelper i v).clear j = s.clear j := rfl
@[simp] theorem State.setHelper_ring (i : Nat) (v : Helper) (j : Nat) : (s.setHelper i v).ring j = s.ring j := rfl
@[simp] theorem State.setHelper_tokensOf (i : Nat) (v : Helper) (j : Nat) : (s.setHelper i v).tokensOf j = s.tokensOf j := rfl
@[simp] theorem State.setHelper_helper_same (i : Nat) (v : Helper) : (s.setHelper i v).helper i = some v := by simp [State.helper]
theorem State.setHelper_helper_other (i : Nat) (v : Helper) (j : Nat) (h : j ≠ i) : (s.setHelper i v).helper j = s.helper j := by simp [State.helper, h]
@[simp] theorem State.setTile_path (i : Nat) (t : Tile) (j : Nat) : (s.setTile i t).path j = s.path j := rfl
@[simp] theorem State.setTile_wave (i : Nat) (t : Tile) (j : Nat) : (s.setTile i t).wave j = s.wave j := rfl
@[simp] theorem State.setTile_block (i : Nat) (t : Tile) (j : Nat) : (s.setTile i t).block j = s.block j := rfl
@[simp] theorem State.setTile_helper (i : Nat) (t : Tile) (j : Nat) : (s.setTile i t).helper j = s.helper j := rfl
@[simp] theorem State.setTile_core (i : Nat) (t : Tile) (j : Nat) : (s.setTile i t).core j = s.core j := rfl
@[simp] theorem State.setTile_cluster (i : Nat) (t : Tile) (j : Nat) : (s.setTile i t).cluster j = s.cluster j := rfl
@[simp] theorem State.setTile_clear (i : Nat) (t : Tile) (j : Nat) : (s.setTile i t).clear j = s.clear j := rfl
@[simp] theorem State.setTile_ring (i : Nat) (t : Tile) (j : Nat) : (s.setTile i t).ring j = s.ring j := rfl
@[simp] theorem State.setTile_tokensOf (i : Nat) (t : Tile) (j : Nat) : (s.setTile i t).tokensOf j = s.tokensOf j := rfl
@[simp] theorem State.setTokens_path (i : Nat) (ts : List Token) (j : Nat) : (s.setTokens i ts).path j = s.path j := rfl
@[simp] theorem State.setTokens_wave (i : Nat) (ts : List Token) (j : Nat) : (s.setTokens i ts).wave j = s.wave j := rfl
@[simp] theorem State.setTokens_block (i : Nat) (ts : List Token) (j : Nat) : (s.setTokens i ts).block j = s.block j := rfl
@[simp] theorem State.setTokens_helper (i : Nat) (ts : List Token) (j : Nat) : (s.setTokens i ts).helper j = s.helper j := rfl
@[simp] theorem State.setTokens_core (i : Nat) (ts : List Token) (j : Nat) : (s.setTokens i ts).core j = s.core j := rfl
@[simp] theorem State.setTokens_cluster (i : Nat) (ts : List Token) (j : Nat) : (s.setTokens i ts).cluster j = s.cluster j := rfl
@[simp] theorem State.setTokens_clear (i : Nat) (ts : List Token) (j : Nat) : (s.setTokens i ts).clear j = s.clear j := rfl
@[simp] theorem State.setTokens_ring (i : Nat) (ts : List Token) (j : Nat) : (s.setTokens i ts).ring j = s.ring j := rfl
@[simp] theorem State.setCore_path (i : Nat) (k : Core) (j : Nat) : (s.setCore i k).path j = s.path j := rfl
@[simp] theorem State.setCore_wave (i : Nat) (k : Core) (j : Nat) : (s.setCore i k).wave j = s.wave j := rfl
@[simp] theorem State.setCore_block (i : Nat) (k : Core) (j : Nat) : (s.setCore i k).block j = s.block j := rfl
@[simp] theorem State.setCore_helper (i : Nat) (k : Core) (j : Nat) : (s.setCore i k).helper j = s.helper j := rfl
@[simp] theorem State.setCore_cluster (i : Nat) (k : Core) (j : Nat) : (s.setCore i k).cluster j = s.cluster j := rfl
@[simp] theorem State.setCore_clear (i : Nat) (k : Core) (j : Nat) : (s.setCore i k).clear j = s.clear j := rfl
@[simp] theorem State.setCore_ring (i : Nat) (k : Core) (j : Nat) : (s.setCore i k).ring j = s.ring j := rfl
@[simp] theorem State.setCore_tokensOf (i : Nat) (k : Core) (j : Nat) : (s.setCore i k).tokensOf j = s.tokensOf j := rfl
@[simp] theorem State.setCore_core_same (i : Nat) (k : Core) : (s.setCore i k).core i = k := by simp [State.core]
theorem State.setCore_core_other (i : Nat) (k : Core) (j : Nat) (h : j ≠ i) : (s.setCore i k).core j = s.core j := by simp [State.core, h]
@[simp] theorem State.setCluster_path (i : Nat) (k : Cluster) (j : Nat) : (s.setCluster i k).path j = s.path j := rfl
@[simp] theorem State.setCluster_wave (i : Nat) (k : Cluster) (j : Nat) : (s.setCluster i k).wave j = s.wave j := rfl
@[simp] theorem State.setCluster_block (i : Nat) (k : Cluster) (j : Nat) : (s.setCluster i k).block j = s.block j := rfl
@[simp] theorem State.setCluster_helper (i : Nat) (k : Cluster) (j : Nat) : (s.setCluster i k).helper j = s.helper j := rfl
@[simp] theorem State.setCluster_core (i : Nat) (k : Cluster) (j : Nat) : (s.setCluster i k).core j = s.core j := rfl
@[simp] theorem State.setCluster_clear (i : Nat) (k : Cluster) (j : Nat) : (s.setCluster i k).clear j = s.clear j := rfl
@[simp] theorem State.setCluster_ring (i : Nat) (k : Cluster) (j : Nat) : (s.setCluster i k).ring j = s.ring j := rfl
@[simp] theorem State.setCluster_tokensOf (i : Nat) (k : Cluster) (j : Nat) : (s.setCluster i k).tokensOf j = s.tokensOf j := rfl
@[simp] theorem State.setCluster_cluster_same (i : Nat) (k : Cluster) : (s.setCluster i k).cluster i = k := by simp [State.cluster]
theorem State.setCluster_cluster_other (i : Nat) (k : Cluster) (j : Nat) (h : j ≠ i) : (s.setCluster i k).cluster j = s.cluster j := by simp [State.cluster, h]
@[simp] theorem State.setClear_path (i : Nat) (c : Clear) (j : Nat) : (s.setClear i c).path j = s.path j := rfl
@[simp] theorem State.setClear_wave (i : Nat) (c : Clear) (j : Nat) : (s.setClear i c).wave j = s.wave j := rfl
@[simp] theorem State.setClear_block (i : Nat) (c : Clear) (j : Nat) : (s.setClear i c).block j = s.block j := rfl
@[simp] theorem State.setClear_helper (i : Nat) (c : Clear) (j : Nat) : (s.setClear i c).helper j = s.helper j := rfl
@[simp] theorem State.setClear_core (i : Nat) (c : Clear) (j : Nat) : (s.setClear i c).core j = s.core j := rfl
@[simp] theorem State.setClear_cluster (i : Nat) (c : Clear) (j : Nat) : (s.setClear i c).cluster j = s.cluster j := rfl
@[simp] theorem State.setClear_ring (i : Nat) (c : Clear) (j : Nat) : (s.setClear i c).ring j = s.ring j := rfl
@[simp] theorem State.setClear_tokensOf (i : Nat) (c : Clear) (j : Nat) : (s.setClear i c).tokensOf j = s.tokensOf j := rfl
@[simp] theorem State.setClear_clear_same (i : Nat) (c : Clear) : (s.setClear i c).clear i = c := by simp [State.clear]
theorem State.setClear_clear_other (i : Nat) (c : Clear) (j : Nat) (h : j ≠ i) : (s.setClear i c).clear j = s.clear j := by simp [State.clear, h]
@[simp] theorem State.setRing_path (i : Nat) (r : Ring) (j : Nat) : (s.setRing i r).path j = s.path j := rfl
@[simp] theorem State.setRing_wave (i : Nat) (r : Ring) (j : Nat) : (s.setRing i r).wave j = s.wave j := rfl
@[simp] theorem State.setRing_block (i : Nat) (r : Ring) (j : Nat) : (s.setRing i r).block j = s.block j := rfl
@[simp] theorem State.setRing_helper (i : Nat) (r : Ring) (j : Nat) : (s.setRing i r).helper j = s.helper j := rfl
@[simp] theorem State.setRing_core (i : Nat) (r : Ring) (j : Nat) : (s.setRing i r).core j = s.core j := rfl
@[simp] theorem State.setRing_cluster (i : Nat) (r : Ring) (j : Nat) : (s.setRing i r).cluster j = s.cluster j := rfl
@[simp] theorem State.setRing_clear (i : Nat) (r : Ring) (j : Nat) : (s.setRing i r).clear j = s.clear j := rfl
@[simp] theorem State.setRing_tokensOf (i : Nat) (r : Ring) (j : Nat) : (s.setRing i r).tokensOf j = s.tokensOf j := rfl
@[simp] theorem State.setRing_ring_same (i : Nat) (r : Ring) : (s.setRing i r).ring i = r := by simp [State.ring]
theorem State.setRing_ring_other (i : Nat) (r : Ring) (j : Nat) (h : j ≠ i) : (s.setRing i r).ring j = s.ring j := by simp [State.ring, h]
@[simp] theorem State.interrupt_path (q : Irq) (j : Nat) : (s.interrupt q).path j = s.path j := rfl
@[simp] theorem State.interrupt_wave (q : Irq) (j : Nat) : (s.interrupt q).wave j = s.wave j := rfl
@[simp] theorem State.interrupt_block (q : Irq) (j : Nat) : (s.interrupt q).block j = s.block j := rfl
@[simp] theorem State.interrupt_helper (q : Irq) (j : Nat) : (s.interrupt q).helper j = s.helper j := rfl
@[simp] theorem State.interrupt_core (q : Irq) (j : Nat) : (s.interrupt q).core j = s.core j := rfl
@[simp] theorem State.interrupt_cluster (q : Irq) (j : Nat) : (s.interrupt q).cluster j = s.cluster j := rfl
@[simp] theorem State.interrupt_clear (q : Irq) (j : Nat) : (s.interrupt q).clear j = s.clear j := rfl
@[simp] theorem State.interrupt_ring (q : Irq) (j : Nat) : (s.interrupt q).ring j = s.ring j := rfl
@[simp] theorem State.interrupt_tokensOf (q : Irq) (j : Nat) : (s.interrupt q).tokensOf j = s.tokensOf j := rfl

/-! A path, wave, block or helper changed by a function. -/

@[simp] theorem State.onPath_clk (i : Nat) (f : Path → Path) : (s.onPath i f).clk = s.clk := by unfold State.onPath; split <;> rfl
@[simp] theorem State.onPath_schedule (i : Nat) (f : Path → Path) : (s.onPath i f).schedule = s.schedule := by unfold State.onPath; split <;> rfl
@[simp] theorem State.onPath_cur (i : Nat) (f : Path → Path) : (s.onPath i f).cur = s.cur := by unfold State.onPath; split <;> rfl
@[simp] theorem State.onPath_free (i : Nat) (f : Path → Path) : (s.onPath i f).free = s.free := by unfold State.onPath; split <;> rfl
@[simp] theorem State.onPath_nextOp (i : Nat) (f : Path → Path) : (s.onPath i f).nextOp = s.nextOp := by unfold State.onPath; split <;> rfl
@[simp] theorem State.onPath_irqs (i : Nat) (f : Path → Path) : (s.onPath i f).irqs = s.irqs := by unfold State.onPath; split <;> rfl
@[simp] theorem State.onPath_hostData (i : Nat) (f : Path → Path) : (s.onPath i f).hostData = s.hostData := by unfold State.onPath; split <;> rfl
@[simp] theorem State.onPath_stopped (i : Nat) (f : Path → Path) : (s.onPath i f).stopped = s.stopped := by unfold State.onPath; split <;> rfl
@[simp] theorem State.onPath_saved (i : Nat) (f : Path → Path) : (s.onPath i f).saved = s.saved := by unfold State.onPath; split <;> rfl
@[simp] theorem State.onPath_mem (i : Nat) (f : Path → Path) : (s.onPath i f).mem = s.mem := by unfold State.onPath; split <;> rfl
@[simp] theorem State.onPath_sram (i : Nat) (f : Path → Path) : (s.onPath i f).sram = s.sram := by unfold State.onPath; split <;> rfl
@[simp] theorem State.onPath_vault (i : Nat) (f : Path → Path) : (s.onPath i f).vault = s.vault := by unfold State.onPath; split <;> rfl
@[simp] theorem State.onPath_bdeck (i : Nat) (f : Path → Path) : (s.onPath i f).bdeck = s.bdeck := by unfold State.onPath; split <;> rfl
@[simp] theorem State.onPath_ops (i : Nat) (f : Path → Path) : (s.onPath i f).ops = s.ops := by unfold State.onPath; split <;> rfl
@[simp] theorem State.onPath_cores (i : Nat) (f : Path → Path) : (s.onPath i f).cores = s.cores := by unfold State.onPath; split <;> rfl
@[simp] theorem State.onPath_clusters (i : Nat) (f : Path → Path) : (s.onPath i f).clusters = s.clusters := by unfold State.onPath; split <;> rfl
@[simp] theorem State.onPath_walks (i : Nat) (f : Path → Path) : (s.onPath i f).walks = s.walks := by unfold State.onPath; split <;> rfl
@[simp] theorem State.onPath_clears (i : Nat) (f : Path → Path) : (s.onPath i f).clears = s.clears := by unfold State.onPath; split <;> rfl
@[simp] theorem State.onPath_flits (i : Nat) (f : Path → Path) : (s.onPath i f).flits = s.flits := by unfold State.onPath; split <;> rfl
@[simp] theorem State.onPath_slots (i : Nat) (f : Path → Path) : (s.onPath i f).slots = s.slots := by unfold State.onPath; split <;> rfl
@[simp] theorem State.onPath_rings (i : Nat) (f : Path → Path) : (s.onPath i f).rings = s.rings := by unfold State.onPath; split <;> rfl
@[simp] theorem State.onPath_inner (i : Nat) (f : Path → Path) : (s.onPath i f).inner = s.inner := by unfold State.onPath; split <;> rfl
@[simp] theorem State.onPath_tq (i : Nat) (f : Path → Path) : (s.onPath i f).tq = s.tq := by unfold State.onPath; split <;> rfl
@[simp] theorem State.onPath_launches (i : Nat) (f : Path → Path) : (s.onPath i f).launches = s.launches := by unfold State.onPath; split <;> rfl
@[simp] theorem State.onPath_dev (i : Nat) (f : Path → Path) : (s.onPath i f).dev = s.dev := by unfold State.onPath; split <;> rfl
@[simp] theorem State.onPath_islands (i : Nat) (f : Path → Path) : (s.onPath i f).islands = s.islands := by unfold State.onPath; split <;> rfl
@[simp] theorem State.onPath_ras (i : Nat) (f : Path → Path) : (s.onPath i f).ras = s.ras := by unfold State.onPath; split <;> rfl
@[simp] theorem State.onPath_scanAt (i : Nat) (f : Path → Path) : (s.onPath i f).scanAt = s.scanAt := by unfold State.onPath; split <;> rfl
@[simp] theorem State.onPath_move (i : Nat) (f : Path → Path) : (s.onPath i f).move = s.move := by unfold State.onPath; split <;> rfl
@[simp] theorem State.onPath_linksDown (i : Nat) (f : Path → Path) : (s.onPath i f).linksDown = s.linksDown := by unfold State.onPath; split <;> rfl
@[simp] theorem State.onPath_boot (i : Nat) (f : Path → Path) : (s.onPath i f).boot = s.boot := by unfold State.onPath; split <;> rfl
@[simp] theorem State.onPath_dumpClk (i : Nat) (f : Path → Path) : (s.onPath i f).dumpClk = s.dumpClk := by unfold State.onPath; split <;> rfl
@[simp] theorem State.onPath_run_running (i : Nat) (f : Path → Path) : (s.onPath i f).run.running = s.run.running := by unfold State.onPath; split <;> rfl
@[simp] theorem State.onPath_run_halted (i : Nat) (f : Path → Path) : (s.onPath i f).run.halted = s.run.halted := by unfold State.onPath; split <;> rfl
@[simp] theorem State.onPath_run_waves (i : Nat) (f : Path → Path) : (s.onPath i f).run.waves = s.run.waves := by unfold State.onPath; split <;> rfl
@[simp] theorem State.onPath_run_helpers (i : Nat) (f : Path → Path) : (s.onPath i f).run.helpers = s.run.helpers := by unfold State.onPath; split <;> rfl
@[simp] theorem State.onPath_run_sregs (i : Nat) (f : Path → Path) : (s.onPath i f).run.sregs = s.run.sregs := by unfold State.onPath; split <;> rfl
@[simp] theorem State.onPath_run_vregs (i : Nat) (f : Path → Path) : (s.onPath i f).run.vregs = s.run.vregs := by unfold State.onPath; split <;> rfl
@[simp] theorem State.onPath_run_kregs (i : Nat) (f : Path → Path) : (s.onPath i f).run.kregs = s.run.kregs := by unfold State.onPath; split <;> rfl
@[simp] theorem State.onPath_run_items (i : Nat) (f : Path → Path) : (s.onPath i f).run.items = s.run.items := by unfold State.onPath; split <;> rfl
@[simp] theorem State.onPath_run_nbrs (i : Nat) (f : Path → Path) : (s.onPath i f).run.nbrs = s.run.nbrs := by unfold State.onPath; split <;> rfl
@[simp] theorem State.onPath_run_queries (i : Nat) (f : Path → Path) : (s.onPath i f).run.queries = s.run.queries := by unfold State.onPath; split <;> rfl
@[simp] theorem State.onPath_run_queryFrom (i : Nat) (f : Path → Path) : (s.onPath i f).run.queryFrom = s.run.queryFrom := by unfold State.onPath; split <;> rfl
@[simp] theorem State.onPath_run_tokens (i : Nat) (f : Path → Path) : (s.onPath i f).run.tokens = s.run.tokens := by unfold State.onPath; split <;> rfl
@[simp] theorem State.onPath_run_blocks (i : Nat) (f : Path → Path) : (s.onPath i f).run.blocks = s.run.blocks := by unfold State.onPath; split <;> rfl
@[simp] theorem State.onPath_run_tiles (i : Nat) (f : Path → Path) : (s.onPath i f).run.tiles = s.run.tiles := by unfold State.onPath; split <;> rfl
@[simp] theorem State.onPath_path_same (i : Nat) (f : Path → Path) : (s.onPath i f).path i = (s.path i).map f := by
  unfold State.onPath; split <;> simp_all
theorem State.onPath_path_other (i : Nat) (f : Path → Path) (j : Nat) (h : j ≠ i) : (s.onPath i f).path j = s.path j := by
  unfold State.onPath; split <;> simp [State.setPath_path_other _ _ _ _ h]
@[simp] theorem State.onPath_wave (i : Nat) (f : Path → Path) (j : Nat) : (s.onPath i f).wave j = s.wave j := by unfold State.onPath; split <;> rfl
@[simp] theorem State.onPath_block (i : Nat) (f : Path → Path) (j : Nat) : (s.onPath i f).block j = s.block j := by unfold State.onPath; split <;> rfl
@[simp] theorem State.onPath_helper (i : Nat) (f : Path → Path) (j : Nat) : (s.onPath i f).helper j = s.helper j := by unfold State.onPath; split <;> rfl
@[simp] theorem State.onPath_core (i : Nat) (f : Path → Path) (j : Nat) : (s.onPath i f).core j = s.core j := by unfold State.onPath; split <;> rfl
@[simp] theorem State.onPath_cluster (i : Nat) (f : Path → Path) (j : Nat) : (s.onPath i f).cluster j = s.cluster j := by unfold State.onPath; split <;> rfl
@[simp] theorem State.onPath_clear (i : Nat) (f : Path → Path) (j : Nat) : (s.onPath i f).clear j = s.clear j := by unfold State.onPath; split <;> rfl
@[simp] theorem State.onPath_ring (i : Nat) (f : Path → Path) (j : Nat) : (s.onPath i f).ring j = s.ring j := by unfold State.onPath; split <;> rfl
@[simp] theorem State.onPath_tokensOf (i : Nat) (f : Path → Path) (j : Nat) : (s.onPath i f).tokensOf j = s.tokensOf j := by unfold State.onPath; split <;> rfl
@[simp] theorem State.onWave_clk (i : Nat) (f : Wave → Wave) : (s.onWave i f).clk = s.clk := by unfold State.onWave; split <;> rfl
@[simp] theorem State.onWave_schedule (i : Nat) (f : Wave → Wave) : (s.onWave i f).schedule = s.schedule := by unfold State.onWave; split <;> rfl
@[simp] theorem State.onWave_cur (i : Nat) (f : Wave → Wave) : (s.onWave i f).cur = s.cur := by unfold State.onWave; split <;> rfl
@[simp] theorem State.onWave_free (i : Nat) (f : Wave → Wave) : (s.onWave i f).free = s.free := by unfold State.onWave; split <;> rfl
@[simp] theorem State.onWave_nextOp (i : Nat) (f : Wave → Wave) : (s.onWave i f).nextOp = s.nextOp := by unfold State.onWave; split <;> rfl
@[simp] theorem State.onWave_irqs (i : Nat) (f : Wave → Wave) : (s.onWave i f).irqs = s.irqs := by unfold State.onWave; split <;> rfl
@[simp] theorem State.onWave_hostData (i : Nat) (f : Wave → Wave) : (s.onWave i f).hostData = s.hostData := by unfold State.onWave; split <;> rfl
@[simp] theorem State.onWave_stopped (i : Nat) (f : Wave → Wave) : (s.onWave i f).stopped = s.stopped := by unfold State.onWave; split <;> rfl
@[simp] theorem State.onWave_saved (i : Nat) (f : Wave → Wave) : (s.onWave i f).saved = s.saved := by unfold State.onWave; split <;> rfl
@[simp] theorem State.onWave_mem (i : Nat) (f : Wave → Wave) : (s.onWave i f).mem = s.mem := by unfold State.onWave; split <;> rfl
@[simp] theorem State.onWave_sram (i : Nat) (f : Wave → Wave) : (s.onWave i f).sram = s.sram := by unfold State.onWave; split <;> rfl
@[simp] theorem State.onWave_vault (i : Nat) (f : Wave → Wave) : (s.onWave i f).vault = s.vault := by unfold State.onWave; split <;> rfl
@[simp] theorem State.onWave_bdeck (i : Nat) (f : Wave → Wave) : (s.onWave i f).bdeck = s.bdeck := by unfold State.onWave; split <;> rfl
@[simp] theorem State.onWave_ops (i : Nat) (f : Wave → Wave) : (s.onWave i f).ops = s.ops := by unfold State.onWave; split <;> rfl
@[simp] theorem State.onWave_cores (i : Nat) (f : Wave → Wave) : (s.onWave i f).cores = s.cores := by unfold State.onWave; split <;> rfl
@[simp] theorem State.onWave_clusters (i : Nat) (f : Wave → Wave) : (s.onWave i f).clusters = s.clusters := by unfold State.onWave; split <;> rfl
@[simp] theorem State.onWave_walks (i : Nat) (f : Wave → Wave) : (s.onWave i f).walks = s.walks := by unfold State.onWave; split <;> rfl
@[simp] theorem State.onWave_clears (i : Nat) (f : Wave → Wave) : (s.onWave i f).clears = s.clears := by unfold State.onWave; split <;> rfl
@[simp] theorem State.onWave_flits (i : Nat) (f : Wave → Wave) : (s.onWave i f).flits = s.flits := by unfold State.onWave; split <;> rfl
@[simp] theorem State.onWave_slots (i : Nat) (f : Wave → Wave) : (s.onWave i f).slots = s.slots := by unfold State.onWave; split <;> rfl
@[simp] theorem State.onWave_rings (i : Nat) (f : Wave → Wave) : (s.onWave i f).rings = s.rings := by unfold State.onWave; split <;> rfl
@[simp] theorem State.onWave_inner (i : Nat) (f : Wave → Wave) : (s.onWave i f).inner = s.inner := by unfold State.onWave; split <;> rfl
@[simp] theorem State.onWave_tq (i : Nat) (f : Wave → Wave) : (s.onWave i f).tq = s.tq := by unfold State.onWave; split <;> rfl
@[simp] theorem State.onWave_launches (i : Nat) (f : Wave → Wave) : (s.onWave i f).launches = s.launches := by unfold State.onWave; split <;> rfl
@[simp] theorem State.onWave_dev (i : Nat) (f : Wave → Wave) : (s.onWave i f).dev = s.dev := by unfold State.onWave; split <;> rfl
@[simp] theorem State.onWave_islands (i : Nat) (f : Wave → Wave) : (s.onWave i f).islands = s.islands := by unfold State.onWave; split <;> rfl
@[simp] theorem State.onWave_ras (i : Nat) (f : Wave → Wave) : (s.onWave i f).ras = s.ras := by unfold State.onWave; split <;> rfl
@[simp] theorem State.onWave_scanAt (i : Nat) (f : Wave → Wave) : (s.onWave i f).scanAt = s.scanAt := by unfold State.onWave; split <;> rfl
@[simp] theorem State.onWave_move (i : Nat) (f : Wave → Wave) : (s.onWave i f).move = s.move := by unfold State.onWave; split <;> rfl
@[simp] theorem State.onWave_linksDown (i : Nat) (f : Wave → Wave) : (s.onWave i f).linksDown = s.linksDown := by unfold State.onWave; split <;> rfl
@[simp] theorem State.onWave_boot (i : Nat) (f : Wave → Wave) : (s.onWave i f).boot = s.boot := by unfold State.onWave; split <;> rfl
@[simp] theorem State.onWave_dumpClk (i : Nat) (f : Wave → Wave) : (s.onWave i f).dumpClk = s.dumpClk := by unfold State.onWave; split <;> rfl
@[simp] theorem State.onWave_run_running (i : Nat) (f : Wave → Wave) : (s.onWave i f).run.running = s.run.running := by unfold State.onWave; split <;> rfl
@[simp] theorem State.onWave_run_halted (i : Nat) (f : Wave → Wave) : (s.onWave i f).run.halted = s.run.halted := by unfold State.onWave; split <;> rfl
@[simp] theorem State.onWave_run_paths (i : Nat) (f : Wave → Wave) : (s.onWave i f).run.paths = s.run.paths := by unfold State.onWave; split <;> rfl
@[simp] theorem State.onWave_run_helpers (i : Nat) (f : Wave → Wave) : (s.onWave i f).run.helpers = s.run.helpers := by unfold State.onWave; split <;> rfl
@[simp] theorem State.onWave_run_sregs (i : Nat) (f : Wave → Wave) : (s.onWave i f).run.sregs = s.run.sregs := by unfold State.onWave; split <;> rfl
@[simp] theorem State.onWave_run_vregs (i : Nat) (f : Wave → Wave) : (s.onWave i f).run.vregs = s.run.vregs := by unfold State.onWave; split <;> rfl
@[simp] theorem State.onWave_run_kregs (i : Nat) (f : Wave → Wave) : (s.onWave i f).run.kregs = s.run.kregs := by unfold State.onWave; split <;> rfl
@[simp] theorem State.onWave_run_items (i : Nat) (f : Wave → Wave) : (s.onWave i f).run.items = s.run.items := by unfold State.onWave; split <;> rfl
@[simp] theorem State.onWave_run_nbrs (i : Nat) (f : Wave → Wave) : (s.onWave i f).run.nbrs = s.run.nbrs := by unfold State.onWave; split <;> rfl
@[simp] theorem State.onWave_run_queries (i : Nat) (f : Wave → Wave) : (s.onWave i f).run.queries = s.run.queries := by unfold State.onWave; split <;> rfl
@[simp] theorem State.onWave_run_queryFrom (i : Nat) (f : Wave → Wave) : (s.onWave i f).run.queryFrom = s.run.queryFrom := by unfold State.onWave; split <;> rfl
@[simp] theorem State.onWave_run_tokens (i : Nat) (f : Wave → Wave) : (s.onWave i f).run.tokens = s.run.tokens := by unfold State.onWave; split <;> rfl
@[simp] theorem State.onWave_run_blocks (i : Nat) (f : Wave → Wave) : (s.onWave i f).run.blocks = s.run.blocks := by unfold State.onWave; split <;> rfl
@[simp] theorem State.onWave_run_tiles (i : Nat) (f : Wave → Wave) : (s.onWave i f).run.tiles = s.run.tiles := by unfold State.onWave; split <;> rfl
@[simp] theorem State.onWave_path (i : Nat) (f : Wave → Wave) (j : Nat) : (s.onWave i f).path j = s.path j := by unfold State.onWave; split <;> rfl
@[simp] theorem State.onWave_wave_same (i : Nat) (f : Wave → Wave) : (s.onWave i f).wave i = (s.wave i).map f := by
  unfold State.onWave; split <;> simp_all
theorem State.onWave_wave_other (i : Nat) (f : Wave → Wave) (j : Nat) (h : j ≠ i) : (s.onWave i f).wave j = s.wave j := by
  unfold State.onWave; split <;> simp [State.setWave_wave_other _ _ _ _ h]
@[simp] theorem State.onWave_block (i : Nat) (f : Wave → Wave) (j : Nat) : (s.onWave i f).block j = s.block j := by unfold State.onWave; split <;> rfl
@[simp] theorem State.onWave_helper (i : Nat) (f : Wave → Wave) (j : Nat) : (s.onWave i f).helper j = s.helper j := by unfold State.onWave; split <;> rfl
@[simp] theorem State.onWave_core (i : Nat) (f : Wave → Wave) (j : Nat) : (s.onWave i f).core j = s.core j := by unfold State.onWave; split <;> rfl
@[simp] theorem State.onWave_cluster (i : Nat) (f : Wave → Wave) (j : Nat) : (s.onWave i f).cluster j = s.cluster j := by unfold State.onWave; split <;> rfl
@[simp] theorem State.onWave_clear (i : Nat) (f : Wave → Wave) (j : Nat) : (s.onWave i f).clear j = s.clear j := by unfold State.onWave; split <;> rfl
@[simp] theorem State.onWave_ring (i : Nat) (f : Wave → Wave) (j : Nat) : (s.onWave i f).ring j = s.ring j := by unfold State.onWave; split <;> rfl
@[simp] theorem State.onWave_tokensOf (i : Nat) (f : Wave → Wave) (j : Nat) : (s.onWave i f).tokensOf j = s.tokensOf j := by unfold State.onWave; split <;> rfl
@[simp] theorem State.onBlock_clk (i : Nat) (f : Block → Block) : (s.onBlock i f).clk = s.clk := by unfold State.onBlock; split <;> rfl
@[simp] theorem State.onBlock_schedule (i : Nat) (f : Block → Block) : (s.onBlock i f).schedule = s.schedule := by unfold State.onBlock; split <;> rfl
@[simp] theorem State.onBlock_cur (i : Nat) (f : Block → Block) : (s.onBlock i f).cur = s.cur := by unfold State.onBlock; split <;> rfl
@[simp] theorem State.onBlock_free (i : Nat) (f : Block → Block) : (s.onBlock i f).free = s.free := by unfold State.onBlock; split <;> rfl
@[simp] theorem State.onBlock_nextOp (i : Nat) (f : Block → Block) : (s.onBlock i f).nextOp = s.nextOp := by unfold State.onBlock; split <;> rfl
@[simp] theorem State.onBlock_irqs (i : Nat) (f : Block → Block) : (s.onBlock i f).irqs = s.irqs := by unfold State.onBlock; split <;> rfl
@[simp] theorem State.onBlock_hostData (i : Nat) (f : Block → Block) : (s.onBlock i f).hostData = s.hostData := by unfold State.onBlock; split <;> rfl
@[simp] theorem State.onBlock_stopped (i : Nat) (f : Block → Block) : (s.onBlock i f).stopped = s.stopped := by unfold State.onBlock; split <;> rfl
@[simp] theorem State.onBlock_saved (i : Nat) (f : Block → Block) : (s.onBlock i f).saved = s.saved := by unfold State.onBlock; split <;> rfl
@[simp] theorem State.onBlock_mem (i : Nat) (f : Block → Block) : (s.onBlock i f).mem = s.mem := by unfold State.onBlock; split <;> rfl
@[simp] theorem State.onBlock_sram (i : Nat) (f : Block → Block) : (s.onBlock i f).sram = s.sram := by unfold State.onBlock; split <;> rfl
@[simp] theorem State.onBlock_vault (i : Nat) (f : Block → Block) : (s.onBlock i f).vault = s.vault := by unfold State.onBlock; split <;> rfl
@[simp] theorem State.onBlock_bdeck (i : Nat) (f : Block → Block) : (s.onBlock i f).bdeck = s.bdeck := by unfold State.onBlock; split <;> rfl
@[simp] theorem State.onBlock_ops (i : Nat) (f : Block → Block) : (s.onBlock i f).ops = s.ops := by unfold State.onBlock; split <;> rfl
@[simp] theorem State.onBlock_cores (i : Nat) (f : Block → Block) : (s.onBlock i f).cores = s.cores := by unfold State.onBlock; split <;> rfl
@[simp] theorem State.onBlock_clusters (i : Nat) (f : Block → Block) : (s.onBlock i f).clusters = s.clusters := by unfold State.onBlock; split <;> rfl
@[simp] theorem State.onBlock_walks (i : Nat) (f : Block → Block) : (s.onBlock i f).walks = s.walks := by unfold State.onBlock; split <;> rfl
@[simp] theorem State.onBlock_clears (i : Nat) (f : Block → Block) : (s.onBlock i f).clears = s.clears := by unfold State.onBlock; split <;> rfl
@[simp] theorem State.onBlock_flits (i : Nat) (f : Block → Block) : (s.onBlock i f).flits = s.flits := by unfold State.onBlock; split <;> rfl
@[simp] theorem State.onBlock_slots (i : Nat) (f : Block → Block) : (s.onBlock i f).slots = s.slots := by unfold State.onBlock; split <;> rfl
@[simp] theorem State.onBlock_rings (i : Nat) (f : Block → Block) : (s.onBlock i f).rings = s.rings := by unfold State.onBlock; split <;> rfl
@[simp] theorem State.onBlock_inner (i : Nat) (f : Block → Block) : (s.onBlock i f).inner = s.inner := by unfold State.onBlock; split <;> rfl
@[simp] theorem State.onBlock_tq (i : Nat) (f : Block → Block) : (s.onBlock i f).tq = s.tq := by unfold State.onBlock; split <;> rfl
@[simp] theorem State.onBlock_launches (i : Nat) (f : Block → Block) : (s.onBlock i f).launches = s.launches := by unfold State.onBlock; split <;> rfl
@[simp] theorem State.onBlock_dev (i : Nat) (f : Block → Block) : (s.onBlock i f).dev = s.dev := by unfold State.onBlock; split <;> rfl
@[simp] theorem State.onBlock_islands (i : Nat) (f : Block → Block) : (s.onBlock i f).islands = s.islands := by unfold State.onBlock; split <;> rfl
@[simp] theorem State.onBlock_ras (i : Nat) (f : Block → Block) : (s.onBlock i f).ras = s.ras := by unfold State.onBlock; split <;> rfl
@[simp] theorem State.onBlock_scanAt (i : Nat) (f : Block → Block) : (s.onBlock i f).scanAt = s.scanAt := by unfold State.onBlock; split <;> rfl
@[simp] theorem State.onBlock_move (i : Nat) (f : Block → Block) : (s.onBlock i f).move = s.move := by unfold State.onBlock; split <;> rfl
@[simp] theorem State.onBlock_linksDown (i : Nat) (f : Block → Block) : (s.onBlock i f).linksDown = s.linksDown := by unfold State.onBlock; split <;> rfl
@[simp] theorem State.onBlock_boot (i : Nat) (f : Block → Block) : (s.onBlock i f).boot = s.boot := by unfold State.onBlock; split <;> rfl
@[simp] theorem State.onBlock_dumpClk (i : Nat) (f : Block → Block) : (s.onBlock i f).dumpClk = s.dumpClk := by unfold State.onBlock; split <;> rfl
@[simp] theorem State.onBlock_run_running (i : Nat) (f : Block → Block) : (s.onBlock i f).run.running = s.run.running := by unfold State.onBlock; split <;> rfl
@[simp] theorem State.onBlock_run_halted (i : Nat) (f : Block → Block) : (s.onBlock i f).run.halted = s.run.halted := by unfold State.onBlock; split <;> rfl
@[simp] theorem State.onBlock_run_waves (i : Nat) (f : Block → Block) : (s.onBlock i f).run.waves = s.run.waves := by unfold State.onBlock; split <;> rfl
@[simp] theorem State.onBlock_run_paths (i : Nat) (f : Block → Block) : (s.onBlock i f).run.paths = s.run.paths := by unfold State.onBlock; split <;> rfl
@[simp] theorem State.onBlock_run_helpers (i : Nat) (f : Block → Block) : (s.onBlock i f).run.helpers = s.run.helpers := by unfold State.onBlock; split <;> rfl
@[simp] theorem State.onBlock_run_sregs (i : Nat) (f : Block → Block) : (s.onBlock i f).run.sregs = s.run.sregs := by unfold State.onBlock; split <;> rfl
@[simp] theorem State.onBlock_run_vregs (i : Nat) (f : Block → Block) : (s.onBlock i f).run.vregs = s.run.vregs := by unfold State.onBlock; split <;> rfl
@[simp] theorem State.onBlock_run_kregs (i : Nat) (f : Block → Block) : (s.onBlock i f).run.kregs = s.run.kregs := by unfold State.onBlock; split <;> rfl
@[simp] theorem State.onBlock_run_items (i : Nat) (f : Block → Block) : (s.onBlock i f).run.items = s.run.items := by unfold State.onBlock; split <;> rfl
@[simp] theorem State.onBlock_run_nbrs (i : Nat) (f : Block → Block) : (s.onBlock i f).run.nbrs = s.run.nbrs := by unfold State.onBlock; split <;> rfl
@[simp] theorem State.onBlock_run_queries (i : Nat) (f : Block → Block) : (s.onBlock i f).run.queries = s.run.queries := by unfold State.onBlock; split <;> rfl
@[simp] theorem State.onBlock_run_queryFrom (i : Nat) (f : Block → Block) : (s.onBlock i f).run.queryFrom = s.run.queryFrom := by unfold State.onBlock; split <;> rfl
@[simp] theorem State.onBlock_run_tokens (i : Nat) (f : Block → Block) : (s.onBlock i f).run.tokens = s.run.tokens := by unfold State.onBlock; split <;> rfl
@[simp] theorem State.onBlock_run_tiles (i : Nat) (f : Block → Block) : (s.onBlock i f).run.tiles = s.run.tiles := by unfold State.onBlock; split <;> rfl
@[simp] theorem State.onBlock_path (i : Nat) (f : Block → Block) (j : Nat) : (s.onBlock i f).path j = s.path j := by unfold State.onBlock; split <;> rfl
@[simp] theorem State.onBlock_wave (i : Nat) (f : Block → Block) (j : Nat) : (s.onBlock i f).wave j = s.wave j := by unfold State.onBlock; split <;> rfl
@[simp] theorem State.onBlock_block_same (i : Nat) (f : Block → Block) : (s.onBlock i f).block i = (s.block i).map f := by
  unfold State.onBlock; split <;> simp_all
theorem State.onBlock_block_other (i : Nat) (f : Block → Block) (j : Nat) (h : j ≠ i) : (s.onBlock i f).block j = s.block j := by
  unfold State.onBlock; split <;> simp [State.setBlock_block_other _ _ _ _ h]
@[simp] theorem State.onBlock_helper (i : Nat) (f : Block → Block) (j : Nat) : (s.onBlock i f).helper j = s.helper j := by unfold State.onBlock; split <;> rfl
@[simp] theorem State.onBlock_core (i : Nat) (f : Block → Block) (j : Nat) : (s.onBlock i f).core j = s.core j := by unfold State.onBlock; split <;> rfl
@[simp] theorem State.onBlock_cluster (i : Nat) (f : Block → Block) (j : Nat) : (s.onBlock i f).cluster j = s.cluster j := by unfold State.onBlock; split <;> rfl
@[simp] theorem State.onBlock_clear (i : Nat) (f : Block → Block) (j : Nat) : (s.onBlock i f).clear j = s.clear j := by unfold State.onBlock; split <;> rfl
@[simp] theorem State.onBlock_ring (i : Nat) (f : Block → Block) (j : Nat) : (s.onBlock i f).ring j = s.ring j := by unfold State.onBlock; split <;> rfl
@[simp] theorem State.onBlock_tokensOf (i : Nat) (f : Block → Block) (j : Nat) : (s.onBlock i f).tokensOf j = s.tokensOf j := by unfold State.onBlock; split <;> rfl
@[simp] theorem State.onHelper_clk (i : Nat) (f : Helper → Helper) : (s.onHelper i f).clk = s.clk := by unfold State.onHelper; split <;> rfl
@[simp] theorem State.onHelper_schedule (i : Nat) (f : Helper → Helper) : (s.onHelper i f).schedule = s.schedule := by unfold State.onHelper; split <;> rfl
@[simp] theorem State.onHelper_cur (i : Nat) (f : Helper → Helper) : (s.onHelper i f).cur = s.cur := by unfold State.onHelper; split <;> rfl
@[simp] theorem State.onHelper_free (i : Nat) (f : Helper → Helper) : (s.onHelper i f).free = s.free := by unfold State.onHelper; split <;> rfl
@[simp] theorem State.onHelper_nextOp (i : Nat) (f : Helper → Helper) : (s.onHelper i f).nextOp = s.nextOp := by unfold State.onHelper; split <;> rfl
@[simp] theorem State.onHelper_irqs (i : Nat) (f : Helper → Helper) : (s.onHelper i f).irqs = s.irqs := by unfold State.onHelper; split <;> rfl
@[simp] theorem State.onHelper_hostData (i : Nat) (f : Helper → Helper) : (s.onHelper i f).hostData = s.hostData := by unfold State.onHelper; split <;> rfl
@[simp] theorem State.onHelper_stopped (i : Nat) (f : Helper → Helper) : (s.onHelper i f).stopped = s.stopped := by unfold State.onHelper; split <;> rfl
@[simp] theorem State.onHelper_saved (i : Nat) (f : Helper → Helper) : (s.onHelper i f).saved = s.saved := by unfold State.onHelper; split <;> rfl
@[simp] theorem State.onHelper_mem (i : Nat) (f : Helper → Helper) : (s.onHelper i f).mem = s.mem := by unfold State.onHelper; split <;> rfl
@[simp] theorem State.onHelper_sram (i : Nat) (f : Helper → Helper) : (s.onHelper i f).sram = s.sram := by unfold State.onHelper; split <;> rfl
@[simp] theorem State.onHelper_vault (i : Nat) (f : Helper → Helper) : (s.onHelper i f).vault = s.vault := by unfold State.onHelper; split <;> rfl
@[simp] theorem State.onHelper_bdeck (i : Nat) (f : Helper → Helper) : (s.onHelper i f).bdeck = s.bdeck := by unfold State.onHelper; split <;> rfl
@[simp] theorem State.onHelper_ops (i : Nat) (f : Helper → Helper) : (s.onHelper i f).ops = s.ops := by unfold State.onHelper; split <;> rfl
@[simp] theorem State.onHelper_cores (i : Nat) (f : Helper → Helper) : (s.onHelper i f).cores = s.cores := by unfold State.onHelper; split <;> rfl
@[simp] theorem State.onHelper_clusters (i : Nat) (f : Helper → Helper) : (s.onHelper i f).clusters = s.clusters := by unfold State.onHelper; split <;> rfl
@[simp] theorem State.onHelper_walks (i : Nat) (f : Helper → Helper) : (s.onHelper i f).walks = s.walks := by unfold State.onHelper; split <;> rfl
@[simp] theorem State.onHelper_clears (i : Nat) (f : Helper → Helper) : (s.onHelper i f).clears = s.clears := by unfold State.onHelper; split <;> rfl
@[simp] theorem State.onHelper_flits (i : Nat) (f : Helper → Helper) : (s.onHelper i f).flits = s.flits := by unfold State.onHelper; split <;> rfl
@[simp] theorem State.onHelper_slots (i : Nat) (f : Helper → Helper) : (s.onHelper i f).slots = s.slots := by unfold State.onHelper; split <;> rfl
@[simp] theorem State.onHelper_rings (i : Nat) (f : Helper → Helper) : (s.onHelper i f).rings = s.rings := by unfold State.onHelper; split <;> rfl
@[simp] theorem State.onHelper_inner (i : Nat) (f : Helper → Helper) : (s.onHelper i f).inner = s.inner := by unfold State.onHelper; split <;> rfl
@[simp] theorem State.onHelper_tq (i : Nat) (f : Helper → Helper) : (s.onHelper i f).tq = s.tq := by unfold State.onHelper; split <;> rfl
@[simp] theorem State.onHelper_launches (i : Nat) (f : Helper → Helper) : (s.onHelper i f).launches = s.launches := by unfold State.onHelper; split <;> rfl
@[simp] theorem State.onHelper_dev (i : Nat) (f : Helper → Helper) : (s.onHelper i f).dev = s.dev := by unfold State.onHelper; split <;> rfl
@[simp] theorem State.onHelper_islands (i : Nat) (f : Helper → Helper) : (s.onHelper i f).islands = s.islands := by unfold State.onHelper; split <;> rfl
@[simp] theorem State.onHelper_ras (i : Nat) (f : Helper → Helper) : (s.onHelper i f).ras = s.ras := by unfold State.onHelper; split <;> rfl
@[simp] theorem State.onHelper_scanAt (i : Nat) (f : Helper → Helper) : (s.onHelper i f).scanAt = s.scanAt := by unfold State.onHelper; split <;> rfl
@[simp] theorem State.onHelper_move (i : Nat) (f : Helper → Helper) : (s.onHelper i f).move = s.move := by unfold State.onHelper; split <;> rfl
@[simp] theorem State.onHelper_linksDown (i : Nat) (f : Helper → Helper) : (s.onHelper i f).linksDown = s.linksDown := by unfold State.onHelper; split <;> rfl
@[simp] theorem State.onHelper_boot (i : Nat) (f : Helper → Helper) : (s.onHelper i f).boot = s.boot := by unfold State.onHelper; split <;> rfl
@[simp] theorem State.onHelper_dumpClk (i : Nat) (f : Helper → Helper) : (s.onHelper i f).dumpClk = s.dumpClk := by unfold State.onHelper; split <;> rfl
@[simp] theorem State.onHelper_run_running (i : Nat) (f : Helper → Helper) : (s.onHelper i f).run.running = s.run.running := by unfold State.onHelper; split <;> rfl
@[simp] theorem State.onHelper_run_halted (i : Nat) (f : Helper → Helper) : (s.onHelper i f).run.halted = s.run.halted := by unfold State.onHelper; split <;> rfl
@[simp] theorem State.onHelper_run_waves (i : Nat) (f : Helper → Helper) : (s.onHelper i f).run.waves = s.run.waves := by unfold State.onHelper; split <;> rfl
@[simp] theorem State.onHelper_run_paths (i : Nat) (f : Helper → Helper) : (s.onHelper i f).run.paths = s.run.paths := by unfold State.onHelper; split <;> rfl
@[simp] theorem State.onHelper_run_sregs (i : Nat) (f : Helper → Helper) : (s.onHelper i f).run.sregs = s.run.sregs := by unfold State.onHelper; split <;> rfl
@[simp] theorem State.onHelper_run_vregs (i : Nat) (f : Helper → Helper) : (s.onHelper i f).run.vregs = s.run.vregs := by unfold State.onHelper; split <;> rfl
@[simp] theorem State.onHelper_run_kregs (i : Nat) (f : Helper → Helper) : (s.onHelper i f).run.kregs = s.run.kregs := by unfold State.onHelper; split <;> rfl
@[simp] theorem State.onHelper_run_items (i : Nat) (f : Helper → Helper) : (s.onHelper i f).run.items = s.run.items := by unfold State.onHelper; split <;> rfl
@[simp] theorem State.onHelper_run_nbrs (i : Nat) (f : Helper → Helper) : (s.onHelper i f).run.nbrs = s.run.nbrs := by unfold State.onHelper; split <;> rfl
@[simp] theorem State.onHelper_run_queries (i : Nat) (f : Helper → Helper) : (s.onHelper i f).run.queries = s.run.queries := by unfold State.onHelper; split <;> rfl
@[simp] theorem State.onHelper_run_queryFrom (i : Nat) (f : Helper → Helper) : (s.onHelper i f).run.queryFrom = s.run.queryFrom := by unfold State.onHelper; split <;> rfl
@[simp] theorem State.onHelper_run_tokens (i : Nat) (f : Helper → Helper) : (s.onHelper i f).run.tokens = s.run.tokens := by unfold State.onHelper; split <;> rfl
@[simp] theorem State.onHelper_run_blocks (i : Nat) (f : Helper → Helper) : (s.onHelper i f).run.blocks = s.run.blocks := by unfold State.onHelper; split <;> rfl
@[simp] theorem State.onHelper_run_tiles (i : Nat) (f : Helper → Helper) : (s.onHelper i f).run.tiles = s.run.tiles := by unfold State.onHelper; split <;> rfl
@[simp] theorem State.onHelper_path (i : Nat) (f : Helper → Helper) (j : Nat) : (s.onHelper i f).path j = s.path j := by unfold State.onHelper; split <;> rfl
@[simp] theorem State.onHelper_wave (i : Nat) (f : Helper → Helper) (j : Nat) : (s.onHelper i f).wave j = s.wave j := by unfold State.onHelper; split <;> rfl
@[simp] theorem State.onHelper_block (i : Nat) (f : Helper → Helper) (j : Nat) : (s.onHelper i f).block j = s.block j := by unfold State.onHelper; split <;> rfl
@[simp] theorem State.onHelper_helper_same (i : Nat) (f : Helper → Helper) : (s.onHelper i f).helper i = (s.helper i).map f := by
  unfold State.onHelper; split <;> simp_all
theorem State.onHelper_helper_other (i : Nat) (f : Helper → Helper) (j : Nat) (h : j ≠ i) : (s.onHelper i f).helper j = s.helper j := by
  unfold State.onHelper; split <;> simp [State.setHelper_helper_other _ _ _ _ h]
@[simp] theorem State.onHelper_core (i : Nat) (f : Helper → Helper) (j : Nat) : (s.onHelper i f).core j = s.core j := by unfold State.onHelper; split <;> rfl
@[simp] theorem State.onHelper_cluster (i : Nat) (f : Helper → Helper) (j : Nat) : (s.onHelper i f).cluster j = s.cluster j := by unfold State.onHelper; split <;> rfl
@[simp] theorem State.onHelper_clear (i : Nat) (f : Helper → Helper) (j : Nat) : (s.onHelper i f).clear j = s.clear j := by unfold State.onHelper; split <;> rfl
@[simp] theorem State.onHelper_ring (i : Nat) (f : Helper → Helper) (j : Nat) : (s.onHelper i f).ring j = s.ring j := by unfold State.onHelper; split <;> rfl
@[simp] theorem State.onHelper_tokensOf (i : Nat) (f : Helper → Helper) (j : Nat) : (s.onHelper i f).tokensOf j = s.tokensOf j := by unfold State.onHelper; split <;> rfl

end Sys2Proof.Machine
end

