-- ==== Sys2Proof/Laws/Memory.lean ====
section
/-! SUPPORT. Memory: its canonical form is kept, and a byte reads as it was last written. -/

namespace Sys2Proof.Machine

/-! The canonical form. -/

/-- A bound below which nothing is listed may be lowered. -/
theorem cellsAbove_weaken (m : List Host.Cell) (lo hi : Nat) (h : lo ≤ hi) (w : cellsAbove (some hi) m = true) : cellsAbove (some lo) m = true := by
  cases m with
  | nil => rfl
  | cons c m =>
    obtain ⟨a, b⟩ := c
    simp only [cellsAbove, Bool.and_eq_true, decide_eq_true_eq] at w ⊢
    exact ⟨⟨by omega, w.1.2⟩, w.2⟩

theorem cellsAbove_none (m : List Host.Cell) (lo : Nat) (w : cellsAbove (some lo) m = true) : Memory.wf m = true := by
  cases m with
  | nil => rfl
  | cons c m =>
    obtain ⟨a, b⟩ := c
    simp only [Memory.wf, cellsAbove, Bool.and_eq_true, decide_eq_true_eq] at w ⊢
    exact ⟨w.1.2, w.2⟩

/-- Nothing at or below the bound is listed. -/
theorem byte_below (m : List Host.Cell) (lo a : Nat) (w : cellsAbove (some lo) m = true) (h : a ≤ lo) : Memory.byte m a = unlistedByte := by
  cases m with
  | nil => rfl
  | cons c m =>
    obtain ⟨k, b⟩ := c
    simp only [cellsAbove, Bool.and_eq_true, decide_eq_true_eq] at w
    simp [Memory.byte, show ¬ a = k by omega, show a < k by omega]

theorem setByte_above (m : List Host.Cell) (lo a : Nat) (b : Byte) (w : cellsAbove (some lo) m = true) (h : lo < a) :
    cellsAbove (some lo) (Memory.setByte m a b) = true := by
  induction m generalizing lo with
  | nil => by_cases g : b = unlistedByte <;> simp [Memory.setByte, g, cellsAbove, h]
  | cons c m ih =>
    obtain ⟨k, v⟩ := c
    simp only [cellsAbove, Bool.and_eq_true, decide_eq_true_eq] at w
    by_cases e : a = k
    · subst e
      by_cases g : b = unlistedByte
      · simp [Memory.setByte, g, cellsAbove_weaken m lo a (by omega) w.2]
      · simp [Memory.setByte, g, cellsAbove, h, w.2]
    · by_cases l : a < k
      · by_cases g : b = unlistedByte
        · simp [Memory.setByte, e, l, g, cellsAbove, w]
        · simp only [Memory.setByte, e, l, g, cellsAbove, if_true, if_false]; simp [h, g, w]
      · simp only [Memory.setByte, e, l, if_false, cellsAbove]
        simp [w.1, ih k w.2 (by omega)]

/-- Writing a byte keeps the canonical form. -/
theorem wf_setByte (m : List Host.Cell) (a : Nat) (b : Byte) (w : Memory.wf m = true) : Memory.wf (Memory.setByte m a b) = true := by
  cases m with
  | nil => by_cases g : b = unlistedByte <;> simp [Memory.setByte, g, Memory.wf, cellsAbove]
  | cons c m =>
    obtain ⟨k, v⟩ := c
    simp only [Memory.wf, cellsAbove, Bool.and_eq_true] at w
    by_cases e : a = k
    · subst e
      by_cases g : b = unlistedByte
      · simp [Memory.setByte, g, cellsAbove_none m a w.2]
      · simp [Memory.setByte, g, Memory.wf, cellsAbove, w.2]
    · by_cases l : a < k
      · by_cases g : b = unlistedByte
        · simp [Memory.setByte, e, l, g, Memory.wf, cellsAbove, w]
        · simp only [Memory.setByte, e, l, g, Memory.wf, cellsAbove, if_true, if_false]; simp [g, w]
      · simp only [Memory.setByte, e, l, if_false, Memory.wf, cellsAbove]
        simp [w.1, setByte_above m k a b w.2 (by omega)]

theorem wf_write (bs : List Byte) (m : List Host.Cell) (a : Nat) (w : Memory.wf m = true) : Memory.wf (Memory.write m a bs) = true := by
  induction bs generalizing m a with
  | nil => exact w
  | cons b bs ih => exact ih _ _ (wf_setByte m a b w)

/-- The canonical form above a removed or written entry: what is listed below a bound stays unlisted. -/
theorem byte_setByte_above (m : List Host.Cell) (lo a j : Nat) (b : Byte) (w : cellsAbove (some lo) m = true) (h : lo < a) :
    Memory.byte (Memory.setByte m a b) j = if j = a then b else Memory.byte m j := by
  induction m generalizing lo with
  | nil =>
    by_cases g : b = unlistedByte
    · by_cases e : j = a <;> simp [Memory.setByte, g, Memory.byte]
    · by_cases e : j = a <;> simp [Memory.setByte, g, Memory.byte, e]
  | cons c m ih =>
    obtain ⟨k, v⟩ := c
    simp only [cellsAbove, Bool.and_eq_true, decide_eq_true_eq] at w
    by_cases e : a = k
    · subst e
      by_cases g : b = unlistedByte
      · by_cases i : j = a
        · subst i; simp [Memory.setByte, g, byte_below m j j w.2 (Nat.le_refl _)]
        · by_cases l : j < a
          · simp [Memory.setByte, g, Memory.byte, i, l, byte_below m a j w.2 (by omega)]
          · simp [Memory.setByte, g, Memory.byte, i, l]
      · by_cases i : j = a
        · simp [Memory.setByte, g, Memory.byte, i]
        · simp [Memory.setByte, g, Memory.byte, i]
    · by_cases l : a < k
      · by_cases g : b = unlistedByte
        · by_cases i : j = a
          · subst i; simp [Memory.setByte, e, l, g, Memory.byte]
          · simp [Memory.setByte, e, l, g, i]
        · by_cases i : j = a
          · simp [Memory.setByte, e, l, g, i, Memory.byte]
          · by_cases d : j < a
            · simp [Memory.setByte, e, l, g, i, Memory.byte, d, show ¬ j = k by omega, show j < k by omega]
            · simp [Memory.setByte, e, l, g, i, Memory.byte, d]
      · simp only [Memory.setByte, e, l, if_false, Memory.byte, ih k w.2 (by omega)]
        by_cases i : j = k
        · simp [i, show ¬ k = a by omega]
        · by_cases d : j < k
          · simp [i, d, show ¬ j = a by omega]
          · simp [i, d]

/-- A byte reads as it was last written, and every other byte as before. -/
theorem byte_setByte (m : List Host.Cell) (a j : Nat) (b : Byte) (w : Memory.wf m = true) :
    Memory.byte (Memory.setByte m a b) j = if j = a then b else Memory.byte m j := by
  cases m with
  | nil => by_cases g : b = unlistedByte <;> by_cases e : j = a <;> simp [Memory.setByte, g, Memory.byte, e]
  | cons c m =>
    obtain ⟨k, v⟩ := c
    simp only [Memory.wf, cellsAbove, Bool.and_eq_true] at w
    by_cases l : k ≤ a
    · by_cases e : a = k
      · subst e
        by_cases g : b = unlistedByte
        · by_cases i : j = a
          · subst i; simp [Memory.setByte, g, byte_below m j j w.2 (Nat.le_refl _)]
          · by_cases d : j < a
            · simp [Memory.setByte, g, Memory.byte, i, d, byte_below m a j w.2 (by omega)]
            · simp [Memory.setByte, g, Memory.byte, i, d]
        · by_cases i : j = a <;> simp [Memory.setByte, g, Memory.byte, i]
      · simp only [Memory.setByte, e, show ¬ a < k by omega, if_false, Memory.byte, byte_setByte_above m k a j b w.2 (by omega)]
        by_cases i : j = k
        · simp [i, show ¬ k = a by omega]
        · by_cases d : j < k
          · simp [i, d, show ¬ j = a by omega]
          · simp [i, d]
    · by_cases g : b = unlistedByte
      · by_cases i : j = a
        · subst i; simp [Memory.setByte, show ¬ j = k by omega, show j < k by omega, g, Memory.byte]
        · simp [Memory.setByte, show ¬ a = k by omega, show a < k by omega, g, i]
      · by_cases i : j = a
        · simp [Memory.setByte, show ¬ a = k by omega, show a < k by omega, g, i, Memory.byte]
        · by_cases d : j < a
          · simp [Memory.setByte, show ¬ a = k by omega, show a < k by omega, g, i, Memory.byte, d, show ¬ j = k by omega, show j < k by omega]
          · simp [Memory.setByte, show ¬ a = k by omega, show a < k by omega, g, i, Memory.byte, d]

/-- A run of bytes written. -/
theorem byte_write (bs : List Byte) (m : List Host.Cell) (a j : Nat) (w : Memory.wf m = true) :
    Memory.byte (Memory.write m a bs) j = if a ≤ j ∧ j < a + bs.length then bs.getD (j - a) 0 else Memory.byte m j := by
  induction bs generalizing m a with
  | nil => simp [Memory.write]
  | cons b bs ih =>
    rw [Memory.write, ih _ _ (wf_setByte m a b w), byte_setByte m a j b w]
    by_cases e : j = a
    · subst e; simp
    · by_cases l : a + 1 ≤ j ∧ j < a + 1 + bs.length
      · obtain ⟨n, hn⟩ : ∃ n, j - a = n + 1 := ⟨j - a - 1, by omega⟩
        simp [l, show a ≤ j by omega, show j < a + (bs.length + 1) by omega, hn, show j - (a + 1) = n by omega]
      · simp only [l, e, if_false, List.length_cons]; rw [if_neg (by omega)]

theorem bytes_eq_map (m : List Host.Cell) (a n : Nat) : Memory.bytes m a n = (List.range n).map fun i => Memory.byte m (a + i) := by
  induction n generalizing a with
  | zero => rfl
  | succ n ih =>
    rw [Memory.bytes, ih, List.range_succ_eq_map]
    simp [Nat.add_assoc, Nat.add_comm 1]

/-! Numbers as bytes. -/

@[simp] theorem bytesOf_length (n v : Nat) : (bytesOf n v).length = n := by
  induction n generalizing v with
  | zero => rfl
  | succ n ih => simp [bytesOf, ih]

theorem numOf_bytesOf (n v : Nat) : numOf (bytesOf n v) = v % 256 ^ n := by
  induction n generalizing v with
  | zero => simp [bytesOf, numOf, Nat.mod_one]
  | succ n ih =>
    simp only [bytesOf, numOf, ih, BitVec.toNat_ofNat]
    rw [show 256 ^ (n + 1) = 256 * 256 ^ n from Nat.pow_succ', Nat.mod_mul]

theorem numOf_lt (bs : List Byte) : numOf bs < 256 ^ bs.length := by
  induction bs with
  | nil => simp [numOf]
  | cons b bs ih =>
    have := b.isLt
    simp only [numOf, List.length_cons, Nat.pow_succ]; omega

/-! Places. -/

/-- Writing places keeps memory's canonical form. -/
theorem wf_writeLoc (s : State) (l : Loc) (b : Byte) (w : Memory.wf s.mem = true) : Memory.wf (s.writeLoc l b).mem = true := by
  cases l <;> simp [State.writeLoc, w, wf_setByte]

theorem wf_writeLocs (cells : List (Loc × Byte)) (s : State) (w : Memory.wf s.mem = true) : Memory.wf (s.writeLocs cells).mem = true := by
  induction cells generalizing s with
  | nil => exact w
  | cons c cells ih => exact ih _ (wf_writeLoc s c.1 c.2 w)

theorem wf_writeNum (s : State) (l : Loc) (n v : Nat) (w : Memory.wf s.mem = true) : Memory.wf (s.writeNum l n v).mem = true :=
  wf_writeLocs _ s w

/-- What a list of cells leaves at a place is what its tail leaves, or its head. -/
theorem lastCell_cons (num : Loc → Option Nat) (l : Loc) (b : Byte) (cells : List (Loc × Byte)) (a : Nat) :
    lastCell num ((l, b) :: cells) a = (lastCell num cells a).or (if num l = some a then some b else none) := by
  unfold lastCell
  cases h : num l with
  | none => simp [h]
  | some n =>
    simp only [List.filterMap_cons, h, Option.map_some, List.reverse_cons, List.find?_append]
    cases List.find? (fun y => y.1 == a) (List.filterMap (fun x => Option.map (fun n => (n, x.2)) (num x.1)) cells).reverse <;>
      by_cases g : n = a <;> simp [g]

/-- Writing cells in turn changes memory and scratchpad SRAM at the cells, each byte as the last cell says, and no other byte. -/
theorem stored_writeLocs (cells : List (Loc × Byte)) (s : State) (w : Memory.wf s.mem = true) : Stored s (s.writeLocs cells) cells [] := by
  suffices h : (∀ a, Memory.byte (s.writeLocs cells).mem a = (lastCell physOf cells a).getD (Memory.byte s.mem a))
      ∧ ∀ k, tgetD 0 (s.writeLocs cells).sram k = (lastCell sramOf cells k).getD (tgetD 0 s.sram k) from ⟨fun a => Or.inr (h.1 a), h.2⟩
  induction cells generalizing s with
  | nil => simp [State.writeLocs, lastCell]
  | cons c cells ih =>
    obtain ⟨l, b⟩ := c
    obtain ⟨hm, hs⟩ := ih _ (wf_writeLoc s l b w)
    refine ⟨fun a => ?_, fun k => ?_⟩
    · rw [State.writeLocs, hm, lastCell_cons]
      cases lastCell physOf cells a with
      | some v => simp
      | none =>
        cases l with
        | phys p =>
          by_cases e : p = a
          · simp [State.writeLoc, physOf, byte_setByte _ _ _ _ w, e]
          · simp [State.writeLoc, physOf, byte_setByte _ _ _ _ w, e, Ne.symm e]
        | comp _ _ | sram _ _ | remote _ _ | bdeck _ => simp [State.writeLoc, physOf]
    · rw [State.writeLocs, hs, lastCell_cons]
      cases lastCell sramOf cells k with
      | some v => simp
      | none =>
        cases l with
        | sram p o =>
          by_cases e : p * 1048576 + o = k
          · subst e; simp [State.writeLoc, sramOf]
          · simp [State.writeLoc, sramOf, e, Ne.symm e]
        | comp _ _ | phys _ | remote _ _ | bdeck _ => simp [State.writeLoc, sramOf]

/-- What writing places leaves alone. -/
theorem writeLocs_frame (cells : List (Loc × Byte)) (s : State) :
    let t := s.writeLocs cells
    t.run = s.run ∧ t.dev = s.dev ∧ t.cores = s.cores ∧ t.clusters = s.clusters ∧ t.clears = s.clears ∧ t.rings = s.rings ∧ t.launches = s.launches
      ∧ t.ops = s.ops ∧ t.clk = s.clk ∧ t.cur = s.cur ∧ t.schedule = s.schedule ∧ t.irqs = s.irqs ∧ t.vault = s.vault ∧ t.saved = s.saved
      ∧ t.free = s.free ∧ t.stopped = s.stopped ∧ t.flits = s.flits ∧ t.move = s.move ∧ t.boot = s.boot := by
  induction cells generalizing s with
  | nil => simp [State.writeLocs]
  | cons c cells ih =>
    obtain ⟨l, b⟩ := c
    have := ih (s.writeLoc l b)
    cases l <;> simpa [State.writeLocs, State.writeLoc] using this

/-! The tables that events keep in memory: hotness bytes, page-table entries, the reverse map (R332, R339, R340). -/

theorem wf_physWrite (s : State) (a n v : Nat) (w : Memory.wf s.mem = true) : Memory.wf (s.physWrite a n v).mem = true := by
  unfold State.physWrite
  split
  · exact wf_write _ _ _ w
  · exact w

/-- Memory whose bytes are changed or dropped in place, none to what an unlisted byte reads as, keeps its form. -/
theorem above_filterMap (f : Host.Cell → Option Host.Cell) (hf : ∀ c d, f c = some d → d.1 = c.1 ∧ (c.2 ≠ unlistedByte → d.2 ≠ unlistedByte))
    (m : List Host.Cell) (lo : Nat) (w : cellsAbove (some lo) m = true) : cellsAbove (some lo) (m.filterMap f) = true := by
  induction m generalizing lo with
  | nil => rfl
  | cons c m ih =>
    obtain ⟨a, b⟩ := c
    simp only [cellsAbove, Bool.and_eq_true, decide_eq_true_eq, bne_iff_ne] at w
    have g := ih a w.2
    cases h : f (a, b) with
    | none => simpa [h] using cellsAbove_weaken _ _ _ (by omega) g
    | some d =>
      obtain ⟨k, v⟩ := d
      obtain ⟨rfl, hv⟩ := hf _ _ h
      simp [h, cellsAbove, w.1.1, hv w.1.2, g]

theorem wf_filterMap (f : Host.Cell → Option Host.Cell) (hf : ∀ c d, f c = some d → d.1 = c.1 ∧ (c.2 ≠ unlistedByte → d.2 ≠ unlistedByte))
    (m : List Host.Cell) (w : Memory.wf m = true) : Memory.wf (m.filterMap f) = true := by
  cases m with
  | nil => rfl
  | cons c m =>
    obtain ⟨a, b⟩ := c
    simp only [Memory.wf, cellsAbove, Bool.and_eq_true, bne_iff_ne] at w
    have g := above_filterMap f hf m a w.2
    cases h : f (a, b) with
    | none => simpa [h] using cellsAbove_none _ _ g
    | some d =>
      obtain ⟨k, v⟩ := d
      obtain ⟨rfl, hv⟩ := hf _ _ h
      simp [h, Memory.wf, cellsAbove, hv w.1, g]

theorem wf_halveHot (s : State) (w : Memory.wf s.mem = true) : Memory.wf s.halveHot.mem = true := by
  unfold State.halveHot
  simp only
  split
  · exact w
  · simp only
    split
    · exact w
    · refine wf_filterMap _ (fun c d h => ?_) _ w
      split at h
      · split at h
        · cases h
        · rename_i g
          obtain rfl := Option.some.inj h
          refine ⟨rfl, fun _ e => g ?_⟩
          have hlt : c.2.toNat / 2 ^ min ((s.clk - s.dev.halvedAt) / 3600000) 8 < 2 ^ 8 := Nat.lt_of_le_of_lt (Nat.div_le_self _ _) c.2.isLt
          have := congrArg BitVec.toNat e
          rw [BitVec.toNat_ofNat, Nat.mod_eq_of_lt hlt] at this
          exact this
      · obtain rfl := Option.some.inj h
        exact ⟨rfl, id⟩

theorem wf_dramLine (s : State) (line : Nat) (w : Memory.wf s.mem = true) : Memory.wf (s.dramLine line).mem = true := by
  unfold State.dramLine
  simp only
  split
  · exact wf_physWrite _ _ _ _ w
  · exact w

/-- Counting an access keeps memory's form. -/
theorem wf_dramTouch (s : State) (ls : List Loc) (w : Memory.wf s.mem = true) : Memory.wf (s.dramTouch ls).mem = true := by
  unfold State.dramTouch
  split
  · exact w
  · generalize ((ls.map s.dramLines).flatten).eraseDups = ns
    have g := wf_halveHot s w
    generalize s.halveHot = u at g
    induction ns generalizing u with
    | nil => exact g
    | cons n ns ih => exact ih _ (wf_dramLine u n g)

/-- Where no table is kept nothing is counted. -/
theorem dramTouch_off (s : State) (ls : List Loc) (h : s.dev.hotbase = 0) : s.dramTouch ls = s := by simp [State.dramTouch, h]

/-- Ending errors changes nothing but the granules that hold one. -/
theorem mended_eq (s : State) (a n : Nat) : ∃ b, s.mended a n = { s with ras := { s.ras with bad := b } } := by
  unfold State.mended
  split
  · exact ⟨s.ras.bad, rfl⟩
  · exact ⟨_, rfl⟩

/-- What counting an access leaves alone. -/
theorem dramTouch_frame (s : State) (ls : List Loc) :
    let t := s.dramTouch ls
    t.run = s.run ∧ t.ops = s.ops ∧ t.cores = s.cores ∧ t.clusters = s.clusters ∧ t.clears = s.clears ∧ t.rings = s.rings ∧ t.launches = s.launches
      ∧ t.sram = s.sram ∧ t.vault = s.vault ∧ t.bdeck = s.bdeck ∧ t.clk = s.clk ∧ t.cur = s.cur ∧ t.schedule = s.schedule := by
  unfold State.dramTouch
  split
  · simp
  · generalize ((ls.map s.dramLines).flatten).eraseDups = ns
    have g : let t := s.halveHot
        t.run = s.run ∧ t.ops = s.ops ∧ t.cores = s.cores ∧ t.clusters = s.clusters ∧ t.clears = s.clears ∧ t.rings = s.rings ∧ t.launches = s.launches
          ∧ t.sram = s.sram ∧ t.vault = s.vault ∧ t.bdeck = s.bdeck ∧ t.clk = s.clk ∧ t.cur = s.cur ∧ t.schedule = s.schedule := by
      unfold State.halveHot; simp only; split <;> simp
    generalize s.halveHot = u at g
    induction ns generalizing u with
    | nil => exact g
    | cons n ns ih =>
      refine ih (u.dramLine n) ?_
      unfold State.dramLine State.physWrite
      simp only
      obtain ⟨b, e⟩ := mended_eq { u with free := u.free + 1 } (u.hotAddr (n * 128)) 1
      split
      · split
        · rw [show State.hotAddr u (n * 128) = u.hotAddr (n * 128) from rfl, e]; simpa using g
        · simpa using g
      · simpa using g

end Sys2Proof.Machine
end

