-- ==== Sys2Proof/Laws/Ops.lean ====
section
/-! SUPPORT. What the shared operations do: tracing, committing a region, scalar and predicate writes, taking a trap, and the two
other instruction sets. -/

namespace Sys2Proof.Machine

/-! Tracing (R379 to R383). -/

/-- A core that writes no trace. -/
theorem tracePut_off (s : State) (core : Nat) (bs : List Byte) (h : (s.core core).trEn = false) : s.tracePut core bs = s := by
  simp [State.tracePut, Core.traceOff, h]
theorem traceResume_off (s : State) (core len : Nat) (h : (s.core core).trEn = false) : s.traceResume core len = s := by
  unfold State.traceResume
  dsimp only
  split
  · rfl
  · simp [Core.traceOff, h]
theorem traceWrite_off (s : State) (core : Nat) (bs : List Byte) (h : (s.core core).trEn = false) : s.traceWrite core bs = s := by
  rw [State.traceWrite, traceResume_off s core _ h, tracePut_off s core bs h]
theorem traceSync_off (s : State) (pid : Nat) (h : (s.core (coreOf pid)).trEn = false) : s.traceSync pid = s := by simp [State.traceSync, h]
theorem traceFlow_off (s : State) (pid kind pc slot : Nat) (h : (s.core (coreOf pid)).trEn = false) : s.traceFlow pid kind pc slot = s := by
  simp [State.traceFlow, h]
theorem traceMask_off (s : State) (pid : Nat) (m : Lanes) (h : (s.core (coreOf pid)).trEn = false) : s.traceMask pid m = s := by
  simp [State.traceMask, h]
theorem traceEvent_off (s : State) (core kind wp : Nat) (h : (s.core core).trEn = false) : s.traceEvent core kind wp = s := traceWrite_off s core _ h

theorem traceEvents_off (ks : List Nat) (s : State) (kind wp : Nat) (h : ∀ k, (s.core k).trEn = false) : s.traceEvents kind wp ks = s := by
  unfold State.traceEvents
  induction ks with
  | nil => rfl
  | cons k ks ih => simpa [traceEvent_off s k kind wp (h k)] using ih

/-- A virtual write writes places and nothing else. -/
theorem writeVirtual_locs (s t : State) (core va : Nat) (bs : List Byte) (h : s.writeVirtual core va bs = some t) : ∃ cells, t = s.writeLocs cells := by
  simp only [State.writeVirtual] at h
  split at h
  · exact ⟨_, (Option.some.inj h).symm⟩
  · cases h

theorem writeVirtual_run (s t : State) (core va : Nat) (bs : List Byte) (h : s.writeVirtual core va bs = some t) : t.run = s.run := by
  obtain ⟨cells, rfl⟩ := writeVirtual_locs s t core va bs h
  exact (writeLocs_frame cells s).1

theorem writeVirtual_wf (s t : State) (core va : Nat) (bs : List Byte) (h : s.writeVirtual core va bs = some t) (w : Memory.wf s.mem = true) :
    Memory.wf t.mem = true := by
  obtain ⟨cells, rfl⟩ := writeVirtual_locs s t core va bs h
  exact wf_writeLocs cells s w

/-- A state that takes its memory from a first record, if one was placed. -/
theorem tracePlace_getD_run (s : State) (o : Option State) (h : ∀ t, o = some t → t.run = s.run) : (o.getD s).run = s.run := by
  cases o with
  | none => rfl
  | some t => exact h t rfl

theorem tracePlace_run (s t : State) (core wp : Nat) (bs : List Byte) (h : s.tracePlace core wp bs = some t) : t.run = s.run :=
  writeVirtual_run _ _ _ _ _ h

theorem tracePlace_wf (s t : State) (core wp : Nat) (bs : List Byte) (h : s.tracePlace core wp bs = some t) (w : Memory.wf s.mem = true) :
    Memory.wf t.mem = true := writeVirtual_wf _ _ _ _ _ h w

/-- The state in which a record is placed once its page is padded. -/
theorem padded_run (s : State) (core : Nat) (k : Core) (c : Prop) [Decidable c] (bs : List Byte) :
    ((if c then some s else s.tracePlace core k.trWp bs).getD s).run = s.run := by
  split
  · rfl
  · cases h : s.tracePlace core k.trWp bs with
    | none => rfl
    | some t => exact tracePlace_run s t core k.trWp bs h

theorem padded_wf (s : State) (core : Nat) (k : Core) (c : Prop) [Decidable c] (bs : List Byte) (w : Memory.wf s.mem = true) :
    Memory.wf ((if c then some s else s.tracePlace core k.trWp bs).getD s).mem = true := by
  split
  · exact w
  · cases h : s.tracePlace core k.trWp bs with
    | none => exact w
    | some t => exact tracePlace_wf s t core k.trWp bs h w

/-- The context with the paths of a core owing a SYNC. -/
theorem owePaths_run (s t : State) (core : Nat) (m : Bool) (h : t.run = s.run) : (t.owePaths core m).run = (s.owePaths core m).run := by
  simp only [State.owePaths, h]

theorem owePaths_twice (s t : State) (core : Nat) (m n : Bool) (h : t.run = (s.owePaths core m).run) :
    (t.owePaths core n).run = (s.owePaths core (m || n)).run := by
  simp only [State.owePaths] at *
  rw [h]
  simp only [List.map_map, Context.mk.injEq, true_and, and_true]
  refine List.map_congr_left fun e _ => ?_
  simp only [Function.comp]
  by_cases g : (e.1 / 128 == core) = true <;> simp [g, Bool.or_assoc]

/-- A record changes the running context only in that the paths of its core may owe a SYNC again. -/
theorem tracePut_run (s : State) (core : Nat) (bs : List Byte) :
    (s.tracePut core bs).run = s.run ∨ ∃ m, (s.tracePut core bs).run = (s.owePaths core m).run := by
  unfold State.tracePut
  extract_lets k wp pad s1
  split
  · exact .inl rfl
  split
  · exact .inl rfl
  split
  · exact .inl rfl
  split
  · rename_i t h
    have ht : t.run = s.run := (tracePlace_run _ _ _ _ _ h).trans (padded_run s core k (pad = 0 ∨ k.trLostPage.isSome) _)
    dsimp only
    split
    · exact .inr ⟨_, owePaths_run _ _ _ _ ht⟩
    · exact .inl ht
  · exact .inl rfl

/-- The same for the LOSS that may come before a record. -/
theorem traceResume_run (s : State) (core len : Nat) :
    (s.traceResume core len).run = s.run ∨ ∃ m, (s.traceResume core len).run = (s.owePaths core m).run := by
  unfold State.traceResume
  dsimp only
  split
  · exact .inl rfl
  split
  · exact .inl rfl
  rename_i l _ _
  have h := tracePut_run (s.setCore core { s.core core with trWp := (s.core core).traceAim len }) core
    (traceRecord 4 1 (bytesOf 4 (s.core core).trOwed ++ bytesOf 8 ((s.core core).trBase + l.1 % (s.core core).ringBytes) ++ [0, 0]))
  generalize State.tracePut _ _ _ = u at h ⊢
  change u.run = s.run ∨ ∃ m, u.run = (s.owePaths core m).run at h
  split
  · exact h
  · refine .inr ?_
    rcases h with h | ⟨m, h⟩
    · exact ⟨_, owePaths_run s _ core _ h⟩
    · exact ⟨_, owePaths_twice s _ core m _ h⟩

theorem traceWrite_run (s : State) (core : Nat) (bs : List Byte) :
    (s.traceWrite core bs).run = s.run ∨ ∃ m, (s.traceWrite core bs).run = (s.owePaths core m).run := by
  rw [State.traceWrite]
  rcases tracePut_run (s.traceResume core bs.length) core bs with h | ⟨m, h⟩ <;>
    rcases traceResume_run s core bs.length with g | ⟨n, g⟩
  · exact .inl (h.trans g)
  · exact .inr ⟨n, h.trans g⟩
  · exact .inr ⟨m, h.trans (owePaths_run _ _ _ _ g)⟩
  · exact .inr ⟨_, h.trans (owePaths_twice _ _ _ _ _ g)⟩

theorem tracePut_wf (s : State) (core : Nat) (bs : List Byte) (w : Memory.wf s.mem = true) : Memory.wf (s.tracePut core bs).mem = true := by
  unfold State.tracePut
  extract_lets k wp pad s1
  split
  · exact w
  split
  · exact w
  split
  · exact w
  split
  · rename_i t h
    have ht : Memory.wf t.mem = true := tracePlace_wf _ _ _ _ _ h (padded_wf s core k (pad = 0 ∨ k.trLostPage.isSome) _ w)
    dsimp only
    split <;> exact ht
  · exact w

theorem traceResume_wf (s : State) (core len : Nat) (w : Memory.wf s.mem = true) : Memory.wf (s.traceResume core len).mem = true := by
  unfold State.traceResume
  dsimp only
  split
  · exact w
  split
  · exact w
  rename_i l _ _
  have h := tracePut_wf (s.setCore core { s.core core with trWp := (s.core core).traceAim len }) core
    (traceRecord 4 1 (bytesOf 4 (s.core core).trOwed ++ bytesOf 8 ((s.core core).trBase + l.1 % (s.core core).ringBytes) ++ [0, 0])) w
  generalize State.tracePut _ _ _ = u at h ⊢
  split <;> exact h

theorem traceWrite_wf (s : State) (core : Nat) (bs : List Byte) (w : Memory.wf s.mem = true) : Memory.wf (s.traceWrite core bs).mem = true :=
  tracePut_wf _ _ _ (traceResume_wf s core _ w)

/-- A path keeps everything through a record but whether it owes a SYNC, and whether its records wait for that. -/
theorem traceWrite_path (s : State) (core pid : Nat) (bs : List Byte) (p : Path) (h : s.path pid = some p) :
    ∃ b m, (s.traceWrite core bs).path pid = some { p with traceSync := b, traceMute := m } := by
  rcases traceWrite_run s core bs with g | ⟨n, g⟩
  · exact ⟨p.traceSync, p.traceMute, by simpa [State.path, g] using h⟩
  · have e : (s.traceWrite core bs).path pid
        = (s.path pid).map fun q => if pid / 128 == core then { q with traceSync := true, traceMute := q.traceMute || n } else q := by
      rw [State.path, g]
      have m := tget_map s.run.paths
        (fun i q => if i / 128 == core then ({ q with traceSync := true, traceMute := q.traceMute || n } : Path) else q) pid
      simp only [State.owePaths]
      rw [State.path, ← m]
      congr 2
      funext e
      split <;> rfl
    rw [e, h]
    by_cases k : pid / 128 = core
    · exact ⟨true, p.traceMute || n, by simp [k]⟩
    · exact ⟨p.traceSync, p.traceMute, by simp [k]⟩

/-! Registers. -/

/-- A scalar write outside s0 and exec0 to exec2 changes one entry of the scalar registers and nothing else (R14). -/
theorem writeS_eq (s : State) (pid r : Nat) (v : Word) (h : r ≠ 0) (g : r < 93) :
    s.writeS pid r v = { s with run := { s.run with sregs := tset s.run.sregs (skey (ownerOf pid) r) v } } := by
  simp [State.writeS, h, show ¬ 93 ≤ r by omega]

/-- A write of s0 writes nothing (R14). -/
@[simp] theorem writeS_zero (s : State) (pid : Nat) (v : Word) : s.writeS pid 0 v = s := by simp [State.writeS]

/-- A path reads what it wrote, in a register that it does not take from its recruiter (R14, R64). -/
theorem readS_writeS_same (s : State) (pid : Nat) (p : Path) (r : Nat) (v : Word) (h : r ≠ 0) (g : r < 93)
    (k : (isHelper pid && snapshotReg r) = false) : (s.writeS pid r v).readS pid p r = v := by
  rw [writeS_eq s pid r v h g]
  simp [State.readS, h, show ¬ 93 ≤ r by omega, k]

theorem readS_writeS_other (s : State) (pid : Nat) (p : Path) (r j : Nat) (v : Word) (h : r ≠ 0) (g : r < 93) (n : j ≠ r) :
    (s.writeS pid r v).readS pid p j = s.readS pid p j := by
  rw [writeS_eq s pid r v h g]
  have : skey (ownerOf pid) j ≠ skey (ownerOf pid) r := by simp [skey, n]
  simp [State.readS, State.loanOf, State.helper, State.path, this]

@[simp] theorem readK_writeK_same (s : State) (pid k : Nat) (v : Lanes) : (s.writeK pid k v).readK pid k = v := by
  simp [State.readK, State.writeK]

theorem readK_writeK_other (s : State) (pid k j : Nat) (v : Lanes) (h : j ≠ k) : (s.writeK pid k v).readK pid j = s.readK pid j := by
  have : kkey (ownerOf pid) j ≠ kkey (ownerOf pid) k := by simp [kkey, h]
  simp [State.readK, State.writeK, this]

/-! Regions and arrivals. -/

/-- A path with no open region commits nothing. -/
theorem commitRegion_closed (s : State) (pid : Nat) (h : ∀ p, s.path pid = some p → p.region = none) : s.commitRegion pid = s := by
  unfold State.commitRegion
  split
  · rename_i r e
    cases g : s.path pid with
    | none => simp [g] at e
    | some p => simp [g, h p g] at e
  · rfl

/-- An owner without tokens settles at once. -/
theorem settle_free (s : State) (pid : Nat) (h : s.tokensOf (ownerOf pid) = []) : s.settle pid = s := by simp [State.settle, h]

/-! What time brings (R199, R356, R387). -/

/-- Where nothing is in flight, no token is open and no log entry waits, time brings nothing by itself. -/
theorem elapse_idle (s : State) (cc : Nat) (ho : s.ops = []) (ht : s.run.tokens = []) (hl : s.ras.log = []) :
    s.elapse cc = { s with clk := max s.clk cc } := by
  simp [State.elapse, State.banks, State.retryMerges, ho, ht, hl]

/-- The hits of an access reach its cluster and the waves' skid counts alone (R357, R358, R373). -/
theorem performed_frame (s : State) (w : Option Watch) :
    ∃ waves clusters, s.performed w = { s with run := { s.run with waves := waves }, clusters := clusters } := by
  cases w with
  | none => exact ⟨_, _, rfl⟩
  | some w =>
    simp only [State.performed, State.watchHits, State.beginStop]
    repeat' split
    all_goals exact ⟨_, _, rfl⟩

/-- Counting an access's hits keeps the memory's form. -/
theorem wf_performed (s : State) (w : Option Watch) (h : Memory.wf s.mem = true) : Memory.wf (s.performed w).mem = true := by
  obtain ⟨a, b, e⟩ := performed_frame s w
  rw [e]; exact h

/-- An atomic's lanes keep the memory's form (R138). -/
theorem wf_applyAtomic (a : AtomOp) (ls : List (Nat × Loc × DWord)) (s : State) (h : Memory.wf s.mem = true) :
    Memory.wf (s.applyAtomic a ls).1.mem = true := by
  induction ls generalizing s with
  | nil => exact h
  | cons x ls ih =>
    simp only [State.applyAtomic]
    split
    · exact ih s h
    · exact ih _ (wf_writeNum s _ _ _ h)

/-- A part of a scratchpad access performed keeps the memory's form (R356). -/
theorem wf_performPart (s : State) (o : Op) (own : Bool) (h : Memory.wf s.mem = true) : Memory.wf (s.performPart o own).mem = true := by
  have took (t : State) (l d : Op) (last : Bool) (ht : Memory.wf t.mem = true) :
      Memory.wf (if !last then t.replaceOp l else if o.dropped then t.finishOp o.id else t.replaceOp d).mem = true := by
    repeat' split
    all_goals exact ht
  unfold State.performPart
  simp only
  split
  · exact wf_performed _ _ (took _ _ _ _ h)
  · split
    · exact wf_performed _ _ (wf_writeLocs _ s h)
    · exact wf_performed _ _ (wf_writeLocs _ s h)
  · exact took _ _ _ _ (wf_performed _ _ (wf_applyAtomic _ _ s h))
  · exact h

/-- The scratchpad accesses performed up to a cc keep the memory's form (R356). -/
theorem wf_banks (fuel : Nat) (s : State) (upto : Nat) (h : Memory.wf s.mem = true) : Memory.wf (s.banks upto fuel).mem = true := by
  induction fuel generalizing s with
  | zero => exact h
  | succ n ih =>
    simp only [State.banks]
    split
    · exact ih _ (wf_performPart _ _ _ h)
    · exact h

/-! Taking a trap (R302). -/

/-- Where no trace is written and no claim waits, a wave's path that may trap is left as R302 says, and nothing else changes. -/
theorem takeTrap_eq (s : State) (pid cause epc : Nat) (eaux : DWord) (lane : Option Nat) (p : Path) (w : Wave) (hp : s.path pid = some p)
    (hh : isHelper pid = false) (hw : s.wave (pid / 4) = some w) (hv : w.tvec ≠ 0) (hl : ¬ (p.sys = true ∧ p.ecause.getLsbD 8 = true))
    (ht : (s.core (coreOf pid)).trEn = false) (hc : s.dropClaim pid = s) :
    s.takeTrap pid cause epc eaux lane = s.setPath pid { p with
      epc := BitVec.ofNat 64 epc, eaux := eaux, emask := p.mask, ecause := BitVec.ofNat 32 (cause + if p.sys then 256 else 0),
      sys := true, pc := codeAddr w.tvec, hints := [], st := .ready, wait := .none, waitFrom := none,
      sleep := 0, readyAt := s.icc (coreOf pid) + 1, exempt := false,
      helperTrap := if cause = 0x09 then (if p.sys then 2 else 1) else p.helperTrap } := by
  have hl' : ¬ (w.tvec = 0 ∨ (p.sys = true ∧ p.ecause.getLsbD 8 = true)) := fun h => h.elim hv hl
  simp only [State.takeTrap, hp, hh, hw, hl', traceSync_off s pid ht, hc, if_false, Bool.false_eq_true]
  rw [traceFlow_off _ _ _ _ _ (by simpa using ht)]
  simp [State.onPath, hp]

/-! The other instruction sets. -/

/-- A stream word's arm of `exec` is the stream's own operation. -/
theorem exec_stream (op : StreamOp) (s : State) : exec op.toInstr s = execStreamOp op s := by cases op <;> rfl

/-- A chunk word's arm of `exec` is the clearing engine's own operation. -/
theorem exec_chunk (op : ChunkOp) (s : State) : exec op.toInstr s = execChunkOp op s := by cases op <;> rfl

/-! Making pending stores visible in a scope (R320, R323). -/

@[simp] theorem showIn_run (s : State) (pid : Nat) (k : Scope) : (s.showIn pid k).run = s.run := rfl
@[simp] theorem showIn_mem (s : State) (pid : Nat) (k : Scope) : (s.showIn pid k).mem = s.mem := rfl
@[simp] theorem showIn_sram (s : State) (pid : Nat) (k : Scope) : (s.showIn pid k).sram = s.sram := rfl
@[simp] theorem showIn_vault (s : State) (pid : Nat) (k : Scope) : (s.showIn pid k).vault = s.vault := rfl
@[simp] theorem showIn_dev (s : State) (pid : Nat) (k : Scope) : (s.showIn pid k).dev = s.dev := rfl
@[simp] theorem showIn_cores (s : State) (pid : Nat) (k : Scope) : (s.showIn pid k).cores = s.cores := rfl
@[simp] theorem showIn_clusters (s : State) (pid : Nat) (k : Scope) : (s.showIn pid k).clusters = s.clusters := rfl
@[simp] theorem showIn_clk (s : State) (pid : Nat) (k : Scope) : (s.showIn pid k).clk = s.clk := rfl
@[simp] theorem showIn_cur (s : State) (pid : Nat) (k : Scope) : (s.showIn pid k).cur = s.cur := rfl
@[simp] theorem showIn_schedule (s : State) (pid : Nat) (k : Scope) : (s.showIn pid k).schedule = s.schedule := rfl

/-- Each operation stays as it is but for the scope in which it is visible. -/
theorem showIn_ops (s : State) (pid : Nat) (k : Scope) : ∃ f : Op → Option Scope, (s.showIn pid k).ops = s.ops.map fun o => { o with seen := f o } := by
  let wider (o : Op) : Option Scope := match o.seen with
    | some j => if scopeRank j < scopeRank k then some k else some j
    | none => some k
  refine ⟨fun o => if !o.done && o.kind.kinds == 4 && ((s.priorOf pid).contains o.id || s.shownTo pid o) then wider o else o.seen, ?_⟩
  refine List.map_congr_left fun o _ => ?_
  simp only [wider]
  split
  · cases h : o.seen with
    | none => rfl
    | some j => by_cases g : scopeRank j < scopeRank k <;> simp [g, ← h]
  · rfl

end Sys2Proof.Machine
end

