-- ==== Sys2Proof/Laws/PerInstr.lean ====
section
/-! SUPPORT. Families of statements made instruction by instruction: WordBound, that the word of a well-formed instruction has 32
bits. -/

namespace Sys2Proof.Laws

set_option Elab.async false

/-- The word of a well-formed instruction has 32 bits (R11, R18). -/
def WordBound.Statement (i : Instr) : Prop := i.wf = true → encodeWord i < 2 ^ 32

theorem b1 (b : Bool) : b.toNat < 2 ^ 1 := b.toNat_lt
theorem enc0_lt {b : Nat} (h : b < 2 ^ 32) : enc0 b < 2 ^ 32 := by
  simp only [enc0]; omega
theorem enc1_lt {b : Nat} {x0 i0 w0 : Nat} (h0 : x0 < 2 ^ w0) (h : b + (2 ^ w0 - 1) * 2 ^ i0 < 2 ^ 32) : enc1 b x0 i0 < 2 ^ 32 := by
  have g0 := Nat.mul_le_mul_right (2 ^ i0) (Nat.le_sub_one_of_lt h0)
  simp only [enc1]; omega
theorem enc2_lt {b : Nat} {x0 i0 w0 : Nat} {x1 i1 w1 : Nat} (h0 : x0 < 2 ^ w0) (h1 : x1 < 2 ^ w1) (h : b + (2 ^ w0 - 1) * 2 ^ i0 + (2 ^ w1 - 1) * 2 ^ i1 < 2 ^ 32) : enc2 b x0 i0 x1 i1 < 2 ^ 32 := by
  have g0 := Nat.mul_le_mul_right (2 ^ i0) (Nat.le_sub_one_of_lt h0)
  have g1 := Nat.mul_le_mul_right (2 ^ i1) (Nat.le_sub_one_of_lt h1)
  simp only [enc2]; omega
theorem enc3_lt {b : Nat} {x0 i0 w0 : Nat} {x1 i1 w1 : Nat} {x2 i2 w2 : Nat} (h0 : x0 < 2 ^ w0) (h1 : x1 < 2 ^ w1) (h2 : x2 < 2 ^ w2) (h : b + (2 ^ w0 - 1) * 2 ^ i0 + (2 ^ w1 - 1) * 2 ^ i1 + (2 ^ w2 - 1) * 2 ^ i2 < 2 ^ 32) : enc3 b x0 i0 x1 i1 x2 i2 < 2 ^ 32 := by
  have g0 := Nat.mul_le_mul_right (2 ^ i0) (Nat.le_sub_one_of_lt h0)
  have g1 := Nat.mul_le_mul_right (2 ^ i1) (Nat.le_sub_one_of_lt h1)
  have g2 := Nat.mul_le_mul_right (2 ^ i2) (Nat.le_sub_one_of_lt h2)
  simp only [enc3]; omega
theorem enc4_lt {b : Nat} {x0 i0 w0 : Nat} {x1 i1 w1 : Nat} {x2 i2 w2 : Nat} {x3 i3 w3 : Nat} (h0 : x0 < 2 ^ w0) (h1 : x1 < 2 ^ w1) (h2 : x2 < 2 ^ w2) (h3 : x3 < 2 ^ w3) (h : b + (2 ^ w0 - 1) * 2 ^ i0 + (2 ^ w1 - 1) * 2 ^ i1 + (2 ^ w2 - 1) * 2 ^ i2 + (2 ^ w3 - 1) * 2 ^ i3 < 2 ^ 32) : enc4 b x0 i0 x1 i1 x2 i2 x3 i3 < 2 ^ 32 := by
  have g0 := Nat.mul_le_mul_right (2 ^ i0) (Nat.le_sub_one_of_lt h0)
  have g1 := Nat.mul_le_mul_right (2 ^ i1) (Nat.le_sub_one_of_lt h1)
  have g2 := Nat.mul_le_mul_right (2 ^ i2) (Nat.le_sub_one_of_lt h2)
  have g3 := Nat.mul_le_mul_right (2 ^ i3) (Nat.le_sub_one_of_lt h3)
  simp only [enc4]; omega
theorem enc5_lt {b : Nat} {x0 i0 w0 : Nat} {x1 i1 w1 : Nat} {x2 i2 w2 : Nat} {x3 i3 w3 : Nat} {x4 i4 w4 : Nat} (h0 : x0 < 2 ^ w0) (h1 : x1 < 2 ^ w1) (h2 : x2 < 2 ^ w2) (h3 : x3 < 2 ^ w3) (h4 : x4 < 2 ^ w4) (h : b + (2 ^ w0 - 1) * 2 ^ i0 + (2 ^ w1 - 1) * 2 ^ i1 + (2 ^ w2 - 1) * 2 ^ i2 + (2 ^ w3 - 1) * 2 ^ i3 + (2 ^ w4 - 1) * 2 ^ i4 < 2 ^ 32) : enc5 b x0 i0 x1 i1 x2 i2 x3 i3 x4 i4 < 2 ^ 32 := by
  have g0 := Nat.mul_le_mul_right (2 ^ i0) (Nat.le_sub_one_of_lt h0)
  have g1 := Nat.mul_le_mul_right (2 ^ i1) (Nat.le_sub_one_of_lt h1)
  have g2 := Nat.mul_le_mul_right (2 ^ i2) (Nat.le_sub_one_of_lt h2)
  have g3 := Nat.mul_le_mul_right (2 ^ i3) (Nat.le_sub_one_of_lt h3)
  have g4 := Nat.mul_le_mul_right (2 ^ i4) (Nat.le_sub_one_of_lt h4)
  simp only [enc5]; omega
theorem enc6_lt {b : Nat} {x0 i0 w0 : Nat} {x1 i1 w1 : Nat} {x2 i2 w2 : Nat} {x3 i3 w3 : Nat} {x4 i4 w4 : Nat} {x5 i5 w5 : Nat} (h0 : x0 < 2 ^ w0) (h1 : x1 < 2 ^ w1) (h2 : x2 < 2 ^ w2) (h3 : x3 < 2 ^ w3) (h4 : x4 < 2 ^ w4) (h5 : x5 < 2 ^ w5) (h : b + (2 ^ w0 - 1) * 2 ^ i0 + (2 ^ w1 - 1) * 2 ^ i1 + (2 ^ w2 - 1) * 2 ^ i2 + (2 ^ w3 - 1) * 2 ^ i3 + (2 ^ w4 - 1) * 2 ^ i4 + (2 ^ w5 - 1) * 2 ^ i5 < 2 ^ 32) : enc6 b x0 i0 x1 i1 x2 i2 x3 i3 x4 i4 x5 i5 < 2 ^ 32 := by
  have g0 := Nat.mul_le_mul_right (2 ^ i0) (Nat.le_sub_one_of_lt h0)
  have g1 := Nat.mul_le_mul_right (2 ^ i1) (Nat.le_sub_one_of_lt h1)
  have g2 := Nat.mul_le_mul_right (2 ^ i2) (Nat.le_sub_one_of_lt h2)
  have g3 := Nat.mul_le_mul_right (2 ^ i3) (Nat.le_sub_one_of_lt h3)
  have g4 := Nat.mul_le_mul_right (2 ^ i4) (Nat.le_sub_one_of_lt h4)
  have g5 := Nat.mul_le_mul_right (2 ^ i5) (Nat.le_sub_one_of_lt h5)
  simp only [enc6]; omega
theorem code_CmpCond (k : CmpCond) : k.code < 2 ^ 4 := by cases k <;> decide
theorem code_RedOp (k : RedOp) : k.code < 2 ^ 3 := by cases k <;> decide
theorem code_RepayTy (k : RepayTy) : k.code < 2 ^ 2 := by cases k <;> decide
theorem code_ElemTy (k : ElemTy) : k.code < 2 ^ 3 := by cases k <;> decide
theorem code_NbrSel (k : NbrSel) : k.code < 2 ^ 2 := by cases k <;> decide
theorem code_CmpMode (k : CmpMode) : k.code < 2 ^ 2 := by cases k <;> decide
theorem code_MemWidth (k : MemWidth) : k.code < 2 ^ 3 := by cases k <;> decide
theorem code_Space (k : Space) : k.code < 2 ^ 2 := by cases k <;> decide
theorem code_Scope (k : Scope) : k.code < 2 ^ 3 := by cases k <;> decide
theorem code_MsclMode (k : MsclMode) : k.code < 2 ^ 2 := by cases k <;> decide
theorem code_BrdCond (k : BrdCond) : k.code < 2 ^ 3 := by cases k <;> decide
theorem code_Rnd (k : Rnd) : k.code < 2 ^ 3 := by cases k <;> decide

theorem WordBound.sadd (x0 : BitVec 7) (x1 : BitVec 7) (x2 : BitVec 7) : WordBound.Statement (.sadd x0 x1 x2) := fun _ => enc3_lt x0.isLt x1.isLt x2.isLt (by decide)
theorem WordBound.ssub (x0 : BitVec 7) (x1 : BitVec 7) (x2 : BitVec 7) : WordBound.Statement (.ssub x0 x1 x2) := fun _ => enc3_lt x0.isLt x1.isLt x2.isLt (by decide)
theorem WordBound.smul (x0 : BitVec 7) (x1 : BitVec 7) (x2 : BitVec 7) : WordBound.Statement (.smul x0 x1 x2) := fun _ => enc3_lt x0.isLt x1.isLt x2.isLt (by decide)
theorem WordBound.smulhI32 (x0 : BitVec 7) (x1 : BitVec 7) (x2 : BitVec 7) : WordBound.Statement (.smulhI32 x0 x1 x2) := fun _ => enc3_lt x0.isLt x1.isLt x2.isLt (by decide)
theorem WordBound.smulhN32 (x0 : BitVec 7) (x1 : BitVec 7) (x2 : BitVec 7) : WordBound.Statement (.smulhN32 x0 x1 x2) := fun _ => enc3_lt x0.isLt x1.isLt x2.isLt (by decide)
theorem WordBound.sdivI32 (x0 : BitVec 7) (x1 : BitVec 7) (x2 : BitVec 7) : WordBound.Statement (.sdivI32 x0 x1 x2) := fun _ => enc3_lt x0.isLt x1.isLt x2.isLt (by decide)
theorem WordBound.sdivN32 (x0 : BitVec 7) (x1 : BitVec 7) (x2 : BitVec 7) : WordBound.Statement (.sdivN32 x0 x1 x2) := fun _ => enc3_lt x0.isLt x1.isLt x2.isLt (by decide)
theorem WordBound.sremI32 (x0 : BitVec 7) (x1 : BitVec 7) (x2 : BitVec 7) : WordBound.Statement (.sremI32 x0 x1 x2) := fun _ => enc3_lt x0.isLt x1.isLt x2.isLt (by decide)
theorem WordBound.sremN32 (x0 : BitVec 7) (x1 : BitVec 7) (x2 : BitVec 7) : WordBound.Statement (.sremN32 x0 x1 x2) := fun _ => enc3_lt x0.isLt x1.isLt x2.isLt (by decide)
theorem WordBound.sand (x0 : BitVec 7) (x1 : BitVec 7) (x2 : BitVec 7) : WordBound.Statement (.sand x0 x1 x2) := fun _ => enc3_lt x0.isLt x1.isLt x2.isLt (by decide)
theorem WordBound.sor (x0 : BitVec 7) (x1 : BitVec 7) (x2 : BitVec 7) : WordBound.Statement (.sor x0 x1 x2) := fun _ => enc3_lt x0.isLt x1.isLt x2.isLt (by decide)
theorem WordBound.sxor (x0 : BitVec 7) (x1 : BitVec 7) (x2 : BitVec 7) : WordBound.Statement (.sxor x0 x1 x2) := fun _ => enc3_lt x0.isLt x1.isLt x2.isLt (by decide)
theorem WordBound.sandn (x0 : BitVec 7) (x1 : BitVec 7) (x2 : BitVec 7) : WordBound.Statement (.sandn x0 x1 x2) := fun _ => enc3_lt x0.isLt x1.isLt x2.isLt (by decide)
theorem WordBound.sshl (x0 : BitVec 7) (x1 : BitVec 7) (x2 : BitVec 7) : WordBound.Statement (.sshl x0 x1 x2) := fun _ => enc3_lt x0.isLt x1.isLt x2.isLt (by decide)
theorem WordBound.sshr (x0 : BitVec 7) (x1 : BitVec 7) (x2 : BitVec 7) : WordBound.Statement (.sshr x0 x1 x2) := fun _ => enc3_lt x0.isLt x1.isLt x2.isLt (by decide)
theorem WordBound.ssra (x0 : BitVec 7) (x1 : BitVec 7) (x2 : BitVec 7) : WordBound.Statement (.ssra x0 x1 x2) := fun _ => enc3_lt x0.isLt x1.isLt x2.isLt (by decide)
theorem WordBound.sminI32 (x0 : BitVec 7) (x1 : BitVec 7) (x2 : BitVec 7) : WordBound.Statement (.sminI32 x0 x1 x2) := fun _ => enc3_lt x0.isLt x1.isLt x2.isLt (by decide)
theorem WordBound.sminN32 (x0 : BitVec 7) (x1 : BitVec 7) (x2 : BitVec 7) : WordBound.Statement (.sminN32 x0 x1 x2) := fun _ => enc3_lt x0.isLt x1.isLt x2.isLt (by decide)
theorem WordBound.smaxI32 (x0 : BitVec 7) (x1 : BitVec 7) (x2 : BitVec 7) : WordBound.Statement (.smaxI32 x0 x1 x2) := fun _ => enc3_lt x0.isLt x1.isLt x2.isLt (by decide)
theorem WordBound.smaxN32 (x0 : BitVec 7) (x1 : BitVec 7) (x2 : BitVec 7) : WordBound.Statement (.smaxN32 x0 x1 x2) := fun _ => enc3_lt x0.isLt x1.isLt x2.isLt (by decide)
theorem WordBound.smov (x0 : BitVec 7) (x1 : BitVec 7) : WordBound.Statement (.smov x0 x1) := fun _ => enc2_lt x0.isLt x1.isLt (by decide)
theorem WordBound.spopc (x0 : BitVec 7) (x1 : BitVec 7) : WordBound.Statement (.spopc x0 x1) := fun _ => enc2_lt x0.isLt x1.isLt (by decide)
theorem WordBound.sclz (x0 : BitVec 7) (x1 : BitVec 7) : WordBound.Statement (.sclz x0 x1) := fun _ => enc2_lt x0.isLt x1.isLt (by decide)
theorem WordBound.sctz (x0 : BitVec 7) (x1 : BitVec 7) : WordBound.Statement (.sctz x0 x1) := fun _ => enc2_lt x0.isLt x1.isLt (by decide)
theorem WordBound.sbrev (x0 : BitVec 7) (x1 : BitVec 7) : WordBound.Statement (.sbrev x0 x1) := fun _ => enc2_lt x0.isLt x1.isLt (by decide)
theorem WordBound.scmp (x0 : CmpCond) (x1 : BitVec 3) (x2 : BitVec 7) (x3 : BitVec 7) : WordBound.Statement (.scmp x0 x1 x2 x3) := fun _ => enc4_lt (code_CmpCond x0) x1.isLt x2.isLt x3.isLt (by decide)
theorem WordBound.slea (x0 : BitVec 7) (x1 : BitVec 7) (x2 : BitVec 7) : WordBound.Statement (.slea x0 x1 x2) := fun _ => enc3_lt x0.isLt x1.isLt x2.isLt (by decide)
theorem WordBound.sbfi (x0 : BitVec 7) (x1 : BitVec 7) (x2 : BitVec 7) : WordBound.Statement (.sbfi x0 x1 x2) := fun _ => enc3_lt x0.isLt x1.isLt x2.isLt (by decide)
theorem WordBound.ssel (x0 : BitVec 7) (x1 : BitVec 7) (x2 : BitVec 7) (x3 : BitVec 3) : WordBound.Statement (.ssel x0 x1 x2 x3) := fun _ => enc4_lt x0.isLt x1.isLt x2.isLt x3.isLt (by decide)
theorem WordBound.saddImm (x0 : BitVec 7) (x1 : Bool) (x2 : BitVec 12) : WordBound.Statement (.saddImm x0 x1 x2) := fun _ => enc3_lt x0.isLt (b1 x1) x2.isLt (by decide)
theorem WordBound.smulImm (x0 : BitVec 7) (x1 : Bool) (x2 : BitVec 12) : WordBound.Statement (.smulImm x0 x1 x2) := fun _ => enc3_lt x0.isLt (b1 x1) x2.isLt (by decide)
theorem WordBound.sandImm (x0 : BitVec 7) (x1 : Bool) (x2 : BitVec 12) : WordBound.Statement (.sandImm x0 x1 x2) := fun _ => enc3_lt x0.isLt (b1 x1) x2.isLt (by decide)
theorem WordBound.sorImm (x0 : BitVec 7) (x1 : Bool) (x2 : BitVec 12) : WordBound.Statement (.sorImm x0 x1 x2) := fun _ => enc3_lt x0.isLt (b1 x1) x2.isLt (by decide)
theorem WordBound.sxorImm (x0 : BitVec 7) (x1 : Bool) (x2 : BitVec 12) : WordBound.Statement (.sxorImm x0 x1 x2) := fun _ => enc3_lt x0.isLt (b1 x1) x2.isLt (by decide)
theorem WordBound.sshlImm (x0 : BitVec 7) (x1 : Bool) (x2 : BitVec 12) : WordBound.Statement (.sshlImm x0 x1 x2) := fun _ => enc3_lt x0.isLt (b1 x1) x2.isLt (by decide)
theorem WordBound.sshrImm (x0 : BitVec 7) (x1 : Bool) (x2 : BitVec 12) : WordBound.Statement (.sshrImm x0 x1 x2) := fun _ => enc3_lt x0.isLt (b1 x1) x2.isLt (by decide)
theorem WordBound.ssraImm (x0 : BitVec 7) (x1 : Bool) (x2 : BitVec 12) : WordBound.Statement (.ssraImm x0 x1 x2) := fun _ => enc3_lt x0.isLt (b1 x1) x2.isLt (by decide)
theorem WordBound.sminI32Imm (x0 : BitVec 7) (x1 : Bool) (x2 : BitVec 12) : WordBound.Statement (.sminI32Imm x0 x1 x2) := fun _ => enc3_lt x0.isLt (b1 x1) x2.isLt (by decide)
theorem WordBound.sminN32Imm (x0 : BitVec 7) (x1 : Bool) (x2 : BitVec 12) : WordBound.Statement (.sminN32Imm x0 x1 x2) := fun _ => enc3_lt x0.isLt (b1 x1) x2.isLt (by decide)
theorem WordBound.smaxI32Imm (x0 : BitVec 7) (x1 : Bool) (x2 : BitVec 12) : WordBound.Statement (.smaxI32Imm x0 x1 x2) := fun _ => enc3_lt x0.isLt (b1 x1) x2.isLt (by decide)
theorem WordBound.smaxN32Imm (x0 : BitVec 7) (x1 : Bool) (x2 : BitVec 12) : WordBound.Statement (.smaxN32Imm x0 x1 x2) := fun _ => enc3_lt x0.isLt (b1 x1) x2.isLt (by decide)
theorem WordBound.smovImm (x0 : BitVec 7) (x1 : Bool) (x2 : BitVec 12) : WordBound.Statement (.smovImm x0 x1 x2) := fun _ => enc3_lt x0.isLt (b1 x1) x2.isLt (by decide)
theorem WordBound.sbfeI32 (x0 : BitVec 7) (x1 : Bool) (x2 : BitVec 12) : WordBound.Statement (.sbfeI32 x0 x1 x2) := fun _ => enc3_lt x0.isLt (b1 x1) x2.isLt (by decide)
theorem WordBound.sbfeN32 (x0 : BitVec 7) (x1 : Bool) (x2 : BitVec 12) : WordBound.Statement (.sbfeN32 x0 x1 x2) := fun _ => enc3_lt x0.isLt (b1 x1) x2.isLt (by decide)
theorem WordBound.smovi (x0 : BitVec 6) (x1 : BitVec 20) : WordBound.Statement (.smovi x0 x1) := fun _ => enc2_lt x0.isLt x1.isLt (by decide)
theorem WordBound.srd (x0 : BitVec 7) (x1 : BitVec 12) : WordBound.Statement (.srd x0 x1) := fun _ => enc2_lt x0.isLt x1.isLt (by decide)
theorem WordBound.swr (x0 : BitVec 7) (x1 : BitVec 12) : WordBound.Statement (.swr x0 x1) := fun _ => enc2_lt x0.isLt x1.isLt (by decide)
theorem WordBound.nfset (x0 : BitVec 7) (x1 : BitVec 2) : WordBound.Statement (.nfset x0 x1) := fun _ => enc2_lt x0.isLt x1.isLt (by decide)
theorem WordBound.br (x0 : BitVec 3) (x1 : BitVec 22) : WordBound.Statement (.br x0 x1) := fun _ => enc2_lt x0.isLt x1.isLt (by decide)
theorem WordBound.brn (x0 : BitVec 3) (x1 : BitVec 22) : WordBound.Statement (.brn x0 x1) := fun _ => enc2_lt x0.isLt x1.isLt (by decide)
theorem WordBound.jmp (x0 : BitVec 23) : WordBound.Statement (.jmp x0) := fun _ => enc1_lt x0.isLt (by decide)
theorem WordBound.call (x0 : BitVec 23) : WordBound.Statement (.call x0) := fun _ => enc1_lt x0.isLt (by decide)
theorem WordBound.jmpReg (x0 : BitVec 7) : WordBound.Statement (.jmpReg x0) := fun _ => enc1_lt x0.isLt (by decide)
theorem WordBound.callReg (x0 : BitVec 7) : WordBound.Statement (.callReg x0) := fun _ => enc1_lt x0.isLt (by decide)
theorem WordBound.ret  : WordBound.Statement (.ret) := fun _ => enc0_lt  (by decide)
theorem WordBound.vbr (x0 : Bool) (x1 : BitVec 3) (x2 : BitVec 10) (x3 : BitVec 10) : WordBound.Statement (.vbr x0 x1 x2 x3) := fun _ => enc4_lt (b1 x0) x1.isLt x2.isLt x3.isLt (by decide)
theorem WordBound.vbrk (x0 : Bool) (x1 : BitVec 3) : WordBound.Statement (.vbrk x0 x1) := fun _ => enc2_lt (b1 x0) x1.isLt (by decide)
theorem WordBound.split (x0 : Bool) (x1 : BitVec 3) (x2 : BitVec 10) (x3 : BitVec 10) : WordBound.Statement (.split x0 x1 x2 x3) := fun _ => enc4_lt (b1 x0) x1.isLt x2.isLt x3.isLt (by decide)
theorem WordBound.join  : WordBound.Statement (.join) := fun _ => enc0_lt  (by decide)
theorem WordBound.exit  : WordBound.Statement (.exit) := fun _ => enc0_lt  (by decide)
theorem WordBound.refill  : WordBound.Statement (.refill) := fun _ => enc0_lt  (by decide)
theorem WordBound.loan (x0 : BitVec 7) (x1 : BitVec 7) (x2 : BitVec 3) (x3 : BitVec 6) : WordBound.Statement (.loan x0 x1 x2 x3) := fun _ => enc4_lt x0.isLt x1.isLt x2.isLt x3.isLt (by decide)
theorem WordBound.lnext (x0 : BitVec 7) (x1 : BitVec 3) : WordBound.Statement (.lnext x0 x1) := fun _ => enc2_lt x0.isLt x1.isLt (by decide)
theorem WordBound.repay (x0 : BitVec 7) (x1 : BitVec 7) (x2 : RedOp) (x3 : RepayTy) : WordBound.Statement (.repay x0 x1 x2 x3) := fun _ => enc4_lt x0.isLt x1.isLt (code_RedOp x2) (code_RepayTy x3) (by decide)
theorem WordBound.ldone  : WordBound.Statement (.ldone) := fun _ => enc0_lt  (by decide)
theorem WordBound.rgn  : WordBound.Statement (.rgn) := fun _ => enc0_lt  (by decide)
theorem WordBound.barArrive (x0 : BitVec 4) : WordBound.Statement (.barArrive x0) := fun _ => enc1_lt x0.isLt (by decide)
theorem WordBound.barWait (x0 : BitVec 4) : WordBound.Statement (.barWait x0) := fun _ => enc1_lt x0.isLt (by decide)
theorem WordBound.barSync (x0 : BitVec 4) : WordBound.Statement (.barSync x0) := fun _ => enc1_lt x0.isLt (by decide)
theorem WordBound.waitC (x0 : BitVec 6) (x1 : BitVec 6) (x2 : BitVec 4) (x3 : BitVec 4) : WordBound.Statement (.waitC x0 x1 x2 x3) := fun _ => enc4_lt x0.isLt x1.isLt x2.isLt x3.isLt (by decide)
theorem WordBound.yield  : WordBound.Statement (.yield) := fun _ => enc0_lt  (by decide)
theorem WordBound.sleep (x0 : BitVec 16) : WordBound.Statement (.sleep x0) := fun _ => enc1_lt x0.isLt (by decide)
theorem WordBound.nop  : WordBound.Statement (.nop) := fun _ => enc0_lt  (by decide)
theorem WordBound.wpred  : WordBound.Statement (.wpred) := fun _ => enc0_lt  (by decide)
theorem WordBound.sucstart  : WordBound.Statement (.sucstart) := fun _ => enc0_lt  (by decide)
theorem WordBound.trap (x0 : BitVec 8) : WordBound.Statement (.trap x0) := fun _ => enc1_lt x0.isLt (by decide)
theorem WordBound.eret  : WordBound.Statement (.eret) := fun _ => enc0_lt  (by decide)
theorem WordBound.halt  : WordBound.Statement (.halt) := fun _ => enc0_lt  (by decide)
theorem WordBound.brkpt  : WordBound.Statement (.brkpt) := fun _ => enc0_lt  (by decide)
theorem WordBound.claim (x0 : Bool) (x1 : BitVec 3) (x2 : BitVec 5) : WordBound.Statement (.claim x0 x1 x2) := fun _ => enc3_lt (b1 x0) x1.isLt x2.isLt (by decide)
theorem WordBound.giveback (x0 : BitVec 5) : WordBound.Statement (.giveback x0) := fun _ => enc1_lt x0.isLt (by decide)
theorem WordBound.vadd (x0 : BitVec 7) (x1 : BitVec 7) (x2 : BitVec 7) : WordBound.Statement (.vadd x0 x1 x2) := fun _ => enc3_lt x0.isLt x1.isLt x2.isLt (by decide)
theorem WordBound.vsub (x0 : BitVec 7) (x1 : BitVec 7) (x2 : BitVec 7) : WordBound.Statement (.vsub x0 x1 x2) := fun _ => enc3_lt x0.isLt x1.isLt x2.isLt (by decide)
theorem WordBound.vmul (x0 : BitVec 7) (x1 : BitVec 7) (x2 : BitVec 7) : WordBound.Statement (.vmul x0 x1 x2) := fun _ => enc3_lt x0.isLt x1.isLt x2.isLt (by decide)
theorem WordBound.vmulhI32 (x0 : BitVec 7) (x1 : BitVec 7) (x2 : BitVec 7) : WordBound.Statement (.vmulhI32 x0 x1 x2) := fun _ => enc3_lt x0.isLt x1.isLt x2.isLt (by decide)
theorem WordBound.vmulhN32 (x0 : BitVec 7) (x1 : BitVec 7) (x2 : BitVec 7) : WordBound.Statement (.vmulhN32 x0 x1 x2) := fun _ => enc3_lt x0.isLt x1.isLt x2.isLt (by decide)
theorem WordBound.vmad (x0 : BitVec 7) (x1 : BitVec 7) (x2 : BitVec 7) : WordBound.Statement (.vmad x0 x1 x2) := fun _ => enc3_lt x0.isLt x1.isLt x2.isLt (by decide)
theorem WordBound.vand (x0 : BitVec 7) (x1 : BitVec 7) (x2 : BitVec 7) : WordBound.Statement (.vand x0 x1 x2) := fun _ => enc3_lt x0.isLt x1.isLt x2.isLt (by decide)
theorem WordBound.vor (x0 : BitVec 7) (x1 : BitVec 7) (x2 : BitVec 7) : WordBound.Statement (.vor x0 x1 x2) := fun _ => enc3_lt x0.isLt x1.isLt x2.isLt (by decide)
theorem WordBound.vxor (x0 : BitVec 7) (x1 : BitVec 7) (x2 : BitVec 7) : WordBound.Statement (.vxor x0 x1 x2) := fun _ => enc3_lt x0.isLt x1.isLt x2.isLt (by decide)
theorem WordBound.vandn (x0 : BitVec 7) (x1 : BitVec 7) (x2 : BitVec 7) : WordBound.Statement (.vandn x0 x1 x2) := fun _ => enc3_lt x0.isLt x1.isLt x2.isLt (by decide)
theorem WordBound.vshl (x0 : BitVec 7) (x1 : BitVec 7) (x2 : BitVec 7) : WordBound.Statement (.vshl x0 x1 x2) := fun _ => enc3_lt x0.isLt x1.isLt x2.isLt (by decide)
theorem WordBound.vshr (x0 : BitVec 7) (x1 : BitVec 7) (x2 : BitVec 7) : WordBound.Statement (.vshr x0 x1 x2) := fun _ => enc3_lt x0.isLt x1.isLt x2.isLt (by decide)
theorem WordBound.vsra (x0 : BitVec 7) (x1 : BitVec 7) (x2 : BitVec 7) : WordBound.Statement (.vsra x0 x1 x2) := fun _ => enc3_lt x0.isLt x1.isLt x2.isLt (by decide)
theorem WordBound.vminI32 (x0 : BitVec 7) (x1 : BitVec 7) (x2 : BitVec 7) : WordBound.Statement (.vminI32 x0 x1 x2) := fun _ => enc3_lt x0.isLt x1.isLt x2.isLt (by decide)
theorem WordBound.vminN32 (x0 : BitVec 7) (x1 : BitVec 7) (x2 : BitVec 7) : WordBound.Statement (.vminN32 x0 x1 x2) := fun _ => enc3_lt x0.isLt x1.isLt x2.isLt (by decide)
theorem WordBound.vmaxI32 (x0 : BitVec 7) (x1 : BitVec 7) (x2 : BitVec 7) : WordBound.Statement (.vmaxI32 x0 x1 x2) := fun _ => enc3_lt x0.isLt x1.isLt x2.isLt (by decide)
theorem WordBound.vmaxN32 (x0 : BitVec 7) (x1 : BitVec 7) (x2 : BitVec 7) : WordBound.Statement (.vmaxN32 x0 x1 x2) := fun _ => enc3_lt x0.isLt x1.isLt x2.isLt (by decide)
theorem WordBound.vabsdI32 (x0 : BitVec 7) (x1 : BitVec 7) (x2 : BitVec 7) : WordBound.Statement (.vabsdI32 x0 x1 x2) := fun _ => enc3_lt x0.isLt x1.isLt x2.isLt (by decide)
theorem WordBound.vabsdN32 (x0 : BitVec 7) (x1 : BitVec 7) (x2 : BitVec 7) : WordBound.Statement (.vabsdN32 x0 x1 x2) := fun _ => enc3_lt x0.isLt x1.isLt x2.isLt (by decide)
theorem WordBound.vpopc (x0 : BitVec 7) (x1 : BitVec 7) : WordBound.Statement (.vpopc x0 x1) := fun _ => enc2_lt x0.isLt x1.isLt (by decide)
theorem WordBound.vclz (x0 : BitVec 7) (x1 : BitVec 7) : WordBound.Statement (.vclz x0 x1) := fun _ => enc2_lt x0.isLt x1.isLt (by decide)
theorem WordBound.vbrev (x0 : BitVec 7) (x1 : BitVec 7) : WordBound.Statement (.vbrev x0 x1) := fun _ => enc2_lt x0.isLt x1.isLt (by decide)
theorem WordBound.vbfeI32 (x0 : BitVec 7) (x1 : BitVec 7) (x2 : BitVec 7) : WordBound.Statement (.vbfeI32 x0 x1 x2) := fun _ => enc3_lt x0.isLt x1.isLt x2.isLt (by decide)
theorem WordBound.vbfeN32 (x0 : BitVec 7) (x1 : BitVec 7) (x2 : BitVec 7) : WordBound.Statement (.vbfeN32 x0 x1 x2) := fun _ => enc3_lt x0.isLt x1.isLt x2.isLt (by decide)
theorem WordBound.vbfi (x0 : BitVec 7) (x1 : BitVec 7) (x2 : BitVec 7) : WordBound.Statement (.vbfi x0 x1 x2) := fun _ => enc3_lt x0.isLt x1.isLt x2.isLt (by decide)
theorem WordBound.vaddImm (x0 : BitVec 7) (x1 : BitVec 7) (x2 : BitVec 8) : WordBound.Statement (.vaddImm x0 x1 x2) := fun _ => enc3_lt x0.isLt x1.isLt x2.isLt (by decide)
theorem WordBound.vmulImm (x0 : BitVec 7) (x1 : BitVec 7) (x2 : BitVec 8) : WordBound.Statement (.vmulImm x0 x1 x2) := fun _ => enc3_lt x0.isLt x1.isLt x2.isLt (by decide)
theorem WordBound.vandImm (x0 : BitVec 7) (x1 : BitVec 7) (x2 : BitVec 8) : WordBound.Statement (.vandImm x0 x1 x2) := fun _ => enc3_lt x0.isLt x1.isLt x2.isLt (by decide)
theorem WordBound.vorImm (x0 : BitVec 7) (x1 : BitVec 7) (x2 : BitVec 8) : WordBound.Statement (.vorImm x0 x1 x2) := fun _ => enc3_lt x0.isLt x1.isLt x2.isLt (by decide)
theorem WordBound.vxorImm (x0 : BitVec 7) (x1 : BitVec 7) (x2 : BitVec 8) : WordBound.Statement (.vxorImm x0 x1 x2) := fun _ => enc3_lt x0.isLt x1.isLt x2.isLt (by decide)
theorem WordBound.vandnImm (x0 : BitVec 7) (x1 : BitVec 7) (x2 : BitVec 8) : WordBound.Statement (.vandnImm x0 x1 x2) := fun _ => enc3_lt x0.isLt x1.isLt x2.isLt (by decide)
theorem WordBound.vshlImm (x0 : BitVec 7) (x1 : BitVec 7) (x2 : BitVec 8) : WordBound.Statement (.vshlImm x0 x1 x2) := fun _ => enc3_lt x0.isLt x1.isLt x2.isLt (by decide)
theorem WordBound.vshrImm (x0 : BitVec 7) (x1 : BitVec 7) (x2 : BitVec 8) : WordBound.Statement (.vshrImm x0 x1 x2) := fun _ => enc3_lt x0.isLt x1.isLt x2.isLt (by decide)
theorem WordBound.vsraImm (x0 : BitVec 7) (x1 : BitVec 7) (x2 : BitVec 8) : WordBound.Statement (.vsraImm x0 x1 x2) := fun _ => enc3_lt x0.isLt x1.isLt x2.isLt (by decide)
theorem WordBound.vminI32Imm (x0 : BitVec 7) (x1 : BitVec 7) (x2 : BitVec 8) : WordBound.Statement (.vminI32Imm x0 x1 x2) := fun _ => enc3_lt x0.isLt x1.isLt x2.isLt (by decide)
theorem WordBound.vminN32Imm (x0 : BitVec 7) (x1 : BitVec 7) (x2 : BitVec 8) : WordBound.Statement (.vminN32Imm x0 x1 x2) := fun _ => enc3_lt x0.isLt x1.isLt x2.isLt (by decide)
theorem WordBound.vmaxI32Imm (x0 : BitVec 7) (x1 : BitVec 7) (x2 : BitVec 8) : WordBound.Statement (.vmaxI32Imm x0 x1 x2) := fun _ => enc3_lt x0.isLt x1.isLt x2.isLt (by decide)
theorem WordBound.vmaxN32Imm (x0 : BitVec 7) (x1 : BitVec 7) (x2 : BitVec 8) : WordBound.Statement (.vmaxN32Imm x0 x1 x2) := fun _ => enc3_lt x0.isLt x1.isLt x2.isLt (by decide)
theorem WordBound.vabsdI32Imm (x0 : BitVec 7) (x1 : BitVec 7) (x2 : BitVec 8) : WordBound.Statement (.vabsdI32Imm x0 x1 x2) := fun _ => enc3_lt x0.isLt x1.isLt x2.isLt (by decide)
theorem WordBound.vabsdN32Imm (x0 : BitVec 7) (x1 : BitVec 7) (x2 : BitVec 8) : WordBound.Statement (.vabsdN32Imm x0 x1 x2) := fun _ => enc3_lt x0.isLt x1.isLt x2.isLt (by decide)
theorem WordBound.vfadd (x0 : BitVec 7) (x1 : BitVec 7) (x2 : BitVec 7) : WordBound.Statement (.vfadd x0 x1 x2) := fun _ => enc3_lt x0.isLt x1.isLt x2.isLt (by decide)
theorem WordBound.vfsub (x0 : BitVec 7) (x1 : BitVec 7) (x2 : BitVec 7) : WordBound.Statement (.vfsub x0 x1 x2) := fun _ => enc3_lt x0.isLt x1.isLt x2.isLt (by decide)
theorem WordBound.vfmul (x0 : BitVec 7) (x1 : BitVec 7) (x2 : BitVec 7) : WordBound.Statement (.vfmul x0 x1 x2) := fun _ => enc3_lt x0.isLt x1.isLt x2.isLt (by decide)
theorem WordBound.vfmin (x0 : BitVec 7) (x1 : BitVec 7) (x2 : BitVec 7) : WordBound.Statement (.vfmin x0 x1 x2) := fun _ => enc3_lt x0.isLt x1.isLt x2.isLt (by decide)
theorem WordBound.vfmax (x0 : BitVec 7) (x1 : BitVec 7) (x2 : BitVec 7) : WordBound.Statement (.vfmax x0 x1 x2) := fun _ => enc3_lt x0.isLt x1.isLt x2.isLt (by decide)
theorem WordBound.vfscale (x0 : BitVec 7) (x1 : BitVec 7) (x2 : BitVec 7) : WordBound.Statement (.vfscale x0 x1 x2) := fun _ => enc3_lt x0.isLt x1.isLt x2.isLt (by decide)
theorem WordBound.vfclass (x0 : BitVec 7) (x1 : BitVec 7) : WordBound.Statement (.vfclass x0 x1) := fun _ => enc2_lt x0.isLt x1.isLt (by decide)
theorem WordBound.vhadd (x0 : BitVec 7) (x1 : BitVec 7) (x2 : BitVec 7) : WordBound.Statement (.vhadd x0 x1 x2) := fun _ => enc3_lt x0.isLt x1.isLt x2.isLt (by decide)
theorem WordBound.vhmul (x0 : BitVec 7) (x1 : BitVec 7) (x2 : BitVec 7) : WordBound.Statement (.vhmul x0 x1 x2) := fun _ => enc3_lt x0.isLt x1.isLt x2.isLt (by decide)
theorem WordBound.vffma (x0 : BitVec 7) (x1 : BitVec 7) (x2 : BitVec 7) : WordBound.Statement (.vffma x0 x1 x2) := fun _ => enc3_lt x0.isLt x1.isLt x2.isLt (by decide)
theorem WordBound.vhfma (x0 : BitVec 7) (x1 : BitVec 7) (x2 : BitVec 7) : WordBound.Statement (.vhfma x0 x1 x2) := fun _ => enc3_lt x0.isLt x1.isLt x2.isLt (by decide)
theorem WordBound.vfrcp (x0 : BitVec 7) (x1 : BitVec 7) : WordBound.Statement (.vfrcp x0 x1) := fun _ => enc2_lt x0.isLt x1.isLt (by decide)
theorem WordBound.vfrsq (x0 : BitVec 7) (x1 : BitVec 7) : WordBound.Statement (.vfrsq x0 x1) := fun _ => enc2_lt x0.isLt x1.isLt (by decide)
theorem WordBound.vfsqrt (x0 : BitVec 7) (x1 : BitVec 7) : WordBound.Statement (.vfsqrt x0 x1) := fun _ => enc2_lt x0.isLt x1.isLt (by decide)
theorem WordBound.vfdiv (x0 : BitVec 7) (x1 : BitVec 7) (x2 : BitVec 7) : WordBound.Statement (.vfdiv x0 x1 x2) := fun _ => enc3_lt x0.isLt x1.isLt x2.isLt (by decide)
theorem WordBound.vfexp2 (x0 : BitVec 7) (x1 : BitVec 7) : WordBound.Statement (.vfexp2 x0 x1) := fun _ => enc2_lt x0.isLt x1.isLt (by decide)
theorem WordBound.vflog2 (x0 : BitVec 7) (x1 : BitVec 7) : WordBound.Statement (.vflog2 x0 x1) := fun _ => enc2_lt x0.isLt x1.isLt (by decide)
theorem WordBound.vfsin (x0 : BitVec 7) (x1 : BitVec 7) : WordBound.Statement (.vfsin x0 x1) := fun _ => enc2_lt x0.isLt x1.isLt (by decide)
theorem WordBound.vfcos (x0 : BitVec 7) (x1 : BitVec 7) : WordBound.Statement (.vfcos x0 x1) := fun _ => enc2_lt x0.isLt x1.isLt (by decide)
theorem WordBound.vfexp (x0 : BitVec 7) (x1 : BitVec 7) : WordBound.Statement (.vfexp x0 x1) := fun _ => enc2_lt x0.isLt x1.isLt (by decide)
theorem WordBound.vfcvtF32I32 (x0 : BitVec 7) (x1 : BitVec 7) : WordBound.Statement (.vfcvtF32I32 x0 x1) := fun _ => enc2_lt x0.isLt x1.isLt (by decide)
theorem WordBound.vfcvtF32N32 (x0 : BitVec 7) (x1 : BitVec 7) : WordBound.Statement (.vfcvtF32N32 x0 x1) := fun _ => enc2_lt x0.isLt x1.isLt (by decide)
theorem WordBound.vfcvtI32F32 (x0 : BitVec 7) (x1 : BitVec 7) : WordBound.Statement (.vfcvtI32F32 x0 x1) := fun _ => enc2_lt x0.isLt x1.isLt (by decide)
theorem WordBound.vfcvtN32F32 (x0 : BitVec 7) (x1 : BitVec 7) : WordBound.Statement (.vfcvtN32F32 x0 x1) := fun _ => enc2_lt x0.isLt x1.isLt (by decide)
theorem WordBound.vfcvtF32F16 (x0 : BitVec 7) (x1 : BitVec 7) (x2 : BitVec 4) : WordBound.Statement (.vfcvtF32F16 x0 x1 x2) := fun _ => enc3_lt x0.isLt x1.isLt x2.isLt (by decide)
theorem WordBound.vfcvtF16F32 (x0 : BitVec 7) (x1 : BitVec 7) (x2 : BitVec 4) : WordBound.Statement (.vfcvtF16F32 x0 x1 x2) := fun _ => enc3_lt x0.isLt x1.isLt x2.isLt (by decide)
theorem WordBound.vfcvtF32Bf16 (x0 : BitVec 7) (x1 : BitVec 7) (x2 : BitVec 4) : WordBound.Statement (.vfcvtF32Bf16 x0 x1 x2) := fun _ => enc3_lt x0.isLt x1.isLt x2.isLt (by decide)
theorem WordBound.vfcvtBf16F32 (x0 : BitVec 7) (x1 : BitVec 7) (x2 : BitVec 4) : WordBound.Statement (.vfcvtBf16F32 x0 x1 x2) := fun _ => enc3_lt x0.isLt x1.isLt x2.isLt (by decide)
theorem WordBound.vfcvtF32E4m3 (x0 : BitVec 7) (x1 : BitVec 7) (x2 : BitVec 4) : WordBound.Statement (.vfcvtF32E4m3 x0 x1 x2) := fun _ => enc3_lt x0.isLt x1.isLt x2.isLt (by decide)
theorem WordBound.vfcvtE4m3F32 (x0 : BitVec 7) (x1 : BitVec 7) (x2 : BitVec 4) : WordBound.Statement (.vfcvtE4m3F32 x0 x1 x2) := fun _ => enc3_lt x0.isLt x1.isLt x2.isLt (by decide)
theorem WordBound.vfcvtF32E5m2 (x0 : BitVec 7) (x1 : BitVec 7) (x2 : BitVec 4) : WordBound.Statement (.vfcvtF32E5m2 x0 x1 x2) := fun _ => enc3_lt x0.isLt x1.isLt x2.isLt (by decide)
theorem WordBound.vfcvtE5m2F32 (x0 : BitVec 7) (x1 : BitVec 7) (x2 : BitVec 4) : WordBound.Statement (.vfcvtE5m2F32 x0 x1 x2) := fun _ => enc3_lt x0.isLt x1.isLt x2.isLt (by decide)
theorem WordBound.vfcvtI32I8 (x0 : BitVec 7) (x1 : BitVec 7) (x2 : BitVec 4) : WordBound.Statement (.vfcvtI32I8 x0 x1 x2) := fun _ => enc3_lt x0.isLt x1.isLt x2.isLt (by decide)
theorem WordBound.vfcvtI8I32 (x0 : BitVec 7) (x1 : BitVec 7) (x2 : BitVec 4) : WordBound.Statement (.vfcvtI8I32 x0 x1 x2) := fun _ => enc3_lt x0.isLt x1.isLt x2.isLt (by decide)
theorem WordBound.vfcvtI32Tri (x0 : BitVec 7) (x1 : BitVec 7) (x2 : BitVec 4) : WordBound.Statement (.vfcvtI32Tri x0 x1 x2) := fun _ => enc3_lt x0.isLt x1.isLt x2.isLt (by decide)
theorem WordBound.vfcvtTriI32 (x0 : BitVec 7) (x1 : BitVec 7) (x2 : BitVec 4) : WordBound.Statement (.vfcvtTriI32 x0 x1 x2) := fun _ => enc3_lt x0.isLt x1.isLt x2.isLt (by decide)
theorem WordBound.vncvtF32 (x0 : BitVec 7) (x1 : BitVec 7) (x2 : BitVec 4) (x3 : BitVec 2) : WordBound.Statement (.vncvtF32 x0 x1 x2 x3) := fun _ => enc4_lt x0.isLt x1.isLt x2.isLt x3.isLt (by decide)
theorem WordBound.vncvtNf (x0 : BitVec 7) (x1 : BitVec 7) (x2 : BitVec 4) (x3 : BitVec 2) : WordBound.Statement (.vncvtNf x0 x1 x2 x3) := fun _ => enc4_lt x0.isLt x1.isLt x2.isLt x3.isLt (by decide)
theorem WordBound.vfcvtI32I16 (x0 : BitVec 7) (x1 : BitVec 7) (x2 : BitVec 4) : WordBound.Statement (.vfcvtI32I16 x0 x1 x2) := fun _ => enc3_lt x0.isLt x1.isLt x2.isLt (by decide)
theorem WordBound.vfcvtI16I32 (x0 : BitVec 7) (x1 : BitVec 7) (x2 : BitVec 4) : WordBound.Statement (.vfcvtI16I32 x0 x1 x2) := fun _ => enc3_lt x0.isLt x1.isLt x2.isLt (by decide)
theorem WordBound.vfcvtN32N8 (x0 : BitVec 7) (x1 : BitVec 7) (x2 : BitVec 4) : WordBound.Statement (.vfcvtN32N8 x0 x1 x2) := fun _ => enc3_lt x0.isLt x1.isLt x2.isLt (by decide)
theorem WordBound.vfcvtN8N32 (x0 : BitVec 7) (x1 : BitVec 7) (x2 : BitVec 4) : WordBound.Statement (.vfcvtN8N32 x0 x1 x2) := fun _ => enc3_lt x0.isLt x1.isLt x2.isLt (by decide)
theorem WordBound.vfcvtN32N16 (x0 : BitVec 7) (x1 : BitVec 7) (x2 : BitVec 4) : WordBound.Statement (.vfcvtN32N16 x0 x1 x2) := fun _ => enc3_lt x0.isLt x1.isLt x2.isLt (by decide)
theorem WordBound.vfcvtN16N32 (x0 : BitVec 7) (x1 : BitVec 7) (x2 : BitVec 4) : WordBound.Statement (.vfcvtN16N32 x0 x1 x2) := fun _ => enc3_lt x0.isLt x1.isLt x2.isLt (by decide)
theorem WordBound.vshfl (x0 : BitVec 7) (x1 : BitVec 7) (x2 : BitVec 7) : WordBound.Statement (.vshfl x0 x1 x2) := fun _ => enc3_lt x0.isLt x1.isLt x2.isLt (by decide)
theorem WordBound.vbfly (x0 : BitVec 7) (x1 : BitVec 7) (x2 : BitVec 7) : WordBound.Statement (.vbfly x0 x1 x2) := fun _ => enc3_lt x0.isLt x1.isLt x2.isLt (by decide)
theorem WordBound.vbcast (x0 : BitVec 7) (x1 : BitVec 7) (x2 : BitVec 7) : WordBound.Statement (.vbcast x0 x1 x2) := fun _ => enc3_lt x0.isLt x1.isLt x2.isLt (by decide)
theorem WordBound.vrfl (x0 : BitVec 7) (x1 : BitVec 7) : WordBound.Statement (.vrfl x0 x1) := fun _ => enc2_lt x0.isLt x1.isLt (by decide)
theorem WordBound.vred (x0 : BitVec 7) (x1 : BitVec 7) (x2 : RedOp) (x3 : ElemTy) : WordBound.Statement (.vred x0 x1 x2 x3) := fun _ => enc4_lt x0.isLt x1.isLt (code_RedOp x2) (code_ElemTy x3) (by decide)
theorem WordBound.vredmi (x0 : BitVec 7) (x1 : BitVec 7) (x2 : ElemTy) : WordBound.Statement (.vredmi x0 x1 x2) := fun _ => enc3_lt x0.isLt x1.isLt (code_ElemTy x2) (by decide)
theorem WordBound.vscan (x0 : BitVec 7) (x1 : BitVec 7) (x2 : RedOp) (x3 : ElemTy) (x4 : Bool) : WordBound.Statement (.vscan x0 x1 x2 x3 x4) := fun _ => enc5_lt x0.isLt x1.isLt (code_RedOp x2) (code_ElemTy x3) (b1 x4) (by decide)
theorem WordBound.vnbr (x0 : BitVec 7) (x1 : BitVec 7) (x2 : NbrSel) (x3 : BitVec 3) : WordBound.Statement (.vnbr x0 x1 x2 x3) := fun _ => enc4_lt x0.isLt x1.isLt (code_NbrSel x2) x3.isLt (by decide)
theorem WordBound.vddx (x0 : BitVec 7) (x1 : BitVec 7) (x2 : BitVec 3) : WordBound.Statement (.vddx x0 x1 x2) := fun _ => enc3_lt x0.isLt x1.isLt x2.isLt (by decide)
theorem WordBound.vddy (x0 : BitVec 7) (x1 : BitVec 7) (x2 : BitVec 3) : WordBound.Statement (.vddy x0 x1 x2) := fun _ => enc3_lt x0.isLt x1.isLt x2.isLt (by decide)
theorem WordBound.vballot (x0 : BitVec 7) (x1 : BitVec 3) : WordBound.Statement (.vballot x0 x1) := fun _ => enc2_lt x0.isLt x1.isLt (by decide)
theorem WordBound.vcount (x0 : BitVec 7) (x1 : BitVec 3) : WordBound.Statement (.vcount x0 x1) := fun _ => enc2_lt x0.isLt x1.isLt (by decide)
theorem WordBound.vcmpI32 (x0 : BitVec 3) (x1 : CmpCond) (x2 : BitVec 7) (x3 : BitVec 7) (x4 : CmpMode) : WordBound.Statement (.vcmpI32 x0 x1 x2 x3 x4) := fun _ => enc5_lt x0.isLt (code_CmpCond x1) x2.isLt x3.isLt (code_CmpMode x4) (by decide)
theorem WordBound.vcmpN32 (x0 : BitVec 3) (x1 : CmpCond) (x2 : BitVec 7) (x3 : BitVec 7) (x4 : CmpMode) : WordBound.Statement (.vcmpN32 x0 x1 x2 x3 x4) := fun _ => enc5_lt x0.isLt (code_CmpCond x1) x2.isLt x3.isLt (code_CmpMode x4) (by decide)
theorem WordBound.vfcmp (x0 : BitVec 3) (x1 : CmpCond) (x2 : BitVec 7) (x3 : BitVec 7) (x4 : CmpMode) : WordBound.Statement (.vfcmp x0 x1 x2 x3 x4) := fun _ => enc5_lt x0.isLt (code_CmpCond x1) x2.isLt x3.isLt (code_CmpMode x4) (by decide)
theorem WordBound.kand (x0 : BitVec 3) (x1 : BitVec 3) (x2 : BitVec 3) (x3 : Bool) : WordBound.Statement (.kand x0 x1 x2 x3) := fun _ => enc4_lt x0.isLt x1.isLt x2.isLt (b1 x3) (by decide)
theorem WordBound.kor (x0 : BitVec 3) (x1 : BitVec 3) (x2 : BitVec 3) (x3 : Bool) : WordBound.Statement (.kor x0 x1 x2 x3) := fun _ => enc4_lt x0.isLt x1.isLt x2.isLt (b1 x3) (by decide)
theorem WordBound.kxor (x0 : BitVec 3) (x1 : BitVec 3) (x2 : BitVec 3) (x3 : Bool) : WordBound.Statement (.kxor x0 x1 x2 x3) := fun _ => enc4_lt x0.isLt x1.isLt x2.isLt (b1 x3) (by decide)
theorem WordBound.kandn (x0 : BitVec 3) (x1 : BitVec 3) (x2 : BitVec 3) (x3 : Bool) : WordBound.Statement (.kandn x0 x1 x2 x3) := fun _ => enc4_lt x0.isLt x1.isLt x2.isLt (b1 x3) (by decide)
theorem WordBound.knot (x0 : BitVec 3) (x1 : BitVec 3) (x2 : Bool) : WordBound.Statement (.knot x0 x1 x2) := fun _ => enc3_lt x0.isLt x1.isLt (b1 x2) (by decide)
theorem WordBound.kmov (x0 : BitVec 3) (x1 : BitVec 3) (x2 : Bool) : WordBound.Statement (.kmov x0 x1 x2) := fun _ => enc3_lt x0.isLt x1.isLt (b1 x2) (by decide)
theorem WordBound.kmovFromScalar (x0 : BitVec 3) (x1 : BitVec 7) : WordBound.Statement (.kmovFromScalar x0 x1) := fun _ => enc2_lt x0.isLt x1.isLt (by decide)
theorem WordBound.kmovToScalar (x0 : BitVec 3) (x1 : BitVec 7) : WordBound.Statement (.kmovToScalar x0 x1) := fun _ => enc2_lt x0.isLt x1.isLt (by decide)
theorem WordBound.kpop (x0 : BitVec 3) (x1 : BitVec 7) : WordBound.Statement (.kpop x0 x1) := fun _ => enc2_lt x0.isLt x1.isLt (by decide)
theorem WordBound.kany (x0 : BitVec 3) (x1 : BitVec 3) : WordBound.Statement (.kany x0 x1) := fun _ => enc2_lt x0.isLt x1.isLt (by decide)
theorem WordBound.kall (x0 : BitVec 3) (x1 : BitVec 3) : WordBound.Statement (.kall x0 x1) := fun _ => enc2_lt x0.isLt x1.isLt (by decide)
theorem WordBound.vnadd (x0 : BitVec 7) (x1 : BitVec 7) (x2 : BitVec 7) (x3 : BitVec 2) : WordBound.Statement (.vnadd x0 x1 x2 x3) := fun _ => enc4_lt x0.isLt x1.isLt x2.isLt x3.isLt (by decide)
theorem WordBound.vnmul (x0 : BitVec 7) (x1 : BitVec 7) (x2 : BitVec 7) (x3 : BitVec 2) : WordBound.Statement (.vnmul x0 x1 x2 x3) := fun _ => enc4_lt x0.isLt x1.isLt x2.isLt x3.isLt (by decide)
theorem WordBound.vnfma (x0 : BitVec 7) (x1 : BitVec 7) (x2 : BitVec 7) (x3 : BitVec 2) : WordBound.Statement (.vnfma x0 x1 x2 x3) := fun _ => enc4_lt x0.isLt x1.isLt x2.isLt x3.isLt (by decide)
theorem WordBound.vsel (x0 : BitVec 7) (x1 : BitVec 7) (x2 : BitVec 7) (x3 : BitVec 3) : WordBound.Statement (.vsel x0 x1 x2 x3) := fun _ => enc4_lt x0.isLt x1.isLt x2.isLt x3.isLt (by decide)
theorem WordBound.vmov (x0 : BitVec 7) (x1 : BitVec 7) : WordBound.Statement (.vmov x0 x1) := fun _ => enc2_lt x0.isLt x1.isLt (by decide)
theorem WordBound.vmovScalar (x0 : BitVec 7) (x1 : BitVec 7) : WordBound.Statement (.vmovScalar x0 x1) := fun _ => enc2_lt x0.isLt x1.isLt (by decide)
theorem WordBound.vmovi (x0 : BitVec 7) (x1 : BitVec 14) : WordBound.Statement (.vmovi x0 x1) := fun _ => enc2_lt x0.isLt x1.isLt (by decide)
theorem WordBound.vsr (x0 : BitVec 7) (x1 : BitVec 12) : WordBound.Statement (.vsr x0 x1) := fun _ => enc2_lt x0.isLt x1.isLt (by decide)
theorem WordBound.vld (x0 : BitVec 7) (x1 : BitVec 7) (x2 : BitVec 7) (x3 : MemWidth) (x4 : Space) : WordBound.Statement (.vld x0 x1 x2 x3 x4) := fun _ => enc5_lt x0.isLt x1.isLt x2.isLt (code_MemWidth x3) (code_Space x4) (by decide)
theorem WordBound.vst (x0 : BitVec 7) (x1 : BitVec 7) (x2 : BitVec 7) (x3 : MemWidth) (x4 : Space) : WordBound.Statement (.vst x0 x1 x2 x3 x4) := fun _ => enc5_lt x0.isLt x1.isLt x2.isLt (code_MemWidth x3) (code_Space x4) (by decide)
theorem WordBound.sld (x0 : BitVec 7) (x1 : BitVec 6) (x2 : BitVec 7) (x3 : MemWidth) (x4 : Space) : WordBound.Statement (.sld x0 x1 x2 x3 x4) := fun _ => enc5_lt x0.isLt x1.isLt x2.isLt (code_MemWidth x3) (code_Space x4) (by decide)
theorem WordBound.sst (x0 : BitVec 7) (x1 : BitVec 6) (x2 : BitVec 7) (x3 : MemWidth) (x4 : Space) : WordBound.Statement (.sst x0 x1 x2 x3 x4) := fun _ => enc5_lt x0.isLt x1.isLt x2.isLt (code_MemWidth x3) (code_Space x4) (by decide)
theorem WordBound.vatomAddN32 (x0 : BitVec 7) (x1 : BitVec 7) (x2 : BitVec 7) (x3 : Bool) : WordBound.Statement (.vatomAddN32 x0 x1 x2 x3) := fun _ => enc4_lt x0.isLt x1.isLt x2.isLt (b1 x3) (by decide)
theorem WordBound.vatomAddF32 (x0 : BitVec 7) (x1 : BitVec 7) (x2 : BitVec 7) (x3 : Bool) : WordBound.Statement (.vatomAddF32 x0 x1 x2 x3) := fun _ => enc4_lt x0.isLt x1.isLt x2.isLt (b1 x3) (by decide)
theorem WordBound.vatomMinI32 (x0 : BitVec 7) (x1 : BitVec 7) (x2 : BitVec 7) (x3 : Bool) : WordBound.Statement (.vatomMinI32 x0 x1 x2 x3) := fun _ => enc4_lt x0.isLt x1.isLt x2.isLt (b1 x3) (by decide)
theorem WordBound.vatomMinN32 (x0 : BitVec 7) (x1 : BitVec 7) (x2 : BitVec 7) (x3 : Bool) : WordBound.Statement (.vatomMinN32 x0 x1 x2 x3) := fun _ => enc4_lt x0.isLt x1.isLt x2.isLt (b1 x3) (by decide)
theorem WordBound.vatomMaxI32 (x0 : BitVec 7) (x1 : BitVec 7) (x2 : BitVec 7) (x3 : Bool) : WordBound.Statement (.vatomMaxI32 x0 x1 x2 x3) := fun _ => enc4_lt x0.isLt x1.isLt x2.isLt (b1 x3) (by decide)
theorem WordBound.vatomMaxN32 (x0 : BitVec 7) (x1 : BitVec 7) (x2 : BitVec 7) (x3 : Bool) : WordBound.Statement (.vatomMaxN32 x0 x1 x2 x3) := fun _ => enc4_lt x0.isLt x1.isLt x2.isLt (b1 x3) (by decide)
theorem WordBound.vatomAnd (x0 : BitVec 7) (x1 : BitVec 7) (x2 : BitVec 7) (x3 : Bool) : WordBound.Statement (.vatomAnd x0 x1 x2 x3) := fun _ => enc4_lt x0.isLt x1.isLt x2.isLt (b1 x3) (by decide)
theorem WordBound.vatomOr (x0 : BitVec 7) (x1 : BitVec 7) (x2 : BitVec 7) (x3 : Bool) : WordBound.Statement (.vatomOr x0 x1 x2 x3) := fun _ => enc4_lt x0.isLt x1.isLt x2.isLt (b1 x3) (by decide)
theorem WordBound.vatomXor (x0 : BitVec 7) (x1 : BitVec 7) (x2 : BitVec 7) (x3 : Bool) : WordBound.Statement (.vatomXor x0 x1 x2 x3) := fun _ => enc4_lt x0.isLt x1.isLt x2.isLt (b1 x3) (by decide)
theorem WordBound.vatomSwap (x0 : BitVec 7) (x1 : BitVec 7) (x2 : BitVec 7) (x3 : Bool) : WordBound.Statement (.vatomSwap x0 x1 x2 x3) := fun _ => enc4_lt x0.isLt x1.isLt x2.isLt (b1 x3) (by decide)
theorem WordBound.vatomCas (x0 : BitVec 7) (x1 : BitVec 7) (x2 : BitVec 7) (x3 : Bool) : WordBound.Statement (.vatomCas x0 x1 x2 x3) := fun _ => enc4_lt x0.isLt x1.isLt x2.isLt (b1 x3) (by decide)
theorem WordBound.vatomAddN64 (x0 : BitVec 7) (x1 : BitVec 7) (x2 : BitVec 7) (x3 : Bool) : WordBound.Statement (.vatomAddN64 x0 x1 x2 x3) := fun _ => enc4_lt x0.isLt x1.isLt x2.isLt (b1 x3) (by decide)
theorem WordBound.satomAddN32 (x0 : BitVec 7) (x1 : BitVec 7) (x2 : BitVec 7) (x3 : Bool) : WordBound.Statement (.satomAddN32 x0 x1 x2 x3) := fun _ => enc4_lt x0.isLt x1.isLt x2.isLt (b1 x3) (by decide)
theorem WordBound.satomAddF32 (x0 : BitVec 7) (x1 : BitVec 7) (x2 : BitVec 7) (x3 : Bool) : WordBound.Statement (.satomAddF32 x0 x1 x2 x3) := fun _ => enc4_lt x0.isLt x1.isLt x2.isLt (b1 x3) (by decide)
theorem WordBound.satomMinI32 (x0 : BitVec 7) (x1 : BitVec 7) (x2 : BitVec 7) (x3 : Bool) : WordBound.Statement (.satomMinI32 x0 x1 x2 x3) := fun _ => enc4_lt x0.isLt x1.isLt x2.isLt (b1 x3) (by decide)
theorem WordBound.satomMinN32 (x0 : BitVec 7) (x1 : BitVec 7) (x2 : BitVec 7) (x3 : Bool) : WordBound.Statement (.satomMinN32 x0 x1 x2 x3) := fun _ => enc4_lt x0.isLt x1.isLt x2.isLt (b1 x3) (by decide)
theorem WordBound.satomMaxI32 (x0 : BitVec 7) (x1 : BitVec 7) (x2 : BitVec 7) (x3 : Bool) : WordBound.Statement (.satomMaxI32 x0 x1 x2 x3) := fun _ => enc4_lt x0.isLt x1.isLt x2.isLt (b1 x3) (by decide)
theorem WordBound.satomMaxN32 (x0 : BitVec 7) (x1 : BitVec 7) (x2 : BitVec 7) (x3 : Bool) : WordBound.Statement (.satomMaxN32 x0 x1 x2 x3) := fun _ => enc4_lt x0.isLt x1.isLt x2.isLt (b1 x3) (by decide)
theorem WordBound.satomAnd (x0 : BitVec 7) (x1 : BitVec 7) (x2 : BitVec 7) (x3 : Bool) : WordBound.Statement (.satomAnd x0 x1 x2 x3) := fun _ => enc4_lt x0.isLt x1.isLt x2.isLt (b1 x3) (by decide)
theorem WordBound.satomOr (x0 : BitVec 7) (x1 : BitVec 7) (x2 : BitVec 7) (x3 : Bool) : WordBound.Statement (.satomOr x0 x1 x2 x3) := fun _ => enc4_lt x0.isLt x1.isLt x2.isLt (b1 x3) (by decide)
theorem WordBound.satomXor (x0 : BitVec 7) (x1 : BitVec 7) (x2 : BitVec 7) (x3 : Bool) : WordBound.Statement (.satomXor x0 x1 x2 x3) := fun _ => enc4_lt x0.isLt x1.isLt x2.isLt (b1 x3) (by decide)
theorem WordBound.satomSwap (x0 : BitVec 7) (x1 : BitVec 7) (x2 : BitVec 7) (x3 : Bool) : WordBound.Statement (.satomSwap x0 x1 x2 x3) := fun _ => enc4_lt x0.isLt x1.isLt x2.isLt (b1 x3) (by decide)
theorem WordBound.satomCas (x0 : BitVec 7) (x1 : BitVec 7) (x2 : BitVec 7) (x3 : Bool) : WordBound.Statement (.satomCas x0 x1 x2 x3) := fun _ => enc4_lt x0.isLt x1.isLt x2.isLt (b1 x3) (by decide)
theorem WordBound.satomAddN64 (x0 : BitVec 7) (x1 : BitVec 7) (x2 : BitVec 7) (x3 : Bool) : WordBound.Statement (.satomAddN64 x0 x1 x2 x3) := fun _ => enc4_lt x0.isLt x1.isLt x2.isLt (b1 x3) (by decide)
theorem WordBound.fence (x0 : BitVec 4) (x1 : BitVec 4) (x2 : Scope) : WordBound.Statement (.fence x0 x1 x2) := fun _ => enc3_lt x0.isLt x1.isLt (code_Scope x2) (by decide)
theorem WordBound.fenceOwn (x0 : Scope) : WordBound.Statement (.fenceOwn x0) := fun _ => enc1_lt (code_Scope x0) (by decide)
theorem WordBound.fenceFar (x0 : Scope) : WordBound.Statement (.fenceFar x0) := fun _ => enc1_lt (code_Scope x0) (by decide)
theorem WordBound.qpush (x0 : Bool) (x1 : BitVec 3) (x2 : BitVec 3) (x3 : BitVec 7) : WordBound.Statement (.qpush x0 x1 x2 x3) := fun _ => enc4_lt (b1 x0) x1.isLt x2.isLt x3.isLt (by decide)
theorem WordBound.qpop (x0 : Bool) (x1 : BitVec 3) (x2 : BitVec 3) (x3 : BitVec 7) : WordBound.Statement (.qpop x0 x1 x2 x3) := fun _ => enc4_lt (b1 x0) x1.isLt x2.isLt x3.isLt (by decide)
theorem WordBound.tqEnq (x0 : Bool) (x1 : BitVec 3) (x2 : BitVec 7) : WordBound.Statement (.tqEnq x0 x1 x2) := fun _ => enc3_lt (b1 x0) x1.isLt x2.isLt (by decide)
theorem WordBound.tqDeq (x0 : Bool) (x1 : BitVec 3) (x2 : BitVec 7) : WordBound.Statement (.tqDeq x0 x1 x2) := fun _ => enc3_lt (b1 x0) x1.isLt x2.isLt (by decide)
theorem WordBound.mint (x0 : BitVec 7) (x1 : BitVec 7) : WordBound.Statement (.mint x0 x1) := fun _ => enc2_lt x0.isLt x1.isLt (by decide)
theorem WordBound.vpin (x0 : BitVec 7) (x1 : BitVec 7) : WordBound.Statement (.vpin x0 x1) := fun _ => enc2_lt x0.isLt x1.isLt (by decide)
theorem WordBound.xput (x0 : BitVec 7) (x1 : BitVec 7) (x2 : BitVec 7) (x3 : MemWidth) (x4 : BitVec 2) : WordBound.Statement (.xput x0 x1 x2 x3 x4) := fun _ => enc5_lt x0.isLt x1.isLt x2.isLt (code_MemWidth x3) x4.isLt (by decide)
theorem WordBound.cpTile (x0 : BitVec 7) (x1 : BitVec 7) (x2 : BitVec 7) : WordBound.Statement (.cpTile x0 x1 x2) := fun _ => enc3_lt x0.isLt x1.isLt x2.isLt (by decide)
theorem WordBound.cpBdeck (x0 : BitVec 7) (x1 : BitVec 7) (x2 : BitVec 7) : WordBound.Statement (.cpBdeck x0 x1 x2) := fun _ => enc3_lt x0.isLt x1.isLt x2.isLt (by decide)
theorem WordBound.cpStore (x0 : BitVec 7) (x1 : BitVec 7) (x2 : BitVec 7) : WordBound.Statement (.cpStore x0 x1 x2) := fun _ => enc3_lt x0.isLt x1.isLt x2.isLt (by decide)
theorem WordBound.cpCopy (x0 : BitVec 7) (x1 : BitVec 7) (x2 : BitVec 7) : WordBound.Statement (.cpCopy x0 x1 x2) := fun _ => enc3_lt x0.isLt x1.isLt x2.isLt (by decide)
theorem WordBound.tdef (x0 : BitVec 7) (x1 : BitVec 7) : WordBound.Statement (.tdef x0 x1) := fun _ => enc2_lt x0.isLt x1.isLt (by decide)
theorem WordBound.tfree (x0 : BitVec 7) : WordBound.Statement (.tfree x0) := fun _ => enc1_lt x0.isLt (by decide)
theorem WordBound.tstat (x0 : BitVec 7) (x1 : BitVec 7) : WordBound.Statement (.tstat x0 x1) := fun _ => enc2_lt x0.isLt x1.isLt (by decide)
theorem WordBound.tex3 (x0 : BitVec 7) (x1 : BitVec 7) (x2 : BitVec 7) : WordBound.Statement (.tex3 x0 x1 x2) := fun _ => enc3_lt x0.isLt x1.isLt x2.isLt (by decide)
theorem WordBound.texp (x0 : BitVec 7) (x1 : BitVec 7) (x2 : BitVec 7) : WordBound.Statement (.texp x0 x1 x2) := fun _ => enc3_lt x0.isLt x1.isLt x2.isLt (by decide)
theorem WordBound.isectRay (x0 : BitVec 7) (x1 : BitVec 7) (x2 : BitVec 7) : WordBound.Statement (.isectRay x0 x1 x2) := fun _ => enc3_lt x0.isLt x1.isLt x2.isLt (by decide)
theorem WordBound.isectTile (x0 : BitVec 7) (x1 : BitVec 7) (x2 : BitVec 7) : WordBound.Statement (.isectTile x0 x1 x2) := fun _ => enc3_lt x0.isLt x1.isLt x2.isLt (by decide)
theorem WordBound.isectNext (x0 : BitVec 7) : WordBound.Statement (.isectNext x0) := fun _ => enc1_lt x0.isLt (by decide)
theorem WordBound.hdesc (x0 : BitVec 7) : WordBound.Statement (.hdesc x0) := fun _ => enc1_lt x0.isLt (by decide)
theorem WordBound.hgath (x0 : BitVec 7) (x1 : BitVec 7) : WordBound.Statement (.hgath x0 x1) := fun _ => enc2_lt x0.isLt x1.isLt (by decide)
theorem WordBound.hscat (x0 : BitVec 7) (x1 : BitVec 7) : WordBound.Statement (.hscat x0 x1) := fun _ => enc2_lt x0.isLt x1.isLt (by decide)
theorem WordBound.vaccRd (x0 : BitVec 7) (x1 : BitVec 7) (x2 : BitVec 2) (x3 : BitVec 3) : WordBound.Statement (.vaccRd x0 x1 x2 x3) := fun _ => enc4_lt x0.isLt x1.isLt x2.isLt x3.isLt (by decide)
theorem WordBound.vaccWr (x0 : BitVec 7) (x1 : BitVec 7) (x2 : BitVec 2) (x3 : BitVec 3) : WordBound.Statement (.vaccWr x0 x1 x2 x3) := fun _ => enc4_lt x0.isLt x1.isLt x2.isLt x3.isLt (by decide)
theorem WordBound.mmaE4m3E4m3 (x0 : Bool) (x1 : BitVec 7) (x2 : BitVec 7) (x3 : BitVec 3) : WordBound.Statement (.mmaE4m3E4m3 x0 x1 x2 x3) := fun _ => enc4_lt (b1 x0) x1.isLt x2.isLt x3.isLt (by decide)
theorem WordBound.mmaE4m3E5m2 (x0 : Bool) (x1 : BitVec 7) (x2 : BitVec 7) (x3 : BitVec 3) : WordBound.Statement (.mmaE4m3E5m2 x0 x1 x2 x3) := fun _ => enc4_lt (b1 x0) x1.isLt x2.isLt x3.isLt (by decide)
theorem WordBound.mmaE5m2E4m3 (x0 : Bool) (x1 : BitVec 7) (x2 : BitVec 7) (x3 : BitVec 3) : WordBound.Statement (.mmaE5m2E4m3 x0 x1 x2 x3) := fun _ => enc4_lt (b1 x0) x1.isLt x2.isLt x3.isLt (by decide)
theorem WordBound.mmaE5m2E5m2 (x0 : Bool) (x1 : BitVec 7) (x2 : BitVec 7) (x3 : BitVec 3) : WordBound.Statement (.mmaE5m2E5m2 x0 x1 x2 x3) := fun _ => enc4_lt (b1 x0) x1.isLt x2.isLt x3.isLt (by decide)
theorem WordBound.mmaI8 (x0 : Bool) (x1 : BitVec 7) (x2 : BitVec 7) (x3 : BitVec 3) : WordBound.Statement (.mmaI8 x0 x1 x2 x3) := fun _ => enc4_lt (b1 x0) x1.isLt x2.isLt x3.isLt (by decide)
theorem WordBound.mmaBf16 (x0 : Bool) (x1 : BitVec 7) (x2 : BitVec 7) (x3 : BitVec 3) : WordBound.Statement (.mmaBf16 x0 x1 x2 x3) := fun _ => enc4_lt (b1 x0) x1.isLt x2.isLt x3.isLt (by decide)
theorem WordBound.mmaF16 (x0 : Bool) (x1 : BitVec 7) (x2 : BitVec 7) (x3 : BitVec 3) : WordBound.Statement (.mmaF16 x0 x1 x2 x3) := fun _ => enc4_lt (b1 x0) x1.isLt x2.isLt x3.isLt (by decide)
theorem WordBound.mmaTriI8 (x0 : Bool) (x1 : BitVec 7) (x2 : BitVec 7) (x3 : BitVec 3) : WordBound.Statement (.mmaTriI8 x0 x1 x2 x3) := fun _ => enc4_lt (b1 x0) x1.isLt x2.isLt x3.isLt (by decide)
theorem WordBound.mmapShape (x0 : BitVec 3) (x1 : BitVec 8) (x2 : BitVec 9) : WordBound.Statement (.mmapShape x0 x1 x2) := fun _ => enc3_lt x0.isLt x1.isLt x2.isLt (by decide)
theorem WordBound.mmapK (x0 : BitVec 3) (x1 : BitVec 13) (x2 : BitVec 8) : WordBound.Statement (.mmapK x0 x1 x2) := fun _ => enc3_lt x0.isLt x1.isLt x2.isLt (by decide)
theorem WordBound.mmapAcc (x0 : BitVec 3) (x1 : BitVec 10) (x2 : Bool) (x3 : Bool) : WordBound.Statement (.mmapAcc x0 x1 x2 x3) := fun _ => enc4_lt x0.isLt x1.isLt (b1 x2) (b1 x3) (by decide)
theorem WordBound.macz (x0 : BitVec 10) (x1 : BitVec 11) : WordBound.Statement (.macz x0 x1) := fun _ => enc2_lt x0.isLt x1.isLt (by decide)
theorem WordBound.mscl (x0 : BitVec 3) (x1 : BitVec 3) (x2 : BitVec 7) (x3 : MsclMode) : WordBound.Statement (.mscl x0 x1 x2 x3) := fun _ => enc4_lt x0.isLt x1.isLt x2.isLt (code_MsclMode x3) (by decide)
theorem WordBound.mbarWait (x0 : BitVec 4) : WordBound.Statement (.mbarWait x0) := fun _ => enc1_lt x0.isLt (by decide)
theorem WordBound.mbarSig (x0 : BitVec 4) : WordBound.Statement (.mbarSig x0) := fun _ => enc1_lt x0.isLt (by decide)
theorem WordBound.mloop (x0 : BitVec 2) (x1 : BitVec 21) : WordBound.Statement (.mloop x0 x1) := fun _ => enc2_lt x0.isLt x1.isLt (by decide)
theorem WordBound.mend  : WordBound.Statement (.mend) := fun _ => enc0_lt  (by decide)
theorem WordBound.mhalt  : WordBound.Statement (.mhalt) := fun _ => enc0_lt  (by decide)
theorem WordBound.mrel (x0 : BitVec 7) : WordBound.Statement (.mrel x0) := fun _ => enc1_lt x0.isLt (by decide)
theorem WordBound.mset (x0 : BitVec 2) (x1 : BitVec 21) : WordBound.Statement (.mset x0 x1) := fun _ => enc2_lt x0.isLt x1.isLt (by decide)
theorem WordBound.pfx (x0 : BitVec 24) : WordBound.Statement (.pfx x0) := fun _ => enc1_lt x0.isLt (by decide)
theorem WordBound.mod (x0 : ModFields) : WordBound.Statement (.mod x0) := by
  intro _; have h0 := b1 x0.vce; have h1 := x0.vc.isLt; have h2 := code_Rnd x0.rnd; have h3 := b1 x0.sat; have h4 := b1 x0.ftz; have h5 := x0.cpol.isLt; have h6 := b1 x0.w; have h7 := x0.pk.isLt; have h8 := b1 x0.split; have h9 := b1 x0.na; have h10 := b1 x0.nc
  simp only [encodeWord]; omega
theorem WordBound.sch (x0 : Bool) (x1 : BitVec 3) (x2 : BitVec 4) : WordBound.Statement (.sch x0 x1 x2) := fun _ => enc3_lt (b1 x0) x1.isLt x2.isLt (by decide)
theorem WordBound.send (x0 : BitVec 4) (x1 : BitVec 4) (x2 : BitVec 4) (x3 : BitVec 4) : WordBound.Statement (.send x0 x1 x2 x3) := fun _ => enc4_lt x0.isLt x1.isLt x2.isLt x3.isLt (by decide)
theorem WordBound.recv (x0 : BitVec 4) (x1 : BitVec 4) (x2 : BitVec 4) (x3 : BitVec 4) : WordBound.Statement (.recv x0 x1 x2 x3) := fun _ => enc4_lt x0.isLt x1.isLt x2.isLt x3.isLt (by decide)
theorem WordBound.redAddF32 (x0 : BitVec 4) (x1 : BitVec 4) (x2 : BitVec 4) (x3 : BitVec 4) (x4 : BitVec 4) (x5 : BitVec 4) : WordBound.Statement (.redAddF32 x0 x1 x2 x3 x4 x5) := fun _ => enc6_lt x0.isLt x1.isLt x2.isLt x3.isLt x4.isLt x5.isLt (by decide)
theorem WordBound.redAddI32 (x0 : BitVec 4) (x1 : BitVec 4) (x2 : BitVec 4) (x3 : BitVec 4) (x4 : BitVec 4) (x5 : BitVec 4) : WordBound.Statement (.redAddI32 x0 x1 x2 x3 x4 x5) := fun _ => enc6_lt x0.isLt x1.isLt x2.isLt x3.isLt x4.isLt x5.isLt (by decide)
theorem WordBound.redMinF32 (x0 : BitVec 4) (x1 : BitVec 4) (x2 : BitVec 4) (x3 : BitVec 4) (x4 : BitVec 4) (x5 : BitVec 4) : WordBound.Statement (.redMinF32 x0 x1 x2 x3 x4 x5) := fun _ => enc6_lt x0.isLt x1.isLt x2.isLt x3.isLt x4.isLt x5.isLt (by decide)
theorem WordBound.redMaxF32 (x0 : BitVec 4) (x1 : BitVec 4) (x2 : BitVec 4) (x3 : BitVec 4) (x4 : BitVec 4) (x5 : BitVec 4) : WordBound.Statement (.redMaxF32 x0 x1 x2 x3 x4 x5) := fun _ => enc6_lt x0.isLt x1.isLt x2.isLt x3.isLt x4.isLt x5.isLt (by decide)
theorem WordBound.redMinI32 (x0 : BitVec 4) (x1 : BitVec 4) (x2 : BitVec 4) (x3 : BitVec 4) (x4 : BitVec 4) (x5 : BitVec 4) : WordBound.Statement (.redMinI32 x0 x1 x2 x3 x4 x5) := fun _ => enc6_lt x0.isLt x1.isLt x2.isLt x3.isLt x4.isLt x5.isLt (by decide)
theorem WordBound.redMaxI32 (x0 : BitVec 4) (x1 : BitVec 4) (x2 : BitVec 4) (x3 : BitVec 4) (x4 : BitVec 4) (x5 : BitVec 4) : WordBound.Statement (.redMaxI32 x0 x1 x2 x3 x4 x5) := fun _ => enc6_lt x0.isLt x1.isLt x2.isLt x3.isLt x4.isLt x5.isLt (by decide)
theorem WordBound.redAndB32 (x0 : BitVec 4) (x1 : BitVec 4) (x2 : BitVec 4) (x3 : BitVec 4) (x4 : BitVec 4) (x5 : BitVec 4) : WordBound.Statement (.redAndB32 x0 x1 x2 x3 x4 x5) := fun _ => enc6_lt x0.isLt x1.isLt x2.isLt x3.isLt x4.isLt x5.isLt (by decide)
theorem WordBound.redOrB32 (x0 : BitVec 4) (x1 : BitVec 4) (x2 : BitVec 4) (x3 : BitVec 4) (x4 : BitVec 4) (x5 : BitVec 4) : WordBound.Statement (.redOrB32 x0 x1 x2 x3 x4 x5) := fun _ => enc6_lt x0.isLt x1.isLt x2.isLt x3.isLt x4.isLt x5.isLt (by decide)
theorem WordBound.drafelCopy (x0 : BitVec 4) (x1 : BitVec 4) (x2 : BitVec 4) (x3 : BitVec 4) : WordBound.Statement (.drafelCopy x0 x1 x2 x3) := fun _ => enc4_lt x0.isLt x1.isLt x2.isLt x3.isLt (by decide)
theorem WordBound.waitOps (x0 : BitVec 6) : WordBound.Statement (.waitOps x0) := fun _ => enc1_lt x0.isLt (by decide)
theorem WordBound.waitGe (x0 : BitVec 4) (x1 : BitVec 4) (x2 : BitVec 4) : WordBound.Statement (.waitGe x0 x1 x2) := fun _ => enc3_lt x0.isLt x1.isLt x2.isLt (by decide)
theorem WordBound.sig (x0 : BitVec 4) (x1 : BitVec 4) (x2 : BitVec 4) : WordBound.Statement (.sig x0 x1 x2) := fun _ => enc3_lt x0.isLt x1.isLt x2.isLt (by decide)
theorem WordBound.loop (x0 : BitVec 4) (x1 : BitVec 21) : WordBound.Statement (.loop x0 x1) := fun _ => enc2_lt x0.isLt x1.isLt (by decide)
theorem WordBound.kick (x0 : BitVec 2) (x1 : BitVec 4) (x2 : BitVec 4) (x3 : BitVec 4) (x4 : BitVec 4) : WordBound.Statement (.kick x0 x1 x2 x3 x4) := fun _ => enc5_lt x0.isLt x1.isLt x2.isLt x3.isLt x4.isLt (by decide)
theorem WordBound.setd (x0 : BitVec 4) (x1 : BitVec 24) : WordBound.Statement (.setd x0 x1) := fun _ => enc2_lt x0.isLt x1.isLt (by decide)
theorem WordBound.addd (x0 : BitVec 4) (x1 : BitVec 4) (x2 : BitVec 20) : WordBound.Statement (.addd x0 x1 x2) := fun _ => enc3_lt x0.isLt x1.isLt x2.isLt (by decide)
theorem WordBound.brd (x0 : BitVec 4) (x1 : BrdCond) (x2 : BitVec 21) : WordBound.Statement (.brd x0 x1 x2) := fun _ => enc3_lt x0.isLt (code_BrdCond x1) x2.isLt (by decide)
theorem WordBound.drafelHalt  : WordBound.Statement (.drafelHalt) := fun _ => enc0_lt  (by decide)
theorem WordBound.drafelNop  : WordBound.Statement (.drafelNop) := fun _ => enc0_lt  (by decide)

/-! Events have no word. -/

theorem WordBound.registerWrite (x0 : CtlPage) (x1 : Nat) (x2 : Nat) (x3 : DWord) : WordBound.Statement (.registerWrite x0 x1 x2 x3) := fun _ => Nat.two_pow_pos 32
theorem WordBound.deferredTrap : WordBound.Statement (.deferredTrap) := fun _ => Nat.two_pow_pos 32
theorem WordBound.pathAgeLimit (x0 : Nat) : WordBound.Statement (.pathAgeLimit x0) := fun _ => Nat.two_pow_pos 32
theorem WordBound.rejoinDeadlock (x0 : Nat) : WordBound.Statement (.rejoinDeadlock x0) := fun _ => Nat.two_pow_pos 32
theorem WordBound.pathForceMerge (x0 : Nat) : WordBound.Statement (.pathForceMerge x0) := fun _ => Nat.two_pow_pos 32
theorem WordBound.sleepExpire (x0 : Nat) : WordBound.Statement (.sleepExpire x0) := fun _ => Nat.two_pow_pos 32
theorem WordBound.schStallExpire (x0 : Nat) : WordBound.Statement (.schStallExpire x0) := fun _ => Nat.two_pow_pos 32
theorem WordBound.claimGrant (x0 : Nat) (x1 : Nat) : WordBound.Statement (.claimGrant x0 x1) := fun _ => Nat.two_pow_pos 32
theorem WordBound.queueRetry (x0 : Nat) : WordBound.Statement (.queueRetry x0) := fun _ => Nat.two_pow_pos 32
theorem WordBound.waitLimit (x0 : Nat) : WordBound.Statement (.waitLimit x0) := fun _ => Nat.two_pow_pos 32
theorem WordBound.loadDataReturn (x0 : Nat) (x1 : SoftErrors) : WordBound.Statement (.loadDataReturn x0 x1) := fun _ => Nat.two_pow_pos 32
theorem WordBound.storePerformed (x0 : Nat) : WordBound.Statement (.storePerformed x0) := fun _ => Nat.two_pow_pos 32
theorem WordBound.atomicPerform (x0 : Nat) : WordBound.Statement (.atomicPerform x0) := fun _ => Nat.two_pow_pos 32
theorem WordBound.hscatAddsPerformed (x0 : Nat) : WordBound.Statement (.hscatAddsPerformed x0) := fun _ => Nat.two_pow_pos 32
theorem WordBound.hdescLoaded (x0 : Nat) : WordBound.Statement (.hdescLoaded x0) := fun _ => Nat.two_pow_pos 32
theorem WordBound.isectResult (x0 : Nat) : WordBound.Statement (.isectResult x0) := fun _ => Nat.two_pow_pos 32
theorem WordBound.translationWalk (x0 : Nat) (x1 : Nat) : WordBound.Statement (.translationWalk x0 x1) := fun _ => Nat.two_pow_pos 32
theorem WordBound.directoryRecall (x0 : Nat) : WordBound.Statement (.directoryRecall x0) := fun _ => Nat.two_pow_pos 32
theorem WordBound.copyFillComplete (x0 : Nat) : WordBound.Statement (.copyFillComplete x0) := fun _ => Nat.two_pow_pos 32
theorem WordBound.copyDrainComplete (x0 : Nat) : WordBound.Statement (.copyDrainComplete x0) := fun _ => Nat.two_pow_pos 32
theorem WordBound.cpCopyComplete (x0 : Nat) : WordBound.Statement (.cpCopyComplete x0) := fun _ => Nat.two_pow_pos 32
theorem WordBound.engineUeStop (x0 : Nat) (x1 : Nat) : WordBound.Statement (.engineUeStop x0 x1) := fun _ => Nat.two_pow_pos 32
theorem WordBound.streamFetch (x0 : Nat) : WordBound.Statement (.streamFetch x0) := fun _ => Nat.two_pow_pos 32
theorem WordBound.tellerGrant (x0 : Nat) : WordBound.Statement (.tellerGrant x0) := fun _ => Nat.two_pow_pos 32
theorem WordBound.passRetire (x0 : Nat) : WordBound.Statement (.passRetire x0) := fun _ => Nat.two_pow_pos 32
theorem WordBound.vaultAdderComplete (x0 : Nat) : WordBound.Statement (.vaultAdderComplete x0) := fun _ => Nat.two_pow_pos 32
theorem WordBound.preemptionRequest : WordBound.Statement (.preemptionRequest) := fun _ => Nat.two_pow_pos 32
theorem WordBound.contextSave : WordBound.Statement (.contextSave) := fun _ => Nat.two_pow_pos 32
theorem WordBound.contextRestore (x0 : Nat) : WordBound.Statement (.contextRestore x0) := fun _ => Nat.two_pow_pos 32
theorem WordBound.graphicsWaveReissue (x0 : Nat) : WordBound.Statement (.graphicsWaveReissue x0) := fun _ => Nat.two_pow_pos 32
theorem WordBound.nevWindowEnd (x0 : Nat) (x1 : Nat) : WordBound.Statement (.nevWindowEnd x0 x1) := fun _ => Nat.two_pow_pos 32
theorem WordBound.nevwinWrite (x0 : Nat) (x1 : Nat) (x2 : Nat) : WordBound.Statement (.nevwinWrite x0 x1 x2) := fun _ => Nat.two_pow_pos 32
theorem WordBound.nevstatClear (x0 : Nat) (x1 : BitVec 8) : WordBound.Statement (.nevstatClear x0 x1) := fun _ => Nat.two_pow_pos 32
theorem WordBound.cqdescWrite (x0 : Nat) (x1 : Nat) : WordBound.Statement (.cqdescWrite x0 x1) := fun _ => Nat.two_pow_pos 32
theorem WordBound.cqnotWrite (x0 : Nat) (x1 : Word) (x2 : Bool) : WordBound.Statement (.cqnotWrite x0 x1 x2) := fun _ => Nat.two_pow_pos 32
theorem WordBound.cqstatResume (x0 : Nat) : WordBound.Statement (.cqstatResume x0) := fun _ => Nat.two_pow_pos 32
theorem WordBound.cqdropRead : WordBound.Statement (.cqdropRead) := fun _ => Nat.two_pow_pos 32
theorem WordBound.ringNop (x0 : Nat) : WordBound.Statement (.ringNop x0) := fun _ => Nat.two_pow_pos 32
theorem WordBound.ringLaunch (x0 : Nat) : WordBound.Statement (.ringLaunch x0) := fun _ => Nat.two_pow_pos 32
theorem WordBound.ringWait (x0 : Nat) : WordBound.Statement (.ringWait x0) := fun _ => Nat.two_pow_pos 32
theorem WordBound.ringWaitComplete (x0 : Nat) : WordBound.Statement (.ringWaitComplete x0) := fun _ => Nat.two_pow_pos 32
theorem WordBound.ringFrame (x0 : Nat) : WordBound.Statement (.ringFrame x0) := fun _ => Nat.two_pow_pos 32
theorem WordBound.indirectCountRead (x0 : Nat) : WordBound.Statement (.indirectCountRead x0) := fun _ => Nat.two_pow_pos 32
theorem WordBound.blockDispatch (x0 : Nat) (x1 : Nat) : WordBound.Statement (.blockDispatch x0 x1) := fun _ => Nat.two_pow_pos 32
theorem WordBound.blockComplete (x0 : Nat) : WordBound.Statement (.blockComplete x0) := fun _ => Nat.two_pow_pos 32
theorem WordBound.budgetExpiry (x0 : Nat) (x1 : Nat) : WordBound.Statement (.budgetExpiry x0 x1) := fun _ => Nat.two_pow_pos 32
theorem WordBound.itemTaskMove (x0 : Nat) : WordBound.Statement (.itemTaskMove x0) := fun _ => Nat.two_pow_pos 32
theorem WordBound.sendTransferStart (x0 : Nat) (x1 : Nat) : WordBound.Statement (.sendTransferStart x0 x1) := fun _ => Nat.two_pow_pos 32
theorem WordBound.data (x0 : Flit) : WordBound.Statement (.data x0) := fun _ => Nat.two_pow_pos 32
theorem WordBound.ack (x0 : Flit) : WordBound.Statement (.ack x0) := fun _ => Nat.two_pow_pos 32
theorem WordBound.write (x0 : Flit) : WordBound.Statement (.write x0) := fun _ => Nat.two_pow_pos 32
theorem WordBound.wack (x0 : Nat) (x1 : Nat) : WordBound.Statement (.wack x0 x1) := fun _ => Nat.two_pow_pos 32
theorem WordBound.pause (x0 : Nat) (x1 : Nat) : WordBound.Statement (.pause x0 x1) := fun _ => Nat.two_pow_pos 32
theorem WordBound.resume (x0 : Nat) (x1 : Nat) : WordBound.Statement (.resume x0 x1) := fun _ => Nat.two_pow_pos 32
theorem WordBound.close (x0 : Nat) (x1 : Nat) : WordBound.Statement (.close x0 x1) := fun _ => Nat.two_pow_pos 32
theorem WordBound.flitCrcRetransmit (x0 : Flit) : WordBound.Statement (.flitCrcRetransmit x0) := fun _ => Nat.two_pow_pos 32
theorem WordBound.programUnpark (x0 : Nat) : WordBound.Statement (.programUnpark x0) := fun _ => Nat.two_pow_pos 32
theorem WordBound.collectiveTimeout (x0 : Nat) : WordBound.Statement (.collectiveTimeout x0) := fun _ => Nat.two_pow_pos 32
theorem WordBound.clctlLoad (x0 : Nat) : WordBound.Statement (.clctlLoad x0) := fun _ => Nat.two_pow_pos 32
theorem WordBound.clctlStop (x0 : Nat) : WordBound.Statement (.clctlStop x0) := fun _ => Nat.two_pow_pos 32
theorem WordBound.clstatIrqClear (x0 : Nat) : WordBound.Statement (.clstatIrqClear x0) := fun _ => Nat.two_pow_pos 32
theorem WordBound.ptrootWrite (x0 : DWord) : WordBound.Statement (.ptrootWrite x0) := fun _ => Nat.two_pow_pos 32
theorem WordBound.tlbinvWrite (x0 : DWord) : WordBound.Statement (.tlbinvWrite x0) := fun _ => Nat.two_pow_pos 32
theorem WordBound.tlbInvalidateDone : WordBound.Statement (.tlbInvalidateDone) := fun _ => Nat.two_pow_pos 32
theorem WordBound.hotnessHalving : WordBound.Statement (.hotnessHalving) := fun _ => Nat.two_pow_pos 32
theorem WordBound.migrationStart : WordBound.Statement (.migrationStart) := fun _ => Nat.two_pow_pos 32
theorem WordBound.migrationCopy : WordBound.Statement (.migrationCopy) := fun _ => Nat.two_pow_pos 32
theorem WordBound.migrationFinish : WordBound.Statement (.migrationFinish) := fun _ => Nat.two_pow_pos 32
theorem WordBound.migstatRead : WordBound.Statement (.migstatRead) := fun _ => Nat.two_pow_pos 32
theorem WordBound.assayStart (x0 : RasRow) : WordBound.Statement (.assayStart x0) := fun _ => Nat.two_pow_pos 32
theorem WordBound.assayEnd (x0 : RasRow) (x1 : Bool) : WordBound.Statement (.assayEnd x0 x1) := fun _ => Nat.two_pow_pos 32
theorem WordBound.rasceRead : WordBound.Statement (.rasceRead) := fun _ => Nat.two_pow_pos 32
theorem WordBound.rasueRead : WordBound.Statement (.rasueRead) := fun _ => Nat.two_pow_pos 32
theorem WordBound.islandDvfs (x0 : Nat) (x1 : IslandReading) : WordBound.Statement (.islandDvfs x0 x1) := fun _ => Nat.two_pow_pos 32
theorem WordBound.droopStretch (x0 : Nat) : WordBound.Statement (.droopStretch x0) := fun _ => Nat.two_pow_pos 32
theorem WordBound.thermalThrottle (x0 : Nat) (x1 : IslandReading) : WordBound.Statement (.thermalThrottle x0 x1) := fun _ => Nat.two_pow_pos 32
theorem WordBound.thermalTrip (x0 : Nat) (x1 : IslandReading) : WordBound.Statement (.thermalTrip x0 x1) := fun _ => Nat.two_pow_pos 32
theorem WordBound.linkRetrain (x0 : Nat) : WordBound.Statement (.linkRetrain x0) := fun _ => Nat.two_pow_pos 32
theorem WordBound.boot (x0 : List BootImage) : WordBound.Statement (.boot x0) := fun _ => Nat.two_pow_pos 32
theorem WordBound.attctlGo : WordBound.Statement (.attctlGo) := fun _ => Nat.two_pow_pos 32
theorem WordBound.attestDone : WordBound.Statement (.attestDone) := fun _ => Nat.two_pow_pos 32
theorem WordBound.dumpctlGo : WordBound.Statement (.dumpctlGo) := fun _ => Nat.two_pow_pos 32
theorem WordBound.dumpEnd : WordBound.Statement (.dumpEnd) := fun _ => Nat.two_pow_pos 32
theorem WordBound.clusterStop (x0 : Nat) : WordBound.Statement (.clusterStop x0) := fun _ => Nat.two_pow_pos 32
theorem WordBound.dbgctlStop (x0 : Nat) : WordBound.Statement (.dbgctlStop x0) := fun _ => Nat.two_pow_pos 32
theorem WordBound.dbgctlResume (x0 : Nat) : WordBound.Statement (.dbgctlResume x0) := fun _ => Nat.two_pow_pos 32
theorem WordBound.dbgctlStep (x0 : Nat) (x1 : Nat) (x2 : Nat) (x3 : Nat) : WordBound.Statement (.dbgctlStep x0 x1 x2 x3) := fun _ => Nat.two_pow_pos 32
theorem WordBound.stepTimeout (x0 : Nat) : WordBound.Statement (.stepTimeout x0) := fun _ => Nat.two_pow_pos 32
theorem WordBound.whmoreRead (x0 : Nat) : WordBound.Statement (.whmoreRead x0) := fun _ => Nat.two_pow_pos 32
theorem WordBound.watchpointHitsRead (x0 : Nat) (x1 : Nat) : WordBound.Statement (.watchpointHitsRead x0 x1) := fun _ => Nat.two_pow_pos 32
theorem WordBound.breakpointHitsRead (x0 : Nat) (x1 : Nat) : WordBound.Statement (.breakpointHitsRead x0 x1) := fun _ => Nat.two_pow_pos 32
theorem WordBound.debugHoldWrite (x0 : Nat) (x1 : Nat) (x2 : BitVec 4) : WordBound.Statement (.debugHoldWrite x0 x1 x2) := fun _ => Nat.two_pow_pos 32
theorem WordBound.debugSsWrite (x0 : Nat) (x1 : Nat) (x2 : BitVec 4) : WordBound.Statement (.debugSsWrite x0 x1 x2) := fun _ => Nat.two_pow_pos 32
theorem WordBound.stallSample (x0 : Nat) : WordBound.Statement (.stallSample x0) := fun _ => Nat.two_pow_pos 32
theorem WordBound.smpctlWrite (x0 : Nat) (x1 : Word) : WordBound.Statement (.smpctlWrite x0 x1) := fun _ => Nat.two_pow_pos 32
theorem WordBound.smpdropRead (x0 : Nat) : WordBound.Statement (.smpdropRead x0) := fun _ => Nat.two_pow_pos 32
theorem WordBound.trctlWrite (x0 : Nat) (x1 : Word) : WordBound.Statement (.trctlWrite x0 x1) := fun _ => Nat.two_pow_pos 32
theorem WordBound.trstatGapClear (x0 : Nat) : WordBound.Statement (.trstatGapClear x0) := fun _ => Nat.two_pow_pos 32
theorem WordBound.trlostRead (x0 : Nat) : WordBound.Statement (.trlostRead x0) := fun _ => Nat.two_pow_pos 32
theorem WordBound.notAnInstruction (x0 : FetchReject) : WordBound.Statement (.notAnInstruction x0) := fun _ => Nat.two_pow_pos 32
theorem WordBound.notADrafelInstruction (x0 : ChunkReject) : WordBound.Statement (.notADrafelInstruction x0) := fun _ => Nat.two_pow_pos 32
theorem WordBound.hostMemoryAccess (x0 : HostAccess) : WordBound.Statement (.hostMemoryAccess x0) := fun _ => Nat.two_pow_pos 32
theorem WordBound.vaccWrPerformed (x0 : Nat) : WordBound.Statement (.vaccWrPerformed x0) := fun _ => Nat.two_pow_pos 32
theorem WordBound.tableEntryUpdated (x0 : Nat) : WordBound.Statement (.tableEntryUpdated x0) := fun _ => Nat.two_pow_pos 32
theorem WordBound.localDataOperationComplete (x0 : Nat) (x1 : Nat) : WordBound.Statement (.localDataOperationComplete x0 x1) := fun _ => Nat.two_pow_pos 32
theorem WordBound.reservedTypeFlit (x0 : Flit) : WordBound.Statement (.reservedTypeFlit x0) := fun _ => Nat.two_pow_pos 32
theorem WordBound.invalidRingEntry (x0 : Nat) : WordBound.Statement (.invalidRingEntry x0) := fun _ => Nat.two_pow_pos 32
theorem WordBound.retrainingEnd (x0 : Nat) : WordBound.Statement (.retrainingEnd x0) := fun _ => Nat.two_pow_pos 32

end Sys2Proof.Laws
end

