-- ==== Sys2Proof/Tests/Slice0.lean ====
section
/-! SUPPORT. Tests: terms that are no instruction, words of the spec's own listings, single steps with results worked out by hand
from the rules, and for each statement with hypotheses a state and operands that meet them. -/

namespace Sys2Proof.Tests

open Sys2Proof Sys2Proof.Machine

set_option Elab.async false
set_option maxRecDepth 100000

/-! Terms that are no instruction: one for each check of `Instr.wf`. -/

/-- Register numbers and groups (R14, R15, R26). -/
theorem test_illFormed_registers :
    [Instr.sadd 96 1 2, .sadd 1 96 2, .sadd 1 2 96, .saddImm 3 true 0, .saddImm 97 false 0, .slea 1 2 3, .jmpReg 5, .vballot 94 1, .loan 1 93 0 0,
      .vld 1 0 2 .b64 .g, .vld 2 0 2 .b128 .g, .vld 1 0 3 .b32 .g, .sld 1 4 0 .b64 .g, .sld 94 4 0 .b128 .g, .sld 1 48 0 .b32 .g, .vatomCas 1 0 2 false,
      .vatomAddN64 2 0 3 false, .satomCas 1 2 0 false, .satomAddN64 2 1 0 false, .mint 1 2, .mint 2 1, .vpin 96 2, .xput 1 0 2 .b64 0, .qpush false 0 0 89,
      .tdef 0 93, .tex3 0 0 1, .hdesc 3, .vaccRd 0 96 0 0, .cpTile 0 1 0, .cpCopy 96 0 0, .kmovFromScalar 0 94, .kpop 0 96, .vredmi 1 0 .n32, .swr 96 0,
      .nfset 96 0, .vrfl 96 0, .vmovScalar 0 96].all (fun i => !i.wf) = true := by decide

/-- Codes and ranges (R19, R26 to R30, R78, R84, R91, R117, R122, R123, R139, R163, R167). -/
theorem test_illFormed_codes :
    [Instr.scmp .ord 0 1 2, .repay 112 0 .add .n32, .repay 0 0 .addDet .f32, .claim true 0 0, .claim true 0 17, .claim false 1 1, .giveback 0, .giveback 17,
      .vfcvtF32F16 0 0 2, .vfcvtE4m3F32 0 0 4, .vbfly 0 0 0, .vbcast 0 0 96, .vred 0 0 .and .f32, .vred 0 0 .addDet .n32, .vscan 0 0 .xor .f32 false,
      .vcmpI32 0 .ltN 0 0 .write, .vcmpN32 0 .lt 0 0 .write, .vfcmp 0 .ltN 0 0 .write, .vst 0 0 2 .i8 .g, .vst 0 0 2 .b32 .v, .sst 0 0 0 .i16 .g,
      .fence 0 1 .wave, .fence 1 0 .wave, .qpop false 1 0 0, .xput 0 0 2 .n8 0, .mmapShape 0 129 0, .mmapShape 0 0 385, .macz 0 1025,
      .mod { ModFields.zero with vc := 1 }, .mod { ModFields.zero with pk := 3 }].all (fun i => !i.wf) = true := by decide

/-- Well-formed neighbours of some of them. -/
theorem test_wellFormed :
    [Instr.sadd 95 1 2, .saddImm 94 true 0, .vld 4 0 2 .b128 .g, .claim true 0 16, .vbcast 0 0 95, .vred 0 0 .addDet .f32, .fence 1 1 .wave,
      .mmapShape 0 128 384, .macz 0 1024, .mod { ModFields.zero with vce := true, vc := 1 }].all Instr.wf = true := by decide

/-! Words of the spec's listings. -/

def decodes (x : Nat × Instr) : Bool :=
  match decodeWave x.1 with
  | .ok i => decide (i = x.2)
  | .error _ => false

/-- R20, R65 to R76, R86 to R92, R139, R144, R146: scalar, control and synchronising words. -/
theorem test_decode_scalar :
    [(0x042860E0, Instr.sadd 5 6 7), (0x0450A180, .sadd 10 10 12), (0x0C7FFFFB, .smovi 7 (-5)), (0x049050D5, .scmp .lt 2 5 6), (0x08200010, .saddImm 4 false 16),
      (0x05884055, .scmp .ltN 1 4 2), (0x16400028, .brn 1 40), (0x04314014, .smov 6 20), (0x187FFFD8, .jmp (-40)), (0x10120031, .swr 2 0x031),
      (0x08100FFF, .saddImm 2 false 0xFFF), (0x26000000, .sucstart), (0x25C00000, .wpred), (0x25800000, .nop), (0x28000021, .trap 0x21),
      (0x24000000, .barArrive 0), (0x24400001, .barWait 1), (0x24800002, .barSync 2), (0x24C0FCBC, .waitC 0 63 2 15), (0x24FFFFC0, .waitC 63 63 15 0),
      (0x1CB02C0B, .vbr true 3 11 11), (0x2C000008, .claim false 0 8), (0x2E000006, .giveback 6), (0x94C44000, .fence 0xC 4 .cluster),
      (0x96008000, .fenceFar .package), (0x99B44000, .qpop true 3 2 16), (0x9C514000, .mint 20 40), (0x9E194000, .vpin 6 40)].all decodes = true := by decide

/-- R69, R103 to R127: vector words. -/
theorem test_decode_vector :
    [(0x401840A0, Instr.vadd 3 4 5), (0x403060E8, .vxor 6 6 7), (0x40306013, .vpopc 6 6), (0x44081602, .vshlImm 1 1 2), (0x4C201040, .vffma 4 1 2),
      (0x54482209, .vfcvtE4m3F32 9 2 2), (0x68103085, .vsel 2 3 4 5), (0x68102009, .vmovScalar 2 2), (0x68480C90, .vmovi 9 100), (0x68080018, .vsr 1 0),
      (0x5C902060, .vcmpI32 1 .lt 2 3 .write), (0x60ED0000, .kany 3 2), (0x58404C84, .vred 8 4 .addDet .f32), (0x58A06045, .vredmi 20 6 .n32),
      (0x5CB02344, .vcmpN32 1 .ltN 2 26 .write), (0x4028236E, .vminN32 5 2 27), (0x44205605, .vshlImm 4 5 5), (0x5CA08028, .vfcmp 1 .gt 8 1 .write),
      (0x48284088, .vhmul 5 4 4), (0x483840A7, .vhadd 7 4 5), (0x44303002, .vaddImm 6 3 2), (0x58182066, .vscan 3 2 .add .n32 true)].all decodes = true := by decide

/-- R128 to R181: memory, engine, texture, hash-grid, intersection and vault words. -/
theorem test_decode_memory :
    [(0x80402148, Instr.vld 8 2 10 .b32 .g), (0x8420628E, .vst 4 6 20 .b64 .c), (0x8842804C, .sld 8 20 2 .b64 .g), (0x882A9FE8, .sst 5 20 0x7F .b32 .g),
      (0x8C182140, .vatomAddN32 3 2 10 false), (0x80604510, .vld 12 4 40 .b128 .g), (0x80203544, .vld 4 3 42 .n16 .g), (0x84283584, .vst 5 3 44 .n16 .g),
      (0xA0206289, .xput 4 6 20 .b32 1), (0xA40AA060, .cpTile 5 40 12), (0xA502A060, .cpBdeck 1 40 12), (0xA606A060, .cpStore 3 40 12), (0xA80C1000, .tdef 6 4),
      (0xAC50C500, .tex3 10 12 40), (0xB1010500, .isectRay 32 16 40), (0xB120C541, .isectTile 36 12 42), (0xB1000002, .isectNext 32), (0xB4028000, .hdesc 40),
      (0xB4A04001, .hgath 20 4), (0xB4004302, .hscat 4 24), (0xB820F4C0, .vaccRd 8 30 2 3)].all decodes = true := by decide

/-- R19, R20, R25: hint words of the listings. -/
theorem test_decode_hints :
    [(0xFD000100, Instr.mod { ModFields.zero with w := true }), (0xFD832000, .mod { ModFields.zero with vce := true, vc := 3, rnd := .rtz }),
      (0xFC012340, .pfx 0x012340), (0xFD000040, .mod { ModFields.zero with pk := 1 }), (0xFD000600, .mod { ModFields.zero with cpol := 3 }),
      (0xFC00FD00, .pfx 0x00FD00)].all decodes = true := by decide

/-- The stream listing after R169. -/
theorem test_decode_stream :
    [(0xCF000004, StreamOp.mset 0 4), (0xC4101800, .mmapShape 0 128 384), (0xC5001000, .mmapK 0 16 0), (0xC6000000, .mmapAcc 0 0 false false), (0xC8000800, .macz 0 128),
      (0xCC000000, .mbarWait 0), (0xC1400080, .mmaBf16 false 0 1 0), (0xCE800000, .mrel 0), (0xCE800001, .mrel 1), (0xCC800001, .mbarSig 1),
      (0xCD1FFFFB, .mloop 0 (-5)), (0xCD800000, .mend), (0xC8800800, .macz 256 128), (0xCA889000, .mscl 2 1 9 .row), (0xC4300400, .mmapShape 1 128 64),
      (0xC5204000, .mmapK 1 64 0), (0xC6280400, .mmapAcc 1 256 true false), (0xC160C210, .mmaBf16 true 3 4 1)].all (fun x =>
        match decodeStream x.1 with | .ok i => decide (i = x.2) | .error _ => false) = true := by decide

/-- The chunk program ar2 (R183 to R192). -/
theorem test_decode_chunk :
    [(0x91000000, ChunkOp.setd 1 0), (0x92000002, .setd 2 2), (0x93000004, .setd 3 4), (0x95000001, .setd 5 1), (0x11010000, .send 1 0 1 0),
      (0x32110100, .redAddF32 2 1 1 0 1 0), (0xA1100001, .addd 1 1 1), (0x731FFFFD, .loop 3 (-3)), (0x50000000, .waitOps 0), (0x60245000, .sig 2 4 5),
      (0xC0000000, .drafelHalt)].all (fun x => match decodeChunk x.1 with | .ok i => decide (i = x.2) | .error _ => false) = true := by decide

/-- Words that are no instruction of any set: a reserved sub-code, an odd pair, a reserved scope, an empty fence set (R11, R14, R27, R139). -/
theorem test_decode_rejects :
    [0x000000B4 + 0x04000000, 0x98000000 + 90 * 1024, 0x94C4C000, 0x94044000, 0x00000000, 0xFF000000].all (fun w =>
      match decodeWave w with | .ok _ => false | .error _ => true) = true := by decide

/-! States for the witnesses: one wave of four lanes on core 0, at cc 100. -/

/-- Path 0 of the wave, in user mode, with no trap handler. -/
def base : State := { State.reset.placeContext none with cur := .path 0, clk := 100 }

/-- The path in system mode, or with the trap's second level open. -/
def inSystem (s : State) : State := s.onPath 0 fun p => { p with sys := true, epc := 0x40010, emask := 0xF }
def atSecondLevel (s : State) : State := s.onPath 0 fun p => { p with sys := true, ecause := 0x110 }
/-- The wave with a trap handler. -/
def handled (s : State) : State := s.onWave 0 fun w => { w with tvec := 0x20000 }
/-- The path after the hint words `ws` of its bundle. -/
def hinted (s : State) (ws : List Nat) : State :=
  s.onPath 0 fun p =>
    { p with hints := ws.zipIdx.map fun h => ⟨placeVa + 4 * h.2, BitVec.ofNat 32 h.1⟩, pc := placeVa + 4 * ws.length }
/-- Hint words: mod with w, mod with sat, mod with pk 1, mod with vce, and a pfx. -/
def modW : Nat := 0xFD000100
def modPk : Nat := 0xFD000040
def modSat : Nat := encodeWord (.mod { ModFields.zero with sat := true })
def modVc : Nat := 0xFD832000
def modVce : Nat := encodeWord (.mod { ModFields.zero with vce := true, vc := 3 })
def pfx1 : Nat := 0xFC012340
/-- The predicate k1 with lanes 0 and 2, and registers with small values. -/
def filled : State :=
  (((((base.writeK 0 1 5).writeS 0 4 7).writeS 0 5 0x80000000).writeV 0 1 0 3).writeV 0 1 1 0x7F7F7F7F).onPath 0 fun p => { p with flags := 2 }

/-- The current path issues `i`, and `h` holds. -/
def issues (s : State) (i : Instr) (h : State → Ctx → Bool) : Bool :=
  match s.cur with
  | .path pid =>
    (match s.path pid with
    | some p => ready i s (ctxOf i pid p s) && h s (ctxOf i pid p s)
    | none => false)
  | _ => false

/-- The path's turn reaches `i`, whose word may be unlawful, and `h` holds. -/
def takes (s : State) (i : Instr) (h : State → Ctx → Bool) : Bool :=
  match s.cur with
  | .path pid =>
    (match s.path pid with
    | some p => taken i s (ctxOf i pid p s) && h s (ctxOf i pid p s)
    | none => false)
  | _ => false

/-- The path's turn reaches `i` with its operands there, and `h` holds. -/
def checks (s : State) (i : Instr) (h : State → Ctx → Bool) : Bool :=
  match s.cur with
  | .path pid =>
    (match s.path pid with
    | some p => checked i s (ctxOf i pid p s) && h s (ctxOf i pid p s)
    | none => false)
  | _ => false

/-- An operation in flight with number 0, of wave 0, at the PC before its path's. -/
def opOf (cls : OpClass) (d : Dest) (m : Lanes) (k : OpKind) : Op :=
  { id := 0, owner := 0, pid := 0, pc := 0x3FFFC, first := 0x3FFFC, sys := false, cls := cls, dest := d, mask := m, kind := k, done := false,
    dropped := false, vas := [], watch := none, after := [], seen := none, own := false, due := 0, far := 0, got := [], slots := 0 }

def always (_ : State) (_ : Ctx) : Bool := true

/-- A step or an instruction answers a next state. -/
def goesOn (o : Host.Outcome State Fault Refusal) : Bool :=
  match o with
  | .next _ => true
  | _ => false

/-! Witnesses: encoding, steps. -/

theorem witness_EncodedWordsDecode :
    ((Instr.sadd 1 2 3).wf = true ∧ isEvent (.sadd 1 2 3) = false ∧ (∀ op : StreamOp, op.toInstr ≠ .sadd 1 2 3)
      ∧ (∀ op : ChunkOp, op.toInstr ≠ .sadd 1 2 3)) ∧ (StreamOp.mset 1 (-1)).wf = true := by
  refine ⟨⟨by decide, by decide, ?_, ?_⟩, by decide⟩ <;> intro op <;> cases op <;> simp [StreamOp.toInstr, ChunkOp.toInstr]

theorem witness_NoWordBitIgnored :
    0x042860E0 < 2 ^ 32 ∧ decodeWave 0x042860E0 = .ok (.sadd 5 6 7) ∧ decodeStream 0xCF000004 = .ok (.mset 0 4) ∧ decodeChunk 0x91000000 = .ok (.setd 1 0) := by decide

/-- The placed nop, a stream whose table holds mend, and a placed chunk word, an event on the schedule. -/
def placedNop : State := State.reset.withFetchWord 32 0x25800000
def entryOf (op : StreamOp) : StreamEntry :=
  { id := 0, addr := placeVa, op := some op, cause := 0, pfx := none, map := ⟨128, 128, 16, 0, 0, false, false⟩,
    map2 := ⟨128, 128, 16, 0, 0, false, false⟩, issued := false, begun := false, nextPass := 0, inFlight := 0, since := none }
def streaming (op : StreamOp) : State :=
  { State.reset.placeContext (some { Stream.start placeVa none with entries := [entryOf op], nextId := 1 }) with cur := .stream 0, clk := 100 }
def chunking (w : Nat) : State := { State.reset.setClear 0 (placeClear w) with cur := .clearing 0, clk := 100 }

theorem witness_StepRunsTheDecodedInstruction_path :
    (let s := placedNop
    let u := s.elapse s.clk
    match u.path 0 with
    | some p => !s.stopped && s.schedule.isEmpty && u.cur == .path 0 && u.mayIssue 0 p && p.nextDue.isNone && !u.breaksWait 0 p
        && (u.breakpoints 0 p).isEmpty && s.ops.isEmpty && s.run.tokens.isEmpty && s.ras.log.isEmpty && s.dev.hotbase == 0
        && (match u.reach (coreOf 0) ⟨p.sys, false, false⟩ p.pc with
            | .at_ l => decodes (u.readNum l 4, .nop)
            | _ => false)
    | none => false) = true := by decide

theorem witness_StepRunsTheDecodedInstruction_others :
    ((let s := streaming .mend
      let u := s.elapse s.clk
      !s.stopped && s.schedule.isEmpty && u.cur == .stream 0 && u.settleStream 0 == u
        && (((u.block 0).bind (·.stream)).bind Stream.head).map (·.op) == some (some .mend))
      && (let s := chunking 0xC0000000
        let u := s.elapse s.clk
        !s.stopped && s.schedule.isEmpty && u.cur == .clearing 0 && (u.clear 0).program[(u.clear 0).pc]? == some 0xC0000000)
      && (match decodeChunk 0xC0000000 with | .ok .drafelHalt => true | _ => false) && isEvent .tlbInvalidateDone
      && isEvent .migstatRead && overHostLink .migstatRead && !overHostLink .tlbInvalidateDone
      && (({ State.reset with linksDown := [hostLink] } : State).elapse 7).linksDown.contains hostLink) = true := by decide

theorem witness_StepKeepsMemoryForm : Memory.wf placedNop.mem = true ∧ goesOn (step placedNop) = true := by decide

/-! Scalar and system instructions. -/

theorem witness_ScalarRegisterAndImmediateForms :
    (issues filled (.sadd 95 4 5) (fun _ c => !c.mods.w && (scalarTwo 32 (.sadd 95 4 5)).isSome)
      && issues (hinted filled [modW]) (.smul 94 4 4) (fun _ c => c.mods.w && (scalarTwo 64 (.smul 94 4 4)).isSome)
      && issues filled (.saddImm 95 false (-1)) (fun _ _ => (scalarImm 32 (.saddImm 95 false (-1))).isSome)
      && issues (hinted filled [pfx1, pfx1]) (.saddImm 94 true (-1)) (fun _ c => c.pfx.length == 2 && (scalarImm 64 (.saddImm 94 true (-1))).isSome)
      && issues filled (.smovi 0 5) always && issues (hinted filled [pfx1, pfx1]) (.smovi 2 (-1)) (fun _ c => c.pfx.length == 2)) = true := by decide

theorem witness_ScalarBitFieldAndCompareForms :
    ([Instr.spopc 95 0, .sclz 1 5, .sctz 1 5, .sbrev 1 5, .sbfi 1 4 5, .sbfeN32 1 false 0xFFF, .sbfeN32 2 true 0xFFF, .sbfeI32 1 false 0,
        .sbfeI32 2 true 0, .ssel 1 4 5 7, .slea 94 4 5, .scmp .leN 7 4 5].all (fun i => issues filled i always)
      && issues (hinted filled [modW]) (.scmp .lt 0 4 4) (fun _ c => c.mods.w)) = true := by decide

theorem witness_SpecialRegisters :
    (issues filled (.srd 1 0x010) (fun s c => (s.wave c.wid).isSome && (s.blockOf c.pid).isSome)
      && issues (inSystem filled) (.srd 1 0x044) (fun _ c => c.p.sys)
      && takes filled (.srd 1 0xFFF) always && issues filled (.srd 2 0x040) (fun _ c => !c.p.sys)
      && ([0x030, 0x031, 0x040, 0x041, 0x042, 0x043, 0x044, 0x010, 0x032, 0x038].all fun n => issues filled (.swr 4 n) (fun s c => (s.wave c.wid).isSome))
      && takes filled (.swr 4 0xFFF) (fun s c => (s.wave c.wid).isSome)
      && [0x040, 0x041, 0x042, 0x043, 0x044].all (fun n => issues (inSystem filled) (.swr 4 n) (fun _ c => c.p.sys))
      && issues filled (.nfset 4 3) always) = true := by decide

theorem witness_TrapEntry :
    ([handled filled, filled, handled (atSecondLevel filled)].all fun s =>
      (match s.path 0, s.wave 0 with
      | some p, some w => (!(s.core (coreOf 0)).trEn) && !isHelper 0 && (w.tvec == 0 || p.sys == p.ecause.getLsbD 8)
      | _, _ => false)) = true := by decide

theorem witness_TrapInstruction :
    ([handled filled, filled, handled (atSecondLevel filled)].all fun s => issues s (.trap 255) (fun s c => !c.helper && (s.wave (c.pid / 4)).isSome))
      = true := by decide

theorem witness_BreakpointInstruction :
    (issues (handled filled) .brkpt (fun s c => !c.helper && (s.wave (c.pid / 4)).map (·.tvec != 0) == some true && c.p.hints.isEmpty && !c.p.sys)
      && issues (hinted (handled filled) [0xFE000000 + encodeWord (.sch false 0 1) % 0x1000000]) .brkpt always) = true := by decide

theorem witness_ReturnFromTrapAndHalt :
    (issues (inSystem filled) .eret (fun s c => c.p.sys && !(s.core (coreOf c.pid)).trEn && (s.tokensOf c.owner).isEmpty && c.p.token.isNone
        && c.p.epc.toNat % 4 == 0 && decide (c.p.epc.toNat < 2 ^ 49))
      && issues filled .eret (fun _ c => !c.p.sys) && issues filled .halt (fun s c => (s.wave (c.pid / 4)).isSome)) = true := by decide

theorem witness_BranchesJumpsCallsAndReturns :
    ([Instr.br 1 (-1), .br 0 1, .brn 1 0, .brn 7 1, .jmp (-1), .call 0, .jmpReg 94, .jmpReg 4, .callReg 94, .ret].all fun i => issues filled i always)
      = true := by decide

/-! Divergence, loans, barriers. -/

/-- A path inside a loop's token, with a split's token above it. -/
def nested : State :=
  (filled.setTokens 0 [⟨1, some 0, placeVa, 3, 4, false, true, 0, 0, false, false, false⟩, ⟨0, none, 0x40100, 0xF, 0, true, false, 0, 0, false, false, false⟩]).onPath 0
    fun p => { p with token := some 1, mask := 3 }
/-- A path with a pending loan of lane 0, and a helper path that works for it. -/
def loan0 : Loan :=
  { lane := 0, next := 4, last := 9, pool := [2], snapshot := [], entry := 0x40040, demand := 8, repays := [], current := some 1, held := [], dropped := 0, closing := false }
def lending : State := filled.onPath 0 fun p => { p with loan := some loan0, mask := 1 }
def helped : State :=
  { ({ lending with run := { lending.run with helpers := [(helperBase, ⟨0, 0, 2, [], [], 1⟩)] } } : State).setPath helperBase
      { Path.fresh 0x40040 2 50 with exempt := true } with cur := .path helperBase }
def oneLane : State := (((filled.writeS 0 6 0).writeS 0 7 3).writeS 0 8 8).onPath 0 fun p => { p with mask := 1 }

theorem witness_TrapEntry_helper :
    ([Instr.trap 255, .brkpt].all (fun i => issues helped i (fun s c => c.helper && (match s.helper c.pid with
      | some h => h.recruiter != c.pid && (s.path h.recruiter).isSome && tgetD 0 h.iters 95 == 0 | none => false)))) = true := by decide

theorem witness_StructuredBranchesAndTokens :
    ([Instr.vbr false 1 4 4, .vbr true 1 4 8, .vbr false 1 0 0, .split false 1 4 8, .split true 1 (-4) 0].all (fun i =>
        [filled, nested, hinted filled [pfx1]].all fun s => issues s i always)
      && (match filled.path 0 with | some p => ((filled.pushToken (ctxOf .nop 0 p filled) 0x40080 false true).map (·.2)) == some 0 | none => false))
        = true := by decide

theorem witness_BreakJoinExitRefillAndRegion :
    (issues filled (.vbrk false 1) (fun s c => ((s.chain c.pid c.p).find? (·.loop)).isNone)
      && issues nested (.vbrk false 1) (fun s c => ((s.chain c.pid c.p).find? (·.loop)).isSome)
      && [filled, nested].all (fun s => issues s .join always)
      && issues filled .exit (fun _ c => !c.helper && c.p.loan.isNone) && issues lending .exit (fun _ c => !c.helper && c.p.loan.isSome)
      && issues helped .exit (fun s c => c.helper && (s.pendingLoad c.pid).isNone)
      && [filled, nested].all (fun s => issues s .refill always)
      && issues filled .rgn (fun _ c => c.p.region.isNone)) = true := by decide

theorem witness_LoanRequests :
    (issues filled (.loan 10 5 1 4) (fun _ c => (lanesOf c.p.mask).length != 1)
      && issues lending (.loan 10 5 1 4) (fun _ c => (lanesOf c.p.mask).length == 1 && c.p.loan.isSome)
      && issues oneLane (.loan 10 5 1 4) (fun s c => (lanesOf c.p.mask).length == 1 && c.p.loan.isNone && decide (96 < (s.readS c.pid c.p 5).toNat))
      && issues (oneLane.writeS 0 5 96) (.loan 10 5 1 4) (fun s c => (lanesOf c.p.mask).length == 1 && c.p.loan.isNone
        && decide ((s.readS c.pid c.p 5).toNat = 96 ∧ (s.readS c.pid c.p 8).toNat ≤ 16 ∧ (s.readS c.pid c.p 6).toNat < (s.readS c.pid c.p 7).toNat)))
      = true := by decide

theorem witness_LoanIterationsAndRepayResults :
    (issues filled (.lnext 10 7) (fun s c => (s.helper c.pid).isNone && c.p.loan.isNone)
      && issues lending (.lnext 10 7) (fun s c => (s.helper c.pid).isNone && c.p.loan.isSome
        && ((((s.commitOwn c.pid).path c.pid).bind (·.loan)).bind Loan.take).isSome)
      && issues helped (.lnext 10 7) (fun s c => (s.helper c.pid).isSome && (s.pendingLoad c.pid).isNone)
      && issues filled (.repay 2 1 .add .n32) (fun s c => (s.helper c.pid).isNone && c.p.loan.isNone)
      && issues (lending.onPath 0 fun p => { p with loan := some { loan0 with repays := [⟨2, .min, .i32, []⟩] } }) (.repay 2 1 .add .n32)
        (fun s c => (s.helper c.pid).isNone && (c.p.loan.map fun l => l.fits 2 .add .n32) == some false)
      && issues lending (.repay 2 1 .add .n32) (fun s c => !c.helper && (s.helper c.pid).isNone
        && (c.p.loan.map fun l => l.fits 2 .add .n32) == some true && c.p.mask != 0)
      && issues filled .ldone (fun _ c => c.p.loan.isNone)
      && issues lending .ldone (fun s c => (match c.p.loan with | some l => l.repays.isEmpty && l.held.isEmpty | none => false)
        && (s.helpersWhere fun h => h.recruiter == c.pid).isEmpty)) = true := by decide

theorem witness_Barriers :
    (issues filled (.barArrive 15) (fun s c => !(s.entered (.barArrive 15) c).pendingArrival 0 15 && ((s.entered (.barArrive 15) c).unfenced c.pid 14).isNone)
      && issues filled (.barWait 0) (fun _ c => c.p.arrivedAt != some c.p.pc)
      && issues filled (.barSync 15) (fun s c => c.p.arrivedAt != some c.p.pc && !(s.entered (.barSync 15) c).pendingArrival 0 15
        && ((s.entered (.barSync 15) c).unfenced c.pid 14).isNone)
      && (filled.wave 0).isSome && (filled.block 0).isSome) = true := by decide

/-- A load in flight of the wave; a wave of few registers, a pool with none left, and a claim that waits. -/
def loading : State := { filled with ops :=
  [opOf .ld (.vector 20 1) 0xF (.load .b32 [] [])] }
def small : State := filled.onWave 0 fun w => { w with regCount := 8 }
def drained : State := (List.range 7).foldl (fun s k => s.setWave (4 * k + 4) { placeWave with regCount := 128 }) small
def claiming : State := small.setCore 0 { small.core 0 with claims := [(0, ⟨0, 8⟩)] }

theorem witness_WaitsAndClaims :
    (issues filled (.waitC 0 0 0 0) (fun s c => s.counter c.owner .ld == 0 && s.counter c.owner .tl == 0)
      && issues loading (.waitC 0 0 0 0) (fun s c => s.counter c.owner .ld == 1)
      && issues filled (.sleep (-1)) always && issues (hinted filled [pfx1]) (.sleep 0) (fun _ c => !c.pfx.isEmpty)
      && issues filled .yield always && issues filled .nop always
      && issues filled (.claim true 0 1) (fun s _ => decide (128 < s.regCountOf 0 + 8))
      && issues small (.claim false 0 15) (fun s _ => decide (s.regCountOf 0 + 120 ≤ 128) && s.canClaim 0 120)
      && issues small (.claim true 3 15) (fun s _ => decide (s.regCountOf 0 + 120 ≤ 128) && s.canClaim 0 120)
      && issues small (.giveback 1) (fun s _ => decide (s.regCountOf 0 < 16))
      && issues filled (.giveback 15) (fun s c => decide (128 ≤ s.regCountOf 0) && (s.registersPending c.owner ⟨[], [(8, 120)], [], []⟩).isNone)) = true := by decide

theorem witness_WaitsAndClaims_pool :
    (issues drained (.claim true 3 15) (fun s _ => !s.canClaim 0 120)
      && ((claiming.core 0).waitingClaims 0).map (·.pid) == [0] && (claiming.path 0).isSome && decide (8 ≤ claiming.poolFree 0 0)
      && claiming.run.running && !claiming.run.halted && !claiming.clusterStopped (clusterOf 0)) = true := by decide

/-! Vector instructions, predicates, lanes. -/

theorem witness_VectorIntegerElementForms :
    (issues (hinted filled [modPk]) (.vabsdI32 127 0 1) (fun _ c => pkWidth c.mods.pk == 16 && !c.mods.sat && (vectorTwo 16 (.vabsdI32 127 0 1)).isSome)
      && issues filled (.vshl 2 1 1) (fun _ c => pkWidth c.mods.pk == 32 && !c.mods.sat && (vectorTwo 32 (.vshl 2 1 1)).isSome)
      && issues filled (.vaddImm 2 1 0x80) (fun _ c => !c.mods.sat && (vectorImm 32 (.vaddImm 2 1 0x80)).isSome)
      && issues (hinted filled [modSat]) (.vsub 2 1 1) (fun _ c => c.mods.sat && (saturating (.vsub 2 1 1)).isSome && (vectorTwo 32 (.vsub 2 1 1)).isSome)
      && issues (hinted filled [modSat]) (.vmulImm 2 1 0x7F) (fun _ c => c.mods.sat && (saturating (.vmulImm 2 1 0x7F)).isSome
        && (vectorImm 32 (.vmulImm 2 1 0x7F)).isSome)) = true := by decide

theorem witness_VectorWholeLaneForms :
    ([Instr.vmulhI32 127 0 1, .vclz 2 1, .vbfi 2 1 1, .vmad 2 1 1, .vsel 2 1 0 7, .vmovScalar 2 95, .vmovi 2 (-1), .vsr 2 0, .vsr 2 1, .vsr 2 2].all (fun i => issues filled i always)
      && takes filled (.vsr 2 3) always
      && (vectorWhole (.vmulhI32 127 0 1)).isSome && issues (hinted filled [modVce]) (.vmad 2 1 1) (fun _ c => c.mods.vce)) = true := by decide

theorem witness_RoundingAndWidening :
    (2 * (5 % 2 ^ 1) = 2 ^ 1 ∧ (false = true ∧ 5 % 2 ^ 1 ≠ 0) = False) ∧ fp16 ∈ [fp16, bf16, e4m3, e5m2] ∧ 0x7C00 < 2 ^ (fp16.ew + fp16.mw + 1)
      ∧ fp16.value 0x7C00 ≠ .nan := by decide

theorem witness_FloatOperationsAreExact :
    (FV.fin true 3 (-2)).isFin = true ∧ (FV.fin false 0 0).isFin = true ∧ (FV.fin true 1 1000).isFin = true := by decide

theorem witness_VectorFloatForms :
    (issues filled (.vfadd 127 1 1) (fun _ c => (floatTwo c.mods (.vfadd 127 1 1)).isSome)
      && issues filled (.vfexp2 2 1) (fun _ c => (floatOne c.mods (.vfexp2 2 1)).isSome)
      && [Instr.vffma 2 1 1, .vhadd 2 1 1, .vhmul 2 1 1, .vhfma 2 1 1].all (fun i => issues filled i always && (issues (hinted filled [modVc]) i always
        || i == .vhadd 2 1 1 || i == .vhmul 2 1 1))) = true := by decide

/-- The block with an 8-bit format in descriptor 3. -/
def described : State := filled.onBlock 0 fun b => { b with nf := [(3, 0x88E000)] }

theorem witness_ConversionForms :
    (issues filled (.vfcvtF32F16 2 1 1) (fun _ c => (Instr.vfcvtF32F16 2 1 1).wf && (widening c.mods (.vfcvtF32F16 2 1 1)).isSome)
      && issues (hinted filled [modSat]) (.vfcvtTriI32 2 1 15) (fun _ c => (Instr.vfcvtTriI32 2 1 15).wf && (narrowing c.mods (.vfcvtTriI32 2 1 15)).isSome)
      && [Instr.vnadd 2 1 1 3, .vnmul 2 1 1 3, .vnfma 2 1 1 3, .vncvtF32 2 1 3 3, .vncvtNf 2 1 3 3].all (fun i =>
        issues filled i (fun s c => (s.descOf c.pid 3).isNone) && issues described i (fun s c => (s.descOf c.pid 3).map (·.count) == some 4))
      && [Instr.vncvtF32 2 1 8 3, .vncvtNf 2 1 8 3].all (fun i => checks filled i (fun s c => (s.descOf c.pid 3).isNone))
      && [Instr.vncvtF32 2 1 4 3, .vncvtNf 2 1 4 3].all (fun i => checks described i (fun s c => (s.descOf c.pid 3).map (·.count) == some 4))) = true := by decide

theorem witness_ComparesAndFloatOrder :
    ([Instr.vcmpI32 7 .ge 1 0 .and, .vcmpN32 0 .ltN 1 1 .or, .vfcmp 1 .unord 1 1 .write].all (fun i => issues filled i always)) = true
      ∧ fp32.value (0x7F800001 : Word).toNat = .nan ∧ (fp32.value (0x7F7FFFFF : Word).toNat).isFin = true ∧ (fp32.value (0x80000000 : Word).toNat).isFin = true := by
  decide

theorem witness_PredicatesLaneMovesAndBallots :
    ([(Instr.kandn 7 1 1 false, false), (.knot 0 1 true, true)].all (fun x => issues filled x.1 (fun _ _ => (predicateTwo x.1).map (·.2.2.2.1) == some x.2))
      && [Instr.kmovFromScalar 7 93, .kmovToScalar 1 93, .kpop 1 95, .kany 7 1, .kall 0 1, .vshfl 2 1 1, .vbfly 2 1 95, .vbcast 2 1 95, .vrfl 95 1,
        .vballot 93 1, .vcount 95 1].all (fun i => issues filled i always)) = true := by decide

theorem witness_ReductionsAndPixelQuads :
    ([Instr.vred 95 1 .add .n32, .vred 1 1 .and .i32, .vred 1 1 .or .n32, .vred 1 1 .min .i32, .vred 1 1 .max .n32, .vred 1 1 .addDet .f32,
        .vredmi 94 1 .n32, .vscan 2 1 .add .n32 true, .vred 1 1 .xor .i32, .vred 1 1 .min .n32, .vred 1 1 .max .i32, .vred 1 1 .add .f32,
        .vred 1 1 .min .f32, .vred 1 1 .max .f32, .vredmi 94 1 .i32, .vredmi 94 1 .f32, .vscan 2 1 .min .f32 false, .vscan 2 1 .addDet .f32 true, .vnbr 2 1 .diagonal 7, .vddx 2 1 0, .vddy 2 1 0].all (fun i => issues filled i (fun _ c => c.p.mask != 0))
      && [Instr.vred 1 1 .min .f32, .vred 1 1 .addDet .f32, .vredmi 94 1 .i32].all (fun i => issues (filled.onPath 0 fun p => { p with mask := 0 }) i (fun _ c => c.p.mask == 0)))
        = true := by decide

theorem witness_RegisterInstructionFrame :
    (issues filled (.sadd 93 4 5) (fun s c => computes (.sadd 93 4 5) && !(s.core (coreOf c.pid)).trEn && goesOn (exec (.sadd 93 4 5) s)
        && (s.tokensOf c.owner).isEmpty && !c.helper && (s.pathsOf (c.pid / 4)).all (fun q => q.1 == c.pid || q.2.st != .parkedMeeting) && (s.helper c.pid).isNone)
      && issues nested (.vfmin 3 1 1) (fun s c => computes (.vfmin 3 1 1) && !(s.core (coreOf c.pid)).trEn && goesOn (exec (.vfmin 3 1 1) s))) = true := by decide

theorem witness_Retirement :
    (match filled.path 0 with
    | some _ => !(filled.core (coreOf 0)).trEn && (filled.tokensOf (ownerOf 0)).isEmpty && !isHelper 0 && (filled.pathsOf 0).length == 1 && (filled.helper 0).isNone
    | none => false) = true
    ∧ (match helped.path helperBase, helped.helper helperBase with
      | some p, some h => p.mask != 0 && h.lanes &&& helped.helperHolds helperBase != 0 && (helped.tokensOf (ownerOf helperBase)).isEmpty
      | _, _ => false) = true := by decide

/-! Memory. -/

/-- Page 0x40000 mapped for user and system accesses; s2:s3 holds its address and v3 the offsets 0, 4, 8 and 12; v1 holds NaNs. -/
def mapped : State :=
  (((((({ (State.reset.placeWord 0).placeContext none with cur := .path 0, clk := 100 } : State).writeS 0 2 0x40000).writeV 0 3 1 4).writeV 0 3 2 8).writeV 0 3 3
    12).writeK 0 1 5)
/-- The accesses of its four lanes. -/
def mappedAccs : List LaneAcc := (List.range 4).map fun l => ⟨l, 0x40000 + 4 * l, .phys (0x50000 + 4 * l)⟩
def idle (s : State) : State := s.onPath 0 fun p => { p with mask := 0 }
def pinned (v : Word) : State := mapped.onWave 0 fun w => { w with pin := some ⟨7, v, 16⟩ }
def region : State :=
  (mapped.onPath 0 fun p => { p with region := some ⟨0x40000, none, false, []⟩ }).onWave 0 fun w => { w with reservation := 1 }
def mappedHelper : State :=
  { ({ (mapped.onPath 0 fun p => { p with loan := some loan0, mask := 1 }) with
      run := { mapped.run with
        helpers := [(helperBase, ⟨0, 0, 2, [], [], 1⟩)],
        paths := [(0, { placePath 0 with mask := 1, loan := some loan0 }), (helperBase, { Path.fresh 0x40040 2 50 with exempt := true })] } } : State).writeS helperBase 2 0x40000 with cur := .path helperBase }

theorem witness_AccessChecks :
    (issues mapped (.vld 8 3 2 .b32 .g) (fun s c =>
        decide (c.pfx.length ≤ 2) && (s.pinOf c.pid).isNone
        && [(0, 0x40001), (1, 0x40003)].find? (fun x => x.2 % 4 != 0) == some (0, 0x40001)
        && s.reachSpace c .g ⟨false, false, false⟩ 4 0x90000000 == .fault 4
        && s.reachSpace c .g ⟨false, false, false⟩ 4 0x40000 == .at_ (.phys 0x50000) && !s.mustWait (.phys 0x50000))
      && issues (mapped.setCore 0 { mapped.core 0 with tlb := [⟨false, 4, BitVec.ofNat 64 (2 ^ 63 + placePa)⟩] }) (.vld 8 3 2 .b32 .g) (fun s c =>
        s.reachSpace c .g ⟨false, false, false⟩ 4 0x40000 == .fault 5)
      && [pinned 0, pinned 1].all (fun s => issues s (.vld 8 3 2 .b32 .v) (fun s c => (s.pinOf c.pid).isSome))) = true := by decide

theorem witness_LoadsAndStoresIssueInEveryForm :
    (issues mapped (.vld 8 3 2 .b32 .g) (fun s c => !c.mods.split
        && s.checkAll c .g ⟨c.p.sys, false, false⟩ 4 true (s.laneAddrs c 3 2) == .ok mappedAccs && (s.matchesOf c.core 0 4 mappedAccs).isEmpty)
      && issues mapped (.sld 8 1 0x7F .b32 .g) (fun s c =>
        s.checkAll c .g ⟨c.p.sys, false, false⟩ 4 false [(0, s.scalarAddr c 2 4 0)] == .ok [⟨0, 0x40000, .phys 0x50000⟩])
      && issues mapped (.sld 8 1 0 .b32 .g) (fun s c =>
        s.checkAll c .g ⟨c.p.sys, false, false⟩ 4 false [((lowestLane c.p.mask).getD 96, s.scalarAddr c 2 4 0)] == .ok [⟨0, 0x40000, .phys 0x50000⟩]
          && (s.matchesOf c.core 0 4 [⟨0, 0x40000, .phys 0x50000⟩]).isEmpty)
      && [mapped, region].all (fun s => issues s (.vst 8 3 2 .b32 .g) (fun s c => !c.helper && (c.p.region.isNone || (s.wave c.wid).map (·.reservation) == some 1)
        && s.checkAll c .g ⟨c.p.sys, true, false⟩ 4 true (s.laneAddrs c 3 2) == .ok mappedAccs && (s.matchesOf c.core 1 4 mappedAccs).isEmpty))
      && [mapped, region].all (fun s => issues s (.sst 8 1 0 .b32 .g) (fun s c => !c.helper
        && s.checkAll c .g ⟨c.p.sys, true, false⟩ 4 false [(96, s.scalarAddr c 2 4 0)] == .ok [⟨96, 0x40000, .phys 0x50000⟩]
        && (s.matchesOf c.core 1 4 [⟨96, 0x40000, .phys 0x50000⟩]).isEmpty))) = true := by decide

theorem witness_LoadsAndStoresIssueInEveryForm_others :
    ([Instr.vld 8 3 2 .b32 .g, .vst 8 3 2 .b32 .g].all (fun i => issues (idle mapped) i (fun _ c => c.p.mask == 0))
      && issues mapped (.vld 8 3 2 .b64 .g) (fun s c =>
        s.checkAll c .g ⟨c.p.sys, false, false⟩ 8 true (s.laneAddrs c 3 2) == .trap 3 0x40004 (some 1))
      && issues (mapped.writeS 0 2 0x60000000) (.sld 8 1 0 .b32 .g) (fun s c => !s.faultKills (c.pid / 4) 0x60000000
        && s.checkAll c .g ⟨c.p.sys, false, false⟩ 4 false [(0, s.scalarAddr c 2 4 0)] == .trap 4 0x60000000 none)
      && issues mapped (.vst 8 3 2 .b64 .g) (fun s c =>
        s.checkAll c .g ⟨c.p.sys, true, false⟩ 8 true (s.laneAddrs c 3 2) == .trap 3 0x40004 (some 1))
      && issues (mapped.writeS 0 2 0x60000000) (.sst 8 1 0 .b32 .g) (fun s c => !c.helper
        && s.checkAll c .g ⟨c.p.sys, true, false⟩ 4 false [(96, s.scalarAddr c 2 4 0)] == .trap 4 0x60000000 none)
      && issues mappedHelper (.vst 118 3 2 .b32 .g) (fun s c => c.helper && (s.helper c.pid).isSome
        && s.checkAll c .g ⟨c.p.sys, true, false⟩ 4 true (s.laneAddrs c 3 2) == .ok [⟨1, 0x40000, .phys 0x50000⟩])) = true := by decide

/-- A splitting load of two lanes: lane 1's line is held back by a store of the wave in flight, so it is a miss; whether lane 0 is a
hit is the free value of log entry 9. -/
def modSplit : Nat := encodeWord (.mod { ModFields.zero with split := true })
def splitting : State :=
  { (hinted mapped [modSplit]).onPath 0 fun p => { p with mask := 3, prior := [0] } with
    ops := [opOf .st .none 3 (.store [(.phys 0x50004, 7)])], nextOp := 1 }

theorem witness_LoadsAndStoresIssueInEveryForm_split :
    issues splitting (.vld 8 3 2 .b32 .g) (fun s c => c.mods.split && !c.helper && c.mods.cpol != 3 && (s.freeSlots (c.pid / 4)).head? == some 1
      && !(s.core (coreOf c.pid)).trEn && s.checkAll c .g ⟨c.p.sys, false, false⟩ 4 true (s.laneAddrs c 3 2) == .ok (mappedAccs.take 2)
      && (s.matchesOf c.core 0 4 (mappedAccs.take 2)).isEmpty) = true
    ∧ splitting.hitsL1 (ctxOf .nop 0 (placePath 0) splitting) 4 ⟨1, 0x40004, .phys 0x50004⟩ = false
    ∧ splitting.hitsL1 (ctxOf .nop 0 (placePath 0) splitting) 4 ⟨0, 0x40000, .phys 0x50000⟩ = Config.l1Present 0 2048 := by
  refine ⟨by decide, ?_, ?_⟩
  · rw [State.hitsL1, Bool.and_eq_false_iff, Bool.and_eq_false_iff]
    exact Or.inl (Or.inr (by decide))
  · rw [State.hitsL1, Bool.and_assoc, Bool.and_assoc]
    exact Bool.and_eq_left_iff_imp.mpr fun _ => by decide

theorem witness_Atomics :
    (issues mapped (.vatomCas 8 3 2 false) (fun s c => (atomicForm (.vatomCas 8 3 2 false)).isSome
        && s.checkAll c .g ⟨c.p.sys, true, false⟩ 4 true (s.laneAddrs c 3 2) == .ok mappedAccs && (s.matchesOf c.core 2 4 mappedAccs).isEmpty)
      && issues mapped (.satomAddN64 8 2 0 false) (fun s c => (atomicForm (.satomAddN64 8 2 0 false)).isSome
        && s.checkAll c .g ⟨c.p.sys, true, false⟩ 8 false [(96, s.scalarAddr c 2 8 0)] == .ok [⟨96, 0x40000, .phys 0x50000⟩]
        && (s.matchesOf c.core 2 8 [⟨96, 0x40000, .phys 0x50000⟩]).isEmpty)
      && !(((Loc.phys 0x50000).span 8).any mapped.locBad)) = true := by decide

/-- One operation in flight, of wave 0, at the PC before its path's. -/
def inFlight (cls : OpClass) (d : Dest) (k : OpKind) : State :=
  { mapped.onPath 0 fun p => { p with prior := [0] } with ops := [opOf cls d 0xF k], nextOp := 1 }
def found (s : State) (h : Op → Bool) : Bool :=
  match s.findOp 0 with
  | some o => Memory.wf s.mem && s.mayPerform o && !o.dropped && h o
  | none => false

theorem witness_StoresAtomicsFencesAndPuts :
    (found (inFlight .st .none (.store [(.phys 0x50004, 7)])) (fun _ => true)
      && found (inFlight .ld (.vector 8 1) (.atomic .add32 [(0, .phys 0x50004, 7)])) (fun _ => !((Loc.phys 0x50004).span 4).any mapped.locBad)
      && found (inFlight .st .none (.scatter [(.phys 0x50004, 0x3F800000, 0x40000000)])) (fun _ => true)
      && issues mapped (.fence 15 15 .wave) (fun s c => ((s.entered (.fence 15 15 .wave) c).unperformed c.owner 15).isNone)
      && issues (inFlight .st .none (.store [(.phys 0x50004, 7)])) (.fence 12 4 .cluster) (fun s c =>
        ((s.entered (.fence 12 4 .cluster) c).unperformed c.owner 12).isSome)
      && issues mapped (.fenceOwn .package) (fun s c => ((s.entered (.fenceOwn .package) c).unperformed c.owner 14).isNone)
      && issues mapped (.fenceFar .package) (fun s c => ((s.entered (.fenceFar .package) c).unperformed c.owner 14).isNone && s.ops.isEmpty)
      && issues mapped (.xput 8 3 2 .b32 1) (fun s c =>
        s.checkAll c .g ⟨c.p.sys, true, true⟩ 4 true (s.laneAddrs c 3 2) == .ok mappedAccs && (s.matchesOf c.core 1 4 mappedAccs).isEmpty)) = true := by decide

theorem witness_LoadsAndTileLoadsReturn :
    (found (inFlight .ld (.vector 126 2) (.load .b64 [(0, .phys 0x50000), (3, .phys 0x50008)] [])) (fun o => !(mapped.core (coreOf o.pid)).trEn
        && !mapped.locBad (.phys 0x50000) && (mapped.readLoc (.phys 0x50000)).isSome)
      && found ({ inFlight .ld (.vector 8 1) (.load .b32 [(0, .phys 0x50000)] []) with ras := { mapped.ras with bad := [0x50000 / 8] } })
        (fun o => ((Loc.phys 0x50000).span 4).any ({ inFlight .ld (.vector 8 1) (.load .b32 [(0, .phys 0x50000)] []) with
          ras := { mapped.ras with bad := [0x50000 / 8] } } : State).locBad && (mapped.path o.pid).map (·.wait) == some .none)
      && found (inFlight .ld .none (.values [(0, [5])] none)) (fun _ => true)
      && found (inFlight .ld (.vector 8 2) (.values [(0, [5, 6]), (95, [7, 8])] (some (0x40000, some 1)))) (fun _ => true)
      && found (inFlight .tl .none (.vaultWrite [(vaultKey 0 1 2, 9)])) (fun _ => true)
      && found (inFlight .tl .none (.hashDesc [⟨0x10000, 0, 0, false, false, 4⟩])) (fun o => (mapped.blockOf o.pid).isSome)
      && found (inFlight .tl (.vector 8 4) (.query [] 0)) (fun _ => true)) = true := by decide

/-! Volumes, hash grids, queries, queues, votes. -/

/-- Little-endian bytes `o` bytes into the mapped page. -/
def poke (s : State) (o n v : Nat) : State := { s with mem := Memory.write s.mem (placePa + o) (bytesOf n v) }
/-- A volume of 8 by 8 by 8 texels described at 0x40000, and a hash grid of one level. -/
def volume : State := poke (poke (mapped.writeV 0 20 0 0x40900000) 0 8 0x48000) 8 6 0x000800080008
def grid (levels : Nat) : State := poke (poke (poke mapped 0 8 levels) 32 8 0x48000) 48 8 (4 * 2 ^ 32 + 1)
def level0 : HashLevel := ⟨0x48000, 0, 1, false, false, 4⟩
def hashed : State := mapped.onBlock 0 fun b => { b with hash := some [level0] }

theorem witness_VolumesAndHashGrids :
    ([Instr.tex3 8 20 2, .texp 8 20 2].all (fun i =>
        issues volume i (fun s c => c.p.mask != 0 && (match s.readDesc c true 0x40000 32 with | .ok b _ => (volumeOf b).isSome | .stop _ => false))
        && issues mapped i (fun s c => c.p.mask != 0 && (match s.readDesc c true 0x40000 32 with | .ok b _ => (volumeOf b).isNone | .stop _ => false))
        && issues (mapped.writeS 0 2 0x40004) i (fun s c => c.p.mask != 0 && (s.readS64 c.pid c.p 2).toNat % 32 != 0)
        && issues (idle volume) i (fun _ c => c.p.mask == 0))
      && issues volume (.texp 8 20 2) (fun s c => match s.readDesc c true 0x40000 32 with
        | .ok b _ => (match volumeOf b with
          | some v => (match s.checkAll c .g ⟨c.p.sys, false, false⟩ 4 true ((lanesOf c.p.mask).map fun l =>
              (v.sample true [s.readV c.pid 20 l, s.readV c.pid 21 l, s.readV c.pid 22 l]).2.filterMap fun t => t.map fun q => (l, q)).flatten with
              | .ok accs => (s.matchesOf c.core 0 4 accs).isEmpty
              | _ => false)
          | none => false)
        | .stop _ => false)
      && resolveIndex 1 5 7 == some 2 && decide (5 ≤ 7)) = true := by decide

theorem witness_VolumesAndHashGrids_hash :
    (issues (mapped.writeS 0 2 0x40004) (.hdesc 2) (fun s c => (s.readS64 c.pid c.p 2).toNat % 32 != 0)
      && [0, 17, 2 ^ 63].all (fun n => issues (grid n) (.hdesc 2) (fun s c => match s.readDesc c false 0x40000 32 with
        | .ok h _ => numOf (h.take 8) == n && (h.drop 8).all (· == 0) | .stop _ => false))
      && issues (grid 1) (.hdesc 2) (fun s c => (match s.readDesc c false 0x40000 32 with
        | .ok h _ => numOf (h.take 8) == 1 && (h.drop 8).all (· == 0) | .stop _ => false)
        && (match s.readDesc c false 0x40020 32 with | .ok b _ => hashLevels 1 b == some [level0] && [level0].all (s.pinnedOk (clusterOf c.core)) | .stop _ => false))
      && issues (poke (grid 1) 48 4 0) (.hdesc 2) (fun s c => match s.readDesc c false 0x40020 32 with | .ok b _ => (hashLevels 1 b).isNone | .stop _ => false)
      && issues (idle hashed) (.hgath 20 4) (fun _ c => c.p.mask == 0)
      && issues mapped (.hgath 20 4) (fun s c => c.p.mask != 0 && (s.hashContext c.pid).isNone)
      && issues (idle hashed) (.hscat 4 24) (fun _ c => c.p.mask == 0)
      && issues mapped (.hscat 4 24) (fun s c => c.p.mask != 0 && ((s.entered (.hscat 4 24) c).hashContext c.pid).isNone)) = true := by decide

/-- The same block where every lane's first coordinate is a NaN. -/
def hashedNan : State := (List.range 4).foldl (fun s l => s.writeV 0 4 l 0x7FC00000) hashed

theorem witness_VolumesAndHashGrids_access :
    (issues hashedNan (.hgath 20 4) (fun s c => !c.helper && s.hashContext c.pid == some [level0]
        && !s.boundsBad c.pid c.wid ⟨[], [(20, 1)], [], []⟩ && (s.registersPending c.owner ⟨[], [(20, 1)], [], []⟩).isNone
        && totalFeatures [level0] == 2 && (lanesOf c.p.mask).all fun l => isNan32 (s.readV c.pid 4 l))
      && issues hashedNan (.hscat 4 24) (fun s c => !c.helper && (s.entered (.hscat 4 24) c).hashContext c.pid == some [level0]
        && !s.boundsBad c.pid c.wid ⟨[(24, 2)], [], [], []⟩ && (s.registersPending c.owner ⟨[(24, 2)], [], [], []⟩).isNone)
      && issues (hashed.onPath 0 fun p => { p with mask := 1 }) (.hgath 20 4) (fun s c => match s.checkAll c .g ⟨c.p.sys, false, false⟩ 4 true
        ((lanesOf c.p.mask).map fun x => ([level0].map fun l => (l.corners [0, 0, 0]).map fun z => (x, l.entryAt false z.2)).flatten).flatten with
        | .ok accs => (s.matchesOf c.core 0 4 accs).isEmpty && (level0.corners [0, 0, 0]).all fun z => match placeIn accs 0 (level0.entryAt false z.2) with
            | some p => !s.mustWait p && (s.unseenStore c.pid (p.span 4)).isNone
            | none => false
        | _ => false)) = true := by decide

/-- A block with the first window of the vault, and with four queries held by its cluster. -/
def windowed : State := ((mapped.onBlock 0 fun b => { b with awb := 16, awl := 8 }).writeS 0 30 16)
def querying : State := { mapped with ops := (List.range 4).map fun k =>
  { opOf .tl (.vector 8 4) 1 (.query [] false) with id := k, owner := 4 * k, pid := 16 * k, pc := 0x40000 }, nextOp := 4 }

theorem witness_QueriesAndVault :
    ([Instr.isectRay 32 16 2, .isectTile 32 16 2, .isectNext 32].all (fun i => issues mapped i (fun s c => c.p.mask != 0 && s.ops.isEmpty) && issues (idle mapped) i always)
      && issues querying (.isectNext 40) (fun s c => decide (4 ≤ s.queriesOf (clusterOf c.core)) && s.ops.all fun o => !s.shownTo c.pid o)
      && [Instr.vaccRd 8 30 2 7, .vaccWr 8 30 2 7].all (fun i => issues (idle windowed) i (fun _ c => c.p.mask == 0))
      && issues (windowed.writeS 0 30 17) (.vaccWr 8 30 2 7) (fun s c => ((s.entered (.vaccWr 8 30 2 7) c).readS c.pid c.p 30).toNat + 7 == 24)
      && [Instr.vaccRd 8 30 2 7, .vaccWr 8 30 2 7].all (fun i => issues windowed i (fun s c => (s.blockOf c.pid).isSome && ((s.entered i c).blockOf c.pid) == s.blockOf c.pid && c.p.mask != 0
        && (List.range 8).all fun k => !(s.entered i c).rowOwned (clusterOf c.core) (16 + k)))
      && issues (windowed.writeS 0 30 17) (.vaccRd 8 30 2 7) (fun s c => (s.readS c.pid c.p 30).toNat + 7 == 24)) = true := by decide

/-- A screen-tile hierarchy of one node at 0x40100, whose upper-left quadrant holds one triangle, number 5, at depth 1.0. -/
def oneTriangle : State :=
  poke (poke (poke (poke (poke (poke (poke (poke mapped 0x108 8 1) 0x118 8 0x40180) 0x120 4 0x81000000) 0x188 4 0x3F800000) 0x18C 4 0x40800000)
    0x194 4 0x3F800000) 0x19C 8 0x3F80000040800000) 0x1A4 8 5

set_option exponentiation.threshold 1024 in
theorem witness_QueriesAndVault_answer :
    (match (oneTriangle.answer 0 false ⟨true, [0, 0], 0x40100, some (0x3F800000, 4)⟩).1 with
    | .hit h => h.index == 5 && h.t == 0x3F800000
    | _ => false) = true := by decide

/-- The block's launch maps queue 2 to a ring of two entries at 0x40000, holding `n` entries from a head that wraps. -/
def ringed (n : Nat) : State :=
  { poke (poke (poke mapped 0 8 0x41000) 8 8 1) 16 8 (2 ^ 32 * ((2 ^ 32 - 1 + n) % 2 ^ 32) + (2 ^ 32 - 1)) with
    launches := [⟨0, 0, 0, List.replicate 0xD8 0 ++ bytesOf 6 0x2000 ++ List.replicate 34 0, [], true, 1, true, [(0, 0)], [], [], false, false⟩] }
/-- A load of the path that has not returned. -/
def unperformedLoad (s : State) : State :=
  { s.onPath 0 fun p => { p with prior := [0] } with ops := [opOf .ld (.vector 20 1) 0xF (.load .b32 [] [])], nextOp := 1 }
def itemsHeld (n : Nat) : State := mapped.setCore 0 { mapped.core 0 with q0 := List.replicate n (7, [1, 2]) }
/-- The task queue at 0x42000 with segments of two entries. -/
def tasked (n : Nat) : State :=
  { poke (mapped.writeS 0 30 0) 0x2000 4 0x80 with dev := { mapped.dev with tqEn := true, tqLseg := 1, tqbase := 0x42000 }, tq := [(0, (0, n))] }

theorem witness_Queues :
    ([0, 255, 256].all (fun n => [true, false].all fun nb => issues (itemsHeld n) (.qpush nb 3 0 20) (fun s c => ((s.entered (.qpush nb 3 0 20) c).unfenced c.pid 14).isNone)
        && issues (itemsHeld n) (.qpop nb 3 0 20) always)
      && issues (unperformedLoad (itemsHeld 0)) (.qpush true 3 0 20) (fun s c => ((s.entered (.qpush true 3 0 20) c).unfenced c.pid 14).isSome)
      && issues (unperformedLoad (ringed 0)) (.qpush true 3 2 20) (fun s c => ((s.entered (.qpush true 3 2 20) c).unreleased c.pid).isSome)
      && issues mapped (.qpush true 3 1 20) always && issues mapped (.qpop false 0 1 20) always
      && [0, 1, 2].all (fun n => issues (ringed n) (.qpush true 3 2 20) (fun s0 c => let s := s0.entered (.qpush true 3 2 20) c
          (s.unreleased c.pid).isNone
          && ((s.blockOf c.pid).bind s.launchOf).map (·.queue 2) == some 0x40000
          && s.reachMode c.core c.p.sys true 0x40000 == .at_ (.phys 0x50000) && (s.heldBy (some c.pid) ((Loc.phys 0x50000).span 32)).isNone
          && (match s.ringPush (s.reachMode c.core c.p.sys) (some c.pid) 0x40000 (s.groupBytes c 20 8) with
              | .done _ _ => decide (n < 2) | .no => n == 2 | _ => false)
          && (match s.ringPop (s.reachMode c.core c.p.sys) (some c.pid) 0x40000 with
              | .done _ _ => decide (0 < n) | .no => n == 0 | _ => false))
        && issues (ringed n) (.qpop true 3 2 20) always)) = true := by decide

theorem witness_Queues_tasks :
    (issues mapped (.tqEnq true 0 30) (fun s c => !s.dev.tqEn && ((s.entered (.tqEnq true 0 30) c).unreleased c.pid).isNone)
      && issues ((tasked 0).writeS 0 30 8) (.tqEnq true 0 30) (fun s c => s.dev.tqEn && (s.readS c.pid c.p 30).extractLsb' 3 4 != 0)
      && issues (tasked 2) (.tqEnq true 0 30) (fun s c => s.dev.tqEn && (s.readS c.pid c.p 30).extractLsb' 3 4 == 0 && decide (2 ^ s.dev.tqLseg ≤ 2))
      && issues (tasked 1) (.tqEnq false 0 30) (fun s c => s.dev.tqEn && (s.readS c.pid c.p 30).extractLsb' 3 4 == 0
        && s.reachMode c.core c.p.sys true 0x42020 == .at_ (.phys 0x52020) && (s.heldBy (some c.pid) ((Loc.phys 0x52020).span 32)).isNone)
      && issues (tasked 0) (.tqDeq false 0 30) (fun s c => match s.findTask (s.reachMode c.core c.p.sys) (some c.pid) (searchOrder c.core) with
        | .none => true | _ => false)
      && issues (tasked 1) (.tqDeq false 0 30) (fun s c => match s.findTask (s.reachMode c.core c.p.sys) (some c.pid) (searchOrder c.core) with
        | .some_ 0 0 _ => true | _ => false)
      && ((mapped.onPath 0 fun p => { p with st := .waiting, wait := .queue }).path 0).map (·.wait) == some .queue) = true := by decide

/-- The same page mapped by a page table at 0x1000, for the agents that translate through PTROOT. -/
def tables (s : State) : State :=
  { s with
    mem := Memory.write (Memory.write (Memory.write (Memory.write s.mem 0x1000 (bytesOf 8 0x2001)) 0x2000 (bytesOf 8 0x3001)) 0x3000 (bytesOf 8 0x4001))
      0x4020 (bytesOf 8 placePte.toNat),
    dev := { s.dev with ptroot := 0x1000 } }
def itemTask : State := poke (tables (tasked 1)) 0x2000 4 0xFF00

theorem witness_Queues_items :
    ((match itemTask.segFind itemTask.reachDev none 0 (fun e => taskKind e == 0xFF) 0 1 with | some (0, .ok _) => true | _ => false)
      && (itemTask.segBlocked itemTask.reachDev none 0 0).isNone && itemTask.dev.tqEn && itemTask.segment 0 == (0, 1) && decide ((itemTask.core 0).q0.length < 256)
      && ((ringed 1).heldBy (some 0) ((Loc.phys 0x50000).span 32)).isNone && ((ringed 1).heldBy none ((Loc.phys 0x51000).span 32)).isNone
      && (match (ringed 1).ringAt (.phys 0x50000) with
          | .ok d => decide (d.head < 2 ^ 32 ∧ d.tail < 2 ^ 32) && d.used == 1
            && (ringed 1).reachMode 0 false true ((d.base + 32 * (d.tail % 2 ^ d.lcap)) % 2 ^ 64) == .at_ (.phys 0x51000)
          | _ => false)) = true := by decide

/-- A mint word that needs three votes and has two, and a record to pin at 0x40010. -/
def voting : State := poke mapped 0 8 (2 ^ 33 + 2 * 2 ^ 16 + 2 * 3)

theorem witness_VotesAndPins :
    (issues (mapped.writeS 0 2 0x40004) (.mint 20 2) (fun s c => ((s.entered (.mint 20 2) c).unreleasedAll c.pid).isNone
        && (s.readS64 c.pid c.p 2).toNat % 8 != 0)
      && [mapped, voting].all (fun s => issues s (.mint 20 2) (fun s c => ((s.entered (.mint 20 2) c).unreleasedAll c.pid).isNone
        && s.reachMode c.core c.p.sys true 0x40000 == .at_ (.phys 0x50000) && (s.heldBy (some c.pid) ((Loc.phys 0x50000).span 8)).isNone))
      && issues (unperformedLoad mapped) (.mint 20 2) (fun s c => ((s.entered (.mint 20 2) c).unreleasedAll c.pid).isSome)
      && issues (mapped.writeS 0 2 0x40004) (.vpin 92 2) always
      && fld (voting.readNum (.phys 0x50000) 8) 1 15 == 3 && fld (mapped.readNum (.phys 0x50000) 8) 1 15 == 0
      && issues voting (.vpin 92 2) (fun s c => s.reachMode c.core c.p.sys true 0x40000 == .at_ (.phys 0x50000)
        && s.reachMode c.core c.p.sys true 0x40010 == .at_ (.phys 0x50010) && s.reachMode c.core c.p.sys false 0x40008 == .at_ (.phys 0x50008)
        && (s.heldBy (some c.pid) ((Loc.phys 0x50000).span 8)).isNone && (s.heldBy (some c.pid) ((Loc.phys 0x50010).span 8)).isNone
        && (s.heldBy (some c.pid) ((Loc.phys 0x50008).span 8)).isNone && !s.pinWaits c.wid)
      && voting.reach 0 ⟨true, true, false⟩ 0x40010 == .at_ (.phys 0x50010) && !voting.mustWait (.phys 0x50010)) = true := by decide

/-! Tiles, copies, streams. -/

/-- A tile of 2 rows of 16 bytes at the start of the block's scratchpad, and a tile's description in s20 to s23. -/
def tileA (st : TileState) : Tile :=
  { base := 0, rows := 2, cols := 16, pitch := 16, bdeck := false, fmt := 0, defined := true, st := st, rel := false, refs := 0, own := 0, tn := 5 }
def withTile (t : Tile) (s : State) : State := { s with run := { s.run with tiles := [(0, t)] } }
def tiled (t : Tile) : State :=
  withTile t ((((mapped.writeS 0 20 0x80).writeS 0 21 0x20010).writeS 0 22 16).writeS 0 40 16)
def tableOp (d : Option Tile) : State :=
  withTile (tileA .ready) (inFlight .tl .none (.table 0 d))

theorem witness_TileTable :
    ([Instr.tstat 5 20, .tfree 5, .tdef 5 20].all (fun i =>
        issues mapped i (fun s c => (s.tileOf (s.bidOf c.pid) 5).isNone)
        && [TileState.empty, .filling, .ready, .draining].all fun st => issues (tiled (tileA st)) i (fun s c =>
          (s.tileOf (s.bidOf c.pid) 5).map (·.2.st) == some st && !s.tableBusy (clusterOf c.core) && (s.blockOf c.pid).isSome))
      && issues (tiled (tileA .empty)) (.tdef 5 20) (fun s c => match s.blockOf c.pid with
        | some b => (describeTile b (tileA .empty) [0x80, 0x20010, 16, 0]).isSome && (describeTile b (tileA .empty) [0x81, 0x20010, 16, 0]).isNone
            && (describeTile b (tileA .empty) [0x1FFE0, 0x20010, 16, 0x80000000]).isNone
            && ((describeTile b (tileA .empty) [32, 0x20010, 0, 0x80000000]).map (·.bdeck)) == some true
        | none => false)
      && [none, some (tileA .empty)].all (fun d => found (tableOp d) (fun o => o.kind == .table 0 d && tget (tableOp d).run.tiles 0 == some (tileA .ready))))
        = true := by decide

/-- Pairs of a fill of one row, and of a drain. -/
def pairs16 : List (Loc × Loc) := (List.range 16).map fun j => (.phys (0x50000 + j), .sram 0 j)
def copying (k : OpKind) (st : TileState) : State :=
  { withTile (tileA st) (inFlight .cp .none k) with
    ops := [{ opOf .cp .none 0xF k with vas := [(.phys 0x50000, 0x40000)] }] }

theorem witness_CopyEngine :
    ([(Instr.cpTile 5 2 40, TileState.empty), (.cpStore 5 2 40, .ready)].all (fun x =>
        issues mapped x.1 (fun s c => (s.tileOf (s.bidOf c.pid) 5).isNone)
        && issues (tiled (tileA .filling)) x.1 (fun s c => (s.tileOf (s.bidOf c.pid) 5).map (·.2.st) == some .filling && (s.blockOf c.pid).isSome)
        && issues ((tiled (tileA x.2)).writeS 0 2 0x40008) x.1 (fun s c => (s.readS64 c.pid c.p 2).toNat % 16 != 0)
        && issues ((tiled (tileA x.2)).writeS 0 40 0) x.1 (fun s c => (s.readS c.pid c.p 40).toNat % 16 == 0 && decide ((s.readS c.pid c.p 40).toNat < (tileA x.2).rowBytes))
        && issues (tiled (tileA x.2)) x.1 (fun s c => match s.checkRanges c ((rowChunks 0x40000 16 16 2).map fun r => (x.2 == .ready, r)), s.blockOf c.pid with
          | .ok ps, some b => (s.matchesOf c.core 3 1 (copyAccesses ps ((tileA x.2).places b))).isEmpty && decide (s.copiesHeld (clusterOf c.core) < 64)
          | _, _ => false))
      && issues (tiled { tileA .empty with bdeck := true, base := 32, pitch := 0 }) (.cpBdeck 5 2 40) (fun s c =>
        match s.checkRanges c ((rowChunks 0x40000 16 16 2).map fun r => (false, r)) with | .ok _ => true | _ => false)) = true := by decide

theorem witness_CopyEngine_copy :
    (issues ((mapped.writeS 0 2 0x40008).writeS 0 6 0x40000) (.cpCopy 30 2 6) (fun s c => (s.readS64 c.pid c.p 2).toNat % 16 != 0)
      && issues (mapped.writeS 0 6 0x40008) (.cpCopy 30 2 6) (fun s c => (s.readS64 c.pid c.p 6).toNat % 16 != 0)
      && issues (mapped.writeS 0 30 8) (.cpCopy 30 2 2) (fun s c => (s.readS c.pid c.p 30).toNat % 16 != 0)
      && issues mapped (.cpCopy 30 2 2) (fun s c => s.readS c.pid c.p 30 == 0 && decide (s.copiesHeld (clusterOf c.core) < 64))
      && issues (mapped.writeS 0 30 32) (.cpCopy 30 2 2) (fun s c =>
        match s.checkRanges c ((chunks 0x40000 32).map (fun r => (false, r)) ++ (chunks 0x40000 32).map fun r => (true, r)) with
        | .ok ps => (s.matchesOf c.core 3 1 (copyAccesses ps [])).isEmpty && ps.length % 2 == 0
        | _ => false)
      && [(OpKind.copyFill 0 pairs16, TileState.filling), (.copyDrain 0 (pairs16.map fun p => (p.2, p.1)), .draining), (.copyMem pairs16, .ready)].all (fun x =>
        found (copying x.1 x.2) (fun o => o.kind == x.1 && (copying x.1 x.2).mayMove 0 x.1.pairs && (tget (copying x.1 x.2).run.tiles 0).isSome))
      && found (copying (.copyDrain 0 (pairs16.map fun p => (p.2, p.1))) .draining) (fun o =>
        o.kind.pairs.any (fun p => p.2.line == some (0x50000 / 128))
          && (copying (.copyDrain 0 (pairs16.map fun p => (p.2, p.1))) .draining).mayMove 0 (o.kind.pairs.filter fun p => p.2.line == some (0x50000 / 128)))
      && found (copying (.copyFill 0 pairs16) .filling) (fun o => o.vaOf (.phys 0x50000) == 0x40000 && ((Loc.phys 0x50000).granule).isSome
        && ((mapped.pathsOf o.owner).head?).map (·.1) == some 0)) = true := by decide

/-- It is the turn of a stream whose first entry holds `op`, and `h` holds. -/
def turns (s : State) (op : StreamOp) (h : State → SCtx → Bool) : Bool :=
  match s.cur with
  | .stream bid =>
    (match s.block bid with
    | some b =>
      (match b.stream with
      | some st =>
        (match st.head with
        | some e => e.op == some op && st.state == .running && s.run.running && !s.run.halted && h s ⟨bid, b, st, e⟩
        | none => false)
      | none => false)
    | none => false)
  | _ => false

/-- The stream's entry over a map of 2 by 4 by 16 at row 16, in a block whose window starts at row 16; tile 5 holds A, tile 6 B. -/
def tileB : Tile := { tileA .ready with base := 0x80, rows := 32, cols := 16, tn := 6 }
def mapK (k : Nat) : OperandMap := ⟨2, 4, k, 0, 16, false, false⟩
def matrix (op : StreamOp) (f : StreamEntry → StreamEntry) : State :=
  let st : Stream := { Stream.start placeVa none with entries := [f { entryOf op with map := mapK 16, map2 := mapK 16 }], nextId := 1, counters := [(1, 2)] }
  let s := (State.reset.placeContext (some st)).onBlock 0 fun b => { b with awb := 16, awl := 8 }
  { s with cur := .stream 0, clk := 100, run := { s.run with tiles := [(0, tileA .ready), (1, tileB)] } }
def mmaI : StreamOp := .mmaI8 false 5 6 0
def mmaF : StreamOp := .mmaE4m3E4m3 true 5 6 0

theorem witness_MatrixInstructions :
    (turns (matrix mmaF (fun e => { e with map := mapK 0 })) mmaF (fun s c => match mmaOf mmaF with
        | some g => (c.mmaCheck s g).isNone && !c.st.blockedRows c.e false && !s.vaccWrites (c.b.core / 4) 16 2
          && c.st.entries == [c.e] && decide (c.e.map.n ≤ 384) | none => false)
      && turns (matrix mmaF id) mmaF (fun s c => (mmaOf mmaF).map (fun g => c.mmaCheck s g) == some none)
      && turns (matrix mmaI id) mmaI (fun s c => ((mmaOf mmaI).bind fun g => c.mmaCheck s g) == some 7)
      && turns (matrix mmaI (fun e => { e with map := mapK 0 })) mmaI (fun _ c => c.e.map.k == 0)
      && [StreamOp.mmapShape 7 128 384, .mmapK 0 16 255, .mmapAcc 1 1023 true false, .macz 16 8, .macz 16 9, .macz 0 0,
          .mscl 2 1 9 .row, .mscl 2 1 5 .col].all (fun op => turns (matrix op id) op (fun s c => (s.tileOf c.bid 9).isNone && c.e.map.m != 0 && c.e.map.n != 0))
      && turns (matrix (.mscl 2 1 5 .rc) (fun e => { e with map := ⟨0, 4, 16, 0, 16, false, false⟩ })) (.mscl 2 1 5 .rc) (fun _ c => c.e.map.m == 0)) = true := by decide

/-- The same stream with an earlier entry that has issued. -/
def behind (op : StreamOp) : State :=
  (matrix op fun e => { e with id := 1 }).onStream 0 fun st => { st with entries := { entryOf mmaF with issued := true } :: st.entries }
def reserved : State := (matrix .mend id).onStream 0 fun st => { st with reservation := some 3 }
def noPaths (s : State) : State := { s with run := { s.run with paths := [] } }
def noWaves (s : State) : State := { s with run := { s.run with waves := [], paths := [] } }

theorem witness_StreamControlAndEvents_control :
    ([StreamOp.mbarSig 15, .mbarWait 0, .mloop 0 (-1), .mend, .mhalt, .mrel 5, .mrel 9, .mset 3 (-1)].all (fun op =>
        turns (matrix op id) op (fun _ c => (c.st.before c.e.id).isEmpty && !c.e.begun) && turns (behind op) op (fun _ c => !(c.st.before c.e.id).isEmpty))
      && turns reserved .mend (fun _ c => c.st.reservation == some 3)
      && turns (matrix (.mloop 1 (-5)) (fun e => { e with pfx := some 0xFFFFFF })) (.mloop 1 (-5)) (fun _ c => tgetD 0 c.st.counters 1 == 2)
      && turns (matrix (.mrel 5) id) (.mrel 5) (fun s c => (s.tileOf c.bid 5).isSome && (s.tileOf c.bid 9).isNone && s.firstWave c.bid == some 0 && ((s.pathsOf 0).head?).isSome && (s.wave 0).isSome)
      && turns (noPaths (matrix .mhalt id)) .mhalt (fun s c => s.firstWave c.bid == some 0 && (s.pathsOf 0).isEmpty && (s.wave 0).isSome)
      && turns (noWaves (matrix (.mbarWait 0) id)) (.mbarWait 0) (fun s c => (s.firstWave c.bid).isNone)
      && (streaming .mend).streamOf 0 != none && (State.reset.placeContext (some (Stream.start placeVa none))).streamOf 0 == some (Stream.start placeVa none))
        = true := by decide

/-- A mend word at the stream's PC; a granted pass; and vault work that has begun. -/
def fetching : State := State.reset.withFetchWord 32 0xCD800000
def offering : State := matrix mmaF fun e => { e with issued := true }
def passing : State :=
  (matrix mmaF fun e => { e with issued := true, begun := true, nextPass := 1, inFlight := 1 }).setCluster 0
    { offering.cluster 0 with passes := [⟨0, 0, 0⟩] }
def clearingRows : State := matrix (.macz 16 8) fun e => { e with issued := true, begun := true }
def scaling : State :=
  let s := matrix (.mscl 2 1 5 .row) fun e => { e with issued := true, begun := true }
  { s with run := { s.run with tiles := [(0, { tileA .ready with fmt := 6, cols := 4 })] } }

theorem witness_StreamControlAndEvents_events :
    ((match fetching.block 0 with
      | some b => (match b.stream with
        | some st => st.state == .running && decide (st.entries.length < 32) && !st.entries.any StreamEntry.holdsFetch
            && fetching.reach b.core ⟨false, false, false⟩ st.pc == .at_ (.phys placePa) && fetching.readNum (.phys placePa) 4 == 0xCD800000
        | none => false)
      | none => false)
      && (match (offering.refreshCluster 0).winner (offering.clusterBlocks 0), (offering.refreshCluster 0).block 0 with
        | some 0, some b => (b.stream.bind fun st => (offering.refreshCluster 0).offers 0 b st).isSome
        | _, _ => false)
      && decide ((offering.cluster 0).passes.length < 32) && !offering.clusterStopped 0
      && (passing.cluster 0).passes.length == 1 && ((passing.streamOf 0).bind fun st => st.entries.find? fun e => e.id == 0).map (·.op) == some (some mmaF)
      && (passing.tileOf 0 5).isSome && (passing.tileOf 0 6).isSome && decide (16 + 2 ≤ 1024)
      && ((passing.streamOf 0).map fun st => st.entries.all fun f => match f.op.bind mmaOf with | some g => passesOf g f.map != 0 | none => true) == some true
      && [clearingRows, scaling].all (fun s => match (s.startAdder 0).block 0, (s.startAdder 0).streamOf 0 with
        | some _, some st => (st.entries.find? StreamEntry.adding).isSome && st.entries.all fun f => (f.op.bind mmaOf).isNone
        | _, _ => false)
      && ((scaling.startAdder 0).tileOf 0 5).isSome) = true := by decide

/-! Rings, launches, the events of paths. -/

/-- Ring 7 at 0x40000, of two entries at 0x41000, whose first entry has these bytes 0 to 7, 8 to 15 and 16 to 23. -/
def command (head : Nat) (addr v : Nat) : State :=
  let s := poke (poke (poke (poke (poke (poke (tables mapped) 0 8 0x41000) 8 8 1) 16 8 (2 ^ 32)) 0x1000 8 head) 0x1008 8 addr) 0x1010 8 v
  s.setRing 7 { s.ring 7 with desc := 0x40000, tail := 1 }
def headOf (s : State) (n : Nat) (h : Nat → List Byte → Bool) : Bool :=
  match (s.settleRing n).ringHead n with
  | .entry a e => h a e
  | _ => false
def stoppedRing (r : ResumeAs) : State := (command 0 0 0).setRing 7 { (command 0 0 0).ring 7 with stp := true, resume := r }

theorem witness_CommandRings :
    ([0, 1, 3, 4, 255].all (fun op => headOf (command op 0x42000 0) 7 fun a e => a == 0x41000 && entryOp e == op && !entryBad e)
      && [0, 1, 2, 3].all (fun op => headOf (command (256 + op) 0 0) 7 fun _ e => entryOp e == op && entryBad e)
      && [0, 1].all (fun v => headOf (command 2 0x42008 v) 7 fun _ e => entryOp e == 2 && !entryBad e && entryAddr e % 8 == 0
        && (match ((command 2 0x42008 v).settleRing 7).devRead (entryAddr e) 8 with | .ok x => decide (entryValue e ≤ x) == (v == 0) | _ => false))
      && (((command 2 0x42008 0).setRing 7 { (command 2 0x42008 0).ring 7 with waiting := true }).ring 7).waiting
      && (match (command 0 0 0).readRing (command 0 0 0).reachDev true ((command 0 0 0).ring 7).desc with | .ok _ => true | _ => false)
      && !(command 0 0 0).boot.stopped && [ResumeAs.next, .skip].all (fun r => ((stoppedRing r).ring 7).stp && ((stoppedRing r).ring 7).resume == r
        && !(stoppedRing r).devWaits true ((stoppedRing r).ring 7).desc 32 && ((stoppedRing r).ring 7).owed.isNone)) = true := by
  decide

/-- A launch record at 0x42000: one wave of one lane, with `x` added to its first word and `lev2` for its third level. -/
def recorded (x lev2 : Nat) : State :=
  poke (poke (poke (poke (poke (poke (poke (command 1 0x42000 0) 0x2000 8 (0x40000 + x)) 0x2020 4 (3 * 2 ^ 20)) 0x2024 4 (8 * 2 ^ 24)) 0x2030 8 1)
    0x2040 8 (2 ^ 32 + 1)) 0x2050 8 lev2) 0x2058 8 (if lev2 < 2 ^ 32 * 100 then 0 else 0x43000)
def one : Nat := 2 * 2 ^ 32 + 1
def indirectOne : Nat := 130 * 2 ^ 32
def launched (s : State) (h : Launch → Bool) : Bool :=
  match s.devLines 0x42000 2 with
  | some r => h (s.newLaunch 7 0x41000 r)
  | none => false
def recordOf (s : State) : Launch :=
  match s.devLines 0x42000 2 with
  | some r => s.newLaunch 7 0x41000 r
  | none => s.newLaunch 7 0x41000 []
def pending (ind : Bool) : State :=
  let s := recorded 0 (if ind then indirectOne else one)
  { s with launches := [if ind then recordOf s else (recordOf s).withCounts [1, 1, 1]], run := Context.empty }
/-- A frame graph of which class 0 has a budget of 5 cc in a frame that began at 0. -/
def framed : State := let s := poke (tables mapped) 0x08 4 5; { s with dev := { s.dev with fgbase := 0x40000 } }

theorem witness_LaunchAcceptance :
    ((recorded 0 one).reachDev false 0x42000 == .at_ (.phys 0x52000) && (recorded 0 one).reachDev false 0x42080 == .at_ (.phys 0x52080)
      && !(recorded 0 one).devWaits false 0x42000 256 && !(recorded 0 one).devWaits false 0x60000000 256
      && ((recorded 0 one).devLines 0x60000000 2).isNone
      && launched (recorded 1 one) (fun l => l.check 0x42000 == some 1) && launched (command 1 0x42000 0) (fun l => l.check 0x42000 == some 2)
      && launched (recorded 0 one) (fun l => l.check 0x42000 == none && !l.indirect && (l.readCounts (recorded 0 one) l.levels [] matches .ok [1, 1, 1]) && !(recorded 0 one).acceptWaits (l.withCounts [1, 1, 1])
        && (l.withCounts [1, 1, 1]).checkCount == none && l.bmap == 0 && (l.withCounts [1, 1, 1]).blocks == 1)
      && launched (recorded 0 indirectOne) (fun l => l.check 0x42000 == none && l.indirect && l.pbmap == 0
        && (l.readCounts (recorded 0 indirectOne) l.levels [] matches .ok [1, 1, 0]))
      && (match ({ recorded 0 one with inner := [(0, [0x42000])] } : State).ringHead 8 with | .kicked a => a == 0x42000 | _ => false)
      && ((pending true).launchBy 1).map (fun l => !l.counted && l.indirect && !l.pixel && (pending true).producerDone l == .yes
        && (l.readCounts (pending true) l.levels [] matches .ok [1, 1, 0]) && ((l.withCounts [1, 1, 0]).checkCount).isNone
        && !(pending true).launchWaits (l.withCounts [1, 1, 0]) 0) == some true
      && framed.pastBudget 0 0 && !framed.frameWaits 0 && !framed.expiryDone 0 0 && (framed.deferredBy 0 0).isEmpty && !framed.pastBudget 0 1
      && (match framed.devRead (framed.frameAddr 0 + 0x24) 4 with | .ok _ => true | _ => false)) = true := by decide

/-- A launch of that graph that its class's expiry defers; and a record whose late counts give too many blocks. -/
def deferring : State :=
  { framed with launches := [{ recordOf (recorded 0 one) with record := ((recordOf (recorded 0 one)).record.set 0x23 8) }] }
def tooMany : State :=
  let s := poke (recorded 0 indirectOne) 0x3000 4 (2 ^ 32 - 1)
  { s with launches := [{ recordOf s with counts := [1, 1, 0] }] }
def graphed : Launch := { recordOf (recorded 0 one) with record := ((recordOf (recorded 0 one)).record.set 0x23 8) }

theorem witness_LaunchAcceptance_late :
    (deferring.deferredBy 0 0 == [1] && deferring.pastBudget 0 0 && !deferring.expiryDone 0 0
      && (tooMany.launchBy 1).map (fun l => l.readCounts tooMany l.levels [] matches .ok [1, 1, 0xFFFFFFFF]) == some true
      && graphed.gv && framed.pastBudget graphed.graph graphed.cls && !deferring.frameWaits 0
      && (({ recordOf (recorded 0 one) with counts := [] } : Launch).withCounts [1, 1, 2 ^ 16, 2 ^ 16]).checkCount == some 2) = true := by decide

/-- A block of launch 1 whose wave has ended. -/
def overBlock : State :=
  let s := pending false
  (s.setBlock 0 { placeBlock none with launch := 1, waves := [] })
def signalled : Launch := { recordOf (recorded 0 one) with record := (recordOf (recorded 0 one)).record.set 0xB2 4 }
def succeeding : State := { filled with launches := [recordOf (recorded 0 one)] }

theorem witness_DispatchAndCompletion :
    (((pending false).launchBy 1).map (fun l => !(pending false).run.halted && (pending false).launchOpen l && l.known && !l.persistent && !l.pixel
        && (pending false).mayDispatch l 0 == .yes && !(pending false).launchWaits l 0 && ((pending false).launches.all fun m => !(pending false).goesBefore m l)
        && (pending false).launchReady l == some 0 && (pending false).choices l 0 == List.range 128
        && decide (0 < l.count 0) && decide (l.count 0 ≤ 96)) == some true
      && (overBlock.block 0).map (fun b => overBlock.blockOver 0 b && !((overBlock.launchOf b).any fun l => overBlock.launchWaits l (b.index + 1))
        && ((overBlock.removeBlock 0).launchBy b.launch).isSome) == some true
      && (recordOf (recorded 0 one)).signal == 0 && signalled.signal == 0x40000
      && (match (recorded 0 one).devRead signalled.signal 8 with | .ok _ => true | _ => false)
      && issues ({ filled with launches := [{ recordOf (recorded 0 one) with id := 0 }] }) .wpred (fun s c => match s.blockOf c.pid with
        | some b => (s.launchOf b).isSome | none => false)
      && issues filled .sucstart (fun s c => (s.blockOf c.pid).map (·.sucstart) == some false
        && (s.blockOf c.pid).map (fun b => (s.launchOf b).any fun l => s.launchWaits l 0) == some false)
      && issues (filled.onBlock 0 fun b => { b with sucstart := true }) .sucstart (fun s c => (s.blockOf c.pid).map (·.sucstart) == some true)) = true := by decide

/-- It is path 0's turn, in a state whose path is `p`. -/
def pathTurn (s : State) (h : Path → Bool) : Bool :=
  match s.path 0 with
  | some p => s.cur == .path 0 && s.mayIssue 0 p && h p
  | none => false
def waiting (w : WaitFor) (s : State) : State := s.onPath 0 fun p => { p with st := .waiting, wait := w }
def sleeping (n : Nat) : State := (waiting .none filled).onPath 0 fun p => { p with sleep := n }
def limited (n : Nat) : State :=
  let s := (filled.setCore 0 { filled.core 0 with wlim := 1 }).onPath 0 fun p => { p with st := .waiting, wait := .queue, waitFrom := some 0 }
  { s with clk := n }
def deadlocked : State :=
  (filled.setTokens 0 [⟨5, none, placeVa, 0x1F, 1, false, true, 0, 0x10, false, false, false⟩]).onPath 0 fun p => { p with token := some 5, st := .parkedRejoin, mask := 1 }

def secondFault : Path :=
  { Path.fresh 0 1 0 with sys := true, ecause := 0x09, helperTrap := 1, due := [⟨4, 0x09, 8, some 1, 7⟩, ⟨5, 0x0C, 2, none, 7⟩] }

/-- R296, R302: a helper fault that is due while the recruiter handles one waits, a cause of another kind does not, and the eret of
the first lets the second be taken. -/
theorem test_second_helper_fault_waits :
    (secondFault.nextDue.map (·.cause), (secondFault.returned 1).nextDue.map (·.cause)) = (some 0x0C, some 0x09) := by decide

/-- R21, R19: a mod word with pk = 3 is a defective hint word, whatever its target accepts. -/
theorem test_reserved_pk : (bundleDefect (Instr.vadd 0 1 2).pfxLimit (Instr.vadd 0 1 2).admitsMod [⟨0, 0xFD0000C0⟩] 0 false false).isSome
    ∧ (bundleDefect (Instr.vadd 0 1 2).pfxLimit (Instr.vadd 0 1 2).admitsMod [⟨0, 0xFD000080⟩] 0 false false).isNone := by decide

theorem witness_BundlesAndPathEvents :
    ([filled, hinted filled [pfx1]].all (fun s => pathTurn s fun p => p.due.isEmpty)
      && pathTurn filled (fun p => p.hints.isEmpty && !p.sys) && (0xFBFFFFFF : Word).extractLsb' 26 6 != 0x3F && (0xFC000000 : Word).extractLsb' 26 6 == 0x3F
      && pathTurn ((inSystem filled).onWave 0 fun w => { w with tvec := 0x40000 }) (fun p => p.sys && codeAddr 0x40000 == p.pc)
      && pathTurn (filled.onPath 0 fun p => { p with due := [⟨1, 0x11, 8, none, 0⟩] }) (fun p => p.due == [⟨1, 0x11, 8, none, 0⟩] && p.hints.isEmpty)
      && pathTurn (filled.onPath 0 fun p => { p with due := [⟨4, 0x09, 8, none, 0⟩], helperTrap := 1 }) (fun p => p.helperTrap != 0 && p.due.all (fun d => d.cause == 0x09))
      && (({ filled with clk := 356 } : State).path 0).map (fun p => p.st == .ready && decide (p.readyAt + 256 ≤ 356)) == some true
      && (((({ filled with clk := 356 } : State).pipePaths 0 0).find? fun e => e.2.st == .ready).map (·.1)) == some 0
      && [1000, 1].all (fun n => ((sleeping n).path 0).map (fun p => decide (0 < p.sleep) && p.st == .waiting && !p.hold
        && decide (p.readyAt + p.sleep ≤ 100) == (n == 1)) == some true)
      && ((waiting .hold (hinted filled [pfx1])).path 0).map (fun p => !p.hints.isEmpty) == some true
      && [65536, 65537].all (fun n => ((limited n).path 0).map (fun p => p.st == .waiting && p.waitFrom == some 0
        && (limited n).mayIssue 0 { p with wait := .none }) == some true)
      && (deadlocked.pathsOf 0).length == 1 && !deadlocked.clusterStopped 0
      && [none, some 1].all (fun t => ((nested.onPath 0 fun p => { p with parkedTrap := t }).path 0).map (fun p => p.st == .ready && p.token == some 1) == some true)
      && (deadlocked.path 0).map (fun p => p.token == some 5 && p.st == .parkedRejoin && !p.hold && decide (p.readyAt + 64 ≤ 100)) == some true
      && !(deadlocked.tokensOf 0).any (deadlocked.completes 0) && (deadlocked.path 0).map (fun p => (deadlocked.innermost 0 p).isSome) == some true) = true := by
  decide

/-! Clearing engines, control registers, translation, migration. -/

/-- Clearing context 0, with a writable and a read-only buffer over the mapped page, context 1 as peer 1, and D5 = 1, D6 = 2^32 − 1. -/
def clearSet (f : Clear → Clear) : State :=
  { (tables mapped).setClear 0 (f { Clear.reset with
      st := .running, program := [0xC1000000], chunk := 256, root := 0x1000, tmo := 1, d := [(4, 2), (5, 1), (6, 0xFFFFFFFF)],
      buffers := [(1, ⟨true, 0x40000, 0x8000⟩), (2, ⟨false, 0x48000, 0x8000⟩)], peers := [(1, endpointOf 1)] }) with cur := .clearing 0 }
def clearing (s : State) (h : Clear → Bool) : Bool := s.cur == .clearing 0 && (s.clear 0).st == .running && h (s.clear 0)
def isAt : ClearReach → Bool
  | .at_ _ => true
  | _ => false
/-- A send of context 0 that has not begun. -/
def sendOp : ChunkOperation := ⟨0, 0, 0, .send 1 0 0, (Loc.phys 0x50000).span 256, [], 0x40000, 0, false, [], 0⟩
def copyOp : ChunkOperation := ⟨0, 0, 0, .copy, (Loc.phys 0x58000).span 4, (Loc.phys 0x50000).span 4, 0x48000, 0x40000, false, [], 0⟩

theorem witness_ChunkControl :
    (clearing (clearSet id) (fun c => c.reg 0 == 0 && c.reg 5 == 1 && c.reg 6 == 0xFFFFFFFF && c.ops.isEmpty && decide (c.pc < 2 ^ 32)
        && c.signalAddr 3 0 == none && c.signalAddr 1 5 == some 0x40008 && isAt ((clearSet id).reachClear c false 0x40008) && c.signalAddr 2 5 == some 0x48008
        && c.writable 1 && !c.writable 2 && isAt ((clearSet id).reachClear c true 0x40008) && !(clearSet id).mustWait (.phys 0x50008)
        && (tget c.buffers 1).map (·.len) == some 0x8000 && decide (0x8000 < 256 * (c.reg 6).toNat + 256) && (tget c.counters 0).isNone)
      && clearing (clearSet fun c => { c with ops := [sendOp], counters := [(0, ⟨1, 0, 0⟩)] }) (fun c => !c.ops.isEmpty && (tget c.counters 0).isSome)) = true := by
  decide

theorem witness_ChunkOperations :
    (clearing (clearSet id) (fun c => (c.chunkAddr 1 6).isNone && c.chunkAddr 1 5 == some 0x40100 && c.chunkAddr 2 5 == some 0x48100
        && (tget c.peers 1).isSome && (tget c.peers 2).isNone && c.writable 1 && !c.writable 2 && decide (c.ops.length < 64)
        && (match (clearSet id).spanClear c false 0x48100 2, (clearSet id).spanClear c true 0x40100 2 with
          | .ok a, .ok b => a.length == 256 && !b.any (clearSet id).mustWait
          | _, _ => false)
        && (maskPeers (c.reg 4)).all (fun p => (tget c.peers p).isSome) && (reduction (.redAddI32 4 1 5 2 5 0)).isSome)
      && clearing (clearSet fun c => { c with ops := [{ sendOp with srcVa := 0x44000 }] }) (fun c => c.ops.all fun o => !o.clashes c.chunk 0x48100 0x40100 true true)
      && ((clearSet fun c => { c with ops := [copyOp] }).findChunk 0 0).map (·.kind) == some .copy
      && (let s := clearSet fun c => { c with ops := [copyOp] }
          !s.sourceBad copyOp.src && !copyOp.dst.any s.locBad && !copyOp.src.any s.underAssay && !copyOp.dst.any s.underAssay && Memory.wf s.mem)) = true := by
  decide

/-- A chunk's first flit to context 1, and an acknowledgement to context 0; a write of another module. -/
def dataFlit (clean : Bool) : Flit := ⟨.data, clean, 3, 0, endpointOf 0, endpointOf 1, 0, 0, 0, [1, 2, 3, 4]⟩
def recvOp : ChunkOperation := ⟨0, 0, 0, .recv 0 0 0, [], (Loc.phys 0x50000).span 256, 0, 0x40000, false, [], 0⟩
def flitted (f : Flit) (chunk : Nat) : State :=
  { (clearSet fun c => { c with ops := [{ sendOp with started := true }] }).setClear 1 { Clear.reset with
      st := .running, chunk := chunk, peers := [(0, endpointOf 0)], ops := [recvOp] } with flits := [f] }
def farWrite : Flit := ⟨.write, true, 1, 0, ⟨1, 0, 0⟩, endpointOf 0, 0, 0, 0x50000, [9]⟩
def putting : State := inFlight .cp .none (.put [(.phys 0x50000, [1, 2]), (.phys 0x50100, [3])] [0, 1])

theorem witness_Flits :
    (((clearSet fun c => { c with ops := [sendOp] }).findChunk 0 0).map (·.started) == some false
      && cidOf (endpointOf 1) == some 1 && cidOf ⟨1, 0, 0⟩ == none
      && [256, 512].all (fun n => ((flitted (dataFlit true) n).clear 1).consumer (endpointOf 0) 0 0 == some (recvOp, 0) && ((flitted (dataFlit true) n).clear 1).chunk == n)
      && (((clearSet id).clear 1).consumer (endpointOf 0) 0 0).isNone
      && [dataFlit true, dataFlit false, controlFlit .ack (endpointOf 1) (endpointOf 0) 0, controlFlit .reserved (endpointOf 1) (endpointOf 0) 0].all (fun f =>
        ((flitted f 512).takeFlit f).isSome)
      && (((flitted (controlFlit .ack (endpointOf 1) (endpointOf 0) 0) 512).clear 0).ops.find? fun o => o.started).isSome
      && !(tables mapped).linkDown farWrite.src farWrite.dst && physValid 0x50000 && farWrite.src.module != Config.here && farWrite.dst.module == Config.here
      && !(((Loc.phys 0x50000).span 1).any (tables mapped).mustWait) && Memory.wf (tables mapped).mem
      && found putting (fun o => match o.kind with | .put ps left => left == [0, 1] && ps.length == 2 && putting.mayPerform { o with kind := .put (ps.take 1) [] } | _ => false)
      && endpointNumbered (Config.here * 64 + 1) == endpointOf 1
      && [FlitKind.pause, .resume, .close].all (fun k => ((flitted (controlFlit k (endpointOf 1) (endpointOf 0) 0) 512).takeFlit
        (controlFlit k (endpointNumbered (Config.here * 64 + 1)) (endpointOf 0) 0)).isSome)) = true := by decide

/-- A descriptor of context 0 at 0x40000 with an image of one word at 0x41000. -/
def loadable : State :=
  (poke (poke (poke (tables mapped) 0 8 0x41000) 8 8 1) 0x1000 4 0xC0000000).setClear 0 { Clear.reset with desc := 0x40000 }
def unmapped : State := (tables mapped).setClear 0 { Clear.reset with desc := 0x60000000 }
def parked (b : Nat) : State := clearSet fun c => { c with
  st := .parked, program := [BitVec.ofNat 32 (0x54000000 + 0x100000 * b)], buffers := [(1, ⟨true, 0x40000, 8⟩), (2, ⟨true, 0x60000000, 8⟩)] }

theorem witness_ClearingContexts :
    ((match loadable.devLines (loadable.clear 0).desc 4 with
      | some d => !descBad 0 d && !loadable.devWaits false (loadable.clear 0).desc 512 && !loadable.devWaits false (descNum d 0 8) (4 * fld (descNum d 0x08 8) 0 16)
        && loadable.devWords (descNum d 0 8) (fld (descNum d 0x08 8) 0 16) == some [0xC0000000]
      | none => false)
      && (loadable.clear 0).st == .idle && !unmapped.devWaits false 0x60000000 512 && (unmapped.devLines 0x60000000 4).isNone
      && ((clearSet id).clear 0).st == .running && ((clearSet fun c => { c with timerFrom := some 0 }).clear 0).timerFrom == some 0
      && ((clearSet id).clear 0).pausedBy.isEmpty && ((clearSet id).clear 0).tmo == 1
      && !(parked 1).needsPage ((parked 1).clear 0) && (parked 2).needsPage ((parked 2).clear 0) && ((parked 2).clear 0).st == .parked) = true := by decide

theorem witness_ControlRegistersAndHostAccesses :
    ((List.range 8).all (fun i => (tables mapped).reachDev false (0x40000 + i) == .at_ (.phys (0x50000 + i)) && reachPhys true (0x50000 + i) == .at_ (.phys (0x50000 + i))
        && !(tables mapped).mustWait (.phys (0x50000 + i)) && physValid (0x50000 + i))
      && (copying (.copyMem pairs16) .ready).mustWait (.sram 0 0) == false
      && (copying (.copyMem [(.sram 0 0, .phys 0x50000)]) .ready).mustWait (.phys 0x50000) && Memory.wf (tables mapped).mem
      && decide (0x800 ∉ [0x310, 0x318, 0x320, 0x358, 0x360, 0x368, 0x370, 0x378, 0x390])) = true := by decide

/-- The mapped frame in the reverse map at 0x20000, an LPDDR-6 pool at 0x30000 with `n` frames free, and migration on. -/
def migrating (n : Nat) : State :=
  let s := tables mapped
  let m := [(0x20028, 0x4020), (0x30000, 0x31000), (0x30008, 6), (0x30010, n * 2 ^ 32), (0x31000, 0x20000000000)]
  { s with mem := m.foldl (fun m x => Memory.write m x.1 (bytesOf 8 x.2)) s.mem,
           dev := { s.dev with hotbase := 0x200000, rmapbase := 0x20000, migEn := true, pooll := 0x30000, poolh := 0x30040, halvedAt := 0 } }
def moving (copied : Bool) : State := { migrating 1 with move := some ⟨0x4020, 0x50000, 0x20000000000, copied⟩ }

theorem witness_TranslationAndMigration :
    ((match (tables mapped).walkFrom (tables mapped).dev.ptroot (tgetD [] (tables mapped).walks (dieOf 0)) 0x40000 with
      | .leaf _ _ big => !big
      | _ => false)
      && ({ (tables mapped) with dev := { (tables mapped).dev with tlbBusy := true, tlbMark := 1 } } : State).ops.isEmpty
      && (inFlight .ld .none (.values [] none)).ops.any (fun o => decide (o.id < 1) && !o.done)
      && (migrating 1).dev.hotbase != 0 && decide (({ migrating 1 with clk := 3600000 } : State).dev.halvedAt + 3600000 ≤ 3600000)
      && (migrating 1).halveHot.mem == (migrating 1).mem && [0, 1].all (fun n => (migrating n).nextMove == some (0x50000, false) && (migrating n).move.isNone
        && !(migrating n).mustWait (.phys 0x4020)
        && (match (migrating n).ringPop reachPhys none (migrating n).dev.pooll with
          | .done _ e => n == 1 && numOf (e.take 8) == 2 ^ 41
          | .no => n == 0
          | _ => false))
      && Memory.wf (migrating 1).mem
      && !(moving false).frameBusy 0x50000 && [0x20028, 0x20000 + 2 ^ 28, 0x200005, 0x200000 + 2 ^ 25].all physValid
      && (moving false).heldStores.isEmpty && (moving false).clears.all (fun c => c.2.ops.isEmpty)
      && ({ moving false with ops := (inFlight .st .none (.store [(.phys 0x50004, 7)])).ops } : State).frameBusy 0x50000
      && !(moving true).ras.retired.contains 0x50000
      && (let m : PageMove := ⟨0x4020, 0x20000000000, 0x50000, true⟩
          let u : State := { moving true with mem := Memory.write (moving true).mem m.pte (bytesOf 8 (pteMoved (Memory.num (moving true).mem m.pte 8) m.new)), move := none }
          match u.ringPush reachPhys none (if m.old < 2 ^ 39 then u.dev.poolh else u.dev.pooll) (bytesOf 32 m.old) with
          | .done _ _ => true
          | _ => false)) = true := by decide

/-! Pre-emption, service, debugging. -/

def halted : State := { filled with run := { filled.run with halted := true } }
/-- A graphics wave that was killed. -/
def killed : State := filled.onWave 0 fun w => { w with killed := true, start := some ⟨3, [], [], []⟩ }

theorem witness_PreemptionSaveAndRestore :
    (filled.run.running && !filled.run.halted && !filled.dev.dumpBusy && State.reset.run == Context.empty
      && (killed.wave 0).map (fun w => w.killed && w.start.isSome && w.reissues.1 == 0) == some true && (filled.wave 0).map (·.killed) == some false
      && (inFlight .st .none (.store [])).ops.any (fun o => !o.done) && (passing.cluster 0).passes.length == 1
      && !({ State.reset with saved := [] } : State).run.running && State.reset.saved.isEmpty
      && halted.run.halted && !halted.dev.dumpBusy && halted.quiet && halted.contextCores.all (fun k => (halted.cluster (clusterOf k)).stopping.isNone) && halted.run.paths.all (fun e => e.2.region.isNone)
      && (List.range 128).all fun k => !(halted.core k).trEn) = true := by decide

/-- A row of a structure of cluster 2, of an L2 bank and of LPDDR-6, under assay after three corrected errors, with its spares used. -/
def row (dram l2 : Bool) (k : Option Nat) : RasRow := ⟨7, 9, dram, k, none, l2, 0x90000⟩
def rasAs (f : Ras → Ras) : State := { State.reset with ras := f State.reset.ras }
def assayed (r : RasRow) (times : List Nat) (spares : Nat) : State :=
  rasAs fun x => { x with running := [(r, 5)], history := times.map fun n => (r, n), spares := [(bankOf r, spares)] }

/-- Three errors of a row within a second, and three that are not, with and without a spare left. -/
theorem witness_EventWindowsAndRepair_ends (r : RasRow) (n : Nat) :
    (assayed r [0, 7, 3600000007] n).sparesUsed (bankOf r) = n ∧ (assayed r [0, 7, 9] n).assayed r = true
      ∧ ((assayed r [0, 7, 9] n).ras.history.filter fun h => sameRow h.1 r).map (·.2) = [0, 7, 9] := by
  simp [assayed, rasAs, State.sparesUsed, State.assayed, sameRow]

theorem witness_EventWindowsAndRepair :
    (!(State.reset.core 127).nevFrz && tgetD 0 (State.reset.core 127).nevWin 7 == 0
      && (let s := (({ State.reset with clk := 2048 } : State).setCore 5 { State.reset.core 5 with nevWin := [(7, 1)], nevHit := 3, nevAct := 1 })
          decide (tgetD 0 (s.core 5).nevStart 7 + 1024 * tgetD 0 (s.core 5).nevWin 7 ≤ s.clk) && (s.core 5).nevHit &&& ~~~1 &&& (s.core 5).nevAct == 0
            && (s.core 5).nevHit &&& ~~~2 &&& (s.core 5).nevAct != 0)
      && State.reset.dev.rasEn && State.reset.assayCore (row true false none) == some 0 && State.reset.assayCore (row false false (some 2)) == some 8
      && State.reset.assayCore { row false false none with core := some 127 } == some 127
      && (let busy := rasAs fun x => { x with
            running := (List.range 4).map fun k => (row false false (some 2), 8 + k), waiting := [row false false (some 2), row true false none] }
          busy.assayCore (row false false (some 2)) == none && busy.assayCore (row true false none) == some 0
            && busy.ras.waiting == [row false false (some 2)] ++ row true false none :: [] && busy.ras.waiting.any (sameRow (row false false (some 2)))
            && !busy.assayed (row true false none))
      && !({ State.reset with dev := { State.reset.dev with rasEn := false } } : State).dev.rasEn && State.reset.ras.running.isEmpty
      && [row true false none, row false true none, row false false (some 2)].all fun r => r.dram || r.l2 || r.cluster == some 2) = true := by decide

def reading (tj mhz : Nat) : IslandReading := ⟨tj, mhz, 700, 900⟩
/-- A report asked for, at an aligned address of host memory. -/
def attesting : State := { State.reset with dev := { State.reset.dev with attBusy := true, attadr := 0x8000000000200 } }

theorem witness_IslandsBootAndAttestation :
    ((clockOk 31 1200 && clockOk 39 4095 && !clockOk 35 2401 && decide (1200 ≤ (State.reset.island 31).mhz)
        && decide ((({ State.reset with islands := [(31, ⟨106, 0, 2000, 700, false, false, 0, 0⟩)] } : State).island 31).mhz < 3600) && clockOk 31 3600
        && ((({ State.reset with islands := [(31, ⟨106, 0, 1200, 700, false, false, 0, 0⟩)] } : State).island 31).mhz == 1200)
        && (reading 114 1200).tj < 115 && 115 ≤ (reading 115 1200).tj && (reading 104 1200).tj < 105
        && State.reset.boot.stage == 0 && !State.reset.boot.stopped
        && attesting.dev.attadr % 512 == 0 && physHost attesting.dev.attadr && physValid (attesting.dev.attadr + 511) && Memory.wf attesting.mem
        && [[], [hostLink]].all (fun ls => ((Loc.phys attesting.dev.attadr).span 512).any { attesting with linksDown := ls }.mustWait == (ls != []))
        && !State.reset.dev.attBusy) = true) := by
  decide

/-- Cluster 0 stopping since cc 88, stopped, and stepping path 0. -/
def clusterAs (f : Cluster → Cluster) : State := filled.setCluster 0 (f (filled.cluster 0))

theorem witness_StopStepAndResume :
    (!(filled.cluster 0).stopped && (filled.cluster 0).stopping.isNone && (List.range 128).all (fun c => !(filled.core c).trEn)
      && [88, 89].all (fun h => ((clusterAs fun k => { k with stopping := some h }).cluster 0).stopping == some h
        && decide (h + 12 ≤ (clusterAs fun k => { k with stopping := some h }).icc 0) == (h == 88))
      && ((clusterAs fun k => { k with stopped := true }).cluster 0).stopped && ((clusterAs fun k => { k with stopped := true }).cluster 0).stepping.isNone
      && ((clusterAs fun k => { k with stopped := true, stepping := some 0 }).path 0).isSome
      && decide (({ clusterAs fun k => { k with stopped := true, stepping := some 0 } with clk := 4096 } : State).icc 0 = 4096)
      && (filled.path 0).map (fun p => p.hints.isEmpty && !p.hold) == some true) = true := by decide

/-- A breakpoint that traps and one that stops; sampling of core 0 every 16 cc; and core 0's ring of 128 KiB at 0x40000. -/
def broken : State := clusterAs fun k => { k with breaks := [(0, ⟨placeVa, true, false, 0⟩), (1, ⟨placeVa, true, true, 0⟩)] }
def sampling (wp : Nat) : State :=
  { ((tables filled).setCore 0 { filled.core 0 with smpEn := true, smpPer := 1, smpBase := 0x40000, smpWp := wp }) with clk := 112 }

theorem witness_HoldsBreakpointsSamplingAndTrace :
    ((filled.path 0).isSome && (filled.tokensOf 0).isEmpty && ((filled.onPath 0 fun p => { p with hold := true }).path 0).map (·.hold) == some true
      && (broken.path 0).map (fun p => p.wait != .breakpoint) == some true && (tgetD Breakpoint.reset (broken.cluster 0).breaks 1).stp
      && !(tgetD Breakpoint.reset (broken.cluster 0).breaks 0).stp && (broken.cluster 0).stopping.isNone
      && (sampling 0).nextSampled 0 == some 0 && (sampling 0).clk % 16 == 0 && ((sampling 0).pathsOf 0).map (·.1) == [0] && Memory.wf (sampling 0).mem
      && decide (((sampling 0).core 0).smpWp + 32 - ((sampling 0).core 0).smpRp ≤ 4096 * 2 ^ ((sampling 0).core 0).smpLsz)
      && decide (4096 * 2 ^ ((sampling 4096).core 0).smpLsz < ((sampling 4096).core 0).smpWp + 32 - ((sampling 4096).core 0).smpRp)
      && (List.range 32).all (fun j => (sampling 0).reachStill 0 (0x40000 + j) == .at_ (.phys (0x50000 + j)))
      && !(filled.core 0).smpEn && !(sampling 0).clusterStopped 0 && (sampling 0).run.running && !(sampling 0).run.halted) = true := by decide

/-- A dump of a context without waves, into the mapped page. -/
def dumping (len : Nat) : State :=
  let s := tables State.reset
  { s with run := { s.run with running := true, halted := true }, dev := { s.dev with dumpBusy := true, dumpadr := 0x40000, dumplen := len }, dumpClk := 77 }

theorem witness_LiveDump :
    (!filled.dev.dumpBusy && filled.run.running && !filled.run.halted && (List.range 128).all (fun c => !(filled.core c).trEn)
      && [31, 32].all (fun n => (dumping n).dev.dumpBusy && (dumping n).quiet && (dumping n).image.length == 32
        && (List.range 128).all fun c => !((dumping n).core c).trEn)
      && Memory.wf (dumping 32).mem && ((dumping 32).writePieces 0x40000 1 (dumping 32).image).2 && !((dumping 32).image).isEmpty
      && (List.range 32).all fun j => (dumping 32).reachStill noCore (0x40000 + j) == .at_ (.phys (0x50000 + j))) = true := by decide

/-! Single steps, with results worked out by hand from the rules. -/

/-- What an instruction leaves: a scalar, a lane, a flag, a PC, or all of memory's numbers, where it answers a next state. -/
def scalarAfter (s : State) (i : Instr) (r : Nat) : Option Word :=
  match exec i s with
  | .next t => (t.path 0).map fun p => t.readS 0 p r
  | _ => none
def laneAfter (s : State) (i : Instr) (r l : Nat) : Option Word :=
  match exec i s with
  | .next t => some (t.readV 0 r l)
  | _ => none
def pathAfter (s : State) (i : Instr) : Option Path :=
  match exec i s with
  | .next t => t.path 0
  | _ => none
def goesTo (o : Host.Outcome State Fault Refusal) (h : State → Bool) : Bool :=
  match o with
  | .next t => h t
  | _ => false
def scalars (x y : Word) : State := (base.writeS 0 4 x).writeS 0 5 y
def lanes (x y : Word) : State := (base.writeV 0 4 0 x).writeV 0 5 0 y

/-- R66: a quotient by zero has every bit set, the remainder is a, and the most negative value over −1 is itself. -/
theorem test_divisions :
    scalarAfter (scalars 7 0) (.sdivI32 6 4 5) 6 = some 0xFFFFFFFF ∧ scalarAfter (scalars 7 0) (.sremI32 6 4 5) 6 = some 7
      ∧ scalarAfter (scalars 0x80000000 0xFFFFFFFF) (.sdivI32 6 4 5) 6 = some 0x80000000
      ∧ scalarAfter (scalars 0xFFFFFFF9 2) (.sremI32 6 4 5) 6 = some 0xFFFFFFFF := by decide

/-- R65, R67, R69: high products by sign, a source that is also the destination, a dropped field bit, and a sign-extended field. -/
theorem test_scalar :
    scalarAfter (scalars 0xFFFFFFFF 2) (.smulhI32 6 4 5) 6 = some 0xFFFFFFFF ∧ scalarAfter (scalars 0xFFFFFFFF 2) (.smulhN32 6 4 5) 6 = some 1
      ∧ scalarAfter (scalars 3 5) (.ssub 5 4 5) 5 = some 0xFFFFFFFE ∧ scalarAfter (scalars 0xFF 0x1E04) (.sbfi 6 4 5) 6 = some 0xC0000000
      ∧ scalarAfter (scalars 0xF0 0) (.sbfeI32 4 false (BitVec.ofNat 12 (4 * 64 + 4))) 4 = some 0xFFFFFFFF
      ∧ scalarAfter base (.smovi 7 (-5)) 7 = some 0xFFFFFFFB := by decide

/-- R14: s0 reads zero and keeps it. -/
theorem test_zero_register : scalarAfter (scalars 7 5) (.sadd 0 4 5) 0 = some 0 ∧ (pathAfter (scalars 7 5) (.sadd 0 4 5)).map (·.pc) = some 0x40004 := by decide

/-- R102, R103: bytes saturate one by one, and an immediate reaches every element. -/
theorem test_vector_integers :
    laneAfter (hinted (lanes 0x7F80017F 0x01FF0101) [encodeWord (.mod { ModFields.zero with sat := true, pk := 2 })]) (.vadd 6 4 5) 6 0 = some 0x7F80027F
      ∧ laneAfter (hinted (lanes 0x0001FFFF 0) [modPk]) (.vaddImm 6 4 1) 6 0 = some 0x00020000
      ∧ laneAfter (lanes 0xFFFFFFFE 3) (.vabsdI32 6 4 5) 6 0 = some 5 ∧ laneAfter (lanes 1 33) (.vshl 6 4 5) 6 0 = some 2 := by decide

/-- R41, R105, R109: 1 + 2^−24 is a tie that rounds to even, .rup takes it up, and a fused product keeps its low bits. -/
theorem test_floats :
    laneAfter (lanes 0x3F800000 0x33800000) (.vfadd 6 4 5) 6 0 = some 0x3F800000
      ∧ laneAfter (hinted (lanes 0x3F800000 0x33800000) [encodeWord (.mod { ModFields.zero with rnd := .rup })]) (.vfadd 6 4 5) 6 0 = some 0x3F800001
      ∧ laneAfter ((lanes 0x3F800001 0x3F800001).writeV 0 6 0 0xBF800002) (.vffma 6 4 5) 6 0 = some 0x28800000
      ∧ laneAfter (lanes 0x80000000 0) (.vfmin 6 4 5) 6 0 = some 0x80000000 ∧ laneAfter (lanes 0x7FC00001 0x40000000) (.vfmax 6 4 5) 6 0 = some 0x40000000 := by
  decide

/-- R123: the worked sums of four lanes, in the fixed tree and under .det. -/
def sums : State := (((base.writeV 0 4 0 0x41800000).writeV 0 4 1 0x2E200000).writeV 0 4 2 0xC1800000).writeV 0 4 3 0x2DC00000
theorem test_reductions :
    scalarAfter sums (.vred 8 4 .add .f32) 8 = some 0 ∧ scalarAfter sums (.vred 8 4 .addDet .f32) 8 = some 0x2E800000
      ∧ scalarAfter (sums.onPath 0 fun p => { p with mask := 0 }) (.vred 8 4 .min .i32) 8 = some 0x7FFFFFFF
      ∧ laneAfter ((List.range 4).foldl (fun s l => s.writeV 0 4 l 3) base) (.vscan 5 4 .add .n32 true) 5 2 = some 6 := by decide

/-- R138: an atomic adds modulo 2^32 and its lane gets the old value; R129: a byte load extends its sign, and bytes stand in little-endian order. -/
theorem test_memory :
    (goesTo (exec (.atomicPerform 0) (poke (inFlight .ld (.vector 8 1) (.atomic .add32 [(0, .phys 0x50000, 2)])) 0 4 0xFFFFFFFF)) (fun t =>
        t.readNum (.phys 0x50000) 4 == 1 && (t.findOp 0).map (·.kind) == some (.values [(0, [0xFFFFFFFF])] none))
      && goesTo (exec (.loadDataReturn 0 ⟨[], []⟩) (poke (inFlight .ld (.vector 8 1) (.load .i8 [(2, .phys 0x50001)] [])) 0 4 0x8081)) (fun t =>
        t.readV 0 8 2 == 0xFFFFFF80 && (t.findOp 0).isNone)
      && goesTo (exec (.storePerformed 0) (inFlight .st .none (.store [(.phys 0x50004, 7)]))) (fun t =>
        Memory.byte t.mem 0x50004 == 7 && Memory.byte t.mem 0x50005 == 0)) = true := by decide

/-- R146: the votes of the table, with withhold 0 and 1. -/
theorem test_votes :
    mintVote 0x0000000600000008 = 0x0000000600010008 ∧ mintVote 0x0000000600030008 = 0x0000000700000008
      ∧ mintVote 0x0000000600030009 = 0x0000000600040009 ∧ mintVote 0x0000000600040009 = 0x0000000600040009 := by decide

/-- R92, R302: a trap at PC 0x40000 in a bundle of one word. -/
theorem test_trap :
    (pathAfter (handled filled) (.trap 0x21)).map (fun p => (p.epc, p.ecause, p.eaux, p.emask, p.sys, p.pc)) = some (0x40004, 0x10, 0x21, 0xF, true, 0x20000) := by
  decide

/-- R93: a return to user mode clears the previous-mode bit and restores mask and PC. -/
theorem test_eret :
    (pathAfter (inSystem filled) .eret).map (fun p => (p.pc, p.mask, p.sys)) = some (0x40010, 0xF, false) := by decide

/-- R74: lanes 0 and 2 leave for 0x40010 on a new path, and lanes 1 and 3 go on. -/
theorem test_vbr :
    goesTo (exec (.vbr false 1 4 8) filled) (fun t =>
      (t.path 0).map (fun p => (p.pc, p.mask)) == some (0x40004, 10) && (t.path 1).map (fun p => (p.pc, p.mask, p.flags)) == some (0x40010, 5, 2)
        && (t.tokensOf 0).map (fun x => (x.rejoin, x.mask, x.loop)) == [(0x40020, 0xF, false)]) = true := by decide

/-- R81: a loan asked by two lanes is refused with reason 6. -/
theorem test_loan_refused : scalarAfter filled (.loan 10 5 1 4) 10 = some 0 ∧ (pathAfter filled (.loan 10 5 1 4)).map (·.flags.getLsbD 1) = some true := by
  decide

/-- R86: the only wave of a block completes a barrier's phase when it arrives. -/
theorem test_barrier :
    goesTo (exec (.barArrive 3) filled) (fun t => (t.block 0).map (fun b => b.barrier 3) == some ⟨1, 0⟩) = true := by decide

/-- R189: a loop counter of 2 goes back and becomes 1; R186: a chunk that ends past its buffer faults 0x02. -/
theorem test_chunk :
    (goesTo (exec (.loop 4 (-3)) (clearSet fun c => { c with pc := 8 })) (fun t => (t.clear 0).pc == 5 && (t.clear 0).reg 4 == 1)
      && goesTo (exec (.send 1 1 6 0) (clearSet id)) (fun t => (t.clear 0).st == .faulted && (t.clear 0).cause == 2)) = true := by decide

/-- The first step after reset of a placed word: SMOVI s7, −5 (R69). -/
theorem test_first_step :
    goesTo (step (State.reset.withFetchWord 32 0x0C7FFFFB)) (fun t => (t.path 0).map (fun p => (t.readS 0 p 7, p.pc)) == some (0xFFFFFFFB, 0x40004)) = true := by
  decide

/-- R337: at rate 1 a move begins only a ms after the last one began. -/
theorem test_migration_rate :
    ([3599999, 3600000].map fun c =>
      let s := migrating 1
      goesTo (exec .migrationStart { s with clk := c, dev := { s.dev with migRate := 1, migTimes := [0] } }) fun t => t.move.isSome) = [false, true] := by decide

/-- A trace ring whose first page is not mapped, at a byte count. -/
def tracing (wp : Nat) (lost : Option (Nat × Nat)) : State :=
  let s := tables mapped
  s.setCore 0 { s.core 0 with trEn := true, trWrap := true, trLsz := 1, trBase := 0x30000, trWp := wp, trLostPage := lost, trOwed := 2 }

/-- R383: a record at an unmapped page is lost; the first record on the next page is a LOSS, and the record follows it. -/
theorem test_trace_loss :
    (let k := ((tracing 0 none).traceEvent 0 0 0).core 0
     let t := (tracing 65528 (some (0, 0))).traceEvent 0 0 0
     k.trLost == 1 && k.trGap && k.trWp == 16 && (t.core 0).trWp == 65572 && (t.core 0).trLost == 0
       && Memory.bytes t.mem 0x50000 8 == [0xA5, 20, 4, 1, 2, 0, 0, 0] && Memory.bytes t.mem 0x50014 3 == [0xA5, 16, 5]) = true := by decide

/-! Further clauses of statements with several. -/

/-- A store of the path that has not been performed, and the same made visible to the path's block by another path. -/
def storing : State := inFlight .st .none (.store [(.phys 0x50004, 7)])
def shown (k : Scope) : State :=
  { mapped with ops := [{ opOf .st .none 0xF (.store [(.phys 0x50004, 7)]) with owner := 8192, pid := 4, seen := some k }], nextOp := 1 }

/-- The mapped page while it is being moved, with a record pinned in it. -/
def pageMoving : State :=
  let s := tables (pinned 2)
  { s.setCore 0 { s.core 0 with tlb := [] } with
    mem := Memory.write s.mem 0x4020 (bytesOf 8 (placePte.toNat + 128)), move := some ⟨0x4020, 0x50000, 0x20000000000, false⟩ }
/-- A helper's load that has not returned. -/
def helperLoading : State :=
  let o : Op := { opOf .ld (.vector 20 1) 2 (.load .b32 [] []) with owner := ownerOf helperBase, pid := helperBase }
  ({ helped with ops := [o], nextOp := 1 } : State).onPath helperBase fun p => { p with prior := [0] }

theorem witness_ReturnFromTrapAndHalt_stores :
    (issues storing .halt (fun s c => (s.wave (c.pid / 4)).isSome && ((s.entered .halt c).pendingStore (c.pid / 4)).isSome)
      && issues (unperformedLoad mapped) .halt (fun s c => ((s.entered .halt c).pendingStore (c.pid / 4)).isNone
        && !(s.entered .halt c).pinWaits (c.pid / 4))
      && issues (pageMoving.onWave 0 fun w => { w with pin := some ⟨0x40010, 2, 16⟩ }) .halt (fun s c =>
        ((s.entered .halt c).pendingStore (c.pid / 4)).isNone && (s.entered .halt c).pinWaits (c.pid / 4))) = true := by decide

theorem witness_BreakJoinExitRefillAndRegion_waits :
    (issues helperLoading .exit (fun s c => c.helper && (s.pendingLoad c.pid).isSome)
      && issues region .rgn (fun s c => c.p.region.isSome && (s.pendingLoad c.pid).isNone)
      && issues (unperformedLoad mapped) .refill (fun s c => (s.pathsOf (c.pid / 4)).length == 1 && c.p.token.isNone && (s.refillWaits (c.pid / 4)).isSome))
        = true := by decide

/-- A loan whose iterations are all handed out, while a helper still holds one, and without; a helper for the same recruiter. -/
def spent (n : List (Nat × Nat)) : State :=
  ({ helped with run := { helped.run with helpers := [(helperBase, ⟨0, 0, 2, n, [], 1⟩)] }, cur := .path 0 } : State).onPath 0 fun p =>
    { p with loan := some { loan0 with next := 9, pool := [], current := none } }

theorem witness_LoanIterationsAndRepayResults_spent :
    ([(spent [(1, 3)], true), (spent [], false)].all (fun x => issues x.1 (.lnext 10 7) (fun s c => (s.helper c.pid).isNone && c.p.loan.isSome
        && ((((s.commitOwn c.pid).path c.pid).bind (·.loan)).bind Loan.take).isNone && (s.commitOwn c.pid).helpersHold c.pid == x.2))
      && issues (spent []) .ldone (fun s c => c.p.loan.isSome && !(s.helpersWhere fun h => h.recruiter == c.pid).isEmpty)
      && issues helped (.repay 2 1 .add .n32) (fun s c => c.helper && c.p.mask != 0
        && (((s.path 0).bind (·.loan)).map fun l => l.fits 2 .add .n32) == some true)
      && issues (idle helped |>.onPath helperBase fun p => { p with mask := 0 }) (.repay 2 1 .add .n32) (fun _ c => c.helper && c.p.mask == 0)
      && issues (helped.onPath 0 fun p => { p with loan := some { loan0 with repays := [⟨2, .min, .i32, []⟩] } }) (.repay 2 1 .add .n32)
        (fun s c => c.helper && (((s.path 0).bind (·.loan)).map fun l => l.fits 2 .add .n32) == some false)) = true := by decide

/-- A load of a path in flight; a loan with one repay register and what the recruiter's last iteration holds. -/
def loadOf (s : State) (pid : Nat) : State :=
  { s with ops := [{ opOf .ld (.vector 2 1) 0xF (.load .b32 [] []) with owner := ownerOf pid, pid := pid }] }
def repaying (held : List Held) : State :=
  lending.onPath 0 fun p => { p with loan := some { loan0 with repays := [⟨2, .add, .n32, []⟩], held := held } }

def earlierStore (s : State) : State :=
  ({ s with ops := [{ opOf .st .none 0xF (.store [(.phys 0x50000, 7)]) with due := 200 }] } : State).onPath 0 fun p => { p with prior := [0] }

theorem witness_LoanIterationsAndRepayResults_waits :
    (issues ((loadOf helped helperBase).onPath helperBase fun p => { p with prior := [0] }) (.lnext 10 7) (fun s c => (s.helper c.pid).isSome && (s.pendingLoad c.pid).isSome)
      && issues (lending.onPath 0 fun p => { p with mask := 0 }) (.repay 2 1 .add .n32) (fun s c => (s.helper c.pid).isNone && c.p.mask == 0
        && (c.p.loan.map fun l => l.fits 2 .add .n32) == some true)
      && issues (loadOf (repaying []) 0) .ldone (fun s c => (s.registersPending c.owner ⟨[(2, 1)], [], [], []⟩).isSome)
      && [(repaying [.repay 2 5], false), (earlierStore (repaying [.store 5 [(.phys 0x50000, 1)] none]), true)].all (fun x => issues x.1 .ldone (fun s c => !s.loanBusy c.pid
        && (s.registersPending c.owner ⟨[(2, 1)], [], [], []⟩).isNone
        && (let v := (s.onPath c.pid fun p => { p with loan := c.p.loan.map fun l => { l with closing := true } }).commitOwn c.pid
          v.loanBusy c.pid == x.2
          && (match (v.path c.pid).bind (·.loan) with
            | some m => decide (m.lane < 96) && m.repays.map (·.reg) == [2] | none => false))))) = true := by decide

/-- Bit 15 of the wave's arrivals is pending; the path has arrived at the barrier instruction that it is at. -/
def arriving : State := filled.onWave 0 fun w => { w with arrivals := 0x8000 }
def arrived : State := filled.onPath 0 fun p => { p with arrivedAt := some p.pc }

theorem witness_Barriers_waits :
    ([Instr.barArrive 15, .barSync 15].all (fun i => issues arriving i (fun s c => (s.entered i c).pendingArrival (c.pid / 4) 15 && c.p.arrivedAt != some c.p.pc))
      && [Instr.barWait 0, .barSync 15].all (fun i => issues arrived i (fun _ c => c.p.arrivedAt == some c.p.pc))) = true := by decide

/-- A claim that would pass the limit once another has been granted. -/
def overClaimed : State := (claiming.onWave 0 fun w => { w with regCount := 121 })

theorem witness_WaitsAndClaims_waits :
    (issues drained (.claim false 0 15) (fun s c => decide (s.regCountOf 0 + 120 ≤ 128) && !s.canClaim 0 120
        && !((s.core c.core).claims.any fun q => q.2.pid == c.pid))
      && ((overClaimed.core 0).waitingClaims 0).map (·.count) == [8] && decide (128 < overClaimed.regCountOf 0 + 8) && decide (8 ≤ overClaimed.poolFree 0 0))
        = true := by decide

def fullRegion : State :=
  (region.onPath 0 fun p => { p with region := some ⟨0x40000, none, false, [⟨0, [], none⟩]⟩ })

theorem witness_AccessChecks_wait :
    (issues pageMoving (.vld 8 3 2 .b32 .g) (fun s c => s.reachSpace c .g ⟨false, false, false⟩ 4 0x40000 == .wait
        && s.checkAll c .g ⟨false, false, false⟩ 4 true [(0, 0x40000), (1, 0x90000000)] == .wait .translation)
      && [Instr.vld 8 3 2 .b32 .g, .sld 8 1 0 .b32 .g].all (fun i => issues pageMoving i (fun s c =>
        (match s.checkAll c .g ⟨c.p.sys, false, false⟩ 4 true (s.laneAddrs c 3 2) with | .wait _ => true | _ => false)))
      && [Instr.vst 8 3 2 .b32 .g, .sst 8 1 0 .b32 .g].all (fun i => issues fullRegion i (fun s c => !c.helper && c.p.region.isSome
        && (s.wave c.wid).map (·.reservation) == some (s.regionStores c.wid)
        && s.checkAll c .g ⟨c.p.sys, true, false⟩ 4 true (s.laneAddrs c 3 2) == .ok mappedAccs && (s.matchesOf c.core 1 4 mappedAccs).isEmpty))) = true := by decide

theorem witness_StoresAtomicsFencesAndPuts_scopes :
    ((match ({ storing with ops := [{ opOf .st .none 0xF (.store [(.phys 0x50004, 7)]) with due := 200 }] } : State).findOp 0 with
        | some o => !({ storing with ops := [o] } : State).mayPerform o | none => false)
      && issues storing (.fence 12 4 .block) (fun s c => ((s.entered (.fence 12 4 .block) c).unfenced c.pid 12).isNone)
      && issues (unperformedLoad mapped) (.fence 8 4 .block) (fun s c => ((s.entered (.fence 8 4 .block) c).unfenced c.pid 8).isSome)
      && issues mapped (.fence 4 4 .system) (fun s c => ((s.entered (.fence 4 4 .system) c).unperformed c.pid 4).isNone
        && (s.entered (.fence 4 4 .system) c).ops.all fun o => !(s.entered (.fence 4 4 .system) c).shownTo c.pid o)
      && issues (shown .cluster) (.fence 4 4 .system) (fun s c => ((s.entered (.fence 4 4 .system) c).unperformed c.pid 4).isNone
        && (s.entered (.fence 4 4 .system) c).ops.any fun o => (s.entered (.fence 4 4 .system) c).shownTo c.pid o)
      && issues storing (.fenceFar .cluster) (fun s c => s.ops.any fun o => !o.done && o.kind.kinds == 4 && inScope .cluster c.core (coreOf o.pid))
      && issues mapped (.fenceFar .wave) (fun s c => s.ops.isEmpty && ((s.entered (.fenceFar .wave) c).unfenced c.pid 14).isNone)) = true := by decide

theorem witness_ControlRegistersAndHostAccesses_paths :
    ([(filled, false), (inSystem filled, true)].all (fun x => match x.1.path 0 with
        | some p => p.sys == x.2 && x.1.mayIssue 0 p
        | none => false)
      && (tget (tiled (tileA .ready)).run.tiles (128 * 0 + 0)).isSome) = true := by decide

/-! Tests of rules about the order and the lifetime of things. -/

/-- R320: a load of another path waits for a store that a fence of the block has made visible; R142: a full ring is one with as many entries as
its size, and no more. -/
theorem test_shown_store_waits :
    issues (shown .block) (.sld 8 1 2 .b32 .g) (fun s c => (match s.checkAll c .g ⟨false, false, false⟩ 4 false [(0, 0x40004)] with | .wait _ => true | _ => false)
      && s.checkAll c .g ⟨false, false, false⟩ 4 false [(0, 0x40008)] == .ok [⟨0, 0x40008, .phys 0x50008⟩]) = true := by decide

/-- R39, R109: 0 times infinity plus a NaN counts no invalid event, and plus a number counts one. -/
theorem test_fused_nan : (FV.fma .rne (.fin false 0 0) (.inf false) .nan).2 = 0 ∧ (FV.fma .rne (.fin false 0 0) (.inf false) (.fin false 1 0)).2 ≠ 0 := by decide

/-- R349: the header of an ACK from die 1, context 2 of module 5 to die 0, context 3 of module 6 on channel 4. -/
theorem test_flit_endpoint : Endpoint.bits ⟨5, 1, 2⟩ = 5 + 1024 + 8192 := by decide

/-! Witnesses of clauses about killed waves, held data, lines that are owned, and what else waits. -/

/-- A pixel wave in its first region, whose access at 0x60000000 kills it; lane 0 of a helper with eight entries. -/
def killable : State :=
  (((mapped.writeS 0 2 0x60000000).onPath 0 fun p => { p with region := some ⟨placeVa, none, true, []⟩ }).onWave 0 fun w =>
    { w with start := some ⟨15, [], [], []⟩ })
def crammed : State :=
  { helped with run := { helped.run with helpers := [(helperBase, ⟨0, 0, 2, [], [(1, List.replicate 8 (.repay 2 5))], 1⟩)] } }

theorem witness_LoadsAndStoresIssueInEveryForm_kills :
    ([Instr.vld 8 3 2 .b32 .g, .sld 8 1 0 .b32 .g].all (fun i => issues killable i (fun s c => !c.helper && s.faultKills (c.pid / 4) 0x60000000
        && s.checkAll c .g ⟨c.p.sys, false, false⟩ 4 true [(0, 0x60000000)] == .trap 4 0x60000000 (some 0)
        && s.checkAll c .g ⟨c.p.sys, false, false⟩ 4 false [(0, 0x60000000)] == .trap 4 0x60000000 none))
      && [(helped, 0), (crammed, 8)].all (fun x => (x.1.helper helperBase).map (fun h => (tgetD [] h.held 1).length) == some x.2)) = true := by decide

/-- A load of one place, over which a held store of the path lies, and one of a spoilt word, for a path that waits for its data. -/
def heldLoad (d : Dest) (h : List (Nat × Loc × Byte)) : State := inFlight .ld d (.load .b32 [(0, .phys 0x50000)] h)
def spoiltLoad (d : Dest) : State := { heldLoad d [] with ras := { mapped.ras with bad := [0x50000 / 8] } }

theorem witness_LoadsAndTileLoadsReturn_held :
    ([Dest.vector 8 1, .scalar 8 1].all (fun d =>
        found (heldLoad d [(0, .phys 0x50000, 7), (0, .phys 0x50002, 9)]) (fun o => o.got.isEmpty && o.dest == d && !(mapped.core (coreOf o.pid)).trEn
          && ((Loc.phys 0x50000).span 4).all fun b => !(heldLoad d []).locBad b && ((heldLoad d []).readLoc b).isSome)
        && found (spoiltLoad d) (fun o => o.got.isEmpty && ((Loc.phys 0x50000).span 4).all fun b => (spoiltLoad d).locBad b && ((spoiltLoad d).readLoc b).isSome))
      && (((heldLoad (.vector 8 1) []).onPath 0 fun p => { p with st := .waiting, wait := .data 0 }).path 0).map (·.wait) == some (.data 0)
      && ((heldLoad (.vector 8 1) []).tokensOf 0).isEmpty
      && found (inFlight .ld (.scalar 91 2) (.values [(96, [5, 6])] (some (0x40000, none)))) (fun o => (mapped.path o.pid).isSome)
      && found (inFlight .tl .none (.vaultWrite [(vaultKey 0 1 2, 9)])) (fun _ => !mapped.vaultTested 0 1)
      && (match (inFlight .ld .none (.atomic .add32 [(0, .phys 0x50004, 7)])).ops with
          | [o] => ({ mapped with ops := [{ o with dropped := true }] } : State).mayPerform { o with dropped := true }
          | _ => false)) = true := by decide

/-- An intersection of lane 0 that meets the hierarchy's one triangle. -/
def answering : State :=
  { oneTriangle with ops := [{ opOf .tl (.vector 8 4) 1 (.query [(0, ⟨true, [0, 0], 0x40100, none⟩)] false) with pid := 0 }], nextOp := 1 }

set_option exponentiation.threshold 1024 in
theorem witness_LoadsAndTileLoadsReturn_query :
    (match answering.findOp 0 with
    | some o => Memory.wf answering.mem && lanesOf o.mask == [0]
        && ((answering.answers o [0]).1.all fun x => match x.2 with | .hit _ => true | _ => false)
        && !(answering.treeLocs o (answering.answers o [0]).2).isEmpty
    | none => false) = true := by decide

/-- A block whose hash grid has one level in its scratchpad. -/
def pinnedGrid : State := (mapped.onBlock 0 fun b => { b with hash := some [⟨0, 0, 1, true, false, 4⟩] }).onPath 0 fun p => { p with mask := 1 }

theorem witness_VolumesAndHashGrids_pinned :
    ([Instr.hgath 20 4, .hscat 4 24].all (fun i => issues pinnedGrid i (fun s c => let u := s.entered i c
        (u.hashContext c.pid).map (·.map (·.pinned)) == some [true] && !u.boundsBad c.pid c.wid ⟨[(24, 2)], [(20, 1)], [], []⟩
          && (u.registersPending c.owner ⟨[(24, 2)], [(20, 1)], [], []⟩).isNone && !isNan32 (u.readV c.pid 4 0)
          && u.checkAll c .g ⟨c.p.sys, false, false⟩ 4 true [] == .ok []
          && (List.range 1024).all fun k => !u.mustWait (.sram 0 k) && (u.unseenStore c.pid [.sram 0 k]).isNone))) = true := by decide

/-- Queue 3 is not mapped, and queue 2's ring has a size that no ring has. -/
def badRing : State := poke (ringed 0) 8 8 60
/-- Bytes that a copy of another wave will write; a table update in flight. -/
def owned : State :=
  { mapped with ops := [{ opOf .cp .none 0xF (.copyMem [(.phys 0x58000, .phys 0x50000)]) with owner := 4, pid := 16 }], nextOp := 1 }
def updating (t : Tile) : State := { tiled t with ops := [opOf .tl .none 0xF (.table 3 none)], nextOp := 1 }

theorem witness_Queues_bad :
    ([Instr.qpush true 3 3 20, .qpop true 3 3 20].all (fun i => issues (ringed 0) i (fun s c => let u := s.entered i c
        (u.unreleased c.pid).isNone && ((u.blockOf c.pid).bind u.launchOf).map (·.queue 3) == some 0))
      && [Instr.qpush true 3 2 20, .qpop true 3 2 20].all (fun i => issues badRing i (fun s c => let u := s.entered i c
        (u.unreleased c.pid).isNone && ((u.blockOf c.pid).bind u.launchOf).map (·.queue 2) == some 0x40000
          && u.reachMode c.core c.p.sys true 0x40000 == .at_ (.phys 0x50000) && (u.heldBy (some c.pid) ((Loc.phys 0x50000).span 32)).isNone
          && (match u.ringPush (u.reachMode c.core c.p.sys) (some c.pid) 0x40000 (u.groupBytes c 20 8) with | .bad => true | _ => false)
          && (match u.ringPop (u.reachMode c.core c.p.sys) (some c.pid) 0x40000 with | .bad => true | _ => false)))
      && issues owned (.mint 20 2) (fun s c => let u := s.entered (.mint 20 2) c
        (u.unreleasedAll c.pid).isNone && u.reachMode c.core c.p.sys true 0x40000 == .at_ (.phys 0x50000)
          && (u.heldBy (some c.pid) ((Loc.phys 0x50000).span 8)).isSome)) = true := by decide

theorem witness_TileTable_updates :
    ([(none, TileState.filling), (none, .draining), (some (tileA .empty), .empty)].all (fun x =>
        found (withTile (tileA x.2) (tableOp x.1) |> fun s => { s with ops := (tableOp x.1).ops }) (fun o => o.kind == .table 0 x.1)
          && tget (withTile (tileA x.2) (tableOp x.1)).run.tiles 0 == some (tileA x.2))
      && tget (withTile { tileA .ready with refs := 1 } (tableOp none)).run.tiles 0 == some { tileA .ready with refs := 1 }
      && [Instr.tfree 5, .tdef 5 20, .cpTile 5 2 40].all (fun i => issues (updating (tileA .empty)) i (fun s c => let v := s.entered i c
        v.tableBusy (clusterOf c.core) && (v.tileOf (v.bidOf c.pid) 5).map (·.2.st) == some .empty && (v.blockOf c.pid).isSome))
      && issues (tiled (tileA .empty)) (.tdef 5 20) (fun s c => let v := s.entered (.tdef 5 20) c
        match v.blockOf c.pid with
        | some b => (match describeTile b (tileA .empty) ((List.range 4).map fun k => (v.readS c.pid c.p (20 + k)).toNat) with
          | some n => v.run.tiles.all fun x => x.1 == 0 || x.1 / 128 != clusterOf c.core || !n.overlaps x.2
          | none => false)
        | none => false)) = true := by decide

/-- A drain of one row while another wave's store in the tile has been made visible and not performed; 64 copies held. -/
def unseenTile : State :=
  { tiled (tileA .ready) with ops := [{ opOf .st .none 0xF (.store [(.sram 0 0, 7)]) with owner := 4, pid := 16, seen := some .block }], nextOp := 1 }
def laden : State :=
  { tiled (tileA .ready) with ops := (List.range 64).map fun k => { opOf .cp .none 0xF (.copyMem []) with id := k, owner := 4, pid := 16 }, nextOp := 64 }

theorem witness_CopyEngine_waits :
    ([(unseenTile, true), (laden, false)].all (fun x => issues x.1 (.cpStore 5 2 40) (fun s c => let v := s.entered (.cpStore 5 2 40) c
        match v.tileOf (v.bidOf c.pid) 5, v.blockOf c.pid with
        | some (_, u), some b => !v.tableBusy (clusterOf c.core) && u == tileA .ready && (v.unseenStore c.pid (u.places b)).isSome == x.2
            && decide (64 ≤ v.copiesHeld (clusterOf c.core)) == !x.2
            && (match v.checkRanges c ((rowChunks 0x40000 16 16 2).map fun r => (true, r)) with
              | .ok ps => (v.matchesOf c.core 3 1 (copyAccesses ps (u.places b))).isEmpty
              | _ => false)
        | _, _ => false))
      && found (copying (.copyFill 0 pairs16) .filling) (fun o => let s := copying (.copyFill 0 pairs16) .filling
        (pairs16.find? fun p => o.vaOf p.1 == 0x40000 && o.vas.any fun v => v.1 == p.1) == some (.phys 0x50000, .sram 0 0)
          && (s.readLoc (.phys 0x50000)).isSome && (s.granules (.phys 0x50000)).head? == some (0x50000 / 8) && !s.tileBad 0 && decide (o.owner < 4096)
          && s.dev.hotbase == 0 && ((s.pathsOf o.owner).head?).map (·.1) == some 0 && (s.path 0).isSome)) = true := by decide

/-- A wait entry at an address that is not mapped; and a ring whose descriptor is not. -/
theorem witness_CommandRings_faults :
    (headOf (command 2 0x60000000 0) 7 (fun _ e => !entryBad e && entryAddr e % 8 == 0
        && (match ((command 2 0x60000000 0).settleRing 7).devRead (entryAddr e) 8 with | .fault => true | _ => false))
      && (let s := (command 0 0 0).setRing 7 { (command 0 0 0).ring 7 with desc := 0x60000000 }
          match (s.settleRing 7).ringHead 7 with | .stop _ _ _ => true | _ => false)) = true := by decide

/-- The launch record's page while it moves, and a record whose third count lies where no page is. -/
def recordMoving : State :=
  let s := recorded 0 one
  { s with mem := Memory.write s.mem 0x4020 (bytesOf 8 (placePte.toNat + 128)), move := some ⟨0x4020, 0x50000, 0x20000000000, false⟩ }

theorem witness_LaunchAcceptance_waits :
    (recordMoving.devWaits false 0x42000 256 && recordMoving.dev.hotbase == 0
      && (let s := poke (recorded 0 indirectOne) 0x2058 8 0x60000000
          launched s (fun l => l.check 0x42000 == none && l.indirect && l.pbmap == 0 && (l.readCounts s l.levels [] matches .fault)))
      && (let s := poke (recorded 0 indirectOne) 0x3000 4 7
          launched s (fun l => l.check 0x42000 == none && (match l.readCounts s l.levels [] with
            | .ok cs => (l.withCounts cs).checkCount == none && (l.withCounts cs).blocks == 7 && !s.acceptWaits (l.withCounts cs) | _ => false)))) = true := by
  decide

/-! Witnesses about clearing engines. -/

/-- Buffers over an address that is not mapped; a store of the wave that the die is to see, in the signal word. -/
def unmappedBuffers : State := clearSet fun c => { c with buffers := [(1, ⟨true, 0x60000000, 0x8000⟩)] }
def dieStore : State :=
  { clearSet id with ops := [{ opOf .st .none 0xF (.store [(.phys 0x50008, 7)]) with seen := some .die }], nextOp := 1 }

theorem witness_ChunkControl_waits :
    (clearing unmappedBuffers (fun c => c.signalAddr 1 5 == some 0x60000008 && c.ops.isEmpty
        && (match unmappedBuffers.reachClear c false 0x60000008 with | .absent => true | _ => false))
      && [(clearSet id, false), (dieStore, true)].all (fun x => clearing x.1 (fun c => c.signalAddr 1 5 == some 0x40008
        && (match x.1.reachClear c true 0x40008 with | .at_ l => x.1.clearWaits 0 (l.span 8) == x.2 | _ => false)))) = true := by decide

/-- A recv and a red of two peers whose chunks have arrived whole. -/
def red2 : ChunkOperation :=
  ⟨0, 0, 0, .red [(0, 0), (1, 0)] 0 1, (Loc.phys 0x58000).span 256, (Loc.phys 0x50000).span 256, 0x48000, 0x40000, false,
    [(0, List.replicate 256 1), (1, List.replicate 256 2)], 0⟩
def gotAll : ChunkOperation := { recvOp with got := [(0, List.replicate 256 1)] }

theorem witness_ChunkOperations_completions :
    ([gotAll, red2, copyOp].all (fun o => let s := clearSet fun c => { c with ops := [o] }
        s.findChunk 0 0 == some o && !s.chunkWaits 0 o (o.src ++ o.dst) && !s.sourceBad o.src && !o.dst.any s.locBad && (s.clear 0).chunk == 256
          && s.dev.hotbase == 0 && Memory.wf s.mem
          && (match o.kind with
            | .red ps _ _ => ps.all fun p => (tgetD [] o.got p.1).length == 256
            | .recv p _ _ => (tgetD [] o.got p).length == 256
            | _ => true))
      && (let s := { (clearSet fun c => { c with ops := [red2] }) with ras := { mapped.ras with bad := [0x58000 / 8] } }
          !s.chunkWaits 0 red2 (red2.src ++ red2.dst) && s.sourceBad red2.src)
      && clearing (clearSet id) (fun c => match (clearSet id).spanClear c true 0x40100 2 with
          | .ok ls => !(clearSet id).clearWaits 0 ls && (reduction (.redAddI32 4 1 5 2 5 0)).isSome && (maskPeers (c.reg 4)).all fun p => (tget c.peers p).isSome
          | _ => false)) = true := by decide

/-- A send of context 0 to a peer of another module, and a recv of context 1 from one; the last flit of a chunk. -/
def farPeer : Endpoint := ⟨5, 0, 0⟩
def sendingTo (e : Endpoint) : State := clearSet fun c => { c with ops := [sendOp], peers := [(1, e)] }

theorem witness_Flits_starts :
    ([farPeer, endpointOf 1].all (fun e => (sendingTo e).findChunk 0 0 == some sendOp && !sendOp.started && (cidOf e).isNone == (e == farPeer)
        && tget ((sendingTo e).clear 0).peers 1 == some e && !(sendingTo e).chunkWaits 0 sendOp sendOp.src)
      && (((sendingTo (endpointOf 1)).clear 1).consumer (endpointOf 0) 0 0).isNone
      && (let s := flitted (dataFlit true) 256
          (s.clear 1).consumer (endpointOf 0) 0 0 == some (recvOp, 0) && (s.clear 0).chunk == (s.clear 1).chunk)
      && [farPeer, endpointOf 0].all (fun e => let s := (clearSet id).setClear 1 { Clear.reset with st := .running, peers := [(0, e)], ops := [recvOp] }
          s.findChunk 1 0 == some recvOp && tget (s.clear 1).peers 0 == some e && (e.module == Config.here) == (e != farPeer))
      && (let f := { dataFlit true with payload := List.replicate 256 3 }
          let s := { flitted f 256 with flits := [f] }
          match s.takeFlit f with
          | some t => (t.clear 1).consumer f.src f.ch f.chunk == some (recvOp, 0) && (t.clear 1).chunk == 256 && f.src.module == f.dst.module
              && !t.chunkWaits 1 { recvOp with got := [(0, f.payload)] } recvOp.dst
          | none => false)
      && farWrite.fits && physValid (farWrite.addr + 0)
      && found putting (fun _ => !putting.pieceHeld (some (.phys 0x50000, [1, 2])) && ((Loc.phys 0x50000).span 2).all fun l => !putting.mustWait l)
      && ((clearSet fun c => { c with pausedBy := [endpointOf 1] }).clear 0).paused) = true := by decide

/-! Witnesses about moves, pre-emption, debugging and dumps. -/

/-- A pool whose free frame is of the other tier. -/
def wrongFrame : State := { migrating 1 with mem := Memory.write (migrating 1).mem 0x31000 (bytesOf 8 0x10000) }
/-- A halted context of one wave whose open region holds a store. -/
def regionHeld : State :=
  (({ mapped with run := { mapped.run with halted := true } } : State).onPath 0 fun p =>
    { p with region := some ⟨0x40000, some 7, false, [⟨0, [(.phys 0x50000, 1)], none⟩]⟩ })
def regionBehind : State := { regionHeld with ops := owned.ops, nextOp := 1 }

theorem witness_PreemptionAndMoves :
    (wrongFrame.nextMove == some (0x50000, false) && !wrongFrame.mustWait (.phys 0x4020)
      && (match wrongFrame.ringPop reachPhys none wrongFrame.dev.pooll with | .done _ e => numOf (e.take 8) == 0x10000 | _ => false)
      && regionHeld.run.halted && !regionHeld.dev.dumpBusy && regionHeld.contextCores.all (fun k => (regionHeld.cluster (clusterOf k)).stopping.isNone)
      && regionBehind.commitRegions.ops.any (fun o => !o.done && o.cls == .held) && regionBehind.run.halted
      && ({ filled with dev := { filled.dev with dumpBusy := true } } : State).dev.dumpBusy
      && (filled.wave 0).map (·.killed) == some false && (killed.wave 0).map (fun w => w.reissues.1) == some 0
      && ((clusterAs fun k => { k with stopped := true, asked := some (100, 5, 6, 7) }).cluster 0).asked == some (filled.clk, 5, 6, 7)
      && ((clusterAs fun k => { k with stopped := true }).cluster 0).asked.isNone
      && (let s := { dumping 32 with dev := { (dumping 32).dev with preempt := true } }
          s.dev.dumpBusy && s.quiet && s.dev.preempt && s.run.running)) = true := by decide

set_option exponentiation.threshold 1024 in
/-- FIPS 180-4: the digest of no bytes. -/
theorem test_sha512_empty :
    sha512 [] = 0xcf83e1357eefb8bdf1542850d66d8007d620e4050b5715dc83f4a921d36ce9ce47d0d13c5d85f2b0ff8318d2877eec2f63b931bd47417a81a538327af927da3e := by decide
end Sys2Proof.Tests
end

section
/-! PROOF. What a write to a control register keeps and what a read gives (R8, R58), and the host's accesses to memory (R317). -/

namespace Sys2Proof.Machine

/-! The fields of a written value. -/

theorem fld_low (v n : Nat) : fld v 0 n = v % 2 ^ n := by simp [fld]

theorem bitsAt_low (v n : Nat) : bitsAt v 0 n = v % 2 ^ n := by simp [bitsAt, fld]

theorem fld_toNat {w : Nat} (v : BitVec w) (lo n : Nat) : fld v.toNat lo n = (v.extractLsb' lo n).toNat := by
  simp [fld, BitVec.extractLsb'_toNat, Nat.shiftRight_eq_div_pow]

theorem fld_bit {w : Nat} (v : BitVec w) (k : Nat) : (fld v.toNat k 1 == 1) = v.getLsbD k := by
  simp [fld, BitVec.getLsbD, Nat.testBit_eq_decide_div_mod_eq, beq_eq_decide]

/-- Bits [48:2] of a register, where an instruction's address stands (R303, R375). -/
theorem bitsAt_codeAddr (v : DWord) : bitsAt v.toNat 2 47 = (v &&& 0x1FFFFFFFFFFFC#64).toNat := by
  have mask : (0x1FFFFFFFFFFFC#64).toNat = (2 ^ 47 - 1) * 2 ^ 2 := by decide
  refine Nat.eq_of_testBit_eq fun i => ?_
  rw [BitVec.toNat_and, mask, Nat.testBit_and]
  simp only [bitsAt, fld, Nat.testBit_mul_two_pow, Nat.testBit_mod_two_pow, Nat.testBit_div_two_pow, Nat.testBit_two_pow_sub_one]
  by_cases h : 2 ≤ i
  · simp [h, Bool.and_comm]
  · simp [h]

theorem ofNat_toNat_low {w : Nat} (v : BitVec w) (n : Nat) : BitVec.ofNat n v.toNat = v.extractLsb' 0 n :=
  BitVec.eq_of_toNat_eq (by simp)

theorem ofNat_fld {w : Nat} (v : BitVec w) (lo n : Nat) : BitVec.ofNat n (fld v.toNat lo n) = v.extractLsb' lo n := by
  rw [fld_toNat, BitVec.ofNat_toNat, BitVec.setWidth_eq]

/-! What each writable register without behaviour of its own keeps. -/

section
variable (d : Device) (v : DWord)

theorem writeDevice_tqbase : writeDevice d 0x310 v.toNat = { d with tqbase := v.toNat % 2 ^ 49 } := by
  simp [writeDevice, bitsAt_low]
theorem writeDevice_tqctl : writeDevice d 0x318 v.toNat = { d with tqEn := v.getLsbD 31, tqLseg := v.toNat % 2 ^ 5 } := by
  simp [writeDevice, fld_bit, fld_low]
theorem writeDevice_fgbase : writeDevice d 0x320 v.toNat = { d with fgbase := v.toNat % 2 ^ 49 } := by
  simp [writeDevice, bitsAt_low]
theorem writeDevice_rmapbase : writeDevice d 0x360 v.toNat = { d with rmapbase := v.toNat % 2 ^ 52 } := by
  simp [writeDevice, bitsAt_low]
theorem writeDevice_migctl : writeDevice d 0x368 v.toNat = { d with
    migEn := v.getLsbD 31, migUp := (v.extractLsb' 16 8).toNat, migDn := (v.extractLsb' 8 8).toNat, migRate := v.toNat % 2 ^ 8 } := by
  simp only [writeDevice, fld_bit, fld_low, fld_toNat v 16, fld_toNat v 8]; rfl
theorem writeDevice_poolh : writeDevice d 0x370 v.toNat = { d with poolh := v.toNat % 2 ^ 52 } := by
  simp [writeDevice, bitsAt_low]
theorem writeDevice_pooll : writeDevice d 0x378 v.toNat = { d with pooll := v.toNat % 2 ^ 52 } := by
  simp [writeDevice, bitsAt_low]
theorem writeDevice_tvec : writeDevice d 0x390 v.toNat = { d with tvec := (v &&& 0x1FFFFFFFFFFFC#64).toNat } := by
  simp [writeDevice, bitsAt_codeAddr]
theorem writeDevice_dumpadr : writeDevice d 0xC00 v.toNat = { d with dumpadr := v.toNat % 2 ^ 49 } := by
  simp [writeDevice, bitsAt_low]
theorem writeDevice_dumplen : writeDevice d 0xC08 v.toNat = { d with dumplen := v.toNat } := rfl
theorem writeDevice_rasctl : writeDevice d 0xD00 v.toNat = { d with rasEn := v.getLsbD 31, rasIrq := v.getLsbD 30 } := by
  simp [writeDevice, fld_bit]
theorem writeDevice_raslog : writeDevice d 0xD08 v.toNat = { d with raslog := v.toNat % 2 ^ 49 } := by
  simp [writeDevice, bitsAt_low]
theorem writeDevice_attadr : writeDevice d 0xF90 v.toNat = { d with attadr := v.toNat } := rfl
end

section
variable (k : Core) (clk c : Nat) (v : DWord)

theorem writeCore_wlim : writeCore k clk 0x500 v.toNat = { k with wlim := v.extractLsb' 0 32 } := by
  rw [← ofNat_toNat_low]; rfl
theorem writeCore_smpBase : writeCore k clk 0x808 v.toNat = { k with smpBase := v.toNat % 2 ^ 49 } := by
  simp [writeCore, bitsAt_low]
theorem writeCore_smpRp : writeCore k clk 0x818 v.toNat = { k with smpRp := v.toNat } := by
  simp [writeCore]
theorem writeCore_trBase : writeCore k clk 0x908 v.toNat = { k with trBase := v.toNat % 2 ^ 49 } := by
  simp [writeCore, bitsAt_low]

theorem writeCore_nevCnt (hc : c < 8) :
    writeCore k clk (0x440 + 4 * c) v.toNat = { k with nevCnt := tset k.nevCnt c (v.extractLsb' 0 32) } := by
  rw [writeCore, if_neg (by omega), if_pos (by omega), show (0x440 + 4 * c - 0x440) / 4 = c by omega, ofNat_toNat_low]

theorem writeCore_nevThr (hc : c < 8) :
    writeCore k clk (0x480 + 4 * c) v.toNat = { k with nevThr := tset k.nevThr c (v.extractLsb' 0 32) } := by
  rw [writeCore, if_neg (by omega), if_neg (by omega), if_pos (by omega), show (0x480 + 4 * c - 0x480) / 4 = c by omega, ofNat_toNat_low]

/-- NEVCTL keeps act, en and frz, and neither the counters nor the hits change (R58). -/
theorem writeCore_nevctl :
    (writeCore k clk 0x400 v.toNat).nevAct = v.extractLsb' 16 8 ∧ (writeCore k clk 0x400 v.toNat).nevEn = v.extractLsb' 8 8
      ∧ (writeCore k clk 0x400 v.toNat).nevFrz = v.getLsbD 0 ∧ (writeCore k clk 0x400 v.toNat).nevCnt = k.nevCnt
      ∧ (writeCore k clk 0x400 v.toNat).nevHit = k.nevHit := by
  rw [writeCore, if_pos rfl]
  exact ⟨ofNat_fld v 16 8, ofNat_fld v 8 8, fld_bit v 0, rfl, rfl⟩
end

theorem writeCluster_dbgPath (k : Cluster) (v : DWord) : writeCluster k 0x9040 v = { k with dbgPath := v.extractLsb' 0 9 } := rfl

section
variable (k : Cluster) (i : Nat) (v : DWord) (hi : i < 8)
include hi

theorem writeCluster_watchAdr : writeCluster k (0x9100 + 32 * i) v =
    { k with watch := tset k.watch i { tgetD Watchpoint.reset k.watch i with adr := v } } := by
  simp only [writeCluster, show (0x9100 + 32 * i - 0x9100) / 32 = i by omega]
  rw [if_neg (by omega), if_pos (by omega), if_pos (by omega)]

theorem writeCluster_watchCtl : writeCluster k (0x9108 + 32 * i) v =
    { k with watch := tset k.watch i { tgetD Watchpoint.reset k.watch i with ctl := v.extractLsb' 0 32 &&& 0xFFC000FF#32 } } := by
  simp only [writeCluster, show (0x9108 + 32 * i - 0x9100) / 32 = i by omega]
  rw [if_neg (by omega), if_pos (by omega), if_neg (by omega), if_pos (by omega)]

theorem writeCluster_breakAdr : writeCluster k (0x9200 + 16 * i) v =
    { k with breaks := tset k.breaks i { tgetD Breakpoint.reset k.breaks i with adr := (v &&& 0x1FFFFFFFFFFFC#64).toNat } } := by
  simp only [writeCluster, show (0x9200 + 16 * i - 0x9200) / 16 = i by omega]
  rw [if_neg (by omega), if_neg (by omega), if_pos (by omega), if_pos (by omega), bitsAt_codeAddr]

theorem writeCluster_breakCtl : writeCluster k (0x9208 + 16 * i) v =
    { k with breaks := tset k.breaks i { tgetD Breakpoint.reset k.breaks i with en := v.getLsbD 31, stp := v.getLsbD 30 } } := by
  simp only [writeCluster, show (0x9208 + 16 * i - 0x9200) / 16 = i by omega]
  rw [if_neg (by omega), if_neg (by omega), if_pos (by omega), if_neg (by omega), if_pos (by omega)]
end

/-! Writes and reads of registers (R8). -/

section
variable (s : State) (n off : Nat) (v : DWord)

/-- The device's own registers stand outside the clearing contexts' part of the page. -/
theorem exec_registerWrite_dev (h : off < 0x800 ∨ 0xC00 ≤ off) (hot : off ≠ 0x358) :
    exec (.registerWrite .dev n off v) s = .next { s with dev := writeDevice s.dev off v.toNat } := by
  rw [exec_registerWrite, execRegisterWrite, if_neg (by omega), if_neg hot]

/-- The halvings due before a write to HOTBASE concern the old table (R339). -/
theorem exec_registerWrite_hotbase :
    exec (.registerWrite .dev n 0x358 v) s =
      .next { s.halveHot with dev := { s.halveHot.dev with hotbase := v.toNat % 2 ^ 52 } } := by
  simp [exec_registerWrite, execRegisterWrite, writeDevice, bitsAt_low]

/-- Below 0x0800 the device page holds these writable registers of its own, and no others. -/
theorem writeDevice_none (d : Device) (x : Nat) (h : off < 0x800)
    (hoff : off ∉ [0x310, 0x318, 0x320, 0x340, 0x348, 0x358, 0x360, 0x368, 0x370, 0x378, 0x390]) : writeDevice d off x = d := by
  simp only [List.mem_cons, List.not_mem_nil, or_false, not_or] at hoff
  obtain ⟨h310, h318, h320, -, -, h358, h360, h368, h370, h378, h390⟩ := hoff
  simp only [writeDevice, h310, h318, h320, h358, h360, h368, h370, h378, h390, if_false,
    show off ≠ 0xC00 by omega, show off ≠ 0xC08 by omega, show off ≠ 0xD00 by omega, show off ≠ 0xD08 by omega,
    show off ≠ 0xF90 by omega]

theorem exec_registerWrite_core (hn : n < 128) (hoff : off ≠ 0x400) :
    exec (.registerWrite .core n off v) s = .next (s.setCore n (writeCore (s.core n) s.clk off v.toNat)) := by
  rw [exec_registerWrite, execRegisterWrite, if_neg (by simpa [Config.cores] using hn), if_neg hoff]

theorem exec_registerWrite_nevctl (hn : n < 128) :
    exec (.registerWrite .core n 0x400 v) s = .next (s.setNumeric n (writeCore (s.core n) s.clk 0x400 v.toNat)) := by
  rw [exec_registerWrite, execRegisterWrite, if_neg (by simpa [Config.cores] using hn), if_pos rfl]

/-- A core's numeric-event interrupt follows its registers, and nothing else of the state does. -/
@[simp] theorem State.setNumeric_core_same (k : Core) : (s.setNumeric n k).core n = k := s.setCore_core_same n k
@[simp] theorem State.setNumeric_mem (k : Core) : (s.setNumeric n k).mem = s.mem := rfl
@[simp] theorem State.setNumeric_run (k : Core) : (s.setNumeric n k).run = s.run := rfl

theorem exec_registerWrite_cluster (hn : n < 32) :
    exec (.registerWrite .cluster n off v) s = .next (s.setCluster n (writeCluster (s.cluster n) off v)) := by
  rw [exec_registerWrite, execRegisterWrite, if_pos (by simpa [Config.clusters] using hn)]

theorem exec_registerRead_core (hn : n < 128) (h820 : off ≠ 0x820) (h91C : off ≠ 0x91C) :
    exec (.hostMemoryAccess (.registerRead .core n off)) s = .next { s with hostData := bytesOf 4 (s.corePageWord n off) } := by
  simp [exec_hostMemoryAccess, execHostMemoryAccess, execRegisterRead, pageExists, Config.cores, hn, h820, h91C, State.registerWord]

theorem corePageWord_registers (h : 0x400 ≤ off) (g : off < 0xC00) : s.corePageWord n off = s.pageWord n off := by
  rw [State.corePageWord, if_neg (by omega), if_pos ⟨h, g⟩]

theorem corePageWord_pathTable (w k : Nat) (hw : w < 32) (hk : k < 0x800) :
    s.corePageWord n (0x4000 + 0x800 * w + k) = wordOf (s.pathTable (32 * n + w)) k := by
  rw [State.corePageWord, if_pos (by omega), show (0x4000 + 0x800 * w + k - 0x4000) / 0x800 = w by omega,
    show (0x4000 + 0x800 * w + k) % 0x800 = k by omega]

/-- A read of a cluster's page below its hit record, where no register is cleared by reading. -/
theorem exec_registerRead_tiles (hn : n < 32) (h : off < 0x9000) :
    exec (.hostMemoryAccess (.registerRead .cluster n off)) s = .next { s with hostData := bytesOf 4 (s.clusterWord n off) } := by
  simp [exec_hostMemoryAccess, execHostMemoryAccess, execRegisterRead, pageExists, Config.clusters, hn, State.registerWord,
    show off ≠ 0x9018 by omega, show ¬ 0x9100 ≤ off by omega, show ¬ 0x9200 ≤ off by omega]

theorem clusterWord_tile (e k : Nat) (t : Tile) (he : e < 128) (hk : k < 32) (ht : tget s.run.tiles (128 * n + e) = some t) :
    s.clusterWord n (0x8000 + 32 * e + k) = wordOf (tileEntry t) k := by
  rw [State.clusterWord, if_pos (by omega), show n * 128 + (0x8000 + 32 * e + k - 0x8000) / 32 = 128 * n + e by omega, ht]
  simp only [show (0x8000 + 32 * e + k) % 32 = k by omega]

end

/-! Paths' accesses (R58). -/

section
variable {s : State} {pid : Nat} {p : Path} (hp : s.path pid = some p) (hmay : s.mayIssue pid p = true)
include hp hmay

theorem pathAccess_user (body : State → Result) (hsys : p.sys = false) :
    pathAccess pid body s = .next (s.takeFree.takeTrap pid 0x05 p.bundleStart s.openAux none) := by
  simp [pathAccess, hp, hmay, hsys]

theorem pathAccess_system (body : State → Result) (hsys : p.sys = true) : pathAccess pid body s = body s := by
  simp [pathAccess, hp, hmay, hsys]

theorem exec_pathRead_user (hsys : p.sys = false) (dest : Nat) (page : CtlPage) (n off : Nat) :
    exec (.hostMemoryAccess (.pathRead pid dest page n off)) s =
      .next (s.takeFree.takeTrap pid 0x05 p.bundleStart s.openAux none) := by
  rw [exec_hostMemoryAccess, execHostMemoryAccess, pathReads, pathAccess_user hp hmay _ hsys]

theorem exec_pathWrite_user (hsys : p.sys = false) (page : CtlPage) (n off : Nat) (v : DWord) :
    exec (.hostMemoryAccess (.pathWrite pid page n off v)) s =
      .next (s.takeFree.takeTrap pid 0x05 p.bundleStart s.openAux none) := by
  rw [exec_hostMemoryAccess, execHostMemoryAccess, pathAccess_user hp hmay _ hsys]

theorem exec_pathRead_system (hsys : p.sys = true) {page : CtlPage} {n off : Nat} {t : State}
    (ht : exec (.hostMemoryAccess (.registerRead page n off)) s = .next t) (dest : Nat) :
    exec (.hostMemoryAccess (.pathRead pid dest page n off)) s =
      .next (let u : State := { t with hostData := s.hostData }
             if dest < 96 then u.writeS pid dest (BitVec.ofNat 32 (numOf t.hostData)) else u) := by
  rw [exec_hostMemoryAccess, execHostMemoryAccess] at ht
  rw [exec_hostMemoryAccess, execHostMemoryAccess, pathReads, pathAccess_system hp hmay _ hsys, ht, andThen]

theorem exec_pathWrite_dev (hsys : p.sys = true) (n off : Nat) (v : DWord) :
    exec (.hostMemoryAccess (.pathWrite pid .dev n off v)) s = writeDevicePage off v.toNat s := by
  simp [exec_hostMemoryAccess, execHostMemoryAccess, pathAccess_system hp hmay _ hsys, writeControlPage, pageExists]

end

section
variable (s : State) (k off : Nat) (v : DWord)

theorem writeDevicePage_cqdesc (hk : k < 8) :
    writeDevicePage (0x200 + 32 * k) v.toNat s = exec (.cqdescWrite k (v.toNat % 2 ^ 49)) s := by
  rw [writeDevicePage, if_pos (by omega), if_pos (by omega), bitsAt_low, exec_cqdescWrite,
    show (0x200 + 32 * k - 0x200) / 32 = k by omega]

theorem writeDevicePage_cqnot (hk : k < 8) :
    writeDevicePage (0x208 + 32 * k) v.toNat s = exec (.cqnotWrite k (v.extractLsb' 0 32) false) s := by
  rw [writeDevicePage, if_pos (by omega), if_neg (by omega), if_pos (by omega), ofNat_toNat_low, exec_cqnotWrite,
    show (0x208 + 32 * k - 0x200) / 32 = k by omega]

theorem writeDevicePage_cqstat (hk : k < 8) (hv : v.getLsbD 31 = true) :
    writeDevicePage (0x20C + 32 * k) v.toNat s = exec (.cqstatResume k) s := by
  rw [← fld_bit, beq_iff_eq] at hv
  rw [writeDevicePage, if_pos (by omega), if_neg (by omega), if_neg (by omega), if_pos (by omega), whenBit, if_pos hv, exec_cqstatResume,
    show (0x20C + 32 * k - 0x200) / 32 = k by omega]

theorem writeDevicePage_ptroot : writeDevicePage 0x340 v.toNat s = exec (.ptrootWrite v) s := by
  simp [writeDevicePage, exec_ptrootWrite]

theorem writeDevicePage_tlbinv : writeDevicePage 0x348 v.toNat s = exec (.tlbinvWrite v) s := by
  simp [writeDevicePage, exec_tlbinvWrite]

/-- A register of the device without behaviour of its own. -/
theorem writeDevicePage_plain (h : 0x300 ≤ off) (g : off < 0x800) (h340 : off ≠ 0x340) (h348 : off ≠ 0x348) :
    writeDevicePage off v.toNat s = exec (.registerWrite .dev 0 off v) s := by
  simp [writeDevicePage, exec_registerWrite, show ¬ off < 0x300 by omega, show ¬ 0x800 ≤ off by omega, h340, h348,
    show off ≠ 0xC10 by omega, show off ≠ 0xF88 by omega]
end

/-! The host's accesses to memory (R317). -/

section
variable (s : State) (v : Bool) (a : Nat)

theorem hostPlaces_of_reached (write : Bool) (n : Nat) (l : Nat → Loc)
    (h : ∀ i, i < n → (if v then s.reachDev else reachPhys) write (a + i) = .at_ (l i)) :
    s.hostPlaces v write a n = some ((List.range n).map l) := by
  unfold State.hostPlaces
  have hr : ∀ i ∈ List.range n, (if v then s.reachDev else reachPhys) write (a + i) = .at_ (l i) := fun i hi => h i (List.mem_range.1 hi)
  generalize List.range n = is at hr
  induction is with
  | nil => rfl
  | cons i is ih =>
    have hi := hr i List.mem_cons_self
    have his := ih fun j hj => hr j (List.mem_cons_of_mem _ hj)
    simp only [List.foldr_cons, List.map_cons] at his ⊢
    rw [hi, his]

theorem any_mustWait_false (n : Nat) (l : Nat → Loc) (h : ∀ i, i < n → s.mustWait (l i) = false) :
    ((List.range n).map l).any s.mustWait = false := by simpa using h

theorem any_mustWait_true (n : Nat) (l : Nat → Loc) (h : ∃ i, i < n ∧ s.mustWait (l i) = true) :
    ((List.range n).map l).any s.mustWait = true := by simpa using h

/-- A page is written as plain memory of the package, or not at all (R335, R341, R351). -/
theorem placeOf_write {e : Nat} {big : Bool} {acc : Access} {va : Nat} {l : Loc} (hw : acc.write = true) (hf : acc.far = false)
    (h : placeOf e big acc va = .at_ l) : ∃ p, l = .phys p := by
  simp only [placeOf, hw, hf, Bool.true_and, Bool.false_eq_true, if_false] at h
  split at h
  · cases h
  split at h
  · cases h
  rename_i hro
  split at h
  · cases h
  split at h
  · rename_i hcomp
    simp [hcomp] at hro
  · exact ⟨_, (Reach.at_.inj h).symm⟩

theorem reachDev_write {l : Loc} (h : s.reachDev true a = .at_ l) : ∃ p, l = .phys p := by
  unfold State.reachDev at h
  have hplace : (s.walkFrom s.dev.ptroot [] a).place ⟨true, true, false⟩ a = .at_ l := by
    split at h
    · cases h
    · exact h
  cases hw : s.walkFrom s.dev.ptroot [] a with
  | leaf e b big => exact placeOf_write rfl rfl (show placeOf e big ⟨true, true, false⟩ a = .at_ l by rw [hw] at hplace; exact hplace)
  | absent | bad | busy => rw [hw] at hplace; cases hplace

theorem reachPhys_phys {l : Loc} (h : reachPhys true a = .at_ l) : ∃ p, l = .phys p := by
  unfold reachPhys at h
  split at h
  · exact ⟨a, (Reach.at_.inj h).symm⟩
  · cases h

theorem hostReach_write {l : Loc} (h : (if v then s.reachDev else reachPhys) true a = .at_ l) : ∃ p, l = .phys p := by
  cases v with
  | true => exact reachDev_write s a h
  | false => exact reachPhys_phys a h
end

/-! What counting an access changes (R339): bytes of the hotness table. -/

/-- Memory below every listed cell reads as unlisted. -/
theorem byte_of_keys_above (m : List Host.Cell) (a : Nat) (h : ∀ c ∈ m, a < c.1) : Memory.byte m a = unlistedByte := by
  cases m with
  | nil => rfl
  | cons c m =>
    have hc : a < c.1 := h c List.mem_cons_self
    simp [Memory.byte, hc, Nat.ne_of_lt hc]

theorem key_gt_of_cellsAbove (m : List Host.Cell) (lo : Nat) (w : cellsAbove (some lo) m = true) : ∀ c ∈ m, lo < c.1 := by
  induction m generalizing lo with
  | nil => simp
  | cons c m ih =>
    simp only [cellsAbove, Bool.and_eq_true, decide_eq_true_eq] at w
    obtain ⟨⟨hlo, -⟩, hm⟩ := w
    intro d hd
    rcases List.mem_cons.1 hd with rfl | hd
    · exact hlo
    · exact Nat.lt_trans hlo (ih c.1 hm d hd)

/-- Cells changed or dropped in place leave the byte at an address alone whose own cell they leave alone. -/
theorem byte_filterMap (f : Host.Cell → Option Host.Cell) (key : ∀ c d, f c = some d → d.1 = c.1) (a : Nat)
    (keep : ∀ c, c.1 = a → f c = some c) (m : List Host.Cell) (w : Memory.wf m = true) :
    Memory.byte (m.filterMap f) a = Memory.byte m a := by
  unfold Memory.wf at w
  induction m with
  | nil => rfl
  | cons c m ih =>
    obtain ⟨k, b⟩ := c
    have hm : cellsAbove (some k) m = true := by
      simp only [cellsAbove, Bool.and_eq_true] at w; exact w.2
    have rest := ih (cellsAbove_none m k hm)
    rcases Nat.lt_trichotomy a k with hlt | rfl | hgt
    · have above : ∀ d ∈ ((k, b) :: m).filterMap f, a < d.1 := by
        intro d hd
        obtain ⟨c, hc, hcd⟩ := List.mem_filterMap.1 hd
        rw [key c d hcd]
        rcases List.mem_cons.1 hc with rfl | hc
        · exact hlt
        · exact Nat.lt_trans hlt (key_gt_of_cellsAbove m k hm c hc)
      rw [byte_of_keys_above _ a above]
      simp [Memory.byte, hlt, Nat.ne_of_lt hlt]
    · simp [keep (a, b) rfl, Memory.byte]
    · have skip : ∀ x : Byte, ∀ l, Memory.byte ((k, x) :: l) a = Memory.byte l a := fun x l => by
        simp [Memory.byte, Nat.ne_of_gt hgt, Nat.not_lt_of_gt hgt]
      rw [skip, List.filterMap_cons]
      cases hf : f (k, b) with
      | none => exact rest
      | some d =>
        obtain ⟨k', b'⟩ := d
        obtain rfl : k' = k := key _ _ hf
        exact (skip b' _).trans rest

theorem halveHot_early (s : State) (h : s.clk < s.dev.halvedAt + 3600000) : s.halveHot = s := by
  unfold State.halveHot
  exact if_pos h

/-- A cell of the hotness table at `lo` divided by `d`, and any other cell as it stands. -/
def halvedCell (lo d : Nat) (c : Host.Cell) : Option Host.Cell :=
  if lo ≤ c.1 ∧ c.1 < lo + hotBytes ∧ physValid c.1 = true then
    (if c.2.toNat / d = 0 then none else some (c.1, BitVec.ofNat 8 (c.2.toNat / d)))
  else some c

theorem halvedCell_key (lo d : Nat) (c e : Host.Cell) (h : halvedCell lo d c = some e) : e.1 = c.1 := by
  unfold halvedCell at h
  split at h
  · split at h
    · cases h
    · rw [← Option.some.inj h]
  · rw [← Option.some.inj h]

theorem halvedCell_outside (lo d : Nat) (c : Host.Cell) (h : ¬ (lo ≤ c.1 ∧ c.1 < lo + hotBytes)) : halvedCell lo d c = some c :=
  if_neg fun ⟨hlo, hhi, _⟩ => h ⟨hlo, hhi⟩

theorem halveHot_mem (s : State) (h : ¬ s.clk < s.dev.halvedAt + 3600000) (hbase : s.dev.hotbase ≠ 0) :
    s.halveHot.mem = s.mem.filterMap (halvedCell s.dev.hotbase (2 ^ min ((s.clk - s.dev.halvedAt) / 3600000) 8)) := by
  unfold State.halveHot
  simp only [if_neg h, if_neg hbase]
  rfl

theorem halveHot_mem_off (s : State) (hbase : s.dev.hotbase = 0) : s.halveHot.mem = s.mem := by
  unfold State.halveHot
  simp only [if_pos hbase]
  split <;> rfl

theorem halveHot_hotbase (s : State) : s.halveHot.dev.hotbase = s.dev.hotbase := by
  unfold State.halveHot; simp only; split <;> simp

/-- The halving changes no byte outside the table, and none before it is due. -/
theorem byte_halveHot (s : State) (a : Nat) (w : Memory.wf s.mem = true)
    (h : ¬ (s.dev.halvedAt + 3600000 ≤ s.clk ∧ s.dev.hotbase ≤ a ∧ a < s.dev.hotbase + hotBytes)) :
    Memory.byte s.halveHot.mem a = Memory.byte s.mem a := by
  by_cases early : s.clk < s.dev.halvedAt + 3600000
  · rw [halveHot_early s early]
  by_cases hbase : s.dev.hotbase = 0
  · rw [halveHot_mem_off s hbase]
  rw [halveHot_mem s early hbase]
  refine byte_filterMap _ (halvedCell_key _ _) a (fun c hc => halvedCell_outside _ _ c ?_) s.mem w
  subst hc
  exact fun table => h ⟨Nat.not_lt.1 early, table⟩

theorem byte_physWrite_other (s : State) (a v j : Nat) (w : Memory.wf s.mem = true) (h : j ≠ a) :
    Memory.byte (s.physWrite a 1 v).mem j = Memory.byte s.mem j := by
  unfold State.physWrite
  split
  · rw [byte_write _ _ _ _ w, if_neg (by rw [bytesOf_length]; omega)]
  · rfl

theorem physWrite_dev (s : State) (a n v : Nat) : (s.physWrite a n v).dev = s.dev := by
  unfold State.physWrite
  split
  · obtain ⟨b, e⟩ := mended_eq s a n
    simp [e]
  · rfl

theorem dramLine_dev (s : State) (line : Nat) : (s.dramLine line).dev = s.dev := by
  unfold State.dramLine
  dsimp only
  split
  · rw [physWrite_dev]
  · rfl

theorem byte_dramLine_other (s : State) (line j : Nat) (w : Memory.wf s.mem = true) (h : j ≠ s.hotAddr (line * 128)) :
    Memory.byte (s.dramLine line).mem j = Memory.byte s.mem j := by
  unfold State.dramLine
  dsimp only
  split
  · exact byte_physWrite_other { s with free := s.free + 1 } _ _ j w h
  · rfl

theorem byte_dramLines_other (ns : List Nat) (s : State) (j : Nat) (w : Memory.wf s.mem = true)
    (h : ∀ n ∈ ns, j ≠ s.hotAddr (n * 128)) : Memory.byte (ns.foldl State.dramLine s).mem j = Memory.byte s.mem j := by
  induction ns generalizing s with
  | nil => rfl
  | cons n ns ih =>
    have later : ∀ m ∈ ns, j ≠ (s.dramLine n).hotAddr (m * 128) := fun m hm => by
      rw [State.hotAddr, dramLine_dev]; exact h m (List.mem_cons_of_mem _ hm)
    rw [List.foldl_cons, ih _ (wf_dramLine s n w) later, byte_dramLine_other s n j w (h n List.mem_cons_self)]

/-- Counting an access changes no byte but those that count hotness. -/
theorem sameBytes_dramTouch (s : State) (ls : List Loc) (w : Memory.wf s.mem = true) : SameBytes s (s.dramTouch ls) ls := by
  obtain ⟨-, -, -, -, -, -, -, hsram, -⟩ := dramTouch_frame s ls
  refine ⟨fun a => ?_, fun k => by rw [hsram]⟩
  by_cases hbase : s.dev.hotbase = 0
  · exact .inr (by rw [dramTouch_off s ls hbase])
  by_cases hot : hotByte s ls a
  · exact .inl hot
  right
  have lines : ∀ n ∈ ((ls.map s.dramLines).flatten).eraseDups, a ≠ s.halveHot.hotAddr (n * 128) := by
    intro n hn e
    rw [List.mem_eraseDups, List.mem_flatten] at hn
    obtain ⟨_, hmem, hn⟩ := hn
    obtain ⟨l, hl, rfl⟩ := List.mem_map.1 hmem
    rw [State.hotAddr, halveHot_hotbase] at e
    exact hot ⟨hbase, .inl ⟨l, hl, n, hn, e⟩⟩
  rw [State.dramTouch, if_neg hbase, byte_dramLines_other _ _ a (wf_halveHot s w) lines, byte_halveHot s a w]
  rintro ⟨hdue, hlo, hhi⟩
  rw [hotBytes] at hhi
  exact hot ⟨hbase, .inr ⟨hdue, hlo, hhi⟩⟩

/-- Cells written to plain memory, and the access then counted. -/
theorem stored_writeLocs_dramTouch (s : State) (cells : List (Loc × Byte)) (ls : List Loc) (w : Memory.wf s.mem = true)
    (phys : ∀ l ∈ ls, ∃ p, l = .phys p) : Stored s ((s.writeLocs cells).dramTouch ls) cells ls := by
  obtain ⟨hmem, hsram⟩ := stored_writeLocs cells s w
  obtain ⟨hsame, hsram'⟩ := sameBytes_dramTouch (s.writeLocs cells) ls (wf_writeLocs cells s w)
  obtain ⟨-, hdev, -, -, -, -, -, -, hclk, -⟩ := writeLocs_frame cells s
  have hot : ∀ a, hotByte (s.writeLocs cells) ls a → hotByte s ls a := by
    intro a ⟨hbase, hcase⟩
    rw [hdev] at hbase
    rcases hcase with ⟨l, hl, n, hn, e⟩ | due
    · obtain ⟨p, rfl⟩ := phys l hl
      exact ⟨hbase, .inl ⟨_, hl, n, hn, by rw [e, State.hotAddr, hdev]; rfl⟩⟩
    · rw [hdev, hclk] at due
      exact ⟨hbase, .inr due⟩
  refine ⟨fun a => ?_, fun k => (hsram' k).trans (hsram k)⟩
  rcases hsame a with h | h
  · exact .inl (hot a h)
  · rcases hmem a with ⟨hbase, hcase⟩ | e
    · exact .inl ⟨hbase, .inr (hcase.resolve_left (by simp))⟩
    · exact .inr (h.trans e)

/-! The accesses of the host, by what its places are. -/

section
variable {s : State} {v : Bool} {a : Nat} {ls : List Loc}

theorem exec_hostRead {n : Nat} (hls : s.hostPlaces v false a n = some ls) (free : ls.any s.mustWait = false) :
    exec (.hostMemoryAccess (.read v a n)) s = .next { s.dramTouch ls with hostData := ls.map fun l => (s.readLoc l).getD 0 } := by
  simp [exec_hostMemoryAccess, execHostMemoryAccess, hls, free]

theorem exec_hostRead_waits {n : Nat} (hls : s.hostPlaces v false a n = some ls) (held : ls.any s.mustWait = true) :
    exec (.hostMemoryAccess (.read v a n)) s = .next s := by
  simp [exec_hostMemoryAccess, execHostMemoryAccess, hls, held]

theorem exec_hostWrite {bs : List Byte} (hls : s.hostPlaces v true a bs.length = some ls) (free : ls.any s.mustWait = false) :
    exec (.hostMemoryAccess (.write v a bs)) s = .next ((s.writeLocs (ls.zip bs)).dramTouch ls) := by
  simp [exec_hostMemoryAccess, execHostMemoryAccess, hls, free]

theorem exec_hostWrite_waits {bs : List Byte} (hls : s.hostPlaces v true a bs.length = some ls) (held : ls.any s.mustWait = true) :
    exec (.hostMemoryAccess (.write v a bs)) s = .next s := by
  simp [exec_hostMemoryAccess, execHostMemoryAccess, hls, held]

/-- A write by the host stores its bytes, counts its access and changes nothing of the running context. -/
theorem exec_hostWrite_stores {bs : List Byte} {l : Nat → Loc}
    (reached : ∀ i, i < bs.length → (if v then s.reachDev else reachPhys) true (a + i) = .at_ (l i))
    (free : ∀ i, i < bs.length → s.mustWait (l i) = false) (w : Memory.wf s.mem = true) :
    ∃ t, exec (.hostMemoryAccess (.write v a bs)) s = .next t
      ∧ Stored s t (((List.range bs.length).map l).zip bs) ((List.range bs.length).map l) ∧ t.run = s.run
      ∧ (s.dev.hotbase = 0 → t.dev = s.dev) := by
  have phys : ∀ x ∈ (List.range bs.length).map l, ∃ p, x = .phys p := by
    intro x hx
    obtain ⟨i, hi, rfl⟩ := List.mem_map.1 hx
    exact hostReach_write s v (a + i) (reached i (List.mem_range.1 hi))
  obtain ⟨hrun, hdev, -⟩ := writeLocs_frame (((List.range bs.length).map l).zip bs) s
  refine ⟨_, exec_hostWrite (hostPlaces_of_reached s v a true _ l reached) (any_mustWait_false s _ l free),
    stored_writeLocs_dramTouch s _ _ w phys, ?_, fun off => ?_⟩
  · exact (dramTouch_frame _ _).1.trans hrun
  · rw [dramTouch_off _ _ (by rw [hdev, off]), hdev]
end

/-! The statement. -/

/-- Settles O53, clause by clause: what each write keeps, what each read gives, how a path's access goes by its mode, and the host's
accesses, whose bytes are stored because a page that may be written is plain memory and counting an access changes hotness bytes alone. -/
theorem controlRegistersAndHostAccesses : Obligations.ControlRegistersAndHostAccesses := by
  unfold Obligations.ControlRegistersAndHostAccesses
  refine ⟨⟨?device, ?core, ?cluster, ?clearedByRead, ?coreRead, ?pathTable, ?tileTable, ?path⟩, ?host⟩
  case device =>
    intro s n v w lo
    have own {off : Nat} {d : Device} (hd : writeDevice s.dev off v.toNat = d) (h : off < 0x800 ∨ 0xC00 ≤ off := by omega)
        (hot : off ≠ 0x358 := by omega) : w off d := by
      subst hd; exact exec_registerWrite_dev s n off v h hot
    exact ⟨own (writeDevice_tqbase _ v), own (writeDevice_tqctl _ v), own (writeDevice_fgbase _ v), own (writeDevice_rmapbase _ v),
      own (writeDevice_migctl _ v), own (writeDevice_poolh _ v), own (writeDevice_pooll _ v), own (writeDevice_tvec _ v),
      own (writeDevice_dumpadr _ v), own (writeDevice_dumplen _ v), own (writeDevice_rasctl _ v), own (writeDevice_raslog _ v),
      own (writeDevice_attadr _ v),
      fun off h _ hoff => own (writeDevice_none off s.dev _ h hoff) (.inl h) (by rintro rfl; simp at hoff),
      exec_registerWrite_hotbase s n v⟩
  case core =>
    intro s n v hn w k
    have own {off : Nat} {c : Core} (hc : writeCore k s.clk off v.toNat = c) (h : off ≠ 0x400 := by omega) : w off c := by
      subst hc; exact exec_registerWrite_core s n off v hn h
    obtain ⟨hact, hen, hfrz, hcnt, hhit⟩ := writeCore_nevctl k s.clk v
    refine ⟨own (writeCore_wlim k _ v), own (writeCore_smpBase k _ v), own (writeCore_smpRp k _ v), own (writeCore_trBase k _ v),
      fun c hc => ⟨own (writeCore_nevCnt k _ c v hc), own (writeCore_nevThr k _ c v hc)⟩, _, exec_registerWrite_nevctl s n v hn, ?_⟩
    rw [State.setNumeric_core_same]
    exact ⟨hact, hen, hfrz, hcnt, hhit, s.setNumeric_mem n _, s.setNumeric_run n _⟩
  case cluster =>
    intro s n i v hn hi w k
    have own {off : Nat} {c : Cluster} (hc : writeCluster k off v = c) : w off c := by
      subst hc; exact exec_registerWrite_cluster s n off v hn
    exact ⟨own (writeCluster_dbgPath k v), own (writeCluster_watchAdr k i v hi), own (writeCluster_watchCtl k i v hi),
      own (writeCluster_breakAdr k i v hi), own (writeCluster_breakCtl k i v hi)⟩
  case clearedByRead => exact fun s => ⟨exec_migstatRead s, exec_rasceRead s, exec_rasueRead s⟩
  case coreRead =>
    intro s n off hn h g h820 h91C
    rw [exec_registerRead_core s n off hn h820 h91C, corePageWord_registers s n off h g]
  case pathTable =>
    intro s n w k hn hw hk
    rw [exec_registerRead_core s n _ hn (by omega) (by omega), corePageWord_pathTable s n w k hw hk, wordOf]
  case tileTable =>
    intro s n e k t hn he hk ht
    rw [exec_registerRead_tiles s n _ hn (by omega), clusterWord_tile s n e k t he hk ht, wordOf]
  case path =>
    intro s pid n off v p page hp hmay
    refine ⟨fun user => ⟨fun dest => exec_pathRead_user hp hmay user dest page n off, exec_pathWrite_user hp hmay user page n off v⟩, fun sys => ?_⟩
    have write (off : Nat) : exec (.hostMemoryAccess (.pathWrite pid .dev n off v)) s = writeDevicePage off v.toNat s :=
      exec_pathWrite_dev hp hmay sys n off v
    refine ⟨fun dest t ht => exec_pathRead_system hp hmay sys ht dest, fun k hk => ⟨?_, ?_, fun resume => ?_⟩, ?_, ?_, fun hoff => ?_⟩
    · rw [write, writeDevicePage_cqdesc s k v hk]
    · rw [write, writeDevicePage_cqnot s k v hk]
    · rw [write, writeDevicePage_cqstat s k v hk resume]
    · rw [write, writeDevicePage_ptroot]
    · rw [write, writeDevicePage_tlbinv]
    · simp only [List.mem_cons, List.not_mem_nil, or_false] at hoff
      rw [write, writeDevicePage_plain s off v (by omega) (by omega) (by omega) (by omega)]
  case host =>
    intro s v a f
    refine ⟨fun n l reached => ⟨fun free => ?_, fun held => ?_⟩, fun bs l reached => ⟨fun free w => ?_, fun held => ?_⟩, fun i valid => ?_⟩
    · rw [exec_hostRead (hostPlaces_of_reached s v a false n l reached) (any_mustWait_false s n l free), List.map_map]
      rfl
    · exact exec_hostRead_waits (hostPlaces_of_reached s v a false n l reached) (any_mustWait_true s n l held)
    · exact exec_hostWrite_stores reached free w
    · exact exec_hostWrite_waits (hostPlaces_of_reached s v a true _ l reached) (any_mustWait_true s _ l held)
    · exact ⟨if_pos valid, rfl⟩

end Sys2Proof.Machine
end

section
/-! PROOF. The words of instructions and their decoding, in both directions (R10 to R30, R183, R184): a word that decodes is
  the word
of what it decodes to, and the word of a well-formed instruction decodes to it. -/

namespace Sys2Proof

/-! Fields of a word: a word of 32 bits is the sum of the fields into which any layout cuts it. -/

theorem fld_mod (w lo n : Nat) : fld w lo n % 2 ^ n = fld w lo n := Nat.mod_mod _ _

theorem fld_lt (w lo n : Nat) : fld w lo n < 2 ^ n := Nat.mod_lt _ (Nat.two_pow_pos n)

theorem fld_add (w lo m n : Nat) : fld w lo (m + n) = fld w lo m + 2 ^ m * fld w (lo + m) n := by
  simp only [fld, Nat.pow_add, Nat.mod_mul, Nat.div_div_eq_div_mul]

/-- A field has a value when its two parts have the parts of that value. -/
theorem fld_eq_iff (m n : Nat) {w lo k c : Nat} (hk : m + n = k) :
    fld w lo k = c ↔ fld w lo m = c % 2 ^ m ∧ fld w (lo + m) n = c / 2 ^ m := by
  have low := fld_lt w lo m
  rw [← hk, fld_add]
  constructor
  · rintro rfl
    exact ⟨by rw [Nat.add_mul_mod_self_left, fld_mod],
      by rw [Nat.add_mul_div_left _ _ (Nat.two_pow_pos m), Nat.div_eq_of_lt low, Nat.zero_add]⟩
  · rintro ⟨h, h'⟩
    rw [h, h', Nat.mod_add_div]

/-- The fields of a word from bit `lo` upwards, of the widths given, put together again. -/
def cut (w : Nat) : Nat → List Nat → Nat
  | _, [] => 0
  | lo, n :: ns => fld w lo n + 2 ^ n * cut w (lo + n) ns

theorem fld_eq_cut (w lo : Nat) (ns : List Nat) : fld w lo ns.sum = cut w lo ns := by
  induction ns generalizing lo with
  | nil => simp [cut, fld, Nat.mod_one]
  | cons n ns ih => rw [List.sum_cons, fld_add, ih, cut]

/-- A word of 32 bits is what any layout of 32 bits makes of its fields. -/
theorem word_eq_cut {w : Nat} (hw : w < 2 ^ 32) (ns : List Nat) (h : ns.sum = 32) : w = cut w 0 ns := by
  rw [← fld_eq_cut, h, fld, Nat.pow_zero, Nat.div_one, Nat.mod_eq_of_lt hw]

theorem toNat_ofNat_fld (w lo n : Nat) : (BitVec.ofNat n (fld w lo n)).toNat = fld w lo n := by
  rw [BitVec.toNat_ofNat, fld_mod]

theorem toNat_flagOf_fld (w lo : Nat) : (flagOf (fld w lo 1)).toNat = fld w lo 1 := by
  have := fld_lt w lo 1
  obtain h | h : fld w lo 1 = 0 ∨ fld w lo 1 = 1 := by omega
  all_goals rw [h]; rfl

@[simp] theorem flagOf_toNat (b : Bool) : flagOf b.toNat = b := by cases b <;> rfl

/-! Codes that name a value are that value's code. -/

theorem Space.code_of_ofCode {n : Nat} {q : Space} (h : Space.ofCode n = some q) : q.code = n := by
  unfold Space.ofCode at h; split at h <;> cases h <;> rfl
theorem MemWidth.code_of_ofCode {n : Nat} {q : MemWidth} (h : MemWidth.ofCode n = some q) : q.code = n := by
  unfold MemWidth.ofCode at h; split at h <;> cases h <;> rfl
theorem CmpCond.code_of_ofCode {n : Nat} {q : CmpCond} (h : CmpCond.ofCode n = some q) : q.code = n := by
  unfold CmpCond.ofCode at h; split at h <;> cases h <;> rfl
theorem RedOp.code_of_ofCode {n : Nat} {q : RedOp} (h : RedOp.ofCode n = some q) : q.code = n := by
  unfold RedOp.ofCode at h; split at h <;> cases h <;> rfl
theorem ElemTy.code_of_ofCode {n : Nat} {q : ElemTy} (h : ElemTy.ofCode n = some q) : q.code = n := by
  unfold ElemTy.ofCode at h; split at h <;> cases h <;> rfl
theorem RepayTy.code_of_ofCode {n : Nat} {q : RepayTy} (h : RepayTy.ofCode n = some q) : q.code = n := by
  unfold RepayTy.ofCode at h; split at h <;> cases h <;> rfl
theorem CmpMode.code_of_ofCode {n : Nat} {q : CmpMode} (h : CmpMode.ofCode n = some q) : q.code = n := by
  unfold CmpMode.ofCode at h; split at h <;> cases h <;> rfl
theorem NbrSel.code_of_ofCode {n : Nat} {q : NbrSel} (h : NbrSel.ofCode n = some q) : q.code = n := by
  unfold NbrSel.ofCode at h; split at h <;> cases h <;> rfl
theorem MsclMode.code_of_ofCode {n : Nat} {q : MsclMode} (h : MsclMode.ofCode n = some q) : q.code = n := by
  unfold MsclMode.ofCode at h; split at h <;> cases h <;> rfl
theorem Scope.code_of_ofCode {n : Nat} {q : Scope} (h : Scope.ofCode n = some q) : q.code = n := by
  unfold Scope.ofCode at h; split at h <;> cases h <;> rfl
theorem BrdCond.code_of_ofCode {n : Nat} {q : BrdCond} (h : BrdCond.ofCode n = some q) : q.code = n := by
  unfold BrdCond.ofCode at h; split at h <;> cases h <;> rfl
theorem Rnd.code_of_ofCode {n : Nat} {q : Rnd} (h : Rnd.ofCode n = some q) : q.code = n := by
  unfold Rnd.ofCode at h; split at h <;> cases h <;> rfl

/-! The decoders (R11, R12, R184). -/

theorem accepted_eq_ok {α : Type} {legal : α → Bool} {p : Option α} {i : α} : accepted legal p = .ok i ↔ i ∈ p ∧ legal i = true
  := by
  cases p with
  | none => simp [accepted]
  | some j =>
    by_cases h : legal j = true
    · simp only [accepted, if_pos h, Except.ok.injEq, Option.mem_some_iff]
      exact ⟨fun e => ⟨e, e ▸ h⟩, And.left⟩
    · simp only [accepted, if_neg h, reduceCtorEq, Option.mem_some_iff, false_iff]
      rintro ⟨rfl, hl⟩
      exact h hl

end Sys2Proof
end

section
/-! PROOF. A word that decodes is the word of the instruction it decodes to: no bit of it is ignored (R11, R12, R18, R184). -/

namespace Sys2Proof

open Machine

/-- `w` is the word of `i`, an instruction, a hint, a stream word or a chunk word. -/
def WordOf (w : Nat) (i : Instr) : Prop := encodeWord i = w ∧ isEvent i = false

/-! The rows of a major are tried in turn: what holds of every row's instruction holds of what the major parses. -/

section
variable {α : Type} {P : α → Prop}

theorem forall_mem_none : ∀ i ∈ (none : Option α), P i := nofun

theorem forall_mem_some {a : α} (h : P a) : ∀ i ∈ some a, P i := by
  rintro _ ⟨⟩; exact h

theorem forall_mem_ite {c : Prop} [Decidable c] {p q : Option α} (hq : ∀ i ∈ q, P i) (hp : c → ∀ i ∈ p, P i) :
    ∀ i ∈ (if c then p else q), P i := by
  split
  · exact hp ‹c›
  · exact hq

theorem forall_mem_row {c : Prop} [Decidable c] {a : α} {q : Option α} (hq : ∀ i ∈ q, P i) (ha : c → P a) :
    ∀ i ∈ (if c then some a else q), P i :=
  forall_mem_ite hq fun h => forall_mem_some (ha h)

theorem forall_mem_bind {β : Type} {ofCode : Nat → Option β} {code : β → Nat} (hcode : ∀ {n q}, ofCode n = some q → code q = n)
    {n : Nat} {f : β → Option α} (h : ∀ q, code q = n → ∀ i ∈ f q, P i) : ∀ i ∈ (ofCode n).bind f, P i := by
  intro i hi
  obtain ⟨q, hq, hf⟩ := Option.bind_eq_some_iff.mp hi
  exact h q (hcode hq) i hf

end

section
variable {w : Nat}

theorem parseSop_sound (hw : w < 2 ^ 32) (major : fld w 26 6 = 1) : ∀ i ∈ parseSop w, WordOf w i := by
  have layout1 := word_eq_cut hw [5, 7, 7, 7, 6] rfl
  have layout2 := word_eq_cut hw [12, 7, 7, 6] rfl
  have layout3 := word_eq_cut hw [5, 7, 7, 3, 4, 6] rfl
  have layout4 := word_eq_cut hw [3, 2, 7, 7, 7, 6] rfl
  simp only [cut, Nat.reduceAdd] at layout1 layout2 layout3 layout4
  unfold parseSop
  iterate 25 refine forall_mem_row ?_ fun h => ⟨?_, rfl⟩
  refine forall_mem_ite ?_ fun h => forall_mem_bind CmpCond.code_of_ofCode fun c hc => forall_mem_some ⟨?_, rfl⟩
  iterate 3 refine forall_mem_row ?_ fun h => ⟨?_, rfl⟩
  · exact forall_mem_none
  all_goals simp only [encodeWord, enc3, enc2, enc4, toNat_ofNat_fld]; omega

theorem parseSopi_sound (hw : w < 2 ^ 32) (major : fld w 26 6 = 2) : ∀ i ∈ parseSopi w, WordOf w i := by
  have layout := word_eq_cut hw [12, 1, 1, 5, 7, 6] rfl
  simp only [cut, Nat.reduceAdd] at layout
  unfold parseSopi
  iterate 15 refine forall_mem_row ?_ fun h => ⟨?_, rfl⟩
  · exact forall_mem_none
  all_goals simp only [encodeWord, enc3, toNat_ofNat_fld, toNat_flagOf_fld]; omega

theorem parseSmovi_sound (hw : w < 2 ^ 32) (major : fld w 26 6 = 3) : ∀ i ∈ parseSmovi w, WordOf w i := by
  have layout := word_eq_cut hw [20, 6, 6] rfl
  simp only [cut, Nat.reduceAdd] at layout
  unfold parseSmovi
  refine forall_mem_some ⟨?_, rfl⟩
  simp only [encodeWord, enc2, toNat_ofNat_fld]
  omega

theorem parseSsr_sound (hw : w < 2 ^ 32) (major : fld w 26 6 = 4) : ∀ i ∈ parseSsr w, WordOf w i := by
  have layout1 := word_eq_cut hw [12, 7, 7, 6] rfl
  have layout2 := word_eq_cut hw [2, 17, 7, 6] rfl
  simp only [cut, Nat.reduceAdd] at layout1 layout2
  unfold parseSsr
  iterate 3 refine forall_mem_row ?_ fun h => ⟨?_, rfl⟩
  · exact forall_mem_none
  all_goals simp only [encodeWord, enc2, toNat_ofNat_fld]; omega

theorem parseBr_sound (hw : w < 2 ^ 32) (major : fld w 26 6 = 5) : ∀ i ∈ parseBr w, WordOf w i := by
  have layout := word_eq_cut hw [22, 3, 1, 6] rfl
  simp only [cut, Nat.reduceAdd] at layout
  unfold parseBr
  iterate 2 refine forall_mem_row ?_ fun h => ⟨?_, rfl⟩
  · exact forall_mem_none
  all_goals simp only [encodeWord, enc2, toNat_ofNat_fld]; omega

theorem parseJmp_sound (hw : w < 2 ^ 32) (major : fld w 26 6 = 6) : ∀ i ∈ parseJmp w, WordOf w i := by
  have layout1 := word_eq_cut hw [23, 3, 6] rfl
  have layout2 := word_eq_cut hw [12, 7, 7, 6] rfl
  have layout3 := word_eq_cut hw [26, 6] rfl
  simp only [cut, Nat.reduceAdd] at layout1 layout2 layout3
  unfold parseJmp
  iterate 5 refine forall_mem_row ?_ fun h => ⟨?_, rfl⟩
  · exact forall_mem_none
  all_goals simp only [encodeWord, enc1, enc0, toNat_ofNat_fld]; omega

theorem parseVbr_sound (hw : w < 2 ^ 32) (major : fld w 26 6 = 7) : ∀ i ∈ parseVbr w, WordOf w i := by
  have layout1 := word_eq_cut hw [10, 10, 3, 1, 2, 6] rfl
  have layout2 := word_eq_cut hw [20, 3, 1, 2, 6] rfl
  have layout3 := word_eq_cut hw [26, 6] rfl
  simp only [cut, Nat.reduceAdd] at layout1 layout2 layout3
  unfold parseVbr
  iterate 4 refine forall_mem_row ?_ fun h => ⟨?_, rfl⟩
  · exact forall_mem_none
  all_goals simp only [encodeWord, enc4, enc2, enc0, toNat_ofNat_fld, toNat_flagOf_fld]; omega

theorem parsePath_sound (hw : w < 2 ^ 32) (major : fld w 26 6 = 8) : ∀ i ∈ parsePath w, WordOf w i := by
  have layout1 := word_eq_cut hw [26, 6] rfl
  have layout2 := word_eq_cut hw [6, 3, 7, 7, 3, 6] rfl
  have layout3 := word_eq_cut hw [4, 2, 3, 7, 7, 3, 6] rfl
  simp only [cut, Nat.reduceAdd] at layout1 layout2 layout3
  unfold parsePath
  iterate 4 refine forall_mem_row ?_ fun h => ⟨?_, rfl⟩
  refine forall_mem_ite ?_ fun h => forall_mem_bind RedOp.code_of_ofCode fun r hr => forall_mem_bind RepayTy.code_of_ofCode fun
    t ht => forall_mem_some ⟨?_, rfl⟩
  iterate 2 refine forall_mem_row ?_ fun h => ⟨?_, rfl⟩
  · exact forall_mem_none
  all_goals simp only [encodeWord, enc0, enc4, enc2, toNat_ofNat_fld]; omega

theorem parseSync_sound (hw : w < 2 ^ 32) (major : fld w 26 6 = 9) : ∀ i ∈ parseSync w, WordOf w i := by
  have layout1 := word_eq_cut hw [4, 22, 6] rfl
  have layout2 := word_eq_cut hw [2, 4, 4, 6, 6, 4, 6] rfl
  have layout3 := word_eq_cut hw [26, 6] rfl
  have layout4 := word_eq_cut hw [16, 10, 6] rfl
  simp only [cut, Nat.reduceAdd] at layout1 layout2 layout3 layout4
  unfold parseSync
  iterate 9 refine forall_mem_row ?_ fun h => ⟨?_, rfl⟩
  · exact forall_mem_none
  all_goals simp only [encodeWord, enc1, enc4, enc0, toNat_ofNat_fld]; omega

theorem parseSys_sound (hw : w < 2 ^ 32) (major : fld w 26 6 = 10) : ∀ i ∈ parseSys w, WordOf w i := by
  have layout1 := word_eq_cut hw [8, 18, 6] rfl
  have layout2 := word_eq_cut hw [26, 6] rfl
  simp only [cut, Nat.reduceAdd] at layout1 layout2
  unfold parseSys
  iterate 4 refine forall_mem_row ?_ fun h => ⟨?_, rfl⟩
  · exact forall_mem_none
  all_goals simp only [encodeWord, enc1, enc0, toNat_ofNat_fld]; omega

theorem parseReg_sound (hw : w < 2 ^ 32) (major : fld w 26 6 = 11) : ∀ i ∈ parseReg w, WordOf w i := by
  have layout1 := word_eq_cut hw [5, 16, 3, 1, 1, 6] rfl
  have layout2 := word_eq_cut hw [5, 21, 6] rfl
  simp only [cut, Nat.reduceAdd] at layout1 layout2
  unfold parseReg
  iterate 2 refine forall_mem_row ?_ fun h => ⟨?_, rfl⟩
  · exact forall_mem_none
  all_goals simp only [encodeWord, enc3, enc1, toNat_ofNat_fld, toNat_flagOf_fld]; omega

theorem parseVop_sound (hw : w < 2 ^ 32) (major : fld w 26 6 = 16) : ∀ i ∈ parseVop w, WordOf w i := by
  have layout1 := word_eq_cut hw [5, 7, 7, 7, 6] rfl
  have layout2 := word_eq_cut hw [12, 7, 7, 6] rfl
  simp only [cut, Nat.reduceAdd] at layout1 layout2
  unfold parseVop
  iterate 25 refine forall_mem_row ?_ fun h => ⟨?_, rfl⟩
  · exact forall_mem_none
  all_goals simp only [encodeWord, enc3, enc2, toNat_ofNat_fld]; omega

theorem parseVopi_sound (hw : w < 2 ^ 32) (major : fld w 26 6 = 17) : ∀ i ∈ parseVopi w, WordOf w i := by
  have layout := word_eq_cut hw [8, 4, 7, 7, 6] rfl
  simp only [cut, Nat.reduceAdd] at layout
  unfold parseVopi
  iterate 15 refine forall_mem_row ?_ fun h => ⟨?_, rfl⟩
  · exact forall_mem_none
  all_goals simp only [encodeWord, enc3, toNat_ofNat_fld]; omega

theorem parseVfop_sound (hw : w < 2 ^ 32) (major : fld w 26 6 = 18) : ∀ i ∈ parseVfop w, WordOf w i := by
  have layout1 := word_eq_cut hw [5, 7, 7, 7, 6] rfl
  have layout2 := word_eq_cut hw [12, 7, 7, 6] rfl
  simp only [cut, Nat.reduceAdd] at layout1 layout2
  unfold parseVfop
  iterate 9 refine forall_mem_row ?_ fun h => ⟨?_, rfl⟩
  · exact forall_mem_none
  all_goals simp only [encodeWord, enc3, enc2, toNat_ofNat_fld]; omega

theorem parseVfma_sound (hw : w < 2 ^ 32) (major : fld w 26 6 = 19) : ∀ i ∈ parseVfma w, WordOf w i := by
  have layout := word_eq_cut hw [5, 7, 7, 7, 6] rfl
  simp only [cut, Nat.reduceAdd] at layout
  unfold parseVfma
  iterate 2 refine forall_mem_row ?_ fun h => ⟨?_, rfl⟩
  · exact forall_mem_none
  all_goals simp only [encodeWord, enc3, toNat_ofNat_fld]; omega

theorem parseVsfu_sound (hw : w < 2 ^ 32) (major : fld w 26 6 = 20) : ∀ i ∈ parseVsfu w, WordOf w i := by
  have layout1 := word_eq_cut hw [12, 7, 7, 6] rfl
  have layout2 := word_eq_cut hw [5, 7, 7, 7, 6] rfl
  simp only [cut, Nat.reduceAdd] at layout1 layout2
  unfold parseVsfu
  iterate 9 refine forall_mem_row ?_ fun h => ⟨?_, rfl⟩
  · exact forall_mem_none
  all_goals simp only [encodeWord, enc2, enc3, toNat_ofNat_fld]; omega

theorem parseVcvt_sound (hw : w < 2 ^ 32) (major : fld w 26 6 = 21) : ∀ i ∈ parseVcvt w, WordOf w i := by
  have layout1 := word_eq_cut hw [12, 7, 7, 6] rfl
  have layout2 := word_eq_cut hw [8, 4, 7, 7, 6] rfl
  have layout3 := word_eq_cut hw [6, 2, 4, 7, 7, 6] rfl
  simp only [cut, Nat.reduceAdd] at layout1 layout2 layout3
  unfold parseVcvt
  iterate 24 refine forall_mem_row ?_ fun h => ⟨?_, rfl⟩
  · exact forall_mem_none
  all_goals simp only [encodeWord, enc2, enc3, enc4, toNat_ofNat_fld]; omega

theorem parseVxl_sound (hw : w < 2 ^ 32) (major : fld w 26 6 = 22) : ∀ i ∈ parseVxl w, WordOf w i := by
  have layout1 := word_eq_cut hw [5, 7, 7, 7, 6] rfl
  have layout2 := word_eq_cut hw [12, 7, 7, 6] rfl
  have layout3 := word_eq_cut hw [6, 3, 3, 7, 7, 6] rfl
  have layout4 := word_eq_cut hw [5, 1, 3, 3, 7, 7, 6] rfl
  have layout5 := word_eq_cut hw [5, 3, 2, 2, 7, 7, 6] rfl
  have layout6 := word_eq_cut hw [5, 3, 4, 7, 7, 6] rfl
  have layout7 := word_eq_cut hw [5, 3, 11, 7, 6] rfl
  simp only [cut, Nat.reduceAdd] at layout1 layout2 layout3 layout4 layout5 layout6 layout7
  unfold parseVxl
  iterate 4 refine forall_mem_row ?_ fun h => ⟨?_, rfl⟩
  refine forall_mem_ite ?_ fun h => forall_mem_bind RedOp.code_of_ofCode fun o ho => forall_mem_bind ElemTy.code_of_ofCode fun
    t ht => forall_mem_some ⟨?_, rfl⟩
  refine forall_mem_ite ?_ fun h => forall_mem_bind ElemTy.code_of_ofCode fun t ht => forall_mem_some ⟨?_, rfl⟩
  refine forall_mem_ite ?_ fun h => forall_mem_bind RedOp.code_of_ofCode fun o ho => forall_mem_bind ElemTy.code_of_ofCode fun
    t ht => forall_mem_some ⟨?_, rfl⟩
  refine forall_mem_ite ?_ fun h => forall_mem_bind NbrSel.code_of_ofCode fun s hs => forall_mem_some ⟨?_, rfl⟩
  iterate 4 refine forall_mem_row ?_ fun h => ⟨?_, rfl⟩
  · exact forall_mem_none
  all_goals simp only [encodeWord, enc3, enc2, enc4, enc5, toNat_ofNat_fld, toNat_flagOf_fld]; omega

theorem parseVcmp_sound (hw : w < 2 ^ 32) (major : fld w 26 6 = 23) : ∀ i ∈ parseVcmp w, WordOf w i := by
  have layout := word_eq_cut hw [2, 3, 7, 7, 4, 3, 6] rfl
  simp only [cut, Nat.reduceAdd] at layout
  unfold parseVcmp
  iterate 3
    refine forall_mem_ite ?_ fun h => forall_mem_bind CmpCond.code_of_ofCode fun c hc => forall_mem_bind
      CmpMode.code_of_ofCode fun m hm => forall_mem_some ⟨?_, rfl⟩
  · exact forall_mem_none
  all_goals simp only [encodeWord, enc5, toNat_ofNat_fld]; omega

theorem parseKop_sound (hw : w < 2 ^ 32) (major : fld w 26 6 = 24) : ∀ i ∈ parseKop w, WordOf w i := by
  have layout1 := word_eq_cut hw [10, 1, 1, 3, 3, 3, 5, 6] rfl
  have layout2 := word_eq_cut hw [10, 1, 4, 3, 3, 5, 6] rfl
  have layout3 := word_eq_cut hw [3, 7, 8, 3, 5, 6] rfl
  have layout4 := word_eq_cut hw [3, 7, 5, 3, 8, 6] rfl
  have layout5 := word_eq_cut hw [15, 3, 3, 5, 6] rfl
  simp only [cut, Nat.reduceAdd] at layout1 layout2 layout3 layout4 layout5
  unfold parseKop
  iterate 11 refine forall_mem_row ?_ fun h => ⟨?_, rfl⟩
  · exact forall_mem_none
  all_goals simp only [encodeWord, enc4, enc3, enc2, toNat_ofNat_fld, toNat_flagOf_fld]; omega

theorem parseVnf_sound (hw : w < 2 ^ 32) (major : fld w 26 6 = 25) : ∀ i ∈ parseVnf w, WordOf w i := by
  have layout := word_eq_cut hw [2, 3, 7, 7, 7, 6] rfl
  simp only [cut, Nat.reduceAdd] at layout
  unfold parseVnf
  iterate 3 refine forall_mem_row ?_ fun h => ⟨?_, rfl⟩
  · exact forall_mem_none
  all_goals simp only [encodeWord, enc4, toNat_ofNat_fld]; omega

theorem parseVsel_sound (hw : w < 2 ^ 32) (major : fld w 26 6 = 26) : ∀ i ∈ parseVsel w, WordOf w i := by
  have layout1 := word_eq_cut hw [3, 2, 7, 7, 7, 6] rfl
  have layout2 := word_eq_cut hw [12, 7, 7, 6] rfl
  have layout3 := word_eq_cut hw [5, 14, 7, 6] rfl
  have layout4 := word_eq_cut hw [5, 12, 2, 7, 6] rfl
  simp only [cut, Nat.reduceAdd] at layout1 layout2 layout3 layout4
  unfold parseVsel
  iterate 5 refine forall_mem_row ?_ fun h => ⟨?_, rfl⟩
  · exact forall_mem_none
  all_goals simp only [encodeWord, enc4, enc2, toNat_ofNat_fld]; omega

theorem parseVld_sound (hw : w < 2 ^ 32) (major : fld w 26 6 = 32) : ∀ i ∈ parseVld w, WordOf w i := by
  have layout := word_eq_cut hw [2, 3, 7, 7, 7, 6] rfl
  simp only [cut, Nat.reduceAdd] at layout
  unfold parseVld
  refine forall_mem_bind MemWidth.code_of_ofCode fun n hn => forall_mem_bind Space.code_of_ofCode fun p hp => forall_mem_some
    ⟨?_, rfl⟩
  simp only [encodeWord, enc5, toNat_ofNat_fld]
  omega

theorem parseVst_sound (hw : w < 2 ^ 32) (major : fld w 26 6 = 33) : ∀ i ∈ parseVst w, WordOf w i := by
  have layout := word_eq_cut hw [2, 3, 7, 7, 7, 6] rfl
  simp only [cut, Nat.reduceAdd] at layout
  unfold parseVst
  refine forall_mem_bind MemWidth.code_of_ofCode fun n hn => forall_mem_bind Space.code_of_ofCode fun p hp => forall_mem_some
    ⟨?_, rfl⟩
  simp only [encodeWord, enc5, toNat_ofNat_fld]
  omega

theorem parseSmem_sound (hw : w < 2 ^ 32) (major : fld w 26 6 = 34) : ∀ i ∈ parseSmem w, WordOf w i := by
  have layout := word_eq_cut hw [2, 3, 7, 1, 6, 7, 6] rfl
  simp only [cut, Nat.reduceAdd] at layout
  unfold parseSmem
  iterate 2
    refine forall_mem_ite ?_ fun h => forall_mem_bind MemWidth.code_of_ofCode fun n hn => forall_mem_bind
      Space.code_of_ofCode fun p hp => forall_mem_some ⟨?_, rfl⟩
  · exact forall_mem_none
  all_goals simp only [encodeWord, enc5, toNat_ofNat_fld]; omega

theorem parseVatom_sound (hw : w < 2 ^ 32) (major : fld w 26 6 = 35) : ∀ i ∈ parseVatom w, WordOf w i := by
  have layout := word_eq_cut hw [1, 4, 7, 7, 7, 6] rfl
  simp only [cut, Nat.reduceAdd] at layout
  unfold parseVatom
  iterate 12 refine forall_mem_row ?_ fun h => ⟨?_, rfl⟩
  · exact forall_mem_none
  all_goals simp only [encodeWord, enc4, toNat_ofNat_fld, toNat_flagOf_fld]; omega

theorem parseSatom_sound (hw : w < 2 ^ 32) (major : fld w 26 6 = 36) : ∀ i ∈ parseSatom w, WordOf w i := by
  have layout := word_eq_cut hw [1, 4, 7, 7, 7, 6] rfl
  simp only [cut, Nat.reduceAdd] at layout
  unfold parseSatom
  iterate 12 refine forall_mem_row ?_ fun h => ⟨?_, rfl⟩
  · exact forall_mem_none
  all_goals simp only [encodeWord, enc4, toNat_ofNat_fld, toNat_flagOf_fld]; omega

theorem parseFence_sound (hw : w < 2 ^ 32) (major : fld w 26 6 = 37) : ∀ i ∈ parseFence w, WordOf w i := by
  have layout1 := word_eq_cut hw [13, 3, 4, 4, 2, 6] rfl
  have layout2 := word_eq_cut hw [13, 3, 10, 6] rfl
  simp only [cut, Nat.reduceAdd] at layout1 layout2
  unfold parseFence
  iterate 3 refine forall_mem_ite ?_ fun h => forall_mem_bind Scope.code_of_ofCode fun c hc => forall_mem_some ⟨?_, rfl⟩
  · exact forall_mem_none
  all_goals simp only [encodeWord, enc3, enc1, toNat_ofNat_fld]; omega

theorem parseQop_sound (hw : w < 2 ^ 32) (major : fld w 26 6 = 38) : ∀ i ∈ parseQop w, WordOf w i := by
  have layout := word_eq_cut hw [10, 7, 3, 3, 1, 2, 6] rfl
  simp only [cut, Nat.reduceAdd] at layout
  unfold parseQop
  iterate 4 refine forall_mem_row ?_ fun h => ⟨?_, rfl⟩
  · exact forall_mem_none
  all_goals simp only [encodeWord, enc4, enc3, toNat_ofNat_fld, toNat_flagOf_fld]; omega

theorem parseVer_sound (hw : w < 2 ^ 32) (major : fld w 26 6 = 39) : ∀ i ∈ parseVer w, WordOf w i := by
  have layout := word_eq_cut hw [11, 7, 7, 1, 6] rfl
  simp only [cut, Nat.reduceAdd] at layout
  unfold parseVer
  iterate 2 refine forall_mem_row ?_ fun h => ⟨?_, rfl⟩
  · exact forall_mem_none
  all_goals simp only [encodeWord, enc2, toNat_ofNat_fld]; omega

theorem parseXput_sound (hw : w < 2 ^ 32) (major : fld w 26 6 = 40) : ∀ i ∈ parseXput w, WordOf w i := by
  have layout := word_eq_cut hw [2, 3, 7, 7, 7, 6] rfl
  simp only [cut, Nat.reduceAdd] at layout
  unfold parseXput
  refine forall_mem_bind MemWidth.code_of_ofCode fun n hn => forall_mem_some ⟨?_, rfl⟩
  simp only [encodeWord, enc5, toNat_ofNat_fld]
  omega

theorem parseCp_sound (hw : w < 2 ^ 32) (major : fld w 26 6 = 41) : ∀ i ∈ parseCp w, WordOf w i := by
  have layout := word_eq_cut hw [3, 7, 7, 7, 2, 6] rfl
  simp only [cut, Nat.reduceAdd] at layout
  unfold parseCp
  iterate 4 refine forall_mem_row ?_ fun h => ⟨?_, rfl⟩
  · exact forall_mem_none
  all_goals simp only [encodeWord, enc3, toNat_ofNat_fld]; omega

theorem parseTile_sound (hw : w < 2 ^ 32) (major : fld w 26 6 = 42) : ∀ i ∈ parseTile w, WordOf w i := by
  have layout1 := word_eq_cut hw [10, 7, 7, 2, 6] rfl
  have layout2 := word_eq_cut hw [17, 7, 2, 6] rfl
  simp only [cut, Nat.reduceAdd] at layout1 layout2
  unfold parseTile
  iterate 3 refine forall_mem_row ?_ fun h => ⟨?_, rfl⟩
  · exact forall_mem_none
  all_goals simp only [encodeWord, enc2, enc1, toNat_ofNat_fld]; omega

theorem parseTex_sound (hw : w < 2 ^ 32) (major : fld w 26 6 = 43) : ∀ i ∈ parseTex w, WordOf w i := by
  have layout := word_eq_cut hw [5, 7, 7, 7, 6] rfl
  simp only [cut, Nat.reduceAdd] at layout
  unfold parseTex
  iterate 2 refine forall_mem_row ?_ fun h => ⟨?_, rfl⟩
  · exact forall_mem_none
  all_goals simp only [encodeWord, enc3, toNat_ofNat_fld]; omega

theorem parseIsect_sound (hw : w < 2 ^ 32) (major : fld w 26 6 = 44) : ∀ i ∈ parseIsect w, WordOf w i := by
  have layout1 := word_eq_cut hw [5, 7, 7, 7, 6] rfl
  have layout2 := word_eq_cut hw [19, 7, 6] rfl
  simp only [cut, Nat.reduceAdd] at layout1 layout2
  unfold parseIsect
  iterate 3 refine forall_mem_row ?_ fun h => ⟨?_, rfl⟩
  · exact forall_mem_none
  all_goals simp only [encodeWord, enc3, enc1, toNat_ofNat_fld]; omega

theorem parseHash_sound (hw : w < 2 ^ 32) (major : fld w 26 6 = 45) : ∀ i ∈ parseHash w, WordOf w i := by
  have layout1 := word_eq_cut hw [12, 7, 7, 6] rfl
  have layout2 := word_eq_cut hw [5, 7, 7, 7, 6] rfl
  simp only [cut, Nat.reduceAdd] at layout1 layout2
  unfold parseHash
  iterate 3 refine forall_mem_row ?_ fun h => ⟨?_, rfl⟩
  · exact forall_mem_none
  all_goals simp only [encodeWord, enc1, enc2, toNat_ofNat_fld]; omega

theorem parseVault_sound (hw : w < 2 ^ 32) (major : fld w 26 6 = 46) : ∀ i ∈ parseVault w, WordOf w i := by
  have layout := word_eq_cut hw [6, 3, 2, 7, 7, 1, 6] rfl
  simp only [cut, Nat.reduceAdd] at layout
  unfold parseVault
  iterate 2 refine forall_mem_row ?_ fun h => ⟨?_, rfl⟩
  · exact forall_mem_none
  all_goals simp only [encodeWord, enc4, toNat_ofNat_fld]; omega

theorem parseMma_sound (hw : w < 2 ^ 32) (major : fld w 26 6 = 48) : ∀ i ∈ parseMma w, WordOf w i.toInstr := by
  have layout := word_eq_cut hw [4, 3, 7, 7, 1, 4, 6] rfl
  simp only [cut, Nat.reduceAdd] at layout
  unfold parseMma
  iterate 8 refine forall_mem_row ?_ fun h => ⟨?_, rfl⟩
  · exact forall_mem_none
  all_goals simp only [StreamOp.toInstr, encodeWord, enc4, toNat_ofNat_fld, toNat_flagOf_fld]; omega

theorem parseMmap_sound (hw : w < 2 ^ 32) (major : fld w 26 6 = 49) : ∀ i ∈ parseMmap w, WordOf w i.toInstr := by
  have layout1 := word_eq_cut hw [4, 9, 8, 3, 2, 6] rfl
  have layout2 := word_eq_cut hw [8, 13, 3, 2, 6] rfl
  have layout3 := word_eq_cut hw [9, 1, 1, 10, 3, 2, 6] rfl
  simp only [cut, Nat.reduceAdd] at layout1 layout2 layout3
  unfold parseMmap
  iterate 3 refine forall_mem_row ?_ fun h => ⟨?_, rfl⟩
  · exact forall_mem_none
  all_goals simp only [StreamOp.toInstr, encodeWord, enc3, enc4, toNat_ofNat_fld, toNat_flagOf_fld]; omega

theorem parseMacc_sound (hw : w < 2 ^ 32) (major : fld w 26 6 = 50) : ∀ i ∈ parseMacc w, WordOf w i.toInstr := by
  have layout1 := word_eq_cut hw [4, 11, 10, 1, 6] rfl
  have layout2 := word_eq_cut hw [10, 2, 7, 3, 3, 1, 6] rfl
  simp only [cut, Nat.reduceAdd] at layout1 layout2
  unfold parseMacc
  refine forall_mem_row ?_ fun h => ⟨?_, rfl⟩
  refine forall_mem_ite ?_ fun h => forall_mem_bind MsclMode.code_of_ofCode fun m hm => forall_mem_some ⟨?_, rfl⟩
  · exact forall_mem_none
  all_goals simp only [StreamOp.toInstr, encodeWord, enc2, enc4, toNat_ofNat_fld]; omega

theorem parseMctl_sound (hw : w < 2 ^ 32) (major : fld w 26 6 = 51) : ∀ i ∈ parseMctl w, WordOf w i.toInstr := by
  have layout1 := word_eq_cut hw [4, 22, 6] rfl
  have layout2 := word_eq_cut hw [21, 2, 3, 6] rfl
  have layout3 := word_eq_cut hw [26, 6] rfl
  have layout4 := word_eq_cut hw [7, 19, 6] rfl
  simp only [cut, Nat.reduceAdd] at layout1 layout2 layout3 layout4
  unfold parseMctl
  iterate 7 refine forall_mem_row ?_ fun h => ⟨?_, rfl⟩
  · exact forall_mem_none
  all_goals simp only [StreamOp.toInstr, encodeWord, enc1, enc2, enc0, toNat_ofNat_fld]; omega

theorem parseHint_sound (hw : w < 2 ^ 32) (major : fld w 26 6 = 63) : ∀ i ∈ parseHint w, WordOf w i := by
  have layout1 := word_eq_cut hw [24, 2, 6] rfl
  have layout2 := word_eq_cut hw [3, 1, 1, 1, 2, 1, 2, 1, 1, 3, 7, 1, 2, 6] rfl
  have layout3 := word_eq_cut hw [16, 4, 3, 1, 2, 6] rfl
  simp only [cut, Nat.reduceAdd] at layout1 layout2 layout3
  unfold parseHint
  refine forall_mem_row ?_ fun h => ⟨?_, rfl⟩
  refine forall_mem_ite ?_ fun h => forall_mem_bind Rnd.code_of_ofCode fun r hr => forall_mem_some ⟨?_, rfl⟩
  refine forall_mem_row ?_ fun h => ⟨?_, rfl⟩
  · exact forall_mem_none
  all_goals simp only [encodeWord, enc1, enc3, toNat_ofNat_fld, toNat_flagOf_fld]; omega

theorem parseChunkSend_sound (hw : w < 2 ^ 32) (major : fld w 28 4 = 1) : ∀ i ∈ parseChunkSend w, WordOf w i.toInstr := by
  have layout := word_eq_cut hw [4, 4, 8, 4, 4, 4, 4] rfl
  simp only [cut, Nat.reduceAdd] at layout
  unfold parseChunkSend
  refine forall_mem_row ?_ fun h => ⟨?_, rfl⟩
  · exact forall_mem_none
  all_goals simp only [ChunkOp.toInstr, encodeWord, enc4, toNat_ofNat_fld]; omega

theorem parseChunkRecv_sound (hw : w < 2 ^ 32) (major : fld w 28 4 = 2) : ∀ i ∈ parseChunkRecv w, WordOf w i.toInstr := by
  have layout := word_eq_cut hw [4, 4, 8, 4, 4, 4, 4] rfl
  simp only [cut, Nat.reduceAdd] at layout
  unfold parseChunkRecv
  refine forall_mem_row ?_ fun h => ⟨?_, rfl⟩
  · exact forall_mem_none
  all_goals simp only [ChunkOp.toInstr, encodeWord, enc4, toNat_ofNat_fld]; omega

theorem parseChunkRed_sound (hw : w < 2 ^ 32) (major : fld w 28 4 = 3) : ∀ i ∈ parseChunkRed w, WordOf w i.toInstr := by
  have layout := word_eq_cut hw [4, 4, 4, 4, 4, 4, 4, 4] rfl
  simp only [cut, Nat.reduceAdd] at layout
  unfold parseChunkRed
  iterate 8 refine forall_mem_row ?_ fun h => ⟨?_, rfl⟩
  · exact forall_mem_none
  all_goals simp only [ChunkOp.toInstr, encodeWord, enc6, toNat_ofNat_fld]; omega

theorem parseChunkCopy_sound (hw : w < 2 ^ 32) (major : fld w 28 4 = 4) : ∀ i ∈ parseChunkCopy w, WordOf w i.toInstr := by
  have layout := word_eq_cut hw [8, 4, 4, 4, 4, 4, 4] rfl
  simp only [cut, Nat.reduceAdd] at layout
  unfold parseChunkCopy
  refine forall_mem_row ?_ fun h => ⟨?_, rfl⟩
  · exact forall_mem_none
  all_goals simp only [ChunkOp.toInstr, encodeWord, enc4, toNat_ofNat_fld]; omega

theorem parseChunkWait_sound (hw : w < 2 ^ 32) (major : fld w 28 4 = 5) : ∀ i ∈ parseChunkWait w, WordOf w i.toInstr := by
  have layout1 := word_eq_cut hw [6, 22, 4] rfl
  have layout2 := word_eq_cut hw [12, 4, 4, 4, 4, 4] rfl
  simp only [cut, Nat.reduceAdd] at layout1 layout2
  unfold parseChunkWait
  iterate 2 refine forall_mem_row ?_ fun h => ⟨?_, rfl⟩
  · exact forall_mem_none
  all_goals simp only [ChunkOp.toInstr, encodeWord, enc1, enc3, toNat_ofNat_fld]; omega

theorem parseChunkSig_sound (hw : w < 2 ^ 32) (major : fld w 28 4 = 6) : ∀ i ∈ parseChunkSig w, WordOf w i.toInstr := by
  have layout := word_eq_cut hw [12, 4, 4, 4, 4, 4] rfl
  simp only [cut, Nat.reduceAdd] at layout
  unfold parseChunkSig
  refine forall_mem_row ?_ fun h => ⟨?_, rfl⟩
  · exact forall_mem_none
  all_goals simp only [ChunkOp.toInstr, encodeWord, enc3, toNat_ofNat_fld]; omega

theorem parseChunkLoop_sound (hw : w < 2 ^ 32) (major : fld w 28 4 = 7) : ∀ i ∈ parseChunkLoop w, WordOf w i.toInstr := by
  have layout := word_eq_cut hw [21, 3, 4, 4] rfl
  simp only [cut, Nat.reduceAdd] at layout
  unfold parseChunkLoop
  refine forall_mem_row ?_ fun h => ⟨?_, rfl⟩
  · exact forall_mem_none
  all_goals simp only [ChunkOp.toInstr, encodeWord, enc2, toNat_ofNat_fld]; omega

theorem parseChunkKick_sound (hw : w < 2 ^ 32) (major : fld w 28 4 = 8) : ∀ i ∈ parseChunkKick w, WordOf w i.toInstr := by
  have layout := word_eq_cut hw [4, 4, 4, 4, 4, 4, 2, 2, 4] rfl
  simp only [cut, Nat.reduceAdd] at layout
  unfold parseChunkKick
  refine forall_mem_row ?_ fun h => ⟨?_, rfl⟩
  · exact forall_mem_none
  all_goals simp only [ChunkOp.toInstr, encodeWord, enc5, toNat_ofNat_fld]; omega

theorem parseChunkSetd_sound (hw : w < 2 ^ 32) (major : fld w 28 4 = 9) : ∀ i ∈ parseChunkSetd w, WordOf w i.toInstr := by
  have layout := word_eq_cut hw [24, 4, 4] rfl
  simp only [cut, Nat.reduceAdd] at layout
  unfold parseChunkSetd
  refine forall_mem_some ⟨?_, rfl⟩
  simp only [ChunkOp.toInstr, encodeWord, enc2, toNat_ofNat_fld]
  omega

theorem parseChunkAddd_sound (hw : w < 2 ^ 32) (major : fld w 28 4 = 10) : ∀ i ∈ parseChunkAddd w, WordOf w i.toInstr := by
  have layout := word_eq_cut hw [20, 4, 4, 4] rfl
  simp only [cut, Nat.reduceAdd] at layout
  unfold parseChunkAddd
  refine forall_mem_some ⟨?_, rfl⟩
  simp only [ChunkOp.toInstr, encodeWord, enc3, toNat_ofNat_fld]
  omega

theorem parseChunkBrd_sound (hw : w < 2 ^ 32) (major : fld w 28 4 = 11) : ∀ i ∈ parseChunkBrd w, WordOf w i.toInstr := by
  have layout := word_eq_cut hw [21, 3, 4, 4] rfl
  simp only [cut, Nat.reduceAdd] at layout
  unfold parseChunkBrd
  refine forall_mem_bind BrdCond.code_of_ofCode fun c hc => forall_mem_some ⟨?_, rfl⟩
  simp only [ChunkOp.toInstr, encodeWord, enc3, toNat_ofNat_fld]
  omega

theorem parseChunkHalt_sound (hw : w < 2 ^ 32) (major : fld w 28 4 = 12) : ∀ i ∈ parseChunkHalt w, WordOf w i.toInstr := by
  have layout := word_eq_cut hw [28, 4] rfl
  simp only [cut, Nat.reduceAdd] at layout
  unfold parseChunkHalt
  refine forall_mem_row ?_ fun h => ⟨?_, rfl⟩
  · exact forall_mem_none
  all_goals simp only [ChunkOp.toInstr, encodeWord, enc0]; omega

theorem parseChunkNop_sound (hw : w < 2 ^ 32) (major : fld w 28 4 = 13) : ∀ i ∈ parseChunkNop w, WordOf w i.toInstr := by
  have layout := word_eq_cut hw [28, 4] rfl
  simp only [cut, Nat.reduceAdd] at layout
  unfold parseChunkNop
  refine forall_mem_row ?_ fun h => ⟨?_, rfl⟩
  · exact forall_mem_none
  all_goals simp only [ChunkOp.toInstr, encodeWord, enc0]; omega

/-! The agents' words, by major opcode (R25) or operation (R183). -/

theorem parseWave_sound (hw : w < 2 ^ 32) : ∀ i ∈ parseWave w, WordOf w i := by
  unfold parseWave
  split
  · exact parseSop_sound hw ‹_›
  · exact parseSopi_sound hw ‹_›
  · exact parseSmovi_sound hw ‹_›
  · exact parseSsr_sound hw ‹_›
  · exact parseBr_sound hw ‹_›
  · exact parseJmp_sound hw ‹_›
  · exact parseVbr_sound hw ‹_›
  · exact parsePath_sound hw ‹_›
  · exact parseSync_sound hw ‹_›
  · exact parseSys_sound hw ‹_›
  · exact parseReg_sound hw ‹_›
  · exact parseVop_sound hw ‹_›
  · exact parseVopi_sound hw ‹_›
  · exact parseVfop_sound hw ‹_›
  · exact parseVfma_sound hw ‹_›
  · exact parseVsfu_sound hw ‹_›
  · exact parseVcvt_sound hw ‹_›
  · exact parseVxl_sound hw ‹_›
  · exact parseVcmp_sound hw ‹_›
  · exact parseKop_sound hw ‹_›
  · exact parseVnf_sound hw ‹_›
  · exact parseVsel_sound hw ‹_›
  · exact parseVld_sound hw ‹_›
  · exact parseVst_sound hw ‹_›
  · exact parseSmem_sound hw ‹_›
  · exact parseVatom_sound hw ‹_›
  · exact parseSatom_sound hw ‹_›
  · exact parseFence_sound hw ‹_›
  · exact parseQop_sound hw ‹_›
  · exact parseVer_sound hw ‹_›
  · exact parseXput_sound hw ‹_›
  · exact parseCp_sound hw ‹_›
  · exact parseTile_sound hw ‹_›
  · exact parseTex_sound hw ‹_›
  · exact parseIsect_sound hw ‹_›
  · exact parseHash_sound hw ‹_›
  · exact parseVault_sound hw ‹_›
  · exact forall_mem_none

theorem parseHintWord_sound (hw : w < 2 ^ 32) : ∀ i ∈ parseHintWord w, WordOf w i := by
  unfold parseHintWord
  split
  · exact parseHint_sound hw ‹_›
  · exact forall_mem_none

theorem parseStream_sound (hw : w < 2 ^ 32) : ∀ i ∈ parseStream w, WordOf w i.toInstr := by
  unfold parseStream
  split
  · exact parseMma_sound hw ‹_›
  · exact parseMmap_sound hw ‹_›
  · exact parseMacc_sound hw ‹_›
  · exact parseMctl_sound hw ‹_›
  · exact forall_mem_none

theorem parseChunk_sound (hw : w < 2 ^ 32) : ∀ i ∈ parseChunk w, WordOf w i.toInstr := by
  unfold parseChunk
  split
  · exact parseChunkSend_sound hw ‹_›
  · exact parseChunkRecv_sound hw ‹_›
  · exact parseChunkRed_sound hw ‹_›
  · exact parseChunkCopy_sound hw ‹_›
  · exact parseChunkWait_sound hw ‹_›
  · exact parseChunkSig_sound hw ‹_›
  · exact parseChunkLoop_sound hw ‹_›
  · exact parseChunkKick_sound hw ‹_›
  · exact parseChunkSetd_sound hw ‹_›
  · exact parseChunkAddd_sound hw ‹_›
  · exact parseChunkBrd_sound hw ‹_›
  · exact parseChunkHalt_sound hw ‹_›
  · exact parseChunkNop_sound hw ‹_›
  · exact forall_mem_none

end

/-- Settles O3: a row's fixed bits and its fields make up the whole word, so the word put together from them is the word read.
  -/
theorem noWordBitIgnored : Obligations.NoWordBitIgnored := by
  unfold Obligations.NoWordBitIgnored
  intro w hw
  refine ⟨fun i h => ?_, fun op h => ?_, fun op h => ?_⟩
  · obtain ⟨hp, hwf⟩ := accepted_eq_ok.mp h
    have parsed : i ∈ parseWave w ∨ i ∈ parseHintWord w := by
      split at hp
      · exact .inl (by rwa [‹parseWave w = _›])
      · exact .inr hp
    obtain ⟨henc, hev⟩ := parsed.elim (parseWave_sound hw i) (parseHintWord_sound hw i)
    exact ⟨hwf, hev, henc⟩
  · obtain ⟨hp, hwf⟩ := accepted_eq_ok.mp h
    exact ⟨hwf, (parseStream_sound hw op hp).1⟩
  · exact (parseChunk_sound hw op (accepted_eq_ok.mp h).1).1

/-- Settles O1: four words of the spec's listings, decoded. -/
theorem specWordsDecode : Obligations.SpecWordsDecode := by
  unfold Obligations.SpecWordsDecode
  decide

end Sys2Proof
end

section
/-! PROOF. The word of a well-formed instruction decodes to it (R11, R12, R18, R25 to R30, R183, R184). -/

namespace Sys2Proof

open Machine

/-! A word built up field by field. A field of it reads the value placed there, and placing a value where the word is still zero
leaves every other field as it is. -/

/-- The fixed bits of a row, before any field is placed. -/
def fixedBits (b : Nat) : Nat := b

/-- The word with the value `x` placed at bit `i`. -/
def place (y x i : Nat) : Nat := y + x * 2 ^ i

@[simp] theorem fld_fixedBits (b lo n : Nat) : fld (fixedBits b) lo n = b / 2 ^ lo % 2 ^ n := by rw [fld, fixedBits]

@[simp] theorem fixedBits_lt (b N : Nat) : fixedBits b < N ↔ b < N := by rw [fixedBits]

section
variable {y x i n lo m N : Nat}

@[simp] theorem fld_place_below (h : lo + m ≤ i) : fld (place y x i) lo m = fld y lo m := by
  obtain ⟨c, rfl⟩ := Nat.exists_eq_add_of_le h
  rw [place, fld, fld, show x * 2 ^ (lo + m + c) = 2 ^ lo * (2 ^ m * (2 ^ c * x)) by ring,
    Nat.add_mul_div_left _ _ (Nat.two_pow_pos lo), Nat.add_mul_mod_self_left]

theorem fld_place_at (hx : x < 2 ^ n) (h : fld y i n = 0) : fld (place y x i) i n = x := by
  rw [place, fld, Nat.add_mul_div_right _ _ (Nat.two_pow_pos i), Nat.add_mod, show y / 2 ^ i % 2 ^ n = 0 from h, Nat.zero_add,
    Nat.mod_mod, Nat.mod_eq_of_lt hx]

/-- Above the field that takes the value the word stays as it was. -/
theorem place_div_above (hx : x < 2 ^ n) (h : fld y i n = 0) : place y x i / 2 ^ (i + n) = y / 2 ^ (i + n) := by
  obtain ⟨q, hq⟩ := Nat.dvd_of_mod_eq_zero (show y / 2 ^ i % 2 ^ n = 0 from h)
  rw [Nat.pow_add, ← Nat.div_div_eq_div_mul, ← Nat.div_div_eq_div_mul, place, Nat.add_mul_div_right _ _ (Nat.two_pow_pos i), hq,
    Nat.mul_add_div (Nat.two_pow_pos n), Nat.div_eq_of_lt hx, Nat.mul_div_cancel_left _ (Nat.two_pow_pos n), Nat.add_zero]

theorem fld_place_above (hx : x < 2 ^ n) (hle : i + n ≤ lo) (h : fld y i n = 0) : fld (place y x i) lo m = fld y lo m := by
  obtain ⟨c, rfl⟩ := Nat.exists_eq_add_of_le hle
  rw [fld, fld, Nat.pow_add 2 (i + n), ← Nat.div_div_eq_div_mul, ← Nat.div_div_eq_div_mul, place_div_above hx h]

theorem place_lt (hx : x < 2 ^ n) (h : fld y i n = 0) (hN : 2 ^ (i + n) ∣ N) : place y x i < N ↔ y < N := by
  obtain ⟨c, rfl⟩ := hN
  rw [Nat.mul_comm, ← Nat.div_lt_iff_lt_mul (Nat.two_pow_pos _), place_div_above hx h, Nat.div_lt_iff_lt_mul (Nat.two_pow_pos
    _)]

/-- What a field placed in zero bits of a word does: it is read back, the fields above it stay, and a bound above it stays. -/
theorem placed (hx : x < 2 ^ n) :
    (∀ y i, fld y i n = 0 → fld (place y x i) i n = x)
      ∧ (∀ y i lo m, i + n ≤ lo → fld y i n = 0 → fld (place y x i) lo m = fld y lo m)
      ∧ ∀ y i N, fld y i n = 0 → 2 ^ (i + n) ∣ N → (place y x i < N ↔ y < N) :=
  ⟨fun _ _ => fld_place_at hx, fun _ _ _ _ => fld_place_above hx, fun _ _ _ => place_lt hx⟩

end

/-! The same for the values of a register number, an immediate or a flag, whose widths their types give. -/

section
variable {y i n lo m N : Nat} (x : BitVec n) (b : Bool)

@[simp] theorem fld_place_toNat (h : fld y i n = 0) : fld (place y x.toNat i) i n = x.toNat := fld_place_at x.isLt h

@[simp] theorem fld_place_toNat_above (hle : i + n ≤ lo) (h : fld y i n = 0) : fld (place y x.toNat i) lo m = fld y lo m :=
  fld_place_above x.isLt hle h

@[simp] theorem place_toNat_lt (h : fld y i n = 0) (hN : 2 ^ (i + n) ∣ N) : place y x.toNat i < N ↔ y < N :=
  place_lt x.isLt h hN

@[simp] theorem fld_place_flag (h : fld y i 1 = 0) : fld (place y b.toNat i) i 1 = b.toNat := fld_place_at b.toNat_lt h

@[simp] theorem fld_place_flag_above (hle : i + 1 ≤ lo) (h : fld y i 1 = 0) : fld (place y b.toNat i) lo m = fld y lo m :=
  fld_place_above b.toNat_lt hle h

@[simp] theorem place_flag_lt (h : fld y i 1 = 0) (hN : 2 ^ (i + 1) ∣ N) : place y b.toNat i < N ↔ y < N :=
  place_lt b.toNat_lt h hN

end

section
variable (b x i y j z k u l v m t n : Nat)

@[simp] theorem enc0_eq_fixedBits : enc0 b = fixedBits b := by rw [enc0, fixedBits]
@[simp] theorem enc1_eq_place : enc1 b x i = place (fixedBits b) x i := by rw [enc1, place, fixedBits]
@[simp] theorem enc2_eq_place : enc2 b x i y j = place (place (fixedBits b) x i) y j := by rw [enc2, place, place, fixedBits]
@[simp] theorem enc3_eq_place : enc3 b x i y j z k = place (enc2 b x i y j) z k := by rw [enc3, enc2, place]
@[simp] theorem enc4_eq_place : enc4 b x i y j z k u l = place (enc3 b x i y j z k) u l := by rw [enc4, enc3, place]
@[simp] theorem enc5_eq_place : enc5 b x i y j z k u l v m = place (enc4 b x i y j z k u l) v m := by rw [enc5, enc4, place]
@[simp] theorem enc6_eq_place : enc6 b x i y j z k u l v m t n = place (enc5 b x i y j z k u l v m) t n := by
  rw [enc6, enc5, place]

end


theorem scalarWords_read {i : Instr} (h : i.ctorIdx < 44) :
    encodeWord i < 2 ^ 32 ∧ parseWave (encodeWord i) = some i := by
  cases i with
  | sadd | ssub | smul | smulhI32 | smulhN32 | sdivI32 | sdivN32 | sremI32 | sremN32 | sand | sor | sxor | sandn | sshl | sshr
  | ssra | sminI32 | sminN32 | smaxI32 | smaxN32 | smov | spopc | sclz | sctz | sbrev =>
    simp [encodeWord, parseWave, parseSop]
  | scmp c =>
    simp [encodeWord, parseWave, parseSop, fld_eq_iff (k := 12) 5 7, placed (Laws.code_CmpCond c)]
  | slea | sbfi =>
    simp [encodeWord, parseWave, parseSop, fld_eq_iff (k := 12) 5 7]
  | ssel =>
    simp [encodeWord, parseWave, parseSop, fld_eq_iff (k := 12) 5 7, fld_eq_iff (k := 5) 3 2]
  | saddImm | smulImm | sandImm | sorImm | sxorImm | sshlImm | sshrImm | ssraImm | sminI32Imm | sminN32Imm | smaxI32Imm
  | smaxN32Imm | smovImm | sbfeI32 | sbfeN32 =>
    simp [encodeWord, parseWave, parseSopi]
  | _ => simp [Instr.ctorIdx] at h

theorem controlWords_read {i : Instr} (h : 44 ≤ i.ctorIdx ∧ i.ctorIdx < 68) :
    encodeWord i < 2 ^ 32 ∧ parseWave (encodeWord i) = some i := by
  cases i with
  | smovi =>
    simp [encodeWord, parseWave, parseSmovi]
  | srd | swr | nfset =>
    simp [encodeWord, parseWave, parseSsr]
  | br | brn =>
    simp [encodeWord, parseWave, parseBr]
  | jmp | call | jmpReg | callReg =>
    simp [encodeWord, parseWave, parseJmp]
  | vbr | vbrk | split =>
    simp [encodeWord, parseWave, parseVbr]
  | loan | lnext =>
    simp [encodeWord, parseWave, parsePath, fld_eq_iff (k := 26) 23 3]
  | repay _ _ r t =>
    simp [encodeWord, parseWave, parsePath, fld_eq_iff (k := 26) 23 3, placed (Laws.code_RedOp r), placed (Laws.code_RepayTy t)]
  | barArrive | barWait | barSync =>
    simp [encodeWord, parseWave, parseSync]
  | waitC =>
    simp [encodeWord, parseWave, parseSync, fld_eq_iff (k := 22) 18 4]
  | sleep =>
    simp [encodeWord, parseWave, parseSync, fld_eq_iff (k := 22) 18 4, fld_eq_iff (k := 26) 16 10]
  | trap =>
    simp [encodeWord, parseWave, parseSys]
  | claim | giveback =>
    simp [encodeWord, parseWave, parseReg]
  | _ => simp [Instr.ctorIdx] at h

theorem vectorWords_read {i : Instr} (h : 68 ≤ i.ctorIdx ∧ i.ctorIdx < 108) :
    encodeWord i < 2 ^ 32 ∧ parseWave (encodeWord i) = some i := by
  cases i with
  | vadd | vsub | vmul | vmulhI32 | vmulhN32 | vmad | vand | vor | vxor | vandn | vshl | vshr | vsra | vminI32 | vminN32
  | vmaxI32 | vmaxN32 | vabsdI32 | vabsdN32 | vpopc | vclz | vbrev =>
    simp [encodeWord, parseWave, parseVop]
  | vbfeI32 | vbfeN32 | vbfi =>
    simp [encodeWord, parseWave, parseVop, fld_eq_iff (k := 12) 5 7]
  | vaddImm | vmulImm | vandImm | vorImm | vxorImm | vandnImm | vshlImm | vshrImm | vsraImm | vminI32Imm | vminN32Imm
  | vmaxI32Imm | vmaxN32Imm | vabsdI32Imm | vabsdN32Imm =>
    simp [encodeWord, parseWave, parseVopi]
  | _ => simp [Instr.ctorIdx] at h

theorem floatWords_read {i : Instr} (h : 108 ≤ i.ctorIdx ∧ i.ctorIdx < 152) :
    encodeWord i < 2 ^ 32 ∧ parseWave (encodeWord i) = some i := by
  cases i with
  | vfadd | vfsub | vfmul | vfmin | vfmax | vfscale | vfclass =>
    simp [encodeWord, parseWave, parseVfop]
  | vhadd | vhmul =>
    simp [encodeWord, parseWave, parseVfop, fld_eq_iff (k := 12) 5 7]
  | vffma | vhfma =>
    simp [encodeWord, parseWave, parseVfma]
  | vfrcp | vfrsq | vfsqrt | vfexp2 | vflog2 | vfsin | vfcos | vfexp =>
    simp [encodeWord, parseWave, parseVsfu]
  | vfdiv =>
    simp [encodeWord, parseWave, parseVsfu, fld_eq_iff (k := 12) 5 7]
  | vfcvtF32I32 | vfcvtF32N32 | vfcvtI32F32 | vfcvtN32F32 =>
    simp [encodeWord, parseWave, parseVcvt]
  | vfcvtF32F16 | vfcvtF16F32 | vfcvtF32Bf16 | vfcvtBf16F32 | vfcvtF32E4m3 | vfcvtE4m3F32 | vfcvtF32E5m2 | vfcvtE5m2F32
  | vfcvtI32I8 | vfcvtI8I32 | vfcvtI32Tri | vfcvtTriI32 | vfcvtI32I16 | vfcvtI16I32 | vfcvtN32N8 | vfcvtN8N32 | vfcvtN32N16
  | vfcvtN16N32 =>
    simp [encodeWord, parseWave, parseVcvt, fld_eq_iff (k := 12) 8 4]
  | vncvtF32 | vncvtNf =>
    simp [encodeWord, parseWave, parseVcvt, fld_eq_iff (k := 12) 8 4, fld_eq_iff (k := 8) 6 2]
  | _ => simp [Instr.ctorIdx] at h

theorem lanesWords_read {i : Instr} (h : 152 ≤ i.ctorIdx ∧ i.ctorIdx < 186) :
    encodeWord i < 2 ^ 32 ∧ parseWave (encodeWord i) = some i := by
  cases i with
  | vshfl | vbfly | vbcast | vrfl =>
    simp [encodeWord, parseWave, parseVxl]
  | vred _ _ o t =>
    simp [encodeWord, parseWave, parseVxl, fld_eq_iff (k := 12) 5 7, placed (Laws.code_RedOp o), placed (Laws.code_ElemTy t)]
  | vredmi _ _ t =>
    simp [encodeWord, parseWave, parseVxl, fld_eq_iff (k := 12) 5 7, placed (Laws.code_ElemTy t)]
  | vscan _ _ o t =>
    simp [encodeWord, parseWave, parseVxl, fld_eq_iff (k := 12) 5 7, fld_eq_iff (k := 6) 5 1, placed (Laws.code_RedOp o),
      placed (Laws.code_ElemTy t)]
  | vnbr _ _ s =>
    simp [encodeWord, parseWave, parseVxl, fld_eq_iff (k := 12) 5 7, fld_eq_iff (k := 6) 5 1, placed (Laws.code_NbrSel s)]
  | vddx | vddy | vballot | vcount =>
    simp [encodeWord, parseWave, parseVxl, fld_eq_iff (k := 12) 5 7, fld_eq_iff (k := 6) 5 1]
  | vcmpI32 _ c _ _ m | vcmpN32 _ c _ _ m | vfcmp _ c _ _ m =>
    simp [encodeWord, parseWave, parseVcmp, placed (Laws.code_CmpCond c), placed (Laws.code_CmpMode m)]
  | kand | kor | kxor | kandn | knot | kmov | kmovFromScalar | kpop =>
    simp [encodeWord, parseWave, parseKop]
  | kmovToScalar =>
    simp [encodeWord, parseWave, parseKop, fld_eq_iff (k := 8) 5 3]
  | kany | kall =>
    simp [encodeWord, parseWave, parseKop, fld_eq_iff (k := 8) 3 5]
  | vnadd | vnmul | vnfma =>
    simp [encodeWord, parseWave, parseVnf]
  | vsel | vmov | vmovScalar =>
    simp [encodeWord, parseWave, parseVsel]
  | vmovi | vsr =>
    simp [encodeWord, parseWave, parseVsel, fld_eq_iff (k := 12) 5 7]
  | _ => simp [Instr.ctorIdx] at h

theorem accessWords_read {i : Instr} (h : 186 ≤ i.ctorIdx ∧ i.ctorIdx < 202) :
    encodeWord i < 2 ^ 32 ∧ parseWave (encodeWord i) = some i := by
  cases i with
  | vld _ _ _ w p =>
    simp [encodeWord, parseWave, parseVld, placed (Laws.code_MemWidth w), placed (Laws.code_Space p)]
  | vst _ _ _ w p =>
    simp [encodeWord, parseWave, parseVst, placed (Laws.code_MemWidth w), placed (Laws.code_Space p)]
  | sld _ _ _ w p | sst _ _ _ w p =>
    simp [encodeWord, parseWave, parseSmem, placed (Laws.code_MemWidth w), placed (Laws.code_Space p)]
  | vatomAddN32 | vatomAddF32 | vatomMinI32 | vatomMinN32 | vatomMaxI32 | vatomMaxN32 | vatomAnd | vatomOr | vatomXor
  | vatomSwap | vatomCas | vatomAddN64 =>
    simp [encodeWord, parseWave, parseVatom]
  | _ => simp [Instr.ctorIdx] at h

theorem orderWords_read {i : Instr} (h : 202 ≤ i.ctorIdx ∧ i.ctorIdx < 224) :
    encodeWord i < 2 ^ 32 ∧ parseWave (encodeWord i) = some i := by
  cases i with
  | satomAddN32 | satomAddF32 | satomMinI32 | satomMinN32 | satomMaxI32 | satomMaxN32 | satomAnd | satomOr | satomXor
  | satomSwap | satomCas | satomAddN64 =>
    simp [encodeWord, parseWave, parseSatom]
  | fence _ _ c | fenceOwn c | fenceFar c =>
    simp [encodeWord, parseWave, parseFence, placed (Laws.code_Scope c)]
  | qpush | qpop | tqEnq | tqDeq =>
    simp [encodeWord, parseWave, parseQop]
  | mint | vpin =>
    simp [encodeWord, parseWave, parseVer]
  | xput _ _ _ w =>
    simp [encodeWord, parseWave, parseXput, placed (Laws.code_MemWidth w)]
  | _ => simp [Instr.ctorIdx] at h

theorem deviceWords_read {i : Instr} (h : 224 ≤ i.ctorIdx ∧ i.ctorIdx < 241) :
    encodeWord i < 2 ^ 32 ∧ parseWave (encodeWord i) = some i := by
  cases i with
  | cpTile | cpBdeck | cpStore | cpCopy =>
    simp [encodeWord, parseWave, parseCp]
  | tdef | tfree | tstat =>
    simp [encodeWord, parseWave, parseTile]
  | tex3 | texp =>
    simp [encodeWord, parseWave, parseTex]
  | isectRay | isectTile | isectNext =>
    simp [encodeWord, parseWave, parseIsect]
  | hdesc | hgath =>
    simp [encodeWord, parseWave, parseHash]
  | hscat =>
    simp [encodeWord, parseWave, parseHash, fld_eq_iff (k := 12) 5 7]
  | vaccRd | vaccWr =>
    simp [encodeWord, parseWave, parseVault]
  | _ => simp [Instr.ctorIdx] at h

theorem plainWords_read {i : Instr} (h : 244 ≤ i.ctorIdx ∧ i.ctorIdx < 257) :
    encodeWord i < 2 ^ 32 ∧ parseWave (encodeWord i) = some i := by
  cases i with
  | ret =>
    simp [encodeWord, parseWave, parseJmp]
  | join =>
    simp [encodeWord, parseWave, parseVbr]
  | exit | refill | ldone | rgn =>
    simp [encodeWord, parseWave, parsePath]
  | yield | nop | wpred | sucstart =>
    simp [encodeWord, parseWave, parseSync]
  | eret | halt | brkpt =>
    simp [encodeWord, parseWave, parseSys]
  | _ => simp [Instr.ctorIdx] at h

theorem parseStream_encodeWord (op : StreamOp) : encodeWord op.toInstr < 2 ^ 32 ∧ parseStream (encodeWord op.toInstr) = some op
  := by
  cases op with
  | mmaE4m3E4m3 | mmaE4m3E5m2 | mmaE5m2E4m3 | mmaE5m2E5m2 | mmaI8 | mmaBf16 | mmaF16 | mmaTriI8 =>
    simp [encodeWord, StreamOp.toInstr, parseStream, parseMma]
  | mmapShape | mmapK | mmapAcc =>
    simp [encodeWord, StreamOp.toInstr, parseStream, parseMmap]
  | macz =>
    simp [encodeWord, StreamOp.toInstr, parseStream, parseMacc]
  | mscl _ _ _ m =>
    simp [encodeWord, StreamOp.toInstr, parseStream, parseMacc, placed (Laws.code_MsclMode m)]
  | mbarWait | mbarSig | mend | mhalt =>
    simp [encodeWord, StreamOp.toInstr, parseStream, parseMctl]
  | mloop =>
    simp [encodeWord, StreamOp.toInstr, parseStream, parseMctl, fld_eq_iff (k := 22) 19 3]
  | mrel =>
    simp [encodeWord, StreamOp.toInstr, parseStream, parseMctl, fld_eq_iff (k := 22) 19 3, fld_eq_iff (k := 26) 23 3]
  | mset =>
    simp [encodeWord, StreamOp.toInstr, parseStream, parseMctl, fld_eq_iff (k := 22) 19 3, fld_eq_iff (k := 26) 23 3,
      fld_eq_iff (k := 19) 16 3]

theorem parseChunk_encodeWord (op : ChunkOp) : encodeWord op.toInstr < 2 ^ 32 ∧ parseChunk (encodeWord op.toInstr) = some op :=
  by
  cases op with
  | send =>
    simp [encodeWord, ChunkOp.toInstr, parseChunk, parseChunkSend]
  | recv =>
    simp [encodeWord, ChunkOp.toInstr, parseChunk, parseChunkRecv]
  | redAddF32 | redAddI32 | redMinF32 | redMaxF32 | redMinI32 | redMaxI32 | redAndB32 | redOrB32 =>
    simp [encodeWord, ChunkOp.toInstr, parseChunk, parseChunkRed]
  | drafelCopy =>
    simp [encodeWord, ChunkOp.toInstr, parseChunk, parseChunkCopy]
  | waitOps =>
    simp [encodeWord, ChunkOp.toInstr, parseChunk, parseChunkWait]
  | waitGe =>
    simp [encodeWord, ChunkOp.toInstr, parseChunk, parseChunkWait, fld_eq_iff (k := 22) 18 4]
  | sig =>
    simp [encodeWord, ChunkOp.toInstr, parseChunk, parseChunkSig]
  | loop =>
    simp [encodeWord, ChunkOp.toInstr, parseChunk, parseChunkLoop]
  | kick =>
    simp [encodeWord, ChunkOp.toInstr, parseChunk, parseChunkKick]
  | setd =>
    simp [encodeWord, ChunkOp.toInstr, parseChunk, parseChunkSetd]
  | addd =>
    simp [encodeWord, ChunkOp.toInstr, parseChunk, parseChunkAddd]
  | brd _ c =>
    simp [encodeWord, ChunkOp.toInstr, parseChunk, parseChunkBrd, placed (Laws.code_BrdCond c)]
  | drafelHalt =>
    simp [encodeWord, ChunkOp.toInstr, parseChunk, parseChunkHalt]
  | drafelNop =>
    simp [encodeWord, ChunkOp.toInstr, parseChunk, parseChunkNop]

/-! The hint words (R18). -/

/-- The word of a `mod` hint, field by field. -/
theorem encodeWord_mod (f : ModFields) :
    encodeWord (.mod f) = place (place (place (place (place (enc6 0xFD000000 f.vce.toNat 23 f.vc.toNat 16 f.rnd.code 13
      f.sat.toNat 12
      f.ftz.toNat 11 f.cpol.toNat 9) f.w.toNat 8) f.pk.toNat 6) f.split.toNat 5) f.na.toNat 4) f.nc.toNat 3 := rfl

theorem hintWords_read {i : Instr} (h : 241 ≤ i.ctorIdx ∧ i.ctorIdx < 244) :
    encodeWord i < 2 ^ 32 ∧ parseWave (encodeWord i) = none ∧ parseHintWord (encodeWord i) = some i := by
  cases i with
  | pfx | sch => simp [encodeWord, parseWave, parseHintWord, parseHint]
  | mod f => simp [encodeWord_mod, parseWave, parseHintWord, parseHint, placed (Laws.code_Rnd f.rnd)]
  | _ => simp [Instr.ctorIdx] at h

/-- Every constructor of an instruction of a path comes before those of stream words, chunk words and events. -/
theorem ctorIdx_lt {i : Instr} (he : isEvent i = false) (hs : ∀ op : StreamOp, op.toInstr ≠ i) (hc : ∀ op : ChunkOp, op.toInstr
  ≠ i) :
    i.ctorIdx < 257 := by
  by_contra h
  cases i with
  | sadd | ssub | smul | smulhI32 | smulhN32 | sdivI32 | sdivN32 | sremI32 | sremN32 | sand | sor | sxor | sandn | sshl | sshr
  | ssra | sminI32 | sminN32 | smaxI32 | smaxN32 | smov | spopc | sclz | sctz | sbrev | scmp | slea | sbfi | ssel | saddImm
  | smulImm | sandImm | sorImm | sxorImm | sshlImm | sshrImm | ssraImm | sminI32Imm | sminN32Imm | smaxI32Imm | smaxN32Imm
  | smovImm | sbfeI32 | sbfeN32 | smovi | srd | swr | nfset | br | brn | jmp | call | jmpReg | callReg | vbr | vbrk | split
  | loan | lnext | repay | barArrive | barWait | barSync | waitC | sleep | trap | claim | giveback | vadd | vsub | vmul
  | vmulhI32 | vmulhN32 | vmad | vand | vor | vxor | vandn | vshl | vshr | vsra | vminI32 | vminN32 | vmaxI32 | vmaxN32
  | vabsdI32 | vabsdN32 | vpopc | vclz | vbrev | vbfeI32 | vbfeN32 | vbfi | vaddImm | vmulImm | vandImm | vorImm | vxorImm
  | vandnImm | vshlImm | vshrImm | vsraImm | vminI32Imm | vminN32Imm | vmaxI32Imm | vmaxN32Imm | vabsdI32Imm | vabsdN32Imm
  | vfadd | vfsub | vfmul | vfmin | vfmax | vfscale | vfclass | vhadd | vhmul | vffma | vhfma | vfrcp | vfrsq | vfsqrt | vfdiv
  | vfexp2 | vflog2 | vfsin | vfcos | vfexp | vfcvtF32I32 | vfcvtF32N32 | vfcvtI32F32 | vfcvtN32F32 | vfcvtF32F16 | vfcvtF16F32
  | vfcvtF32Bf16 | vfcvtBf16F32 | vfcvtF32E4m3 | vfcvtE4m3F32 | vfcvtF32E5m2 | vfcvtE5m2F32 | vfcvtI32I8 | vfcvtI8I32
  | vfcvtI32Tri | vfcvtTriI32 | vncvtF32 | vncvtNf | vfcvtI32I16 | vfcvtI16I32 | vfcvtN32N8 | vfcvtN8N32 | vfcvtN32N16
  | vfcvtN16N32 | vshfl | vbfly | vbcast | vrfl | vred | vredmi | vscan | vnbr | vddx | vddy | vballot | vcount | vcmpI32
  | vcmpN32 | vfcmp | kand | kor | kxor | kandn | knot | kmov | kmovFromScalar | kmovToScalar | kpop | kany | kall | vnadd
  | vnmul | vnfma | vsel | vmov | vmovScalar | vmovi | vsr | vld | vst | sld | sst | vatomAddN32 | vatomAddF32 | vatomMinI32
  | vatomMinN32 | vatomMaxI32 | vatomMaxN32 | vatomAnd | vatomOr | vatomXor | vatomSwap | vatomCas | vatomAddN64 | satomAddN32
  | satomAddF32 | satomMinI32 | satomMinN32 | satomMaxI32 | satomMaxN32 | satomAnd | satomOr | satomXor | satomSwap | satomCas
  | satomAddN64 | fence | fenceOwn | fenceFar | qpush | qpop | tqEnq | tqDeq | mint | vpin | xput | cpTile | cpBdeck | cpStore
  | cpCopy | tdef | tfree | tstat | tex3 | texp | isectRay | isectTile | isectNext | hdesc | hgath | hscat | vaccRd | vaccWr
  | pfx | mod | sch | ret | join | exit | refill | ldone | rgn | yield | nop | wpred | sucstart | eret | halt | brkpt =>
    simp [Instr.ctorIdx] at h
  | mmaE4m3E4m3 => exact hs (.mmaE4m3E4m3 ..) rfl
  | mmaE4m3E5m2 => exact hs (.mmaE4m3E5m2 ..) rfl
  | mmaE5m2E4m3 => exact hs (.mmaE5m2E4m3 ..) rfl
  | mmaE5m2E5m2 => exact hs (.mmaE5m2E5m2 ..) rfl
  | mmaI8 => exact hs (.mmaI8 ..) rfl
  | mmaBf16 => exact hs (.mmaBf16 ..) rfl
  | mmaF16 => exact hs (.mmaF16 ..) rfl
  | mmaTriI8 => exact hs (.mmaTriI8 ..) rfl
  | mmapShape => exact hs (.mmapShape ..) rfl
  | mmapK => exact hs (.mmapK ..) rfl
  | mmapAcc => exact hs (.mmapAcc ..) rfl
  | macz => exact hs (.macz ..) rfl
  | mscl => exact hs (.mscl ..) rfl
  | mbarWait => exact hs (.mbarWait ..) rfl
  | mbarSig => exact hs (.mbarSig ..) rfl
  | mloop => exact hs (.mloop ..) rfl
  | mend => exact hs .mend rfl
  | mhalt => exact hs .mhalt rfl
  | mrel => exact hs (.mrel ..) rfl
  | mset => exact hs (.mset ..) rfl
  | send => exact hc (.send ..) rfl
  | recv => exact hc (.recv ..) rfl
  | redAddF32 => exact hc (.redAddF32 ..) rfl
  | redAddI32 => exact hc (.redAddI32 ..) rfl
  | redMinF32 => exact hc (.redMinF32 ..) rfl
  | redMaxF32 => exact hc (.redMaxF32 ..) rfl
  | redMinI32 => exact hc (.redMinI32 ..) rfl
  | redMaxI32 => exact hc (.redMaxI32 ..) rfl
  | redAndB32 => exact hc (.redAndB32 ..) rfl
  | redOrB32 => exact hc (.redOrB32 ..) rfl
  | drafelCopy => exact hc (.drafelCopy ..) rfl
  | waitOps => exact hc (.waitOps ..) rfl
  | waitGe => exact hc (.waitGe ..) rfl
  | sig => exact hc (.sig ..) rfl
  | loop => exact hc (.loop ..) rfl
  | kick => exact hc (.kick ..) rfl
  | setd => exact hc (.setd ..) rfl
  | addd => exact hc (.addd ..) rfl
  | brd => exact hc (.brd ..) rfl
  | drafelHalt => exact hc .drafelHalt rfl
  | drafelNop => exact hc .drafelNop rfl
  | _ => simp [isEvent] at he

theorem waveWords_read {i : Instr} (h : i.ctorIdx < 257) (hint : ¬(241 ≤ i.ctorIdx ∧ i.ctorIdx < 244)) :
    encodeWord i < 2 ^ 32 ∧ parseWave (encodeWord i) = some i := by
  have cover : i.ctorIdx < 44 ∨ (44 ≤ i.ctorIdx ∧ i.ctorIdx < 68) ∨ (68 ≤ i.ctorIdx ∧ i.ctorIdx < 108) ∨ (108 ≤ i.ctorIdx ∧
    i.ctorIdx < 152) ∨ (152 ≤ i.ctorIdx ∧ i.ctorIdx < 186) ∨ (186 ≤ i.ctorIdx ∧ i.ctorIdx < 202) ∨ (202 ≤ i.ctorIdx ∧ i.ctorIdx
    < 224) ∨ (224 ≤ i.ctorIdx ∧ i.ctorIdx < 241) ∨ (244 ≤ i.ctorIdx ∧ i.ctorIdx < 257) := by omega
  rcases cover with h | h | h | h | h | h | h | h | h
  exacts [scalarWords_read h, controlWords_read h, vectorWords_read h, floatWords_read h, lanesWords_read h, accessWords_read
    h, orderWords_read h, deviceWords_read h, plainWords_read h]

theorem decodeWave_encodeWord {i : Instr} (hwf : i.wf = true) (h : i.ctorIdx < 257) :
    encodeWord i < 2 ^ 32 ∧ decodeWave (encodeWord i) = .ok i := by
  by_cases hint : 241 ≤ i.ctorIdx ∧ i.ctorIdx < 244
  · obtain ⟨hlt, hw, hh⟩ := hintWords_read hint
    exact ⟨hlt, accepted_eq_ok.mpr ⟨by rw [hw]; exact hh, hwf⟩⟩
  · obtain ⟨hlt, hw⟩ := waveWords_read h hint
    exact ⟨hlt, accepted_eq_ok.mpr ⟨by rw [hw]; rfl, hwf⟩⟩

/-- Settles O2: each row's word is built field by field, and the row's parser reads the fields back. -/
theorem encodedWordsDecode : Obligations.EncodedWordsDecode := by
  unfold Obligations.EncodedWordsDecode
  refine ⟨fun i hwf he hs hc => decodeWave_encodeWord hwf (ctorIdx_lt he hs hc), fun op hwf => ?_, fun op => ?_⟩
  · obtain ⟨hlt, hp⟩ := parseStream_encodeWord op
    exact ⟨hlt, accepted_eq_ok.mpr ⟨hp, hwf⟩⟩
  · obtain ⟨hlt, hp⟩ := parseChunk_encodeWord op
    exact ⟨hlt, accepted_eq_ok.mpr ⟨hp, rfl⟩⟩

end Sys2Proof
end

section
/-! PROOF. The retirement of a bundle and the frame of a register instruction: both fail where the table of paths holds two
entries under one number. A write changes the first of them and a read takes it, but a meeting point counts both. -/

namespace Sys2Proof.Machine

/-- The path that is read at number 0: it stands under a token that its wave does not have. -/
def upperPath : Path := { Path.fresh 0 1 0 with token := some 0 }

/-- A second path under the same number, parked at a meeting point. -/
def lowerPath : Path := { Path.fresh 0x100 1 0 with st := .parkedMeeting }

/-- A running context in which number 0 names two paths. -/
def twiceNamed : State :=
  { State.reset with cur := .path 0, run := { Context.empty with running := true, paths := [(0, upperPath), (0, lowerPath)] } }

/-- What path 0 knows as it issues `smov s7, s4` there. -/
def twiceCtx : Ctx := ctxOf (.smov 7 4) 0 upperPath twiceNamed

theorem ready_twiceNamed : ready (.smov 7 4) twiceNamed twiceCtx = true := by decide

theorem twiceNamed_noOtherMeets : ∀ q ∈ twiceNamed.pathsOf (twiceCtx.pid / 4), q.1 ≠ twiceCtx.pid → q.2.st ≠ .parkedMeeting := by decide

/-- Only the second path is counted at the meeting point, so it is released, and written over the path that retired. -/
theorem retire_twiceNamed : ((twiceNamed.retire twiceCtx twiceCtx.nextPc none).path twiceCtx.pid).map (·.pc) = some 0x100 := by decide

/-- The state with s7 written. -/
def twiceMoved : State := twiceNamed.writeScalar twiceCtx.pid twiceCtx.mods.w 7 (twiceCtx.scalar twiceNamed twiceCtx.mods.w 4)

theorem exec_twiceNamed : exec (.smov 7 4) twiceNamed = .next (twiceMoved.retire twiceCtx twiceCtx.nextPc none) := by
  rw [exec_smov, execSmov]
  exact issue_done ready_twiceNamed rfl

theorem retire_twiceMoved :
    ((twiceMoved.retire twiceCtx twiceCtx.nextPc none).path twiceCtx.pid).map (·.pc) = some 0x100 := by decide

theorem nextPc_twiceCtx : twiceCtx.nextPc ≠ 0x100 := by decide

/-- Refutes O31: of the two paths of number 0 the first retires, and the second, parked at a meeting point, is released over
it: the number then reads as a path at address 0x100, not at the next one. -/
theorem not_retirement : ¬ Obligations.Retirement := by
  unfold Obligations.Retirement
  intro h
  obtain ⟨_, _, _, _, _, _, q, hq, hpc, _⟩ :=
    h twiceNamed twiceCtx twiceCtx.nextPc none upperPath rfl rfl rfl twiceNamed_noOtherMeets (fun _ hh => nomatch hh)
  have g := retire_twiceNamed
  rw [hq, Option.map_some, hpc] at g
  exact nextPc_twiceCtx (Option.some.inj g)

/-- Refutes O30: `smov s7, s4` is ready in the same state, and after it number 0 reads as the second path, at address 0x100. -/
theorem not_registerInstructionFrame : ¬ Obligations.RegisterInstructionFrame := by
  unfold Obligations.RegisterInstructionFrame
  rintro ⟨h, _⟩
  obtain ⟨u, hexec, hsame, _, _, _, _, _, hret⟩ := h (.smov 7 4) twiceNamed twiceCtx rfl ready_twiceNamed
  have hnone : u.helper twiceCtx.pid = none := by rw [State.helper, hsame.helpers]; rfl
  obtain ⟨_, _, _, _, _, q, hq, hpc, _⟩ :=
    hret rfl rfl twiceNamed_noOtherMeets (fun _ hh => nomatch hnone.symm.trans hh)
  obtain e : u.retire twiceCtx twiceCtx.nextPc none = _ := Host.Outcome.next.inj (hexec.symm.trans exec_twiceNamed)
  have g := retire_twiceMoved
  rw [← e, hq, Option.map_some, hpc] at g
  exact nextPc_twiceCtx (Option.some.inj g)

end Sys2Proof.Machine
end

section
/-! PROOF. Addresses of accesses and the checks of R130 (O32). -/

namespace Sys2Proof.Machine

/-! Signed numbers as bit vectors. -/

theorem wrapInt_eq_toNat (n : Nat) (i : Int) : wrapInt n i = (BitVec.ofInt n i).toNat := (BitVec.toNat_ofInt i).symm

/-- A number read as two's complement is the integer of the bit vector that it is. -/
theorem signedOf_eq_toInt {n : Nat} (b : BitVec n) (v : Nat) (h : v % 2 ^ n = b.toNat) : signedOf n v = b.toInt := by
  rw [signedOf, h, BitVec.toInt_eq_toNat_cond]
  cases n with
  | zero => simp [BitVec.toNat_of_zero_length]
  | succ n => simp only [Nat.add_sub_cancel, Nat.pow_succ, Nat.mul_comm _ 2, Nat.mul_lt_mul_left (show 0 < 2 by omega)]

/-- The number of two bit vectors joined. -/
theorem toNat_append_eq {m n : Nat} (x : BitVec m) (y : BitVec n) : (x ++ y).toNat = x.toNat * 2 ^ n + y.toNat := by
  rw [BitVec.toNat_append, ← Nat.shiftLeft_add_eq_or_of_lt y.isLt, Nat.shiftLeft_eq]

/-- R20: an immediate widened by at most two pfx words, as a number and as a bit vector. -/
theorem widenedImm_eq_ofInt {n : Nat} (pfx : List Nat) (k : BitVec n) (hlen : pfx.length ≤ 2) (hlt : ∀ x ∈ pfx, x < 2 ^ 24) :
    widenedImm pfx k = BitVec.ofInt 64 (widened pfx n k.toNat) := by
  have joined {m : Nat} (b : BitVec m) (v m' : Nat) (hm : m' = m) (h : v = b.toNat) : b.signExtend 64 = BitVec.ofInt 64 (signedOf m' v) := by
    subst hm h
    rw [signedOf_eq_toInt b _ (Nat.mod_eq_of_lt b.isLt), BitVec.signExtend]
  match pfx, hlen with
  | [], _ => exact joined k _ _ rfl (by simp)
  | [p], _ =>
    have hp : p < 2 ^ 24 := hlt p (by simp)
    exact joined _ _ _ (by simp [Nat.add_comm]) (by rw [toNat_append_eq, BitVec.toNat_ofNat, Nat.mod_eq_of_lt hp]; simp)
  | [p, q], _ =>
    have hp : p < 2 ^ 24 := hlt p (by simp)
    have hq : q < 2 ^ 24 := hlt q (by simp)
    exact joined _ _ _ (by simp [Nat.add_comm]) (by
      rw [toNat_append_eq, toNat_append_eq, BitVec.toNat_ofNat, BitVec.toNat_ofNat, Nat.mod_eq_of_lt hp, Nat.mod_eq_of_lt hq]; simp)

/-! Addresses (R26, R128). -/

theorem addrOf_eq_toNat (base : DWord) (index : Nat) (off : Int) :
    addrOf base index off = (base + BitVec.ofNat 64 index + BitVec.ofInt 64 off).toNat := by
  rw [addrOf, wrapInt_eq_toNat, BitVec.ofInt_add, BitVec.ofInt_add, BitVec.ofInt_natCast, BitVec.ofInt_natCast, BitVec.ofNat_toNat,
    BitVec.setWidth_eq]

/-! The checks of R130, on addresses that a pin has redirected (R147). -/

/-- A list up to the first element that passes a test. -/
theorem takeWhile_ne_of_find? {α : Type} [BEq α] [LawfulBEq α] (f : α → Bool) (l : List α) (x : α) (h : l.find? f = some x) :
    l.takeWhile (· != x) = l.takeWhile fun y => !f y := by
  induction l with
  | nil => rfl
  | cons y l ih =>
    by_cases hy : f y = true
    · obtain rfl : y = x := by simpa [hy] using h
      simp [hy]
    · have hx : f x = true := List.find?_some h
      have hne : y ≠ x := fun e => hy (e ▸ hx)
      simp only [List.find?_cons, hy] at h
      simp [hy, hne, ih h]

/-- The checks of R130 once the space and the pin have given each lane its address. -/
def State.checkArrivals (s : State) (c : Ctx) (sp : Space) (acc : Access) (n : Nat) (vec : Bool) (bs : List (Nat × Nat)) : Checked :=
  let name (l : Nat) : Option Nat := if vec then some l else none
  match bs.find? fun (x : Nat × Nat) => x.2 % n != 0 with
  | some x => .trap 0x03 x.2 (name x.1)
  | none =>
    let rs : List (Nat × Nat × Reach) := bs.map fun (x : Nat × Nat) => (x.1, x.2, s.reachSpace c sp acc n x.2)
    let moving (xs : List (Nat × Nat × Reach)) : Bool := xs.any fun x => x.2.2 == Reach.wait
    match firstFault 4 rs with
    | some x => if moving (rs.takeWhile (· != x)) then .wait .translation else .trap 0x04 x.2.1 (name x.1)
    | none =>
      if moving rs then .wait .translation
      else
        match firstFault 5 rs with
        | some x => .trap 0x05 x.2.1 (name x.1)
        | none =>
          match (arrived rs).find? fun x => s.mustWait x.loc with
          | some x => .wait (.line (s.ownerPc c.core x.loc))
          | none =>
            match s.unseenStore c.pid ((arrived rs).map fun x => x.loc.span n).flatten with
            | some o => .wait (.line o.pc)
            | none => .ok (arrived rs)

theorem unseenStore_nil (s : State) (pid : Nat) : s.unseenStore pid [] = none := by simp [State.unseenStore]

section
variable (s : State) (c : Ctx) (sp : Space) (acc : Access) (n : Nat) (vec : Bool) (las : List (Nat × Nat))

theorem checkArrivals_nil : s.checkArrivals c sp acc n vec [] = .ok [] := by
  simp [State.checkArrivals, firstFault, arrived, unseenStore_nil]

/-- Outside .v space the pin has no say. -/
theorem checkAll_other (h : sp ≠ .v) : s.checkAll c sp acc n vec las = s.checkArrivals c sp acc n vec las := by
  cases las with
  | nil => rw [checkArrivals_nil, State.checkAll]
  | cons x xs =>
    simp only [State.checkAll, State.checkArrivals, h, false_and, if_false]
    cases s.pinOf c.pid <;> rfl

/-- In .v space every lane's address goes through the pin (R147). -/
theorem checkAll_pinned (p : Pin) (h : s.pinOf c.pid = some p) :
    s.checkAll c .v acc n vec las = s.checkArrivals c .v acc n vec (las.map fun x => (x.1, p.redirect x.2)) := by
  cases las with
  | nil => rw [List.map_nil, checkArrivals_nil, State.checkAll]
  | cons x xs =>
    simp only [State.checkAll]
    generalize s.pinOf c.pid = o at h ⊢
    subst h
    rfl

/-- Without a pin a .v access raises 0x13 (R147). -/
theorem checkAll_unpinned (x : Nat × Nat) (h : s.pinOf c.pid = none) :
    s.checkAll c .v acc n vec (x :: las) = .trap 0x13 x.2 (if vec then some x.1 else none) := by
  simp [State.checkAll, h]

/-- An address that the pin has redirected arrives as a .g address does. -/
theorem checkArrivals_v : s.checkArrivals c .v acc n vec las = s.checkArrivals c .g acc n vec las := rfl

/-- A misaligned lane comes first of all (R130). -/
theorem checkArrivals_misaligned (x : Nat × Nat) (h : las.find? (fun x => x.2 % n != 0) = some x) :
    s.checkArrivals c sp acc n vec las = .trap 0x03 x.2 (if vec then some x.1 else none) := by
  simp [State.checkArrivals, h]

theorem find?_misaligned_none (h : ∀ y ∈ las, y.2 % n = 0) : las.find? (fun x => x.2 % n != 0) = none := by
  simpa using h

/-- The first lane that meets a cause, and where it arrives. -/
theorem firstFault_map (cause : Nat) : firstFault cause (las.map fun x => (x.1, x.2, s.reachSpace c sp acc n x.2))
    = (las.find? fun x => s.reachSpace c sp acc n x.2 == .fault cause).map fun x => (x.1, x.2, s.reachSpace c sp acc n x.2) := by
  rw [firstFault, List.find?_map]; rfl

/-- A page that does not translate comes next, unless an earlier lane's page is moving (R130, R340). -/
theorem checkArrivals_absent (x : Nat × Nat) (ha : ∀ y ∈ las, y.2 % n = 0)
    (h : las.find? (fun x => s.reachSpace c sp acc n x.2 == .fault 4) = some x) :
    s.checkArrivals c sp acc n vec las =
      if (las.takeWhile fun y => s.reachSpace c sp acc n y.2 != .fault 4).any (fun y => s.reachSpace c sp acc n y.2 == .wait) then
        .wait .translation
      else .trap 0x04 x.2 (if vec then some x.1 else none) := by
  have hf : firstFault 4 (las.map fun x => (x.1, x.2, s.reachSpace c sp acc n x.2)) = some (x.1, x.2, s.reachSpace c sp acc n x.2) := by
    rw [firstFault_map, h]; rfl
  simp only [State.checkArrivals, find?_misaligned_none n las ha, hf]
  rw [takeWhile_ne_of_find? _ _ _ hf, List.takeWhile_map, List.any_map]
  rfl

theorem firstFault_none (cause : Nat) (h : ∀ y ∈ las, s.reachSpace c sp acc n y.2 ≠ .fault cause) :
    firstFault cause (las.map fun x => (x.1, x.2, s.reachSpace c sp acc n x.2)) = none := by
  rw [firstFault_map, Option.map_eq_none_iff, List.find?_eq_none]
  simpa using h

/-- A moving page is waited for before a protection fault is raised (R130, R340). -/
theorem checkArrivals_moving (h : ∀ y ∈ las, y.2 % n = 0 ∧ s.reachSpace c sp acc n y.2 ≠ .fault 4)
    (hw : ∃ y ∈ las, s.reachSpace c sp acc n y.2 = .wait) : s.checkArrivals c sp acc n vec las = .wait .translation := by
  have hm : (las.map fun x => (x.1, x.2, s.reachSpace c sp acc n x.2)).any (fun x => x.2.2 == Reach.wait) = true := by
    simpa [Function.comp_def] using hw
  simp only [State.checkArrivals, find?_misaligned_none n las fun y hy => (h y hy).1, firstFault_none s c sp acc n las 4 fun y hy => (h y hy).2,
    hm, if_true]

theorem any_wait_false (h : ∀ y ∈ las, s.reachSpace c sp acc n y.2 ≠ .wait) :
    (las.map fun x => (x.1, x.2, s.reachSpace c sp acc n x.2)).any (fun x => x.2.2 == Reach.wait) = false := by
  simpa [Function.comp_def] using h

/-- A protection fault comes last of the causes (R130). -/
theorem checkArrivals_denied (x : Nat × Nat)
    (h : ∀ y ∈ las, y.2 % n = 0 ∧ s.reachSpace c sp acc n y.2 ≠ .fault 4 ∧ s.reachSpace c sp acc n y.2 ≠ .wait)
    (hx : las.find? (fun x => s.reachSpace c sp acc n x.2 == .fault 5) = some x) :
    s.checkArrivals c sp acc n vec las = .trap 0x05 x.2 (if vec then some x.1 else none) := by
  simp [State.checkArrivals, find?_misaligned_none n las fun y hy => (h y hy).1, firstFault_none s c sp acc n las 4 fun y hy => (h y hy).2.1,
    any_wait_false s c sp acc n las fun y hy => (h y hy).2.2, firstFault_map, hx]

/-- Lanes that all arrive, each at its place. -/
theorem arrived_map (f : Nat → Loc) (h : ∀ y ∈ las, s.reachSpace c sp acc n y.2 = .at_ (f y.2)) :
    arrived (las.map fun x => (x.1, x.2, s.reachSpace c sp acc n x.2)) = las.map fun x => ⟨x.1, x.2, f x.2⟩ := by
  induction las with
  | nil => rfl
  | cons y las ih =>
    simp only [List.map_cons, h y (by simp), arrived, ih fun z hz => h z (by simp [hz])]

/-- Lanes that all arrive pass, where no engine owns their lines and no store of another is unseen. -/
theorem checkArrivals_ok (f : Nat → Loc)
    (h : ∀ y ∈ las, y.2 % n = 0 ∧ s.reachSpace c sp acc n y.2 = .at_ (f y.2) ∧ s.mustWait (f y.2) = false)
    (hu : s.unseenStore c.pid (las.map fun x => (f x.2).span n).flatten = none) :
    s.checkArrivals c sp acc n vec las = .ok (las.map fun x => ⟨x.1, x.2, f x.2⟩) := by
  have hne (r : Reach) (hr : ∀ l, r ≠ .at_ l) : ∀ y ∈ las, s.reachSpace c sp acc n y.2 ≠ r :=
    fun y hy e => hr _ (e.symm.trans (h y hy).2.1)
  have hfree : (las.map fun x => (⟨x.1, x.2, f x.2⟩ : LaneAcc)).find? (fun x => s.mustWait x.loc) = none := by
    rw [List.find?_eq_none]
    simp only [List.mem_map, forall_exists_index, and_imp, forall_apply_eq_imp_iff₂]
    exact fun y hy => by simp [(h y hy).2.2]
  simp only [State.checkArrivals, find?_misaligned_none n las fun y hy => (h y hy).1,
    firstFault_none s c sp acc n las _ (hne (.fault 4) (by simp)), firstFault_none s c sp acc n las _ (hne (.fault 5) (by simp)),
    any_wait_false s c sp acc n las (hne .wait (by simp)), arrived_map s c sp acc n las f fun y hy => (h y hy).2.1, hfree, List.map_map,
    Function.comp_def, hu, Bool.false_eq_true, if_false]

end

theorem laneAddrs_eq (s : State) (c : Ctx) (a sa : BitVec 7) (hlen : c.pfx.length ≤ 2) (hlt : ∀ x ∈ c.pfx, x < 2 ^ 24) :
    s.laneAddrs c a sa = (lanesOf c.p.mask).map fun l =>
      (l, (s.readS64 c.pid c.p sa.toNat + (s.readV c.pid a.toNat l).zeroExtend 64 + widenedImm c.pfx (0#0)).toNat) := by
  simp only [State.laneAddrs, Ctx.lanes, addrOf_eq_toNat, BitVec.ofNat_toNat, Ctx.byteOffset, widenedImm_eq_ofInt c.pfx (0#0) hlen hlt]
  rfl

theorem scalarAddr_eq (s : State) (c : Ctx) (sa size : Nat) (o : BitVec 7) (hlen : c.pfx.length ≤ 2) (hlt : ∀ x ∈ c.pfx, x < 2 ^ 24) :
    s.scalarAddr c sa size o = (s.readS64 c.pid c.p sa + widenedImm c.pfx o * BitVec.ofNat 64 size).toNat := by
  rw [State.scalarAddr, addrOf_eq_toNat, widenedImm_eq_ofInt c.pfx o hlen hlt, BitVec.ofInt_mul, BitVec.ofInt_natCast]
  simp

/-- Settles O32: each check of R130 by its own lemma, on the addresses that the pin has redirected. -/
theorem accessChecks : Obligations.AccessChecks := by
  unfold Obligations.AccessChecks
  intro s c sp acc n vec
  refine ⟨fun hlen hlt => ⟨fun a sa => laneAddrs_eq s c a sa hlen hlt, fun sa size o => scalarAddr_eq s c sa size o hlen hlt⟩, fun las => ?_⟩
  refine ⟨?_, ?_, ?_, ?_, ?_, ?_, ?_⟩
  · rintro x xs rfl hp rfl
    exact checkAll_unpinned s c acc n vec xs x hp
  · rintro p rfl hp
    rw [checkAll_pinned s c acc n vec las p hp, checkArrivals_v, checkAll_other s c .g acc n vec _ (by simp)]
    rfl
  · intro x hsp hx
    rw [checkAll_other s c sp acc n vec las hsp, checkArrivals_misaligned s c sp acc n vec las x hx]
  · intro x hsp ha hx
    rw [checkAll_other s c sp acc n vec las hsp, checkArrivals_absent s c sp acc n vec las x ha hx]
  · intro hsp ha hw
    rw [checkAll_other s c sp acc n vec las hsp, checkArrivals_moving s c sp acc n vec las ha hw]
  · intro x hsp ha hx
    rw [checkAll_other s c sp acc n vec las hsp, checkArrivals_denied s c sp acc n vec las x ha hx]
  · intro f hsp ha hu
    rw [checkAll_other s c sp acc n vec las hsp, checkArrivals_ok s c sp acc n vec las f ha hu]

end Sys2Proof.Machine
end

section
/-! PROOF. Bundles, words that are no instruction, and the events of paths that wait for time (O48). -/

namespace Sys2Proof.Machine

/-! The turn of a path (R307). -/

section
variable {s : State} {pid : Nat} {p : Path} (k : Nat → Path → State → State) (hcur : s.cur = .path pid) (hp : s.path pid = some p)
  (hmay : s.mayIssue pid p = true)
include hcur hp hmay

/-- With no trap to take a path does what its word says. -/
theorem pathTurn_of_none (hd : p.nextDue = none) : pathTurn k s = .next (k pid p s) := by
  simp [pathTurn, hcur, hp, hmay, hd]

/-- Before the first word of a bundle a due trap is taken. -/
theorem pathTurn_of_due {d : DueTrap} (hd : p.nextDue = some d) (hh : p.hints = []) : pathTurn k s = .next (s.takeDue pid) := by
  simp [pathTurn, hcur, hp, hmay, hd, hh]

end

theorem takeDue_eq {s : State} {pid : Nat} {p : Path} {d : DueTrap} (hp : s.path pid = some p) (hd : p.nextDue = some d) (hh : p.hints = []) :
    s.takeDue pid = (s.setPath pid { p with due := p.due.erase d }).takeTrap pid d.cause p.pc d.eaux d.lane := by
  simp [State.takeDue, hp, hd, Path.bundleStart, hh]

/-- The first due trap is the next one, unless it is a helper fault that waits for the eret of another (R296). -/
theorem nextDue_of_head {p : Path} {d : DueTrap} {ds : List DueTrap} (h : p.due = d :: ds) (hd : d.cause ≠ 0x09 ∨ p.helperTrap = 0) :
    p.nextDue = some d := by
  rw [Path.nextDue, h, List.find?_cons_of_pos]
  simpa using hd

theorem nextDue_of_helperTrap {p : Path} (h : p.helperTrap ≠ 0) (hd : ∀ d ∈ p.due, d.cause = 0x09) : p.nextDue = none := by
  rw [Path.nextDue, List.find?_eq_none]
  intro d hm
  simp [hd d hm, h]

/-! Words of the hint major (R18). -/

theorem fld_major_iff (w : Word) : fld w.toNat 26 6 = 0x3F ↔ w.extractLsb' 26 6 = 0x3F := by
  rw [fld_toNat, ← BitVec.toNat_inj]; rfl

/-- Before a bundle has hint words no word of it but its target is defective. -/
theorem defectiveWord_nil (w : Word) : defectiveWord [] w = w := by
  unfold defectiveWord
  cases listedTarget w.toNat <;> rfl

/-! Events that wait for time. -/

section
variable {s : State} {pid : Nat} {p : Path} (hp : s.path pid = some p)
include hp

theorem execPathAgeLimit_first (hst : p.st = .ready) (hage : p.readyAt + 256 ≤ s.icc (coreOf pid))
    (hfirst : ((s.pipePaths (coreOf pid) (s.issueWave pid % 4)).find? fun e => e.2.st == .ready).map (·.1) = some pid) :
    execPathAgeLimit pid s = .next { s with cur := .path pid } := by
  simp only [execPathAgeLimit, hp]
  exact if_pos ⟨hst, hage, hfirst⟩

theorem execSleepExpire_early (h : s.icc (coreOf pid) < p.readyAt + p.sleep) : execSleepExpire pid s = .next s := by
  simp [execSleepExpire, hp, Nat.not_le.mpr h]

theorem execSleepExpire_over (hpos : 0 < p.sleep) (h : p.readyAt + p.sleep ≤ s.icc (coreOf pid)) (hhold : p.hold = false)
    (hrun : s.run.running = true) (hhalt : s.run.halted = false) (hstop : s.clusterStopped (clusterOf (coreOf pid)) = false)
    (hst : p.st = .waiting) :
    execSleepExpire pid s = .next (s.setPath pid { p with sleep := 0, st := .ready, readyAt := p.readyAt + p.sleep }) := by
  simp [execSleepExpire, hp, hpos, h, hhold, hrun, hhalt, hstop, hst]

theorem execSchStallExpire_eq (hst : p.st = .waiting) (hw : p.wait = .hold) (hh : p.hints ≠ []) :
    execSchStallExpire pid s = .next
      (if p.issuedAt + (bundleSch p.hints).2 ≤ s.icc (coreOf pid) then
        s.setPath pid { p with st := .ready, wait := .none, readyAt := p.issuedAt + (bundleSch p.hints).2 } else s) := by
  by_cases h : p.issuedAt + (bundleSch p.hints).2 ≤ s.icc (coreOf pid) <;> simp [execSchStallExpire, hp, hst, hw, hh, h]

variable {t0 : Nat} (ht : p.waitFrom = some t0)
include ht

theorem execWaitLimit_within
    (h : (s.core (coreOf pid)).wlim.toNat = 0 ∨ s.clk - t0 ≤ (s.core (coreOf pid)).wlim.toNat * 65536) : execWaitLimit pid s = .next s := by
  simp only [execWaitLimit, hp, ht]
  refine if_neg fun g => ?_
  obtain ⟨_, _, hne, hlt, _⟩ := g
  omega

theorem execWaitLimit_over (hst : p.st = .waiting) (hne : (s.core (coreOf pid)).wlim.toNat ≠ 0)
    (hlt : (s.core (coreOf pid)).wlim.toNat * 65536 < s.clk - t0) (hstop : s.clusterStopped (clusterOf (coreOf pid)) = false)
    (hmay : s.mayIssue pid { p with wait := .none } = true) :
    execWaitLimit pid s =
      .next ((s.takeTrap pid 0x12 p.bundleStart (BitVec.ofNat 64 ((s.clk - t0) / 65536)) none).unstep pid) := by
  simp only [execWaitLimit, hp, ht]
  exact if_pos ⟨.inl hst, by simp [hstop], hne, hlt, hmay⟩

end

/-- R211: a wave whose only path has been parked for 64 cc at a rejoin that cannot complete. -/
theorem execRejoinDeadlock_single {s : State} {wid pid id : Nat} {p : Path} (hps : s.pathsOf wid = [(pid, p)]) (hst : p.st = .parkedRejoin)
    (htok : p.token = some id) (hhold : p.hold = false) (hage : p.readyAt + 64 ≤ s.icc (coreOf pid))
    (hnone : (s.tokensOf wid).any (s.completes wid) = false) (hrun : s.run.running = true) (hhalt : s.run.halted = false)
    (hstop : s.clusterStopped (clusterOf (coreOf pid)) = false) :
    execRejoinDeadlock wid s = .next ((s.setPath pid { p with parkedTrap := some (id, if p.sys then 2 else 1) }).takeTrap pid 0x0A p.pc
      (BitVec.ofNat 64 (2 ^ (pid % 4) + id * 256)) none) := by
  simp [execRejoinDeadlock, hps, hst, hhold, hage, hnone, hrun, hhalt, hstop, Path.parkedAt, htok]

section
variable {s : State} {pid : Nat} {p : Path} {x : Token} (hp : s.path pid = some p)
  (hx : s.innermost pid p = some x)
include hp hx

/-- R212: a forced token is tested at once where its path is parked. -/
theorem execPathForceMerge_parked (hh : isHelper pid = false) (hst : p.st = .parkedRejoin) :
    execPathForceMerge pid s = .next ((s.setTokens (pid / 4) (replaceToken (s.tokensOf (pid / 4))
      { x with forced := true, awaits := false })).completeTokens (pid / 4) 65) := by
  simp [execPathForceMerge, hp, hh, hx, hst]

/-- R212: and when a path next arrives where its path has left the rejoin for the trap. -/
theorem execPathForceMerge_trapped (hh : isHelper pid = false) (hst : p.st ≠ .parkedRejoin) (hpt : p.parkedTrap.map (·.1) = some x.id)
    (hf : x.forced = false) :
    execPathForceMerge pid s = .next ((s.setTokens (pid / 4) (replaceToken (s.tokensOf (pid / 4))
      { x with forced := true, awaits := true })).completeTokens (pid / 4) 65) := by
  have hne : (p.st != .parkedRejoin) = true := by simpa using hst
  simp [execPathForceMerge, hp, hh, hx, hpt, hf, hne]

theorem execPathForceMerge_elsewhere (hst : p.st ≠ .parkedRejoin) (hpt : p.parkedTrap.map (·.1) ≠ some x.id) :
    execPathForceMerge pid s = .next s := by
  simp [execPathForceMerge, hp, hx, hst, hpt]

end

/-- Settles O48: the turn of a path by its two branches, and each event by the branch that its hypotheses choose. -/
theorem bundlesAndPathEvents : Obligations.BundlesAndPathEvents := by
  unfold Obligations.BundlesAndPathEvents
  refine ⟨?_, ?_, ?_, ?_⟩
  · intro s pid p hcur hp hmay joined
    have hjoined (w : Word) : s.takeHint pid p w = joined w := by
      simp only [State.takeHint, joined]
      cases p.hints <;> rfl
    refine ⟨fun hd => ?_, ?_, ?_, ?_⟩
    · have turn (k : Nat → Path → State → State) : pathTurn k s = .next (k pid p s) := pathTurn_of_none k hcur hp hmay hd
      refine ⟨fun i => ?_, fun m => ?_, fun y u n => ?_, fun w hw hh => ?_, fun w hw => ?_, fun cause addr hsys => ?_,
        fun cause addr w hhelp hsys hwave hpc => ?_⟩
      · rw [exec_pfx, execPfx, turn, hjoined]
      · rw [exec_mod, execMod, turn, hjoined]
      · rw [exec_sch, execSch, turn, hjoined]
      · rw [exec_notAnInstruction, execNotAnInstruction, turn]
        simp only [fld_major_iff, if_neg hw, hh, Path.bundleStart, defectiveWord_nil]
      · rw [exec_notAnInstruction, execNotAnInstruction, turn]
        simp only [fld_major_iff, hw, if_true, hjoined]
      · rw [exec_notAnInstruction, execNotAnInstruction, turn]
        simp [hsys]
      · rw [exec_notAnInstruction, execNotAnInstruction, turn]
        simp [hsys, hhelp, hwave, hpc]
    · intro d hd hh
      rw [exec_deferredTrap, execDeferredTrap, pathTurn_of_due _ hcur hp hmay hd hh, takeDue_eq hp hd hh]
    · exact fun d ds h hd => nextDue_of_head h hd
    · intro h hd
      rw [exec_deferredTrap, execDeferredTrap, pathTurn_of_none _ hcur hp hmay (nextDue_of_helperTrap h hd)]
  · intro s pid p hp
    refine ⟨?_, ?_, ?_, ?_, ?_⟩
    · exact execPathAgeLimit_first hp
    · exact fun _ => execSleepExpire_early hp
    · exact execSleepExpire_over hp
    · exact execSchStallExpire_eq hp
    · intro t0 ht hst lim
      exact ⟨execWaitLimit_within hp ht, execWaitLimit_over hp ht hst⟩
  · intro s wid pid id p hps _ hst htok hhold hage hnone hrun hhalt hstop
    exact execRejoinDeadlock_single hps hst htok hhold hage hnone hrun hhalt hstop
  · intro s pid p x hp hh hx
    exact ⟨execPathForceMerge_parked hp hx hh, execPathForceMerge_trapped hp hx hh, execPathForceMerge_elsewhere hp hx⟩

end Sys2Proof.Machine
end

section
/-! PROOF. Special registers and descriptors (O9). -/

namespace Sys2Proof.Machine

/-- The scalar-valued special registers (R16). -/
def scalarSrs : List Nat :=
  [0x010, 0x011, 0x012, 0x013, 0x014] ++ (List.range 8).map (0x018 + ·) ++ (List.range 8).map (0x020 + ·)
    ++ [0x030, 0x031, 0x032, 0x038, 0x040, 0x041, 0x042, 0x043, 0x044]

theorem clk_halves (n : Nat) :
    [BitVec.ofNat 32 n, BitVec.ofNat 32 (n / 2 ^ 32)] = [(BitVec.ofNat 64 n).extractLsb' 0 32, (BitVec.ofNat 64 n).extractLsb' 32 32] := by
  simp only [List.cons.injEq, and_true]
  constructor
  · apply BitVec.eq_of_toNat_eq; simp
  · apply BitVec.eq_of_toNat_eq; simp [Nat.shiftRight_eq_div_pow]; omega

/-- The table of R16 lists what the model reads from each register. -/
theorem srTable_eq (s : State) (c : Ctx) (w : Wave) (b : Block) : srTable s c w b = scalarSrs.map fun n => (n, s.readSr c w b n) := by
  rw [srTable, ← clk_halves]
  rfl

theorem mem_srTable (s : State) (c : Ctx) (w : Wave) (b : Block) (n : Nat) (vs : List Word) :
    (n, vs) ∈ srTable s c w b ↔ n ∈ scalarSrs ∧ vs = s.readSr c w b n := by
  rw [srTable_eq, List.mem_map]
  constructor
  · rintro ⟨m, hm, e⟩
    obtain ⟨rfl, rfl⟩ := Prod.mk.inj e
    exact ⟨hm, rfl⟩
  · rintro ⟨hn, rfl⟩
    exact ⟨n, hn, rfl⟩

theorem srKind_scalar_iff (n : Nat) : (∃ k, srKind n = some (.scalar k)) ↔ n ∈ scalarSrs := by
  have h : n ∈ scalarSrs ↔ (0x010 ≤ n ∧ n ≤ 0x014) ∨ (0x018 ≤ n ∧ n ≤ 0x027) ∨ (0x030 ≤ n ∧ n ≤ 0x032) ∨ n = 0x038 ∨ (0x040 ≤ n ∧ n ≤ 0x044) := by
    simp [scalarSrs, List.range_succ]
    omega
  rw [h]
  unfold srKind
  split_ifs <;> simp <;> omega

theorem srKind_of_mem {n : Nat} (h : n ∈ scalarSrs) : ∃ k, srKind n = some (.scalar k) := (srKind_scalar_iff n).mpr h

/-- A number that R16 does not list as scalar-valued is misnamed (R11, R17). -/
theorem misnames_of_not_mem {n : BitVec 12} (h : n.toNat ∉ scalarSrs) (d : BitVec 7) :
    misnames (.srd d n) = true ∧ misnames (.swr d n) = true := by
  rw [← srKind_scalar_iff] at h
  simp only [misnames]
  cases e : srKind n.toNat with
  | none => simp
  | some k =>
    cases k with
    | perLane => simp
    | scalar k => exact absurd ⟨k, e⟩ h

/-! SRD (R70). -/

theorem exec_srd_misnamed {s : State} {c : Ctx} {d : BitVec 7} {n : BitVec 12} (h : taken (.srd d n) s c = true) (hn : n.toNat ∉ scalarSrs) :
    exec (.srd d n) s = .next ((s.takeTrap c.pid 0x01 c.first (BitVec.ofNat 64 c.word) none).unstep c.pid) := by
  rw [exec_srd, execSrd]
  exact issueWith_of_misnames _ _ h (misnames_of_not_mem hn d).1

/-- The state in which a register that the path may not name leaves it: 0x05 with a free sr.eaux (log entry 21). -/
def State.trapsOpen (s : State) (c : Ctx) (cause : Nat) : State :=
  (s.takeFree.takeTrap c.pid cause c.first s.openAux none).unstep c.pid

theorem exec_srd_ready {s : State} {c : Ctx} {d : BitVec 7} {n : BitVec 12} {w : Wave} {b : Block} (h : ready (.srd d n) s c = true)
    (hw : s.wave c.wid = some w) (hb : s.blockOf c.pid = some b) (hn : n.toNat ∈ scalarSrs) :
    exec (.srd d n) s = .next
      (if srSystem n.toNat && !c.p.sys then s.trapsOpen c 0x05
       else (s.writeSs c.pid d.toNat (s.readSr c w b n.toNat)).retire c c.nextPc none) := by
  obtain ⟨k, hk⟩ := srKind_of_mem hn
  rw [exec_srd, execSrd, issue_of_ready _ h, entered_srd]
  simp only [hk, hw, hb]
  split <;> rfl

/-! SWR (R70). -/

theorem exec_swr_misnamed {s : State} {c : Ctx} {r : BitVec 7} {n : BitVec 12} (h : taken (.swr r n) s c = true) (hn : n.toNat ∉ scalarSrs) :
    exec (.swr r n) s = .next ((s.takeTrap c.pid 0x01 c.first (BitVec.ofNat 64 c.word) none).unstep c.pid) := by
  rw [exec_swr, execSwr]
  exact issueWith_of_misnames _ _ h (misnames_of_not_mem hn r).2

/-- Whether a path may write a special register: sr.awb and sr.awl in the leader's wave, those of system mode in that mode (R16). -/
def mayWriteSr (c : Ctx) (w : Wave) (n : Nat) : Bool :=
  if n = 0x030 ∨ n = 0x031 then w.index == 0 else srSystem n && c.p.sys

theorem exec_swr_ready {s : State} {c : Ctx} {r : BitVec 7} {n : BitVec 12} {w : Wave} (h : ready (.swr r n) s c = true)
    (hw : s.wave c.wid = some w) (hn : n.toNat ∈ scalarSrs) :
    exec (.swr r n) s = .next
      (if mayWriteSr c w n.toNat then (s.writeSr c n.toNat r.toNat).retire c c.nextPc none else s.trapsOpen c 0x05) := by
  obtain ⟨k, hk⟩ := srKind_of_mem hn
  rw [exec_swr, execSwr, issue_of_ready _ h, entered_swr]
  simp only [hk, hw, mayWriteSr]
  by_cases hawb : n.toNat = 0x030 ∨ n.toNat = 0x031
  · by_cases hl : w.index = 0 <;> simp [hawb, hl, conclude, State.trapsOpen]
  · by_cases hs : (srSystem n.toNat && c.p.sys) = true <;> simp only [hawb, hs, if_true, if_false, Bool.false_eq_true] <;> rfl

theorem mayWriteSr_leader (c : Ctx) (w : Wave) {n : Nat} (h : n = 0x030 ∨ n = 0x031) : (mayWriteSr c w n = true) = (w.index = 0) := by
  simp [mayWriteSr, h]

/-- The registers whose Write column says none are scalar-valued, below 0x040, and not sr.awb or sr.awl. -/
theorem mayWriteSr_readOnly {n : Nat} (h : n ∈ srReadOnly) (c : Ctx) (w : Wave) : n ∈ scalarSrs ∧ mayWriteSr c w n = false := by
  have hn : n ∈ scalarSrs ∧ n ≠ 0x030 ∧ n ≠ 0x031 ∧ srSystem n = false := by
    revert n
    decide
  obtain ⟨hm, h0, h1, hs⟩ := hn
  exact ⟨hm, by simp [mayWriteSr, h0, h1, hs]⟩

theorem mem_scalarSrs {n : Nat} (h : n ∈ scalarSrs) : n ∈ srReadOnly ∨ n ∈ [0x030, 0x031, 0x040, 0x041, 0x042, 0x043, 0x044] := by
  revert n
  decide

/-! Descriptors (R47, R48). -/

/-- The validity of a descriptor on its word. -/
theorem descriptorValid_eq (v : Word) : descriptorValid v = (Desc.ofWord v).valid := by
  have hinf := (v.extractLsb' 6 2).isLt
  have hnan := (v.extractLsb' 4 2).isLt
  have hsgn : ((v.extractLsb' 13 1).toNat == 1).toNat = (v.extractLsb' 13 1).toNat := by
    have h := (v.extractLsb' 13 1).isLt
    interval_cases (v.extractLsb' 13 1).toNat <;> rfl
  have hovf : ((v.extractLsb' 3 1).toNat == 1) = v.getLsbD 3 := by rw [← fld_toNat, fld_bit]
  simp only [descriptorValid, Desc.valid, Desc.ofWord, fld_toNat, hsgn, hovf]
  rw [Bool.eq_iff_iff]
  simp only [Bool.and_eq_true, Bool.or_eq_true, Bool.not_eq_true', Bool.or_eq_false_iff, Bool.and_eq_false_iff, beq_iff_eq, bne_iff_ne, ne_eq,
    bne_eq_false_iff_eq, decide_eq_true_eq, decide_eq_false_iff_not, ← BitVec.toNat_inj, BitVec.toNat_ofNat,
    show (0 : BitVec 2).toNat = 0 from rfl, show (1 : BitVec 2).toNat = 1 from rfl, show (2 : BitVec 2).toNat = 2 from rfl,
    show (3 : BitVec 2).toNat = 3 from rfl]
  cases v.getLsbD 3
  · simp only [eq_self, or_true, true_or, and_true]
    omega
  · simp only [Bool.true_eq_false, or_false]
    omega

/-- NFSET (R71). -/
theorem exec_nfset_ready {s : State} {c : Ctx} {r : BitVec 7} {n : BitVec 2} (h : ready (.nfset r n) s c = true) :
    exec (.nfset r n) s = .next
      (if descriptorValid (s.readS c.pid c.p r.toNat) then
         (s.onBlock (s.bidOf c.pid) fun b => { b with nf := tset b.nf n.toNat (s.readS c.pid c.p r.toNat) }).retire c c.nextPc none
       else s.trapsOpen c 0x13) := by
  rw [exec_nfset, execNfset, issue_of_ready _ h, entered_nfset, descriptorValid_eq]
  simp only
  split <;> rfl

/-- Settles O9: SRD, SWR and NFSET by one lemma each, and the table of R16 by `mem_srTable`. -/
theorem specialRegisters : Obligations.SpecialRegisters := by
  unfold Obligations.SpecialRegisters
  refine ⟨fun s c d n w b => ⟨fun h hn => ?_, fun h hw hb => ⟨fun vs hvs hmode => ?_, ?_⟩⟩, ?_⟩
  · refine exec_srd_misnamed h fun hm => ?_
    exact hn _ ((mem_srTable s c w b n.toNat _).mpr ⟨hm, rfl⟩)
  · obtain ⟨hm, rfl⟩ := (mem_srTable s c w b n.toNat vs).mp hvs
    have hs : (srSystem n.toNat && !c.p.sys) = false := by
      rcases hmode with hlt | hsys
      · simp [srSystem, hlt]
      · simp [hsys]
    rw [exec_srd_ready h hw hb hm, hs]
    rfl
  · rintro ⟨vs, hvs⟩ hge hsys
    obtain ⟨hm, rfl⟩ := (mem_srTable s c w b n.toNat vs).mp hvs
    have hs : (srSystem n.toNat && !c.p.sys) = true := by simp [srSystem, hge, hsys]
    rw [exec_srd_ready h hw hb hm, hs]
    rfl
  · intro s c r w lo mid top pair denied hw
    refine ⟨fun h => ?_, fun h => ?_, fun h => ?_, fun h => ?_, fun h => ?_, fun h => ?_, fun h => ?_, fun n hn h => ?_, fun n hro hn h => ?_,
      fun n h => exec_nfset_ready h⟩
    · exact (exec_swr_ready h hw (by decide)).trans (by simp only [mayWriteSr_leader c w (n := (0x030 : BitVec 12).toNat) (.inl rfl)]; rfl)
    · exact (exec_swr_ready h hw (by decide)).trans (by simp only [mayWriteSr_leader c w (n := (0x031 : BitVec 12).toNat) (.inr rfl)]; rfl)
    · exact exec_swr_ready h hw (by decide)
    · exact exec_swr_ready h hw (by decide)
    · exact exec_swr_ready h hw (by decide)
    · exact exec_swr_ready h hw (by decide)
    · exact exec_swr_ready h hw (by decide)
    · obtain ⟨hm, hno⟩ := mayWriteSr_readOnly hn c w
      rw [exec_swr_ready h hw hm, hno]
      rfl
    · exact exec_swr_misnamed h fun hm => (mem_scalarSrs hm).elim hro hn

end Sys2Proof.Machine
end

section
/-! PROOF. The breakpoint instruction (O12): the trap that a wave's path takes, with or without a trace, and the helper fault of
a helper path. -/

namespace Sys2Proof.Machine

/-! What the trace changes of a path. -/

/-- A path as the trace leaves it: it may owe a SYNC, and its records may wait for that. -/
def Path.traced (p q : Path) : Prop := ∃ b m, q = { p with traceSync := b, traceMute := m }

theorem Path.traced_refl (p : Path) : p.traced p := ⟨p.traceSync, p.traceMute, rfl⟩

theorem Path.traced_trans {p q r : Path} (h : p.traced q) (g : q.traced r) : p.traced r := by
  obtain ⟨_, _, rfl⟩ := h
  obtain ⟨b, m, rfl⟩ := g
  exact ⟨b, m, rfl⟩

/-- A state whose running context is that of another but for the SYNCs that a core's paths owe. -/
def State.owes (s t : State) : Prop := t.run = s.run ∨ ∃ core m, t.run = (s.owePaths core m).run

theorem tracePut_owes (s : State) (core : Nat) (bs : List Byte) : s.owes (s.tracePut core bs) :=
  (tracePut_run s core bs).imp_right fun ⟨m, h⟩ => ⟨core, m, h⟩

theorem traceResume_owes (s : State) (core len : Nat) : s.owes (s.traceResume core len) :=
  (traceResume_run s core len).imp_right fun ⟨m, h⟩ => ⟨core, m, h⟩

theorem owes_path {s t : State} (h : s.owes t) {pid : Nat} {p : Path} (hp : s.path pid = some p) : ∃ q, t.path pid = some q ∧ p.traced q := by
  rcases h with h | ⟨core, m, h⟩
  · exact ⟨p, by rw [State.path, h]; exact hp, p.traced_refl⟩
  · let owe (i : Nat) (q : Path) : Path := if i / 128 == core then { q with traceSync := true, traceMute := q.traceMute || m } else q
    have e : t.run.paths = s.run.paths.map fun x => (x.1, owe x.1 x.2) := by
      rw [h, State.owePaths]
      refine List.map_congr_left fun x _ => ?_
      simp only [owe]
      split <;> rfl
    refine ⟨owe pid p, ?_, ?_⟩
    · rw [State.path, e, tget_map, show tget s.run.paths pid = some p from hp]; rfl
    · simp only [owe]
      split
      · exact ⟨_, _, rfl⟩
      · exact p.traced_refl

theorem traceAfterSync_path {s : State} {pid : Nat} {p : Path} (hp : s.path pid = some p) (bs : List Byte) :
    ∃ q, (s.traceAfterSync pid bs).path pid = some q ∧ p.traced q := by
  obtain ⟨q, hq, hpq⟩ := owes_path (traceResume_owes s (coreOf pid) bs.length) hp
  simp only [State.traceAfterSync, hq]
  split
  · exact ⟨q, hq, hpq⟩
  · obtain ⟨r, hr, hqr⟩ := owes_path (tracePut_owes _ (coreOf pid) bs) hq
    exact ⟨r, hr, Path.traced_trans hpq hqr⟩

theorem traceSync_path {s : State} {pid : Nat} {p : Path} (hp : s.path pid = some p) :
    ∃ q, (s.traceSync pid).path pid = some q ∧ p.traced q := by
  unfold State.traceSync
  split
  · exact ⟨p, hp, p.traced_refl⟩
  simp only [hp]
  split
  · obtain ⟨q, hq, hpq⟩ := owes_path (traceResume_owes s (coreOf pid) 32) hp
    obtain ⟨r, hr, hqr⟩ := owes_path (tracePut_owes ((s.traceResume (coreOf pid) 32).onPath pid fun q => { q with
      traceSync := false, traceMute := false }) (coreOf pid) _) (by rw [State.onPath_path_same, hq]; rfl)
    refine ⟨r, hr, Path.traced_trans hpq (Path.traced_trans ⟨_, _, rfl⟩ hqr)⟩
  · exact ⟨p, hp, p.traced_refl⟩

/-- A FLOW record of a trap. -/
theorem traceFlow_trap_path {s : State} {pid : Nat} {p : Path} (hp : s.path pid = some p) (pc slot : Nat) :
    ∃ q, (s.traceFlow pid 4 pc slot).path pid = some q ∧ p.traced q := by
  unfold State.traceFlow
  split
  · exact ⟨p, hp, p.traced_refl⟩
  · exact traceAfterSync_path hp _

@[simp] theorem dropClaim_path (s : State) (pid j : Nat) : (s.dropClaim pid).path j = s.path j := by
  unfold State.dropClaim
  dsimp only
  split <;> simp

@[simp] theorem unstep_run (s : State) (pid : Nat) : (s.unstep pid).run = s.run := by
  unfold State.unstep
  dsimp only
  split <;> rfl

/-! The trap of a wave's path (R302). -/

/-- A wave's path that may trap takes the four trap registers, system mode and the handler's PC, whatever the trace writes. -/
theorem takeTrap_trapped {s : State} {pid : Nat} {p : Path} {w : Wave} (cause epc : Nat) (eaux : DWord) (lane : Option Nat)
    (hp : s.path pid = some p) (hh : isHelper pid = false) (hw : s.wave (pid / 4) = some w) (hv : w.tvec ≠ 0)
    (hl : ¬ (p.sys = true ∧ p.ecause.getLsbD 8 = true)) (hc : cause < 256) :
    ∃ q, (s.takeTrap pid cause epc eaux lane).path pid = some q ∧ p.trapped q cause (BitVec.ofNat 64 epc) eaux w.tvec := by
  have hl' : ¬ (w.tvec = 0 ∨ (p.sys = true ∧ p.ecause.getLsbD 8 = true)) := fun h => h.elim hv hl
  simp only [State.takeTrap, hp, hh, hw, if_neg hl', Bool.false_eq_true, if_false]
  obtain ⟨p1, hp1, htr1⟩ := traceSync_path hp
  have hon (f : Path → Path) : (((s.traceSync pid).dropClaim pid).onPath pid f).path pid = some (f p1) := by
    rw [State.onPath_path_same, dropClaim_path, hp1, Option.map_some]
  refine (traceFlow_trap_path (hon _) (codeAddr w.tvec) (pid % 4)).imp fun q ⟨hq, htr⟩ => ⟨hq, ?_⟩
  obtain ⟨b, m, rfl⟩ := htr1
  obtain ⟨b', m', rfl⟩ := htr
  refine ⟨rfl, rfl, ?_, rfl, rfl, rfl, rfl, rfl, rfl⟩
  cases p.sys <;> simp <;> omega

/-! The fault of a helper path (R296). -/

theorem mem_dueInsert (ds : List DueTrap) (d : DueTrap) : d ∈ dueInsert ds d := by
  induction ds with
  | nil => simp [dueInsert]
  | cons e es ih =>
    rw [dueInsert]
    split
    · simp
    · simp [ih]

/-- An entry survives the removal of another. -/
theorem tget_tdel_other {α : Type} (m : Sparse α) (n j : Nat) (v : α) (h : j ≠ n) (hv : tget m j = some v) : tget (tdel m n) j = some v := by
  induction m with
  | nil => simp [tget] at hv
  | cons e m ih =>
    obtain ⟨k, w⟩ := e
    by_cases hjk : j = k
    · subst hjk
      simpa [tdel, tget, h] using hv
    · by_cases hlt : j < k
      · simp [tget, hjk, hlt] at hv
      · have hm : tget m j = some v := by simpa [tget, hjk, hlt] using hv
        by_cases hkn : k = n
        · simpa [tdel, hkn] using ih hm
        · simpa [tdel, tget, hkn, hjk, hlt] using ih hm

/-- The traps that are due to a path. -/
def State.dueOf (s : State) (j : Nat) : Option (List DueTrap) := (s.path j).map (·.due)

theorem dueOf_onPath (s : State) (i j : Nat) (f : Path → Path) (h : ∀ p, (f p).due = p.due) : (s.onPath i f).dueOf j = s.dueOf j := by
  by_cases e : j = i
  · subst e
    rw [State.dueOf, State.onPath_path_same, Option.map_map]
    simp [State.dueOf, Function.comp_def, h]
  · rw [State.dueOf, State.onPath_path_other _ _ _ _ e]; rfl

/-- A lane that goes back to its lender leaves every path the traps that it was due. -/
theorem dueOf_releaseLane (s : State) (pid lane j : Nat) (bit : Word) : (s.releaseLane pid lane bit).dueOf j = s.dueOf j := by
  unfold State.releaseLane
  split
  · rfl
  · rename_i h _
    have hret : (match tget h.iters lane with | some it => s.returnIteration h.recruiter it bit | none => s).dueOf j = s.dueOf j := by
      split
      · rw [State.returnIteration, State.markLoan, dueOf_onPath, dueOf_onPath]
        · exact fun _ => rfl
        · exact fun _ => rfl
      · rfl
    simp only [State.dueOf, State.onWave_path, State.setTokens_path] at hret ⊢
    rw [← hret]
    exact dueOf_onPath _ pid j _ fun _ => rfl

theorem dueOf_releaseLanes (pid j : Nat) (bit : Word) (ls : List Nat) (s : State) : (s.releaseLanes pid bit ls).dueOf j = s.dueOf j := by
  induction ls generalizing s with
  | nil => rfl
  | cons l ls ih => rw [State.releaseLanes, ih, dueOf_releaseLane]

@[simp] theorem dropHelper_path_same (s : State) (pid : Nat) : (s.dropHelper pid).path pid = none := tget_tdel_same _ _
@[simp] theorem dropHelper_helper_same (s : State) (pid : Nat) : (s.dropHelper pid).helper pid = none := tget_tdel_same _ _

theorem dropHelper_path_other {s : State} {pid j : Nat} {p : Path} (h : j ≠ pid) (hp : s.path j = some p) : (s.dropHelper pid).path j = some p :=
  tget_tdel_other _ _ _ _ h hp

/-- A helper path ends at a fault but 0x0C, and its recruiter is due 0x09. -/
theorem helperFault_ends {s : State} {pid : Nat} {h : Helper} {q : Path} (cause lane : Nat) (hh : s.helper pid = some h)
    (hne : h.recruiter ≠ pid) (hq : s.path h.recruiter = some q) (hc : cause ≠ 0x0C) :
    let t := s.helperFault pid cause lane
    t.helper pid = none ∧ t.path pid = none
      ∧ ∃ r, t.path h.recruiter = some r ∧ (⟨4, 0x09, h.faultAux cause lane, some lane, s.clk⟩ : DueTrap) ∈ r.due := by
  simp only [State.helperFault, hh, if_neg hc]
  refine ⟨dropHelper_helper_same _ _, dropHelper_path_same _ _, ?_⟩
  have hdue := dueOf_releaseLanes pid h.recruiter 0 (lanesOf h.lanes)
    (s.addDue h.recruiter ⟨4, 0x09, h.faultAux cause lane, some lane, s.clk⟩)
  rw [State.dueOf, State.dueOf, State.addDue, State.onPath_path_same, hq, Option.map_some, Option.map_some, Option.map_eq_some_iff] at hdue
  obtain ⟨r, hr, hrd⟩ := hdue
  exact ⟨r, dropHelper_path_other hne hr, hrd ▸ mem_dueInsert _ _⟩

/-- The cause stands in the low byte of a helper fault's sr.eaux (R296). -/
theorem faultAux_cause (h : Helper) (cause lane : Nat) : (h.faultAux cause lane).extractLsb' 0 8 = BitVec.ofNat 8 cause := by
  have above (a b : Nat) : a * 2 ^ 32 + b * 2 ^ 16 + lane * 256 + cause = 2 ^ 8 * (a * 2 ^ 24 + b * 2 ^ 8 + lane) + cause := by ring
  apply BitVec.eq_of_toNat_eq
  rw [Helper.faultAux, above, BitVec.extractLsb'_toNat, BitVec.toNat_ofNat, BitVec.toNat_ofNat, Nat.shiftRight_zero,
    Nat.mod_mod_of_dvd _ (Nat.pow_dvd_pow 2 (by decide)), Nat.mul_add_mod]

/-- A helper path's trap is a helper fault (R296). -/
theorem takeTrap_helper {s : State} {pid : Nat} {p : Path} (cause epc : Nat) (eaux : DWord) (hp : s.path pid = some p)
    (hh : isHelper pid = true) : s.takeTrap pid cause epc eaux none = s.helperFault pid cause (s.faultLane pid p) := by
  simp [State.takeTrap, hp, hh]

/-! BRKPT (R94). -/

theorem exec_brkpt_ready {s : State} {c : Ctx} (h : ready .brkpt s c = true) :
    exec .brkpt s = .next ((s.takeTrap c.pid 0x0E c.first 0 none).unstep c.pid) := by
  rw [exec_brkpt, execBrkpt, issue_of_ready _ h, entered_brkpt]
  rfl

/-- What a path that issues an instruction knows of itself. -/
theorem ready_path {i : Instr} {s : State} {c : Ctx} (h : ready i s c = true) : s.path c.pid = some c.p ∧ c = ctxOf i c.pid c.p s := by
  simp only [ready, checked, taken, Bool.and_eq_true, decide_eq_true_eq, beq_iff_eq] at h
  obtain ⟨⟨⟨⟨⟨⟨⟨⟨⟨⟨⟨⟨⟨⟨⟨⟨_, hp⟩, hc⟩, _⟩, _⟩, _⟩, _⟩, _⟩, _⟩, _⟩, _⟩, _⟩, _⟩, _⟩, _⟩, _⟩, _⟩ := h
  exact ⟨hp, hc⟩

/-- Settles O12: a wave's path takes the trap, and a helper path ends by a helper fault. -/
theorem breakpointInstruction : Obligations.BreakpointInstruction := by
  unfold Obligations.BreakpointInstruction
  refine ⟨fun s c w h hh hw hv hl => ⟨?_, fun hints => ?_⟩, fun s c h q hr hh hhelp hne hq => ?_⟩
  · obtain ⟨hp, _⟩ := ready_path h
    obtain ⟨q, hq, ht⟩ := takeTrap_trapped 0x0E c.first 0 none hp hh hw hv hl (by decide)
    exact ⟨_, q, exec_brkpt_ready h, by rw [State.path, unstep_run]; exact hq, ht⟩
  · obtain ⟨_, hc⟩ := ready_path h
    rw [hc]
    simp [ctxOf, Path.bundleStart, hints]
  · obtain ⟨hp, _⟩ := ready_path hr
    obtain ⟨hnone, hgone, r, hrp, hdue⟩ := helperFault_ends 0x0E (s.faultLane c.pid c.p) hhelp hne hq (by decide)
    have he : exec .brkpt s = .next ((s.helperFault c.pid 0x0E (s.faultLane c.pid c.p)).unstep c.pid) := by
      rw [exec_brkpt_ready hr, takeTrap_helper _ _ _ hp hh]
    refine ⟨_, r, _, he, ?_, ?_, ?_, hdue, rfl, faultAux_cause h _ _⟩
    · rw [State.helper, unstep_run]; exact hnone
    · rw [State.path, unstep_run]; exact hgone
    · rw [State.path, unstep_run]; exact hrp

end Sys2Proof.Machine
end

section
/-! PROOF. The halt, the save and the restore of a context, and the re-issue of a killed wave (O55). -/

namespace Sys2Proof.Machine

/-! The halt (R24, R96, R308). -/

/-- At its halt point a path waits for a load's data or sleeps, if it waits at all (R159). -/
theorem haltPoint_waiting (p : Path) (h : p.haltPoint.st = .waiting) : (∃ n, p.haltPoint.wait = .data n) ∨ p.haltPoint.sleep ≠ 0 := by
  by_cases hd : ∃ n, p.wait = .data n
  · obtain ⟨n, hn⟩ := hd
    exact .inl ⟨n, by simp [Path.haltPoint, hn]⟩
  · refine .inr fun hs => ?_
    have hs' : p.sleep = 0 := hs
    have hst : p.haltPoint.st = if p.st = .waiting ∧ p.sleep = 0 then .ready else p.st := by
      cases hw : p.wait <;> simp_all [Path.haltPoint]
    rw [hst] at h
    split at h
    · cases h
    · rename_i hn
      exact hn ⟨h, hs'⟩

theorem mayIssue_halted {s : State} (h : s.run.halted = true) (pid : Nat) (p : Path) : s.mayIssue pid p = false := by
  simp [State.mayIssue, h]

/-- What the halt of paths leaves, whatever came before it. -/
theorem haltPaths_frame (s : State) :
    (∀ k, (s.haltPaths.core k).claims = [])
      ∧ ∀ e ∈ s.haltPaths.run.paths, e.2.hints = [] ∧ (e.2.st = .waiting → (∃ n, e.2.wait = .data n) ∨ e.2.sleep ≠ 0) := by
  constructor
  · intro k
    have e : tget s.haltPaths.cores k = (tget s.cores k).map fun v => { v with claims := [] } :=
      tget_map s.cores (fun _ v => ({ v with claims := [] } : Core)) k
    rw [State.core, tgetD, e]
    cases tget s.cores k <;> rfl
  · intro e he
    simp only [State.haltPaths, State.mapPaths, List.mem_map] at he
    obtain ⟨x, _, rfl⟩ := he
    exact ⟨rfl, haltPoint_waiting _⟩

/-- The halt of a context ends with the halt of its paths, once traps, recalls and kills are done. -/
theorem haltContext_eq (s : State) :
    ∃ s3 : State, s.haltContext = { s3.haltPaths with run := { s3.haltPaths.run with halted := true } } := ⟨_, rfl⟩

theorem exec_preemptionRequest_running {s : State} (hr : s.run.running = true) (hh : s.run.halted = false) (hd : s.dev.dumpBusy = false) :
    exec .preemptionRequest s = .next s.haltContext := by
  simp [exec_preemptionRequest, execPreemptionRequest, hr, hh, hd]

/-! Re-issue (R254, R255). -/

section
variable {s : State} {wid : Nat} {w : Wave} {r : StartRecord} (hw : s.wave wid = some w) (hr : w.start = some r)
include hw hr

theorem exec_graphicsWaveReissue_not (h : w.killed = false ∨ s.run.running = false ∨ s.run.halted = true) :
    exec (.graphicsWaveReissue wid) s = .next s := by
  rcases h with h | h | h <;> simp [exec_graphicsWaveReissue, execGraphicsWaveReissue, hw, hr, h]

/-- A killed wave whose page is present starts at its entry, and what else there is stays. -/
theorem exec_graphicsWaveReissue_killed (hk : w.killed = true) (hrun : s.run.running = true) (hh : s.run.halted = false)
    (hp : w.reissues.1 = 0) : ∃ t, exec (.graphicsWaveReissue wid) s = .next t
      ∧ t.wave wid = some { w with killed := false, live := r.mask, lent := 0, due := [] }
      ∧ t.path (4 * wid) = some { Path.fresh w.entry r.mask (s.icc (wid / 32) + 1) with region := some ⟨w.entry, none, true, []⟩, due := w.due }
      ∧ (∀ pid, pid ≠ 4 * wid → t.path pid = s.path pid) ∧ t.mem = s.mem ∧ t.ops = s.ops := by
  refine ⟨((s.setWave wid { w with killed := false, live := r.mask, lent := 0, due := [] }).giveStart wid r).setPath (4 * wid)
    { startPath w.entry r true (s.icc (wid / 32) + 1) with due := w.due }, ?_, ?_, ?_, ?_, rfl, rfl⟩
  · simp [exec_graphicsWaveReissue, execGraphicsWaveReissue, hw, hr, hk, hrun, hh, hp]
  · exact tget_tset_same _ _ _
  · exact tget_tset_same _ _ _
  · exact fun pid hne => tget_tset_other _ _ _ _ hne

end

/-! The save (R310, R246). -/

/-- Without an open region there is nothing to commit before a save (R301). -/
theorem commitRegions_closed {s : State} (h : ∀ e ∈ s.run.paths, e.2.region = none) : s.commitRegions = s := by
  refine List.foldl_fixed' (fun e => commitRegion_closed s e.1 fun p hp => ?_) _
  exact h (e.1, p) (mem_of_tget _ _ _ hp)

/-- Whether a save is refused as things stand (R310, R361, R377). -/
def State.saveRefused (s : State) : Bool :=
  !s.run.halted || s.dev.dumpBusy || s.contextCores.any fun k => (s.cluster (clusterOf k)).stopping.isSome

theorem saveRefused_iff (s : State) : s.saveRefused = true ↔
    s.run.halted = false ∨ s.dev.dumpBusy = true ∨ ∃ k ∈ s.contextCores, (s.cluster (clusterOf k)).stopping ≠ none := by
  simp [State.saveRefused, Option.isSome_iff_ne_none, or_assoc]

theorem saveRefused_false {s : State} (hh : s.run.halted = true) (hd : s.dev.dumpBusy = false)
    (hst : ∀ k ∈ s.contextCores, (s.cluster (clusterOf k)).stopping = none) : s.saveRefused = false := by
  rw [← Bool.not_eq_true, saveRefused_iff]
  rintro (h | h | ⟨k, hk, hn⟩)
  · simp [hh] at h
  · simp [hd] at h
  · exact hn (hst k hk)

theorem exec_contextSave_refused {s : State} (h : s.saveRefused = true) : exec .contextSave s = .next s := if_pos h

/-- Operations in flight and granted passes are waited for. -/
theorem exec_contextSave_waits {s : State} (h : s.saveRefused = false) (hq : s.commitRegions.quiet = false) :
    exec .contextSave s = .next s.commitRegions := by
  rw [exec_contextSave, execContextSave]
  exact (if_neg (by rw [Bool.not_eq_true]; exact h)).trans (if_pos (by rw [hq]; rfl))

theorem quiet_false_of {s : State} (h : (∃ o ∈ s.ops, o.done = false) ∨ ∃ k, k < 32 ∧ (s.cluster k).passes ≠ []) : s.quiet = false := by
  rw [State.quiet]
  rcases h with ⟨o, ho, hd⟩ | ⟨k, hk, hp⟩
  · have : s.ops.all (·.done) = false := by simpa using ⟨o, ho, hd⟩
    simp [this]
  · have : (List.range Config.clusters).all (fun k => (s.cluster k).passes.isEmpty) = false := by
      simpa [Config.clusters] using ⟨k, hk, hp⟩
    simp [this]

/-- What a save captures of a context whose regions are closed. -/
def State.captured (s : State) : SavedContext :=
  { area := Config.saveArea s.free, root := s.dev.ptroot, context := s.run.saved
    sram := keysIn s.sram s.run.saved.sramRanges, vault := keysIn s.vault s.run.saved.vaultRanges
    bdeck := keysIn s.bdeck s.run.saved.deckRanges
    q0 := tsets [] (s.contextCores.map fun k => (k, (s.core k).q0))
    itemCounter := tsets [] (s.contextCores.map fun k => (k, (s.core k).itemCounter))
    wlim := tsets [] (s.contextCores.map fun k => (k, (s.core k).wlim))
    stoppedClusters := ((s.contextCores.map clusterOf).eraseDups).filter fun k => (s.cluster k).stopped }

/-- A core's own part of the context taken from it. -/
def Core.emptied (k : Core) : Core := { k with q0 := [], itemCounter := 0 }

/-- The machine after a save that writes no trace. -/
def State.afterSave (s : State) : State :=
  { s with
    run := Context.empty, saved := s.saved ++ [s.captured], ops := [], free := s.free + 1,
    mem := s.writeArea (Config.saveArea s.free) s.free,
    cores := s.cores.map fun k => (k.1, if s.contextCores.contains k.1 then k.2.emptied else k.2),
    clusters := s.clusters.map fun k => (k.1, if (s.contextCores.map clusterOf).contains k.1 then
      { k.2 with stopped := false, stopping := none, stepping := none, reservations := [] } else k.2) }

theorem exec_contextSave_quiet {s : State} (h : s.saveRefused = false) (hc : s.commitRegions = s) (hq : s.quiet = true)
    (ht : ∀ k, (s.core k).trEn = false) : exec .contextSave s = .next s.afterSave := by
  rw [exec_contextSave, execContextSave]
  refine (if_neg (by rw [Bool.not_eq_true]; exact h)).trans ?_
  rw [hc, if_neg (by simp [hq])]
  simp only [traceEvents_off s.contextCores s 3 0 ht]
  rfl

theorem afterSave_core (s : State) (k : Nat) :
    s.afterSave.core k = if s.contextCores.contains k then (s.core k).emptied else s.core k := by
  simp only [State.core, tgetD, State.afterSave]
  rw [tget_map _ fun n (v : Core) => if s.contextCores.contains n then v.emptied else v]
  cases tget s.cores k with
  | none => simp only [Option.map_none, Option.getD_none]; split <;> rfl
  | some v => rfl

/-! The restore (R312). -/

/-- A core's part of a saved context given back to each of several cores. -/
def State.restoreCores (one : SavedContext) (ks : List Nat) (s : State) : State :=
  ks.foldl (fun t k => t.setCore k ((t.core k).restored one k)) s

theorem restored_restored (v : Core) (one : SavedContext) (n : Nat) : (v.restored one n).restored one n = v.restored one n := by
  simp only [Core.restored, tgetD]
  cases tget one.wlim n <;> rfl

theorem restoreCores_core (one : SavedContext) (ks : List Nat) (s : State) (k : Nat) :
    (s.restoreCores one ks).core k = if k ∈ ks then (s.core k).restored one k else s.core k := by
  induction ks generalizing s with
  | nil => rfl
  | cons j ks ih =>
    rw [State.restoreCores, List.foldl_cons, ← State.restoreCores, ih]
    by_cases hj : k = j
    · subst hj
      by_cases hk : k ∈ ks <;> simp [hk, restored_restored]
    · rw [State.setCore_core_other _ _ _ _ hj]
      simp [hj]

theorem restoreCores_frame (one : SavedContext) (ks : List Nat) (s : State) : ∃ cores, s.restoreCores one ks = { s with cores := cores } := by
  induction ks generalizing s with
  | nil => exact ⟨_, rfl⟩
  | cons j ks ih =>
    obtain ⟨cores, e⟩ := ih (s.setCore j ((s.core j).restored one j))
    exact ⟨cores, e⟩

/-- Clusters stopped again change their own table. -/
theorem stopClusters_frame (ks : List Nat) (s : State) :
    ∃ clusters, ks.foldl (fun t k => t.setCluster k { t.cluster k with stopped := true }) s = { s with clusters := clusters } := by
  induction ks generalizing s with
  | nil => exact ⟨_, rfl⟩
  | cons j ks ih =>
    obtain ⟨clusters, e⟩ := ih (s.setCluster j { s.cluster j with stopped := true })
    exact ⟨clusters, e⟩

/-- A stream's reservation stands in its cluster and its block. -/
theorem reserve_frame (s : State) (bid : Nat) :
    ∃ clusters blocks, s.reserve bid = { s with clusters := clusters, run := { s.run with blocks := blocks } } := by
  unfold State.reserve
  repeat' split
  all_goals exact ⟨_, _, rfl⟩

theorem reserveAll_frame (bids : List Nat) (s : State) :
    ∃ clusters blocks, bids.foldl State.reserve s = { s with clusters := clusters, run := { s.run with blocks := blocks } } := by
  induction bids generalizing s with
  | nil => exact ⟨_, _, rfl⟩
  | cons b bids ih =>
    obtain ⟨cl, bl, e⟩ := reserve_frame s b
    obtain ⟨cl', bl', e'⟩ := ih (s.reserve b)
    refine ⟨cl', bl', ?_⟩
    rw [List.foldl_cons, e', e]

/-- What a restored path has of the path that was saved. -/
def Path.view (p : Path) :=
  (p.pc, p.mask, p.sys, p.flags, p.token, p.epc, p.ecause, p.eaux, p.emask, p.due, p.loan, p.loanst)

/-- The paths of a context that has just been restored go on from the next cc (R223). -/
def State.resumed (s : State) : State := s.thawPaths.mapPaths fun pid p => { p with resident := s.icc (coreOf pid) }

theorem resumed_views (s : State) : (s.resumed.run.paths.map fun e => (e.1, e.2.view)) = s.run.paths.map fun e => (e.1, e.2.view) := by
  simp only [State.resumed, State.thawPaths, State.mapPaths, List.map_map]
  refine List.map_congr_left fun e _ => ?_
  simp only [Function.comp]
  split <;> rfl

/-- The state in which a restore leaves the machine, but for the trace. -/
def State.afterRestore (s : State) (which : Nat) (one : SavedContext) : State :=
  let c := one.context
  let s1 : State := { s with
    saved := s.saved.eraseIdx which,
    sram := keysBack s.sram c.sramRanges one.sram, vault := keysBack s.vault c.vaultRanges one.vault,
    bdeck := keysBack s.bdeck c.deckRanges one.bdeck,
    run := { c with running := true, halted := false, tiles := c.placedTiles } }
  let s3 := one.stoppedClusters.foldl (fun t k => t.setCluster k { t.cluster k with stopped := true }) (s1.restoreCores one (one.q0.map (·.1)))
  ((c.blocks.map (·.1)).foldl State.reserve s3).resumed

theorem afterRestore_frame (s : State) (which : Nat) (one : SavedContext) :
    let u := s.afterRestore which one
    let c := one.context
    u.saved = s.saved.eraseIdx which ∧ u.mem = s.mem ∧ u.run.running = true ∧ u.run.halted = false
      ∧ u.run.sregs = c.sregs ∧ u.run.vregs = c.vregs ∧ u.run.kregs = c.kregs ∧ u.run.tokens = c.tokens ∧ u.run.waves = c.waves
      ∧ u.run.items = c.items ∧ (u.run.paths.map fun e => (e.1, e.2.view)) = (c.paths.map fun e => (e.1, e.2.view))
      ∧ ∀ k, u.core k = if k ∈ one.q0.map (·.1) then (s.core k).restored one k else s.core k := by
  intro u c
  let s1 : State := { s with
    saved := s.saved.eraseIdx which,
    sram := keysBack s.sram c.sramRanges one.sram, vault := keysBack s.vault c.vaultRanges one.vault,
    bdeck := keysBack s.bdeck c.deckRanges one.bdeck,
    run := { c with running := true, halted := false, tiles := c.placedTiles } }
  have hcore := restoreCores_core one (one.q0.map (·.1)) s1
  obtain ⟨co, e1⟩ := restoreCores_frame one (one.q0.map (·.1)) s1
  obtain ⟨cl, e3⟩ := stopClusters_frame one.stoppedClusters (s1.restoreCores one (one.q0.map (·.1)))
  obtain ⟨cl', bl, e4⟩ := reserveAll_frame (c.blocks.map (·.1))
    (one.stoppedClusters.foldl (fun t k => t.setCluster k { t.cluster k with stopped := true }) (s1.restoreCores one (one.q0.map (·.1))))
  rw [e3, e1] at e4
  rw [e1] at hcore
  have hu : u = State.resumed { s1 with cores := co, clusters := cl', run := { s1.run with blocks := bl } } := by
    rw [← e4, ← e1, ← e3]
    rfl
  rw [hu]
  exact ⟨rfl, rfl, rfl, rfl, rfl, rfl, rfl, rfl, rfl, rfl, resumed_views _, hcore⟩

theorem exec_contextRestore_eq {s : State} {which : Nat} {one : SavedContext} (h : s.saved[which]? = some one) (hr : s.run.running = false)
    (hh : s.run.halted = false) (ht : ∀ k, (s.core k).trEn = false) :
    exec (.contextRestore which) s = .next (s.afterRestore which one) := by
  have htr (k : Nat) : ((s.afterRestore which one).core k).trEn = false := by
    obtain ⟨_, _, _, _, _, _, _, _, _, _, _, hk⟩ := afterRestore_frame s which one
    rw [hk]
    split <;> exact ht k
  have e : execContextRestore which s = .next ((s.afterRestore which one).traceEvents 4 0 (one.q0.map (·.1))) := by
    rw [execContextRestore, h]
    exact if_neg (by simp [hr, hh])
  rw [exec_contextRestore, e, traceEvents_off _ _ _ _ htr]

theorem exec_contextRestore_not {s : State} {n : Nat} (h : s.run.running = true ∨ s.run.halted = true ∨ s.saved.length ≤ n) :
    exec (.contextRestore n) s = .next s := by
  rw [exec_contextRestore, execContextRestore]
  rcases hone : s.saved[n]? with _ | one
  · rfl
  · have hlt : n < s.saved.length := (List.getElem?_eq_some_iff.mp hone).1
    refine if_pos ?_
    rcases h with h | h | h
    · simp [h]
    · simp [h]
    · omega

/-- A table made from a list of numbers has what the function gives for each. -/
theorem tget_tsets_map {α : Type} (f : Nat → α) (ks : List Nat) {k : Nat} (h : k ∈ ks) :
    tget (tsets [] (ks.map fun k => (k, f k))) k = some (f k) := by
  rw [tget_tsets]
  cases e : (ks.map fun k => (k, f k)).reverse.find? fun x => x.1 == k with
  | none =>
    rw [List.find?_eq_none] at e
    exact absurd (e (k, f k) (by simpa using h)) (by simp)
  | some x =>
    have hm := List.mem_of_find?_eq_some e
    have hk := List.find?_some e
    simp only [List.mem_reverse, List.mem_map] at hm
    obtain ⟨j, _, rfl⟩ := hm
    simp only [beq_iff_eq] at hk
    simp [hk]

/-- The cores of a context's blocks are those that a save captures. -/
theorem mem_contextCores {s : State} {b : Nat × Block} (h : b ∈ s.run.blocks) : b.2.core ∈ s.contextCores := by
  rw [State.contextCores, List.mem_eraseDups]
  exact List.mem_map_of_mem h

theorem captured_q0 {s : State} {k : Nat} (h : k ∈ s.contextCores) :
    k ∈ s.captured.q0.map (·.1) ∧ tgetD [] s.captured.q0 k = (s.core k).q0 ∧ tgetD 0 s.captured.itemCounter k = (s.core k).itemCounter := by
  have hq : tget s.captured.q0 k = some (s.core k).q0 := tget_tsets_map (fun k => (s.core k).q0) _ h
  have hi : tget s.captured.itemCounter k = some (s.core k).itemCounter := tget_tsets_map (fun k => (s.core k).itemCounter) _ h
  exact ⟨List.mem_map_of_mem (mem_of_tget _ _ _ hq), by rw [tgetD, hq]; rfl, by rw [tgetD, hi]; rfl⟩

/-- A save is captured with every path as it is, but for the SYNC that it owes. -/
theorem captured_views (s : State) : (s.captured.context.paths.map fun e => (e.1, e.2.view)) = s.run.paths.map fun e => (e.1, e.2.view) := by
  simp only [State.captured, Context.saved, List.map_map]
  rfl

theorem afterSave_trEn {s : State} (h : ∀ k, (s.core k).trEn = false) (k : Nat) : (s.afterSave.core k).trEn = false := by
  rw [afterSave_core]
  split <;> exact h k

/-- What a save keeps apart and a restore gives back (R310, R312). -/
theorem save_then_restore {s : State} (hsave : s.saveRefused = false) (hq : s.quiet = true) (hreg : ∀ e ∈ s.run.paths, e.2.region = none)
    (ht : ∀ k, (s.core k).trEn = false) :
    ∃ u, exec .contextSave s = .next s.afterSave ∧ exec (.contextRestore s.saved.length) s.afterSave = .next u ∧ u.saved = s.saved
      ∧ u.mem = s.afterSave.mem ∧ u.run.running = true ∧ u.run.halted = false ∧ u.run.sregs = s.run.sregs ∧ u.run.vregs = s.run.vregs
      ∧ u.run.kregs = s.run.kregs ∧ u.run.tokens = s.run.tokens ∧ u.run.waves = s.run.waves ∧ u.run.items = s.run.items
      ∧ (u.run.paths.map fun e => (e.1, e.2.view)) = (s.run.paths.map fun e => (e.1, e.2.view))
      ∧ ∀ b ∈ s.run.blocks, (u.core b.2.core).q0 = (s.core b.2.core).q0 ∧ (u.core b.2.core).itemCounter = (s.core b.2.core).itemCounter := by
  have hone : s.afterSave.saved[s.saved.length]? = some s.captured := List.getElem?_concat_length
  obtain ⟨hsaved, hmem, hrun, hhalt, hs, hv, hk, htok, hwav, hit, hpath, hcore⟩ := afterRestore_frame s.afterSave s.saved.length s.captured
  refine ⟨s.afterSave.afterRestore s.saved.length s.captured, exec_contextSave_quiet hsave (commitRegions_closed hreg) hq ht,
    exec_contextRestore_eq hone rfl rfl (afterSave_trEn ht), ?_, hmem, hrun, hhalt, hs, hv, hk, htok, hwav, hit,
    hpath.trans (captured_views s), fun b hb => ?_⟩
  · rw [hsaved]
    simp [State.afterSave, List.eraseIdx_append_of_length_le]
  · obtain ⟨hm, hq0, hic⟩ := captured_q0 (mem_contextCores hb)
    rw [hcore, if_pos hm]
    exact ⟨hq0, hic⟩

/-- Settles O55: the halt by what `haltPaths` leaves, the re-issue, the save's refusals and waits, and the restore by its frame. -/
theorem preemptionSaveAndRestore : Obligations.PreemptionSaveAndRestore := by
  unfold Obligations.PreemptionSaveAndRestore
  refine ⟨⟨fun s => ⟨fun hd => ?_, fun hd h => ?_, fun hr hh hd => ?_⟩, fun s wid w r hw hr => ?_⟩,
    fun s => ⟨fun h => ?_, fun hh hd hst => ?_, ?_⟩, ?_, ?_⟩
  · simp [exec_preemptionRequest, execPreemptionRequest, hd]
  · rcases h with h | h <;> simp [exec_preemptionRequest, execPreemptionRequest, hd, h]
  · obtain ⟨s3, e⟩ := haltContext_eq s
    obtain ⟨hclaims, hpaths⟩ := haltPaths_frame s3
    refine ⟨s.haltContext, exec_preemptionRequest_running hr hh hd, ?_⟩
    rw [e]
    exact ⟨rfl, hclaims, fun pid p => mayIssue_halted rfl pid p, hpaths⟩
  · exact ⟨exec_graphicsWaveReissue_not hw hr, exec_graphicsWaveReissue_killed hw hr⟩
  · exact exec_contextSave_refused ((saveRefused_iff s).mpr h)
  · exact fun hu => exec_contextSave_waits (saveRefused_false hh hd hst) (quiet_false_of hu)
  · exact commitRegions_closed
  · exact fun s n => exec_contextRestore_not
  · intro s hh hd hq hreg hst ht view
    obtain ⟨u, hsave, hrestore, hsaved, hmem, hrun, hhalt, hs, hv, hk, htok, hwav, hit, hpath, hcore⟩ :=
      save_then_restore (saveRefused_false hh hd hst) hq hreg ht
    refine ⟨s.afterSave, u, hsave, rfl, rfl, rfl, by simp [State.afterSave], fun b hb => ?_, hrestore, hsaved, hmem, hrun, hhalt, hs, hv, hk,
      htok, hwav, hit, hpath, hcore⟩
    rw [afterSave_core, if_pos (by simpa using mem_contextCores hb)]
    rfl

end Sys2Proof.Machine
end

section
/-! PROOF. The reset state (R58, R359, R367, R376, R387). -/
namespace Sys2Proof.Machine

/-- Settles O6: each register by its reset value. -/
theorem resetState : Obligations.ResetState := by
  refine ⟨?memory, ?clk, ?run, ?ops, ?nevEn, ?nevAct, ?ptroot, ?tvec, ?rasEn, ?stopped, ?clear, ?ring⟩
  all_goals rfl
end Sys2Proof.Machine
end

section
/-! PROOF. Rounding to a neighbour (R41), and the exact widening of narrow floats to FP32 (R45). -/
namespace Sys2Proof.Machine

/-! Rounding a magnitude cut at bit `s`. -/

section
variable (rnd : Rnd) (neg : Bool) (m s : Nat)

/-- What each mode adds to the truncated magnitude. -/
theorem roundShift_eq : roundShift rnd neg m s = m / 2 ^ s + match rnd with
    | .rne => if 2 * (m % 2 ^ s) > 2 ^ s ∨ (2 * (m % 2 ^ s) = 2 ^ s ∧ m / 2 ^ s % 2 = 1) then 1 else 0
    | .rtz => 0
    | .rdn => if neg = true ∧ m % 2 ^ s ≠ 0 then 1 else 0
    | .rup => if neg = false ∧ m % 2 ^ s ≠ 0 then 1 else 0
    | .rna => if 2 * (m % 2 ^ s) ≥ 2 ^ s then 1 else 0 := by
  cases rnd <;> simp only [roundShift, Bool.or_eq_true, Bool.and_eq_true, decide_eq_true_eq, Bool.not_eq_true'] <;> split <;> simp_all

/-- A magnitude that the cut does not change is its quotient under every mode. -/
theorem roundShift_exact (h : m % 2 ^ s = 0) : roundShift rnd neg m s = m / 2 ^ s := by
  have hp := Nat.two_pow_pos s
  rw [roundShift_eq]
  cases rnd <;> simp [h, hp.ne]

theorem roundShift_neighbour : roundShift rnd neg m s = m / 2 ^ s ∨ (roundShift rnd neg m s = m / 2 ^ s + 1 ∧ m % 2 ^ s ≠ 0) := by
  by_cases h : m % 2 ^ s = 0
  · exact .inl (roundShift_exact rnd neg m s h)
  · rw [roundShift_eq]
    cases rnd
    case rtz => exact .inl rfl
    all_goals dsimp only; split <;> omega

/-- Both modes that round to nearest stay within half a unit of the magnitude. -/
theorem roundShift_nearest (h : rnd = .rne ∨ rnd = .rna) :
    2 * (roundShift rnd neg m s * 2 ^ s) ≤ 2 * m + 2 ^ s ∧ 2 * m ≤ 2 * (roundShift rnd neg m s * 2 ^ s) + 2 ^ s := by
  have hm : m = m / 2 ^ s * 2 ^ s + m % 2 ^ s := (Nat.div_add_mod' m (2 ^ s)).symm
  have hlt : m % 2 ^ s < 2 ^ s := Nat.mod_lt _ (Nat.two_pow_pos s)
  rw [roundShift_eq, Nat.add_mul]
  rcases h with rfl | rfl <;> dsimp only <;> split <;> omega

theorem roundShift_tie (h : 2 * (m % 2 ^ s) = 2 ^ s) : roundShift .rne neg m s % 2 = 0 ∧ roundShift .rna neg m s = m / 2 ^ s + 1 := by
  rw [roundShift_eq, roundShift_eq]
  dsimp only
  constructor <;> split <;> omega

/-- A value that is `k` steps of `2 ^ q` is rounded to `k`, under every mode and without loss. -/
theorem roundTo_exact {k : Nat} {e q : Int} (h : m * 2 ^ (e - q).toNat = k * 2 ^ (q - e).toNat) : roundTo rnd neg m e q = (k, false) := by
  unfold roundTo
  by_cases hq : q ≤ e
  · rw [if_pos hq, h, Int.toNat_of_nonpos (by omega)]; simp
  · rw [Int.toNat_of_nonpos (by omega : e - q ≤ 0), Nat.pow_zero, Nat.mul_one] at h
    simp [hq, roundShift_exact, h]
end

/-- The magnitude doubled `k` times has `k` more bits. -/
theorem log2_mul_two_pow {m : Nat} (h : m ≠ 0) (k : Nat) : Nat.log2 (m * 2 ^ k) = Nat.log2 m + k := by
  rw [Nat.log2_eq_iff (Nat.mul_ne_zero h (Nat.two_pow_pos k).ne'), Nat.pow_add, show Nat.log2 m + k + 1 = Nat.log2 m + 1 + k by omega, Nat.pow_add]
  exact ⟨Nat.mul_le_mul_right _ (Nat.log2_self_le h), Nat.mul_lt_mul_of_pos_right Nat.lt_log2_self (Nat.two_pow_pos k)⟩

/-! The finite codes of a format with a sign: `m` units of `2 ^ (low + x)`, written as the magnitude `x * 2 ^ mw + m`. -/

/-- The exponent of a format's lowest unit. -/
def Fmt.low (f : Fmt) : Int := 1 - (f.bias : Int) - f.mw

/-- The magnitudes that a format writes: below the lowest normal exponent any count of units, above it a significand with its top bit. -/
structure Fmt.Holds (f : Fmt) (m x : Nat) : Prop where
  sig : m < 2 ^ (f.mw + 1)
  norm : x = 0 ∨ 2 ^ f.mw ≤ m
  le : x * 2 ^ f.mw + m ≤ f.maxMag

/-- The shape of the formats of R38: a sign, and either infinities with the NaNs above them, or the one all-ones NaN. -/
def Fmt.Common (f : Fmt) : Prop := f.sgn = true ∧ 0 < f.ew ∧ ((f.hasInf = true ∧ f.nanKind = 1) ∨ (f.hasInf = false ∧ f.nanKind = 2))

/-- Sign, exponent and fraction of a code put together from them. -/
theorem fld_of_parts {ew mw n x fr : Nat} (hx : x < 2 ^ ew) (hfr : fr < 2 ^ mw) (hn : n < 2) :
    fld (n * 2 ^ (ew + mw) + (x * 2 ^ mw + fr)) 0 mw = fr ∧ fld (n * 2 ^ (ew + mw) + (x * 2 ^ mw + fr)) mw ew = x
      ∧ fld (n * 2 ^ (ew + mw) + (x * 2 ^ mw + fr)) (ew + mw) 1 = n := by
  have hp := Nat.two_pow_pos mw
  have hq := Nat.two_pow_pos ew
  have e : n * 2 ^ (ew + mw) + (x * 2 ^ mw + fr) = fr + (x + n * 2 ^ ew) * 2 ^ mw := by rw [Nat.pow_add]; ring
  have hd : (n * 2 ^ (ew + mw) + (x * 2 ^ mw + fr)) / 2 ^ mw = x + n * 2 ^ ew := by
    rw [e, Nat.add_mul_div_right _ _ hp, Nat.div_eq_of_lt hfr, Nat.zero_add]
  refine ⟨?_, ?_, ?_⟩
  · rw [fld_low, e, Nat.add_mul_mod_self_right, Nat.mod_eq_of_lt hfr]
  · rw [fld, hd, Nat.add_mul_mod_self_right, Nat.mod_eq_of_lt hx]
  · have hpq : 2 ^ (ew + mw) = 2 ^ mw * 2 ^ ew := by rw [Nat.pow_add, Nat.mul_comm]
    rw [fld, hpq, ← Nat.div_div_eq_div_mul, ← hpq, hd, Nat.add_mul_div_right _ _ hq, Nat.div_eq_of_lt hx, Nat.zero_add, Nat.pow_one,
      Nat.mod_eq_of_lt hn]

/-- A code is its sign, exponent and fraction. -/
theorem code_eq_parts (ew mw c : Nat) (hc : c < 2 ^ (ew + mw + 1)) :
    c = fld c (ew + mw) 1 * 2 ^ (ew + mw) + (fld c mw ew * 2 ^ mw + fld c 0 mw) := by
  have h0 := fld_add c 0 mw (ew + 1)
  have h1 := fld_add c mw ew 1
  rw [fld_low, Nat.mod_eq_of_lt (by rwa [show mw + (ew + 1) = ew + mw + 1 by omega]), Nat.zero_add, h1, Nat.add_comm mw ew] at h0
  rw [Nat.pow_add]
  nlinarith [h0]

theorem signBit_eq {f : Fmt} (h : f.sgn = true) (neg : Bool) : f.signBit neg = neg.toNat * 2 ^ (f.ew + f.mw) := by
  cases neg <;> simp [Fmt.signBit, h]

theorem maxMag_lt (f : Fmt) : f.maxMag < 2 ^ (f.ew + f.mw) := by
  have h := Nat.two_pow_pos (f.ew + f.mw)
  have g : (2 ^ f.ew - 1) * 2 ^ f.mw ≤ 2 ^ (f.ew + f.mw) := by rw [Nat.pow_add]; exact Nat.mul_le_mul_right _ (Nat.sub_le _ _)
  unfold Fmt.maxMag
  split
  · omega
  · split <;> omega

/-- The finite codes: below the code of infinity, or below the all-ones NaN. -/
theorem le_maxMag_iff {f : Fmt} (hf : f.Common) {x fr : Nat} (hx : x < 2 ^ f.ew) (hfr : fr < 2 ^ f.mw) :
    x * 2 ^ f.mw + fr ≤ f.maxMag ↔ (f.hasInf = true ∧ x ≠ 2 ^ f.ew - 1) ∨ (f.hasInf = false ∧ ¬ (x = 2 ^ f.ew - 1 ∧ fr = 2 ^ f.mw - 1)) := by
  obtain ⟨-, hew, hkind⟩ := hf
  have hp := Nat.two_pow_pos f.mw
  have hq : 2 ^ 1 ≤ 2 ^ f.ew := Nat.pow_le_pow_right (by decide) hew
  have htop : 2 ^ (f.ew + f.mw) = (2 ^ f.ew - 1) * 2 ^ f.mw + 2 ^ f.mw := by
    rw [Nat.pow_add, ← Nat.succ_mul, Nat.succ_eq_add_one, Nat.sub_add_cancel (Nat.two_pow_pos _)]
  have hone : 2 ^ f.mw ≤ (2 ^ f.ew - 1) * 2 ^ f.mw := Nat.le_mul_of_pos_left _ (by omega)
  have hlt (h : x ≠ 2 ^ f.ew - 1) : x * 2 ^ f.mw + 2 ^ f.mw ≤ (2 ^ f.ew - 1) * 2 ^ f.mw := by
    rw [← Nat.succ_mul]; exact Nat.mul_le_mul_right _ (by omega)
  by_cases h : x = 2 ^ f.ew - 1
  · obtain ⟨hi, hn⟩ | ⟨hi, hn⟩ := hkind <;> simp only [Fmt.maxMag, hi, hn, h] <;> simp <;> omega
  · have := hlt h
    obtain ⟨hi, hn⟩ | ⟨hi, hn⟩ := hkind <;> simp only [Fmt.maxMag, hi, hn, h] <;> simp <;> omega

/-- The value of a finite code by its parts. -/
theorem value_of_parts {f : Fmt} (hf : f.Common) {x fr : Nat} (hx : x < 2 ^ f.ew) (hfr : fr < 2 ^ f.mw) (hle : x * 2 ^ f.mw + fr ≤ f.maxMag)
    (neg : Bool) : f.value (f.signBit neg + (x * 2 ^ f.mw + fr)) =
      if x = 0 then .fin neg fr f.low else .fin neg (2 ^ f.mw + fr) (f.low + (x - 1 : Nat)) := by
  obtain ⟨h0, h1, h2⟩ := fld_of_parts hx hfr (show neg.toNat < 2 by cases neg <;> decide)
  have hb : (neg.toNat == 1) = neg := by cases neg <;> rfl
  have hfin := (le_maxMag_iff hf hx hfr).mp hle
  rw [Fmt.value, signBit_eq hf.1]
  simp only [h0, h1, h2, hb, hf.1, Bool.true_and]
  obtain ⟨-, -, ⟨hi, hn⟩ | ⟨hi, hn⟩⟩ := hf <;> simp only [hi, true_and, false_and, or_false, false_or, Bool.false_eq_true, Bool.true_eq_false] at hfin <;>
    simp [hi, hn, hfin, Fmt.low] <;> split <;> simp_all <;> omega

/-- A written magnitude reads as its units. -/
theorem value_of_holds {f : Fmt} (hf : f.Common) {m x : Nat} (h : f.Holds m x) (neg : Bool) :
    f.value (f.signBit neg + (x * 2 ^ f.mw + m)) = .fin neg m (f.low + x) := by
  obtain ⟨hsig, hnorm, hle⟩ := h
  rw [Nat.pow_succ] at hsig
  by_cases hm : m < 2 ^ f.mw
  · obtain rfl : x = 0 := by omega
    rw [value_of_parts hf (Nat.two_pow_pos _) hm hle, if_pos rfl]; simp
  · obtain ⟨r, rfl⟩ : ∃ r, m = 2 ^ f.mw + r := ⟨m - 2 ^ f.mw, by omega⟩
    have hlt : x * 2 ^ f.mw + (2 ^ f.mw + r) < 2 ^ f.ew * 2 ^ f.mw := by rw [← Nat.pow_add]; exact Nat.lt_of_le_of_lt hle (maxMag_lt f)
    have hx : x + 1 < 2 ^ f.ew := Nat.lt_of_mul_lt_mul_right (a := 2 ^ f.mw) (by rw [Nat.add_mul]; omega)
    rw [show x * 2 ^ f.mw + (2 ^ f.mw + r) = (x + 1) * 2 ^ f.mw + r by ring] at hle ⊢
    rw [value_of_parts hf hx (by omega) hle, if_neg (Nat.succ_ne_zero x)]; simp

/-- A code is a NaN's, an infinity's, or that of a written magnitude. -/
theorem code_cases {f : Fmt} (hf : f.Common) {c : Nat} (hc : c < 2 ^ (f.ew + f.mw + 1)) (hn : f.value c ≠ .nan) :
    ∃ neg, (f.hasInf = true ∧ c = f.signBit neg + f.infMag ∧ f.value c = .inf neg)
      ∨ ∃ m x, f.Holds m x ∧ c = f.signBit neg + (x * 2 ^ f.mw + m) := by
  have hparts := code_eq_parts f.ew f.mw c hc
  have hx := fld_lt c f.mw f.ew
  have hfr := fld_lt c 0 f.mw
  have hs : fld c (f.ew + f.mw) 1 = (fld c (f.ew + f.mw) 1 == 1).toNat := by
    rcases (by have := fld_lt c (f.ew + f.mw) 1; omega : fld c (f.ew + f.mw) 1 = 0 ∨ fld c (f.ew + f.mw) 1 = 1) with h | h <;> simp [h]
  refine ⟨fld c (f.ew + f.mw) 1 == 1, ?_⟩
  rw [hs, ← signBit_eq hf.1] at hparts
  have hp := Nat.two_pow_pos f.mw
  have hmax := le_maxMag_iff hf hx hfr
  by_cases hle : fld c f.mw f.ew * 2 ^ f.mw + fld c 0 f.mw ≤ f.maxMag
  · by_cases h0 : fld c f.mw f.ew = 0
    · exact .inr ⟨fld c 0 f.mw, 0, ⟨by rw [Nat.pow_succ]; omega, .inl rfl, by rwa [h0] at hle⟩, by rwa [h0] at hparts⟩
    · obtain ⟨x, hx⟩ := Nat.exists_eq_succ_of_ne_zero h0
      rw [hx, Nat.succ_mul, Nat.add_assoc] at hle hparts
      exact .inr ⟨2 ^ f.mw + fld c 0 f.mw, x, ⟨by rw [Nat.pow_succ]; omega, .inr (Nat.le_add_right _ _), hle⟩, hparts⟩
  · left
    rw [hmax] at hle
    obtain ⟨hsgn, -, ⟨hi, hk⟩ | ⟨hi, hk⟩⟩ := hf
    · have htop : fld c f.mw f.ew = 2 ^ f.ew - 1 := by simpa [hi] using hle
      have hfr0 : fld c 0 f.mw = 0 := by
        by_contra h
        exact hn (by simp [Fmt.value, hk, htop, h])
      refine ⟨hi, ?_, by simp [Fmt.value, hi, hk, htop, hfr0, hsgn]⟩
      rwa [htop, hfr0, Nat.add_zero] at hparts
    · have : fld c f.mw f.ew = 2 ^ f.ew - 1 ∧ fld c 0 f.mw = 2 ^ f.mw - 1 := by simpa [hi] using hle
      exact absurd (by simp [Fmt.value, hk, this]) hn

/-- A value that a format can write is packed without loss and counts nothing, under every mode. -/
theorem pack_of_holds {f : Fmt} {m x n : Nat} {e : Int} (h : f.Holds m x) (hm : m ≠ 0) (hn : n ≠ 0)
    (heq : n * 2 ^ (e - (f.low + x)).toNat = m * 2 ^ (f.low + x - e).toNat) (rnd : Rnd) (sat neg : Bool) :
    f.pack rnd sat (.fin neg n e) = (f.signBit neg + (x * 2 ^ f.mw + m), 0) := by
  obtain ⟨hsig, hnorm, hle⟩ := h
  have hlog := congrArg Nat.log2 heq
  rw [log2_mul_two_pow hn, log2_mul_two_pow hm] at hlog
  have hlt : Nat.log2 m < f.mw + 1 := (Nat.log2_lt hm).mpr hsig
  have hq : max ((Nat.log2 n : Int) + e - f.mw) f.low = f.low + x := by
    rcases hnorm with rfl | h
    · omega
    · have := (Nat.le_log2 hm).mpr h
      omega
  simp only [Fmt.pack, if_neg hn]
  rw [show (1 - (f.bias : Int) - f.mw) = f.low from rfl, hq, roundTo_exact rnd neg n heq, show (f.low + x - f.low).toNat = x by omega]
  simp [Nat.not_lt.mpr hle, evNone]

/-! FP32 holds the finite values of the narrow formats (R45). -/

/-- The formats that FP32 contains: no unit below FP32's, no significand above it, and no exponent past it. -/
structure Fmt.Within32 (f : Fmt) : Prop where
  common : f.Common
  mw : f.mw ≤ 23
  low : -149 ≤ f.low
  top : ∀ m x, f.Holds m x → f.low + x + Nat.log2 m ≤ 127

/-- A nonzero magnitude of a narrow format is one of FP32's, in smaller units. -/
theorem Fmt.Within32.holds_fp32 {f : Fmt} (hf : f.Within32) {m x : Nat} (h : f.Holds m x) (hm : m ≠ 0) :
    ∃ j x' : Nat, fp32.Holds (m * 2 ^ j) x' ∧ fp32.low + x' + j = f.low + x := by
  have htop := hf.top m x h
  have hlow := hf.low
  have hmw := hf.mw
  have hlt : Nat.log2 m < f.mw + 1 := (Nat.log2_lt hm).mpr h.sig
  obtain ⟨d, hd⟩ : ∃ d : Nat, f.low + x + 149 = d := ⟨(f.low + x + 149).toNat, by omega⟩
  have hl : fp32.low = -149 := by decide
  have hpos := Nat.mul_ne_zero hm (Nat.two_pow_pos (min (23 - Nat.log2 m) d)).ne'
  have hsig : m * 2 ^ min (23 - Nat.log2 m) d < 2 ^ 24 := (Nat.log2_lt hpos).mp (by rw [log2_mul_two_pow hm]; omega)
  refine ⟨min (23 - Nat.log2 m) d, d - min (23 - Nat.log2 m) d, ⟨hsig, ?_, ?_⟩, by omega⟩
  · by_cases h : d ≤ 23 - Nat.log2 m
    · left; omega
    · right
      exact (Nat.le_log2 hpos).mp (by rw [log2_mul_two_pow hm]; show 23 ≤ _; omega)
  · have : fp32.maxMag = 254 * 2 ^ 23 + 2 ^ 23 - 1 := by decide
    rw [this]
    show _ * 2 ^ 23 + _ ≤ _
    omega

@[simp] theorem pack_inf {f : Fmt} (h : f.hasInf = true) (rnd : Rnd) (sat neg : Bool) : f.pack rnd sat (.inf neg) = (f.signBit neg + f.infMag, 0) := by
  simp [Fmt.pack, h, evNone]

@[simp] theorem pack_zero (f : Fmt) (rnd : Rnd) (sat neg : Bool) (e : Int) : f.pack rnd sat (.fin neg 0 e) = (f.signBit neg, 0) := by
  simp [Fmt.pack, evNone]

/-- An FP32 result, of which no denormal is flushed, reads as the packed code. -/
theorem fin32_out32 {rnd : Rnd} {v : FV} {c : Nat} (h : (fp32.pack rnd false v).1 = c) (hc : c < 2 ^ 32) :
    fin32 false (out32 rnd false v).1 = fp32.value c := by
  simp [fin32, out32, h, show c % 4294967296 = c from Nat.mod_eq_of_lt hc]

/-- Widening a code to FP32 and narrowing it again gives the code, and counts nothing. -/
theorem Fmt.Within32.narrow_widen {f : Fmt} (hf : f.Within32) {c : Nat} (hc : c < 2 ^ (f.ew + f.mw + 1)) (hn : f.value c ≠ .nan) (rnd : Rnd) :
    f.pack rnd false (fin32 false (out32 .rne false (f.value c)).1) = (c, 0) := by
  have h32 : fp32.Common := ⟨rfl, by decide, .inl ⟨rfl, rfl⟩⟩
  have hsign (neg : Bool) : fp32.signBit neg ≤ 2 ^ 31 := by cases neg <;> decide
  obtain ⟨neg, ⟨hi, hcode, hv⟩ | ⟨m, x, h, rfl⟩⟩ := code_cases hf.common hc hn
  · rw [hv, fin32_out32 (c := fp32.signBit neg + fp32.infMag) rfl (by cases neg <;> decide),
      show fp32.value (fp32.signBit neg + fp32.infMag) = .inf neg by cases neg <;> decide, pack_inf hi, ← hcode]
  rw [value_of_holds hf.common h]
  by_cases hm : m = 0
  · subst hm
    obtain rfl : x = 0 := h.norm.resolve_right (by simp)
    rw [fin32_out32 (c := fp32.signBit neg) (by rw [pack_zero]) (by cases neg <;> decide),
      show fp32.value (fp32.signBit neg) = .fin neg 0 (-149) by cases neg <;> decide, pack_zero]
    simp
  · obtain ⟨j, x', h', hj⟩ := hf.holds_fp32 h hm
    have hpos := Nat.mul_ne_zero hm (Nat.two_pow_pos j).ne'
    have hdown : (fp32.low + x' - (f.low + x)).toNat = 0 := by omega
    have hup : (f.low + x - (fp32.low + x')).toNat = j := by omega
    have hlt : fp32.signBit neg + (x' * 2 ^ 23 + m * 2 ^ j) < 2 ^ 32 := by
      have hle : x' * 2 ^ 23 + m * 2 ^ j ≤ fp32.maxMag := h'.le
      have hmax : fp32.maxMag < 2 ^ 31 := by decide
      have := hsign neg
      omega
    rw [fin32_out32 (by rw [pack_of_holds h' hpos hm (by rw [hup, hdown, Nat.pow_zero, Nat.mul_one])]; rfl) hlt]
    exact (congrArg _ (value_of_holds h32 h' neg)).trans (pack_of_holds h hm hpos (by rw [hup, hdown, Nat.pow_zero, Nat.mul_one]) rnd false neg)

/-- The four narrow float formats lie within FP32. -/
theorem within32_of_mem {f : Fmt} (hf : f ∈ [fp16, bf16, e4m3, e5m2]) : f.Within32 := by
  have top {f : Fmt} {k : Nat} (hk : f.maxMag < k * 2 ^ f.mw) (hle : f.low + k + f.mw ≤ 129) (hlow : f.low + f.mw ≤ 127) :
      ∀ m x, f.Holds m x → f.low + x + Nat.log2 m ≤ 127 := by
    intro m x ⟨hsig, hnorm, hmax⟩
    have hlog : Nat.log2 m ≤ f.mw := by
      by_cases hm : m = 0
      · simp [hm]
      · exact Nat.lt_succ_iff.mp ((Nat.log2_lt hm).mpr hsig)
    rcases hnorm with rfl | hm
    · omega
    · have : x + 1 < k := Nat.lt_of_mul_lt_mul_right (a := 2 ^ f.mw) (by rw [Nat.add_mul]; omega)
      omega
  simp only [List.mem_cons, List.not_mem_nil, or_false] at hf
  rcases hf with rfl | rfl | rfl | rfl
  · exact ⟨⟨rfl, by decide, .inl ⟨rfl, rfl⟩⟩, by decide, by decide, top (k := 31) (by decide) (by decide) (by decide)⟩
  · exact ⟨⟨rfl, by decide, .inl ⟨rfl, rfl⟩⟩, by decide, by decide, top (k := 255) (by decide) (by decide) (by decide)⟩
  · exact ⟨⟨rfl, by decide, .inr ⟨rfl, rfl⟩⟩, by decide, by decide, top (k := 16) (by decide) (by decide) (by decide)⟩
  · exact ⟨⟨rfl, by decide, .inl ⟨rfl, rfl⟩⟩, by decide, by decide, top (k := 31) (by decide) (by decide) (by decide)⟩

/-- Settles O23: each mode by what it adds to the truncated magnitude, and the widening through the magnitudes that FP32 holds. -/
theorem roundingAndWidening : Obligations.RoundingAndWidening := by
  unfold Obligations.RoundingAndWidening
  refine ⟨fun neg m s => ⟨fun r => roundShift_neighbour r neg m s, ?rtz, ?rdn, ?rup, roundShift_nearest .rne neg m s (.inl rfl), roundShift_tie neg m s,
    roundShift_nearest .rna neg m s (.inr rfl)⟩, fun f e r hf he hn => (within32_of_mem hf).narrow_widen (by rwa [Nat.add_assoc]) hn r⟩
  case rtz => exact roundShift_eq .rtz neg m s
  case rdn => exact (roundShift_eq .rdn neg m s).trans (by dsimp only; split <;> rfl)
  case rup => exact (roundShift_eq .rup neg m s).trans (by dsimp only; split <;> rfl)

end Sys2Proof.Machine
end

section
/-! PROOF. Numerical event windows, hit bits, assays and the responses to lasting faults (R58, R59, R384 to R387). -/
namespace Sys2Proof.Machine

/-! Windows and hit bits (R58, R59). -/

section
variable (s : State) {n c : Nat}

theorem exec_nevwinWrite_core (hn : n < 128) (hc : c < 8) (len : Nat) : exec (.nevwinWrite n c len) s = .next (s.setCore n { s.core n with
    nevWin := tset (s.core n).nevWin c (len % 2 ^ 24), nevCnt := tset (s.core n).nevCnt c 0,
    nevStart := tset (s.core n).nevStart c (if (s.core n).nevFrz then 0 else s.clk) }) := if_pos ⟨hn, hc⟩

/-- A window ends only where one is set, runs and is over. -/
theorem exec_nevWindowEnd_not (h : (s.core n).nevFrz = true ∨ tgetD 0 (s.core n).nevWin c = 0
    ∨ s.clk < tgetD 0 (s.core n).nevStart c + 1024 * tgetD 0 (s.core n).nevWin c) : exec (.nevWindowEnd n c) s = .next s := by
  refine if_neg ?_
  rintro ⟨-, -, hlen, hfrz, hover⟩
  rcases h with h | h | h
  · simp [h] at hfrz
  · simp [h] at hlen
  · omega

theorem exec_nevWindowEnd_over (hn : n < 128) (hc : c < 8) (hfrz : (s.core n).nevFrz = false) (hwin : tgetD 0 (s.core n).nevWin c ≠ 0)
    (hover : tgetD 0 (s.core n).nevStart c + 1024 * tgetD 0 (s.core n).nevWin c ≤ s.clk) :
    exec (.nevWindowEnd n c) s = .next (s.setCore n { s.core n with
      nevCnt := tset (s.core n).nevCnt c 0
      nevStart := tset (s.core n).nevStart c (tgetD 0 (s.core n).nevStart c + 1024 * tgetD 0 (s.core n).nevWin c) }) := by
  rw [Nat.mul_comm 1024] at hover ⊢
  exact if_pos ⟨hn, hc, by omega, by simp [hfrz], hover⟩
end

theorem exec_nevstatClear_core (s : State) {n : Nat} (hn : n < 128) (bits : BitVec 8) :
    exec (.nevstatClear n bits) s = .next (s.setNumeric n { s.core n with nevHit := (s.core n).nevHit &&& ~~~bits }) := if_pos hn

/-- The pending interrupt of a core is as its hit and act bits say (R59). -/
theorem setNumeric_irqs (s : State) (n : Nat) (k : Core) : (s.setNumeric n k).irqs =
    if k.nevHit &&& k.nevAct = 0 then s.irqs.filter (· != .numeric n)
    else if s.irqs.contains (.numeric n) then s.irqs else s.irqs ++ [.numeric n] := by
  by_cases h : k.nevHit &&& k.nevAct = 0 <;> simp [State.setNumeric, Core.numericIrq, h]

/-! The core of an assay (R385). -/

/-- The cores that may run a row's assay. -/
theorem mem_assayCores (r : RasRow) (k : Nat) : k ∈ assayCores r ↔
    r.core = some k ∨ (r.core = none ∧ r.cluster = some (k / 4)) ∨ (r.core = none ∧ r.cluster = none ∧ k < 128) := by
  have hc (c : Nat) : k ∈ [0, 1, 2, 3].map (4 * c + ·) ↔ c = k / 4 := by simp; omega
  unfold assayCores
  cases r.core with
  | some j => simp [eq_comm]
  | none =>
    cases r.cluster with
    | some c => simpa using hc c
    | none => simp [Config.cores]

theorem assayCore_some {s : State} {r : RasRow} {k : Nat} (h : s.assayCore r = some k) : k ∈ assayCores r ∧ ∀ q ∈ s.ras.running, q.2 ≠ k :=
  ⟨List.mem_of_find?_eq_some h, by simpa using List.find?_some h⟩

theorem assayCore_none {s : State} {r : RasRow} (h : s.assayCore r = none) {k : Nat} (hk : k ∈ assayCores r) : ∃ q ∈ s.ras.running, q.2 = k := by
  simpa using List.find?_eq_none.mp h k hk

/-! A corrected error, and the start of an assay (R385, R387). -/

theorem corrected_eq (s : State) (r : RasRow) : s.corrected r = (
    let u : State := { s with
      dev := { s.dev with rasce := min (s.dev.rasce + 1) 0xFFFFFFFF }, ras := { s.ras with history := s.ras.history ++ [(r, s.clk)] } }
    if s.dev.rasEn = true ∧ s.assayed r = false ∧ s.ras.waiting.any (sameRow r) = false then
      { u with ras := { u.ras with waiting := s.ras.waiting ++ [r] } }
    else u.logRas r.structure_ 0 (rowLogged r)) := by
  simp only [State.corrected, Bool.and_eq_true, Bool.not_eq_true', Bool.or_eq_false_iff]
  rfl

section
variable {s : State} {r : RasRow}

/-- Assays wait where they are off, or where no row that waits has a free core. -/
theorem exec_assayStart_waits (h : s.dev.rasEn = false ∨ ∀ q ∈ s.ras.waiting, s.assayCore q = none) : exec (.assayStart r) s = .next s := by
  refine if_neg ?_
  rintro ⟨hen, hfirst⟩
  rcases h with h | h
  · simp [h] at hen
  · exact absurd (List.find?_some hfirst) (by simp [h r (List.mem_of_find?_eq_some hfirst)])

/-- The first row that waits and has a free core starts its assay there. -/
theorem exec_assayStart_first {pre post : List RasRow} {k : Nat} (hen : s.dev.rasEn = true) (hw : s.ras.waiting = pre ++ r :: post)
    (hpre : ∀ q ∈ pre, s.assayCore q = none) (hk : s.assayCore r = some k) : exec (.assayStart r) s =
      .next { s with ras := { s.ras with running := s.ras.running ++ [(r, k)], waiting := s.ras.waiting.erase r } } := by
  have hfirst : s.ras.waiting.find? (fun r => (s.assayCore r).isSome) = some r := by
    rw [hw, List.find?_append, List.find?_eq_none.mpr (by simpa using hpre)]
    simp [hk]
  rw [exec_assayStart, execAssayStart, if_pos ⟨hen, hfirst⟩, hk]

/-! The end of an assay (R385, R386). -/

/-- Some three of the row's corrected errors came within one second. -/
theorem thirdError_iff : s.thirdError r = true ↔
    let times := (s.ras.history.filter fun h => sameRow h.1 r).map (·.2)
    ∃ (i a b : Nat), times[i]? = some a ∧ times[i + 2]? = some b ∧ b < a + 3600000000 := by
  simp only [State.thirdError, List.any_eq_true, secondCc]
  constructor
  · rintro ⟨⟨a, b⟩, hmem, hlt⟩
    obtain ⟨i, hi⟩ := List.mem_iff_getElem?.mp hmem
    obtain ⟨ha, hb⟩ := List.getElem?_zip_eq_some.mp hi
    exact ⟨i, a, b, ha, by rwa [List.getElem?_drop, Nat.add_comm] at hb, of_decide_eq_true hlt⟩
  · rintro ⟨i, a, b, ha, hb, hlt⟩
    exact ⟨(a, b), List.mem_iff_getElem?.mpr ⟨i, List.getElem?_zip_eq_some.mpr ⟨ha, by rwa [List.getElem?_drop, Nat.add_comm]⟩⟩, decide_eq_true hlt⟩

/-- The state in which a row's assay is over. -/
def State.assayOver (s : State) (r : RasRow) : State := { s with ras := { s.ras with running := s.ras.running.filter fun q => !sameRow q.1 r } }

theorem exec_assayEnd_not (h : s.assayed r = false) (m : Bool) : exec (.assayEnd r m) s = .next s := by simp [exec_assayEnd, execAssayEnd, h]

theorem exec_assayEnd_transient (h : s.assayed r = true) (ht : s.thirdError r = false) :
    exec (.assayEnd r false) s = .next ((s.assayOver r).logRas r.structure_ 0 (rowLogged r)) := by
  simp [exec_assayEnd, execAssayEnd, h, ht, State.assayOver, outTransient]

theorem exec_assayEnd_lasting {m : Bool} (h : s.assayed r = true) (ht : m = true ∨ s.thirdError r = true) : exec (.assayEnd r m) s =
    .next ((((s.assayOver r).respond r).1.forget r).logRas r.structure_ ((s.assayOver r).respond r).2 (rowLogged r)) := by
  simp [exec_assayEnd, execAssayEnd, h, ht, State.assayOver]

/-! The responses to a lasting fault (R386). -/

theorem respond_dram (h : r.dram = true) : s.respond r = ({ s with ras := { s.ras with
    retired := if s.ras.retired.contains (r.row * 65536) then s.ras.retired else s.ras.retired ++ [r.row * 65536] } }, 4) := if_pos h

/-- The use of one more spare row of a row's bank. -/
def State.sparing (s : State) (r : RasRow) : State := { s with ras := { s.ras with
  spares := (s.ras.spares.filter fun x => x.1 != bankOf r) ++ [(bankOf r, s.sparesUsed (bankOf r) + 1)] } }

theorem respond_spare (h : r.dram = false) (hu : s.sparesUsed (bankOf r) < 4) : s.respond r = (s.sparing r, 1) := by
  simp [State.respond, h, hu, State.sparing, outSpared]

theorem respond_withdraw (h : r.dram = false) (hu : 4 ≤ s.sparesUsed (bankOf r)) (hl : r.l2 = true) :
    s.respond r = ({ s with ras := { s.ras with withdrawn := s.ras.withdrawn ++ [r] } }, 2) := by
  simp [State.respond, h, Nat.not_lt.mpr hu, hl, outWithdrawn]

theorem respond_degrade {k : Nat} (h : r.dram = false) (hu : 4 ≤ s.sparesUsed (bankOf r)) (hl : r.l2 = false)
    (hk : r.cluster = some k ∨ (r.cluster = none ∧ r.core.map (· / 4) = some k)) :
    s.respond r = (s.setCluster k { s.cluster k with degraded := true }, 3) := by
  have hcl : (r.cluster <|> r.core.map clusterOf) = some k := by
    rcases hk with h | ⟨h, hk⟩
    · simp [h]
    · rw [h]; exact hk
  simp [State.respond, h, Nat.not_lt.mpr hu, hl, State.degrade, hcl, outDegraded]

theorem sparing_used_same : (s.sparing r).sparesUsed (bankOf r) = s.sparesUsed (bankOf r) + 1 := by
  have hnone : (s.ras.spares.filter fun x => x.1 != bankOf r).find? (fun x => x.1 == bankOf r) = none := by
    rw [List.find?_eq_none]; intro x hx; simpa using (List.mem_filter.mp hx).2
  simp only [State.sparesUsed, State.sparing, List.find?_append, hnone]
  simp

theorem sparing_used_other {b : Nat × Nat} (hb : b ≠ bankOf r) : (s.sparing r).sparesUsed b = s.sparesUsed b := by
  have hfind : (s.ras.spares.filter fun x => x.1 != bankOf r).find? (fun x => x.1 == b) = s.ras.spares.find? (fun x => x.1 == b) := by
    rw [List.find?_filter]
    congr 1
    funext x
    by_cases hx : x.1 = b <;> simp [hx, hb]
  simp [State.sparesUsed, State.sparing, List.find?_append, hfind, hb.symm]
end

/-- Settles O56: the windows and hit bits by the core that each event leaves, the assays by their waiting, start and end, and the lasting
faults by the four responses. -/
theorem eventWindowsAndRepair : Obligations.EventWindowsAndRepair := by
  unfold Obligations.EventWindowsAndRepair
  refine ⟨fun s n c hn hc => ⟨exec_nevwinWrite_core s hn hc, exec_nevWindowEnd_not s, exec_nevWindowEnd_over s hn hc, fun bits =>
    ⟨_, exec_nevstatClear_core s hn bits, by simp, rfl, rfl, fun h => ?dropped, fun h => ?raised⟩⟩,
    fun s r => ⟨fun k hk => ?taken, fun hnone k hk => assayCore_none hnone ((mem_assayCores r k).mpr hk), corrected_eq s r,
      fun h => exec_assayStart_waits (.inl h), fun _ h => exec_assayStart_waits (.inr h), fun pre post k => exec_assayStart_first,
      exec_assayEnd_not, fun h ht => exec_assayEnd_transient h (Bool.eq_false_iff.mpr fun h => ht (thirdError_iff.mp h)), fun m h ht => ?lasting⟩⟩
  case dropped => simp [setNumeric_irqs, h]
  case raised => rw [setNumeric_irqs, if_neg h]
  case taken =>
    obtain ⟨hmem, hfree⟩ := assayCore_some hk
    rw [mem_assayCores] at hmem
    refine ⟨hfree, fun c h => ?_, fun c h g => ?_, fun h g => ?_⟩ <;> simp_all
  case lasting =>
    have e := exec_assayEnd_lasting h (ht.imp_right thirdError_iff.mpr)
    refine ⟨fun hd => ?_, fun hd hu => ?_, fun hd hu hl => ?_, fun k hd hu hl hk => ?_⟩
    · rw [e, respond_dram hd, rowLogged, if_pos hd]; rfl
    · rw [e, respond_spare (s := s.assayOver r) hd hu, rowLogged, hd]
      exact ⟨_, rfl, rfl, rfl, sparing_used_same, fun b => sparing_used_other, rfl, rfl, rfl⟩
    · rw [e, respond_withdraw (s := s.assayOver r) hd hu hl, rowLogged, hd]; rfl
    · rw [e, respond_degrade (s := s.assayOver r) hd hu hl hk, rowLogged, hd]; rfl

end Sys2Proof.Machine
end

section
/-! PROOF. Elements of lanes, conversions, and arithmetic under a descriptor (R37, R45, R49 to R51, R112 to R114). -/
namespace Sys2Proof.Machine

/-! Elements of a lane (R37). -/

theorem fld_elem (w : Word) (n j : Nat) : fld w.toNat (n * j) n = (elem n w j).toNat := fld_toNat w (n * j) n

theorem element_eq (n : Nat) (w : Word) (j : Nat) : element n w j = (elem n w j).toNat := fld_elem w n j

/-- The bits of a number one field of which is replaced. -/
theorem testBit_replace (w lo n v p : Nat) (hv : v < 2 ^ n) :
    (w - fld w lo n * 2 ^ lo + v * 2 ^ lo).testBit p = if lo ≤ p ∧ p < lo + n then v.testBit (p - lo) else w.testBit p := by
  have hL : w % 2 ^ lo < 2 ^ lo := Nat.mod_lt _ (Nat.two_pow_pos lo)
  have hw : w = 2 ^ lo * (2 ^ n * (w / 2 ^ lo / 2 ^ n) + fld w lo n) + w % 2 ^ lo := by
    rw [fld, Nat.div_add_mod, Nat.div_add_mod]
  have hnew : w - fld w lo n * 2 ^ lo + v * 2 ^ lo = 2 ^ lo * (2 ^ n * (w / 2 ^ lo / 2 ^ n) + v) + w % 2 ^ lo := by
    have h1 : 2 ^ lo * (2 ^ n * (w / 2 ^ lo / 2 ^ n) + fld w lo n) = 2 ^ lo * (2 ^ n * (w / 2 ^ lo / 2 ^ n)) + fld w lo n * 2 ^ lo := by ring
    have h2 : 2 ^ lo * (2 ^ n * (w / 2 ^ lo / 2 ^ n) + v) = 2 ^ lo * (2 ^ n * (w / 2 ^ lo / 2 ^ n)) + v * 2 ^ lo := by ring
    omega
  have hfld : fld w lo n < 2 ^ n := fld_lt w lo n
  rw [hnew]
  conv_rhs => rw [hw]
  rw [Nat.testBit_two_pow_mul_add _ hL, Nat.testBit_two_pow_mul_add _ hL, Nat.testBit_two_pow_mul_add _ hv, Nat.testBit_two_pow_mul_add _ hfld]
  by_cases h : p < lo
  · simp [h, Nat.not_le.mpr h]
  · by_cases g : p - lo < n
    · simp [h, g, show lo ≤ p ∧ p < lo + n by omega]
    · simp [h, g, show ¬ (lo ≤ p ∧ p < lo + n) by omega]

/-- The bits of a word one element of which is replaced. -/
theorem getLsbD_setElement (n : Nat) (w : Word) (i v p : Nat) (hp : p < 32) :
    (setElement n w i v).getLsbD p = if n * i ≤ p ∧ p < n * i + n then (v % 2 ^ n).testBit (p - n * i) else w.getLsbD p := by
  rw [setElement, BitVec.getLsbD_ofNat, element, testBit_replace _ _ _ _ _ (Nat.mod_lt _ (Nat.two_pow_pos n)), BitVec.getLsbD]
  simp [hp]

theorem getLsbD_elem (n : Nat) (w : Word) (j p : Nat) : (elem n w j).getLsbD p = (decide (p < n) && w.getLsbD (n * j + p)) := by
  simp [elem]

theorem elem_setElement_same {n i : Nat} (h : n * i + n ≤ 32) (w : Word) (v : Nat) : elem n (setElement n w i v) i = BitVec.ofNat n v := by
  refine BitVec.eq_of_getLsbD_eq fun p hp => ?_
  rw [getLsbD_elem, getLsbD_setElement _ _ _ _ _ (by omega), if_pos (by omega), BitVec.getLsbD_ofNat]
  simp [Nat.testBit_mod_two_pow, hp]

/-- Elements lie apart. -/
theorem elements_apart {n i j p : Nat} (hij : j ≠ i) (hp : p < n) : ¬ (n * i ≤ n * j + p ∧ n * j + p < n * i + n) := by
  rintro ⟨h, g⟩
  have hi : n * i < n * (j + 1) := by rw [Nat.mul_add]; omega
  have hj : n * j < n * (i + 1) := by rw [Nat.mul_add]; omega
  have := Nat.lt_of_mul_lt_mul_left hi
  have := Nat.lt_of_mul_lt_mul_left hj
  omega

theorem elem_setElement_other {n i j : Nat} (h : n * j + n ≤ 32) (hij : j ≠ i) (w : Word) (v : Nat) : elem n (setElement n w i v) j = elem n w j := by
  refine BitVec.eq_of_getLsbD_eq fun p hp => ?_
  rw [getLsbD_elem, getLsbD_elem, getLsbD_setElement _ _ _ _ _ (by omega), if_neg (elements_apart hij hp)]

/-! Lanes put together from elements (R37, R97). -/

/-- The elements of width `n` of a lane, `m` of them, and the events of any. -/
def gathered (n m : Nat) (f : Nat → Nat × Events) : Word × Events :=
  (List.range m).foldl (fun r i => (r.1 ||| BitVec.ofNat 32 ((f i).1 % 2 ^ n * 2 ^ (n * i)), r.2 ||| (f i).2)) (0#32, evNone)

theorem packed_eq_gathered (n : Nat) (f : Nat → Nat × Events) : packed n f = gathered n (32 / n) f := rfl
theorem descElements_eq_gathered (q : Desc) (f : Nat → Nat × Events) : descElements q f = gathered q.wid q.count f := rfl

theorem gathered_succ (n m : Nat) (f : Nat → Nat × Events) : gathered n (m + 1) f =
    ((gathered n m f).1 ||| BitVec.ofNat 32 ((f m).1 % 2 ^ n * 2 ^ (n * m)), (gathered n m f).2 ||| (f m).2) := by
  simp [gathered, List.range_succ]

/-- A bit of a gathered lane is a bit of the element in which it lies. -/
theorem getLsbD_gathered (n m : Nat) (f : Nat → Nat × Events) (p : Nat) (hp : p < 32) :
    (gathered n m f).1.getLsbD p = true ↔ ∃ i < m, n * i ≤ p ∧ p < n * i + n ∧ (f i).1.testBit (p - n * i) = true := by
  induction m with
  | zero => simp [gathered]
  | succ m ih =>
    have hbit : (BitVec.ofNat 32 ((f m).1 % 2 ^ n * 2 ^ (n * m))).getLsbD p = true ↔
        n * m ≤ p ∧ p < n * m + n ∧ (f m).1.testBit (p - n * m) = true := by
      rw [BitVec.getLsbD_ofNat, Nat.testBit_mul_two_pow, Nat.testBit_mod_two_pow]
      simp only [hp, decide_true, Bool.true_and, Bool.and_eq_true, decide_eq_true_eq]
      constructor
      · rintro ⟨h, g, e⟩; exact ⟨h, by omega, e⟩
      · rintro ⟨h, g, e⟩; exact ⟨h, by omega, e⟩
    rw [gathered_succ, BitVec.getLsbD_or, Bool.or_eq_true, ih, hbit, ← Nat.exists_lt_succ_right]

theorem elem_gathered {n m j : Nat} (hj : j < m) (h : n * j + n ≤ 32) (f : Nat → Nat × Events) : elem n (gathered n m f).1 j = BitVec.ofNat n (f j).1 := by
  refine BitVec.eq_of_getLsbD_eq fun p hp => ?_
  rw [getLsbD_elem, BitVec.getLsbD_ofNat, decide_eq_true hp, Bool.true_and, Bool.true_and, Bool.eq_iff_iff, getLsbD_gathered _ _ _ _ (by omega)]
  constructor
  · rintro ⟨i, -, hlo, hhi, hbit⟩
    obtain rfl : j = i := by
      by_contra hij
      exact elements_apart hij hp ⟨hlo, hhi⟩
    rwa [Nat.add_sub_cancel_left] at hbit
  · intro hbit
    exact ⟨j, hj, by omega, by omega, by rwa [Nat.add_sub_cancel_left]⟩

/-- The events of a gathered lane are those of any element. -/
theorem getLsbD_gathered_events (n m : Nat) (f : Nat → Nat × Events) (e : Nat) :
    (gathered n m f).2.getLsbD e = true ↔ ∃ i < m, (f i).2.getLsbD e = true := by
  induction m with
  | zero => simp [gathered, evNone]
  | succ m ih => rw [gathered_succ, BitVec.getLsbD_or, Bool.or_eq_true, ih, ← Nat.exists_lt_succ_right]

/-! Lane-wise instructions (R97). -/

section
variable {i : Instr} {s : State} {c : Ctx}

/-- A lane-wise instruction that issues writes and counts what each active lane gives. -/
theorem lanewise_ready (h : ready i s c = true) (hc : i.commits = false) (d : BitVec 7) (f : Ctx → State → Nat → Word × Events) :
    lanewise i d f s = .next (s.laneResultCounted c d (f c s)) := by
  rw [lanewise, issue_of_ready _ h, entered_of_not_commits hc]
  simp [conclude, State.laneResultCounted, Ctx.lanes, Function.comp_def]

/-- An instruction that reaches the checks of its operands and selects an element that there is not raises 0x01 (R63, R113). -/
theorem issue_of_selectsBeyond (body : Ctx → State → Fate) (h : checked i s c = true) (hb : s.selectsBeyond c.pid i = true) :
    issue i body s = .next ((s.takeTrap c.pid 0x01 c.first (BitVec.ofNat 64 c.word) none).unstep c.pid) := by
  obtain ⟨pid, p, wid, mods, pfx, y, first, word⟩ := c
  simp only [checked, taken, Bool.and_eq_true, decide_eq_true_eq, beq_iff_eq, ctxOf, Ctx.mk.injEq] at h
  obtain ⟨⟨⟨⟨⟨⟨⟨⟨⟨⟨⟨hcur, hp⟩, _, _, rfl, rfl, rfl, rfl, rfl, rfl⟩, hmay⟩, hdue⟩, hdef⟩, hsc⟩, hmis⟩, hst⟩, hh⟩, hm⟩, hr⟩ := h
  simp only [Ctx.helper, Ctx.core, Ctx.counted, Bool.not_eq_true', Bool.or_eq_true, Option.isNone_iff_eq_none] at *
  have hdue' : (p.nextDue.isSome && (p.hints.isEmpty || p.st == .waiting)) = false := by
    rcases hdue with h | h
    · simp [h]
    · simp only [Bool.and_eq_true, Bool.not_eq_true', bne_iff_ne] at h
      simp [h.1, h.2]
  have hm' : (if i.meets then s.meet pid p (i == .halt) else none) = none := by
    rcases hm with h | h <;> simp [h]
  have hst' : (!(p.arrivedAt == some p.pc && p.begun) && decide (s.icc (coreOf pid) < p.issuedAt + (bundleSch p.hints).2)) = false := by
    rcases hst with h | h
    · rw [h]; rfl
    · simp [Nat.not_lt.mpr (of_decide_eq_true h)]
  simp only [issue, issueWith, gate, hcur, hp, hmay, hdue', hdef, hsc, hmis, hst', hh, hm', hr, hb, Ctx.counted, Bool.not_true, Bool.or_false,
    Bool.false_eq_true, if_false, if_true]

/-! Conversions (R45, R112). -/

theorem widen_ready (h : ready i s c = true) (hc : i.commits = false) {n : Nat} {d a : BitVec 7} {k : BitVec 4} {g : Ctx → Nat → Word × Events}
    {f : Nat → Word × Events} (hg : ∀ e < 2 ^ n, g c e = f e) :
    widen i n g d a k s = .next (s.laneResultCounted c d fun l => f (elem n (s.readV c.pid a.toNat l) k.toNat).toNat) := by
  rw [widen, lanewise_ready h hc]
  simp only [element_eq, hg _ (BitVec.isLt _)]

theorem narrow_ready (h : ready i s c = true) (hc : i.commits = false) {n : Nat} {d a : BitVec 7} {k : BitVec 4} (hk : n * k.toNat + n ≤ 32)
    {g : Ctx → Word → Nat × Events} {f : Word → BitVec n × Events} (hg : ∀ x, (BitVec.ofNat n (g c x).1, (g c x).2) = f x) :
    ∃ r : Nat → Word, narrow i n g d a k s = .next (s.laneResultCounted c d fun l => (r l, (f (s.readV c.pid a.toNat l)).2))
      ∧ ∀ l, elem n (r l) k.toNat = (f (s.readV c.pid a.toNat l)).1
        ∧ ∀ j, j < 32 / n → j ≠ k.toNat → elem n (r l) j = elem n (s.readV c.pid d.toNat l) j := by
  refine ⟨fun l => setElement n (s.readV c.pid d.toNat l) k.toNat (g c (s.readV c.pid a.toNat l)).1, ?_, fun l => ⟨?_, fun j hj hjk => ?_⟩⟩
  · rw [narrow, lanewise_ready h hc]
    simp only [← hg]
  · rw [elem_setElement_same hk, ← hg]
  · have : n * (j + 1) ≤ 32 := (Nat.mul_le_mul_left n hj).trans (Nat.mul_div_le 32 n)
    exact elem_setElement_other (by rw [Nat.mul_add] at this; omega) hjk _ _

end

/-! What each conversion computes. -/

section
variable (c : Ctx)

theorem fromFloat_plain (f : Fmt) (e : Nat) : fromFloat f false c e = out32 .rne c.mods.ftz (f.value e) := by simp [fromFloat, evNone]

theorem fromFloat_counted (f : Fmt) (e : Nat) :
    fromFloat f true c e = rounded32 .rne c.mods.ftz (f.value e, if f.value e = .nan then evNarrowNan else 0) := by
  simp [fromFloat, rounded32, evNone]

theorem ofNat_wrapInt (n : Nat) (z : Int) : BitVec.ofNat n (wrapInt n z) = BitVec.ofInt n z := by
  apply BitVec.eq_of_toNat_eq
  have hlt : wrapInt n z < 2 ^ n := (Int.toNat_lt' (Nat.two_pow_pos n)).mpr (Int.emod_lt_of_pos z (by exact_mod_cast Nat.two_pow_pos n))
  rw [BitVec.toNat_ofNat, BitVec.toNat_ofInt, Nat.mod_eq_of_lt hlt, wrapInt]

theorem signedOf_toNat {n : Nat} (hn : 0 < n) (x : BitVec n) : signedOf n x.toNat = x.toInt := by
  have hx := x.isLt
  have h2 : 2 ^ n = 2 * 2 ^ (n - 1) := by rw [← Nat.pow_succ', Nat.succ_eq_add_one, Nat.sub_add_cancel hn]
  rw [signedOf, BitVec.toInt_eq_toNat_cond, Nat.mod_eq_of_lt hx]
  by_cases h : x.toNat < 2 ^ (n - 1)
  · rw [if_pos h, if_pos (by omega)]
  · rw [if_neg h, if_neg (by omega)]

theorem fromInt_signed {n e : Nat} (hn : 0 < n) (h : e < 2 ^ n) : fromInt true n c e = ((BitVec.ofNat n e).signExtend 32, 0) := by
  have hs := signedOf_toNat hn (BitVec.ofNat n e)
  rw [BitVec.toNat_ofNat, Nat.mod_eq_of_lt h] at hs
  simp only [fromInt, if_true, hs, ofNat_wrapInt]
  rfl

theorem fromInt_unsigned {n e : Nat} (h : e < 2 ^ n) : fromInt false n c e = ((BitVec.ofNat n e).zeroExtend 32, 0) := by
  have : (BitVec.ofNat n e).zeroExtend 32 = BitVec.ofNat 32 e := by
    apply BitVec.eq_of_toNat_eq; simp [Nat.mod_eq_of_lt h]
  rw [this]
  simp [fromInt, evNone]

theorem ofInt_toInt_truncate {n : Nat} (hn : n ≤ 32) (x : Word) : BitVec.ofInt n x.toInt = x.truncate n :=
  BitVec.signExtend_eq_setWidth_of_le x hn

/-- An integer narrowed with signs: clamped to the range of `n` bits with sat, else its low bits. -/
theorem toInt_signed {n : Nat} (hn : n ≤ 32) (x : Word) : (BitVec.ofNat n (toInt true n c x).1, (toInt true n c x).2) =
    if c.mods.sat = false then (x.truncate n, 0)
    else if x.toInt < -(2 ^ (n - 1) : Nat) then (BitVec.ofInt n (-(2 ^ (n - 1) : Nat)), evSaturation)
    else if ((2 ^ (n - 1) : Nat) : Int) - 1 < x.toInt then (BitVec.ofInt n (((2 ^ (n - 1) : Nat) : Int) - 1), evSaturation)
    else (x.truncate n, 0) := by
  cases hs : c.mods.sat
  · simp [toInt, hs, ofNat_wrapInt, ofInt_toInt_truncate hn, evNone]
  · simp only [toInt, hs, if_true, clampInt, Bool.true_eq_false, if_false]
    split
    · simp [ofNat_wrapInt]
    · split <;> simp [ofNat_wrapInt, ofInt_toInt_truncate hn, evNone]

/-- An integer narrowed without signs. -/
theorem toInt_unsigned {n : Nat} (x : Word) : (BitVec.ofNat n (toInt false n c x).1, (toInt false n c x).2) =
    if c.mods.sat = true ∧ 2 ^ n - 1 < x.toNat then (BitVec.ofNat n (2 ^ n - 1), evSaturation) else (x.truncate n, 0) := by
  have hlow : BitVec.ofInt n (x.toNat : Int) = x.truncate n := by rw [BitVec.ofInt_natCast]; exact BitVec.ofNat_toNat n x
  have hp := Nat.two_pow_pos n
  cases hs : c.mods.sat
  · simp only [toInt, hs, Bool.false_eq_true, if_false, false_and, ofNat_wrapInt, hlow]; rfl
  · by_cases h : 2 ^ n - 1 < x.toNat
    · simp only [toInt, hs, if_true, clampInt, Bool.false_eq_true, if_false, show ¬ ((x.toNat : Int) < 0) by omega,
        show (x.toNat : Int) > ((2 ^ n : Nat) : Int) - 1 by omega, h, and_self, ofNat_wrapInt]
      rw [show ((2 ^ n : Nat) : Int) - 1 = ((2 ^ n - 1 : Nat) : Int) by omega, BitVec.ofInt_natCast]
    · simp only [toInt, hs, if_true, clampInt, Bool.false_eq_true, if_false, show ¬ ((x.toNat : Int) < 0) by omega,
        show ¬ ((x.toNat : Int) > ((2 ^ n : Nat) : Int) - 1) by omega, h, and_false, ofNat_wrapInt, hlow]
      rfl

theorem triCode_toInt (x : Word) : (BitVec.ofNat 2 (triCode x.toInt).1, (triCode x.toInt).2) =
    if x = 0 then (0, 0) else if x = 1 then (1, 0) else if x = BitVec.allOnes 32 then (3, 0)
    else if x.slt 0 then (3, evSaturation) else (1, evSaturation) := by
  have h0 : x.toInt = 0 ↔ x = 0 := by rw [← BitVec.toInt_inj]; simp
  have h1 : x.toInt = 1 ↔ x = 1 := by rw [← BitVec.toInt_inj]; simp
  have h2 : x.toInt = -1 ↔ x = BitVec.allOnes 32 := by rw [← BitVec.toInt_inj]; simp
  have hslt : x.slt 0 = decide (x.toInt < 0) := by simp [BitVec.slt]
  simp only [triCode, h0, h1, h2, hslt]
  by_cases a : x = 0
  · simp only [if_pos a]; rfl
  by_cases b : x = 1
  · simp only [if_neg a, if_pos b]; rfl
  by_cases e : x = BitVec.allOnes 32
  · simp only [if_neg a, if_neg b, if_pos e]; rfl
  have hne := mt h0.mp a
  by_cases d : x.toInt < 0
  · simp only [if_neg a, if_neg b, if_neg e, if_neg (show ¬ x.toInt > 0 by omega), d, decide_true, if_true]; rfl
  · simp only [if_neg a, if_neg b, if_neg e, if_pos (show x.toInt > 0 by omega), d, decide_false, Bool.false_eq_true, if_false]; rfl

theorem triValue_word {e : Nat} (h : e < 4) : (BitVec.ofNat 32 (wrapInt 32 (triValue e).1), (triValue e).2) =
    if e = 1 then ((1 : Word), (0 : Events)) else if e = 3 then (BitVec.allOnes 32, 0) else if e = 2 then (0, evTernary) else (0, 0) := by
  interval_cases e <;> rfl
end

/-- Every widening instruction is a `widen` of the function that R45 gives it. -/
theorem exec_of_widening {i : Instr} {d a : BitVec 7} {k : BitVec 4} {n : Nat} {f : Nat → Word × Events} (s : State) (c : Ctx)
    (hi : widening c.mods i = some (d, a, k, n, f)) :
    ∃ g, exec i s = widen i n g d a k s ∧ i.commits = false ∧ ∀ e < 2 ^ n, g c e = f e := by
  unfold widening at hi
  split at hi <;> cases hi
  · exact ⟨_, exec_vfcvtF32F16 .., rfl, fun e _ => fromFloat_plain c fp16 e⟩
  · exact ⟨_, exec_vfcvtF32Bf16 .., rfl, fun e _ => fromFloat_plain c bf16 e⟩
  · exact ⟨_, exec_vfcvtF32E4m3 .., rfl, fun e _ => fromFloat_counted c e4m3 e⟩
  · exact ⟨_, exec_vfcvtF32E5m2 .., rfl, fun e _ => fromFloat_counted c e5m2 e⟩
  · exact ⟨_, exec_vfcvtI32I8 .., rfl, fun e he => fromInt_signed c (by decide) he⟩
  · exact ⟨_, exec_vfcvtI32I16 .., rfl, fun e he => fromInt_signed c (by decide) he⟩
  · exact ⟨_, exec_vfcvtN32N8 .., rfl, fun e he => fromInt_unsigned c he⟩
  · exact ⟨_, exec_vfcvtN32N16 .., rfl, fun e he => fromInt_unsigned c he⟩
  · exact ⟨_, exec_vfcvtI32Tri .., rfl, fun e he => triValue_word he⟩

/-- Every narrowing instruction is a `narrow` of the function that R45 gives it, into an element that there is. -/
theorem exec_of_narrowing {i : Instr} {d a : BitVec 7} {k : BitVec 4} {n : Nat} {f : Word → BitVec n × Events} (s : State) (c : Ctx)
    (hwf : i.wf = true) (hi : narrowing c.mods i = some (d, a, k, ⟨n, f⟩)) :
    ∃ g, exec i s = narrow i n g d a k s ∧ i.commits = false ∧ n * k.toNat + n ≤ 32 ∧ ∀ x, (BitVec.ofNat n (g c x).1, (g c x).2) = f x := by
  have hk := k.isLt
  unfold narrowing at hi
  split at hi <;> cases hi
  · exact ⟨_, exec_vfcvtF16F32 .., rfl, by have := of_decide_eq_true hwf; omega, fun x => rfl⟩
  · exact ⟨_, exec_vfcvtBf16F32 .., rfl, by have := of_decide_eq_true hwf; omega, fun x => rfl⟩
  · exact ⟨_, exec_vfcvtE4m3F32 .., rfl, by have := of_decide_eq_true hwf; omega, fun x => rfl⟩
  · exact ⟨_, exec_vfcvtE5m2F32 .., rfl, by have := of_decide_eq_true hwf; omega, fun x => rfl⟩
  · exact ⟨_, exec_vfcvtI8I32 .., rfl, by have := of_decide_eq_true hwf; omega, fun x => (toInt_signed c (by decide) x).trans (by simp [BitVec.slt])⟩
  · exact ⟨_, exec_vfcvtI16I32 .., rfl, by have := of_decide_eq_true hwf; omega, fun x => (toInt_signed c (by decide) x).trans (by simp [BitVec.slt])⟩
  · exact ⟨_, exec_vfcvtN8N32 .., rfl, by have := of_decide_eq_true hwf; omega, fun x => (toInt_unsigned c x).trans (by simp [BitVec.ult])⟩
  · exact ⟨_, exec_vfcvtN16N32 .., rfl, by have := of_decide_eq_true hwf; omega, fun x => (toInt_unsigned c x).trans (by simp [BitVec.ult])⟩
  · exact ⟨_, exec_vfcvtTriI32 .., rfl, by omega, triCode_toInt⟩

/-! Arithmetic under a descriptor (R47 to R51, R113, R114). -/

/-- A valid descriptor's elements fit the lane, and those of 6 bits leave bits 30 and 31. -/
theorem Desc.fits_of_valid {q : Desc} (h : q.valid = true) : (q.wid = 4 ∧ q.count = 8) ∨ (q.wid = 6 ∧ q.count = 5) ∨ (q.wid = 8 ∧ q.count = 4) := by
  simp only [Desc.valid, Bool.and_eq_true, Bool.or_eq_true, beq_iff_eq] at h
  obtain ⟨⟨⟨⟨⟨⟨⟨⟨⟨⟨hw, -⟩, -⟩, -⟩, -⟩, -⟩, -⟩, -⟩, -⟩, -⟩, -⟩ := h
  rcases hw with (hw | hw) | hw <;> simp [Desc.count, hw]

theorem descOf_fits {s : State} {pid n : Nat} {q : Desc} (h : s.descOf pid n = some q) :
    (q.wid = 4 ∧ q.count = 8) ∨ (q.wid = 6 ∧ q.count = 5) ∨ (q.wid = 8 ∧ q.count = 4) := by
  simp only [State.descOf] at h
  split at h
  · split at h
    · next hv => cases h; exact Desc.fits_of_valid hv
    · cases h
  · cases h

theorem element_fits {s : State} {pid n : Nat} {q : Desc} (h : s.descOf pid n = some q) {j : Nat} (hj : j < q.count) : q.wid * j + q.wid ≤ 32 := by
  rcases descOf_fits h with ⟨hw, hc⟩ | ⟨hw, hc⟩ | ⟨hw, hc⟩ <;> rw [hw] <;> omega

/-- The two bits that five elements of 6 bits leave. -/
theorem fld_unused {w : Word} (h : ∀ p, 30 ≤ p → p < 32 → w.getLsbD p = false) : fld w.toNat 30 2 = 0 := by
  rw [fld_toNat, show w.extractLsb' 30 2 = 0 by
    refine BitVec.eq_of_getLsbD_eq fun p hp => ?_
    rw [BitVec.getLsbD_extractLsb', h _ (by omega) (by omega)]; simp]
  rfl

/-- A lane without the bits that elements of 6 bits leave. -/
def usedBits (n : Nat) (w : Word) : Word := if n = 6 then w &&& 0x3FFFFFFF#32 else w

theorem getLsbD_usedBits (n : Nat) (w : Word) {p : Nat} (hp : p < 32) : (usedBits n w).getLsbD p = (w.getLsbD p && !(decide (n = 6) && decide (30 ≤ p))) := by
  have hmask : (0x3FFFFFFF#32).getLsbD p = !decide (30 ≤ p) := by interval_cases p <;> rfl
  by_cases h : n = 6
  · simp [usedBits, h, hmask]
  · simp [usedBits, h]

theorem elem_usedBits {n j : Nat} (hj : n * j + n ≤ 32) (h6 : n = 6 → j < 5) (w : Word) : elem n (usedBits n w) j = elem n w j := by
  refine BitVec.eq_of_getLsbD_eq fun p hp => ?_
  have : ¬ (n = 6 ∧ 30 ≤ n * j + p) := by
    rintro ⟨rfl, h⟩
    have := h6 rfl
    omega
  rw [getLsbD_elem, getLsbD_elem, getLsbD_usedBits _ _ (by omega), ← Bool.decide_and, decide_eq_false this, Bool.not_false, Bool.and_true]

section
variable {s : State} {c : Ctx} {n : BitVec 2}

section
variable {i : Instr} {d : BitVec 7} (h : ready i s c = true) (hc : i.commits = false) (f : Ctx → State → Nat → Desc → Nat → FV × Events)
include h hc

theorem issue_descLanes {body : Ctx → State → Fate} {g : Nat → Word × Events} (hb : body c s = descLanes c d s g) :
    issue i body s = .next (s.laneResultCounted c d g) := by
  rw [issue_of_ready _ h, entered_of_not_commits hc, hb]
  simp [descLanes, conclude, State.laneResultCounted, Ctx.lanes, Function.comp_def]

theorem issue_unsetDesc {body : Ctx → State → Fate} (hb : body c s = unsetDesc c d s) :
    issue i body s = .next (s.laneResultCounted c d fun _ => (0, evDescriptor)) := by
  rw [issue_of_ready _ h, entered_of_not_commits hc, hb]; rfl

theorem vnf_unset (hq : s.descOf c.pid n.toNat = none) : vnf i f d n s = .next (s.laneResultCounted c d fun _ => (0, evDescriptor)) :=
  issue_unsetDesc h hc (by rw [hq])

/-- Under a set descriptor each element is the exact result `v` rounded once, and the lane counts what any element and its operands count. -/
theorem vnf_set {q : Desc} (hq : s.descOf c.pid n.toNat = some q) {v : Nat → Nat → FV × Events} {ev : Nat → Nat → Events}
    (hf : ∀ l j, f c s l q j = ((v l j).1, (v l j).2 ||| ev l j)) : ∃ r : Nat → Word × Events,
    vnf i f d n s = .next (s.laneResultCounted c d r)
      ∧ ∀ l, (∀ j, j < q.count → fld (r l).1.toNat (q.wid * j) q.wid = (q.pack c.mods.rnd c.mods.sat (v l j).1).1 % 2 ^ q.wid)
        ∧ (q.wid = 6 → fld (r l).1.toNat 30 2 = 0)
        ∧ ∀ e, e < 8 → ((r l).2.getLsbD e = true ↔
            ∃ j, j < q.count ∧ ((q.pack c.mods.rnd c.mods.sat (v l j).1).2 ||| (v l j).2 ||| ev l j).getLsbD e = true) := by
  let rounded (l k : Nat) : Nat × Events :=
    ((q.pack c.mods.rnd c.mods.sat (f c s l q k).1).1, (q.pack c.mods.rnd c.mods.sat (f c s l q k).1).2 ||| (f c s l q k).2)
  refine ⟨fun l => gathered q.wid q.count (rounded l), issue_descLanes h hc (by rw [hq]; rfl), fun l => ⟨fun j hj => ?_, fun h6 => ?_, fun e _ => ?_⟩⟩
  · rw [fld_elem, elem_gathered hj (element_fits hq hj), BitVec.toNat_ofNat]
    simp only [rounded, hf]
  · refine fld_unused fun p hlo hp => Bool.eq_false_iff.mpr fun hbit => ?_
    obtain ⟨j, hj, -, hhi, -⟩ := (getLsbD_gathered _ _ _ p hp).mp hbit
    have := descOf_fits hq
    rw [h6] at hhi
    omega
  · rw [getLsbD_gathered_events]
    simp only [rounded, hf, BitVec.or_assoc]
end

/-- A descriptor's conversion selects an element that there is, once it issues (R113). -/
theorem selects_of_ready {i : Instr} (h : ready i s c = true) : s.selectsBeyond c.pid i = false := by
  simp only [ready, Bool.and_eq_true, Bool.not_eq_true'] at h
  obtain ⟨⟨⟨⟨⟨-, h⟩, -⟩, -⟩, -⟩, -⟩ := h
  exact h

section
variable {d a : BitVec 7} {k : BitVec 4}

theorem exec_vncvtF32_unset (h : ready (.vncvtF32 d a k n) s c = true) (hq : s.descOf c.pid n.toNat = none) :
    exec (.vncvtF32 d a k n) s = .next (s.laneResultCounted c d fun _ => (0, evDescriptor)) := by
  have hk : ¬ 7 < k.toNat := by simpa [State.selectsBeyond, hq] using selects_of_ready h
  exact issue_unsetDesc h rfl (by rw [hq]; exact if_neg hk)

theorem exec_vncvtNf_unset (h : ready (.vncvtNf d a k n) s c = true) (hq : s.descOf c.pid n.toNat = none) :
    exec (.vncvtNf d a k n) s = .next (s.laneResultCounted c d fun _ => (0, evDescriptor)) := by
  have hk : ¬ 7 < k.toNat := by simpa [State.selectsBeyond, hq] using selects_of_ready h
  exact issue_unsetDesc h rfl (by rw [hq]; exact if_neg hk)

variable {q : Desc} (hq : s.descOf c.pid n.toNat = some q)
include hq

theorem exec_vncvtF32_set (h : ready (.vncvtF32 d a k n) s c = true) : exec (.vncvtF32 d a k n) s = .next (s.laneResultCounted c d fun l =>
    rounded32 .rne c.mods.ftz (q.value (fld (s.readV c.pid a.toNat l).toNat (q.wid * k.toNat) q.wid))) := by
  have hk : ¬ q.count ≤ k.toNat := by simpa [State.selectsBeyond, hq] using selects_of_ready h
  exact issue_descLanes h rfl (by rw [hq]; exact if_neg hk)

/-- A narrowing under a descriptor replaces the element that it selects, and clears the bits that no element uses. -/
theorem exec_vncvtNf_set (h : ready (.vncvtNf d a k n) s c = true) : ∃ r : Nat → Word,
    exec (.vncvtNf d a k n) s = .next (s.laneResultCounted c d fun l =>
      (r l, (q.pack c.mods.rnd c.mods.sat (fin32 c.mods.ftz (s.readV c.pid a.toNat l))).2))
    ∧ ∀ l, fld (r l).toNat (q.wid * k.toNat) q.wid = (q.pack c.mods.rnd c.mods.sat (fin32 c.mods.ftz (s.readV c.pid a.toNat l))).1 % 2 ^ q.wid
      ∧ (q.wid = 6 → fld (r l).toNat 30 2 = 0)
      ∧ ∀ j, j < q.count → j ≠ k.toNat → fld (r l).toNat (q.wid * j) q.wid = fld (s.readV c.pid d.toNat l).toNat (q.wid * j) q.wid := by
  have hk : ¬ q.count ≤ k.toNat := by simpa [State.selectsBeyond, hq] using selects_of_ready h
  have h6 (j : Nat) (hj : j < q.count) (h6 : q.wid = 6) : j < 5 := by have := descOf_fits hq; omega
  refine ⟨fun l => usedBits q.wid (setElement q.wid (s.readV c.pid d.toNat l) k.toNat
    (q.pack c.mods.rnd c.mods.sat (fin32 c.mods.ftz (s.readV c.pid a.toNat l))).1),
    issue_descLanes h rfl (by rw [hq]; exact if_neg hk), fun l => ⟨?_, fun hw => fld_unused fun p hlo hp => ?_, fun j hj hjk => ?_⟩⟩
  · rw [fld_elem, elem_usedBits (element_fits hq (by omega)) (h6 _ (by omega)), elem_setElement_same (element_fits hq (by omega)), BitVec.toNat_ofNat]
  · simp [getLsbD_usedBits _ _ hp, hw, hlo]
  · rw [fld_elem, fld_elem, elem_usedBits (element_fits hq hj) (h6 j hj), elem_setElement_other (element_fits hq hj) hjk]
end
end

/-- Settles O26: a conversion by the function that R45 gives it, and an instruction under a descriptor by the descriptor's elements. -/
theorem conversionForms : Obligations.ConversionForms := by
  unfold Obligations.ConversionForms
  refine ⟨fun i s c d a k h hwf => ⟨fun n f hi => ?widening, fun n f hi => ?narrowing⟩, fun s c d a b k n => ⟨fun hq => ?unset, fun q hq => ?set⟩⟩
  case widening =>
    obtain ⟨g, he, hc, hg⟩ := exec_of_widening s c hi
    exact he.trans (widen_ready h hc hg)
  case narrowing =>
    obtain ⟨g, he, hc, hk, hg⟩ := exec_of_narrowing s c hwf hi
    rw [he]
    exact narrow_ready h hc hk hg
  case unset =>
    have beyond (hk : 8 ≤ k.toNat) : s.selectsBeyond c.pid (.vncvtF32 d a k n) = true ∧ s.selectsBeyond c.pid (.vncvtNf d a k n) = true := by
      simp only [State.selectsBeyond, hq]; simp; omega
    exact ⟨fun h => vnf_unset h rfl _ hq, fun h => vnf_unset h rfl _ hq, fun h => vnf_unset h rfl _ hq, fun h => exec_vncvtF32_unset h hq,
      fun h => exec_vncvtNf_unset h hq, fun hk h => issue_of_selectsBeyond _ h (beyond hk).1, fun hk h => issue_of_selectsBeyond _ h (beyond hk).2⟩
  case set =>
    have beyond (hk : q.count ≤ k.toNat) : s.selectsBeyond c.pid (.vncvtF32 d a k n) = true ∧ s.selectsBeyond c.pid (.vncvtNf d a k n) = true := by
      simp [State.selectsBeyond, hq, hk]
    exact ⟨fun h => vnf_set h rfl _ hq fun _ _ => by simp only [BitVec.or_assoc]; rfl, fun h => vnf_set h rfl _ hq fun _ _ => by simp only [BitVec.or_assoc]; rfl,
      fun h => vnf_set h rfl _ hq fun _ _ => by simp only [BitVec.or_assoc]; rfl,
      fun hk => ⟨fun h => issue_of_selectsBeyond _ h (beyond hk).1, fun h => issue_of_selectsBeyond _ h (beyond hk).2⟩,
      exec_vncvtF32_set hq, exec_vncvtNf_set hq⟩

end Sys2Proof.Machine
end

section
/-! PROOF. Reductions, scans and pixel quads (R54, R106, R123 to R127). -/
namespace Sys2Proof.Machine

/-! Active lanes (R97). -/

theorem mem_lanesOf {m : Lanes} {l : Nat} : l ∈ lanesOf m ↔ m.getLsbD l = true := by
  simp only [lanesOf, List.mem_filter, List.mem_range, and_iff_right_iff_imp]
  exact fun h => BitVec.lt_of_getLsbD h

theorem lanesOf_pairwise (m : Lanes) : (lanesOf m).Pairwise (· < ·) := List.pairwise_lt_range.filter _

theorem lanesOf_eq_nil_iff {m : Lanes} : lanesOf m = [] ↔ m = 0 := by
  constructor
  · intro h
    refine BitVec.eq_of_getLsbD_eq fun l _ => ?_
    have hl : m.getLsbD l = false := Bool.eq_false_iff.mpr fun hl => List.not_mem_nil (h ▸ mem_lanesOf.mpr hl)
    simp [hl]
  · rintro rfl
    simp [lanesOf]

theorem getLsbD_maskOf (ls : List Nat) {l : Nat} (hl : l < 96) : (maskOf ls).getLsbD l = true ↔ l ∈ ls := by
  have go (ls : List Nat) (m : Lanes) : (ls.foldl (fun m l => m ||| laneBit l) m).getLsbD l = true ↔ m.getLsbD l = true ∨ l ∈ ls := by
    induction ls generalizing m with
    | nil => simp
    | cons k ls ih =>
      rw [List.foldl_cons, ih, BitVec.getLsbD_or, Bool.or_eq_true, List.mem_cons, or_assoc]
      have : (laneBit k).getLsbD l = true ↔ l = k := by
        simp [laneBit, hl]
        omega
      rw [this]
  simpa [maskOf] using go ls 0

/-- What a compare writes without cmb: the active lanes' bits, over the others' old ones (R117). -/
theorem writeCompare_write (s : State) (c : Ctx) (k : BitVec 3) (f : Nat → Bool) : ∃ new : Lanes, s.writeCompare c k .write f = s.writeK c.pid k.toNat new
    ∧ ∀ l, l < 96 → new.getLsbD l = if c.p.mask.getLsbD l then f l else (s.readK c.pid k.toNat).getLsbD l := by
  refine ⟨_, rfl, fun l hl => ?_⟩
  have h := getLsbD_maskOf (c.lanes.filter f) hl
  rw [List.mem_filter, Ctx.lanes, mem_lanesOf] at h
  simp only [BitVec.getLsbD_or, BitVec.getLsbD_and, BitVec.getLsbD_not, hl, decide_true, Bool.true_and]
  cases hm : c.p.mask.getLsbD l
  · simp
  · rw [hm, eq_self, true_and, ← Bool.eq_iff_iff] at h
    simpa [Ctx.lanes] using h

/-! The values that a reduction orders (R106, R123, R124). -/

theorem ite_toInt_le (a b p q : Word) : (if a.toInt ≤ b.toInt then p else q) = if b.slt a then q else p := by
  rw [BitVec.slt, ite_eq_iff]
  by_cases h : a.toInt ≤ b.toInt <;> simp [h, not_lt.mpr, not_le.mp]

theorem ite_toNat_le (a b p q : Word) : (if a.toNat ≤ b.toNat then p else q) = if b.ult a then q else p := by
  by_cases h : a.toNat ≤ b.toNat
  · simp [BitVec.ult, h, Nat.not_lt.mpr h]
  · simp [BitVec.ult, h, Nat.not_le.mp h]

/-- One node of the tree is one step of R123's reduction. -/
theorem redNode_eq (op : RedOp) (t : ElemTy) (rnd : Rnd) (ftz : Bool) : redNode op t rnd ftz = redStep op t rnd ftz := by
  funext x y
  cases op <;> cases t
  case min.i32 | max.i32 => simp only [redNode, redStep, ite_toInt_le]; rfl
  case min.n32 | max.n32 => simp only [redNode, redStep, ite_toNat_le]; rfl
  all_goals rfl

theorem isNan32_iff (w : Word) : isNan32 w = true ↔ fp32.value w.toNat = .nan := by simp [isNan32]

/-- A value under ftz is itself, or a zero. -/
theorem flush32_cases (ftz : Bool) (w : Word) : flush32 ftz w = w ∨ (ftz = true ∧ (flush32 ftz w = 0 ∨ flush32 ftz w = 0x80000000)) := by
  unfold flush32
  split
  · next h =>
    right
    have : fld w.toNat 31 1 < 2 := fld_lt _ _ _
    rcases (by omega : fld w.toNat 31 1 = 0 ∨ fld w.toNat 31 1 = 1) with e | e <;> simp_all
  · exact .inl rfl

theorem isNan32_flush32 (ftz : Bool) (w : Word) (h : isNan32 w = false) : isNan32 (flush32 ftz w) = false := by
  rcases flush32_cases ftz w with e | ⟨-, e | e⟩ <;> rw [e]
  · exact h
  · decide
  · decide

theorem flush32_idem (ftz : Bool) (w : Word) : flush32 ftz (flush32 ftz w) = flush32 ftz w := by
  rcases flush32_cases ftz w with e | ⟨rfl, e | e⟩
  · rw [e, e]
  · rw [e]; decide
  · rw [e]; decide

theorem isNan32_redInput (ftz : Bool) (w : Word) : isNan32 (redInput .f32 ftz w) = isNan32 w := by
  cases h : isNan32 w
  · simp [redInput, h, isNan32_flush32]
  · simp only [redInput, h, if_true]; decide

/-- A lane as a reduction reads it is a fixed point of that reading: no denormal under ftz, and no NaN but the canonical one. -/
theorem redInput_idem (t : ElemTy) (ftz : Bool) (w : Word) : redInput t ftz (redInput t ftz w) = redInput t ftz w := by
  cases t
  case i32 | n32 => rfl
  case f32 =>
    cases h : isNan32 w
    · simp [redInput, h, isNan32_flush32, flush32_idem]
    · simp only [redInput, h, if_true]; rfl

theorem eq_nan32 {ftz : Bool} {x : Word} (h : redInput .f32 ftz x = x) (hn : isNan32 x = true) : x = nan32 := by
  rw [← h]; simp [redInput, hn]

theorem flush32_of_redInput {ftz : Bool} {x : Word} (h : redInput .f32 ftz x = x) : flush32 ftz x = x := by
  cases hn : isNan32 x
  · simpa [redInput, hn] using h
  · rw [eq_nan32 h hn]; cases ftz <;> decide

/-- The key of FP32 values tells every two codes apart. -/
theorem orderKey_eq (w : Word) : orderKey w = if w.toNat < 2 ^ 31 then (w.toNat : Int) else 2 ^ 31 - 1 - w.toNat := by
  have hw := w.isLt
  have hs : fld w.toNat 31 1 = if w.toNat < 2 ^ 31 then 0 else 1 := by simp only [fld]; split <;> omega
  have hm : fld w.toNat 0 31 = if w.toNat < 2 ^ 31 then w.toNat else w.toNat - 2 ^ 31 := by simp only [fld]; split <;> omega
  rw [orderKey, hs, hm]
  by_cases h : w.toNat < 2 ^ 31
  · rw [if_pos h, if_pos h, if_pos h]; rfl
  · rw [if_neg h, if_neg h, if_neg h, if_pos rfl]; omega

theorem orderKey_inj {x y : Word} (h : orderKey x = orderKey y) : x = y := by
  apply BitVec.eq_of_toNat_eq
  rw [orderKey_eq, orderKey_eq] at h
  split at h <;> split at h <;> omega

theorem orderKey_bounds (x : Word) : -2 ^ 31 ≤ orderKey x ∧ orderKey x < 2 ^ 31 := by
  have hx := x.isLt
  rw [orderKey_eq]
  split <;> omega

/-- The order of a minimum, or of a maximum turned round: NaNs last (R106, R123). -/
def redRank (mx : Bool) (t : ElemTy) (w : Word) : Int :=
  match t with
  | .i32 => if mx then -w.toInt else w.toInt
  | .n32 => if mx then -w.toNat else w.toNat
  | .f32 => if isNan32 w then 2 ^ 40 else if mx then -orderKey w else orderKey w

/-- Two values that a reduction reads as they are rank apart. -/
theorem redRank_inj {mx : Bool} {t : ElemTy} {ftz : Bool} {x y : Word} (hx : redInput t ftz x = x) (hy : redInput t ftz y = y)
    (h : redRank mx t x = redRank mx t y) : x = y := by
  cases t
  case i32 => exact BitVec.eq_of_toInt_eq (by cases mx <;> simpa [redRank] using h)
  case n32 => exact BitVec.eq_of_toNat_eq (by cases mx <;> simp [redRank] at h <;> omega)
  case f32 =>
    have bx := orderKey_bounds x
    have bY := orderKey_bounds y
    simp only [redRank] at h
    cases nx : isNan32 x <;> cases ny : isNan32 y <;> simp only [nx, ny, if_true, Bool.false_eq_true, if_false] at h
    · exact orderKey_inj (by cases mx <;> simpa using h)
    · cases mx <;> simp at h <;> omega
    · cases mx <;> simp at h <;> omega
    · rw [eq_nan32 hx nx, eq_nan32 hy ny]

/-- Of two values that are one where they tie, either comparison takes the lesser. -/
theorem ite_lt_eq_ite_le {a b : Int} {x y : Word} (tie : a = b → x = y) :
    (if b < a then y else x) = (if a ≤ b then x else y) ∧ (if a < b then x else y) = if a ≤ b then x else y := by
  rcases lt_trichotomy a b with h | h | h
  · simp [h, h.le, h.not_gt]
  · simp [h, tie h]
  · simp [h, h.not_ge, h.not_gt]

theorem minmax32_selects (mx : Bool) {ftz : Bool} {x y : Word} (hx : redInput .f32 ftz x = x) (hy : redInput .f32 ftz y = y) :
    minmax32 mx ftz x y = if redRank mx .f32 x ≤ redRank mx .f32 y then x else y := by
  have bx := orderKey_bounds x
  have bY := orderKey_bounds y
  have tie : redRank mx .f32 x = redRank mx .f32 y → x = y := redRank_inj hx hy
  simp only [minmax32, flush32_of_redInput hx, flush32_of_redInput hy]
  simp only [redRank] at tie ⊢
  rcases Bool.eq_false_or_eq_true (isNan32 x) with nx | nx <;> rcases Bool.eq_false_or_eq_true (isNan32 y) with ny | ny <;>
    simp only [nx, ny, Bool.and_self, Bool.and_true, Bool.and_false, Bool.false_eq_true, if_false, if_true] at tie ⊢
  · rw [if_pos le_rfl, eq_nan32 hx nx]
  · rw [if_neg (by cases mx <;> simp <;> omega)]
  · rw [if_pos (by cases mx <;> simp <;> omega)]
  · cases mx
    · simp
    · rw [← (ite_lt_eq_ite_le tie).2]
      by_cases h : orderKey x ≤ orderKey y <;> simp [h, not_lt.mpr, not_le.mp]

/-- A minimum or a maximum takes the value of the lower rank, and counts nothing. -/
theorem redStep_selects (mx : Bool) (t : ElemTy) (rnd : Rnd) {ftz : Bool} {x y : Word} (hx : redInput t ftz x = x) (hy : redInput t ftz y = y) :
    redStep (if mx then .max else .min) t rnd ftz x y = (if redRank mx t x ≤ redRank mx t y then x else y, 0) := by
  have tie (h : redRank mx t x = redRank mx t y) : x = y := redRank_inj hx hy h
  cases t
  case i32 =>
    cases mx
    · simpa [redStep, redRank, BitVec.slt] using (ite_lt_eq_ite_le tie).1
    · simpa [redStep, redRank, BitVec.slt] using (ite_lt_eq_ite_le tie).2
  case n32 =>
    cases mx
    · simpa [redStep, redRank, BitVec.ult] using (ite_lt_eq_ite_le tie).1
    · simpa [redStep, redRank, BitVec.ult] using (ite_lt_eq_ite_le tie).2
  case f32 => cases mx <;> exact congrArg (·, (0 : Events)) (minmax32_selects _ hx hy)

/-! The tree of R123: a property of one lane that every join keeps holds of the whole reduction. -/

/-- The result of some of the values, `xs`: none of no value, else one of which `R` holds. -/
def Reduced (R : List Word → Word × Events → Prop) (xs : List Word) : Option (Word × Events) → Prop
  | none => xs = []
  | some r => xs ≠ [] ∧ R xs r

section
variable {R : List Word → Word × Events → Prop} {f : Word → Word → Word × Events} (hone : ∀ w, R [w] (w, 0))
  (hjoin : ∀ xs ys a b, R xs a → R ys b → R (xs ++ ys) ((f a.1 b.1).1, (f a.1 b.1).2 ||| a.2 ||| b.2))

include hjoin in
theorem Reduced.join {xs ys : List Word} {a b : Option (Word × Events)} (ha : Reduced R xs a) (hb : Reduced R ys b) :
    Reduced R (xs ++ ys) (redJoin f a b) := by
  cases a with
  | none => cases ha; exact hb
  | some a =>
    cases b with
    | none => cases hb; rwa [List.append_nil]
    | some b => exact ⟨by simp [ha.1], hjoin _ _ _ _ ha.2 hb.2⟩

include hone hjoin

theorem Reduced.tsum (v : Nat → Option Word) (k lo : Nat) : Reduced R ((List.range' lo (2 ^ k)).filterMap v) (tsum f v k lo) := by
  induction k generalizing lo with
  | zero =>
    cases h : v lo with
    | none => simp [Machine.tsum, h, Reduced]
    | some w => simpa [Machine.tsum, h, Reduced, evNone] using hone w
  | succ k ih =>
    rw [Nat.pow_succ, Nat.mul_two, ← List.range'_append_1, List.filterMap_append]
    exact (ih lo).join hjoin (ih _)

/-- The whole tree over 96 lanes. -/
theorem Reduced.tree (v : Nat → Option Word) : Reduced R ((List.range 96).filterMap v)
    (redJoin f (redJoin f (Machine.tsum f v 5 0) (Machine.tsum f v 5 32)) (Machine.tsum f v 5 64)) := by
  have e : List.range 96 = List.range' 0 (2 ^ 5) ++ List.range' 32 (2 ^ 5) ++ List.range' 64 (2 ^ 5) := by decide
  rw [e, List.filterMap_append, List.filterMap_append]
  exact ((Reduced.tsum hone hjoin v 5 0).join hjoin (Reduced.tsum hone hjoin v 5 32)).join hjoin (Reduced.tsum hone hjoin v 5 64)
end

/-- The reduction of the active lanes: the empty-set value of none, else what every join keeps. -/
theorem reduce_induction {op : RedOp} {t : ElemTy} {rnd : Rnd} {ftz : Bool} {R : List Word → Word × Events → Prop} (hop : op ≠ .addDet)
    (hone : ∀ w, R [w] (w, 0)) (hjoin : ∀ xs ys a b, R xs a → R ys b →
      R (xs ++ ys) ((redStep op t rnd ftz a.1 b.1).1, (redStep op t rnd ftz a.1 b.1).2 ||| a.2 ||| b.2))
    (v : Nat → Option Word) (hne : (List.range 96).filterMap v ≠ []) : R ((List.range 96).filterMap v) (reduce op t rnd ftz v) := by
  have h := Reduced.tree (f := redStep op t rnd ftz) hone hjoin v
  rw [reduce, if_neg hop, redNode_eq]
  dsimp only
  revert h
  generalize redJoin _ _ _ = x
  cases x with
  | none => exact fun h => absurd h hne
  | some r => exact fun h => h.2

theorem reduce_empty {op : RedOp} {t : ElemTy} {rnd : Rnd} {ftz : Bool} {v : Nat → Option Word} (h : (List.range 96).filterMap v = []) :
    reduce op t rnd ftz v = (redEmpty op t, 0) := by
  by_cases hop : op = .addDet
  · rw [reduce, if_pos hop, h, hop]; rfl
  · have hr := Reduced.tree (R := fun _ _ => True) (f := redStep op t rnd ftz) (fun _ => trivial) (fun _ _ _ _ _ _ => trivial) v
    rw [reduce, if_neg hop, redNode_eq]
    dsimp only
    revert hr
    generalize redJoin _ _ _ = x
    cases x with
    | none => intro _; cases op <;> cases t <;> rfl
    | some r => exact fun hr => absurd h hr.1

/-- A minimum or a maximum is one of the values, of the least rank. -/
theorem reduce_selects (mx : Bool) {t : ElemTy} (rnd : Rnd) {ftz : Bool} {v : Nat → Option Word} (hne : (List.range 96).filterMap v ≠ [])
    (hv : ∀ w ∈ (List.range 96).filterMap v, redInput t ftz w = w) :
    (reduce (if mx then .max else .min) t rnd ftz v).1 ∈ (List.range 96).filterMap v
      ∧ ∀ y ∈ (List.range 96).filterMap v, redRank mx t (reduce (if mx then .max else .min) t rnd ftz v).1 ≤ redRank mx t y := by
  refine reduce_induction (R := fun xs r => (∀ w ∈ xs, redInput t ftz w = w) → r.1 ∈ xs ∧ ∀ y ∈ xs, redRank mx t r.1 ≤ redRank mx t y)
    (by cases mx <;> decide) (fun w _ => by simp) (fun xs ys a b ha hb h => ?_) v hne hv
  obtain ⟨ha, la⟩ := ha fun w hw => h w (List.mem_append_left _ hw)
  obtain ⟨hb, lb⟩ := hb fun w hw => h w (List.mem_append_right _ hw)
  rw [redStep_selects mx t rnd (h _ (List.mem_append_left _ ha)) (h _ (List.mem_append_right _ hb))]
  dsimp only
  split
  · next hab => exact ⟨List.mem_append_left _ ha, fun y hy => (List.mem_append.mp hy).elim (la y) fun hy => hab.trans (lb y hy)⟩
  · next hab =>
    exact ⟨List.mem_append_right _ hb, fun y hy => (List.mem_append.mp hy).elim (fun hy => (not_le.mp hab).le.trans (la y hy)) (lb y)⟩

/-- Only a float sum counts events. -/
theorem redStep_events {op : RedOp} {t : ElemTy} (h : op = .min ∨ op = .max ∨ t ≠ .f32) (hd : op ≠ .addDet) (rnd : Rnd) (ftz : Bool) (x y : Word) :
    (redStep op t rnd ftz x y).2 = 0 := by
  cases op <;> cases t <;> simp_all [redStep]

theorem reduce_events {op : RedOp} {t : ElemTy} (h : op = .min ∨ op = .max ∨ t ≠ .f32) (hd : op ≠ .addDet) (rnd : Rnd) (ftz : Bool)
    (v : Nat → Option Word) : (reduce op t rnd ftz v).2 = 0 := by
  by_cases hne : (List.range 96).filterMap v = []
  · rw [reduce_empty hne]
  · refine reduce_induction (R := fun _ r => r.2 = 0) hd (fun _ => rfl) (fun xs ys a b ha hb => ?_) v hne
    rw [redStep_events h hd, ha, hb]
    rfl

/-- The tree of an associative operation is its fold, in any grouping. -/
theorem reduce_eq_foldl {op : RedOp} {t : ElemTy} {rnd : Rnd} {ftz : Bool} {g : Word → Word → Word} [Std.Associative g]
    [Std.LawfulIdentity g (redEmpty op t)] (hop : op ≠ .addDet) (hg : ∀ x y, redStep op t rnd ftz x y = (g x y, 0)) (v : Nat → Option Word) :
    reduce op t rnd ftz v = (((List.range 96).filterMap v).foldl g (redEmpty op t), 0) := by
  by_cases hne : (List.range 96).filterMap v = []
  · rw [reduce_empty hne, hne, List.foldl_nil]
  · refine reduce_induction (R := fun xs r => r = (xs.foldl g (redEmpty op t), 0)) hop (fun w => ?_) (fun xs ys a b ha hb => ?_) v hne
    · rw [List.foldl_cons, List.foldl_nil, Std.LawfulLeftIdentity.left_id (op := g)]
    · subst ha hb
      rw [hg, List.foldl_append, ← Std.LawfulRightIdentity.right_id (op := g) (o := redEmpty op t) (List.foldl g _ xs), List.foldl_assoc,
        Std.LawfulRightIdentity.right_id (op := g) (o := redEmpty op t)]
      simp

theorem getLsbD_foldl_and (ws : List Word) (e : Word) (j : Nat) :
    (ws.foldl (· &&& ·) e).getLsbD j = (e.getLsbD j && ws.all (·.getLsbD j)) := by
  induction ws generalizing e with
  | nil => simp
  | cons w ws ih => rw [List.foldl_cons, ih, BitVec.getLsbD_and, List.all_cons, Bool.and_assoc]

theorem getLsbD_foldl_or (ws : List Word) (e : Word) (j : Nat) :
    (ws.foldl (· ||| ·) e).getLsbD j = (e.getLsbD j || ws.any (·.getLsbD j)) := by
  induction ws generalizing e with
  | nil => simp
  | cons w ws ih => rw [List.foldl_cons, ih, BitVec.getLsbD_or, List.any_cons, Bool.or_assoc]

theorem getLsbD_foldl_xor (ws : List Word) (e : Word) (j : Nat) :
    (ws.foldl (· ^^^ ·) e).getLsbD j = (ws.map (·.getLsbD j)).foldl (· != ·) (e.getLsbD j) := by
  induction ws generalizing e with
  | nil => rfl
  | cons w ws ih => rw [List.foldl_cons, ih, BitVec.getLsbD_xor, List.map_cons, List.foldl_cons]

theorem foldl_add (ws : List Word) (e : Word) : ws.foldl (· + ·) e = BitVec.ofNat 32 (e.toNat + (ws.map BitVec.toNat).sum) := by
  induction ws generalizing e with
  | nil => simp
  | cons w ws ih =>
    rw [List.foldl_cons, ih, List.map_cons, List.sum_cons, ← Nat.add_assoc]
    apply BitVec.eq_of_toNat_eq
    simp

/-! The minimum with its lane (R124). -/

theorem miLess_eq (t : ElemTy) (a b : Word) : miLess t a b = decide (redRank false t a < redRank false t b) := by
  cases t with
  | i32 => rfl
  | n32 => simp [miLess, redRank]
  | f32 =>
    have ba := orderKey_bounds a
    have bb := orderKey_bounds b
    cases na : isNan32 a <;> cases nb : isNan32 b <;> simp [miLess, redRank, na, nb] <;> omega

/-- The lowest lane, of those in ascending order, whose value has the least rank. -/
theorem minIndex_least {t : ElemTy} {ftz : Bool} {vs : List (Nat × Word)} (hs : (vs.map Prod.fst).Pairwise (· < ·))
    (hv : ∀ e ∈ vs, redInput t ftz e.2 = e.2) (hne : vs ≠ []) : ∃ r ∈ vs, minIndex t vs = some r
      ∧ ∀ e ∈ vs, redRank false t r.2 < redRank false t e.2 ∨ (r.2 = e.2 ∧ r.1 ≤ e.1) := by
  induction vs with
  | nil => exact absurd rfl hne
  | cons x xs ih =>
    rw [List.map_cons, List.pairwise_cons] at hs
    obtain ⟨hx, hs⟩ := hs
    have hvx := hv x List.mem_cons_self
    replace hv e (he : e ∈ xs) := hv e (List.mem_cons_of_mem _ he)
    by_cases hxs : xs = []
    · subst hxs
      exact ⟨x, List.mem_cons_self, rfl, by simp⟩
    obtain ⟨r, hr, hmin, hle⟩ := ih hs hv hxs
    simp only [minIndex, hmin, miLess_eq, decide_eq_true_eq]
    by_cases hlt : redRank false t r.2 < redRank false t x.2
    · refine ⟨r, List.mem_cons_of_mem _ hr, if_pos hlt, fun e he => ?_⟩
      rcases List.mem_cons.mp he with rfl | he
      · exact .inl hlt
      · exact hle e he
    · refine ⟨x, List.mem_cons_self, if_neg hlt, fun e he => ?_⟩
      rcases List.mem_cons.mp he with rfl | he
      · exact .inr ⟨rfl, le_rfl⟩
      have hxe : redRank false t x.2 ≤ redRank false t e.2 := (not_lt.mp hlt).trans ((hle e he).elim le_of_lt fun h => (congrArg _ h.1).le)
      rcases hxe.lt_or_eq with h | h
      · exact .inl h
      · exact .inr ⟨redRank_inj hvx (hv e he) h, (hx e.1 (List.mem_map_of_mem he)).le⟩

/-! Prefixes (R125). -/

/-- A list of values reduced step by step: no value of none, and else the last step's with its events. -/
def runFrom (f : Word → Word → Word × Events) : List Word → Option (Word × Events)
  | [] => none
  | v :: ws => some (ws.foldl (fun r w => f r.1 w) (v, 0))

theorem runFrom_append (f : Word → Word → Word × Events) (ws : List Word) (v : Word) :
    runFrom f (ws ++ [v]) = some (match runFrom f ws with | none => (v, 0) | some a => f a.1 v) := by
  cases ws with
  | nil => rfl
  | cons w ws => simp [runFrom, List.foldl_append]

theorem scanFrom_eq (f : Word → Word → Word × Events) (z : Word × Events) (ws : List Word) (vs : List (Nat × Word)) :
    scanFrom f (runFrom f ws) vs = (prefixes ws vs).map fun e => (e.1, runFrom f e.2.1, (runFrom f e.2.2).getD z) := by
  induction vs generalizing ws with
  | nil => rfl
  | cons e vs ih =>
    have h := ih (ws ++ [e.2])
    rw [runFrom_append] at h
    simp only [scanFrom, prefixes, List.map_cons, runFrom_append, Option.getD_some]
    exact congrArg₂ _ rfl h

/-- What stands before an entry of an ascending list, and what stands up to it. -/
theorem filter_of_ascending {pre suf : List Nat} {l : Nat} (h : (pre ++ l :: suf).Pairwise (· < ·)) :
    (pre ++ l :: suf).filter (· < l) = pre ∧ (pre ++ l :: suf).filter (· ≤ l) = pre ++ [l] := by
  obtain ⟨-, hs, hp⟩ := List.pairwise_append.mp h
  replace hp q (hq : q ∈ pre) : q < l := hp q hq l List.mem_cons_self
  replace hs q (hq : q ∈ suf) : l < q := List.rel_of_pairwise_cons hs hq
  simp only [List.filter_append, List.filter_cons, lt_self_iff_false, le_refl, decide_false, decide_true, if_true, Bool.false_eq_true, if_false]
  refine ⟨?_, ?_⟩
  · rw [List.filter_eq_self.mpr fun q hq => by simpa using hp q hq, List.filter_eq_nil_iff.mpr fun q hq => by simpa using (hs q hq).le,
      List.append_nil]
  · rw [List.filter_eq_self.mpr fun q hq => by simpa using (hp q hq).le, List.filter_eq_nil_iff.mpr fun q hq => by simpa using hs q hq]

theorem prefixes_ascending (g : Nat → Word) (pre suf : List Nat) (h : (pre ++ suf).Pairwise (· < ·)) :
    prefixes (pre.map g) (suf.map fun l => (l, g l)) =
      suf.map fun l => (l, ((pre ++ suf).filter (· < l)).map g, ((pre ++ suf).filter (· ≤ l)).map g) := by
  induction suf generalizing pre with
  | nil => rfl
  | cons l suf ih =>
    obtain ⟨hlt, hle⟩ := filter_of_ascending h
    have hcons : pre ++ l :: suf = (pre ++ [l]) ++ suf := by simp
    have := ih (pre ++ [l]) (hcons ▸ h)
    rw [List.map_append] at this
    simp only [List.map_cons, List.map_nil, prefixes, hlt, hle, List.map_append] at this ⊢
    rw [this, hcons]

/-- The value of the lanes up to one, as R125 gives it. -/
def prefixValue (op : RedOp) (t : ElemTy) (rnd : Rnd) (ftz : Bool) (ws : List Word) : Word × Events :=
  if op = .addDet then binnedSum ftz ws else (runFrom (redStep op t rnd ftz) ws).getD (redEmpty op t, 0)

/-! The three instructions where they issue. -/

/-- A lane's value as a reduction reads it (R123). -/
def State.redValue (s : State) (c : Ctx) (a : BitVec 7) (t : ElemTy) (l : Nat) : Word := redInput t c.mods.ftz (s.readV c.pid a.toNat l)

theorem redValue_of_ne {t : ElemTy} (ht : t ≠ .f32) (s : State) (c : Ctx) (a : BitVec 7) : s.redValue c a t = s.readV c.pid a.toNat := by
  funext l
  rw [State.redValue, redInput, if_neg ht]

theorem redInput_redValue (s : State) (c : Ctx) (a : BitVec 7) (t : ElemTy) (l : Nat) :
    redInput t c.mods.ftz (s.redValue c a t l) = s.redValue c a t l := redInput_idem ..

section
variable {s : State} {c : Ctx} {d a : BitVec 7} {t : ElemTy}

theorem filterMap_redValues (s : State) (c : Ctx) (a : BitVec 7) (t : ElemTy) : (List.range 96).filterMap (s.redValues c a t) =
    (lanesOf c.p.mask).map (s.redValue c a t) := by
  rw [lanesOf, ← List.filterMap_eq_map, List.filterMap_filter]
  rfl

theorem vred_ready {op : RedOp} (h : ready (.vred d a op t) s c = true) :
    exec (.vred d a op t) s = .next (((s.writeS c.pid d.toNat (reduce op t c.mods.rnd c.mods.ftz (s.redValues c a t)).1).countLanes c
      [(reduce op t c.mods.rnd c.mods.ftz (s.redValues c a t)).2]).retire c c.nextPc none) := by
  rw [exec_vred, execVred, issue_of_ready _ h, entered_of_not_commits rfl]
  rfl

theorem vredmi_ready (h : ready (.vredmi d a t) s c = true) (r : Nat × Word)
    (hr : (minIndex t ((lanesOf c.p.mask).map fun l => (l, s.redValue c a t l))).getD (0x7F, redEmpty .min t) = r) :
    exec (.vredmi d a t) s = .next ((s.writeSs c.pid d.toNat [r.2, BitVec.ofNat 32 r.1]).retire c c.nextPc none) := by
  subst hr
  rw [exec_vredmi, execVredmi, issue_of_ready _ h, entered_of_not_commits rfl]
  cases t <;> rfl

theorem vscan_ready {op : RedOp} {ex : Bool} (h : ready (.vscan d a op t ex) s c = true) :
    exec (.vscan d a op t ex) s = .next (s.laneResultCounted c d fun l => prefixValue op t c.mods.rnd c.mods.ftz
      (((lanesOf c.p.mask).filter fun q => if ex then q < l else q ≤ l).map (s.redValue c a t))) := by
  have hp := prefixes_ascending (s.redValue c a t) [] (lanesOf c.p.mask) (lanesOf_pairwise c.p.mask)
  have he : emptyValue op t = redEmpty op t := by cases op <;> cases t <;> rfl
  rw [exec_vscan, execVscan, issue_of_ready _ h, entered_of_not_commits rfl]
  by_cases hop : op = .addDet
  · cases ex <;> simp_all [Ctx.lanes, conclude, State.laneResultCounted, prefixValue, State.redValue, Function.comp_def]
  · have hs : scanFrom _ none _ = _ := scanFrom_eq (redStep op t c.mods.rnd c.mods.ftz) (redEmpty op t, 0) []
      (c.lanes.map fun l => (l, s.redValue c a t l))
    cases ex <;> simp_all [Ctx.lanes, conclude, State.laneResultCounted, prefixValue, State.redValue, Function.comp_def, redNode_eq, evNone]

/-- The value that a minimum or a maximum gives, and that no active lane's comes before it. -/
theorem reduce_redValues_selects (mx : Bool) (hm : c.p.mask ≠ 0) : let r := reduce (if mx then .max else .min) t c.mods.rnd c.mods.ftz (s.redValues c a t)
    (∃ l ∈ lanesOf c.p.mask, r.1 = s.redValue c a t l)
      ∧ ∀ l ∈ lanesOf c.p.mask, redRank mx t r.1 ≤ redRank mx t (s.redValue c a t l) := by
  have hne : (List.range 96).filterMap (s.redValues c a t) ≠ [] := by
    rw [filterMap_redValues, Ne, List.map_eq_nil_iff, lanesOf_eq_nil_iff]
    exact hm
  have hv : ∀ w ∈ (List.range 96).filterMap (s.redValues c a t), redInput t c.mods.ftz w = w := by
    rw [filterMap_redValues]
    exact List.forall_mem_map.mpr fun l _ => redInput_redValue ..
  obtain ⟨hmem, hle⟩ := reduce_selects mx c.mods.rnd hne hv
  rw [filterMap_redValues] at hmem hle
  obtain ⟨l, hl, e⟩ := List.mem_map.mp hmem
  exact ⟨⟨l, hl, e.symm⟩, fun l hl => hle _ (List.mem_map_of_mem hl)⟩

/-- The reduction of integers by an associative operation. -/
theorem reduce_redValues_foldl {op : RedOp} {g : Word → Word → Word} {e : Word} [Std.Associative g] [Std.LawfulIdentity g e] (ht : t ≠ .f32)
    (hop : op ≠ .addDet) (he : redEmpty op t = e) (hg : ∀ x y, redStep op t c.mods.rnd c.mods.ftz x y = (g x y, 0)) :
    reduce op t c.mods.rnd c.mods.ftz (s.redValues c a t) = (((lanesOf c.p.mask).map (s.readV c.pid a.toNat)).foldl g e, 0) := by
  subst he
  rw [reduce_eq_foldl hop hg, filterMap_redValues, redValue_of_ne ht]

/-- VREDMI's lane and value (R124). -/
theorem minIndex_redValues (hm : c.p.mask ≠ 0) : ∃ n ∈ lanesOf c.p.mask,
    minIndex t ((lanesOf c.p.mask).map fun l => (l, s.redValue c a t l)) = some (n, s.redValue c a t n)
      ∧ ∀ l ∈ lanesOf c.p.mask, redRank false t (s.redValue c a t n) < redRank false t (s.redValue c a t l)
        ∨ (s.redValue c a t n = s.redValue c a t l ∧ n ≤ l) := by
  obtain ⟨r, hr, hmin, hle⟩ := minIndex_least (t := t) (ftz := c.mods.ftz)
    (vs := (lanesOf c.p.mask).map fun l => (l, s.redValue c a t l))
    (by simpa [Function.comp_def] using lanesOf_pairwise c.p.mask) (List.forall_mem_map.mpr fun l _ => redInput_redValue ..)
    (by rw [Ne, List.map_eq_nil_iff, lanesOf_eq_nil_iff]; exact hm)
  obtain ⟨n, hn, rfl⟩ := List.mem_map.mp hr
  exact ⟨n, hn, hmin, List.forall_mem_map.mp hle⟩

end

/-- The order of FP32 values under a minimum, NaNs last. -/
theorem redRank_f32_lt (x y : Word) :
    redRank false .f32 x < redRank false .f32 y ↔ fp32.value x.toNat ≠ .nan ∧ (fp32.value y.toNat = .nan ∨ orderKey x < orderKey y) := by
  have h := (decide_eq_true_iff (p := redRank false .f32 x < redRank false .f32 y)).symm
  rw [← miLess_eq] at h
  rw [h]
  simp [miLess, ← isNan32_iff]

theorem redInput_eq (t : ElemTy) (ftz : Bool) (w : Word) :
    redInput t ftz w = if t = .f32 then (if fp32.value w.toNat = .nan then nan32 else flush32 ftz w) else w := by
  simp only [redInput, isNan32_iff]

theorem redStep_add_int {t : ElemTy} (ht : t ≠ .f32) (rnd : Rnd) (ftz : Bool) (x y : Word) : redStep .add t rnd ftz x y = (x + y, 0) := by
  cases t with
  | f32 => exact absurd rfl ht
  | i32 | n32 => rfl

/-- A running sum of integers, modulo 2^32. -/
theorem prefixValue_add {t : ElemTy} (ht : t ≠ .f32) (rnd : Rnd) (ftz : Bool) (ws : List Word) :
    prefixValue .add t rnd ftz ws = (BitVec.ofNat 32 (ws.map BitVec.toNat).sum, 0) := by
  have hfold (ws : List Word) (v : Word) : ws.foldl (fun r w => redStep .add t rnd ftz r.1 w) (v, 0) = (ws.foldl (· + ·) v, 0) := by
    induction ws generalizing v with
    | nil => rfl
    | cons w ws ih => rw [List.foldl_cons, redStep_add_int ht, ih, List.foldl_cons]
  cases ws with
  | nil => rfl
  | cons w ws => rw [prefixValue, if_neg (by decide), runFrom, hfold, foldl_add, Option.getD_some, List.map_cons, List.sum_cons]

/-! Pixel quads (R126, R127). -/

/-- The difference that VDDX or VDDY gives a lane, with its events (R127). -/
def State.quadDifference (s : State) (c : Ctx) (a : BitVec 7) (lo odd l : Nat) : Word × Events :=
  match s.partner c l lo with
  | none => (0, 0)
  | some q =>
    let me := fin32 c.mods.ftz (s.readV c.pid a.toNat l)
    let other := fin32 c.mods.ftz (s.readV c.pid a.toNat q)
    rounded32 c.mods.rnd c.mods.ftz
      (if (s.nbrOf c.pid l).toNat / 2 ^ odd % 2 = 1 then FV.add c.mods.rnd me other.neg else FV.add c.mods.rnd other me.neg)

section
variable {s : State} {c : Ctx} {d a : BitVec 7} {k : BitVec 3}

theorem quadDiff_ready {i : Instr} {lo odd : Nat} (h : ready i s c = true) (hc : i.commits = false) :
    quadDiff i lo odd d a k s = .next ((s.markPartners c k lo).laneResultCounted c d (s.quadDifference c a lo odd)) := by
  have hrows : ∃ rows : List (Nat × Word × Events), quadDiff i lo odd d a k s = .next ((((s.markPartners c k lo).putLanes c.pid d.toNat
      (rows.map fun r => (r.1, r.2.1))).countLanes c (rows.map (·.2.2))).retire c c.nextPc none)
      ∧ rows = (lanesOf c.p.mask).map fun l => (l, s.quadDifference c a lo odd l) := by
    rw [quadDiff, issue_of_ready _ h, entered_of_not_commits hc]
    refine ⟨_, rfl, List.map_congr_left fun l _ => ?_⟩
    cases hp : s.partner c l lo <;> simp only [State.quadDifference, hp] <;> rfl
  obtain ⟨_, hquad, rfl⟩ := hrows
  simp only [hquad, State.laneResultCounted, List.map_map, Function.comp_def]

theorem vnbr_ready {q : NbrSel} (h : ready (.vnbr d a q k) s c = true) : exec (.vnbr d a q k) s =
    .next ((s.markPartners c k (partnerField q)).laneResult c d fun l => s.readV c.pid a.toNat ((s.partner c l (partnerField q)).getD l)) := by
  rw [exec_vnbr, execVnbr, issue_of_ready _ h, entered_of_not_commits rfl]
  rfl

end

/-- Settles O29, from the tree's induction, the order of a minimum, and the prefixes of the ascending lanes. -/
theorem reductionsAndPixelQuads : Obligations.ReductionsAndPixelQuads := by
  unfold Obligations.ReductionsAndPixelQuads
  refine ⟨fun s c d a => ?_, fun s c d a k => ?_⟩
  · intro ls x value lane step running
    have hvalue t l : value t l = s.redValue c a t l := (redInput_eq ..).symm
    clear_value value
    obtain rfl : value = s.redValue c a := funext₂ hvalue
    refine ⟨fun op t h => ⟨_, vred_ready h, ?_⟩, fun t h => ?_, fun op t ex h => ⟨_, vscan_ready h, fun l _ => ?_, ?_⟩⟩
    · refine ⟨fun hm => ?_, ?_, ?_, ?_, fun hop hd => reduce_events hop hd .., ?_, ?_, ?_, ?_, ?_, ?_, ?_, ?_⟩
      · exact reduce_empty (by rw [filterMap_redValues, lanesOf_eq_nil_iff.mpr hm, List.map_nil])
      · rintro rfl rfl
        rw [reduce, if_neg (by decide), redNode_eq]
        rfl
      · rintro rfl
        rw [reduce, if_pos rfl, filterMap_redValues]
      · rintro hop rfl hm
        obtain ⟨mx, rfl, hmx⟩ : ∃ mx, op = (if mx then .max else .min) ∧ (op == .max) = mx := by
          rcases hop with rfl | rfl
          · exact ⟨false, rfl, rfl⟩
          · exact ⟨true, rfl, rfl⟩
        obtain ⟨⟨l, hl, hr⟩, hle⟩ := reduce_redValues_selects (s := s) (c := c) (a := a) (t := .f32) mx hm
        rw [hmx]
        refine ⟨⟨l, hl, Prod.ext hr (reduce_events (by cases mx <;> simp) (by cases mx <;> simp) ..)⟩, fun q hq => ?_⟩
        rw [minmax32_selects mx (hr ▸ redInput_redValue ..) (redInput_redValue ..), if_pos (hle q hq)]
      · rintro rfl ht j -
        rw [reduce_redValues_foldl (e := 0#32) ht (by decide) (by cases t <;> rfl) fun _ _ => rfl, getLsbD_foldl_xor, List.map_map, BitVec.getLsbD_zero]
        rfl
      · rintro rfl rfl hm
        obtain ⟨hmem, hle⟩ := reduce_redValues_selects (s := s) (c := c) (a := a) (t := .n32) false hm
        exact ⟨hmem, fun l hl => by simpa [BitVec.ule, redRank, redValue_of_ne, x] using hle l hl⟩
      · rintro rfl rfl hm
        obtain ⟨hmem, hle⟩ := reduce_redValues_selects (s := s) (c := c) (a := a) (t := .i32) true hm
        exact ⟨hmem, fun l hl => by simpa [BitVec.sle, redRank, redValue_of_ne, x] using hle l hl⟩
      · rintro rfl ht
        rw [reduce_redValues_foldl (g := (· + ·)) (e := 0) ht (by decide) rfl fun _ _ => redStep_add_int ht ..,
          foldl_add, List.map_map]
        simp [ls, x, Function.comp_def]
      · rintro rfl ht j hj
        rw [reduce_redValues_foldl (e := BitVec.allOnes 32) ht (by decide) (by cases t <;> rfl) fun _ _ => rfl, getLsbD_foldl_and, List.all_map,
          BitVec.getLsbD_allOnes, decide_eq_true hj, Bool.true_and]
        rfl
      · rintro rfl ht j hj
        rw [reduce_redValues_foldl (e := 0#32) ht (by decide) (by cases t <;> rfl) fun _ _ => rfl, getLsbD_foldl_or, List.any_map, BitVec.getLsbD_zero,
          Bool.false_or]
        rfl
      · rintro rfl rfl hm
        obtain ⟨hmem, hle⟩ := reduce_redValues_selects (s := s) (c := c) (a := a) (t := .i32) false hm
        exact ⟨hmem, fun l hl => by simpa [BitVec.sle, redRank, redValue_of_ne, x] using hle l hl⟩
      · rintro rfl rfl hm
        obtain ⟨hmem, hle⟩ := reduce_redValues_selects (s := s) (c := c) (a := a) (t := .n32) true hm
        exact ⟨hmem, fun l hl => by simpa [BitVec.ule, redRank, redValue_of_ne, x] using hle l hl⟩
    · by_cases hm : c.p.mask = 0
      · refine ⟨_, _, vredmi_ready h (0x7F, redEmpty .min t) ?_, fun _ => ⟨rfl, rfl⟩, fun h => absurd hm h, fun h => absurd hm h, fun h => absurd hm h⟩
        rw [lanesOf_eq_nil_iff.mpr hm]
        rfl
      · obtain ⟨n, hn, hmin, hle⟩ := minIndex_redValues (s := s) (c := c) (a := a) (t := t) hm
        refine ⟨_, _, vredmi_ready h _ (by rw [hmin, Option.getD_some]), fun h => absurd h hm, ?_, ?_, ?_⟩
        · rintro - rfl
          exact ⟨hn, rfl, fun l hl => by simpa [BitVec.slt, redRank, redValue_of_ne, x] using hle l hl⟩
        · rintro - rfl
          refine ⟨hn, rfl, fun l hl => ?_⟩
          have hnan : fp32.value (s.redValue c a .f32 l).toNat = .nan ↔ fp32.value (x l).toNat = .nan := by
            rw [← isNan32_iff, State.redValue, isNan32_redInput, isNan32_iff]
          have hl := hle l hl
          rw [redRank_f32_lt, hnan] at hl
          refine ⟨fun hv => hl.elim (fun hl => absurd hv hl.1) fun ⟨e, hnl⟩ => ⟨?_, hnl⟩, fun hv => ?_⟩
          · exact hnan.mp (e ▸ hv)
          · exact hl.elim (fun hl => hl.2.imp_right .inl) fun e => .inr (.inr e)
        · rintro - rfl
          exact ⟨hn, rfl, fun l hl => by simpa [BitVec.ult, redRank, redValue_of_ne, x] using hle l hl⟩
    · dsimp only
      rw [prefixValue]
      split
      · rfl
      · cases (List.filter _ ls).map _ <;> rfl
    · rintro rfl ht l -
      rw [prefixValue_add ht, List.map_map]
      simp [ls, x, redValue_of_ne ht, Function.comp_def]
  · have hpart lo l : s.partner c l lo = if (s.nbrOf c.pid l).toNat / 2 ^ 31 % 2 = 1 ∧ (s.nbrOf c.pid l).toNat / 2 ^ lo % 128 < 96
        ∧ c.p.mask.getLsbD ((s.nbrOf c.pid l).toNat / 2 ^ lo % 128) = true then some ((s.nbrOf c.pid l).toNat / 2 ^ lo % 128) else none := rfl
    simp only [← hpart]
    refine ⟨fun q h => ?_, fun h => ?_, fun h => ?_⟩
    · refine ⟨_, writeCompare_write s c k _, ?_⟩
      rw [vnbr_ready h]
      cases q <;> rfl
    · exact ⟨_, writeCompare_write s c k _, quadDiff_ready h rfl⟩
    · exact ⟨_, writeCompare_write s c k _, quadDiff_ready h rfl⟩

end Sys2Proof.Machine
end

section
/-! PROOF. What a matrix pass computes: sums that no order of their members changes, and integers (R52, R53). -/
namespace Sys2Proof.Machine

/-- The exponent of a member's leading bit, if it is finite and not zero. -/
def FV.leading : FV → Option Int
  | .fin _ m e => if m = 0 then none else some (Nat.log2 m + e)
  | _ => none

theorem topExp_cons (t : FV) (ts : List FV) : topExp (t :: ts) = Option.merge max t.leading (topExp ts) := by
  cases t with
  | fin neg m e => by_cases h : m = 0 <;> cases hts : topExp ts <;> simp [topExp, FV.leading, h, hts]
  | inf | nan => simp [topExp, FV.leading]

section
variable {ts us : List FV}

theorem topExp_perm (h : ts.Perm us) : topExp ts = topExp us := by
  induction h with
  | nil => rfl
  | cons t _ ih => rw [topExp_cons, topExp_cons, ih]
  | swap t u ts =>
    simp only [topExp_cons]
    cases t.leading <;> cases u.leading <;> cases topExp ts <;> simp [max_comm, max_left_comm]
  | trans _ _ ih1 ih2 => exact ih1.trans ih2

theorem gridSum_perm (nearest : Bool) (g : Int) (h : ts.Perm us) : gridSum nearest g ts = gridSum nearest g us := by
  induction h with
  | nil => rfl
  | cons t _ ih => cases t <;> simp only [gridSum, ih]
  | swap t u ts => cases t <;> cases u <;> simp only [gridSum, Int.add_left_comm]
  | trans _ _ ih1 ih2 => exact ih1.trans ih2

theorem hasNan_perm (h : ts.Perm us) : hasNan ts = hasNan us := h.any_eq
theorem hasInf_perm (neg : Bool) (h : ts.Perm us) : hasInf neg ts = hasInf neg us := h.any_eq
theorem allNegZero_perm (h : ts.Perm us) : allNegZero ts = allNegZero us := h.all_eq

/-- The sum of R52 and R54 does not depend on the order of its members. -/
theorem gridTotal_perm (nearest : Bool) (depth : Nat) (h : ts.Perm us) : gridTotal nearest depth ts = gridTotal nearest depth us := by
  simp only [gridTotal, hasNan_perm h, hasInf_perm _ h, allNegZero_perm h, topExp_perm h, gridSum_perm _ _ h]

end

theorem passElement_perm {ps qs : List (FV × FV)} (v : FV) (h : ps.Perm qs) : passElement ps v = passElement qs v := by
  have hmul := h.map fun p => FV.mul p.1 p.2
  have hev := hmul.foldl_eq (f := fun (ev : Events) p => ev ||| p.2)
    (rcomm := ⟨fun a p q => by rw [BitVec.or_assoc, BitVec.or_comm p.2, BitVec.or_assoc]⟩) evNone
  simp only [passElement, h.any_eq, hev, gridTotal_perm _ _ ((hmul.map Prod.fst).append_right [v])]

/-- A pass over INT8 elements, modulo 2^32 (R53). -/
theorem passWord_int8 {g : Mma} (ha : g.fa = 2) (hb : g.fb = 2) (as bs : List Nat) (v : Word) : (passWord g as bs v).1 =
    (List.zip as bs).foldl (fun t x => t + (BitVec.ofNat 8 x.1).signExtend 32 * (BitVec.ofNat 8 x.2).signExtend 32) v := by
  have element {x : Nat} : BitVec.ofInt 32 (signedOf 8 x) = (BitVec.ofNat 8 x).signExtend 32 := by
    rw [signedOf_eq_toInt (BitVec.ofNat 8 x) x (BitVec.toNat_ofNat x 8).symm, BitVec.signExtend]
  have fold (ps : List (Nat × Nat)) (t : Int) :
      BitVec.ofInt 32 ((ps.map fun x => (intElement 2 x.1, intElement 2 x.2)).foldl (fun t p => t + p.1.1 * p.2.1) t)
        = ps.foldl (fun t x => t + (BitVec.ofNat 8 x.1).signExtend 32 * (BitVec.ofNat 8 x.2).signExtend 32) (BitVec.ofInt 32 t) := by
    induction ps generalizing t with
    | nil => rfl
    | cons x ps ih =>
      rw [List.map_cons, List.foldl_cons, ih, List.foldl_cons, ← element, ← element, BitVec.ofInt_add, BitVec.ofInt_mul]
      rfl
  rw [passWord, if_pos hb, ha, hb]
  simpa using fold (List.zip as bs) v.toInt

theorem passElement_sample : let x (n : Int) (m : Nat) : FV := .fin false m n
    (passElement [(x 12 1, x 12 1), (x 0 1, x 0 1), (.fin true 1 12, x 12 1), (x (-15) 1, x (-15) 1)] (x 0 0)).1 = 0x3F800000 := by
  decide

end Sys2Proof.Machine
end

section
/-! PROOF. The turns of a stream, and what settles after them (R86, R161, R162, R169, R241). -/
namespace Sys2Proof.Machine

/-! A stream after a change (R160). -/

section
variable {s : State} {bid : Nat}

theorem streamOf_of_block {b : Block} {st : Stream} (hb : s.block bid = some b) (hs : b.stream = some st) : s.streamOf bid = some st := by
  rw [State.streamOf, hb]
  exact hs

theorem streamOf_onStream (s : State) (bid : Nat) (f : Stream → Stream) : (s.onStream bid f).streamOf bid = (s.streamOf bid).map f := by
  rw [State.onStream, State.streamOf, State.onBlock_block_same, State.streamOf]
  cases s.block bid <;> rfl

theorem onStream_block {b : Block} {st : Stream} (hb : s.block bid = some b) (hs : b.stream = some st) (f : Stream → Stream) :
    (s.onStream bid f).block bid = some { b with stream := some (f st) } := by
  rw [State.onStream, State.onBlock_block_same, hb, Option.map_some, hs, Option.map_some]

theorem onStream_eq_setBlock {b : Block} {st : Stream} (hb : s.block bid = some b) (hs : b.stream = some st) (f : Stream → Stream) :
    s.onStream bid f = s.setBlock bid { b with stream := some (f st) } := by
  rw [State.onStream, State.onBlock, hb]
  simp [hs]

end

section
variable {β : Type} {g : State → β} (h : ∀ (s : State) e t, g (s.setTile e t) = g s)
include h

theorem refTiles_keeps (s : State) (bid : Nat) (ts : List Nat) : g (s.refTiles bid ts) = g s := by
  induction ts generalizing s with
  | nil => rfl
  | cons t ts ih =>
    rw [State.refTiles, ih]
    cases s.tileOf bid t with
    | none => rfl
    | some e => exact h ..

theorem unrefTiles_keeps (s : State) (bid : Nat) (ts : List Nat) : g (s.unrefTiles bid ts) = g s := by
  induction ts generalizing s with
  | nil => rfl
  | cons t ts ih =>
    rw [State.unrefTiles, ih]
    cases s.tileOf bid t with
    | none => rfl
    | some e => exact h ..

end

/-- A view of the machine that neither a tile's entry nor a change of a stream that keeps its state shows in. -/
structure StreamBlind {β : Type} (bid : Nat) (g : State → β) : Prop where
  tile : ∀ (s : State) e t, g (s.setTile e t) = g s
  stream : ∀ (s : State) f, (∀ st, (f st).state = st.state) → g (s.onStream bid f) = g s

section
variable {β : Type} {bid : Nat} {g : State → β} (h : StreamBlind bid g)
include h

theorem StreamBlind.refTiles (ts : List Nat) (s : State) : g (s.refTiles bid ts) = g s := refTiles_keeps h.tile ..

theorem StreamBlind.unrefTiles (ts : List Nat) (s : State) : g (s.unrefTiles bid ts) = g s := unrefTiles_keeps h.tile ..

theorem StreamBlind.startAdder (s : State) : g (s.startAdder bid) = g s := by
  unfold State.startAdder
  split
  · rfl
  split
  · rfl
  split
  · rfl
  split
  · rfl
  · refine (h.stream _ _ ?_).trans (h.refTiles ..)
    exact fun _ => rfl

theorem StreamBlind.refreshStream (s : State) : g (s.refreshStream bid) = g s := by
  cases hb : s.block bid with
  | none => simp [State.refreshStream, hb]
  | some b =>
    cases hs : b.stream with
    | none => simp [State.refreshStream, hb, hs]
    | some st =>
      have e : s.refreshStream bid = s.onStream bid fun st' => { st' with entries := st'.entries.map fun (e : StreamEntry) =>
          { e with since := if s.eligible bid b st e then some (e.since.getD (s.icc b.core)) else none } } := by
        rw [onStream_eq_setBlock hb hs, State.refreshStream, hb]
        simp only [hs]
      rw [e]
      refine h.stream _ _ ?_
      exact fun _ => rfl

theorem StreamBlind.clearAll (hv : ∀ (s : State) v, g { s with vault := v } = g s) (n : Nat) (s : State) : g (s.clearAll bid n) = g s := by
  induction n generalizing s with
  | zero => rfl
  | succ n ih =>
    rw [State.clearAll]
    cases hc : s.clearRows bid with
    | none => rfl
    | some t =>
      refine (ih t).trans ?_
      unfold State.clearRows at hc
      split at hc
      · cases hc
      split at hc
      · cases hc
      obtain ⟨e, -, rfl⟩ := Option.map_eq_some_iff.mp hc
      refine (h.stream _ _ ?_).trans (hv ..)
      exact fun _ => rfl

/-- What a settled stream leaves as it was. -/
theorem StreamBlind.settleStream (hv : ∀ (s : State) v, g { s with vault := v } = g s) (s : State) : g (s.settleStream bid) = g s := by
  rw [State.settleStream, h.refreshStream, h.startAdder, h.clearAll hv]

end

theorem onStream_blind {β : Type} {g : State → β} (h : ∀ (s : State) i b, g (s.setBlock i b) = g s) (s : State) (bid : Nat) (f : Stream → Stream) :
    g (s.onStream bid f) = g s := by
  unfold State.onStream State.onBlock
  split
  · exact h ..
  · rfl

theorem mem_streamBlind (bid : Nat) : StreamBlind bid State.mem := ⟨fun _ _ _ => rfl, fun s f _ => onStream_blind (fun _ _ _ => rfl) s bid f⟩
theorem sram_streamBlind (bid : Nat) : StreamBlind bid State.sram := ⟨fun _ _ _ => rfl, fun s f _ => onStream_blind (fun _ _ _ => rfl) s bid f⟩
theorem clusters_streamBlind (bid : Nat) : StreamBlind bid State.clusters := ⟨fun _ _ _ => rfl, fun s f _ => onStream_blind (fun _ _ _ => rfl) s bid f⟩
theorem vault_streamBlind (bid : Nat) : StreamBlind bid State.vault := ⟨fun _ _ _ => rfl, fun s f _ => onStream_blind (fun _ _ _ => rfl) s bid f⟩

theorem streamState_streamBlind (bid : Nat) : StreamBlind bid fun s => (s.streamOf bid).map (·.state) :=
  ⟨fun _ _ _ => rfl, fun s f hf => by rw [streamOf_onStream, Option.map_map]; simp [Function.comp_def, hf]⟩

/-! The turn of a stream instruction (R161). -/

section
variable {op : StreamOp} {body : SCtx → State → StreamFate} {s : State} {c : SCtx} (h : streamTurn op s c)
include h

theorem streamIssue_retired {t : State} (hb : body c s = .retired t) : streamIssue op body s = .next ((t.entryRetired c).settleStream c.bid) := by
  obtain ⟨hcur, hblk, hst, hhead, hop, hrun, hr, hh⟩ := h
  simp [streamIssue, hcur, hblk, hst, hhead, hop, hrun, hr, hh, hb, State.entryRetired]

theorem streamIssue_stay {t : State} (hb : body c s = .stay t) : streamIssue op body s = .next t := by
  obtain ⟨hcur, hblk, hst, hhead, hop, hrun, hr, hh⟩ := h
  simp [streamIssue, hcur, hblk, hst, hhead, hop, hrun, hr, hh, hb]

theorem streamIssue_stop {cause : Nat} (hb : body c s = .stop cause) : streamIssue op body s = .next (s.stopStream c.bid c.e.addr cause) := by
  obtain ⟨hcur, hblk, hst, hhead, hop, hrun, hr, hh⟩ := h
  simp [streamIssue, hcur, hblk, hst, hhead, hop, hrun, hr, hh, hb]

end

section
variable {s : State} {c : SCtx}

theorem mbarSig_turn {n : BitVec 4} (h : streamTurn (.mbarSig n) s c) :
    (c.st.before c.e.id = [] → exec (.mbarSig n) s = .next (((s.completePhase c.bid n.toNat).entryRetired c).settleStream c.bid))
      ∧ (¬ c.st.before c.e.id = [] → exec (.mbarSig n) s = .next s) := by
  rw [exec_mbarSig, execMbarSig]
  exact ⟨fun hi => streamIssue_retired h (by simp [hi]), fun hi => streamIssue_stay h (by simp [hi])⟩

theorem mhalt_turn (h : streamTurn .mhalt s c) :
    exec .mhalt s = .next (if c.st.before c.e.id = [] then s.stopStream c.bid c.e.addr 0x10 else s) := by
  rw [exec_mhalt, execMhalt]
  split
  · next hi => exact streamIssue_stop h (by simp [hi])
  · next hi => exact streamIssue_stay h (by simp [hi])

theorem msb_eq_false_iff_lt (x : Word) : x.msb = false ↔ x.toNat < 2 ^ 31 := by
  rw [BitVec.msb_eq_false_iff_two_mul_lt]
  omega

theorem mbarWait_turn {n : BitVec 4} (h : streamTurn (.mbarWait n) s c) :
    let old := tgetD 0 c.st.seen n.toNat
    let seen := if c.e.begun then old else old + 1
    let u := if c.e.begun then s else s.onStream c.bid fun st =>
      ({ st with seen := tset st.seen n.toNat (tgetD 0 st.seen n.toNat + 1) } : Stream).onEntry c.e.id fun e => { e with begun := true }
    (((c.b.barrier n.toNat).phase - seen).toNat < 2 ^ 31 → exec (.mbarWait n) s = .next ((u.entryRetired c).settleStream c.bid))
      ∧ (2 ^ 31 ≤ ((c.b.barrier n.toNat).phase - seen).toNat →
        exec (.mbarWait n) s = .next (if s.firstWave c.bid = none then s.stopStream c.bid c.e.addr 0x12 else u)) := by
  intro old seen u
  have hseen : tgetD 0 c.st.seen n.toNat + (if c.e.begun then 0 else 1) = seen := by
    simp only [seen, old]
    split <;> simp
  rw [exec_mbarWait, execMbarWait]
  refine ⟨fun hlt => ?_, fun hle => ?_⟩
  · refine streamIssue_retired h ?_
    change (if (!((c.b.barrier n.toNat).phase - (tgetD 0 c.st.seen n.toNat + if c.e.begun then 0 else 1)).msb) = true then StreamFate.retired u else _) = _
    rw [hseen, (msb_eq_false_iff_lt _).mpr hlt]
    rfl
  · have hm : ((c.b.barrier n.toNat).phase - seen).msb = true := by
      rw [← Bool.not_eq_false, msb_eq_false_iff_lt]
      exact not_lt.mpr hle
    have hbody (x : StreamFate) : (if (!((c.b.barrier n.toNat).phase - (tgetD 0 c.st.seen n.toNat + if c.e.begun then 0 else 1)).msb) = true
        then .retired u else x) = x := by
      rw [hseen, hm]
      rfl
    split
    · next hw => exact streamIssue_stop h ((hbody _).trans (if_pos (by simp [hw])))
    · next hw => exact streamIssue_stay h ((hbody _).trans (if_neg (by simp [hw])))

/-- The offset or value of a word that takes at most one pfx (R12, R20). -/
theorem widenedImm_pfx {n : Nat} {pfx : Option Nat} (k : BitVec n) (hp : ∀ x, pfx = some x → x < 2 ^ 24) :
    widenedImm pfx.toList k = BitVec.ofInt 64 (widened pfx.toList n k.toNat) :=
  widenedImm_eq_ofInt _ _ (by cases pfx <;> simp) (by simpa using hp)

theorem ofInt_truncate {w : Nat} (hw : w ≤ 64) (i : Int) : (BitVec.ofInt 64 i).truncate w = BitVec.ofInt w i := by
  apply BitVec.eq_of_toNat_eq
  have hd : ((2 ^ w : Nat) : Int) ∣ (2 ^ 64 : Nat) := Int.natCast_dvd_natCast.mpr (pow_dvd_pow 2 hw)
  have h0 : 0 ≤ i % (2 ^ 64 : Nat) := Int.emod_nonneg _ (by decide)
  rw [BitVec.truncate_eq_setWidth, BitVec.toNat_setWidth, BitVec.toNat_ofInt, BitVec.toNat_ofInt, ← Int.emod_emod_of_dvd i hd,
    Int.toNat_emod h0 (Int.natCast_nonneg _), Int.toNat_natCast]

theorem wrapInt_words (pc : Nat) (off : Int) : wrapInt 49 (pc + 4 * off) = wordsFrom pc (BitVec.ofInt 64 off) := by
  rw [wrapInt_eq_toNat, wordsFrom, ofInt_truncate (by decide), BitVec.ofInt_add, BitVec.ofInt_mul, BitVec.ofInt_natCast]
  rfl

theorem mset_turn {n : BitVec 2} {i : BitVec 21} (h : streamTurn (.mset n i) s c) (hp : ∀ x, c.e.pfx = some x → x < 2 ^ 24) :
    let v : Word := (widenedImm c.e.pfx.toList i).truncate 32
    exec (.mset n i) s = .next (((s.onStream c.bid fun st => { st with counters := tset st.counters n.toNat v }).entryRetired c).settleStream c.bid) := by
  have hv : BitVec.ofNat 32 (wrapInt 32 (widened c.e.pfx.toList 21 i.toNat)) = (widenedImm c.e.pfx.toList i).truncate 32 := by
    rw [widenedImm_pfx _ hp, ofInt_truncate (by decide), wrapInt_eq_toNat, BitVec.ofNat_toNat, BitVec.setWidth_eq]
  rw [← hv, exec_mset, execMset]
  refine streamIssue_retired h ?_
  cases c.e.pfx <;> rfl

theorem mloop_turn {n : BitVec 2} {o : BitVec 21} (h : streamTurn (.mloop n o) s c) :
    let k := tgetD 0 c.st.counters n.toNat
    let off : DWord := widenedImm c.e.pfx.toList o
    (k = 0 → exec (.mloop n o) s = .next ((s.entryRetired c).settleStream c.bid))
    ∧ (k = 1 → exec (.mloop n o) s = .next (((s.onStream c.bid fun st => { st with counters := tset st.counters n.toNat 0 }).entryRetired c).settleStream c.bid))
    ∧ (1 < k.toNat → (∀ x, c.e.pfx = some x → x < 2 ^ 24) → exec (.mloop n o) s = .next (((s.onStream c.bid fun st =>
        { st with counters := tset st.counters n.toNat (k - 1), pc := wordsFrom (c.e.addr + if c.e.pfx.isSome then 4 else 0) off }).entryRetired c).settleStream c.bid)) := by
  intro k off
  have counted (hk : k ≠ 0) : exec (.mloop n o) s = .next (((s.onStream c.bid fun st => { st with
      counters := tset st.counters n.toNat (k - 1),
      pc := if k = 1 then st.pc else wrapInt 49 ((c.e.addr + if c.e.pfx.isSome then 4 else 0 : Nat) + 4 * widened c.e.pfx.toList 21 o.toNat)
      }).entryRetired c).settleStream c.bid) := by
    rw [exec_mloop, execMloop]
    refine streamIssue_retired h ((if_neg hk).trans ?_)
    cases c.e.pfx <;> rfl
  refine ⟨fun hk => ?_, fun hk => ?_, fun hk hp => ?_⟩
  · rw [exec_mloop, execMloop]
    exact streamIssue_retired h (if_pos hk)
  · rw [counted (by rw [hk]; decide)]
    simp only [hk, if_true]
    rfl
  · have h1 : k ≠ 1 := fun e => by simp [e] at hk
    rw [counted (fun e => by simp [e] at hk), wrapInt_words, ← widenedImm_pfx _ hp]
    simp only [if_neg h1]
    rfl

theorem mrel_turn {t : BitVec 7} (h : streamTurn (.mrel t) s c) :
    (s.tileOf c.bid t.toNat = none → exec (.mrel t) s = .next (s.stopStream c.bid c.e.addr 0x02))
    ∧ (∀ e u, s.tileOf c.bid t.toNat = some (e, u) →
      (u.defined = false → exec (.mrel t) s = .next (s.stopStream c.bid c.e.addr 0x07))
      ∧ (u.defined = true → (u.st = .filling ∨ u.st = .draining ∨ ∃ f ∈ c.st.before c.e.id, t.toNat ∈ f.tiles) → exec (.mrel t) s = .next s)
      ∧ (u.defined = true → (∀ f ∈ c.st.before c.e.id, t.toNat ∉ f.tiles) → u.st ≠ .filling → u.st ≠ .draining →
        exec (.mrel t) s = .next (((s.setTile e u.release).entryRetired c).settleStream c.bid))) := by
  rw [exec_mrel, execMrel]
  refine ⟨fun hn => streamIssue_stop h (by simp [hn]), fun e u ht => ⟨fun hd => streamIssue_stop h (by simp [ht, hd]),
    fun hd hw => streamIssue_stay h ?_, fun hd hf h1 h2 => streamIssue_retired h ?_⟩⟩
  · simpa [ht, hd] using fun h1 h2 => (hw.resolve_left h1).resolve_left h2
  · simpa [ht, hd, h1, h2] using hf

theorem mend_turn (h : streamTurn .mend s c) :
    (¬ c.st.before c.e.id = [] → exec .mend s = .next s)
    ∧ (c.st.before c.e.id = [] → exec .mend s = .next
      ((((s.onStream c.bid fun st => { st with state := .ended }).releaseReservation c.bid).entryRetired c).settleStream c.bid)) := by
  rw [exec_mend, execMend]
  exact ⟨fun hi => streamIssue_stay h (by simp [hi]), fun hi => streamIssue_retired h (by simp [hi])⟩

theorem streamTurn_streamOf {op : StreamOp} (h : streamTurn op s c) : s.streamOf c.bid = some c.st := by
  obtain ⟨-, hblk, hst, -⟩ := h
  exact streamOf_of_block hblk hst

/-- A stream that gives its reservation back (R241). -/
theorem releaseReservation_some {s : State} {bid r : Nat} (h : (s.streamOf bid).bind (·.reservation) = some r) :
    s.releaseReservation bid = (s.setCluster (bid / 32) { s.cluster (bid / 32) with reservations := tdel (s.cluster (bid / 32)).reservations r }).onStream
      bid fun st => { st with reservation := none } := by
  rw [State.releaseReservation, h]

theorem releaseReservation_none {s : State} {bid : Nat} (h : (s.streamOf bid).bind (·.reservation) = none) : s.releaseReservation bid = s := by
  rw [State.releaseReservation, h]

theorem mend_unreserved (h : streamTurn .mend s c) (hi : c.st.before c.e.id = []) (hr : c.st.reservation = none) :
    exec .mend s = .next (((s.onStream c.bid fun st => { st with state := .ended }).entryRetired c).settleStream c.bid) := by
  have hst := streamTurn_streamOf h
  rw [(mend_turn h).2 hi, releaseReservation_none]
  simp [streamOf_onStream, hst, hr]

theorem setCluster_streamOf (s : State) (i : Nat) (k : Cluster) (bid : Nat) : (s.setCluster i k).streamOf bid = s.streamOf bid := rfl

theorem mend_reserved {r : Nat} (h : streamTurn .mend s c) (hi : c.st.before c.e.id = []) (hr : c.st.reservation = some r) :
    ∃ t, exec .mend s = .next t ∧ (t.streamOf c.bid).map (·.state) = some .ended
      ∧ (t.cluster (c.bid / 32)).reservations = tdel (s.cluster (c.bid / 32)).reservations r := by
  have hst := streamTurn_streamOf h
  have hrel := releaseReservation_some (s := s.onStream c.bid fun st => { st with state := .ended }) (bid := c.bid) (r := r)
    (by simp [streamOf_onStream, hst, hr])
  refine ⟨_, (mend_turn h).2 hi, ?_, ?_⟩
  · rw [(streamState_streamBlind c.bid).settleStream (fun _ _ => rfl), State.entryRetired, hrel]
    simp [streamOf_onStream, setCluster_streamOf, hst, Stream.dropEntry]
  · rw [State.cluster, (clusters_streamBlind c.bid).settleStream (fun _ _ => rfl), State.entryRetired, hrel]
    simp [State.onStream, State.cluster]

end

/-! A stopped stream (R12, R162). -/

section
variable {s : State} {bid addr cause : Nat} {b : Block} {st : Stream}

/-- A trap due in a wave leaves every block. -/
theorem dueWave_block (s : State) (wid : Nat) (d : DueTrap) (i : Nat) : (s.dueWave wid d).block i = s.block i := by
  unfold State.dueWave State.addDue
  split <;> simp

theorem stopStream_streamOf (hb : s.block bid = some b) (hs : b.stream = some st) :
    (s.stopStream bid addr cause).streamOf bid = some { st with state := .stopped, entries := st.entries.filter (·.issued) } := by
  have hon := streamOf_onStream s bid fun st => { st with state := .stopped, entries := st.entries.filter (·.issued) }
  rw [streamOf_of_block hb hs] at hon
  rw [State.stopStream]
  split
  · rw [State.streamOf, dueWave_block]
    exact hon
  · exact hon

theorem firstWave_onStream (s : State) (bid i : Nat) (f : Stream → Stream) : (s.onStream bid f).firstWave i = s.firstWave i := by
  simp [State.firstWave, State.onStream]

theorem pathsOf_onStream (s : State) (bid i : Nat) (f : Stream → Stream) : (s.onStream bid f).pathsOf i = s.pathsOf i := by
  simp [State.pathsOf, State.onStream]

theorem stopStream_wave {wid : Nat} (h : s.firstWave bid = some wid) : s.stopStream bid addr cause =
    (s.onStream bid fun st => { st with state := .stopped, entries := st.entries.filter (·.issued) }).dueWave wid
      ⟨3, cause, BitVec.ofNat 64 (addr % 2 ^ 49 + 2 ^ 63), none, s.clk⟩ := by
  rw [State.stopStream]
  simp only [firstWave_onStream, h]

theorem stopStream_irq (h : s.firstWave bid = none) : (s.stopStream bid addr cause).irqs = s.irqs ++ [.streamStopped bid addr cause] := by
  rw [State.stopStream]
  simp only [firstWave_onStream, h, State.interrupt_irqs]
  simp [State.onStream]

theorem dueWave_path {wid pid : Nat} {q p : Path} (d : DueTrap) (h : (s.pathsOf wid).head? = some (pid, q)) (hp : s.path pid = some p) :
    ∃ r, (s.dueWave wid d).path pid = some r ∧ d ∈ r.due := by
  obtain ⟨ps, hps⟩ := List.head?_eq_some_iff.mp h
  refine ⟨{ p with due := dueInsert p.due d }, ?_, mem_dueInsert ..⟩
  rw [State.dueWave, hps]
  simp [State.addDue, hp]

theorem dueWave_wave {wid : Nat} {w : Wave} (d : DueTrap) (h : s.pathsOf wid = []) (hw : s.wave wid = some w) :
    ∃ x, (s.dueWave wid d).wave wid = some x ∧ d ∈ x.due := by
  refine ⟨{ w with due := dueInsert w.due d }, ?_, mem_dueInsert ..⟩
  rw [State.dueWave, h]
  simp [hw]

end

end Sys2Proof.Machine
end

section
/-! PROOF. The events of a stream: its fetch, the teller's grant, a pass's retirement and the vault's adders (R161, R164, R167, R168,
R242, R243). -/
namespace Sys2Proof.Machine

/-! Blocks of words written to the vault (R164, R168). -/

theorem tget_tsets_of_mem {α : Type} {m : Sparse α} {es : List (Nat × α)} {k : Nat} {v : α} (h : (k, v) ∈ es)
    (hu : ∀ e ∈ es, e.1 = k → e.2 = v) : tget (tsets m es) k = some v := by
  rw [tget_tsets]
  cases hf : es.reverse.find? fun e => e.1 == k with
  | none => exact absurd (List.find?_eq_none.mp hf _ (List.mem_reverse.mpr h)) (by simp)
  | some e =>
    have hk : e.1 = k := by simpa using List.find?_some hf
    have hm := List.mem_reverse.mp (List.mem_of_find?_eq_some hf)
    simp [hu e hm hk]

theorem tget_tsets_of_not_mem {α : Type} {m : Sparse α} {es : List (Nat × α)} {k : Nat} (h : ∀ e ∈ es, e.1 ≠ k) :
    tget (tsets m es) k = tget m k := by
  have hf : (es.reverse.find? fun e => e.1 == k) = none :=
    List.find?_eq_none.mpr fun e he => by simpa using h e (List.mem_reverse.mp he)
  rw [tget_tsets, hf]
  rfl

/-- A block of `a` rows of `b` words of a cluster's vault, from a row. -/
def vaultBlock (cl row a b : Nat) (f : Nat → Nat → Word) : List (Nat × Word) :=
  ((List.range a).map fun i => (List.range b).map fun j => (vaultKey cl (row + i) j, f i j)).flatten

theorem mem_vaultBlock {cl row a b : Nat} {f : Nat → Nat → Word} {e : Nat × Word} :
    e ∈ vaultBlock cl row a b f ↔ ∃ i < a, ∃ j < b, e = (vaultKey cl (row + i) j, f i j) := by
  simp [vaultBlock, List.mem_flatten, eq_comm]

theorem vaultKey_inj {cl r q i j : Nat} (hi : i < 384) (hj : j < 384) (h : vaultKey cl r i = vaultKey cl q j) : r = q ∧ i = j := by
  simp only [vaultKey] at h
  omega

theorem vaultBlock_inside {cl row a b : Nat} {f : Nat → Nat → Word} (m : Sparse Word) (hb : b ≤ 384) {i j : Nat} (hi : i < a) (hj : j < b) :
    tgetD 0 (tsets m (vaultBlock cl row a b f)) (vaultKey cl (row + i) j) = f i j := by
  rw [tgetD, tget_tsets_of_mem (mem_vaultBlock.mpr ⟨i, hi, j, hj, rfl⟩), Option.getD_some]
  intro e he hk
  obtain ⟨i', hi', j', hj', rfl⟩ := mem_vaultBlock.mp he
  obtain ⟨hr, rfl⟩ := vaultKey_inj (by omega) (by omega) hk
  rw [Nat.add_left_cancel hr]

theorem vaultBlock_outside {cl row a b : Nat} {f : Nat → Nat → Word} (m : Sparse Word) (hb : b ≤ 384) {r q : Nat} (hq : q < 384)
    (h : r < row ∨ row + a ≤ r ∨ b ≤ q) : tgetD 0 (tsets m (vaultBlock cl row a b f)) (vaultKey cl r q) = tgetD 0 m (vaultKey cl r q) := by
  rw [tgetD, tget_tsets_of_not_mem, tgetD]
  intro e he hk
  obtain ⟨i, hi, j, hj, rfl⟩ := mem_vaultBlock.mp he
  obtain ⟨hr, rfl⟩ := vaultKey_inj (by omega) hq hk
  omega

/-! What a change of a stream and of its tiles leaves as it was. -/

theorem countPass_keeps {β : Type} {g : State → β} (hn : ∀ (s : State) i k, g (s.setNumeric i k) = g s) (hp : ∀ (s : State) i f, g (s.onPath i f) = g s)
    (hw : ∀ (s : State) i f, g (s.onWave i f) = g s) (s : State) (bid core : Nat) (ev : Events) : g (s.countPass bid core ev) = g s := by
  have hc (n : Nat → Nat) : g (s.countEvents core n).1 = g s := by
    rw [State.countEvents]
    split
    · rfl
    · exact hn ..
  rw [State.countPass]
  split
  · exact hc _
  split
  · rw [State.dueWave]
    split
    · exact (hp ..).trans (hc _)
    · exact (hw ..).trans (hc _)
  · exact hc _

/-- No entry of the table is an mma that clears its rows at once (R164). -/
def Stream.noBlank (st : Stream) : Prop := ∀ f ∈ st.entries, ∀ h, f.op.bind mmaOf = some h → passesOf h f.map ≠ 0

theorem Stream.noBlank.dropEntry {st : Stream} (h : st.noBlank) (id : Nat) : (st.dropEntry id).noBlank :=
  fun f hf => h f (List.mem_filter.mp hf).1

theorem Stream.noBlank.onEntry {st : Stream} (h : st.noBlank) (id : Nat) {f : StreamEntry → StreamEntry} (hf : ∀ e, (f e).op = e.op ∧ (f e).map = e.map) :
    (st.onEntry id f).noBlank := by
  intro x hx k hk
  obtain ⟨e, he, rfl⟩ := List.mem_map.mp hx
  have hx : (if e.id == id then f e else e).op = e.op ∧ (if e.id == id then f e else e).map = e.map := by
    split
    · exact hf e
    · exact ⟨rfl, rfl⟩
  rw [hx.1] at hk
  rw [hx.2]
  exact h e he k hk

section
variable {s : State} {bid : Nat} {st : Stream}

theorem clearAll_noBlank (hs : s.streamOf bid = some st) (h : st.noBlank) (n : Nat) : s.clearAll bid n = s := by
  have hc : s.clearRows bid = none := by
    rw [State.clearRows]
    split
    · rfl
    next b hb =>
    split
    · rfl
    next st' hst =>
    obtain rfl : st' = st := Option.some.inj ((streamOf_of_block hb hst).symm.trans hs)
    rw [Option.map_eq_none_iff, List.find?_eq_none]
    intro e he
    cases hop : e.op.bind mmaOf with
    | none => simp
    | some g => simp [h e he g hop]
  cases n with
  | zero => rfl
  | succ n => rw [State.clearAll, hc]

theorem settleStream_vault (hs : s.streamOf bid = some st) (h : st.noBlank) : (s.settleStream bid).vault = s.vault := by
  rw [State.settleStream, clearAll_noBlank hs h, (vault_streamBlind bid).refreshStream, (vault_streamBlind bid).startAdder]

end

/-! Passes (R164, R243). -/

theorem passMembers_eq (g : Mma) (m : OperandMap) (p : Nat) :
    passMembers g m p = ((List.range g.kp).filter fun q => p * g.kp + q < m.k).map fun q => m.kofs * g.kp + p * g.kp + q := rfl

/-- The words of a pass stand in a block of the vault, by row and column (R164). -/
theorem runPass_words (s : State) (b : Block) (g : Mma) (m : OperandMap) (p : Nat) (ta tb : Tile) :
    (s.runPass b g m p ta tb).map (fun w => (w.1, w.2.1)) = vaultBlock (b.core / 4) m.row m.m m.n fun i j =>
      (passWord g ((passMembers g m p).map fun k => s.operand b ta m.ta i k) ((passMembers g m p).map fun k => s.operand b tb m.tb k j)
        (if g.z && p == 0 then 0 else s.vaultWord (b.core / 4) (m.row + i) j)).1 := by
  simp [State.runPass, vaultBlock, State.vaultWord, Function.comp_def, List.map_flatten]

/-- A change that ends the work of a pass or of the adders: an entry dropped, or changed in its counts. -/
structure Ends (f : Stream → Stream) : Prop where
  state : ∀ st, (f st).state = st.state
  noBlank : ∀ st : Stream, st.noBlank → (f st).noBlank

theorem ends_dropEntry (id : Nat) : Ends fun st => st.dropEntry id := ⟨fun _ => rfl, fun _ h => h.dropEntry id⟩

/-- A settled stream after such a change, when nothing in its table clears its rows. -/
theorem settle_ends {s : State} {bid : Nat} {st : Stream} {f : Stream → Stream} (hf : Ends f) (hs : s.streamOf bid = some st) (h : st.noBlank) :
    let t := (s.onStream bid f).settleStream bid
    t.mem = s.mem ∧ t.sram = s.sram ∧ t.clusters = s.clusters ∧ t.vault = s.vault := by
  refine ⟨?_, ?_, ?_, ?_⟩
  · exact ((mem_streamBlind bid).settleStream (fun _ _ => rfl) _).trans ((mem_streamBlind bid).stream _ _ hf.state)
  · exact ((sram_streamBlind bid).settleStream (fun _ _ => rfl) _).trans ((sram_streamBlind bid).stream _ _ hf.state)
  · exact ((clusters_streamBlind bid).settleStream (fun _ _ => rfl) _).trans ((clusters_streamBlind bid).stream _ _ hf.state)
  · have hfs : (s.onStream bid f).streamOf bid = some (f st) := by rw [streamOf_onStream, hs, Option.map_some]
    exact (settleStream_vault hfs (hf.noBlank st h)).trans ((vault_streamBlind bid).stream _ _ hf.state)

theorem countPass_streamOf (s : State) (bid core : Nat) (ev : Events) (i : Nat) : (s.countPass bid core ev).streamOf i = s.streamOf i :=
  countPass_keeps (g := (·.streamOf i)) (fun _ _ _ => rfl) (fun _ _ _ => by simp [State.streamOf]) (fun _ _ _ => by simp [State.streamOf]) ..

theorem countPass_storage (s : State) (bid core : Nat) (ev : Events) :
    let t := s.countPass bid core ev
    t.mem = s.mem ∧ t.sram = s.sram ∧ t.clusters = s.clusters ∧ t.vault = s.vault :=
  ⟨countPass_keeps (g := State.mem) (fun _ _ _ => rfl) (fun _ _ _ => by simp) (fun _ _ _ => by simp) ..,
    countPass_keeps (g := State.sram) (fun _ _ _ => rfl) (fun _ _ _ => by simp) (fun _ _ _ => by simp) ..,
    countPass_keeps (g := State.clusters) (fun _ _ _ => rfl) (fun _ _ _ => by simp) (fun _ _ _ => by simp) ..,
    countPass_keeps (g := State.vault) (fun _ _ _ => rfl) (fun _ _ _ => by simp) (fun _ _ _ => by simp) ..⟩

theorem unrefTiles_streamOf (s : State) (bid : Nat) (ts : List Nat) : (s.unrefTiles bid ts).streamOf bid = s.streamOf bid :=
  unrefTiles_keeps (g := (·.streamOf bid)) (fun _ _ _ => rfl) ..

theorem unrefTiles_storage (s : State) (bid : Nat) (ts : List Nat) :
    let t := s.unrefTiles bid ts
    t.mem = s.mem ∧ t.sram = s.sram ∧ t.clusters = s.clusters ∧ t.vault = s.vault :=
  ⟨(mem_streamBlind bid).unrefTiles .., (sram_streamBlind bid).unrefTiles .., (clusters_streamBlind bid).unrefTiles ..,
    (vault_streamBlind bid).unrefTiles ..⟩

theorem setCluster_operand (s : State) (i : Nat) (k : Cluster) (b : Block) (t : Tile) (tr : Bool) (r c : Nat) :
    (s.setCluster i k).operand b t tr r c = s.operand b t tr r c := rfl

/-- Vault words written with their events counted, as a pass and an mscl do (R57, R164, R168). -/
def State.vaultWritten (s : State) (bid core : Nat) (ws : List (Nat × Word × Events)) : State :=
  ({ s with vault := tsets s.vault (ws.map fun w => (w.1, w.2.1)) } : State).countPass bid core (ws.foldl (fun ev w => ev ||| w.2.2) evNone)

theorem vaultWritten_streamOf (s : State) (bid core : Nat) (ws : List (Nat × Word × Events)) (i : Nat) :
    (s.vaultWritten bid core ws).streamOf i = s.streamOf i := countPass_streamOf ..

theorem vaultWritten_storage (s : State) (bid core : Nat) (ws : List (Nat × Word × Events)) :
    let t := s.vaultWritten bid core ws
    t.mem = s.mem ∧ t.sram = s.sram ∧ t.clusters = s.clusters ∧ t.vault = tsets s.vault (ws.map fun w => (w.1, w.2.1)) := countPass_storage ..

/-- What a pass or an mscl leaves when it has taken effect and its stream has settled. -/
theorem settle_vaultWritten {s : State} {bid core : Nat} {ws : List (Nat × Word × Events)} {st : Stream} {f : Stream → Stream} (hf : Ends f)
    (hs : s.streamOf bid = some st) (h : st.noBlank) (ts : List Nat) :
    let t := (((s.vaultWritten bid core ws).unrefTiles bid ts).onStream bid f).settleStream bid
    t.mem = s.mem ∧ t.sram = s.sram ∧ t.clusters = s.clusters ∧ t.vault = tsets s.vault (ws.map fun w => (w.1, w.2.1)) := by
  obtain ⟨hm, hr, hc, hv⟩ := vaultWritten_storage s bid core ws
  obtain ⟨hm', hr', hc', hv'⟩ := unrefTiles_storage (s.vaultWritten bid core ws) bid ts
  obtain ⟨hm'', hr'', hc'', hv''⟩ := settle_ends hf ((unrefTiles_streamOf ..).trans ((vaultWritten_streamOf ..).trans hs)) h
  exact ⟨hm''.trans (hm'.trans hm), hr''.trans (hr'.trans hr), hc''.trans (hc'.trans hc), hv''.trans (hv'.trans hv)⟩

/-- The oldest pass of a cluster as it retires: its words written, its events counted, and its entry changed (R243). -/
theorem passRetire_eq {s : State} {cl : Nat} {p : Pass} {rest : List Pass} {b : Block} {st : Stream} {e : StreamEntry} {op : StreamOp} {g : Mma}
    {ta tb : Nat × Tile} (hp : (s.cluster cl).passes = p :: rest) (hb : s.block p.bid = some b) (hst : b.stream = some st)
    (he : (st.entries.find? fun e => e.id == p.entry) = some e) (hop : e.op = some op) (hg : mmaOf op = some g)
    (hta : s.tileOf p.bid g.ta = some ta) (htb : s.tileOf p.bid g.tb = some tb) : ∃ ts f, Ends f ∧ exec (.passRetire cl) s =
      .next (((((s.setCluster cl { s.cluster cl with passes := rest }).vaultWritten p.bid b.core
        ((s.setCluster cl { s.cluster cl with passes := rest }).runPass b g e.map p.index ta.2 tb.2)).unrefTiles p.bid ts).onStream
          p.bid f).settleStream p.bid) := by
  have hb' : (s.setCluster cl { s.cluster cl with passes := rest }).block p.bid = some b := hb
  have hta' : (s.setCluster cl { s.cluster cl with passes := rest }).tileOf p.bid g.ta = some ta := hta
  have htb' : (s.setCluster cl { s.cluster cl with passes := rest }).tileOf p.bid g.tb = some tb := htb
  have hg' : e.op.bind mmaOf = some g := by rw [hop, Option.bind_some, hg]
  have he' : (b.stream.bind fun st => st.entries.find? fun e => e.id == p.entry) = some e := by rw [hst, Option.bind_some, he]
  rw [exec_passRetire, execPassRetire]
  simp only [hp, hb', he', hg', hta', htb']
  split
  · exact ⟨_, _, ends_dropEntry _, rfl⟩
  · refine ⟨[], fun st => st.onEntry e.id fun e => { e with inFlight := e.inFlight - 1 }, ⟨fun _ => rfl, fun _ h => ?_⟩, rfl⟩
    exact h.onEntry _ fun _ => ⟨rfl, rfl⟩

theorem passRetire_vault {s : State} {cl : Nat} {p : Pass} {rest : List Pass} {b : Block} {st : Stream} {e : StreamEntry} {op : StreamOp} {g : Mma}
    {ta tb : Nat × Tile} (hp : (s.cluster cl).passes = p :: rest) (hb : s.block p.bid = some b) (hst : b.stream = some st)
    (he : (st.entries.find? fun e => e.id == p.entry) = some e) (hop : e.op = some op) (hg : mmaOf op = some g)
    (hta : s.tileOf p.bid g.ta = some ta) (htb : s.tileOf p.bid g.tb = some tb) (hn : e.map.n ≤ 384) (hblank : st.noBlank) :
    ∃ t, exec (.passRetire cl) s = .next t ∧ t.mem = s.mem ∧ t.sram = s.sram ∧ (t.cluster cl).passes = rest
      ∧ (∀ i j, i < e.map.m → j < e.map.n →
        let ks := (List.range g.kp).filter fun q => p.index * g.kp + q < e.map.k
        let at_ (q : Nat) := e.map.kofs * g.kp + p.index * g.kp + q
        t.vaultWord (b.core / 4) (e.map.row + i) j = (passWord g (ks.map fun q => s.operand b ta.2 e.map.ta i (at_ q))
          (ks.map fun q => s.operand b tb.2 e.map.tb (at_ q) j)
          (if g.z = true ∧ p.index = 0 then 0 else s.vaultWord (b.core / 4) (e.map.row + i) j)).1)
      ∧ (∀ row col, row < 1024 → col < 384 → (row < e.map.row ∨ e.map.row + e.map.m ≤ row ∨ e.map.n ≤ col) →
        t.vaultWord (b.core / 4) row col = s.vaultWord (b.core / 4) row col) := by
  obtain ⟨ts, f, hf, hexec⟩ := passRetire_eq hp hb hst he hop hg hta htb
  obtain ⟨hmem, hsram, hclusters, hvault⟩ := settle_vaultWritten (core := b.core)
    (ws := (s.setCluster cl { s.cluster cl with passes := rest }).runPass b g e.map p.index ta.2 tb.2)
    (s := s.setCluster cl { s.cluster cl with passes := rest }) hf (streamOf_of_block hb hst) hblank ts
  rw [runPass_words] at hvault
  refine ⟨_, hexec, hmem, hsram, ?_, fun i j hi hj => ?_, fun row col _ hcol hout => ?_⟩
  · rw [State.cluster, hclusters]
    simp
  · rw [State.vaultWord, hvault, vaultBlock_inside _ hn hi hj]
    simp only [passMembers_eq, List.map_map, setCluster_operand, Bool.and_eq_true, beq_iff_eq]
    rfl
  · rw [State.vaultWord, hvault, vaultBlock_outside _ hn hcol hout]
    rfl

/-! The vault's adders (R167, R168). -/

theorem vaultAdder_macz {s : State} {bid : Nat} {b : Block} {st : Stream} {e : StreamEntry} {r : BitVec 10} {n : BitVec 11}
    (hb : (s.startAdder bid).block bid = some b) (hst : b.stream = some st) (he : st.entries.find? StreamEntry.adding = some e)
    (hop : e.op = some (.macz r n)) : exec (.vaultAdderComplete bid) s = .next
      (((zeroVault (s.startAdder bid) (b.core / 4) r.toNat n.toNat 384).onStream bid fun st => st.dropEntry e.id).settleStream bid) := by
  have he' : (b.stream.bind fun st => st.entries.find? StreamEntry.adding) = some e := by rw [hst, Option.bind_some, he]
  rw [exec_vaultAdderComplete, execVaultAdderComplete]
  simp only [hb, he', hop]

/-- The words of an mscl stand in a block of the vault, by row and column (R168). -/
theorem runMscl_words (s : State) (b : Block) (t : Tile) (mode : MsclMode) (d a : OperandMap) :
    (s.runMscl b t mode d a).map (fun w => (w.1, w.2.1)) = vaultBlock (b.core / 4) d.row d.m d.n fun i j =>
      (out32 .rne false (FV.add .rne (FV.mul (fp32.value (s.vaultWord (b.core / 4) (a.row + i) j).toNat) (s.scaleOf b t mode i j).1).1
        (fp32.value (s.vaultWord (b.core / 4) (d.row + i) j).toNat)).1).1 := by
  simp [State.runMscl, vaultBlock, State.vaultWord, Function.comp_def, List.map_flatten]

theorem vaultAdder_mscl {s : State} {bid : Nat} {b : Block} {st : Stream} {e : StreamEntry} {d a : BitVec 3} {t : BitVec 7} {mode : MsclMode} {k : Nat}
    {v : Tile} (hb : (s.startAdder bid).block bid = some b) (hst : b.stream = some st) (he : st.entries.find? StreamEntry.adding = some e)
    (hop : e.op = some (.mscl d a t mode)) (ht : (s.startAdder bid).tileOf bid t.toNat = some (k, v)) (hn : e.map.n ≤ 384) (hblank : st.noBlank) :
    ∃ x, exec (.vaultAdderComplete bid) s = .next x ∧ x.mem = s.mem
      ∧ ∀ i j, i < e.map.m → j < e.map.n →
        x.vaultWord (b.core / 4) (e.map.row + i) j = (out32 .rne false (FV.add .rne
          (FV.mul (fp32.value (s.vaultWord (b.core / 4) (e.map2.row + i) j).toNat) ((s.startAdder bid).scaleOf b v mode i j).1).1
          (fp32.value (s.vaultWord (b.core / 4) (e.map.row + i) j).toNat)).1).1 := by
  have he' : (b.stream.bind fun st => st.entries.find? StreamEntry.adding) = some e := by rw [hst, Option.bind_some, he]
  have hexec : exec (.vaultAdderComplete bid) s = .next (((((s.startAdder bid).vaultWritten bid b.core
      ((s.startAdder bid).runMscl b v mode e.map e.map2)).unrefTiles bid e.tiles).onStream bid fun st => st.dropEntry e.id).settleStream bid) := by
    rw [exec_vaultAdderComplete, execVaultAdderComplete]
    simp only [hb, he', hop, ht]
    rfl
  obtain ⟨hmem, -, -, hvault⟩ := settle_vaultWritten (core := b.core) (ws := (s.startAdder bid).runMscl b v mode e.map e.map2)
    (ends_dropEntry e.id) (streamOf_of_block hb hst) hblank e.tiles
  have hu : (s.startAdder bid).vault = s.vault := (vault_streamBlind bid).startAdder s
  refine ⟨_, hexec, hmem.trans ((mem_streamBlind bid).startAdder s), fun i j hi hj => ?_⟩
  rw [State.vaultWord, hvault, runMscl_words, vaultBlock_inside _ hn hi hj]
  simp only [State.vaultWord, hu]

/-! The teller's grant (R242). -/

theorem grantPass_cluster (u : State) (cl bid : Nat) (e : StreamEntry) :
    (u.grantPass cl bid e).cluster cl = { u.cluster cl with passes := (u.cluster cl).passes ++ [⟨bid, e.id, e.nextPass⟩] } := by
  have hc (f : Stream → Stream) : ((if e.begun then u else u.refTiles bid e.tiles).onStream bid f).clusters = u.clusters := by
    rw [onStream_blind (g := State.clusters) fun _ _ _ => rfl]
    split
    · rfl
    · exact (clusters_streamBlind bid).refTiles ..
  rw [State.grantPass, State.setCluster_cluster_same, State.cluster, hc]
  rfl

theorem tellerGrant_wins {s : State} {cl bid : Nat} {b : Block} {st : Stream} {e : StreamEntry} (hroom : (s.cluster cl).passes.length < 32)
    (hr : s.run.running = true) (hh : s.run.halted = false) (hs : s.clusterStopped cl = false)
    (hw : (s.refreshCluster cl).winner (s.clusterBlocks cl) = some bid) (hb : (s.refreshCluster cl).block bid = some b) (hst : b.stream = some st)
    (he : (s.refreshCluster cl).offers bid b st = some e) :
    exec (.tellerGrant cl) s = .next (((s.refreshCluster cl).grantPass cl bid e).refreshStream bid) := by
  have he' : b.stream.bind ((s.refreshCluster cl).offers bid b) = some e := by rw [hst, Option.bind_some, he]
  rw [exec_tellerGrant, execTellerGrant, if_neg (by simp [hr, hh, hs, hroom])]
  simp only [hw, hb, he']

/-! The fetch of a stream's word (R12, R161). -/

theorem streamEnter_word {s : State} {bid core w : Nat} {st : Stream} {op : StreamOp} (hf : s.fetchStream core st.pc = .word w)
    (hh : ∀ p, parseHintWord w ≠ some (.pfx p)) (hd : decodeStream w = .ok op) :
    s.streamEnter bid core st = s.onStream bid fun t => t.enter st.pc (st.pc + 4) (some op) 0 none := by
  rw [State.streamEnter, hf]
  dsimp only
  split
  · next p hp => exact absurd hp (hh p)
  · rw [hd]

theorem touchStream_storage (s : State) (core a : Nat) : (s.touchStream core a).run = s.run ∧ (s.dev.hotbase = 0 → (s.touchStream core a).mem = s.mem) := by
  rw [State.touchStream]
  split
  · exact ⟨(dramTouch_frame _ _).1, fun h => by rw [dramTouch_off _ _ h]⟩
  · exact ⟨rfl, fun _ => rfl⟩

theorem streamFetch_enters {s : State} {bid w : Nat} {b : Block} {st : Stream} {op : StreamOp} {l : Loc} (hb : s.block bid = some b)
    (hst : b.stream = some st) (hrun : st.state = .running) (hr : s.run.running = true) (hh : s.run.halted = false) (hlen : st.entries.length < 32)
    (hhold : st.entries.any StreamEntry.holdsFetch = false) (hl : s.reach b.core ⟨false, false, false⟩ st.pc = .at_ l)
    (hwait : (l.span 4).any s.mustWait = false) (hw : s.readNum l 4 = w) (hp : ∀ p, parseHintWord w ≠ some (.pfx p)) (hd : decodeStream w = .ok op) :
    ∃ t st' e, exec (.streamFetch bid) s = .next t ∧ t.streamOf bid = some st' ∧ st'.pc = st.pc + 4 ∧ st'.entries = st.entries ++ [e]
      ∧ e.op = some op ∧ e.addr = st.pc ∧ e.issued = false ∧ (s.dev.hotbase = 0 → t.mem = s.mem) := by
  have hf : s.fetchStream b.core st.pc = .word w := by
    rw [State.fetchStream, hl, ← hw]
    simp [hwait]
  have hexec : exec (.streamFetch bid) s =
      .next ((s.onStream bid fun t => t.enter st.pc (st.pc + 4) (some op) 0 none).touchStream b.core st.pc) := by
    rw [exec_streamFetch, execStreamFetch, hb]
    simp only [hst]
    rw [if_pos ⟨hrun, hr, by simp [hh], hlen, by simp [hhold]⟩, streamEnter_word hf hp hd]
  obtain ⟨htrun, htmem⟩ := touchStream_storage (s.onStream bid fun t => t.enter st.pc (st.pc + 4) (some op) 0 none) b.core st.pc
  have hto : ((s.onStream bid fun t => t.enter st.pc (st.pc + 4) (some op) 0 none).touchStream b.core st.pc).streamOf bid
      = some (st.enter st.pc (st.pc + 4) (some op) 0 none) := by
    rw [State.streamOf, State.block, htrun]
    exact (streamOf_onStream ..).trans (by rw [streamOf_of_block hb hst, Option.map_some])
  refine ⟨_, _, _, hexec, hto, rfl, rfl, rfl, rfl, rfl, fun h => (htmem ?_).trans ?_⟩
  · rwa [State.onStream, State.onBlock_dev]
  · rw [State.onStream, State.onBlock_mem]

/-- Settles O44, from what settles after a stream's turn, the blocks of the vault that a pass and an mscl write, and sums that the order of
their members does not change. -/
theorem streamControlAndEvents : Obligations.StreamControlAndEvents := by
  unfold Obligations.StreamControlAndEvents
  refine ⟨⟨fun s c => ?_, fun s bid addr cause b st hb hs => ?_⟩,
    fun s bid w b st op hb hst hrun hr hh hlen hhold l hl hwait hw hp hd => streamFetch_enters hb hst hrun hr hh hlen hhold hl hwait hw hp hd,
    fun s cl bid b st e hroom hr hh hs => fun hw hb hst he => ⟨tellerGrant_wins hroom hr hh hs hw hb hst he, grantPass_cluster _ cl bid e⟩,
    fun s cl p rest b st e op g ta tb hp hb hst he hop hg hta htb _ hn hblank => passRetire_vault hp hb hst he hop hg hta htb hn hblank,
    fun g as bs v hb ha _ => passWord_int8 ha hb as bs v, fun ps qs v h => passElement_perm v h, passElement_sample,
    fun s bid b st e => fun hb hst he => ?_⟩
  · refine ⟨fun n h => mbarSig_turn h, fun n h => mbarWait_turn h, fun n o h => ?_, fun h => ⟨(mend_turn h).1, fun hi hr => mend_unreserved h hi hr,
      fun r hi hr => mend_reserved h hi hr⟩, fun h => mhalt_turn h, fun t h => ?_, fun n i h hp => ?_⟩
    · obtain ⟨h0, h1, hk⟩ := mloop_turn h
      refine ⟨h0, h1, ?_⟩
      cases hpfx : c.e.pfx <;> simpa [hpfx] using hk
    · obtain ⟨hnone, hsome⟩ := mrel_turn h
      refine ⟨hnone, fun e u ht => ?_⟩
      obtain ⟨hundef, hwait, hgo⟩ := hsome e u ht
      refine ⟨hundef, hwait, fun hd hf => ⟨fun hst => ?_, fun hst hrefs => ?_, fun hst hrefs => ?_⟩⟩
      · have := hgo hd hf (by simp [hst]) (by simp [hst])
        simpa [Tile.release, hst] using this
      · have := hgo hd hf (by simp [hst]) (by simp [hst])
        simpa [Tile.release, hst, hrefs, Tile.become] using this
      · have := hgo hd hf (by simp [hst]) (by simp [hst])
        simpa [Tile.release, hst, hrefs] using this
    · have hv := mset_turn h hp
      cases hpfx : c.e.pfx <;> simpa [hpfx] using hv
  · have hstop := stopStream_streamOf (addr := addr) (cause := cause) hb hs
    refine ⟨fun wid pid q hw hq hp => ?_, fun wid w hw hno hwave => ?_, stopStream_irq, by rw [hstop]; rfl, by rw [hstop]; rfl⟩
    · rw [stopStream_wave hw]
      exact dueWave_path _ (by rwa [pathsOf_onStream]) (by simpa [State.onStream] using hp)
    · rw [stopStream_wave hw]
      exact dueWave_wave _ (by rwa [pathsOf_onStream]) (by simpa [State.onStream] using hwave)
  · refine ⟨fun r n hop => vaultAdder_macz hb hst he hop, fun d a t mode k v hop ht _ hn hblank => ?_⟩
    obtain ⟨x, hx, hmem, hvault⟩ := vaultAdder_mscl hb hst he hop ht hn hblank
    refine ⟨x, hx, hmem, fun i j hi hj => ?_⟩
    rw [hvault i j hi hj]
    cases mode <;> rfl

end Sys2Proof.Machine
end

section
/-! PROOF. Two statements that fail in states whose tables disagree: exit where a wave path's number also stands in the table of helpers (O16),
and a returned value whose destination names more registers than it has words (O36). -/
namespace Sys2Proof.Machine

/-! Exit (R77, R299). -/

/-- A loan of lane 0. -/
def laneZeroLoan : Loan :=
  { lane := 0, next := 0, last := 1, pool := [], snapshot := [], entry := 0, demand := 0, repays := [], current := none, held := [],
    closing := false, dropped := 0 }

/-- Path 0 of wave 0 has a loan pending, and the table of helpers names path 0 too, as its own recruiter. -/
def ownHelper : State :=
  { State.reset with
    cur := .path 0
    run := { Context.empty with
      running := true, paths := [(0, { Path.fresh 0 1 0 with loan := some laneZeroLoan })], helpers := [(0, ⟨0, 0, 0, [], [], 0⟩)] } }

/-- What path 0 knows as it issues `exit` there. -/
def ownHelperCtx : Ctx := ctxOf .exit 0 { Path.fresh 0 1 0 with loan := some laneZeroLoan } ownHelper

theorem ready_ownHelper : ready .exit ownHelper ownHelperCtx = true := by decide

/-- The loan's end recalls its helper, and with the helper's number goes the path of the same number. -/
theorem exit_ownHelper : ((ownHelper.exitLoans 0 1).exitLanes 0 1).path 0 = none := by decide

/-- Refutes O16: the path whose loan an exit ends is not there after it. -/
theorem not_breakJoinExitRefillAndRegion : ¬ Obligations.BreakJoinExitRefillAndRegion := by
  unfold Obligations.BreakJoinExitRefillAndRegion
  intro h
  obtain ⟨_, _, hexit, _⟩ := h ownHelper ownHelperCtx
  obtain ⟨_, _, _, _, hloan⟩ := hexit ready_ownHelper rfl
  obtain ⟨r, hr, _⟩ := hloan _ laneZeroLoan rfl rfl (by decide)
  exact Option.some_ne_none r (hr.symm.trans exit_ownHelper)

/-! A value returned (R135). -/

/-- A value on its way to a helper path's s5, whose operation claims the registers up to s95. -/
def overclaimed : Op :=
  { id := 0, owner := 4096, pid := helperBase, pc := 0, first := 0, sys := false, cls := .ld, dest := .scalar 5 91, mask := 0,
    kind := .values [(0, [7])] none, done := false, dropped := false, vas := [], watch := none, after := [], seen := none, own := false,
    due := 0, far := 0, got := [], slots := 0 }

/-- The helper path holds no lane any more. -/
def overclaiming : State :=
  { State.reset with
    ops := [overclaimed]
    run := { Context.empty with
      running := true, paths := [(helperBase, Path.fresh 0 0 0)], helpers := [(helperBase, ⟨0, 0, 0, [], [], 0⟩)] } }

/-- The return counts exec among the registers written and so ends the helper path, whose registers are dropped. -/
theorem return_overclaimed : (match exec (.loadDataReturn 0 ⟨[], []⟩) overclaiming with
    | .next t => tgetD 0 t.run.sregs (skey (ownerOf helperBase) 5)
    | _ => 0) = 0 := by decide

/-- Refutes O36: s5 does not hold the returned word. -/
theorem not_loadsAndTileLoadsReturn : ¬ Obligations.LoadsAndTileLoadsReturn := by
  unfold Obligations.LoadsAndTileLoadsReturn
  rintro ⟨⟨h, _⟩, _⟩
  obtain ⟨_, hvalues⟩ := h overclaiming 0 overclaimed rfl rfl (by decide) rfl rfl (fun p hp hw => by
    obtain rfl : Path.fresh 0 0 0 = p := Option.some.inj hp
    exact nomatch hw)
  obtain ⟨_, _, hscalar⟩ := hvalues [(0, [7])] none rfl
  obtain ⟨t, hexec, _, _, _, _, hword, _⟩ := hscalar 5 91 0 [7] rfl rfl (by decide)
  have h7 : tgetD 0 t.run.sregs (skey (ownerOf overclaimed.pid) 5) = 7 := hword 0 (by decide) (by decide)
  have h0 := return_overclaimed
  rw [hexec] at h0
  exact absurd (h7.symm.trans h0) (by decide)

end Sys2Proof.Machine
end

section
/-! PROOF. Dispatch and completion of a block (O47). -/
namespace Sys2Proof.Machine

/-! Dispatch (R256, R267, R303). -/

/-- A block of a launch that competes and is first is placed on the best core, its bit cleared before (R267, log entry 111). -/
theorem execBlockDispatch_places {s : State} {id i core : Nat} {l : Launch} {cs : List Nat} (hl : s.launchBy id = some l)
    (hhalt : s.run.halted = false) (hopen : s.launchOpen l = true) (hper : l.persistent = false)
    (hwalk : l.pixel = false ∨ l.known = true ∨ s.walkBlocks l ≠ some l.placed.length) (hdep : s.mayDispatch l i ≠ .fault)
    (hwait : s.launchWaits l (if l.pixel then i + 1 else 0) = false)
    (hfirst : ∀ m ∈ s.launches, s.goesBefore m l = true → s.launchReady m = none) (hready : s.launchReady l = some i)
    (hcore : s.choices l i = core :: cs) :
    execBlockDispatch id i s = .next ((s.clearBit l i).placeOn l i core (s.blockWaves l i)) := by
  have hbefore : (s.launches.any fun m => s.goesBefore m l && (s.launchReady m).isSome) = false := by
    rw [List.any_eq_false]
    intro m hm
    by_cases hg : s.goesBefore m l = true
    · simp [hfirst m hm hg]
    · simp [hg]
  have hwalk' : ¬ (l.pixel = true ∧ (!l.known) = true ∧ s.walkBlocks l = some l.placed.length) := by
    rintro ⟨hp, hk, hw⟩
    rcases hwalk with h | h | h
    · simp [h] at hp
    · simp [h] at hk
    · exact h hw
  simp only [execBlockDispatch, hl, hhalt, hopen, hwait, hbefore, hready, hcore, hper, Bool.not_true, Bool.or_self, Bool.false_eq_true, if_false,
    ne_eq, not_true_eq_false]
  rw [if_neg (fun h => hdep h.1), if_neg hwalk']

theorem clearBit_of_not_pixel {s : State} {l : Launch} (i : Nat) (h : l.pixel = false) : s.clearBit l i = s := by
  simp [State.clearBit, h]

theorem getLsbD_lowLanes {n x : Nat} (hn : n ≤ 96) (hx : x < 96) : (lowLanes n).getLsbD x = decide (x < n) := by
  rw [lowLanes, BitVec.getLsbD_ofNat, Nat.min_eq_left hn, Nat.testBit_two_pow_sub_one]
  simp [hx]

/-! The block's end (R270). -/

theorem execBlockComplete_over {s : State} {bid : Nat} {b : Block} {l : Launch} (hb : s.block bid = some b) (ho : s.blockOver bid b = true)
    (hw : ((s.launchOf b).any fun l => s.launchWaits l (b.index + 1)) = false) (hl : (s.removeBlock bid).launchBy b.launch = some l) :
    execBlockComplete bid s = .next ((((( s.removeBlock bid).onLaunch l.id fun m => { m with completed := m.completed ++ [b.index] }).setBit
      l b.index).putHeader l.id).settleLaunch l.id) := by
  simp only [execBlockComplete, hb, ho, hw, hl, Bool.not_true, Bool.false_eq_true, if_false]

theorem removeBlock_block (s : State) (bid : Nat) : (s.removeBlock bid).block bid = none := tget_tdel_same _ _

theorem removeBlock_tiles {s : State} {bid : Nat} {e : Nat × Tile} (he : e ∈ (s.removeBlock bid).run.tiles) (hk : e.1 / 128 = bid / 32) :
    e.2.own ≠ bid % 32 := by
  have := (List.mem_filter.mp he).2
  simpa [hk] using this

/-! The launch's end (R270). -/

theorem finishLaunch_launches {s : State} {l m : Launch} (hm : m ∈ (s.finishLaunch l).launches) : m.id ≠ l.id := by
  simpa using (List.mem_filter.mp hm).2

theorem finishLaunch_irqs {s : State} {l : Launch} (h : l.irq = true) : .launchDone l.id ∈ (s.finishLaunch l).irqs := by
  simp [State.finishLaunch, State.dropLaunch, h]

theorem finishLaunch_mem {s : State} {l : Launch} {v : Nat} (h0 : l.signal ≠ 0) (hv : s.devRead l.signal 8 = .ok v) :
    (s.finishLaunch l).mem = (s.devWrite l.signal 8 (v + 1)).mem := by
  simp only [State.finishLaunch, State.dropLaunch, h0, hv, if_false]
  split <;> rfl

/-! The producer blocks that a block names (R273). -/

theorem mem_names_iff (l : Launch) (i b k : Nat) :
    let base := (BitVec.ofNat 32 (l.num 0xC8 4)).toInt * i + (BitVec.ofNat 32 (l.num 0xCC 4)).toInt
    ((l.names i b).1 ≤ k ∧ k < (l.names i b).1 + (l.names i b).2) ↔ (base ≤ k ∧ (k : Int) < base + l.width ∧ k < b) := by
  intro base
  have hbase : signedOf 32 (l.num 0xC8 4) * i + signedOf 32 (l.num 0xCC 4) = base := by
    rw [signedOf_eq_toInt (BitVec.ofNat 32 (l.num 0xC8 4)) _ (BitVec.toNat_ofNat _ _).symm,
      signedOf_eq_toInt (BitVec.ofNat 32 (l.num 0xCC 4)) _ (BitVec.toNat_ofNat _ _).symm]
  simp only [Launch.names, hbase]
  omega

/-- Settles O47: each clause is what the scheduler's, the launch's or the block's own function does in the case that the clause names. -/
theorem dispatchAndCompletion : Obligations.DispatchAndCompletion := by
  unfold Obligations.DispatchAndCompletion
  refine ⟨?_, fun s l i h => clearBit_of_not_pixel i h, ?_, ?_, ?_, ?_, ?_, mem_names_iff⟩
  · intro s id i core l cs hl hhalt hopen hper hwalk hdep hwait hfirst hready hcore
    exact execBlockDispatch_places hl hhalt hopen hper hwalk hdep hwait hfirst hready hcore
  · rintro s l bid i w wid start rfl - - h96
    refine ⟨_, _, tget_tset_same _ _ _, tget_tset_same _ _ _, rfl, rfl, rfl, rfl, rfl, rfl, ?_, rfl, rfl, rfl, rfl, rfl, rfl, rfl, rfl, rfl, ?_⟩
    · intro x hx
      simpa [Nat.min_eq_left h96] using getLsbD_lowLanes h96 hx
    · cases h : l.pixel || decide (0 < l.replay) <;> simp [startPath]
  · intro s bid b l hb ho hw hl
    exact ⟨execBlockComplete_over hb ho hw hl, removeBlock_block s bid, fun e he hk => removeBlock_tiles he hk⟩
  · intro s l h0
    simp [State.finishLaunch, h0]
  · intro s l v h0 hv
    exact ⟨finishLaunch_mem h0 hv, finishLaunch_irqs, fun m hm => finishLaunch_launches hm⟩
  · intro s c b l hb
    refine ⟨fun h hl => ?_, fun h hs => ?_, fun h hs hw => ?_, fun h hs hw => ?_⟩
    · rw [exec_wpred, execWpred, issue_of_ready _ h, entered_wpred]
      simp only [hb, hl, Bool.or_eq_true, beq_iff_eq]
      split <;> rfl
    · exact issue_done h (by simp only [entered_sucstart, hb, hs, if_true])
    · rw [exec_sucstart, execSucstart, issue_of_ready _ h, entered_sucstart]
      simp only [hb, hs, hw, Bool.false_eq_true, if_false, if_true]
      rfl
    · exact issue_done h (by simp only [entered_sucstart, hb, hs, hw, Bool.false_eq_true, if_false])

end Sys2Proof.Machine
end

section
/-! PROOF. How an instruction that is ready ends, where it neither completes nor jumps. -/
namespace Sys2Proof.Machine

variable {i : Instr} {s t : State} {c : Ctx} {body : Ctx → State → Fate}

theorem issue_wait {w : WaitFor} (h : ready i s c = true) (hb : body c (s.entered i c) = .wait t w) :
    issue i body s = .next (t.waitAt c.pid i.limited w) := by
  rw [issue_of_ready body h, hb]
  rfl

theorem issue_trapOpen {cause : Nat} (h : ready i s c = true) (hb : body c (s.entered i c) = .trapOpen cause) :
    issue i body s =
      .next (((s.entered i c).takeFree.takeTrap c.pid cause c.first (s.entered i c).openAux none).unstep c.pid) := by
  rw [issue_of_ready body h, hb]
  rfl

theorem issue_trap {cause : Nat} {eaux : DWord} {lane : Option Nat} (h : ready i s c = true)
    (hb : body c (s.entered i c) = .trap cause eaux lane) :
    issue i body s = .next (((s.entered i c).takeTrap c.pid cause c.first eaux lane).unstep c.pid) := by
  rw [issue_of_ready body h, hb]
  rfl

theorem issue_outOfContext (h : ready i s c = true) (hb : body c (s.entered i c) = .outOfContext) :
    issue i body s =
      .next (((s.entered i c).takeTrap c.pid 0x01 c.first (BitVec.ofNat 64 c.word) none).unstep c.pid) := by
  rw [issue_of_ready body h, hb]
  rfl

theorem issue_gone (h : ready i s c = true) (hb : body c (s.entered i c) = .gone t) : issue i body s = .next (t.unstep c.pid) := by
  rw [issue_of_ready body h, hb]
  rfl

/-- The target, the mod word's fields and the pfx words that an issuing instruction sees are those of its own bundle. -/
theorem ready_ctx (h : ready i s c = true) :
    c.pfx = bundlePfx c.p.hints ∧ c.wid = s.waveOf c.pid ∧ c.mods = bundleMod c.p.hints ∧ c.first = c.p.bundleStart ∧ c.word = encodeWord i := by
  obtain ⟨_, hc⟩ := ready_path h
  rw [hc]
  exact ⟨rfl, rfl, rfl, rfl, rfl⟩

theorem ready_taken (h : ready i s c = true) : taken i s c = true := by
  simp only [ready, checked, Bool.and_eq_true] at h
  obtain ⟨⟨⟨⟨⟨⟨⟨⟨⟨⟨ht, _⟩, _⟩, _⟩, _⟩, _⟩, _⟩, _⟩, _⟩, _⟩, _⟩ := h
  exact ht

theorem taken_bundle (h : taken i s c = true) : bundleDefect i.pfxLimit i.admitsMod c.p.hints 0 false false = none := by
  simp only [taken, Bool.and_eq_true, Option.isNone_iff_eq_none] at h
  obtain ⟨⟨_, hb⟩, _⟩ := h
  exact hb

/-- An instruction that no helper executes issues in a wave's own path alone (R64). -/
theorem ready_not_helper (h : ready i s c = true) (hu : i.helperUse = .outOfContext) : c.helper = false := by
  simp only [ready, checked, Bool.and_eq_true, hu] at h
  obtain ⟨⟨⟨⟨⟨⟨⟨⟨_, hh⟩, _⟩, _⟩, _⟩, _⟩, _⟩, _⟩, _⟩ := h
  simpa using hh

/-! The pfx words of a bundle (R20). -/

theorem bundlePfx_lt (hs : List HintWord) : ∀ x ∈ bundlePfx hs, x < 2 ^ 24 := by
  intro x hx
  obtain ⟨h, _, hh⟩ := List.mem_filterMap.mp hx
  split at hh
  · next k _ => exact Option.some.inj hh ▸ k.isLt
  · exact nomatch hh

/-- A bundle without a defect holds no more pfx words than its target takes. -/
theorem bundlePfx_length {limit : Nat} {admits : ModFields → Bool} (hs : List HintWord) (n : Nat) (m y : Bool)
    (h : bundleDefect limit admits hs n m y = none) : (bundlePfx hs).length ≤ limit - n := by
  induction hs generalizing n m y with
  | nil => simp [bundlePfx]
  | cons w hs ih =>
    have other (e : ∀ k, parseHintWord w.word.toNat ≠ some (.pfx k)) : bundlePfx (w :: hs) = bundlePfx hs := by
      simp only [bundlePfx, List.filterMap_cons]
    rw [bundleDefect] at h
    split at h
    · next k e =>
      split at h
      · exact nomatch h
      · have := ih _ _ _ h
        have e' : bundlePfx (w :: hs) = k.toNat :: bundlePfx hs := by simp [bundlePfx, e]
        rw [e', List.length_cons]
        omega
    · next e =>
      split at h
      · exact nomatch h
      · exact other (by simp [e]) ▸ ih _ _ _ h
    · next e =>
      split at h
      · exact nomatch h
      · exact other (by simp [e]) ▸ ih _ _ _ h
    · exact nomatch h

/-- The pfx words of a bundle that issues: at most as many as its target takes, each of 24 bits. -/
theorem ready_pfx (h : ready i s c = true) : c.pfx.length ≤ i.pfxLimit ∧ ∀ x ∈ c.pfx, x < 2 ^ 24 := by
  obtain ⟨hp, _⟩ := ready_ctx h
  rw [hp]
  exact ⟨by simpa using bundlePfx_length _ 0 _ _ (taken_bundle (ready_taken h)), bundlePfx_lt _⟩

/-- An immediate of a bundle that may hold two pfx words, as a number and as a bit vector (R20). -/
theorem ready_widened {n : Nat} (h : ready i s c = true) (hl : i.pfxLimit ≤ 2) (k : BitVec n) :
    BitVec.ofInt 64 (widened c.pfx n k.toNat) = widenedImm c.pfx k := by
  obtain ⟨hlen, hlt⟩ := ready_pfx h
  exact (widenedImm_eq_ofInt c.pfx k (hlen.trans hl) hlt).symm

end Sys2Proof.Machine
end

section
/-! PROOF. Waits for counters and time, and claims of registers (O20). -/
namespace Sys2Proof.Machine

variable {s : State} {c : Ctx}

/-! Waits (R88, R89). -/

/-- wait.c waits for the first counter, in the word's order, that is above its field (R88). -/
theorem execWaitC_waits {l st : BitVec 6} {cp tl : BitVec 4} (h : ready (.waitC l st cp tl) s c = true)
    (hover : ¬ (s.counter c.owner .ld ≤ l.toNat ∧ s.counter c.owner .st ≤ st.toNat ∧ s.counter c.owner .cp ≤ cp.toNat
      ∧ s.counter c.owner .tl ≤ tl.toNat)) : ∃ pc, execWaitC l st cp tl s = .next (s.waitAt c.pid true (.waitc pc)) := by
  by_cases h1 : l.toNat < s.counter c.owner .ld
  · exact ⟨_, issue_wait h (if_pos h1)⟩
  by_cases h2 : st.toNat < s.counter c.owner .st
  · exact ⟨_, issue_wait h ((if_neg h1).trans (if_pos h2))⟩
  by_cases h3 : cp.toNat < s.counter c.owner .cp
  · exact ⟨_, issue_wait h ((if_neg h1).trans ((if_neg h2).trans (if_pos h3)))⟩
  by_cases h4 : tl.toNat < s.counter c.owner .tl
  · exact ⟨_, issue_wait h ((if_neg h1).trans ((if_neg h2).trans ((if_neg h3).trans (if_pos h4))))⟩
  · exact absurd ⟨Nat.le_of_not_lt h1, Nat.le_of_not_lt h2, Nat.le_of_not_lt h3, Nat.le_of_not_lt h4⟩ hover

theorem execWaitC_done {l st : BitVec 6} {cp tl : BitVec 4} (h : ready (.waitC l st cp tl) s c = true)
    (hld : s.counter c.owner .ld ≤ l.toNat) (hst : s.counter c.owner .st ≤ st.toNat) (hcp : s.counter c.owner .cp ≤ cp.toNat)
    (htl : s.counter c.owner .tl ≤ tl.toNat) : execWaitC l st cp tl s = .next (s.retire c c.nextPc none) :=
  issue_done h (by
    simp only [entered_waitC, Nat.not_lt.mpr hld, Nat.not_lt.mpr hst, Nat.not_lt.mpr hcp, Nat.not_lt.mpr htl, if_false])

/-! Claims (R91, R275). -/

theorem addRegs_wave {wid : Nat} {w : Wave} (n : Nat) (hw : s.wave wid = some w) :
    (s.addRegs wid n).wave wid = some { w with regCount := w.regCount + n } := by
  simp only [State.addRegs, hw]
  exact State.setWave_wave_same _ _ _

theorem vkey_le {owner r r' l : Nat} (h : r ≤ r') : vkey owner r 0 ≤ vkey owner r' l := by
  simp only [vkey]; omega

theorem vkey_lt {owner r r' l : Nat} (h : r < r') (hl : l < 96) : vkey owner r l < vkey owner r' 0 := by
  simp only [vkey]; omega

/-- Registers that a wave is given read zero (R91). -/
theorem addRegs_vregs {wid n r l : Nat} {w : Wave} (hw : s.wave wid = some w) (hr : w.regCount ≤ r) (hn : r < w.regCount + n) (hl : l < 96) :
    tget (s.addRegs wid n).run.vregs (vkey wid r l) = none := by
  simp only [State.addRegs, hw]
  exact tget_tdrop_none _ _ _ _ ⟨vkey_le hr, vkey_lt hn hl⟩

/-- Registers given back leave the wave's count, and their contents go (R91). -/
theorem execGiveback_done {k : BitVec 5} (h : ready (.giveback k) s c = true) (hk : 8 * k.toNat + 8 ≤ s.regCountOf (c.pid / 4))
    (hp : s.registersPending c.owner ⟨[], [(s.regCountOf (c.pid / 4) - 8 * k.toNat, 8 * k.toNat)], [], []⟩ = none) :
    ∃ t : State, execGiveback k s = .next (t.retire c c.nextPc none) ∧ t.regCountOf (c.pid / 4) = s.regCountOf (c.pid / 4) - 8 * k.toNat
      ∧ t.run.sregs = s.run.sregs ∧ t.mem = s.mem
      ∧ t.run.vregs = tdrop s.run.vregs (vkey (c.pid / 4) (s.regCountOf (c.pid / 4) - 8 * k.toNat) 0)
          (vkey (c.pid / 4) (s.regCountOf (c.pid / 4)) 0) := by
  cases hw : s.wave (c.pid / 4) with
  | none => simp [State.regCountOf, hw] at hk
  | some w =>
    refine ⟨_, issue_done h (by simp only [entered_giveback, Nat.not_lt.mpr hk, hp, if_false]; rfl), ?_, ?_, ?_, ?_⟩
    · simp only [State.regCountOf, State.onWave, hw]
      simp only [State.wave, State.setWave, tget_tset_same]
    all_goals simp

/-- The first claim that waits on a pipe, once the pool has its registers and nothing holds its path (R275). -/
theorem execClaimGrant_takes {core pipe : Nat} {q : Claim} {qs : List Claim} {p : Path} (hq : (s.core core).waitingClaims pipe = q :: qs)
    (hp : s.path q.pid = some p) (hroom : q.count ≤ s.poolFree core pipe) (hrun : s.run.running = true) (hhalt : s.run.halted = false)
    (hstop : s.clusterStopped (clusterOf core) = false) (hhold : p.hold = false) :
    let u := s.setCore core { s.core core with claims := (s.core core).claims.filter fun x => x.2.pid != q.pid }
    let c : Ctx := ⟨q.pid, p, q.pid / 4, bundleMod p.hints, bundlePfx p.hints, (bundleSch p.hints).1, p.bundleStart, 0⟩
    execClaimGrant core pipe s =
      if 128 < s.regCountOf (q.pid / 4) + q.count then .next ((u.takeFree.takeTrap q.pid 0x02 p.bundleStart s.openAux none).unstep q.pid)
      else .next ((u.addRegs (q.pid / 4) q.count).retire c c.nextPc none) := by
  simp only [execClaimGrant, hq, hp, hrun, hhalt, hstop, hhold, Nat.not_lt.mpr hroom, Bool.not_true, Bool.false_eq_true, or_self, if_false]

/-- Settles O20: each wait and claim in the case of its rule. -/
theorem waitsAndClaims : Obligations.WaitsAndClaims := by
  unfold Obligations.WaitsAndClaims
  intro s c wid
  refine ⟨fun l st cp tl h => ⟨fun ⟨hld, hst, hcp, htl⟩ => execWaitC_done h hld hst hcp htl, execWaitC_waits h⟩, fun n h => ?_,
    fun h => issue_done h rfl, fun h => issue_done h rfl, fun nb g k h => ⟨fun hk => ?_, fun hk hc => ?_, fun hk hc hn hq => ?_, fun hk hc hn => ?_⟩,
    fun n w hw => ⟨addRegs_wave n hw, fun r l hr hn hl => addRegs_vregs hw hr hn hl⟩,
    fun k h => ⟨fun hk => issue_trapOpen h (if_pos hk), execGiveback_done h⟩,
    fun core pipe q qs p hq hp hroom hrun hhalt hstop hhold => ⟨fun hk => ?_, fun hk => ?_⟩⟩
  · refine issue_done h ?_
    cases c.pfx with
    | nil => simp [entered_sleep]
    | cons x xs => rfl
  · exact issue_trapOpen h (if_pos hk)
  · exact issue_done h ((if_neg (Nat.not_lt.mpr hk)).trans (if_pos hc))
  · exact issue_wait h (by
      simp only [entered_claim, wid, Nat.not_lt.mpr hk, hc, hn, hq, Bool.false_eq_true, if_false] at *)
  · exact issue_done h (by
      simp only [entered_claim, wid, Nat.not_lt.mpr hk, hc, hn, Bool.false_eq_true, if_false, if_true] at *)
  · exact ⟨_, rfl, rfl, (execClaimGrant_takes hq hp hroom hrun hhalt hstop hhold).trans (if_neg (Nat.not_lt.mpr hk))⟩
  · exact (execClaimGrant_takes hq hp hroom hrun hhalt hstop hhold).trans (if_pos hk)

end Sys2Proof.Machine
end

section
/-! PROOF. Branches, jumps, calls and returns (O14). -/
namespace Sys2Proof.Machine

variable {i : Instr} {s t : State} {c : Ctx}

/-- The target of a branch whose bundle may hold one pfx word (R20, R72). -/
theorem ready_target {n : Nat} (h : ready i s c = true) (hl : i.pfxLimit ≤ 2) (o : BitVec n) :
    c.target (c.offset n o.toNat) = wordsFrom c.p.pc (widenedImm c.pfx o) := by
  rw [Ctx.target, Ctx.offset, wrapInt_words, ready_widened h hl]

/-- A jump through a register completes at an instruction's address and traps at any other (R73). -/
theorem conclude_jumpTo (i : Instr) (c : Ctx) (s t : State) (x : DWord) (kind : Nat) :
    conclude i c (jumpTo t x kind) s =
      if x.toNat % 4 = 0 then t.retire c (x.toNat % 2 ^ 49) (some kind) else (s.takeTrap c.pid 0x03 c.first x none).unstep c.pid := by
  by_cases hx : x.toNat % 4 = 0
  · rw [if_pos hx, jumpTo, if_neg (not_not_intro hx)]
    rfl
  · rw [if_neg hx, jumpTo, if_pos hx]
    rfl

theorem exec_br_ready {g : BitVec 3} {o : BitVec 22} (h : ready (.br g o) s c = true) :
    exec (.br g o) s = .next (if c.p.flags.getLsbD g.toNat then s.retire c (wordsFrom c.p.pc (widenedImm c.pfx o)) (some 0)
      else s.retire c c.nextPc none) := by
  rw [exec_br, execBr, issue_of_ready _ h, entered_br]
  simp only [flagAt, ready_target h (by decide : (1 : Nat) ≤ 2)]
  split <;> rfl

theorem exec_brn_ready {g : BitVec 3} {o : BitVec 22} (h : ready (.brn g o) s c = true) :
    exec (.brn g o) s = .next (if c.p.flags.getLsbD g.toNat then s.retire c c.nextPc none
      else s.retire c (wordsFrom c.p.pc (widenedImm c.pfx o)) (some 0)) := by
  rw [exec_brn, execBrn, issue_of_ready _ h, entered_brn]
  simp only [flagAt, ready_target h (by decide : (1 : Nat) ≤ 2)]
  split <;> rfl

/-- Settles O14: the branches by their flag, the jumps by their offset, and the forms through a register by `conclude_jumpTo`. -/
theorem branchesJumpsCallsAndReturns : Obligations.BranchesJumpsCallsAndReturns := by
  unfold Obligations.BranchesJumpsCallsAndReturns
  refine ⟨fun s c g o => ⟨exec_br_ready, exec_brn_ready⟩, fun s c o a => ⟨fun h => ?_, fun h => ?_, fun h => ?_, fun h => ?_, fun h => ?_⟩⟩
  · rw [exec_jmp, execJmp, issue_jump h rfl, entered_jmp, ready_target h (by decide : (1 : Nat) ≤ 2)]
  · rw [exec_call, execCall, issue_jump h rfl, entered_call, ready_target h (by decide : (1 : Nat) ≤ 2)]
    rfl
  · rw [exec_jmpReg, execJmpReg, issue_of_ready _ h, entered_jmpReg, conclude_jumpTo]
  · rw [exec_callReg, execCallReg, issue_of_ready _ h, entered_callReg, conclude_jumpTo]
    rfl
  · rw [exec_ret, execRet, issue_of_ready _ h, entered_ret, conclude_jumpTo]

end Sys2Proof.Machine
end

section
/-! PROOF. The operations on `w`-bit numbers are those on bit vectors (R65, R66). -/
namespace Sys2Proof.Machine

variable {w : Nat} (x y : BitVec w)

/-- A number that is a bit vector's, as the bit vector. -/
theorem ofNat_toNat_self : BitVec.ofNat w x.toNat = x := by rw [BitVec.ofNat_toNat, BitVec.setWidth_eq]

theorem toNat_eq_zero_iff : y.toNat = 0 ↔ y = 0 := by simp [BitVec.toNat_eq]

/-! Operations that know no sign. -/

theorem ofNat_aluAdd : BitVec.ofNat w (aluAdd w x.toNat y.toNat) = x + y := by
  apply BitVec.eq_of_toNat_eq
  simp [aluAdd]

theorem ofNat_aluSub : BitVec.ofNat w (aluSub w x.toNat y.toNat) = x - y := by
  rw [aluSub, ofNat_wrapInt, Int.sub_eq_add_neg, BitVec.ofInt_add, BitVec.ofInt_neg, BitVec.ofInt_natCast, BitVec.ofInt_natCast,
    ofNat_toNat_self, ofNat_toNat_self, BitVec.sub_eq_add_neg]

theorem ofNat_aluMul : BitVec.ofNat w (aluMul w x.toNat y.toNat) = x * y := by
  apply BitVec.eq_of_toNat_eq
  simp [aluMul]

/-- The upper half of a `2 * w`-bit number is its quotient by `2 ^ w`. -/
theorem extractLsb'_upper (v : BitVec (2 * w)) : v.extractLsb' w w = BitVec.ofNat w (v.toNat / 2 ^ w) := by
  apply BitVec.eq_of_toNat_eq
  rw [BitVec.extractLsb'_toNat, BitVec.toNat_ofNat, Nat.shiftRight_eq_div_pow]

theorem ofNat_aluMulhN :
    BitVec.ofNat w (aluMulhN w x.toNat y.toNat) = (x.zeroExtend (2 * w) * y.zeroExtend (2 * w)).extractLsb' w w := by
  have hprod : x.toNat * y.toNat < 2 ^ (2 * w) := by
    rw [Nat.two_mul, Nat.pow_add]
    exact Nat.mul_lt_mul'' x.isLt y.isLt
  have hle : 2 ^ w ≤ 2 ^ (2 * w) := Nat.pow_le_pow_right (by decide) (by omega)
  have hx : x.toNat % 2 ^ (2 * w) = x.toNat := Nat.mod_eq_of_lt (x.isLt.trans_le hle)
  have hy : y.toNat % 2 ^ (2 * w) = y.toNat := Nat.mod_eq_of_lt (y.isLt.trans_le hle)
  simp only [aluMulhN, extractLsb'_upper, BitVec.zeroExtend_eq_setWidth, BitVec.toNat_mul, BitVec.toNat_setWidth, hx, hy, Nat.mod_eq_of_lt hprod]

theorem ofNat_allOnes : BitVec.ofNat w (2 ^ w - 1) = BitVec.allOnes w := by
  rw [← BitVec.toNat_allOnes, ofNat_toNat_self]

theorem ofNat_aluDivN : BitVec.ofNat w (aluDivN w x.toNat y.toNat) = if y = 0 then BitVec.allOnes w else x.udiv y := by
  rw [aluDivN]
  split
  · next h => rw [if_pos ((toNat_eq_zero_iff y).mp h), ofNat_allOnes]
  · next h =>
    rw [if_neg (h ∘ (toNat_eq_zero_iff y).mpr)]
    apply BitVec.eq_of_toNat_eq
    simp [Nat.mod_eq_of_lt ((Nat.div_le_self _ _).trans_lt x.isLt)]

theorem ofNat_aluRemN : BitVec.ofNat w (aluRemN w x.toNat y.toNat) = if y = 0 then x else x.umod y := by
  rw [aluRemN]
  split
  · next h => rw [if_pos ((toNat_eq_zero_iff y).mp h), ofNat_toNat_self]
  · next h =>
    rw [if_neg (h ∘ (toNat_eq_zero_iff y).mpr)]
    apply BitVec.eq_of_toNat_eq
    simp [Nat.mod_eq_of_lt ((Nat.mod_le _ _).trans_lt x.isLt)]

theorem ofNat_aluAnd : BitVec.ofNat w (aluAnd w x.toNat y.toNat) = x &&& y := by
  rw [aluAnd, ← BitVec.toNat_and, ofNat_toNat_self]

theorem ofNat_aluOr : BitVec.ofNat w (aluOr w x.toNat y.toNat) = x ||| y := by
  rw [aluOr, ← BitVec.toNat_or, ofNat_toNat_self]

theorem ofNat_aluXor : BitVec.ofNat w (aluXor w x.toNat y.toNat) = x ^^^ y := by
  rw [aluXor, ← BitVec.toNat_xor, ofNat_toNat_self]

theorem ofNat_aluAndn : BitVec.ofNat w (aluAndn w x.toNat y.toNat) = x &&& ~~~y := by
  rw [aluAndn, ← BitVec.toNat_not, ← BitVec.toNat_and, ofNat_toNat_self]

theorem ofNat_aluShl : BitVec.ofNat w (aluShl w x.toNat y.toNat) = x <<< (y.toNat % w) := by
  apply BitVec.eq_of_toNat_eq
  simp [aluShl, Nat.shiftLeft_eq]

theorem ofNat_aluShr : BitVec.ofNat w (aluShr w x.toNat y.toNat) = x >>> (y.toNat % w) := by
  rw [aluShr, ← Nat.shiftRight_eq_div_pow, ← BitVec.toNat_ushiftRight, ofNat_toNat_self]

theorem ofNat_aluMinN : BitVec.ofNat w (aluMinN w x.toNat y.toNat) = if x.ult y then x else y := by
  by_cases h : x.toNat < y.toNat
  · rw [if_pos (BitVec.ult_iff_lt.mpr h), aluMinN, Nat.min_eq_left (Nat.le_of_lt h), ofNat_toNat_self]
  · rw [if_neg (fun hu => h (BitVec.ult_iff_lt.mp hu)), aluMinN, Nat.min_eq_right (Nat.le_of_not_lt h), ofNat_toNat_self]

theorem ofNat_aluMaxN : BitVec.ofNat w (aluMaxN w x.toNat y.toNat) = if x.ult y then y else x := by
  by_cases h : x.toNat < y.toNat
  · rw [if_pos (BitVec.ult_iff_lt.mpr h), aluMaxN, Nat.max_eq_right (Nat.le_of_lt h), ofNat_toNat_self]
  · rw [if_neg (fun hu => h (BitVec.ult_iff_lt.mp hu)), aluMaxN, Nat.max_eq_left (Nat.le_of_not_lt h), ofNat_toNat_self]

/-! Operations on signed numbers. -/

/-- The upper half of a product of integers, taken modulo `2 ^ (2 * w)` first. -/
theorem ofNat_toNat_ediv (w : Nat) (p : Int) : BitVec.ofNat w ((BitVec.ofInt (2 * w) p).toNat / 2 ^ w) = BitVec.ofInt w (p / (2 ^ w : Nat)) := by
  have hpos : (2 ^ w : Nat) ≠ (0 : Int) := by positivity
  have hsq : ((2 ^ (2 * w) : Nat) : Int) = (2 ^ w : Nat) * (2 ^ w : Nat) := by rw [← Int.natCast_mul, ← Nat.pow_add, Nat.two_mul]
  have hmod : ((BitVec.ofInt (2 * w) p).toNat : Int) = p - (2 ^ w : Nat) * ((2 ^ w : Nat) * (p / (2 ^ (2 * w) : Nat))) := by
    rw [BitVec.toNat_ofInt, Int.toNat_of_nonneg (Int.emod_nonneg _ (by positivity)), Int.emod_def, ← Int.mul_assoc, ← hsq]
  rw [← BitVec.ofInt_natCast, Int.natCast_ediv, hmod, Int.sub_mul_ediv_left _ _ hpos]
  apply BitVec.eq_of_toNat_eq
  rw [BitVec.toNat_ofInt, BitVec.toNat_ofInt, Int.sub_mul_emod_self_left]

section Signed
variable (hw : 0 < w)
include hw

theorem ofNat_aluMulhI :
    BitVec.ofNat w (aluMulhI w x.toNat y.toNat) = (x.signExtend (2 * w) * y.signExtend (2 * w)).extractLsb' w w := by
  rw [aluMulhI, ofNat_wrapInt, signedOf_toNat hw, signedOf_toNat hw, extractLsb'_upper, BitVec.signExtend, BitVec.signExtend,
    ← BitVec.ofInt_mul, ofNat_toNat_ediv]

theorem ofNat_aluDivI : BitVec.ofNat w (aluDivI w x.toNat y.toNat) = if y = 0 then BitVec.allOnes w else x.sdiv y := by
  rw [aluDivI]
  split
  · next h => rw [if_pos ((toNat_eq_zero_iff y).mp h), ofNat_allOnes]
  · next h =>
    rw [if_neg (h ∘ (toNat_eq_zero_iff y).mpr), ofNat_wrapInt, signedOf_toNat hw, signedOf_toNat hw]
    apply BitVec.eq_of_toInt_eq
    rw [BitVec.toInt_ofInt, BitVec.toInt_sdiv]

theorem ofNat_aluRemI : BitVec.ofNat w (aluRemI w x.toNat y.toNat) = if y = 0 then x else x.srem y := by
  rw [aluRemI]
  split
  · next h => rw [if_pos ((toNat_eq_zero_iff y).mp h), ofNat_toNat_self]
  · next h =>
    rw [if_neg (h ∘ (toNat_eq_zero_iff y).mpr), ofNat_wrapInt, signedOf_toNat hw, signedOf_toNat hw, ← BitVec.toInt_srem, BitVec.ofInt_toInt]

theorem ofNat_aluSra : BitVec.ofNat w (aluSra w x.toNat y.toNat) = x.sshiftRight (y.toNat % w) := by
  rw [aluSra, ofNat_wrapInt, signedOf_toNat hw, BitVec.sshiftRight, Int.shiftRight_eq_div_pow]

theorem ofNat_aluMinI : BitVec.ofNat w (aluMinI w x.toNat y.toNat) = if x.slt y then x else y := by
  rw [aluMinI, signedOf_toNat hw, signedOf_toNat hw]
  rcases Int.lt_trichotomy x.toInt y.toInt with h | h | h
  · rw [if_pos (Int.le_of_lt h), if_pos (BitVec.slt_iff_toInt_lt.mpr h), ofNat_toNat_self]
  · rw [BitVec.eq_of_toInt_eq h, ite_self, ite_self, ofNat_toNat_self]
  · rw [if_neg (Int.not_le.mpr h), if_neg (fun hs => Int.lt_asymm h (BitVec.slt_iff_toInt_lt.mp hs)), ofNat_toNat_self]

theorem ofNat_aluMaxI : BitVec.ofNat w (aluMaxI w x.toNat y.toNat) = if x.slt y then y else x := by
  rw [aluMaxI, signedOf_toNat hw, signedOf_toNat hw]
  rcases Int.lt_trichotomy x.toInt y.toInt with h | h | h
  · rw [if_pos (Int.le_of_lt h), if_pos (BitVec.slt_iff_toInt_lt.mpr h), ofNat_toNat_self]
  · rw [BitVec.eq_of_toInt_eq h, ite_self, ite_self, ofNat_toNat_self]
  · rw [if_neg (Int.not_le.mpr h), if_neg (fun hs => Int.lt_asymm h (BitVec.slt_iff_toInt_lt.mp hs)), ofNat_toNat_self]

end Signed

end Sys2Proof.Machine
end

section
/-! PROOF. Scalar integer instructions in register and immediate form (O7). -/
namespace Sys2Proof.Machine

variable {i : Instr} {s : State} {c : Ctx} {d a b : BitVec 7} {k : BitVec 12}

/-! Register forms (R65, R66). -/

/-- `i` computes `f` on the registers `a` and `b` into `d`: its operation on numbers agrees with `f` on bit vectors of `w` bits. -/
def Computes2 (w : Nat) (i : Instr) (d a b : BitVec 7) (f : BitVec w → BitVec w → BitVec w) : Prop :=
  ∃ g, (∀ s, exec i s = sop i g d a b s) ∧ (∀ (s : State) (c : Ctx), s.entered i c = s)
    ∧ ∀ x y : BitVec w, BitVec.ofNat w (g w x.toNat y.toNat) = f x y

theorem computes2_of_scalarTwo {w : Nat} (hw : 0 < w) {f : BitVec w → BitVec w → BitVec w} (h : scalarTwo w i = some (d, a, b, f)) :
    Computes2 w i d a b f := by
  unfold scalarTwo at h
  split at h
  case h_1 => cases h; exact ⟨aluAdd, fun _ => rfl, fun _ _ => rfl, ofNat_aluAdd⟩
  case h_2 => cases h; exact ⟨aluSub, fun _ => rfl, fun _ _ => rfl, ofNat_aluSub⟩
  case h_3 => cases h; exact ⟨aluMul, fun _ => rfl, fun _ _ => rfl, ofNat_aluMul⟩
  case h_4 => cases h; exact ⟨aluMulhI, fun _ => rfl, fun _ _ => rfl, fun x y => ofNat_aluMulhI x y hw⟩
  case h_5 => cases h; exact ⟨aluMulhN, fun _ => rfl, fun _ _ => rfl, ofNat_aluMulhN⟩
  case h_6 => cases h; exact ⟨aluDivI, fun _ => rfl, fun _ _ => rfl, fun x y => ofNat_aluDivI x y hw⟩
  case h_7 => cases h; exact ⟨aluDivN, fun _ => rfl, fun _ _ => rfl, ofNat_aluDivN⟩
  case h_8 => cases h; exact ⟨aluRemI, fun _ => rfl, fun _ _ => rfl, fun x y => ofNat_aluRemI x y hw⟩
  case h_9 => cases h; exact ⟨aluRemN, fun _ => rfl, fun _ _ => rfl, ofNat_aluRemN⟩
  case h_10 => cases h; exact ⟨aluAnd, fun _ => rfl, fun _ _ => rfl, ofNat_aluAnd⟩
  case h_11 => cases h; exact ⟨aluOr, fun _ => rfl, fun _ _ => rfl, ofNat_aluOr⟩
  case h_12 => cases h; exact ⟨aluXor, fun _ => rfl, fun _ _ => rfl, ofNat_aluXor⟩
  case h_13 => cases h; exact ⟨aluAndn, fun _ => rfl, fun _ _ => rfl, ofNat_aluAndn⟩
  case h_14 => cases h; exact ⟨aluShl, fun _ => rfl, fun _ _ => rfl, ofNat_aluShl⟩
  case h_15 => cases h; exact ⟨aluShr, fun _ => rfl, fun _ _ => rfl, ofNat_aluShr⟩
  case h_16 => cases h; exact ⟨aluSra, fun _ => rfl, fun _ _ => rfl, fun x y => ofNat_aluSra x y hw⟩
  case h_17 => cases h; exact ⟨aluMinI, fun _ => rfl, fun _ _ => rfl, fun x y => ofNat_aluMinI x y hw⟩
  case h_18 => cases h; exact ⟨aluMinN, fun _ => rfl, fun _ _ => rfl, ofNat_aluMinN⟩
  case h_19 => cases h; exact ⟨aluMaxI, fun _ => rfl, fun _ _ => rfl, fun x y => ofNat_aluMaxI x y hw⟩
  case h_20 => cases h; exact ⟨aluMaxN, fun _ => rfl, fun _ _ => rfl, ofNat_aluMaxN⟩
  case h_21 => cases h; exact ⟨fun _ x _ => x, fun _ => rfl, fun _ _ => rfl, fun x _ => ofNat_toNat_self x⟩
  case h_22 => exact nomatch h

theorem exec_computes2_32 {f : Word → Word → Word} (h : ready i s c = true) (hi : Computes2 32 i d a b f) (hw : c.mods.w = false) :
    exec i s = .next ((s.writeS c.pid d.toNat (f (s.readS c.pid c.p a.toNat) (s.readS c.pid c.p b.toNat))).retire c c.nextPc none) := by
  obtain ⟨g, hexec, hent, hg⟩ := hi
  rw [hexec, sop, issue_done h rfl, hent, hw]
  simp only [State.writeScalar, Ctx.scalar, opBits, Bool.false_eq_true, if_false, hg]

theorem exec_computes2_64 {f : DWord → DWord → DWord} (h : ready i s c = true) (hi : Computes2 64 i d a b f) (hw : c.mods.w = true) :
    exec i s = .next ((s.writeS64 c.pid d.toNat (f (s.readS64 c.pid c.p a.toNat) (s.readS64 c.pid c.p b.toNat))).retire c c.nextPc none) := by
  obtain ⟨g, hexec, hent, hg⟩ := hi
  rw [hexec, sop, issue_done h rfl, hent, hw]
  simp only [State.writeScalar, Ctx.scalar, opBits, if_true, hg]

/-! Immediate forms (R20, R65, R69). -/

/-- `i` computes `f` on the register `d` and its immediate, of `w` bits each. -/
def ComputesImm (w : Nat) (i : Instr) (d : BitVec 7) (q : Bool) (k : BitVec 12) (f : BitVec w → BitVec w → BitVec w) : Prop :=
  ∃ g, (∀ s, exec i s = sopi i g d q k s) ∧ (∀ (s : State) (c : Ctx), s.entered i c = s) ∧ i.pfxLimit ≤ 2
    ∧ ∀ x y : BitVec w, BitVec.ofNat w (g w x.toNat y.toNat) = f x y

theorem computesImm_of_scalarImm {w : Nat} (hw : 0 < w) {q : Bool} {f : BitVec w → BitVec w → BitVec w}
    (h : scalarImm w i = some (d, q, k, f)) : ComputesImm w i d q k f := by
  unfold scalarImm at h
  split at h
  case h_1 => cases h; exact ⟨aluAdd, fun _ => rfl, fun _ _ => rfl, Nat.le_refl 2, ofNat_aluAdd⟩
  case h_2 => cases h; exact ⟨aluMul, fun _ => rfl, fun _ _ => rfl, Nat.le_refl 2, ofNat_aluMul⟩
  case h_3 => cases h; exact ⟨aluAnd, fun _ => rfl, fun _ _ => rfl, Nat.le_refl 2, ofNat_aluAnd⟩
  case h_4 => cases h; exact ⟨aluOr, fun _ => rfl, fun _ _ => rfl, Nat.le_refl 2, ofNat_aluOr⟩
  case h_5 => cases h; exact ⟨aluXor, fun _ => rfl, fun _ _ => rfl, Nat.le_refl 2, ofNat_aluXor⟩
  case h_6 => cases h; exact ⟨aluShl, fun _ => rfl, fun _ _ => rfl, Nat.le_refl 2, ofNat_aluShl⟩
  case h_7 => cases h; exact ⟨aluShr, fun _ => rfl, fun _ _ => rfl, Nat.le_refl 2, ofNat_aluShr⟩
  case h_8 => cases h; exact ⟨aluSra, fun _ => rfl, fun _ _ => rfl, Nat.le_refl 2, fun x y => ofNat_aluSra x y hw⟩
  case h_9 => cases h; exact ⟨aluMinI, fun _ => rfl, fun _ _ => rfl, Nat.le_refl 2, fun x y => ofNat_aluMinI x y hw⟩
  case h_10 => cases h; exact ⟨aluMinN, fun _ => rfl, fun _ _ => rfl, Nat.le_refl 2, ofNat_aluMinN⟩
  case h_11 => cases h; exact ⟨aluMaxI, fun _ => rfl, fun _ _ => rfl, Nat.le_refl 2, fun x y => ofNat_aluMaxI x y hw⟩
  case h_12 => cases h; exact ⟨aluMaxN, fun _ => rfl, fun _ _ => rfl, Nat.le_refl 2, ofNat_aluMaxN⟩
  case h_13 => cases h; exact ⟨aluSecond, fun _ => rfl, fun _ _ => rfl, Nat.le_refl 2, fun _ y => ofNat_toNat_self y⟩
  case h_14 => exact nomatch h

/-- An immediate widened and wrapped to 32 bits, and to 64 bits. -/
theorem ready_imm32 {n : Nat} (h : ready i s c = true) (hl : i.pfxLimit ≤ 2) (k : BitVec n) :
    wrapInt 32 (widened c.pfx n k.toNat) = ((widenedImm c.pfx k).truncate 32).toNat := by
  rw [wrapInt_eq_toNat, ← ready_widened h hl, ofInt_truncate (by decide)]

theorem ready_imm64 {n : Nat} (h : ready i s c = true) (hl : i.pfxLimit ≤ 2) (k : BitVec n) :
    wrapInt 64 (widened c.pfx n k.toNat) = (widenedImm c.pfx k).toNat := by
  rw [wrapInt_eq_toNat, ← ready_widened h hl]

theorem exec_computesImm_32 {f : Word → Word → Word} (h : ready i s c = true) (hi : ComputesImm 32 i d false k f) :
    exec i s =
      .next ((s.writeS c.pid d.toNat (f (s.readS c.pid c.p d.toNat) ((widenedImm c.pfx k).truncate 32))).retire c c.nextPc none) := by
  obtain ⟨g, hexec, hent, hl, hg⟩ := hi
  rw [hexec, sopi, issue_done h rfl, hent]
  simp only [State.writeScalar, Ctx.scalar, opBits, Bool.false_eq_true, if_false, ready_imm32 h hl, hg]

theorem exec_computesImm_64 {f : DWord → DWord → DWord} (h : ready i s c = true) (hi : ComputesImm 64 i d true k f) :
    exec i s = .next ((s.writeS64 c.pid d.toNat (f (s.readS64 c.pid c.p d.toNat) (widenedImm c.pfx k))).retire c c.nextPc none) := by
  obtain ⟨g, hexec, hent, hl, hg⟩ := hi
  rw [hexec, sopi, issue_done h rfl, hent]
  simp only [State.writeScalar, Ctx.scalar, opBits, if_true, ready_imm64 h hl, hg]

/-- smovi writes one register with fewer than two pfx words, and a pair with two (R69). -/
theorem exec_smovi_ready {d : BitVec 6} {k : BitVec 20} (h : ready (.smovi d k) s c = true) :
    exec (.smovi d k) s = .next
      ((if c.pfx.length < 2 then s.writeS c.pid d.toNat ((widenedImm c.pfx k).truncate 32)
        else s.writeS64 c.pid d.toNat (widenedImm c.pfx k)).retire c c.nextPc none) := by
  rw [exec_smovi, execSmovi, issue_done h rfl, entered_smovi]
  by_cases hp : c.pfx.length < 2
  · simp only [if_pos hp, decide_eq_false (Nat.not_le.mpr hp), State.writeScalar, opBits, Bool.false_eq_true, if_false,
      ready_imm32 h (Nat.le_refl 2), ofNat_toNat_self]
  · simp only [if_neg hp, decide_eq_true (Nat.le_of_not_lt hp), State.writeScalar, opBits, if_true, ready_imm64 h (Nat.le_refl 2),
      ofNat_toNat_self]

/-- Settles O7: every form is a `sop` or a `sopi` whose operation on numbers agrees with the one on bit vectors. -/
theorem scalarRegisterAndImmediateForms : Obligations.ScalarRegisterAndImmediateForms := by
  unfold Obligations.ScalarRegisterAndImmediateForms
  refine ⟨fun i s c d a b h => ⟨fun f hf hw => ?_, fun f hf hw => ?_⟩, fun i s c d k h => ⟨fun f hf => ?_, fun f hf => ?_⟩,
    fun s c d k => exec_smovi_ready⟩
  · exact exec_computes2_32 h (computes2_of_scalarTwo (by decide) hf) hw
  · exact exec_computes2_64 h (computes2_of_scalarTwo (by decide) hf) hw
  · exact exec_computesImm_32 h (computesImm_of_scalarImm (by decide) hf)
  · exact exec_computesImm_64 h (computesImm_of_scalarImm (by decide) hf)

end Sys2Proof.Machine
end

section
/-! PROOF. Counts, bit fields and comparisons on numbers are those on bit vectors (R65, R67, R68, R104). -/
namespace Sys2Proof.Machine

variable {w : Nat}

/-! Counts and bit reversal. -/

theorem popc_toNat (x : BitVec w) : popc w x.toNat = ((List.range w).filter x.getLsbD).length := rfl

theorem clz_le (w a : Nat) : clz w a ≤ w := by
  rw [clz]
  split <;> omega

/-- The bits above the leading one are clear, and that one is set. -/
theorem clz_spec (x : BitVec w) :
    (∀ j, j < clz w x.toNat → x.getMsbD j = false) ∧ (clz w x.toNat < w → x.getMsbD (clz w x.toNat) = true) := by
  have hmod : x.toNat % 2 ^ w = x.toNat := Nat.mod_eq_of_lt x.isLt
  rw [clz, hmod]
  by_cases h0 : x.toNat = 0
  · simp [(toNat_eq_zero_iff x).mp h0]
  · have hlt : x.toNat.log2 < w := (Nat.log2_lt h0).mpr x.isLt
    rw [if_neg h0]
    refine ⟨fun j hj => ?_, fun _ => ?_⟩
    · rw [BitVec.getMsbD_eq_getLsbD, BitVec.getLsbD, Nat.testBit_lt_two_pow ((Nat.log2_lt h0).mp (by omega)), Bool.and_false]
    · rw [BitVec.getMsbD_eq_getLsbD, BitVec.getLsbD, show w - 1 - (w - 1 - x.toNat.log2) = x.toNat.log2 by omega, Nat.testBit_log2 h0,
        Bool.and_true]
      exact decide_eq_true (by omega)

/-- The bits below the trailing one are clear, and that one is set. -/
theorem ctz_spec (x : BitVec w) : ctz w x.toNat ≤ w ∧ (∀ j, j < ctz w x.toNat → x.getLsbD j = false)
    ∧ (ctz w x.toNat < w → x.getLsbD (ctz w x.toNat) = true) := by
  rw [ctz]
  cases h : (List.range w).find? fun i => x.toNat.testBit i with
  | none =>
    refine ⟨Nat.le_refl w, fun j hj => ?_, fun hlt => absurd hlt (Nat.lt_irrefl w)⟩
    simpa [BitVec.getLsbD] using List.find?_range_eq_none.mp h j hj
  | some n =>
    obtain ⟨hn, hmem, hbelow⟩ := List.find?_range_eq_some.mp h
    exact ⟨Nat.le_of_lt (List.mem_range.mp hmem), fun j hj => by simpa [BitVec.getLsbD] using hbelow j hj, fun _ => hn⟩

/-- Bit `j` of a number reversed in `n` bits. -/
theorem testBit_brev (n a j : Nat) : (brev n a).testBit j = (decide (j < n) && a.testBit (n - 1 - j)) := by
  induction n generalizing j with
  | zero => simp [brev]
  | succ n ih =>
    have hb : brev (n + 1) a = 2 * brev n a + (a.testBit n).toNat := by
      rw [brev, List.range_succ, List.foldl_append, brev, Nat.toNat_testBit]
      rfl
    rw [hb]
    cases j with
    | zero => cases h : a.testBit n <;> simp [h]
    | succ j =>
      have hdiv : (2 * brev n a + (a.testBit n).toNat) / 2 = brev n a := by cases a.testBit n with
        | false => simp
        | true => rw [Bool.toNat_true]; omega
      rw [Nat.testBit_succ, hdiv, ih, show n + 1 - 1 - (j + 1) = n - 1 - j by omega]
      simp

theorem ofNat_brev (x : BitVec w) : BitVec.ofNat w (brev w x.toNat) = x.reverse := by
  apply BitVec.eq_of_getLsbD_eq
  intro j hj
  rw [BitVec.getLsbD_ofNat, testBit_brev, BitVec.getLsbD_reverse, BitVec.getMsbD_eq_getLsbD]
  simp [hj, BitVec.getLsbD]

/-! Bit fields. -/

/-- A field of a number, at most `w` bits wide. -/
theorem bitField_unsigned (w a pos wid : Nat) : bitField false w a pos wid = fld a pos (min wid w) := by
  rw [bitField]
  split
  · next h => rw [h, fld, Nat.pow_zero, Nat.mod_one]
  · rfl

/-- The ones below bit `n`. -/
theorem getLsbD_lowOnes (n j : Nat) : (~~~(BitVec.allOnes w <<< n)).getLsbD j = (decide (j < w) && decide (j < n)) := by
  simp only [BitVec.getLsbD_not, BitVec.getLsbD_shiftLeft, BitVec.getLsbD_allOnes]
  by_cases hw : j < w
  · by_cases hn : j < n
    · simp [hn]
    · simp [hn, show j - n < w by omega]
  · simp [hw]

/-- The field without sign: bits past the top read as zero. -/
theorem ofNat_bitField_unsigned (x : BitVec w) (pos wid : Nat) : BitVec.ofNat w (bitField false w x.toNat pos wid) = fieldZero x pos wid := by
  apply BitVec.eq_of_getLsbD_eq
  intro j hj
  have hfld : (fld x.toNat pos (min wid w)).testBit j = (decide (j < wid) && x.getLsbD (pos + j)) := by
    rw [fld, Nat.testBit_mod_two_pow, Nat.testBit_div_two_pow, Nat.add_comm j pos, BitVec.getLsbD]
    simp [hj]
  rw [bitField_unsigned, BitVec.getLsbD_ofNat, hfld, fieldZero, BitVec.getLsbD_and, getLsbD_lowOnes,
    BitVec.getLsbD_ushiftRight, Bool.and_comm (x.getLsbD _)]
  simp [hj]

/-- The low bits of an integer's bit vector are those of a narrower one. -/
theorem ofInt_setWidth {m n : Nat} (h : m ≤ n) (v : Int) : (BitVec.ofInt n v).setWidth m = BitVec.ofInt m v := by
  apply BitVec.eq_of_toNat_eq
  have hd : ((2 ^ m : Nat) : Int) ∣ (2 ^ n : Nat) := Int.natCast_dvd_natCast.mpr (pow_dvd_pow 2 h)
  have h0 : 0 ≤ v % (2 ^ n : Nat) := Int.emod_nonneg _ (by positivity)
  rw [BitVec.toNat_setWidth, BitVec.toNat_ofInt, BitVec.toNat_ofInt, ← Int.emod_emod_of_dvd v hd, Int.toNat_emod h0 (by positivity),
    Int.toNat_natCast]

theorem ofInt_toInt_setWidth {n : Nat} (hn : n ≤ w) (x : BitVec w) : BitVec.ofInt n x.toInt = x.setWidth n := by
  rw [← ofInt_setWidth hn, BitVec.ofInt_toInt]

/-- The field with its sign: the shifted operand's low bits, their top bit copied. -/
theorem bitField_signed (hw : 0 < w) (h256 : w ≤ 256) (x : BitVec w) (pos wid : Nat) (hwid : wid ≠ 0) :
    BitVec.ofNat w (bitField true w x.toNat pos wid) = ((x.sshiftRight pos).setWidth (min wid w)).signExtend w := by
  have hm : min wid w ≠ 0 := by omega
  have hle : min wid w ≤ w := Nat.min_le_right _ _
  have hdiv : x.toInt / (2 ^ pos : Nat) = (x.sshiftRight pos).toInt := by rw [BitVec.toInt_sshiftRight, Int.shiftRight_eq_div_pow]
  have hlow : wrapInt 256 (x.sshiftRight pos).toInt % 2 ^ min wid w = ((x.sshiftRight pos).setWidth (min wid w)).toNat := by
    rw [wrapInt_eq_toNat, ← ofInt_toInt_setWidth hle, ← BitVec.toNat_setWidth, ofInt_setWidth (hle.trans h256)]
  rw [bitField, if_neg hm, if_pos rfl, ofNat_wrapInt, signedOf_toNat hw, hdiv, signedOf_eq_toInt _ _ hlow, BitVec.signExtend]

theorem ofNat_bitField_signed (hw : 0 < w) (h256 : w ≤ 256) (x : BitVec w) (pos wid : Nat) :
    BitVec.ofNat w (bitField true w x.toNat pos wid) = fieldSign x pos wid := by
  rw [fieldSign]
  by_cases hwid : wid = 0
  · rw [if_pos hwid, bitField, hwid]
    simp
  rw [if_neg hwid, bitField_signed hw h256 x pos wid hwid]
  by_cases hle : w ≤ wid
  · rw [if_pos hle, Nat.min_eq_right hle, BitVec.setWidth_eq, BitVec.signExtend_eq]
  · rw [if_neg hle, Nat.min_eq_left (by omega)]
    apply BitVec.eq_of_getLsbD_eq
    intro j hj
    simp only [BitVec.getLsbD_signExtend, BitVec.getLsbD_setWidth, BitVec.msb_eq_getLsbD_last, BitVec.getLsbD_sshiftRight, BitVec.getLsbD_shiftLeft]
    by_cases h : j < wid
    · simp [h, show w - wid + j < w by omega, show j < w by omega, show ¬ w ≤ j by omega]
    · simp [h, show ¬ w - wid + j < w by omega, show j < w by omega, show ¬ w ≤ j by omega, show w - 1 - (w - wid) = wid - 1 by omega,
        show 0 < wid by omega, show ¬ w ≤ wid - 1 by omega, show ¬ w - 1 < w - wid by omega, hw]

/-- The ones of a field that starts at bit `pos`; those past the top are dropped. -/
theorem fieldOnes_toNat (w pos wid : Nat) : (~~~(BitVec.allOnes w <<< wid) <<< pos).toNat = (2 ^ wid - 1) * 2 ^ pos % 2 ^ w := by
  apply Nat.eq_of_testBit_eq
  intro j
  rw [Nat.testBit_mod_two_pow, Nat.testBit_mul_two_pow, Nat.testBit_two_pow_sub_one]
  change (~~~(BitVec.allOnes w <<< wid) <<< pos).getLsbD j = _
  rw [BitVec.getLsbD_shiftLeft, getLsbD_lowOnes]
  by_cases hj : j < w
  · by_cases hp : pos ≤ j
    · simp [hj, hp, show ¬ j < pos by omega, show j - pos < w by omega]
    · simp [hj, hp, show j < pos by omega]
  · simp [hj]

/-- The low bits of a value at a field's place. -/
theorem fieldNew_toNat (new : BitVec w) (pos wid : Nat) :
    (new <<< pos &&& ~~~(BitVec.allOnes w <<< wid) <<< pos).toNat = new.toNat % 2 ^ wid * 2 ^ pos % 2 ^ w := by
  apply Nat.eq_of_testBit_eq
  intro j
  rw [Nat.testBit_mod_two_pow, Nat.testBit_mul_two_pow, Nat.testBit_mod_two_pow]
  change (new <<< pos &&& ~~~(BitVec.allOnes w <<< wid) <<< pos).getLsbD j = (decide (j < w) && (decide (pos ≤ j) && (_ && new.getLsbD (j - pos))))
  rw [BitVec.getLsbD_and, BitVec.getLsbD_shiftLeft, BitVec.getLsbD_shiftLeft, getLsbD_lowOnes]
  by_cases hj : j < w
  · by_cases hp : pos ≤ j
    · simp [hj, hp, show ¬ j < pos by omega, show j - pos < w by omega, Bool.and_comm]
    · simp [hj, hp, show j < pos by omega]
  · simp [hj]

theorem ofNat_insertField (old new : BitVec w) (pos wid : Nat) :
    BitVec.ofNat w (insertField w old.toNat new.toNat pos wid) = fieldInsert old new pos wid := by
  simp only [insertField, fieldInsert]
  rw [← fieldOnes_toNat, ← BitVec.toNat_not, ← BitVec.toNat_and, ← fieldNew_toNat, ← BitVec.toNat_or, ofNat_toNat_self]

/-! Comparisons. -/

theorem scalarCond_toNat (hw : 0 < w) (k : CmpCond) (x y : BitVec w) : scalarCond k w x.toNat y.toNat = condHolds k x y := by
  have heq : (x.toNat == y.toNat) = (x == y) := by rw [Bool.eq_iff_iff]; simp [BitVec.toNat_eq]
  simp only [scalarCond, signedOf_toNat hw]
  cases k with
  | eq => exact heq
  | ne => exact congrArg not heq
  | lt | le | gt | ge | ltN | leN | gtN | geN | ord | unord => rfl

end Sys2Proof.Machine
end

section
/-! PROOF. Scalar bit fields, selection and compare (O8). -/
namespace Sys2Proof.Machine

variable {s : State} {c : Ctx}

theorem exec_sbfe_32 {i : Instr} {signed : Bool} {d : BitVec 7} {k : BitVec 12} {f : Word → Nat → Nat → Word}
    (hf : ∀ (x : Word) pos wid, BitVec.ofNat 32 (bitField signed 32 x.toNat pos wid) = f x pos wid) (h : ready i s c = true) (he : s.entered i c = s) :
    issue i (fun c s => .done (s.writeScalar c.pid false d.toNat (bitField signed (opBits false) (c.scalar s false d.toNat)
        (fld k.toNat 6 6) (fld k.toNat 0 6)))) s
      = .next ((s.writeS c.pid d.toNat (f (s.readS c.pid c.p d.toNat) (fld k.toNat 6 6) (fld k.toNat 0 6))).retire c c.nextPc none) := by
  rw [issue_done h rfl, he]
  simp only [State.writeScalar, Ctx.scalar, opBits, Bool.false_eq_true, if_false, hf]

theorem exec_sbfe_64 {i : Instr} {signed : Bool} {d : BitVec 7} {k : BitVec 12} {f : DWord → Nat → Nat → DWord}
    (hf : ∀ (x : DWord) pos wid, BitVec.ofNat 64 (bitField signed 64 x.toNat pos wid) = f x pos wid) (h : ready i s c = true) (he : s.entered i c = s) :
    issue i (fun c s => .done (s.writeScalar c.pid true d.toNat (bitField signed (opBits true) (c.scalar s true d.toNat)
        (fld k.toNat 6 6) (fld k.toNat 0 6)))) s
      = .next ((s.writeS64 c.pid d.toNat (f (s.readS64 c.pid c.p d.toNat) (fld k.toNat 6 6) (fld k.toNat 0 6))).retire c c.nextPc none) := by
  rw [issue_done h rfl, he]
  simp only [State.writeScalar, Ctx.scalar, opBits, if_true, hf]

theorem exec_scmp_ready {cond : CmpCond} {g : BitVec 3} {a b : BitVec 7} (h : ready (.scmp cond g a b) s c = true) :
    let v := if c.mods.w then condHolds cond (s.readS64 c.pid c.p a.toNat) (s.readS64 c.pid c.p b.toNat)
      else condHolds cond (s.readS c.pid c.p a.toNat) (s.readS c.pid c.p b.toNat)
    exec (.scmp cond g a b) s =
      .next ((s.onPath c.pid fun p => { p with flags := setFlag p.flags g v }).retire c c.nextPc none) := by
  rw [exec_scmp, execScmp, issue_done h rfl, entered_scmp]
  cases hw : c.mods.w with
  | false => simp only [Ctx.scalar, opBits, Bool.false_eq_true, if_false, scalarCond_toNat (w := 32) (by decide)]
  | true => simp only [Ctx.scalar, opBits, if_true, scalarCond_toNat (w := 64) (by decide)]

/-- Settles O8: the counts, fields and comparisons on numbers are those on bit vectors. -/
theorem scalarBitFieldAndCompareForms : Obligations.ScalarBitFieldAndCompareForms := by
  unfold Obligations.ScalarBitFieldAndCompareForms
  intro s c d a b g k cond x y
  refine ⟨fun h => issue_done h rfl, fun h => ?_, fun h => ?_, fun h => ?_, fun h => ?_, ?_, ?_, ?_, ?_, fun h => ?_,
    fun h => issue_done h rfl, exec_scmp_ready⟩
  · obtain ⟨hbelow, htop⟩ := clz_spec x
    exact ⟨clz 32 x.toNat, clz_le 32 _, hbelow, htop, issue_done h rfl⟩
  · obtain ⟨hle, hbelow, htop⟩ := ctz_spec x
    exact ⟨ctz 32 x.toNat, hle, hbelow, htop, issue_done h rfl⟩
  · rw [← ofNat_brev]
    exact issue_done h rfl
  · rw [← ofNat_insertField]
    exact issue_done h rfl
  · exact fun h => exec_sbfe_32 ofNat_bitField_unsigned h rfl
  · exact fun h => exec_sbfe_64 ofNat_bitField_unsigned h rfl
  · exact fun h => exec_sbfe_32 (ofNat_bitField_signed (by decide) (by decide)) h rfl
  · exact fun h => exec_sbfe_64 (ofNat_bitField_signed (by decide) (by decide)) h rfl
  · rw [exec_ssel, execSsel, issue_done h rfl, entered_ssel]
    cases hf : c.p.flags.getLsbD g.toNat <;> simp [flagAt, hf, x, y]

end Sys2Proof.Machine
end

section
/-! PROOF. What is left of a wave that has ended (R95, R302). -/
namespace Sys2Proof.Machine

/-! Entries of a table after a write. -/

theorem mem_tset {α : Type} {m : Sparse α} {n : Nat} {v : α} {e : Nat × α} (h : e ∈ tset m n v) : e = (n, v) ∨ e ∈ m := by
  induction m with
  | nil => simpa [tset] using h
  | cons x m ih =>
    obtain ⟨k, y⟩ := x
    rw [tset] at h
    split at h
    · rcases List.mem_cons.mp h with rfl | h
      · exact .inl rfl
      · exact .inr (List.mem_cons_of_mem _ h)
    · split at h
      · rcases List.mem_cons.mp h with rfl | h
        · exact .inl rfl
        · exact .inr h
      · rcases List.mem_cons.mp h with rfl | h
        · exact .inr (List.mem_cons_self ..)
        · exact (ih h).imp_right (List.mem_cons_of_mem _)

/-- A table in which no entry's number satisfies a test reads as nothing there. -/
theorem tget_none_of_keys {α : Type} {m : Sparse α} {n : Nat} (h : ∀ e ∈ m, e.1 ≠ n) : tget m n = none := by
  cases g : tget m n with
  | none => rfl
  | some v => exact absurd rfl (h _ (mem_of_tget _ _ _ g))

/-! What a wave that has ended leaves. -/

/-- No wave, path, scalar register, token or operation of a wave is left. -/
structure WaveGone (s : State) (wid : Nat) : Prop where
  waves : ∀ e ∈ s.run.waves, e.1 ≠ wid
  paths : ∀ e ∈ s.run.paths, e.1 / 4 ≠ wid
  sregs : ∀ e ∈ s.run.sregs, e.1 / 128 ≠ wid
  tokens : ∀ e ∈ s.run.tokens, e.1 ≠ wid
  ops : ∀ o ∈ s.ops, o.owner ≠ wid

namespace WaveGone

variable {s : State} {wid : Nat}

theorem wave (g : WaveGone s wid) : s.wave wid = none := tget_none_of_keys g.waves
theorem path (g : WaveGone s wid) {pid : Nat} (h : pid / 4 = wid) : s.path pid = none :=
  tget_none_of_keys fun e he hk => g.paths e he (hk ▸ h)
theorem tokensOf (g : WaveGone s wid) : s.tokensOf wid = [] := by
  rw [State.tokensOf, tgetD, tget_none_of_keys g.tokens]
  rfl
theorem sreg (g : WaveGone s wid) {r : Nat} (h : r < 128) : tget s.run.sregs (skey wid r) = none :=
  tget_none_of_keys fun e he hk => g.sregs e he (by rw [hk, skey]; omega)

/-- Only the tables of waves, paths, scalar registers, tokens and operations count. -/
theorem congr {t : State} (g : WaveGone s wid) (hw : t.run.waves = s.run.waves) (hp : t.run.paths = s.run.paths)
    (hr : t.run.sregs = s.run.sregs) (ht : t.run.tokens = s.run.tokens) (ho : t.ops = s.ops) : WaveGone t wid :=
  ⟨hw ▸ g.waves, hp ▸ g.paths, hr ▸ g.sregs, ht ▸ g.tokens, ho ▸ g.ops⟩

theorem onPath (g : WaveGone s wid) (pid : Nat) (f : Path → Path) : WaveGone (s.onPath pid f) wid := by
  unfold State.onPath
  split
  · next p hp =>
    refine ⟨g.waves, fun e he => ?_, g.sregs, g.tokens, g.ops⟩
    rcases mem_tset he with rfl | he
    · exact fun hk => by simp [g.path hk] at hp
    · exact g.paths e he
  · exact g

theorem onWave (g : WaveGone s wid) (i : Nat) (f : Wave → Wave) : WaveGone (s.onWave i f) wid := by
  unfold State.onWave
  split
  · next w hw =>
    refine ⟨fun e he => ?_, g.paths, g.sregs, g.tokens, g.ops⟩
    rcases mem_tset he with rfl | he
    · exact fun hk : i = wid => by simp [hk ▸ g.wave] at hw
    · exact g.waves e he
  · exact g

/-- The tokens of an owner changed one by one. -/
theorem mapTokens (g : WaveGone s wid) (owner : Nat) (f : Token → Token) : WaveGone (s.setTokens owner ((s.tokensOf owner).map f)) wid := by
  refine ⟨g.waves, g.paths, g.sregs, fun e he => ?_, g.ops⟩
  simp only [State.setTokens] at he
  split at he
  · exact g.tokens e (List.mem_of_mem_filter he)
  · next h =>
    rcases mem_tset he with rfl | he
    · exact fun hk : owner = wid => h (by rw [hk, g.tokensOf]; rfl)
    · exact g.tokens e he

theorem returnIteration (g : WaveGone s wid) (r it : Nat) (bit : Word) : WaveGone (s.returnIteration r it bit) wid :=
  (g.onPath _ _).onPath _ _

theorem releaseLane (g : WaveGone s wid) (pid lane : Nat) (bit : Word) : WaveGone (s.releaseLane pid lane bit) wid := by
  unfold State.releaseLane
  split
  · exact g
  · next h _ =>
    have g1 : WaveGone (match tget h.iters lane with | some it => s.returnIteration h.recruiter it bit | none => s) wid := by
      split
      · exact g.returnIteration ..
      · exact g
    refine WaveGone.onWave (WaveGone.mapTokens (WaveGone.onPath (WaveGone.congr g1 ?_ ?_ ?_ ?_ ?_) _ _) _ _) _ _
    all_goals rfl

theorem releaseLanes (g : WaveGone s wid) (pid : Nat) (bit : Word) (ls : List Nat) : WaveGone (s.releaseLanes pid bit ls) wid := by
  induction ls generalizing s with
  | nil => exact g
  | cons l ls ih => exact ih (g.releaseLane pid l bit)

theorem dropHelper (g : WaveGone s wid) (pid : Nat) : WaveGone (s.dropHelper pid) wid :=
  ⟨g.waves, fun e he => g.paths e (List.mem_of_mem_filter he), fun e he => g.sregs e (List.mem_of_mem_filter he),
    fun e he => g.tokens e (List.mem_of_mem_filter he), fun o ho => g.ops o (List.mem_of_mem_filter ho)⟩

theorem recallHelper (g : WaveGone s wid) (pid : Nat) : WaveGone (s.recallHelper pid) wid := by
  unfold State.recallHelper
  split
  · exact (g.releaseLanes ..).dropHelper _
  · exact g

theorem recallAll (g : WaveGone s wid) (ps : List Nat) : WaveGone (s.recallAll ps) wid := by
  induction ps generalizing s with
  | nil => exact g
  | cons p ps ih => exact ih (g.recallHelper p)

theorem completePhase (g : WaveGone s wid) (bid n : Nat) : WaveGone (s.completePhase bid n) wid := by
  unfold State.completePhase
  split
  · exact g
  · next b _ =>
    refine WaveGone.recallAll ?_ _
    refine ⟨fun e he => ?_, g.paths, g.sregs, g.tokens, g.ops⟩
    obtain ⟨x, hx, rfl⟩ := List.mem_map.mp he
    split <;> exact g.waves x hx

theorem checkPhases (g : WaveGone s wid) (bid : Nat) : WaveGone (s.checkPhases bid) wid := by
  unfold State.checkPhases
  generalize List.range 16 = ns
  induction ns generalizing s with
  | nil => exact g
  | cons n ns ih =>
    refine ih ?_
    dsimp only
    split
    · split
      · exact g.completePhase ..
      · exact g
    · exact g

end WaveGone

theorem keys_tdrop {α : Type} {m : Sparse α} {lo hi : Nat} {e : Nat × α} (h : e ∈ tdrop m lo hi) : e.1 < lo ∨ hi ≤ e.1 := by
  simpa [tdrop] using (List.mem_filter.mp h).2

theorem keys_tdel {α : Type} {m : Sparse α} {n : Nat} {e : Nat × α} (h : e ∈ tdel m n) : e.1 ≠ n := by
  simpa [tdel] using (List.mem_filter.mp h).2

/-- What is left of a wave's operations belongs to its block (R95). -/
theorem orphan_owner {wid bid : Nat} {o o' : Op} (hwid : wid < 4096) (h : orphan wid bid o = some o') : o'.owner ≠ wid := by
  unfold orphan at h
  split at h
  · next hne => exact Option.some.inj h ▸ by simpa using hne
  · split at h
    case h_7 =>
      split at h
      · exact absurd h (by simp)
      · rw [← Option.some.inj h]
        simp only [orphanOwner]
        omega
    all_goals exact absurd h (by simp)

/-- Nothing of a wave is left once it has ended. -/
theorem endWave_gone {s : State} {wid : Nat} {w : Wave} (hw : s.wave wid = some w) (hwid : wid < 4096) : WaveGone (s.endWave wid) wid := by
  simp only [State.endWave, hw]
  refine WaveGone.checkPhases ?_ _
  refine ⟨fun e he => keys_tdel he, fun e he => ?_, fun e he => ?_, fun e he => keys_tdel he, fun o ho => ?_⟩
  · have := keys_tdrop he
    omega
  · have := keys_tdrop he
    omega
  · obtain ⟨o', -, ho'⟩ := List.mem_filterMap.mp ho
    exact orphan_owner hwid ho'

end Sys2Proof.Machine
end

section
/-! PROOF. The trap instruction (O11): the bundle issues, and the path takes the trap with sr.epc at the next instruction. -/
namespace Sys2Proof.Machine

variable {s : State} {c : Ctx}

/-! A bundle counted leaves paths, helpers and the waves' trap vectors as they are. -/

theorem lateSkid_run (s : State) (c : Ctx) : (s.lateSkid c).run = s.run := by
  unfold State.lateSkid
  dsimp only
  split <;> rfl

@[simp] theorem countBundle_path (s : State) (c : Ctx) (j : Nat) : (s.countBundle c).path j = s.path j := by
  unfold State.countBundle
  dsimp only
  split
  · rfl
  · split
    · split
      · rfl
      · rw [State.path, lateSkid_run]; rfl
    · exact State.onWave_path ..

@[simp] theorem issued_path (s : State) (pid j : Nat) : (s.issued pid).path j = s.path j := by
  unfold State.issued
  split
  · rfl
  · exact State.onWave_path ..

/-- A wave keeps its trap vector through a change of its other fields. -/
theorem tvec_onWave {i j : Nat} {f : Wave → Wave} {w : Wave} (hf : ∀ w, (f w).tvec = w.tvec) (hw : s.wave j = some w) :
    ∃ v, (s.onWave i f).wave j = some v ∧ v.tvec = w.tvec := by
  by_cases h : j = i
  · subst h
    exact ⟨f w, by rw [State.onWave_wave_same, hw]; rfl, hf w⟩
  · exact ⟨w, by rw [State.onWave_wave_other _ _ _ _ h, hw], rfl⟩

theorem tvec_countBundle {c : Ctx} {j : Nat} {w : Wave} (hw : s.wave j = some w) :
    ∃ v, (s.countBundle c).wave j = some v ∧ v.tvec = w.tvec := by
  unfold State.countBundle
  dsimp only
  split
  · exact ⟨w, hw, rfl⟩
  · split
    · split
      · exact ⟨w, hw, rfl⟩
      · exact ⟨w, by rw [State.wave, lateSkid_run]; exact hw, rfl⟩
    · exact tvec_onWave (fun _ => rfl) hw

theorem tvec_issued {pid j : Nat} {w : Wave} (hw : s.wave j = some w) : ∃ v, (s.issued pid).wave j = some v ∧ v.tvec = w.tvec := by
  unfold State.issued
  split
  · exact ⟨w, hw, rfl⟩
  · exact tvec_onWave (fun _ => rfl) hw

/-! TRAP (R92). -/

/-- The path as its trap instruction issues. -/
def Ctx.trapIssued (c : Ctx) (s : State) (p : Path) : Path := { p with due := c.stepDue p s.clk, issuedAt := c.now s, lastFirst := c.first }

/-- The state in which a trap instruction takes its trap. -/
def State.trapIssued (s : State) (c : Ctx) : State := ((s.onPath c.pid (c.trapIssued s)).countBundle c).issued c.pid

theorem exec_trap_ready {k : BitVec 8} (h : ready (.trap k) s c = true) :
    exec (.trap k) s = .next (((s.trapIssued c).takeTrap c.pid 0x10 c.nextPc (k.zeroExtend 64) none).unstep c.pid) := by
  rw [exec_trap, execTrap, issue_of_ready _ h, entered_trap]
  rfl

theorem trapIssued_path {p : Path} (hp : s.path c.pid = some p) : (s.trapIssued c).path c.pid = some (c.trapIssued s p) := by
  rw [State.trapIssued, issued_path, countBundle_path, State.onPath_path_same, hp, Option.map_some]

theorem trapIssued_wave {j : Nat} {w : Wave} (hw : s.wave j = some w) : ∃ v, (s.trapIssued c).wave j = some v ∧ v.tvec = w.tvec := by
  obtain ⟨v, hv, hvt⟩ := tvec_countBundle (s := s.onPath c.pid (c.trapIssued s)) (c := c) (by rw [State.onPath_wave, hw])
  obtain ⟨u, hu, hut⟩ := tvec_issued (pid := c.pid) hv
  exact ⟨u, hu, hut.trans hvt⟩

/-- A helper's bundle is counted for no wave. -/
theorem trapIssued_helper (hh : c.helper = true) : s.trapIssued c = s.onPath c.pid (c.trapIssued s) := by
  have hh' : isHelper c.pid = true := hh
  simp [State.trapIssued, State.issued, State.countBundle, hh, hh']

/-- A path that may not trap again, or has no handler, ends its wave (R302). -/
theorem takeTrap_stops {pid cause epc : Nat} {eaux : DWord} {lane : Option Nat} {p : Path} {w : Wave} (hp : s.path pid = some p)
    (hh : isHelper pid = false) (hw : s.wave (pid / 4) = some w) (hv : w.tvec = 0 ∨ (p.sys = true ∧ p.ecause.getLsbD 8 = true)) :
    WaveGone (s.takeTrap pid cause epc eaux lane) (pid / 4) := by
  have hlt : pid < helperBase := by simpa [isHelper] using hh
  rw [helperBase] at hlt
  simp only [State.takeTrap, hp, hh, hw, if_pos hv, State.stopWave, Bool.false_eq_true, if_false]
  exact endWave_gone (by rw [State.interrupt_wave, hw]) (by omega)

/-- Settles O11: the trap of a wave's path, its wave's end without a handler, and a helper path's end. -/
theorem trapInstruction : Obligations.TrapInstruction := by
  unfold Obligations.TrapInstruction
  refine ⟨by decide, fun s c k w h hh hw => ⟨fun hv hl => ?_, fun hv => ?_⟩, fun s c k h q hr hh hhelp hne hq => ?_⟩
  · obtain ⟨hp, _⟩ := ready_path h
    obtain ⟨v, hwv, hvt⟩ := trapIssued_wave (c := c) hw
    obtain ⟨q, hq, ht⟩ := takeTrap_trapped 0x10 c.nextPc (k.zeroExtend 64) none (trapIssued_path hp) hh hwv (hvt ▸ hv) hl (by decide)
    exact ⟨_, q, exec_trap_ready h, by rw [State.path, unstep_run]; exact hq, hvt ▸ ht⟩
  · obtain ⟨hp, _⟩ := ready_path h
    obtain ⟨v, hwv, hvt⟩ := trapIssued_wave (c := c) hw
    exact ⟨_, exec_trap_ready h, by rw [State.wave, unstep_run]; exact (takeTrap_stops (trapIssued_path hp) hh hwv (hvt ▸ hv)).wave⟩
  · obtain ⟨hp, _⟩ := ready_path hr
    have hpath := trapIssued_path (c := c) hp
    have he := exec_trap_ready hr
    rw [takeTrap_helper _ _ _ hpath hh] at he
    rw [trapIssued_helper hh] at hpath he
    obtain ⟨hnone, hgone, r, hrp, hdue⟩ := helperFault_ends (s := s.onPath c.pid (c.trapIssued s)) 0x10
      ((s.onPath c.pid (c.trapIssued s)).faultLane c.pid (c.trapIssued s c.p)) (by rw [State.onPath_helper]; exact hhelp) hne
      (by rw [State.onPath_path_other _ _ _ _ hne]; exact hq) (by decide)
    refine ⟨_, r, _, he, ?_, ?_, ?_, hdue, rfl, faultAux_cause h _ _⟩
    · rw [State.helper, unstep_run]; exact hnone
    · rw [State.path, unstep_run]; exact hgone
    · rw [State.path, unstep_run]; exact hrp

end Sys2Proof.Machine
end

section
/-! PROOF. Block barriers (O19). -/
namespace Sys2Proof.Machine

variable {s : State} {c : Ctx}

/-! Arrivals and waits (R86, R87, R96, R328). -/

/-- A path goes on where its phase is complete, and waits otherwise. -/
theorem conclude_awaitPhase (i : Instr) (n : Nat) (t u : State) (hi : i.limited = true) :
    conclude i c (awaitPhase c n t) u =
      if t.phaseSeen (c.pid / 4) n then t.retire c c.nextPc none else t.waitAt c.pid true (.barrier n) := by
  rw [awaitPhase]
  split
  · rfl
  · rw [← hi]; rfl

theorem exec_barWait_first {n : BitVec 4} (h : ready (.barWait n) s c = true) (ha : c.p.arrivedAt ≠ some c.p.pc) :
    let u := ((s.entered (.barWait n) c).countedHere c).seeNext (c.pid / 4) n.toNat
    exec (.barWait n) s =
      .next (if u.phaseSeen (c.pid / 4) n.toNat then u.retire c c.nextPc none else u.waitAt c.pid true (.barrier n.toNat)) := by
  rw [exec_barWait, execBarWait, issue_of_ready _ h]
  simp only [if_neg ha]
  rw [conclude_awaitPhase _ _ _ _ rfl]

/-- A wave keeps what it has seen of its block's phases through a change of its other fields. -/
theorem phaseSeen_onWave {i wid n : Nat} {f : Wave → Wave} (hf : ∀ w, (f w).block = w.block ∧ (f w).seen = w.seen) :
    (s.onWave i f).phaseSeen wid n = s.phaseSeen wid n := by
  by_cases h : wid = i
  · subst h
    rw [State.phaseSeen, State.onWave_wave_same, State.phaseSeen]
    cases s.wave wid with
    | none => rfl
    | some w => simp only [Option.map_some, State.onWave_block, hf w]
  · simp only [State.phaseSeen, State.onWave_wave_other _ _ _ _ h, State.onWave_block]

theorem phaseSeen_run {t : State} (h : t.run = s.run) (wid n : Nat) : t.phaseSeen wid n = s.phaseSeen wid n := by
  simp only [State.phaseSeen, State.wave, State.block, h]

theorem phaseSeen_countBundle (wid n : Nat) : (s.countBundle c).phaseSeen wid n = s.phaseSeen wid n := by
  unfold State.countBundle
  dsimp only
  split
  · rfl
  · split
    · split
      · rfl
      · exact phaseSeen_run (lateSkid_run s c) ..
    · exact phaseSeen_onWave fun _ => ⟨rfl, rfl⟩

theorem phaseSeen_issued (pid wid n : Nat) : (s.issued pid).phaseSeen wid n = s.phaseSeen wid n := by
  unfold State.issued
  split
  · rfl
  · exact phaseSeen_onWave fun _ => ⟨rfl, rfl⟩

theorem phaseSeen_beginWait (wid n : Nat) : (s.beginWait c).phaseSeen wid n = s.phaseSeen wid n := by
  rw [State.beginWait, State.phaseSeen]
  simp only [State.onPath_wave, State.onPath_block]
  exact (phaseSeen_issued ..).trans (phaseSeen_countBundle ..)

/-- bar.sync with its arrival: it waits for the phase, its bundle counted where that wait begins. -/
theorem exec_barSync_first {n : BitVec 4} (h : ready (.barSync n) s c = true) (ha : c.p.arrivedAt ≠ some c.p.pc) :
    let u := s.entered (.barSync n) c
    (u.pendingArrival (c.pid / 4) n.toNat = true ∨ u.unfenced c.pid 14 ≠ none →
      exec (.barSync n) s = .next (u.waitAt c.pid true (.barrier n.toNat)))
    ∧ (u.pendingArrival (c.pid / 4) n.toNat = false → u.unfenced c.pid 14 = none →
      let v := (((u.showIn c.pid .block).countedHere c).arriveAt (c.pid / 4) n.toNat).seeNext (c.pid / 4) n.toNat
      exec (.barSync n) s =
        .next (if v.phaseSeen (c.pid / 4) n.toNat then v.retire c c.nextPc none else (v.beginWait c).waitAt c.pid true (.barrier n.toNat))) := by
  intro u
  refine ⟨fun hw => ?_, fun hp hu => ?_⟩
  · cases hp : u.pendingArrival (c.pid / 4) n.toNat with
    | true => exact issue_wait h ((if_neg ha).trans (if_pos hp))
    | false =>
      obtain ⟨pc, hpc⟩ := Option.ne_none_iff_exists'.mp (hw.resolve_left (by simp [hp]))
      exact issue_wait h (by simp only [if_neg ha, u] at hp hpc ⊢; simp only [hp, hpc, Bool.false_eq_true, if_false])
  · rw [exec_barSync, execBarSync, issue_of_ready _ h]
    simp only [if_neg ha, u] at hp hu ⊢
    simp only [hp, hu, Bool.false_eq_true, if_false]
    rw [conclude_awaitPhase _ _ _ _ rfl]
    split
    · rfl
    · next hv => simp only [phaseSeen_beginWait, hv, Bool.false_eq_true, if_false]

/-- A path that waits at its barrier instruction issues it again, and nothing is counted twice (R96, log entry 37). -/
theorem exec_bar_again {n : BitVec 4} {i : Instr} (hi : i ∈ [Instr.barWait n, Instr.barSync n]) (h : ready i s c = true)
    (ha : c.p.arrivedAt = some c.p.pc) :
    let u := s.entered i c
    exec i s = .next (if u.phaseSeen (c.pid / 4) n.toNat then u.retire c c.nextPc none else u.waitAt c.pid true (.barrier n.toNat)) := by
  intro u
  rcases List.mem_pair.mp hi with rfl | rfl
  · rw [exec_barWait, execBarWait, issue_of_ready _ h]
    simp only [if_pos ha]
    rw [conclude_awaitPhase _ _ _ _ rfl]
  · rw [exec_barSync, execBarSync, issue_of_ready _ h]
    simp only [if_pos ha]
    rw [conclude_awaitPhase _ _ _ _ rfl]

/-! The completion of a phase (R86). -/

/-- An entry replaced where it stands leaves what a function makes of the entries, if it makes the same of both. -/
theorem map_tset {α β : Type} {m : Sparse α} {n : Nat} {v w : α} (f : Nat × α → β) (hw : tget m n = some w) (hf : f (n, v) = f (n, w)) :
    (tset m n v).map f = m.map f := by
  induction m with
  | nil => exact nomatch hw
  | cons e m ih =>
    obtain ⟨k, x⟩ := e
    rw [tget] at hw
    split at hw
    · next h =>
      subst h
      obtain rfl := Option.some.inj hw
      simp [tset, hf]
    · next hne =>
      split at hw
      · exact nomatch hw
      · next hlt => simp [tset, hne, hlt, ih hw]

/-- The blocks of the waves that have not ended. -/
def State.waveBlocks (s : State) : List Nat := s.run.waves.map fun e => e.2.block

theorem expected_eq (s : State) (bid : Nat) : s.expected bid = (s.waveBlocks.filter (· == bid)).length := by
  rw [State.waveBlocks, List.filter_map, List.length_map]
  rfl

theorem waveBlocks_onWave {i : Nat} {f : Wave → Wave} (hf : ∀ w, (f w).block = w.block) : (s.onWave i f).waveBlocks = s.waveBlocks := by
  unfold State.onWave
  split
  · next w hw => exact map_tset _ hw (hf w)
  · rfl

/-- Lanes that go back to their lenders change no block, and no wave's block. -/
structure SameBlocks (s t : State) : Prop where
  blocks : t.run.blocks = s.run.blocks
  waveBlocks : t.waveBlocks = s.waveBlocks

namespace SameBlocks

theorem refl (s : State) : SameBlocks s s := ⟨rfl, rfl⟩

theorem trans {s t u : State} (h : SameBlocks s t) (g : SameBlocks t u) : SameBlocks s u :=
  ⟨g.blocks.trans h.blocks, g.waveBlocks.trans h.waveBlocks⟩

theorem onPath (s : State) (i : Nat) (f : Path → Path) : SameBlocks s (s.onPath i f) := by
  unfold State.onPath
  split <;> exact ⟨rfl, rfl⟩

theorem setTokens (s : State) (owner : Nat) (ts : List Token) : SameBlocks s (s.setTokens owner ts) := ⟨rfl, rfl⟩

theorem onWave (s : State) (i : Nat) (f : Wave → Wave) (hf : ∀ w, (f w).block = w.block) : SameBlocks s (s.onWave i f) := by
  refine ⟨?_, waveBlocks_onWave hf⟩
  unfold State.onWave
  split <;> rfl

theorem releaseLane (s : State) (pid lane : Nat) (bit : Word) : SameBlocks s (s.releaseLane pid lane bit) := by
  unfold State.releaseLane
  split
  · exact refl s
  · next h _ =>
    have g1 : SameBlocks s (match tget h.iters lane with | some it => s.returnIteration h.recruiter it bit | none => s) := by
      split
      · exact (onPath s _ _).trans (onPath _ _ _)
      · exact refl s
    dsimp only
    refine g1.trans (trans (trans (trans ?_ (onPath _ pid _)) (setTokens _ _ _)) (onWave _ _ _ fun _ => rfl))
    exact ⟨rfl, rfl⟩

theorem releaseLanes (pid : Nat) (bit : Word) (ls : List Nat) (s : State) : SameBlocks s (s.releaseLanes pid bit ls) := by
  induction ls generalizing s with
  | nil => exact refl s
  | cons l ls ih => exact (releaseLane s pid l bit).trans (ih _)

theorem recallAll (ps : List Nat) (s : State) : SameBlocks s (s.recallAll ps) := by
  induction ps generalizing s with
  | nil => exact refl s
  | cons p ps ih =>
    refine trans ?_ (ih (s.recallHelper p))
    unfold State.recallHelper
    split
    · exact (releaseLanes ..).trans ⟨rfl, rfl⟩
    · exact refl s

end SameBlocks

/-- One barrier of a block. -/
def State.barrierOf (s : State) (bid n : Nat) : Option Barrier := (s.block bid).map (·.barrier n)

/-- A completed phase of a barrier: one more phase, and no arrival. -/
theorem completePhase_barrierOf (s : State) (bid k n : Nat) :
    (s.completePhase bid k).barrierOf bid n = if n = k then (s.barrierOf bid k).map fun b => ⟨b.phase + 1, 0⟩ else s.barrierOf bid n := by
  unfold State.completePhase
  cases hb : s.block bid with
  | none => simp [State.barrierOf, hb]
  | some b =>
    dsimp only
    rw [State.barrierOf, State.block, (SameBlocks.recallAll _ _).blocks]
    by_cases h : n = k
    · subst h
      simp [State.barrierOf, State.setBlock, hb, Block.barrier]
    · simp [State.barrierOf, State.setBlock, hb, Block.barrier, h]

theorem completePhase_waveBlocks (s : State) (bid k : Nat) : (s.completePhase bid k).waveBlocks = s.waveBlocks := by
  unfold State.completePhase
  split
  · rfl
  · refine (SameBlocks.recallAll _ _).waveBlocks.trans ?_
    simp only [State.waveBlocks, List.map_map]
    refine List.map_congr_left fun e _ => ?_
    simp only [Function.comp]
    split <;> rfl

/-- One barrier of a block looked at for its completion. -/
def State.checkPhase (s : State) (bid n : Nat) : State :=
  match s.block bid with
  | some b => if 1 ≤ s.expected bid ∧ s.expected bid ≤ (b.barrier n).count then s.completePhase bid n else s
  | none => s

theorem checkPhases_eq (s : State) (bid : Nat) : s.checkPhases bid = (List.range 16).foldl (fun t n => t.checkPhase bid n) s := rfl

theorem checkPhase_waveBlocks (s : State) (bid k : Nat) : (s.checkPhase bid k).waveBlocks = s.waveBlocks := by
  unfold State.checkPhase
  split
  · split
    · exact completePhase_waveBlocks ..
    · rfl
  · rfl

/-- What a block's waves, `e` of them, make of a barrier: all arrived, its phase is complete. -/
def Barrier.checked (b : Barrier) (e : Nat) : Barrier := if 1 ≤ e ∧ e ≤ b.count then ⟨b.phase + 1, 0⟩ else b

theorem checkPhase_barrierOf (s : State) (bid k n : Nat) :
    (s.checkPhase bid k).barrierOf bid n = if n = k then (s.barrierOf bid k).map (·.checked (s.expected bid)) else s.barrierOf bid n := by
  unfold State.checkPhase
  cases hb : s.block bid with
  | none => simp [State.barrierOf, hb]
  | some b =>
    dsimp only
    split
    · next h =>
      rw [completePhase_barrierOf]
      simp [State.barrierOf, hb, Barrier.checked, h]
    · next h =>
      by_cases hk : n = k
      · subst hk
        simp [State.barrierOf, hb, Barrier.checked, h]
      · rw [if_neg hk]

/-- Each of the barriers looked at once. -/
theorem checkAll_barrierOf (bid n : Nat) (ns : List Nat) (hns : ns.Nodup) (s : State) :
    (ns.foldl (fun t k => t.checkPhase bid k) s).barrierOf bid n =
      if n ∈ ns then (s.barrierOf bid n).map (·.checked (s.expected bid)) else s.barrierOf bid n := by
  induction ns generalizing s with
  | nil => rfl
  | cons k ns ih =>
    obtain ⟨hk, hns⟩ := List.nodup_cons.mp hns
    have he : (s.checkPhase bid k).expected bid = s.expected bid := by rw [expected_eq, checkPhase_waveBlocks, ← expected_eq]
    rw [List.foldl_cons, ih hns, checkPhase_barrierOf, he]
    by_cases h : n = k
    · subst h
      simp [hk]
    · simp [h]

/-- An arrival counts, and completes the phase if it is the last of the block's waves (R86, R87). -/
theorem arriveAt_barrierOf {wid n : Nat} {w : Wave} {b : Block} (hw : s.wave wid = some w) (hb : s.block w.block = some b) (hn : n < 16) :
    (s.arriveAt wid n).barrierOf w.block n = some
      (if s.expected w.block ≤ (b.barrier n).count + 1 then ⟨(b.barrier n).phase + 1, 0⟩
       else ⟨(b.barrier n).phase, (b.barrier n).count + 1⟩) := by
  have hpos : 1 ≤ s.expected w.block := by
    rw [State.expected]
    exact List.length_pos_of_mem (List.mem_filter.mpr ⟨mem_of_tget _ _ _ hw, by simp⟩)
  simp only [State.arriveAt, hw]
  generalize hu : (s.setWave wid { w with arrivals := w.arrivals ||| (1#16 <<< n) }).onBlock w.block (fun b =>
    { b with barriers := tset b.barriers n { b.barrier n with count := (b.barrier n).count + 1 } }) = u
  have hexp : u.expected w.block = s.expected w.block := by
    have hw' : u.waveBlocks = s.waveBlocks := by
      subst hu
      unfold State.onBlock
      split <;> exact map_tset _ hw rfl
    rw [expected_eq, expected_eq, hw']
  have hbar : u.barrierOf w.block n = some ⟨(b.barrier n).phase, (b.barrier n).count + 1⟩ := by
    simp [← hu, State.barrierOf, hb, Block.barrier]
  rw [checkPhases_eq, checkAll_barrierOf _ _ _ List.nodup_range, if_pos (List.mem_range.mpr hn), hbar, hexp]
  simp only [Option.map_some, Barrier.checked, hpos, true_and]

/-- Settles O19: arrivals and waits as they issue, and the phase by `arriveAt_barrierOf`. -/
theorem barriers : Obligations.Barriers := by
  unfold Obligations.Barriers
  refine ⟨fun s c n => ⟨fun h => ⟨fun hp => ?_, fun pc hp hu => ?_, fun hp hu => ?_⟩, exec_barWait_first, exec_barSync_first,
    fun i hi h ha => exec_bar_again hi h ha⟩, fun s wid n w b hw hb hn => arriveAt_barrierOf hw hb hn⟩
  · exact issue_wait h (if_pos hp)
  · exact issue_wait h (by simp only [hp, hu, Bool.false_eq_true, if_false])
  · exact issue_done h (by simp only [hp, hu, Bool.false_eq_true, if_false])

end Sys2Proof.Machine
end

section
/-! PROOF. Structured branches and the tokens that they push (O15). -/
namespace Sys2Proof.Machine

variable {s : State} {c : Ctx}

/-! The two offsets of a vbr or a split (R20, R74). -/

/-- The taken offset: t below the upper half of a pfx word, signed. -/
def vbrTarget (pfx : List Nat) (t : BitVec 10) : DWord :=
  match pfx with
  | [] => t.signExtend 64
  | x :: _ => ((BitVec.ofNat 24 x).extractLsb' 12 12 ++ t).signExtend 64

/-- The rejoin offset: j below the lower half of a pfx word, without sign. -/
def vbrRejoin (pfx : List Nat) (j : BitVec 10) : DWord :=
  match pfx with
  | [] => j.zeroExtend 64
  | x :: _ => ((BitVec.ofNat 24 x).extractLsb' 0 12 ++ j).zeroExtend 64

/-- A field of a pfx word above ten bits of a vbr. -/
theorem pfxField_append (x lo : Nat) (hlo : lo + 12 ≤ 24) (t : BitVec 10) :
    ((BitVec.ofNat 24 x).extractLsb' lo 12 ++ t).toNat = fld x lo 12 * 1024 + t.toNat := by
  have hf : fld (x % 2 ^ 24) lo 12 = fld x lo 12 := by
    apply Nat.eq_of_testBit_eq
    intro j
    simp only [fld, Nat.testBit_mod_two_pow, Nat.testBit_div_two_pow]
    by_cases hj : j < 12
    · simp [hj, show j + lo < 24 by omega]
    · simp [hj]
  rw [toNat_append_eq, ← fld_toNat, BitVec.toNat_ofNat, hf, show 2 ^ 10 = 1024 from rfl]

theorem target_vbrTarget (c : Ctx) (t j : BitVec 10) : c.target (vbrOffsets c.pfx t j).1 = wordsFrom c.p.pc (vbrTarget c.pfx t) := by
  rw [Ctx.target, wrapInt_words]
  congr 1
  cases c.pfx with
  | nil => rw [vbrOffsets, signedOf_toNat (by decide)]; rfl
  | cons x xs =>
    have hb := pfxField_append x 12 (by decide) t
    rw [vbrOffsets, signedOf_eq_toInt _ _ ((Nat.mod_eq_of_lt (hb ▸ BitVec.isLt _)).trans hb.symm), vbrTarget, BitVec.signExtend]

theorem vbrRejoin_eq (pfx : List Nat) (t j : BitVec 10) : vbrRejoin pfx j = BitVec.ofNat 64 (vbrOffsets pfx t j).2 := by
  cases pfx with
  | nil => rw [vbrOffsets, vbrRejoin, BitVec.ofNat_toNat]
  | cons x xs => rw [vbrOffsets, vbrRejoin, ← pfxField_append x 0 (by decide), BitVec.ofNat_toNat]

theorem vbrOffsets_lt (pfx : List Nat) (t j : BitVec 10) : (vbrOffsets pfx t j).2 < 2 ^ 22 := by
  cases pfx with
  | nil => exact j.isLt.trans (by decide)
  | cons x xs => rw [vbrOffsets, ← pfxField_append x 0 (by decide)]; exact BitVec.isLt _

theorem target_vbrRejoin (c : Ctx) (t j : BitVec 10) : c.target (vbrOffsets c.pfx t j).2 = wordsFrom c.p.pc (vbrRejoin c.pfx j) := by
  rw [Ctx.target, wrapInt_words, BitVec.ofInt_natCast, vbrRejoin_eq _ t]

theorem vbrRejoin_eq_zero (pfx : List Nat) (t j : BitVec 10) : (vbrOffsets pfx t j).2 = 0 ↔ vbrRejoin pfx j = 0 := by
  have hlt := vbrOffsets_lt pfx t j
  rw [vbrRejoin_eq pfx t, BitVec.toNat_eq, BitVec.toNat_ofNat, Nat.mod_eq_of_lt (hlt.trans (by decide))]
  rfl

/-! The lanes that a predicate selects and the others (R74). -/

theorem and_not_taken (c : Ctx) (s : State) (neg : Bool) (k : BitVec 3) :
    c.p.mask &&& ~~~c.taken s neg k = c.p.mask &&& ~~~(if neg then ~~~s.readK c.pid k.toNat else s.readK c.pid k.toNat) := by
  rw [Ctx.taken]
  generalize (if neg then ~~~s.readK c.pid k.toNat else s.readK c.pid k.toNat) = pred
  apply BitVec.eq_of_getLsbD_eq
  intro j _
  simp only [BitVec.getLsbD_and, BitVec.getLsbD_not]
  cases c.p.mask.getLsbD j <;> simp

/-! The ends of a vbr and of a split. -/

/-- The state after the taken lanes `T` leave for `tpc` under a token, the others `N` going on (R74, R198). -/
def State.branched (u : State) (c : Ctx) (T N : Lanes) (tpc id : Nat) : State :=
  if T = 0 then u.retire c c.nextPc none
  else if N = 0 then u.retire c tpc (some 0)
  else
    let u1 := u.onPath c.pid fun p => { p with mask := N }
    match (if c.helper then none else (u.freeSlots (c.pid / 4)).head?), u.path c.pid with
    | some q, some p => (u1.setPath q (p.child tpc T (c.now u + 1))).retire c c.nextPc none
    | _, _ => (u1.onToken c.owner id fun x => { x with ppc := tpc, pmask := T }).retire c c.nextPc none

theorem conclude_branchOff (i : Instr) (c : Ctx) (u s : State) (T N : Lanes) (tpc id : Nat) :
    conclude i c (branchOff c u id T N tpc) s = u.branched c T N tpc id := by
  unfold branchOff State.branched
  split
  · rfl
  · split
    · rfl
    · generalize (if c.helper then none else (u.freeSlots (c.pid / 4)).head?) = slot
      cases slot <;> cases u.path c.pid <;> rfl

/-- The state after a vbr with its token: lanes taken to the rejoin have arrived (R74, log entry 40). -/
def State.vbrTaken (u : State) (c : Ctx) (T N : Lanes) (tpc jpc id : Nat) : State :=
  if tpc = jpc then
    let u1 := (u.onToken c.owner id fun x => { x with arrived := x.arrived ||| T }).onPath c.pid fun p => { p with mask := N }
    if N = 0 ∧ T ≠ 0 then u1.retire c jpc (some 0) else u1.retire c c.nextPc none
  else u.branched c T N tpc id

/-- A split ends unlawful, or without room for its token, or with its lanes on both sides (R76). -/
theorem exec_split_ready {neg : Bool} {k : BitVec 3} {t j : BitVec 10} (h : ready (.split neg k t j) s c = true) :
    let T := c.taken s neg k
    exec (.split neg k t j) s = .next
      (if vbrRejoin c.pfx j = 0 then (s.takeTrap c.pid 0x01 c.first (BitVec.ofNat 64 c.word) none).unstep c.pid
       else match (s.traceSync c.pid).pushToken c (wordsFrom c.p.pc (vbrRejoin c.pfx j)) false true with
        | some (u, id) => u.branched c T (c.p.mask &&& ~~~T) (wordsFrom c.p.pc (vbrTarget c.pfx t)) id
        | none => (s.takeTrap c.pid 0x0B c.first 64 none).unstep c.pid) := by
  intro T
  rw [exec_split, execSplit, issue_of_ready _ h, entered_split]
  simp only [target_vbrTarget, target_vbrRejoin, vbrRejoin_eq_zero]
  by_cases hr : vbrRejoin c.pfx j = 0
  · rw [if_pos hr, if_pos hr]
    rfl
  · rw [if_neg hr, if_neg hr]
    split
    · next e => rw [e]; rfl
    · next e => rw [e, conclude_branchOff]

theorem conclude_vbrTaken (i : Instr) (c : Ctx) (u s : State) (T N : Lanes) (tpc jpc id : Nat) :
    conclude i c (if tpc = jpc then
        let s := (u.onToken c.owner id fun x => { x with arrived := x.arrived ||| T }).onPath c.pid fun p => { p with mask := N }
        if N = 0 ∧ T ≠ 0 then .jump s jpc 0 else .done s
      else branchOff c u id T N tpc) s = u.vbrTaken c T N tpc jpc id := by
  unfold State.vbrTaken
  split
  · dsimp only
    split <;> rfl
  · exact conclude_branchOff ..

/-- The state in which a vbr's lanes leave and the identifier of its token: its path's innermost token where that has this rejoin and
nothing pending, else a new one (R74). -/
def State.vbrToken (u : State) (c : Ctx) (jpc : Nat) (loop : Bool) : Option (State × Nat) :=
  match (u.innermost c.pid c.p).filter fun x => x.rejoin == jpc && !x.split && x.pmask == 0 with
  | some x => some (u, x.id)
  | none => u.pushToken c jpc loop false

theorem exec_vbr_token {neg : Bool} {k : BitVec 3} {t j : BitVec 10} (h : ready (.vbr neg k t j) s c = true) :
    let T := c.taken s neg k
    let tpc := wordsFrom c.p.pc (vbrTarget c.pfx t)
    let jpc := wordsFrom c.p.pc (vbrRejoin c.pfx j)
    exec (.vbr neg k t j) s = .next
      (if vbrRejoin c.pfx j = 0 then (s.takeTrap c.pid 0x01 c.first (BitVec.ofNat 64 c.word) none).unstep c.pid
       else match (s.traceSync c.pid).vbrToken c jpc (tpc == jpc) with
        | some (u, id) => u.vbrTaken c T (c.p.mask &&& ~~~T) tpc jpc id
        | none => (s.takeTrap c.pid 0x0B c.first 64 none).unstep c.pid) := by
  intro T tpc jpc
  rw [exec_vbr, execVbr, issue_of_ready _ h, entered_vbr]
  simp only [target_vbrTarget, target_vbrRejoin, vbrRejoin_eq_zero]
  by_cases hr : vbrRejoin c.pfx j = 0
  · rw [if_pos hr, if_pos hr]
    rfl
  · rw [if_neg hr, if_neg hr]
    change Host.Outcome.next (conclude _ c (match (s.traceSync c.pid).vbrToken c jpc (tpc == jpc) with | none => _ | some (u, id) => _) s) = _
    cases (s.traceSync c.pid).vbrToken c jpc (tpc == jpc) with
    | none => rfl
    | some r => exact congrArg _ (conclude_vbrTaken ..)

/-- The token of a vbr where its path's innermost token serves. -/
theorem vbrToken_eq (u : State) (c : Ctx) (jpc : Nat) (loop : Bool) :
    u.vbrToken c jpc loop = match u.innermost c.pid c.p with
      | some x => if x.rejoin = jpc ∧ x.split = false ∧ x.pmask = 0 then some (u, x.id) else u.pushToken c jpc loop false
      | none => u.pushToken c jpc loop false := by
  unfold State.vbrToken
  cases u.innermost c.pid c.p with
  | none => rfl
  | some x =>
    by_cases hx : x.rejoin = jpc ∧ x.split = false ∧ x.pmask = 0
    · obtain ⟨h1, h2, h3⟩ := hx
      simp [Option.filter, h1, h2, h3]
    · simp only [Option.filter, Bool.and_eq_true, beq_iff_eq, Bool.not_eq_true', and_assoc, if_neg hx]

/-- A vbr ends unlawful, or without room for its token, or with its lanes on both sides (R74). -/
theorem exec_vbr_ready {neg : Bool} {k : BitVec 3} {t j : BitVec 10} (h : ready (.vbr neg k t j) s c = true) :
    let T := c.taken s neg k
    let N := c.p.mask &&& ~~~T
    let s0 := s.traceSync c.pid
    let tpc := wordsFrom c.p.pc (vbrTarget c.pfx t)
    let jpc := wordsFrom c.p.pc (vbrRejoin c.pfx j)
    let full : State := (s.takeTrap c.pid 0x0B c.first 64 none).unstep c.pid
    exec (.vbr neg k t j) s = .next
      (if vbrRejoin c.pfx j = 0 then (s.takeTrap c.pid 0x01 c.first (BitVec.ofNat 64 c.word) none).unstep c.pid
       else match s0.innermost c.pid c.p with
        | some x =>
          if x.rejoin = jpc ∧ x.split = false ∧ x.pmask = 0 then s0.vbrTaken c T N tpc jpc x.id
          else (match s0.pushToken c jpc (tpc == jpc) false with | some (u, id) => u.vbrTaken c T N tpc jpc id | none => full)
        | none => (match s0.pushToken c jpc (tpc == jpc) false with | some (u, id) => u.vbrTaken c T N tpc jpc id | none => full)) := by
  intro T N s0 tpc jpc full
  rw [exec_vbr_token h, vbrToken_eq]
  cases s0.innermost c.pid c.p with
  | none => rfl
  | some x =>
    dsimp only
    by_cases hx : x.rejoin = jpc ∧ x.split = false ∧ x.pmask = 0
    · rw [if_pos hx, if_pos hx]
    · rw [if_neg hx, if_neg hx]

/-! A token pushed (R203, R204). -/

theorem findToken_isNone (ts : List Token) (id : Nat) : findToken ts id = none ↔ id ∉ ts.map (·.id) := by
  simp [findToken]

theorem spillOne_ids (innermost : List (Option Nat)) (ts : List Token) : (spillOne innermost ts).map (·.id) = ts.map (·.id) := by
  induction ts with
  | nil => rfl
  | cons t ts ih =>
    rw [spillOne]
    split
    · rfl
    · rw [List.map_cons, List.map_cons, ih]

/-- Fewer than 64 tokens leave an identifier free. -/
theorem freeTokenId_free {ts : List Token} (h : ts.length < 64) : findToken ts (freeTokenId ts) = none := by
  rw [freeTokenId]
  cases hf : (List.range 64).find? fun i => (findToken ts i).isNone with
  | some i => simpa using List.find?_some hf
  | none =>
    have hall : List.range 64 ⊆ ts.map (·.id) := by
      intro i hi
      have := List.find?_eq_none.mp hf i hi
      simpa [findToken_isNone] using this
    have hle := (List.subperm_of_subset List.nodup_range hall).length_le
    rw [List.length_range, List.length_map] at hle
    omega

/-- How many tokens an owner may have open (R204). -/
def Ctx.tokenLimit (c : Ctx) : Nat := if c.helper then 16 else 64

theorem tokenLimit_le (c : Ctx) : c.tokenLimit ≤ 64 := by
  rw [Ctx.tokenLimit]
  split <;> decide

/-- The token that a push opens: no lane has arrived at it, and none is pending. -/
def Ctx.newToken (c : Ctx) (id rejoin : Nat) (loop split : Bool) : Token :=
  ⟨id, c.p.token, rejoin, c.p.mask, 0, loop, split, 0, 0, false, false, false⟩

/-- A push finds room below the limit, and then appends a token that no live one is named like. -/
theorem pushToken_eq (s : State) (c : Ctx) (rejoin : Nat) (loop split : Bool) :
    s.pushToken c rejoin loop split =
      if (s.tokensOf c.owner).length < c.tokenLimit then
        let id := freeTokenId (s.tokensOf c.owner)
        let full := !c.helper && decide (16 ≤ ((s.tokensOf c.owner).filter fun t => !t.spilled).length)
        let ts := if full then spillOne ((s.ownerPaths c.owner).map fun q => q.2.token) (s.tokensOf c.owner) else s.tokensOf c.owner
        some ((s.setTokens c.owner (ts ++ [c.newToken id rejoin loop split])).onPath c.pid fun p => { p with token := some id }, id)
      else none := by
  have hl : (if c.helper then Config.helperTokens else Config.waveTokens) = c.tokenLimit := rfl
  rw [State.pushToken]
  dsimp only
  rw [hl]
  by_cases h : (s.tokensOf c.owner).length < c.tokenLimit
  · rw [if_neg (Nat.not_le.mpr h), if_pos h]
    rfl
  · rw [if_pos (Nat.le_of_not_lt h), if_neg h]

theorem pushToken_pushes {t : State} {rejoin id : Nat} {loop split : Bool} (hp : s.path c.pid = some c.p)
    (h : s.pushToken c rejoin loop split = some (t, id)) :
    findToken (s.tokensOf c.owner) id = none
      ∧ (t.tokensOf c.owner).length = (s.tokensOf c.owner).length + 1
      ∧ (∃ x, findToken (t.tokensOf c.owner) id = some x ∧ x.parent = c.p.token ∧ x.rejoin = rejoin ∧ x.mask = c.p.mask
          ∧ x.arrived = 0 ∧ x.loop = loop ∧ x.split = split ∧ x.pmask = 0)
      ∧ (t.path c.pid).map (·.token) = some (some id) := by
  rw [pushToken_eq] at h
  split at h
  · next hlt =>
    obtain ⟨rfl, rfl⟩ := Prod.mk.inj (Option.some.inj h)
    have hfree := freeTokenId_free (hlt.trans_le (tokenLimit_le c))
    generalize hts : (if (!c.helper && decide (16 ≤ ((s.tokensOf c.owner).filter fun t => !t.spilled).length)) = true
      then spillOne ((s.ownerPaths c.owner).map fun q => q.2.token) (s.tokensOf c.owner) else s.tokensOf c.owner) = ts
    have hids : ts.map (·.id) = (s.tokensOf c.owner).map (·.id) := by
      rw [← hts]
      split
      · exact spillOne_ids ..
      · rfl
    have hlen : ts.length = (s.tokensOf c.owner).length := by simpa using congrArg List.length hids
    have hnone : findToken ts (freeTokenId (s.tokensOf c.owner)) = none := by
      rw [findToken_isNone, hids, ← findToken_isNone]
      exact hfree
    have htok : ((s.setTokens c.owner (ts ++ [c.newToken (freeTokenId (s.tokensOf c.owner)) rejoin loop split])).onPath c.pid
        fun p => { p with token := some (freeTokenId (s.tokensOf c.owner)) }).tokensOf c.owner
        = ts ++ [c.newToken (freeTokenId (s.tokensOf c.owner)) rejoin loop split] := by
      simp [State.tokensOf, State.setTokens]
    refine ⟨hfree, ?_, ⟨c.newToken (freeTokenId (s.tokensOf c.owner)) rejoin loop split, ?_, rfl, rfl, rfl, rfl, rfl, rfl, rfl⟩, ?_⟩
    · rw [htok, List.length_append, hlen]
      rfl
    · rw [htok, findToken, List.find?_append, show ts.find? (fun t => t.id == freeTokenId (s.tokensOf c.owner)) = none from hnone]
      simp [Ctx.newToken]
    · rw [State.onPath_path_same, State.setTokens_path, hp]
      rfl
  · exact nomatch h

/-- Settles O15: a vbr and a split by their ends, and a push by the free identifier that it takes. -/
theorem structuredBranchesAndTokens : Obligations.StructuredBranchesAndTokens := by
  unfold Obligations.StructuredBranchesAndTokens
  refine ⟨fun s c neg k t j => ⟨fun h => ?_, fun h => ?_⟩, fun s c rejoin loop split hp => ⟨?_, fun t id h => pushToken_pushes hp h⟩⟩
  · rw [exec_vbr_ready h, and_not_taken]
    rfl
  · rw [exec_split_ready h, and_not_taken]
    rfl
  · rw [pushToken_eq, Ctx.tokenLimit]
    by_cases h : (s.tokensOf c.owner).length < if c.helper then 16 else 64 <;> simp [h]

end Sys2Proof.Machine
end

section
/-! PROOF. The return from a trap and the end of a wave (O13). -/
namespace Sys2Proof.Machine

variable {s : State} {c : Ctx}

/-! A retirement that meets neither a token nor a meeting point (R93). -/

theorem ready_ended {i : Instr} (h : ready i s c = true) : c.p.ended = false ∧ c.p.sleep = 0 := by
  have ht := ready_taken h
  simp only [taken, Bool.and_eq_true] at ht
  obtain ⟨⟨⟨⟨_, hm⟩, _⟩, _⟩, _⟩ := ht
  simp only [State.mayIssue, Bool.and_eq_true, Bool.not_eq_true', beq_iff_eq] at hm
  obtain ⟨⟨⟨⟨⟨⟨⟨⟨⟨_, _⟩, _⟩, _⟩, he⟩, _⟩, _⟩, _⟩, hs⟩, _⟩ := hm
  exact ⟨he, hs⟩

/-- While a top-level path of a wave is parked nowhere, no group is released (R208). -/
theorem releaseMeeting_none {pid : Nat} {q : Path} (hq : s.path pid = some q) (ht : q.token = none) (he : q.ended = false)
    (hst : q.st ≠ .parkedMeeting) : s.releaseMeeting (pid / 4) = s := by
  have hmem : (pid, q) ∈ s.pathsOf (pid / 4) :=
    List.mem_filter.mpr ⟨mem_of_tget _ _ _ hq, by
      have := Nat.div_add_mod pid 4
      have := Nat.mod_lt pid (show 0 < 4 by decide)
      simp only [Bool.and_eq_true, decide_eq_true_eq]
      omega⟩
  have hnot : ((s.pathsOf (pid / 4)).filter fun q => q.2.token.isNone && !q.2.ended).all (fun q => q.2.st == .parkedMeeting) = false := by
    rw [List.all_eq_false]
    exact ⟨(pid, q), List.mem_filter.mpr ⟨hmem, by simp [ht, he]⟩, by simpa using hst⟩
  have hall : s.allMet (pid / 4) = [] := by
    rw [State.allMet, hnot]
    rfl
  rw [State.releaseMeeting, hall]
  rfl

/-- A state that differs from another in which paths are still to be announced to the trace alone (R381). -/
structure SameButNews (s t : State) : Prop where
  path : ∀ j p, s.path j = some p → ∃ b, t.path j = some { p with traceNew := b }
  cores : t.cores = s.cores
  mem : t.mem = s.mem
  sregs : t.run.sregs = s.run.sregs
  vregs : t.run.vregs = s.run.vregs
  tokens : t.run.tokens = s.run.tokens

namespace SameButNews

theorem refl (s : State) : SameButNews s s := ⟨fun _ p hp => ⟨p.traceNew, hp⟩, rfl, rfl, rfl, rfl, rfl⟩

theorem trans {s t u : State} (h : SameButNews s t) (g : SameButNews t u) : SameButNews s u := by
  refine ⟨fun j p hp => ?_, g.cores.trans h.cores, g.mem.trans h.mem, g.sregs.trans h.sregs, g.vregs.trans h.vregs, g.tokens.trans h.tokens⟩
  obtain ⟨b, hb⟩ := h.path j p hp
  obtain ⟨b', hb'⟩ := g.path j _ hb
  exact ⟨b', hb'⟩

theorem clearNew (s : State) (i : Nat) : SameButNews s (s.onPath i fun p => { p with traceNew := false }) := by
  refine ⟨fun j p hp => ?_, by simp, by simp, by simp, by simp, by simp⟩
  by_cases h : j = i
  · subst h
    exact ⟨false, by rw [State.onPath_path_same, hp]; rfl⟩
  · exact ⟨p.traceNew, by rw [State.onPath_path_other _ _ _ _ h, hp]⟩

end SameButNews

/-- No record of a path is written on a core that writes no trace. -/
theorem traceFlow_core_off {pid core : Nat} (hc : isHelper pid = true ∨ coreOf pid = core) (h : (s.core core).trEn = false) (kind pc slot : Nat) :
    s.traceFlow pid kind pc slot = s := by
  rcases hc with hc | rfl
  · simp [State.traceFlow, hc]
  · exact traceFlow_off s pid kind pc slot h

theorem traceMask_core_off {pid core : Nat} (hc : isHelper pid = true ∨ coreOf pid = core) (h : (s.core core).trEn = false) (m : Lanes) :
    s.traceMask pid m = s := by
  rcases hc with hc | rfl
  · simp [State.traceMask, hc]
  · exact traceMask_off s pid m h

/-- A path of a wave runs on the wave's core, unless it has a helper's number. -/
theorem coreOf_pathsOf {wid : Nat} {q : Nat × Path} (hq : q ∈ s.pathsOf wid) : isHelper q.1 = true ∨ coreOf q.1 = wid / 32 := by
  have hk := (List.mem_filter.mp hq).2
  simp only [Bool.and_eq_true, decide_eq_true_eq] at hk
  cases hh : isHelper q.1 with
  | true => exact .inl rfl
  | false =>
    refine .inr ?_
    rw [coreOf, hh]
    simp only [Bool.false_eq_true, if_false]
    omega

theorem announce_off (wid : Nat) (which : Nat → Bool) (h : (s.core (wid / 32)).trEn = false) : SameButNews s (s.announce wid which) := by
  have step (qs : List (Nat × Path)) (hqs : ∀ q ∈ qs, isHelper q.1 = true ∨ coreOf q.1 = wid / 32) (u : State) (hu : SameButNews s u) :
      SameButNews s (qs.foldl (fun t q =>
        if q.2.traceNew && which q.1 then
          ((t.traceFlow q.1 6 q.2.pc (q.1 % 4)).traceMask q.1 0).onPath q.1 fun p => { p with traceNew := false }
        else t) u) := by
    induction qs generalizing u with
    | nil => exact hu
    | cons q qs ih =>
      refine ih (fun x hx => hqs x (List.mem_cons_of_mem _ hx)) _ ?_
      have hcore : (u.core (wid / 32)).trEn = false := by rw [State.core, hu.cores]; exact h
      have hq := hqs q (List.mem_cons_self ..)
      dsimp only
      rw [traceFlow_core_off hq hcore, traceMask_core_off hq hcore]
      split
      · exact hu.trans (SameButNews.clearNew u q.1)
      · exact hu
  exact step _ (fun q hq => coreOf_pathsOf hq) s (SameButNews.refl s)

theorem traceTurn_off {pid : Nat} (hh : isHelper pid = false) (h : (s.core (coreOf pid)).trEn = false) (flow : Option (Nat × Nat)) (old : Lanes) :
    SameButNews s (s.traceTurn pid flow old) := by
  have hcore : coreOf pid = pid / 4 / 32 := by
    rw [coreOf, hh, Nat.div_div_eq_div_mul]
    rfl
  rw [hcore] at h
  have off {u : State} (hu : SameButNews s u) : (u.core (pid / 4 / 32)).trEn = false := by rw [State.core, hu.cores]; exact h
  simp only [State.traceTurn, hh, Bool.false_eq_true, if_false]
  have h1 := announce_off (pid / 4) (fun q => decide (q < pid)) h
  rw [traceMask_core_off (.inr hcore)]
  · cases flow with
    | none => exact h1.trans (announce_off _ _ (off h1))
    | some f =>
      dsimp only
      rw [traceFlow_core_off (.inr hcore) (off h1)]
      exact h1.trans (announce_off _ _ (off h1))
  · cases flow with
    | none => exact off h1
    | some f =>
      dsimp only
      rw [traceFlow_core_off (.inr hcore) (off h1)]
      exact off h1

/-- The path as its retirement leaves it, but for what the trace announces (R206, R370). -/
def Path.retired (p : Path) (c : Ctx) (s : State) (pc : Nat) (flow : Option Nat) : Path :=
  { p with
    pc := pc, hints := [], st := if p.sleep = 0 then .ready else .waiting, wait := .none, waitFrom := none,
    exempt := flow == some 3, issuedAt := if c.counted then p.issuedAt else c.now s, lastFirst := c.first,
    readyAt := c.now s + 1, passOver := p.passOver || c.yields,
    arrivedAt := if p.arrivedAt = some c.p.pc then none else p.arrivedAt, begun := false,
    due := c.stepDue p s.clk }

/-- What a bundle's count leaves alone, beside paths. -/
structure SameButCount (s t : State) : Prop where
  path : ∀ j, t.path j = s.path j
  mem : t.mem = s.mem
  sregs : t.run.sregs = s.run.sregs
  vregs : t.run.vregs = s.run.vregs
  tokens : t.run.tokens = s.run.tokens
  trEn : ∀ j, (t.core j).trEn = (s.core j).trEn

namespace SameButCount

theorem refl (s : State) : SameButCount s s := ⟨fun _ => rfl, rfl, rfl, rfl, rfl, fun _ => rfl⟩

theorem trans {s t u : State} (h : SameButCount s t) (g : SameButCount t u) : SameButCount s u :=
  ⟨fun j => (g.path j).trans (h.path j), g.mem.trans h.mem, g.sregs.trans h.sregs, g.vregs.trans h.vregs, g.tokens.trans h.tokens,
    fun j => (g.trEn j).trans (h.trEn j)⟩

theorem onWave (s : State) (i : Nat) (f : Wave → Wave) : SameButCount s (s.onWave i f) :=
  ⟨fun j => State.onWave_path s i f j, by simp, by simp, by simp, by simp, fun j => by rw [State.onWave_core]⟩

theorem lateSkid (s : State) (c : Ctx) : SameButCount s (s.lateSkid c) := by
  refine ⟨fun j => by rw [State.path, lateSkid_run]; rfl, ?_, by rw [lateSkid_run], by rw [lateSkid_run], by rw [lateSkid_run], fun j => ?_⟩
  · unfold State.lateSkid
    dsimp only
    split <;> rfl
  · unfold State.lateSkid
    dsimp only
    split
    · by_cases h : j = c.core
      · subst h
        rw [State.setCore_core_same]
      · rw [State.setCore_core_other _ _ _ _ h]
    · rfl

theorem countBundle (s : State) (c : Ctx) : SameButCount s (s.countBundle c) := by
  unfold State.countBundle
  dsimp only
  split
  · exact refl s
  · split
    · split
      · exact refl s
      · exact lateSkid s c
    · exact onWave ..

theorem issued (s : State) (pid : Nat) : SameButCount s (s.issued pid) := by
  unfold State.issued
  split
  · exact refl s
  · exact onWave ..

end SameButCount

theorem unstep_mem (s : State) (pid : Nat) : (s.unstep pid).mem = s.mem := by
  unfold State.unstep
  dsimp only
  split <;> rfl

theorem unstep_ops (s : State) (pid : Nat) : (s.unstep pid).ops = s.ops := by
  unfold State.unstep
  dsimp only
  split <;> rfl

/-- A top-level path of a wave without tokens retires on a core that writes no trace: it alone changes, but for what counts its bundle. -/
theorem retire_alone {p : Path} {pc : Nat} {flow : Option Nat} (hh : c.helper = false) (ht : (s.core (coreOf c.pid)).trEn = false)
    (hk : s.tokensOf c.owner = []) (hp : s.path c.pid = some p) (htok : p.token = none) (he : p.ended = false) :
    ∃ b, (s.retire c pc flow).path c.pid = some { p.retired c s pc flow with traceNew := b }
      ∧ (s.retire c pc flow).mem = s.mem ∧ (s.retire c pc flow).run.sregs = s.run.sregs ∧ (s.retire c pc flow).run.vregs = s.run.vregs := by
  have hh' : isHelper c.pid = false := hh
  let s2 := s.onPath c.pid fun p => p.retired c s pc flow
  let s3 := if c.counted then s2 else (s2.countBundle c).issued c.pid
  have h3 : SameButCount s2 s3 := by
    simp only [s3]
    split
    · exact SameButCount.refl s2
    · exact (SameButCount.countBundle s2 c).trans (SameButCount.issued ..)
  have hp3 : s3.path c.pid = some (p.retired c s pc flow) := by
    rw [h3.path, State.onPath_path_same, hp]
    rfl
  have h4 := traceTurn_off (s := s3) hh' (by rw [h3.trEn]; simpa [s2] using ht) (flow.map fun kd => (kd, pc)) c.p.mask
  obtain ⟨b, hb⟩ := h4.path _ _ hp3
  have hs4 : (s3.traceTurn c.pid (flow.map fun kd => (kd, pc)) c.p.mask).settle c.pid
      = s3.traceTurn c.pid (flow.map fun kd => (kd, pc)) c.p.mask := by
    refine settle_free _ _ ?_
    rw [State.tokensOf, h4.tokens, h3.tokens]
    simpa [s2, State.tokensOf, Ctx.owner] using hk
  have hret : s.retire c pc flow = ((s3.traceTurn c.pid (flow.map fun kd => (kd, pc)) c.p.mask)).unstep c.pid := by
    rw [State.retire]
    simp only [traceSync_off s _ ht, hh, Bool.false_eq_true, if_false]
    change ((((s3.traceTurn c.pid (flow.map fun kd => (kd, pc)) c.p.mask).settle c.pid).releaseMeeting (c.pid / 4)).unstep c.pid) = _
    rw [hs4, releaseMeeting_none hb htok he]
    simp only [Path.retired]
    split <;> exact fun h => nomatch h
  refine ⟨b, ?_, ?_, ?_, ?_⟩
  · rw [hret, State.path, unstep_run]; exact hb
  · rw [hret, unstep_mem, h4.mem, h3.mem]; simp [s2]
  · rw [hret, unstep_run, h4.sregs, h3.sregs]; simp [s2]
  · rw [hret, unstep_run, h4.vregs, h3.vregs]; simp [s2]

/-! ERET (R93). -/

theorem exec_eret_system (h : ready .eret s c = true) (hs : c.p.sys = true) :
    exec .eret s = .next ((s.onPath c.pid fun p => p.returned (s.mayHold c.pid c.p)).retire c (codeAddr c.p.epc) (some 3)) :=
  issue_jump h (if_pos hs)

/-- An address of an instruction is its own code address. -/
theorem codeAddr_aligned {v : DWord} (h4 : v.toNat % 4 = 0) (hlt : v.toNat < 2 ^ 49) : codeAddr v = v.toNat := by
  rw [codeAddr, Nat.mod_eq_of_lt hlt]
  omega

/-! HALT (R95, R218). -/

/-- A state in which the same waves are there. -/
structure SameWaves (s t : State) : Prop where
  wave : ∀ j, (t.wave j).isSome = (s.wave j).isSome

namespace SameWaves

theorem refl (s : State) : SameWaves s s := ⟨fun _ => rfl⟩
theorem trans {s t u : State} (h : SameWaves s t) (g : SameWaves t u) : SameWaves s u := ⟨fun j => (g.wave j).trans (h.wave j)⟩
theorem of_waves {s t : State} (h : t.run.waves = s.run.waves) : SameWaves s t := ⟨fun j => by rw [State.wave, State.wave, h]⟩
theorem of_run {s t : State} (h : t.run = s.run) : SameWaves s t := of_waves (by rw [h])

theorem onPath (s : State) (i : Nat) (f : Path → Path) : SameWaves s (s.onPath i f) := ⟨fun j => by rw [State.onPath_wave]⟩

theorem restartSkids (s : State) (cluster : Nat) : SameWaves s (s.restartSkids cluster) := by
  refine ⟨fun j => ?_⟩
  let restart (i : Nat) (w : Wave) : Wave :=
    if i / 128 == cluster then { w with skid := if w.lastAt = some (s.icc (i / 32)) then 1 else 0 } else w
  have e : (s.restartSkids cluster).run.waves = s.run.waves.map fun x => (x.1, restart x.1 x.2) := by
    refine List.map_congr_left fun x _ => ?_
    simp only [restart]
    split <;> rfl
  rw [State.wave, State.wave, e, tget_map, Option.isSome_map]

theorem performed (s : State) (w : Option Watch) : SameWaves s (s.performed w) := by
  cases w with
  | none => exact refl s
  | some w =>
    refine ⟨fun j => ?_⟩
    simp only [State.performed, State.watchHits, State.beginStop]
    repeat' split
    all_goals simp [(restartSkids _ w.cluster).wave j]

theorem putOp (s : State) (before : List Nat) (o : Op) : SameWaves s (s.putOp before o) := by
  refine ⟨fun j => ?_⟩
  rw [State.putOp, State.onPath_wave]
  rfl

theorem commitStore (s : State) (id owner pid pc : Nat) (before : List Nat) (cells : List (Loc × Byte)) (w : Option Watch) :
    SameWaves s (s.commitStore id owner pid pc before cells w) := by
  unfold State.commitStore
  dsimp only
  split
  · exact putOp ..
  · have hw := (writeLocs_frame cells s).1
    exact ((of_run hw).trans (performed _ w)).trans (of_run (dramTouch_frame _ _).1)

theorem performHeld (pid pc : Nat) (hs : List HeldStore) (s : State) : SameWaves s (s.performHeld pid pc hs) := by
  induction hs generalizing s with
  | nil => exact refl s
  | cons h hs ih => exact (commitStore ..).trans (ih _)

theorem commitPart (s : State) (pid : Nat) : SameWaves s (s.commitPart pid) := by
  unfold State.commitPart
  split
  · split
    · exact (performHeld ..).trans (onPath ..)
    · exact refl s
  · exact refl s

theorem commitRegion (s : State) (pid : Nat) : SameWaves s (s.commitRegion pid) := by
  have parts (qs : List (Nat × Path)) (u : State) : SameWaves u (qs.foldl (fun t q => t.commitPart q.1) u) := by
    induction qs generalizing u with
    | nil => exact refl u
    | cons q qs ih => exact (commitPart u q.1).trans (ih _)
  unfold State.commitRegion
  split
  · exact parts _ s
  · exact refl s

theorem owes {s t : State} (h : s.owes t) : SameWaves s t := by
  rcases h with h | ⟨_, _, h⟩
  · exact of_run h
  · exact of_waves (by rw [h]; rfl)

theorem traceSync (s : State) (pid : Nat) : SameWaves s (s.traceSync pid) := by
  unfold State.traceSync
  split
  · exact refl s
  · split
    · split
      · exact ((owes (traceResume_owes ..)).trans (onPath ..)).trans (owes (tracePut_owes ..))
      · exact refl s
    · exact refl s

end SameWaves

/-- A wave that halts, its stores performed and its pin free, is gone (R95). -/
theorem exec_halt_ends {w : Wave} (h : ready .halt s c = true) (hw : s.wave (c.pid / 4) = some w)
    (hst : (s.entered .halt c).pendingStore (c.pid / 4) = none) (hpin : (s.entered .halt c).pinWaits (c.pid / 4) = false) :
    ∃ t, exec .halt s = .next (t.unstep c.pid) ∧ WaveGone t (c.pid / 4) := by
  have hlt : c.pid < helperBase := by simpa [Ctx.helper, isHelper] using ready_not_helper h rfl
  rw [helperBase] at hlt
  have hsome : (((s.entered .halt c).traceSync c.pid).wave (c.pid / 4)).isSome = true := by
    rw [(SameWaves.traceSync _ _).wave, entered_halt, (SameWaves.commitRegion _ _).wave, hw]
    rfl
  obtain ⟨v, hv⟩ := Option.isSome_iff_exists.mp hsome
  exact ⟨_, issue_gone h (by simp only [hst, hpin, Bool.false_eq_true, if_false]), endWave_gone hv (by omega)⟩

/-- Settles O13: eret by its retirement, and halt by what a wave that has ended leaves. -/
theorem returnFromTrapAndHalt : Obligations.ReturnFromTrapAndHalt := by
  unfold Obligations.ReturnFromTrapAndHalt
  refine ⟨fun s c h => ⟨fun hs htr htok hnone => ?_, fun hu => issue_trapOpen h (if_neg (by simp [hu]))⟩,
    fun s c w h hw => ⟨fun o ho => ?_, fun ho hp => ?_, fun ho hp => ?_⟩⟩
  · obtain ⟨hp, _⟩ := ready_path h
    obtain ⟨hend, _⟩ := ready_ended h
    obtain ⟨b, hq, hm, hr, hv⟩ := retire_alone (s := s.onPath c.pid fun p => p.returned (s.mayHold c.pid c.p)) (c := c)
      (p := c.p.returned (s.mayHold c.pid c.p)) (pc := codeAddr c.p.epc) (flow := some 3)
      (ready_not_helper h rfl) (by simpa using htr) (by simpa using htok) (by rw [State.onPath_path_same, hp]; rfl) hnone hend
    exact ⟨_, _, exec_eret_system h hs, hq, codeAddr_aligned, rfl, rfl, rfl, rfl, rfl, rfl, rfl, rfl, by simpa using hm, by simpa using hr,
      by simpa using hv⟩
  · exact issue_wait h (by simp only [ho])
  · exact issue_wait h (by simp only [ho, hp, if_true])
  · obtain ⟨t, ht, g⟩ := exec_halt_ends h hw ho hp
    have g' : WaveGone (t.unstep c.pid) (c.pid / 4) := by
      refine g.congr ?_ ?_ ?_ ?_ ?_
      · rw [unstep_run]
      · rw [unstep_run]
      · rw [unstep_run]
      · rw [unstep_run]
      · exact unstep_ops ..
    refine ⟨_, ht, g'.wave, fun pid hpid => g'.path hpid, fun r => ?_, g'.tokensOf, g'.ops⟩
    rcases Nat.lt_or_ge r 128 with hr | hr
    · exact .inl (g'.sreg hr)
    · exact .inr hr

end Sys2Proof.Machine
end

section
/-! PROOF. A loan is refused or granted (O17). -/
namespace Sys2Proof.Machine

variable {s : State} {c : Ctx}

/-! The waves that lend (R292). -/

theorem takers_length (s : State) (regs : Nat) (lanes : Nat → Wave → Lanes) (ws : List (Nat × Wave)) (entries : Nat) (used : Nat → Nat) :
    (takers s regs lanes ws entries used).length ≤ entries := by
  induction ws generalizing entries used with
  | nil => exact Nat.zero_le _
  | cons e ws ih =>
    obtain ⟨wid, w⟩ := e
    rw [takers]
    split
    · exact ih ..
    · next h =>
      have := ih (entries - 1) (fun p => if p = wid % 4 then used p + regs else used p)
      have h0 : entries ≠ 0 := fun h0 => h (.inr (.inl h0))
      rw [List.length_cons]
      omega

theorem takers_sublist (s : State) (regs : Nat) (lanes : Nat → Wave → Lanes) (ws : List (Nat × Wave)) (entries : Nat) (used : Nat → Nat) :
    ((takers s regs lanes ws entries used).map (·.1)).Sublist (ws.map (·.1)) := by
  induction ws generalizing entries used with
  | nil => exact List.Sublist.refl _
  | cons e ws ih =>
    obtain ⟨wid, w⟩ := e
    rw [takers]
    split
    · exact (ih ..).cons _
    · exact (ih ..).cons_cons _

/-- A wave that lends stands in the list, with the lanes that it could lend. -/
theorem mem_takers {regs : Nat} {lanes : Nat → Wave → Lanes} {ws : List (Nat × Wave)} {entries : Nat} {used : Nat → Nat} {x : Nat × Lanes}
    (h : x ∈ takers s regs lanes ws entries used) : ∃ w, (x.1, w) ∈ ws ∧ x.2 = lanes x.1 w := by
  induction ws generalizing entries used with
  | nil => exact nomatch h
  | cons e ws ih =>
    obtain ⟨wid, w⟩ := e
    rw [takers] at h
    split at h
    · obtain ⟨v, hv, hx⟩ := ih h
      exact ⟨v, List.mem_cons_of_mem _ hv, hx⟩
    · rcases List.mem_cons.mp h with rfl | h
      · exact ⟨w, List.mem_cons_self .., rfl⟩
      · obtain ⟨v, hv, hx⟩ := ih h
        exact ⟨v, List.mem_cons_of_mem _ hv, hx⟩

/-! Fewer waves asked, none of them passed over (R293). -/

/-- A count of waves by pipe, with one more. -/
def bump (a : Nat → Nat) (i : Nat) : Nat → Nat := fun p => if p = i then a p + 1 else a p

/-- The waves of the four pipes. -/
def pipesSum (a : Nat → Nat) : Nat := a 0 + a 1 + a 2 + a 3

theorem pipesSum_bump (a : Nat → Nat) {i : Nat} (hi : i < 4) : pipesSum (bump a i) = pipesSum a + 1 := by
  have : i = 0 ∨ i = 1 ∨ i = 2 ∨ i = 3 := by omega
  rcases this with rfl | rfl | rfl | rfl <;> simp [pipesSum, bump] <;> omega

theorem pipesSum_le {a b : Nat → Nat} (h : ∀ p, b p ≤ a p) : pipesSum b ≤ pipesSum a := by
  have h0 := h 0
  have h1 := h 1
  have h2 := h 2
  have h3 := h 3
  simp only [pipesSum]
  omega

/-- The registers of the counted waves with one more of a pipe. -/
theorem used_bump (regs : Nat) (a : Nat → Nat) (i : Nat) :
    (fun p => if p = i then regs * a p + regs else regs * a p) = fun p => regs * bump a i p := by
  funext p
  simp only [bump]
  split
  · rw [Nat.mul_add_one]
  · rfl

theorem takers_no_entry (s : State) (regs : Nat) (lanes : Nat → Wave → Lanes) (ws : List (Nat × Wave)) (used : Nat → Nat) :
    takers s regs lanes ws 0 used = [] := List.length_eq_zero_iff.mp (Nat.le_zero.mp (takers_length ..))

/-- Where only the waves that pass a test lend, each of them that lends among all lends still: what the others leave is enough. With `a` and `b`
the waves taken so far of each pipe, the entries left and those taken make the same number. -/
theorem takers_filter_sublist (s : State) (regs : Nat) (lanes : Nat → Wave → Lanes) (test : Nat → Bool) (ws : List (Nat × Wave))
    (n m : Nat) (a b : Nat → Nat) (hab : ∀ p, b p ≤ a p) (hsum : n + pipesSum a = m + pipesSum b) :
    ((takers s regs lanes ws n fun p => regs * a p).filter fun t => test t.1).Sublist
      (takers s regs (fun v w => if test v then lanes v w else 0) ws m fun p => regs * b p) := by
  induction ws generalizing n m a b with
  | nil => exact List.Sublist.refl _
  | cons e ws ih =>
    obtain ⟨wid, w⟩ := e
    by_cases hn : n = 0
    · rw [hn, takers_no_entry]
      exact List.nil_sublist _
    have hle := pipesSum_le hab
    have hpipe : wid % 4 < 4 := Nat.mod_lt _ (by decide)
    have hi := hab (wid % 4)
    have hmul : regs * b (wid % 4) ≤ regs * a (wid % 4) := Nat.mul_le_mul_left _ hi
    rw [takers, takers]
    by_cases h1 : lanes wid w = 0 ∨ n = 0 ∨ s.poolFree (wid / 32) (wid % 4) < regs * a (wid % 4) + regs
    · rw [if_pos h1]
      by_cases h2 : (if test wid = true then lanes wid w else 0) = 0 ∨ m = 0 ∨ s.poolFree (wid / 32) (wid % 4) < regs * b (wid % 4) + regs
      · rw [if_pos h2]
        exact ih n m a b hab hsum
      · -- the pool that is too small for one more wave of the first list has fewer of the second
        rw [if_neg h2, used_bump]
        obtain ⟨hl, hm, hp⟩ := not_or.mp h2 |>.imp_right not_or.mp
        have hne : lanes wid w ≠ 0 := fun h => hl (by rw [h, ite_self])
        have hpool := (h1.resolve_left hne).resolve_left hn
        have hlt : b (wid % 4) < a (wid % 4) := Nat.lt_of_mul_lt_mul_left (a := regs) (by omega)
        refine (ih n (m - 1) a (bump b (wid % 4)) (fun p => ?_) (by rw [pipesSum_bump b hpipe]; omega)).cons _
        simp only [bump]
        split
        · next h => subst h; exact hlt
        · exact hab p
    · rw [if_neg h1, used_bump]
      have hbump : ∀ p, b p ≤ bump a (wid % 4) p := fun p => by
        simp only [bump]
        split
        · exact Nat.le_succ_of_le (hab p)
        · exact hab p
      cases ht : test wid with
      | false =>
        rw [List.filter_cons_of_neg (by simp [ht]), if_pos (by simp)]
        exact ih (n - 1) m (bump a (wid % 4)) b hbump (by rw [pipesSum_bump a hpipe]; omega)
      | true =>
        have h2 : ¬ (lanes wid w = 0 ∨ m = 0 ∨ s.poolFree (wid / 32) (wid % 4) < regs * b (wid % 4) + regs) := by
          intro h
          rcases h with h | h | h
          · exact h1 (.inl h)
          · omega
          · exact h1 (.inr (.inr (by omega)))
        rw [List.filter_cons_of_pos (by simp [ht])]
        simp only [if_true]
        rw [if_neg h2, used_bump]
        refine (ih (n - 1) (m - 1) _ _ (fun p => ?_) (by rw [pipesSum_bump a hpipe, pipesSum_bump b hpipe]; omega)).cons_cons _
        simp only [bump]
        split
        · exact Nat.succ_le_succ (hab p)
        · exact hab p

theorem lanesLent_le_of_sublist {xs ys : List (Nat × Lanes)} (h : xs.Sublist ys) : lanesLent xs ≤ lanesLent ys :=
  List.Sublist.sum_le_sum (h.map _) fun _ _ => Nat.zero_le _

/-! The waves of a core (R292). -/

/-- A lender's number and wave stand in the table, on the recruiter's core. -/
theorem mem_lenders {wid : Nat} {e : Nat × Wave} (h : e ∈ s.lenders wid) : e ∈ s.run.waves ∧ e.1 / 32 = wid / 32 := by
  have hr : e ∈ trange s.run.waves (wid / 32 * 32) (wid / 32 * 32 + 32) :=
    (List.mem_append.mp h).elim List.mem_of_mem_filter List.mem_of_mem_filter
  obtain ⟨hm, hk⟩ := List.mem_filter.mp hr
  simp only [Bool.and_eq_true, decide_eq_true_eq] at hk
  exact ⟨hm, by omega⟩

/-- The recruiter's wave first, then the others in ascending order, where the table is in order. -/
theorem lenders_ordered {wid : Nat} (h : (s.run.waves.map (·.1)).Pairwise (· < ·)) :
    ((s.lenders wid).map (·.1)).Pairwise fun x y => x = wid ∨ (y ≠ wid ∧ x < y) := by
  have hall : (trange s.run.waves (wid / 32 * 32) (wid / 32 * 32 + 32)).Pairwise fun x y => x.1 < y.1 :=
    (List.pairwise_map.mp h).filter _
  rw [State.lenders, List.pairwise_map]
  refine List.pairwise_append.mpr ⟨?_, ?_, fun x hx y _ => .inl (by simpa using (List.mem_filter.mp hx).2)⟩
  · refine List.pairwise_iff_forall_sublist.mpr fun {x y} hxy => .inl ?_
    have hx : x ∈ (trange s.run.waves (wid / 32 * 32) (wid / 32 * 32 + 32)).filter fun w => w.1 == wid := hxy.subset (List.mem_cons_self ..)
    simpa using (List.mem_filter.mp hx).2
  · refine (hall.filter _).imp_of_mem fun {x y} _ hy hlt => .inr ⟨?_, hlt⟩
    simpa using (List.mem_filter.mp hy).2

/-- What lends to a loan: waves of the core in R292's order, each with lanes that it may lend. -/
theorem loanWaves_ordered {blocks : Nat} {lanes : Nat → Wave → Lanes} (h : (s.run.waves.map (·.1)).Pairwise (· < ·)) :
    (s.loanWaves c blocks lanes).Pairwise fun x y => x.1 = c.pid / 4 ∨ (y.1 ≠ c.pid / 4 ∧ x.1 < y.1) :=
  List.pairwise_map.mp ((lenders_ordered h).sublist (takers_sublist ..))

theorem mem_loanWaves {blocks : Nat} {lanes : Nat → Wave → Lanes} {x : Nat × Lanes} (h : x ∈ s.loanWaves c blocks lanes) :
    x.1 / 32 = c.pid / 4 / 32 ∧ ∃ w, (x.1, w) ∈ s.run.waves ∧ x.2 = lanes x.1 w := by
  obtain ⟨w, hw, hx⟩ := mem_takers h
  obtain ⟨hm, hk⟩ := mem_lenders hw
  exact ⟨hk, w, hm, hx⟩

/-! The counts and the grant (R293). -/

/-- The lanes that refill leaves to a loan. -/
theorem freeLanes_eq (s : State) (c : Ctx) :
    s.freeLanes c = fun v w => if (s.core c.core).q0 = [] ∨ s.barrierWaits v = true then s.lendable v w else 0 := by
  funext v w
  rw [State.freeLanes]
  cases (s.core c.core).q0 with
  | nil => simp
  | cons x xs => cases s.barrierWaits v <;> simp

/-- The count n2 of R293. -/
theorem loanCounts_second (s : State) (c : Ctx) (blocks : Nat) :
    (s.loanCounts c blocks).2.1 = if (s.core c.core).q0 = [] then lanesLent (s.loanWaves c blocks s.lendable)
      else lanesLent ((s.loanWaves c blocks s.lendable).filter fun t => s.barrierWaits t.1) := by
  simp only [State.loanCounts]
  cases (s.core c.core).q0 with
  | nil => simp
  | cons x xs => simp

/-- The lanes that are granted are lent by the waves that the loan takes. -/
theorem second_le_lanesLent (s : State) (c : Ctx) (blocks : Nat) :
    (s.loanCounts c blocks).2.1 ≤ lanesLent (s.loanWaves c blocks (s.freeLanes c)) := by
  rw [loanCounts_second, freeLanes_eq]
  by_cases hq : (s.core c.core).q0 = []
  · simp only [hq, if_true, true_or, Nat.le_refl]
  · simp only [hq, if_false, false_or]
    refine lanesLent_le_of_sublist ?_
    have h := takers_filter_sublist s (8 * blocks) s.lendable s.barrierWaits (s.lenders (c.pid / 4)) (s.freeHelpers c.core).length
      (s.freeHelpers c.core).length (fun _ => 0) (fun _ => 0) (fun _ => Nat.le_refl 0) rfl
    exact h

/-- An entry of a table made from ascending numbers. -/
theorem tget_map_ascending {α : Type} (f : Nat → α) {rs : List Nat} (h : rs.Pairwise (· < ·)) {r : Nat} (hr : r ∈ rs) :
    tget (rs.map fun r => (r, f r)) r = some (f r) := by
  induction rs with
  | nil => exact nomatch hr
  | cons k rs ih =>
    obtain ⟨hk, hrs⟩ := List.pairwise_cons.mp h
    rw [List.map_cons, tget]
    rcases List.mem_cons.mp hr with rfl | hr
    · exact if_pos rfl
    · have := hk r hr
      rw [if_neg (by omega), if_neg (by omega), ih hrs hr]

/-- The snapshot holds the scalars that the recruiter reads (R64, R81). -/
theorem snapshot_read {r : Nat} (h : snapshotReg r = true) : tgetD 0 (s.snapshot c) r = s.readS c.pid c.p r := by
  have hlt : r < 128 := by
    simp only [snapshotReg, Bool.or_eq_true, Bool.and_eq_true, decide_eq_true_eq, beq_iff_eq] at h
    omega
  rw [State.snapshot, tgetD, tget_map_ascending _ (List.pairwise_lt_range.filter _) (List.mem_filter.mpr ⟨List.mem_range.mpr hlt, h⟩)]
  rfl

/-! LOAN (R81). -/

/-- Why a loan is refused; 0 where it is not (R82). -/
def Ctx.refusal (c : Ctx) (asked first last demand : Nat) : Nat :=
  if c.lanes.length ≠ 1 then 6
  else if c.p.loan.isSome then 5
  else if asked = 0 ∨ 96 < asked ∨ 16 < demand ∨ last ≤ first then 4 else 0

section Loan

variable {d a : BitVec 7} {g : BitVec 3} {y : BitVec 6}

/-- The refusal of a loan by the operands that it reads. -/
def State.loanRefusal (s : State) (c : Ctx) (a : BitVec 7) : Nat :=
  c.refusal (s.readS c.pid c.p a.toNat).toNat (s.readS c.pid c.p (a.toNat + 1)).toNat (s.readS c.pid c.p (a.toNat + 2)).toNat
    (s.readS c.pid c.p (a.toNat + 3)).toNat

theorem exec_loan_refused (h : ready (.loan d a g y) s c = true) {why : Nat} (hw : s.loanRefusal c a = why) (h0 : why ≠ 0) :
    exec (.loan d a g y) s = .next (((s.writeS c.pid d.toNat 0).onPath c.pid fun p =>
      { p with flags := setFlag p.flags g true, loanst := loanstOf 0 (s.readS c.pid c.p a.toNat).toNat why 0 0 }).retire c c.nextPc none) := by
  subst hw
  rw [exec_loan, execLoan]
  exact issue_done h (if_pos h0)

/-- The loan that a grant opens, its counter at the first iteration (R81). -/
def State.newLoan (s : State) (c : Ctx) (a : BitVec 7) (y : BitVec 6) : Loan :=
  { lane := c.lanes.headD 0, next := (s.readS c.pid c.p (a.toNat + 1)).toNat, last := (s.readS c.pid c.p (a.toNat + 2)).toNat, pool := [],
    snapshot := s.snapshot c, entry := c.target (widened c.pfx 6 y.toNat), demand := (s.readS c.pid c.p (a.toNat + 3)).toNat, repays := [],
    current := none, held := [], closing := false, dropped := 0 }

theorem exec_loan_granted (h : ready (.loan d a g y) s c = true) (hw : s.loanRefusal c a = 0) :
    let asked := (s.readS c.pid c.p a.toNat).toNat
    let blocks := ((s.readS c.pid c.p (a.toNat + 3)).toNat + 7) / 8
    let gr := grantOf asked (s.loanCounts c blocks)
    exec (.loan d a g y) s = .next
      ((((s.writeS c.pid d.toNat (BitVec.ofNat 32 gr.1)).onPath c.pid fun p =>
        { p with flags := setFlag p.flags g (decide (gr.1 < asked)), loan := some (s.newLoan c a y), loanst := loanstOf gr.1 asked gr.2 0 1 }).startHelpers
          c (s.newLoan c a y).entry blocks (s.loanWaves c blocks (s.freeLanes c)) (s.freeHelpers c.core) gr.1).retire c c.nextPc none) := by
  intro asked blocks gr
  rw [exec_loan, execLoan]
  exact issue_done h (if_neg (not_not_intro hw))

end Loan

/-- Why a grant falls short of what was asked (R293). -/
theorem grantOf_reason (asked n1 n2 n3 : Nat) :
    let r := grantOf asked (n1, n2, n3)
    r.1 = min asked (min n2 n3) ∧ (r.1 = asked → r.2 = 0) ∧ (r.1 ≠ asked → n3 < n2 → r.2 = 3)
      ∧ (r.1 ≠ asked → n2 ≤ n3 → n2 = n1 → r.2 = 1) ∧ (r.1 ≠ asked → n2 ≤ n3 → n2 ≠ n1 → r.2 = 2) := by
  intro r
  refine ⟨rfl, fun h => if_pos h, fun h h3 => ?_, fun h h3 h1 => ?_, fun h h3 h1 => ?_⟩
  · exact (if_neg h).trans (if_pos h3)
  · exact (if_neg h).trans ((if_neg (Nat.not_lt.mpr h3)).trans (if_pos h1))
  · exact (if_neg h).trans ((if_neg (Nat.not_lt.mpr h3)).trans (if_neg h1))

theorem lowestLane_of_lanes {m : Lanes} (h : (lanesOf m).length ≠ 0) : lowestLane m = some ((lanesOf m).headD 0) := by
  rw [lowestLane]
  cases hl : lanesOf m with
  | nil => simp [hl] at h
  | cons x xs => rfl

/-- Settles O17: a refusal in R81's order, or the grant of R293's counts. -/
theorem loanRequests : Obligations.LoanRequests := by
  unfold Obligations.LoanRequests
  intro s c d a g y h asked first last demand refused
  refine ⟨fun h1 => ?_, fun h1 h2 => ?_, fun h1 h2 h3 => ?_, ?_⟩
  · exact exec_loan_refused h (if_pos h1) (by decide)
  · exact exec_loan_refused h ((if_neg (not_not_intro h1)).trans (if_pos h2)) (by decide)
  · exact exec_loan_refused h ((if_neg (not_not_intro h1)).trans ((if_neg (by simp [h2])).trans (if_pos h3))) (by decide)
  · intro h1 h2 h3 blocks able n1 n2 n3 ws
    have hw : s.loanRefusal c a = 0 := (if_neg (not_not_intro h1)).trans ((if_neg (by simp [h2])).trans (if_neg h3))
    have hws : s.loanWaves c blocks (s.freeLanes c) = ws := by rw [freeLanes_eq]
    have hn2 : (s.loanCounts c blocks).2.1 = n2 := loanCounts_second ..
    have hexec := exec_loan_granted h hw
    obtain ⟨hg, hr0, hr3, hr1, hr2⟩ := grantOf_reason asked n1 n2 n3
    have hcounts : s.loanCounts c blocks = (n1, n2, n3) := by rw [← hn2]; rfl
    have hlent : n2 ≤ lanesLent ws := by rw [← hn2, ← hws]; exact second_le_lanesLent ..
    refine ⟨(grantOf asked (n1, n2, n3)).1, (grantOf asked (n1, n2, n3)).2, s.newLoan c a y, hg, hr0, hr3, hr1, hr2, ?_,
      takers_length .., takers_sublist .., loanWaves_ordered, ?_, rfl, rfl, rfl, rfl, ?_, rfl, fun x hx => ?_, fun r hr => snapshot_read hr, ?_⟩
    · rw [hg]; omega
    · exact lowestLane_of_lanes (by omega)
    · exact ready_target h (by decide : (1 : Nat) ≤ 2) y
    · obtain ⟨hk, w, hw, hx⟩ := mem_loanWaves hx
      refine ⟨hk, w, hw, ?_⟩
      rw [hx]
      split
      · exact BitVec.and_not_self _
      · exact BitVec.zero_and
    · rw [← hcounts, ← hws]
      exact hexec

end Sys2Proof.Machine
end

section
/-! PROOF. The iterations of a loan and its repay registers (O18). -/
namespace Sys2Proof.Machine

variable {s : State} {c : Ctx}

/-! What ldone writes to a repay register (R85). -/

/-- The result of a choice among values is one of them, and lies below each of them in an order in which a choice lies below both. -/
theorem foldl_choice {α : Type} {f : α → α → α} {R : α → α → Prop} (hf : ∀ x y, f x y = x ∨ f x y = y) (hl : ∀ x y, R (f x y) x)
    (hr : ∀ x y, R (f x y) y) (hrefl : ∀ x, R x x) (htrans : ∀ {x y z}, R x y → R y z → R x z) (vs : List α) (old : α) :
    vs.foldl f old ∈ old :: vs ∧ ∀ x ∈ old :: vs, R (vs.foldl f old) x := by
  induction vs generalizing old with
  | nil => exact ⟨List.mem_singleton_self _, fun x hx => List.mem_singleton.mp hx ▸ hrefl _⟩
  | cons v vs ih =>
    obtain ⟨hmem, hall⟩ := ih (f old v)
    have hstep := hall _ (List.mem_cons_self ..)
    refine ⟨?_, fun x hx => ?_⟩
    · rcases List.mem_cons.mp hmem with h | h
      · rw [List.foldl_cons, h]
        rcases hf old v with e | e <;> simp [e]
      · exact List.mem_cons_of_mem _ (List.mem_cons_of_mem _ h)
    · rcases List.mem_cons.mp hx with rfl | hx
      · exact htrans hstep (hl _ _)
      · rcases List.mem_cons.mp hx with rfl | hx
        · exact htrans hstep (hr _ _)
        · exact hall x (List.mem_cons_of_mem _ hx)

/-- One of two values, written as a number. -/
theorem ofNat_ite (p : Prop) [Decidable p] (x y : Word) : BitVec.ofNat 32 (if p then x.toNat else y.toNat) = if p then x else y := by
  split <;> exact ofNat_toNat_self _

section Choice

variable {f : Word → Word → Word} (κ : Word → Int) (vs : List Word) (old : Word)

/-- A choice of the value with the lower key, folded. -/
theorem foldl_least (hf : ∀ x y, f x y = if κ x ≤ κ y then x else y) :
    vs.foldl f old ∈ old :: vs ∧ ∀ x ∈ old :: vs, κ (vs.foldl f old) ≤ κ x := by
  refine foldl_choice (R := fun x y => κ x ≤ κ y) (fun x y => ?_) (fun x y => ?_) (fun x y => ?_) (fun _ => Int.le_refl _) Int.le_trans vs old
  all_goals rw [hf]; split
  · exact .inl rfl
  · exact .inr rfl
  · exact Int.le_refl _
  · next h => exact Int.le_of_lt (Int.not_le.mp h)
  · next h => exact h
  · exact Int.le_refl _

/-- A choice of the value with the higher key, folded. -/
theorem foldl_greatest (hf : ∀ x y, f x y = if κ x ≤ κ y then y else x) :
    vs.foldl f old ∈ old :: vs ∧ ∀ x ∈ old :: vs, κ x ≤ κ (vs.foldl f old) := by
  refine foldl_choice (R := fun x y => κ y ≤ κ x) (fun x y => ?_) (fun x y => ?_) (fun x y => ?_) (fun _ => Int.le_refl _)
    (fun h g => Int.le_trans g h) vs old
  all_goals rw [hf]; split
  · exact .inr rfl
  · exact .inl rfl
  · next h => exact h
  · exact Int.le_refl _
  · exact Int.le_refl _
  · next h => exact Int.le_of_lt (Int.not_le.mp h)

end Choice

theorem repay_least (reg : Nat) (vs : List Word) (old : Word) :
    ((Repay.result ⟨reg, .min, .i32, vs⟩ old).1 ∈ old :: vs
      ∧ ∀ x ∈ old :: vs, (Repay.result ⟨reg, .min, .i32, vs⟩ old).1.toInt ≤ x.toInt)
    ∧ ((Repay.result ⟨reg, .min, .n32, vs⟩ old).1 ∈ old :: vs
      ∧ ∀ x ∈ old :: vs, ((Repay.result ⟨reg, .min, .n32, vs⟩ old).1.toNat : Int) ≤ x.toNat) := by
  refine ⟨foldl_least BitVec.toInt vs old fun x y => ofNat_ite _ x y, foldl_least (fun x => x.toNat) vs old fun x y => ?_⟩
  simp only [Int.ofNat_le, ← ofNat_ite, Nat.min_def]

theorem repay_greatest (reg : Nat) (vs : List Word) (old : Word) :
    ((Repay.result ⟨reg, .max, .i32, vs⟩ old).1 ∈ old :: vs
      ∧ ∀ x ∈ old :: vs, x.toInt ≤ (Repay.result ⟨reg, .max, .i32, vs⟩ old).1.toInt)
    ∧ ((Repay.result ⟨reg, .max, .n32, vs⟩ old).1 ∈ old :: vs
      ∧ ∀ x ∈ old :: vs, (x.toNat : Int) ≤ (Repay.result ⟨reg, .max, .n32, vs⟩ old).1.toNat) := by
  refine ⟨foldl_greatest BitVec.toInt vs old fun x y => ofNat_ite _ y x, foldl_greatest (fun x => x.toNat) vs old fun x y => ?_⟩
  simp only [Int.ofNat_le, ← ofNat_ite, Nat.max_def]

theorem repay_sum (reg : Nat) (vs : List Word) (old : Word) (ty : RepayTy) (h : ty ≠ .f32) :
    (Repay.result ⟨reg, .add, ty, vs⟩ old).1 = BitVec.ofNat 32 ((old :: vs).map (·.toNat)).sum := by
  have hr : (Repay.result ⟨reg, .add, ty, vs⟩ old).1 = (old :: vs).foldl (· + ·) 0 := congrArg Prod.fst (if_neg h)
  rw [hr, foldl_add, show (0 : Word).toNat = 0 from rfl, Nat.zero_add]

/-! Iterations (R83). -/

/-- An iteration handed out comes from the returned ones, lowest first, and else from the counter. -/
theorem loanTake_from {l l' : Loan} {i : Nat} (h : l.take = some (i, l')) :
    (l.pool = [] → i = l.next ∧ l.next < l.last ∧ l' = { l with next := l.next + 1 })
      ∧ (∀ k ks, l.pool = k :: ks → i = k ∧ l' = { l with pool := ks }) := by
  refine ⟨fun hp => ?_, fun k ks hp => ?_⟩
  · simp only [Loan.take, hp] at h
    split at h
    · next hlt =>
      obtain ⟨rfl, rfl⟩ := Prod.mk.inj (Option.some.inj h)
      exact ⟨rfl, hlt, by rw [hp]⟩
    · exact nomatch h
  · simp only [Loan.take, hp] at h
    obtain ⟨rfl, rfl⟩ := Prod.mk.inj (Option.some.inj h)
    exact ⟨rfl, rfl⟩

/-- The end of an instruction that may have taken a helper path's last lane. -/
theorem conclude_helperDone (i : Instr) (c : Ctx) (u s : State) :
    conclude i c (helperDone c u) s =
      if c.helper && ((u.reapHelper c.pid).helper c.pid).isNone then (u.reapHelper c.pid).unstep c.pid
      else (u.reapHelper c.pid).retire c c.nextPc none := by
  rw [helperDone]
  split <;> rfl

section Lnext

variable {d : BitVec 7} {g : BitVec 3}

/-- A count and a flag given to a path. -/
def State.give (u : State) (c : Ctx) (d : BitVec 7) (g : BitVec 3) (n : Nat) (f : Bool) : State :=
  (u.writeS c.pid d.toNat (BitVec.ofNat 32 n)).onPath c.pid fun p => { p with flags := setFlag p.flags g f }

theorem exec_lnext_noLoan (h : ready (.lnext d g) s c = true) (hh : s.helper c.pid = none) (hl : c.p.loan = none) :
    exec (.lnext d g) s = .next ((s.give c d g 0 false).retire c c.nextPc none) :=
  issue_done h (by simp only [entered_lnext, hh, hl]; rfl)

theorem exec_lnext_taken {i : Nat} {l : Loan} (h : ready (.lnext d g) s c = true) (hh : s.helper c.pid = none) (hl : c.p.loan.isSome = true)
    (ht : (((s.commitOwn c.pid).path c.pid).bind (·.loan)).bind Loan.take = some (i, l)) :
    exec (.lnext d g) s = .next
      ((((State.give ((s.commitOwn c.pid).onPath c.pid fun p => { p with loan := some { l with current := some i } }) c d g i true).countDropped
        c.pid)).retire c c.nextPc none) := by
  obtain ⟨ln, hln⟩ := Option.isSome_iff_exists.mp hl
  exact issue_done h (by simp only [entered_lnext, hh, hln, ht]; rfl)

theorem exec_lnext_none (h : ready (.lnext d g) s c = true) (hh : s.helper c.pid = none) (hl : c.p.loan.isSome = true)
    (ht : (((s.commitOwn c.pid).path c.pid).bind (·.loan)).bind Loan.take = none) :
    exec (.lnext d g) s = .next
      (if (s.commitOwn c.pid).helpersHold c.pid then (s.commitOwn c.pid).waitAt c.pid true .loan
       else (((s.commitOwn c.pid).give c d g 0 false).countDropped c.pid).retire c c.nextPc none) := by
  obtain ⟨ln, hln⟩ := Option.isSome_iff_exists.mp hl
  rw [exec_lnext, execLnext, issue_of_ready _ h, entered_lnext]
  simp only [hh, hln, ht]
  split <;> rfl

theorem exec_lnext_helper {hp : Helper} (h : ready (.lnext d g) s c = true) (hh : s.helper c.pid = some hp) (hl : s.pendingLoad c.pid = none) :
    let u := (s.commitLanes c.pid c.lanes).serveLanes c.pid hp.recruiter c.lanes
    let served := u.servedLanes c.pid c.lanes
    let v := ((u.give c d g served.length (!served.isEmpty)).releaseLanes c.pid 0 (c.lanes.filter fun l => !served.contains l)).reapHelper c.pid
    exec (.lnext d g) s = .next (if c.helper && (v.helper c.pid).isNone then v.unstep c.pid else v.retire c c.nextPc none) := by
  intro u served v
  rw [exec_lnext, execLnext, issue_of_ready _ h, entered_lnext]
  simp only [hh, hl]
  exact congrArg _ (conclude_helperDone ..)

end Lnext

/-! Contributions (R84). -/

theorem lanesOf_eq_nil {m : Lanes} : lanesOf m = [] ↔ m = 0 := by
  refine ⟨fun h => ?_, fun h => by rw [h]; decide⟩
  apply BitVec.eq_of_getLsbD_eq
  intro j hj
  have := List.filter_eq_nil_iff.mp h j (List.mem_range.mpr hj)
  simpa using this

theorem lanes_isEmpty (c : Ctx) : c.lanes.isEmpty = (c.p.mask == 0) := by
  rw [Bool.eq_iff_iff, List.isEmpty_iff, beq_iff_eq]
  exact lanesOf_eq_nil

theorem useReg_held (l : Loan) (reg : Nat) (r : RedOp) (ty : RepayTy) : (l.useReg reg r ty).held = l.held := by
  rw [Loan.useReg]
  split <;> rfl

/-- A repay that fits finds its register in use with its operation and type. -/
theorem useReg_mem {l : Loan} {reg : Nat} {r : RedOp} {ty : RepayTy} (h : l.fits reg r ty = true) :
    ∃ x ∈ (l.useReg reg r ty).repays, x.reg = reg ∧ x.red = r ∧ x.ty = ty := by
  rw [Loan.fits] at h
  cases hf : l.repays.find? fun x => x.reg == reg with
  | some x =>
    have hmem := List.mem_of_find?_eq_some hf
    have hreg : (x.reg == reg) = true := by simpa using List.find?_some hf
    simp only [hf, Bool.and_eq_true, beq_iff_eq] at h
    refine ⟨x, ?_, by simpa using hreg, h.1, h.2⟩
    rw [Loan.useReg, if_pos (List.any_eq_true.mpr ⟨x, hmem, hreg⟩)]
    exact hmem
  | none =>
    have hany : ¬ (l.repays.any fun x => x.reg == reg) = true := fun ha => by
      obtain ⟨x, hx, hr⟩ := List.any_eq_true.mp ha
      exact List.find?_eq_none.mp hf x hx hr
    refine ⟨⟨reg, r, ty, []⟩, ?_, rfl, rfl, rfl⟩
    rw [Loan.useReg, if_neg hany]
    exact List.mem_append_right _ (List.mem_singleton_self _)

section RepayForm

variable {d a : BitVec 7} {r : RedOp} {ty : RepayTy}

/-- The path for which a path repays: its recruiter, or itself. -/
def State.repayFor (s : State) (c : Ctx) : Nat := match s.helper c.pid with | some h => h.recruiter | none => c.pid

theorem exec_repay_unlawful (h : ready (.repay d a r ty) s c = true)
    (hl : (s.path (s.repayFor c)).bind (·.loan) = none ∨ ∃ l, (s.path (s.repayFor c)).bind (·.loan) = some l ∧ l.fits d.toNat r ty = false) :
    exec (.repay d a r ty) s = .next ((s.takeTrap c.pid 0x01 c.first (BitVec.ofNat 64 c.word) none).unstep c.pid) := by
  refine issue_outOfContext h ?_
  rw [entered_repay]
  change (match (s.path (s.repayFor c)).bind (·.loan) with | none => Fate.outOfContext | some l => _) = _
  rcases hl with hl | ⟨l, hl, hf⟩
  · rw [hl]
  · rw [hl]
    exact if_pos (by rw [hf]; rfl)

theorem exec_repay_idle {l : Loan} (h : ready (.repay d a r ty) s c = true) (hl : (s.path (s.repayFor c)).bind (·.loan) = some l)
    (hf : l.fits d.toNat r ty = true) (hm : c.p.mask = 0) : exec (.repay d a r ty) s = .next (s.retire c c.nextPc none) := by
  refine issue_done h ?_
  rw [entered_repay]
  change (match (s.path (s.repayFor c)).bind (·.loan) with | none => Fate.outOfContext | some l => _) = _
  rw [hl]
  exact (if_neg (by simp [hf])).trans (if_pos (by rw [lanes_isEmpty, hm]; rfl))

/-- The state with a repay register in use in its loan. -/
def State.repayOpened (s : State) (c : Ctx) (m : Loan) : State :=
  s.onPath (s.repayFor c) fun p => { p with
    loan := some m, loanst := (p.loanst &&& ~~~0xF0#32) ||| BitVec.ofNat 32 (m.repays.length * 16) }

theorem exec_repay_ready {l : Loan} (h : ready (.repay d a r ty) s c = true) (hl : (s.path (s.repayFor c)).bind (·.loan) = some l)
    (hf : l.fits d.toNat r ty = true) (hm : c.p.mask ≠ 0) :
    let m := l.useReg d.toNat r ty
    let values := c.lanes.map fun x => (x, s.readV c.pid a.toNat x)
    exec (.repay d a r ty) s = .next (conclude (.repay d a r ty) c
      (if c.helper then helperDone c ((s.repayOpened c m).holdRepays c.pid d.toNat values)
       else .done ((s.repayOpened c m).onPath c.pid fun p =>
        { p with loan := some { m with held := m.held ++ values.map fun v => .repay d.toNat v.2 } })) s) := by
  intro m values
  rw [exec_repay, execRepay, issue_of_ready _ h, entered_repay]
  refine congrArg (fun x => Host.Outcome.next (conclude (.repay d a r ty) c x s)) ?_
  change (match (s.path (s.repayFor c)).bind (·.loan) with | none => Fate.outOfContext | some l => _) = _
  rw [hl]
  exact (if_neg (by simp [hf])).trans (if_neg (by rw [lanes_isEmpty]; simpa using hm))

/-- A recruiter's contributions are held with its iteration. -/
theorem exec_repay_recruiter {l : Loan} (h : ready (.repay d a r ty) s c = true) (hc : c.helper = false) (hh : s.helper c.pid = none)
    (hl : c.p.loan = some l) (hf : l.fits d.toNat r ty = true) (hm : c.p.mask ≠ 0) :
    ∃ (t : State) (q : Path) (ln : Loan), exec (.repay d a r ty) s = .next (t.retire c c.nextPc none) ∧ t.path c.pid = some q ∧ q.loan = some ln
      ∧ ln.held = l.held ++ (lanesOf c.p.mask).map (fun x => .repay d.toNat (s.readV c.pid a.toNat x))
      ∧ (∃ x ∈ ln.repays, x.reg = d.toNat ∧ x.red = r ∧ x.ty = ty)
      ∧ t.run.vregs = s.run.vregs ∧ t.run.sregs = s.run.sregs ∧ t.mem = s.mem := by
  obtain ⟨hp, _⟩ := ready_path h
  have hfor : s.repayFor c = c.pid := by rw [State.repayFor, hh]
  have hexec := exec_repay_ready h (by rw [hfor, hp]; exact hl) hf hm
  rw [hc] at hexec
  have hpath (ln : Loan) : (((s.repayOpened c (l.useReg d.toNat r ty)).onPath c.pid fun p => { p with loan := some ln }).path c.pid).map (·.loan)
      = some (some ln) := by
    rw [State.onPath_path_same, State.repayOpened, hfor, State.onPath_path_same, hp]
    rfl
  obtain ⟨q, hq, hql⟩ := Option.map_eq_some_iff.mp (hpath _)
  refine ⟨_, q, _, hexec, hq, hql, ?_, useReg_mem hf, ?_, ?_, ?_⟩
  · rw [useReg_held, List.map_map]
    rfl
  all_goals simp [State.repayOpened]

end RepayForm

/-! The end of a loan (R85). -/

theorem vkey_inj {o o' n n' k k' : Nat} (hn : n < 128) (hn' : n' < 128) (hk : k < 96) (hk' : k' < 96)
    (h : vkey o n k = vkey o' n' k') : o = o' ∧ n = n' ∧ k = k' := by
  simp only [vkey] at h
  omega

/-- Values written to one lane of several vector registers. -/
theorem foldl_writeV (pid lane : Nat) (xs : List (Nat × Word × Events)) (t : State) :
    xs.foldl (fun t x => t.writeV pid x.1 lane x.2.1) t =
      { t with run := { t.run with vregs := tsets t.run.vregs (xs.map fun x => (vkey (ownerOf pid) x.1 lane, x.2.1)) } } := by
  induction xs generalizing t with
  | nil => rfl
  | cons x xs ih => rw [List.foldl_cons, ih]; rfl

/-- The results of a loan's repay registers, by register, with their events. -/
def State.repayResults (s : State) (c : Ctx) (m : Loan) : List (Nat × Word × Events) :=
  m.repays.map fun x => (x.reg, x.result (s.readV c.pid x.reg m.lane))

/-- The state with the results written and the loan ended, before its events are counted. -/
def State.loanEnded (s : State) (c : Ctx) (m : Loan) : State :=
  ((s.repayResults c m).foldl (fun t x => t.writeV c.pid x.1 m.lane x.2.1) s).onPath c.pid fun p =>
    { p with loan := none, loanst := p.loanst &&& ~~~loanstAct }

theorem loanEnded_vregs (s : State) (c : Ctx) (m : Loan) :
    (s.loanEnded c m).run.vregs = tsets s.run.vregs ((s.repayResults c m).map fun x => (vkey c.owner x.1 m.lane, x.2.1)) := by
  rw [State.loanEnded, State.onPath_run_vregs, foldl_writeV]
  rfl

/-- Counting a path's events writes no register and no memory, and makes at most a trap due. -/
theorem countFor_frame (s : State) (pid : Nat) (n : Nat → Nat) :
    (s.countFor pid n).run.vregs = s.run.vregs ∧ (s.countFor pid n).run.sregs = s.run.sregs ∧ (s.countFor pid n).mem = s.mem
      ∧ ∀ p, s.path pid = some p → ∃ q, (s.countFor pid n).path pid = some q ∧ q.loan = p.loan ∧ q.loanst = p.loanst := by
  have hev : (s.countEvents (coreOf pid) n).1.run = s.run ∧ (s.countEvents (coreOf pid) n).1.mem = s.mem := by
    unfold State.countEvents
    split <;> exact ⟨rfl, rfl⟩
  obtain ⟨hrun, hmem⟩ := hev
  have hpath (p : Path) (hp : s.path pid = some p) : (s.countEvents (coreOf pid) n).1.path pid = some p := by rw [State.path, hrun]; exact hp
  unfold State.countFor
  split
  · exact ⟨rfl, rfl, rfl, fun p hp => ⟨p, hp, rfl, rfl⟩⟩
  · dsimp only
    split
    · exact ⟨by rw [hrun], by rw [hrun], hmem, fun p hp => ⟨p, hpath p hp, rfl, rfl⟩⟩
    · refine ⟨?_, ?_, ?_, fun p hp => ?_⟩
      · simp [State.addDue, hrun]
      · simp [State.addDue, hrun]
      · simp [State.addDue, hmem]
      · have hq := State.onPath_path_same (s := (s.countEvents (coreOf pid) n).1) pid fun p =>
          { p with due := dueInsert p.due ⟨5, 0x0C, (s.countEvents (coreOf pid) n).2.zeroExtend 64, none, s.clk⟩ }
        rw [hpath p hp, Option.map_some] at hq
        exact ⟨_, hq, rfl, rfl⟩

theorem readV_own {pid r l : Nat} (h : isHelper pid = false) : s.readV pid r l = tgetD 0 s.run.vregs (vkey (ownerOf pid) r l) := by
  rw [State.readV, h]
  rfl

/-- A repay register's lane of the recruiter takes its result. -/
theorem loanEnded_result {m : Loan} (hlane : m.lane < 96) (hreg : ∀ x ∈ m.repays, x.reg < 112) (hnd : (m.repays.map (·.reg)).Nodup)
    {x : Repay} (hx : x ∈ m.repays) :
    tgetD 0 (s.loanEnded c m).run.vregs (vkey c.owner x.reg m.lane) = (x.result (s.readV c.pid x.reg m.lane)).1 := by
  have hwide (y : Repay) (hy : y ∈ m.repays) : y.reg < 128 := Nat.lt_trans (hreg y hy) (by decide)
  rw [tgetD, loanEnded_vregs, tget_tsets_of_mem, Option.getD_some]
  · exact List.mem_map.mpr ⟨_, List.mem_map_of_mem hx, rfl⟩
  · intro e he hk
    obtain ⟨_, hr, rfl⟩ := List.mem_map.mp he
    obtain ⟨y, hy, rfl⟩ := List.mem_map.mp hr
    obtain ⟨_, hxy, _⟩ := vkey_inj (hwide y hy) (hwide x hx) hlane hlane hk
    rw [List.inj_on_of_nodup_map hnd hy hx hxy]

/-- Every other lane of a vector register is as it was. -/
theorem loanEnded_other {m : Loan} {owner n k : Nat} (hlane : m.lane < 96) (hreg : ∀ x ∈ m.repays, x.reg < 112) (hn : n < 128) (hk : k < 96)
    (h : owner ≠ c.owner ∨ k ≠ m.lane ∨ n ∉ m.repays.map (·.reg)) :
    tgetD 0 (s.loanEnded c m).run.vregs (vkey owner n k) = tgetD 0 s.run.vregs (vkey owner n k) := by
  rw [tgetD, loanEnded_vregs, tget_tsets_of_not_mem, tgetD]
  intro e he hkey
  obtain ⟨_, hr, rfl⟩ := List.mem_map.mp he
  obtain ⟨y, hy, rfl⟩ := List.mem_map.mp hr
  obtain ⟨ho, hyn, hlk⟩ := vkey_inj (Nat.lt_trans (hreg y hy) (by decide)) hn hlane hk hkey
  rcases h with h | h | h
  · exact h ho.symm
  · exact h hlk.symm
  · exact h (hyn ▸ List.mem_map_of_mem hy)

/-- The end of a loan writes vector registers and its recruiter's path. -/
theorem loanEnded_frame {m : Loan} {p : Path} (hp : s.path c.pid = some p) :
    (s.loanEnded c m).run.sregs = s.run.sregs ∧ (s.loanEnded c m).mem = s.mem
      ∧ (s.loanEnded c m).path c.pid = some { p with loan := none, loanst := p.loanst &&& ~~~loanstAct } := by
  rw [State.loanEnded, foldl_writeV]
  refine ⟨by simp, by simp, ?_⟩
  rw [State.onPath_path_same]
  exact congrArg (Option.map _) hp

/-- The state in which ldone looks for what its loan still waits for. -/
def State.loanClosing (s : State) (c : Ctx) (l : Loan) : State := s.onPath c.pid fun p => { p with loan := some { l with closing := true } }

section Ldone

variable {l : Loan}

/-- The load that will still write a repay register of a loan. -/
def State.repayPending (s : State) (c : Ctx) (l : Loan) : Option Nat :=
  s.registersPending c.owner ⟨l.repays.map fun x => (x.reg, 1), [], [], []⟩

theorem exec_ldone_noLoan (h : ready .ldone s c = true) (hl : c.p.loan = none) : exec .ldone s = .next (s.retire c c.nextPc none) :=
  issue_done h (by simp only [entered_ldone, hl])

theorem exec_ldone_pending {pc : Nat} (h : ready .ldone s c = true) (hl : c.p.loan = some l) (hpend : s.repayPending c l = some pc) :
    exec .ldone s = .next ((s.loanClosing c l).waitAt c.pid true (.register pc)) := by
  rw [State.repayPending] at hpend
  exact issue_wait h (by simp only [entered_ldone, hl, hpend]; rfl)

theorem exec_ldone_busy (h : ready .ldone s c = true) (hl : c.p.loan = some l) (hpend : s.repayPending c l = none)
    (hb : s.loanBusy c.pid = true) : exec .ldone s = .next ((s.loanClosing c l).waitAt c.pid true .loan) := by
  rw [State.repayPending] at hpend
  exact issue_wait h (by simp only [entered_ldone, hl, hpend, hb]; rfl)

/-- What the recruiter's last iteration holds is committed first, and its stores are waited for. -/
theorem exec_ldone_committing (h : ready .ldone s c = true) (hl : c.p.loan = some l) (hpend : s.repayPending c l = none)
    (hb : s.loanBusy c.pid = false) (hv : ((s.loanClosing c l).commitOwn c.pid).loanBusy c.pid = true) :
    exec .ldone s = .next (((s.loanClosing c l).commitOwn c.pid).waitAt c.pid true .loan) := by
  rw [State.repayPending] at hpend
  refine issue_wait h ?_
  simp only [entered_ldone, hl, hpend, hb]
  exact if_pos hv

/-- The events that the end of a loan counts: those of its results, and its dropped contributions. -/
def State.loanEndEvents (s : State) (c : Ctx) (m : Loan) (k : Nat) : Nat :=
  laneCount ((s.repayResults c m).map (·.2.2)) k + dropEvents (s.droppedOf c.pid) k

theorem exec_ldone_ends {m : Loan} {p : Path} (h : ready .ldone s c = true) (hl : c.p.loan = some l) (hpend : s.repayPending c l = none)
    (hb : s.loanBusy c.pid = false) (hv : ((s.loanClosing c l).commitOwn c.pid).loanBusy c.pid = false)
    (hp : ((s.loanClosing c l).commitOwn c.pid).path c.pid = some p) (hm : p.loan = some m) :
    let v := (s.loanClosing c l).commitOwn c.pid
    exec .ldone s = .next (((v.loanEnded c m).countFor c.pid (v.loanEndEvents c m)).retire c c.nextPc none) := by
  rw [State.repayPending] at hpend
  refine issue_done h ?_
  simp only [entered_ldone, hl, hpend, hb]
  rw [State.loanClosing] at hv hp
  refine (if_neg Bool.false_ne_true).trans ((if_neg (by rw [hv]; decide)).trans ?_)
  rw [hp, Option.bind_some, hm]
  rfl

/-- A recruiter that holds nothing commits nothing but the end of its iteration. -/
theorem commitOwn_idle {p : Path} (hp : s.path c.pid = some p) (hl : p.loan = some l) (hheld : l.held = []) :
    s.commitOwn c.pid = (s.onPath c.pid fun p => { p with loan := some { l with current := none, held := [] } }).onPath c.pid fun p =>
      { p with loan := p.loan.map fun l => { l with dropped := l.dropped + 0 } } := by
  rw [State.commitOwn, hp, Option.bind_some, hl]
  simp only [hheld, State.commitHeld]

/-- A loan whose recruiter holds nothing stays as it is while it closes, but for its iteration. -/
theorem closing_idle (h : ready .ldone s c = true) (hheld : l.held = []) :
    let v := (s.loanClosing c l).commitOwn c.pid
    (v.path c.pid).bind (·.loan) = some { l with closing := true, current := none } ∧ v.mem = s.mem
      ∧ v.run.vregs = s.run.vregs ∧ v.run.sregs = s.run.sregs ∧ v.loanBusy c.pid = s.loanBusy c.pid := by
  intro v
  obtain ⟨hp, _⟩ := ready_path h
  have hclosing : (s.loanClosing c l).path c.pid = some { c.p with loan := some { l with closing := true } } := by
    rw [State.loanClosing, State.onPath_path_same, hp, Option.map_some]
  have hv : v = _ := commitOwn_idle hclosing rfl hheld
  rw [hv]
  refine ⟨?_, ?_, ?_, ?_, ?_⟩
  · rw [State.onPath_path_same, State.onPath_path_same, hclosing, Option.map_some, Option.map_some, Option.bind_some, ← hheld]
    rfl
  all_goals simp [State.loanClosing, State.loanBusy, State.helpersWhere]

/-- A loan that waits for nothing ends with its results written. -/
theorem ldone_writes {m : Loan} {p : Path} (h : ready .ldone s c = true) (hl : c.p.loan = some l) (hpend : s.repayPending c l = none)
    (hb : s.loanBusy c.pid = false) (hv : ((s.loanClosing c l).commitOwn c.pid).loanBusy c.pid = false)
    (hp : ((s.loanClosing c l).commitOwn c.pid).path c.pid = some p) (hm : p.loan = some m) (hlane : m.lane < 96)
    (hreg : ∀ x ∈ m.repays, x.reg < 112) (hnd : (m.repays.map (·.reg)).Nodup) :
    let v := (s.loanClosing c l).commitOwn c.pid
    ∃ (t : State) (q : Path), exec .ldone s = .next (t.retire c c.nextPc none) ∧ t.path c.pid = some q ∧ q.loan = none
      ∧ q.loanst = p.loanst &&& ~~~1#32 ∧ t.mem = v.mem ∧ t.run.sregs = v.run.sregs
      ∧ (∀ x ∈ m.repays, t.readV c.pid x.reg m.lane = (x.result (v.readV c.pid x.reg m.lane)).1)
      ∧ (∀ owner n k, n < 128 → k < 96 → (owner ≠ c.owner ∨ k ≠ m.lane ∨ n ∉ m.repays.map (·.reg)) →
          tgetD 0 t.run.vregs (vkey owner n k) = tgetD 0 v.run.vregs (vkey owner n k)) := by
  intro v
  have hown : isHelper c.pid = false := ready_not_helper h rfl
  obtain ⟨hs, hmem, hpath⟩ := loanEnded_frame (m := m) hp
  obtain ⟨hcv, hcs, hcm, hcp⟩ := countFor_frame (v.loanEnded c m) c.pid (v.loanEndEvents c m)
  obtain ⟨q, hq, hql, hqs⟩ := hcp _ hpath
  refine ⟨_, q, exec_ldone_ends h hl hpend hb hv hp hm, hq, hql, hqs, hcm.trans hmem, hcs.trans hs, fun x hx => ?_, fun owner n k hn hk hother => ?_⟩
  · rw [readV_own hown, hcv]
    exact loanEnded_result hlane hreg hnd hx
  · rw [hcv]
    exact loanEnded_other hlane hreg hn hk hother

/-- A loan with a helper is not over. -/
theorem loanBusy_of_helpers {pid : Nat} (h : (s.helpersWhere fun h => h.recruiter == pid) ≠ []) : s.loanBusy pid = true := by
  rw [State.loanBusy, Bool.or_eq_true, Bool.not_eq_true', List.isEmpty_eq_false_iff]
  exact .inl h

end Ldone

/-- A lane of a helper that repays waits in escrow for its iteration's end. -/
theorem exec_repay_helper {d a : BitVec 7} {r : RedOp} {ty : RepayTy} {hp : Helper} {l : Loan} (h : ready (.repay d a r ty) s c = true)
    (hc : c.helper = true) (hh : s.helper c.pid = some hp) (hl : (s.path hp.recruiter).bind (·.loan) = some l)
    (hf : l.fits d.toNat r ty = true) (hm : c.p.mask ≠ 0) :
    let m := l.useReg d.toNat r ty
    let u := ((s.onPath hp.recruiter fun p => { p with
      loan := some m, loanst := (p.loanst &&& ~~~0xF0#32) ||| BitVec.ofNat 32 (m.repays.length * 16) }).holdRepays c.pid d.toNat
        ((lanesOf c.p.mask).map fun x => (x, s.readV c.pid a.toNat x))).reapHelper c.pid
    exec (.repay d a r ty) s = .next (if (u.helper c.pid).isNone then u.unstep c.pid else u.retire c c.nextPc none) := by
  intro m u
  have hfor : s.repayFor c = hp.recruiter := by rw [State.repayFor, hh]
  rw [exec_repay_ready h (by rw [hfor]; exact hl) hf hm, if_pos hc, conclude_helperDone, hc, Bool.true_and, State.repayOpened, hfor]
  rfl

theorem exec_lnext_pending {d : BitVec 7} {g : BitVec 3} {hp : Helper} {pc : Nat} (h : ready (.lnext d g) s c = true)
    (hh : s.helper c.pid = some hp) (hl : s.pendingLoad c.pid = some pc) : exec (.lnext d g) s = .next (s.waitAt c.pid true (.counter pc)) :=
  issue_wait h (by simp only [entered_lnext, hh, hl])

/-- The bits of a result of and, or and xor. -/
theorem repay_bits (reg : Nat) (vs : List Word) (old : Word) (ty : RepayTy) {b : Nat} (hb : b < 32) :
    (Repay.result ⟨reg, .and, ty, vs⟩ old).1.getLsbD b = (old :: vs).all (·.getLsbD b)
    ∧ (Repay.result ⟨reg, .or, ty, vs⟩ old).1.getLsbD b = (old :: vs).any (·.getLsbD b)
    ∧ (Repay.result ⟨reg, .xor, ty, vs⟩ old).1.getLsbD b = ((old :: vs).map (·.getLsbD b)).foldl (· != ·) false := by
  refine ⟨(getLsbD_foldl_and (old :: vs) _ b).trans ?_, (getLsbD_foldl_or (old :: vs) _ b).trans ?_, getLsbD_foldl_xor (old :: vs) _ b |>.trans ?_⟩
  · rw [BitVec.getLsbD_allOnes, decide_eq_true hb, Bool.true_and]
  · rw [show (0 : Word).getLsbD b = false from BitVec.getLsbD_zero, Bool.false_or]
  · rw [show (0 : Word).getLsbD b = false from BitVec.getLsbD_zero]

/-- Settles O18: each iteration and contribution case by case, the end of a loan through the values that it writes, and the result of a
repay register as the fold of its contributions. -/
theorem loanIterationsAndRepayResults : Obligations.LoanIterationsAndRepayResults := by
  unfold Obligations.LoanIterationsAndRepayResults
  refine ⟨fun s c d a g r ty => ?_, fun reg vs old ty => ?_⟩
  · have hfor (h : s.helper c.pid = none) : s.repayFor c = c.pid := by rw [State.repayFor, h]
    have hloan {i : Instr} (h : ready i s c = true) (hh : s.helper c.pid = none) :
        (s.path (s.repayFor c)).bind (·.loan) = c.p.loan := by
      obtain ⟨hp, _⟩ := ready_path h
      rw [hfor hh, hp, Option.bind_some]
    refine ⟨exec_lnext_noLoan, fun i l h hh hl ht => exec_lnext_taken h hh hl ht, exec_lnext_none, fun l i l' => loanTake_from,
      fun hp h hh hl => exec_lnext_helper h hh hl, fun hp pc h hh hl => exec_lnext_pending h hh hl,
      fun h hh hl => exec_repay_unlawful h (.inl ((hloan h hh).trans hl)),
      fun l h hh hl hf hm => exec_repay_idle h ((hloan h hh).trans hl) hf hm,
      fun l h hh hl hf => exec_repay_unlawful h (.inr ⟨l, (hloan h hh).trans hl, hf⟩),
      fun l h hc hh hl hf hm => exec_repay_recruiter h hc hh hl hf hm, fun hp l h hc hh hl => ?_, exec_ldone_noLoan, fun l h hl => ?_⟩
    · have hrep : (s.path (s.repayFor c)).bind (·.loan) = some l := by rw [State.repayFor, hh]; exact hl
      exact ⟨fun hf => exec_repay_unlawful h (.inr ⟨l, hrep, hf⟩), exec_repay_idle h hrep, exec_repay_helper h hc hh hl⟩
    · exact ⟨fun pc => exec_ldone_pending h hl, exec_ldone_busy h hl, loanBusy_of_helpers, exec_ldone_committing h hl, closing_idle h,
        fun p m hpend hb hv hp hm hlane hreg hnd => ldone_writes h hl hpend hb hv hp hm hlane hreg hnd⟩
  · obtain ⟨⟨hmi, hmi'⟩, hmn, hmn'⟩ := repay_least reg vs old
    obtain ⟨⟨hxi, hxi'⟩, hxn, hxn'⟩ := repay_greatest reg vs old
    refine ⟨repay_sum reg vs old ty, fun b hb => (repay_bits reg vs old ty hb).1, fun b hb => (repay_bits reg vs old ty hb).2.1,
      fun b hb => (repay_bits reg vs old ty hb).2.2, fun x hx => ⟨?_, ?_, ?_, ?_⟩, hmi, hxi, hmn, hxn⟩
    · exact BitVec.sle_iff_toInt_le.mpr (hmi' x hx)
    · exact BitVec.sle_iff_toInt_le.mpr (hxi' x hx)
    · exact BitVec.ule_iff_toNat_le.mpr (Int.ofNat_le.mp (hmn' x hx))
    · exact BitVec.ule_iff_toNat_le.mpr (Int.ofNat_le.mp (hxn' x hx))

end Sys2Proof.Machine
end

section
/-! PROOF. Lane-wise integer instructions on packed elements (O21). -/
namespace Sys2Proof.Machine

variable {i : Instr} {s : State} {c : Ctx} {d a b : BitVec 7} {n : Nat}

/-! Instructions that count nothing (R57, R97). -/

/-- Lanes without events leave the windows as they are. -/
theorem countLanes_of_none (s : State) (c : Ctx) {evs : List Events} (h : ∀ e ∈ evs, e = 0) : s.countLanes c evs = s := by
  have hc : laneCount evs = fun _ => 0 := by
    funext k
    rw [laneCount, List.length_eq_zero_iff, List.filter_eq_nil_iff]
    intro e he
    simp [h e he]
  have hev (core : Nat) : s.countEvents core (fun _ => 0) = (s, 0) := rfl
  simp [State.countLanes, State.countFor, hc, hev]

theorem laneResultCounted_of_none (s : State) (c : Ctx) (d : BitVec 7) {f : Nat → Word × Events} (h : ∀ l, (f l).2 = 0) :
    s.laneResultCounted c d f = s.laneResult c d fun l => (f l).1 := by
  rw [State.laneResultCounted, countLanes_of_none, State.laneResult]
  simp [h]

theorem lanewisePlain_ready (h : ready i s c = true) (hc : i.commits = false) (d : BitVec 7) (f : Ctx → State → Nat → Word) :
    lanewisePlain i d f s = .next (s.laneResult c d (f c s)) := by
  rw [lanewisePlain, lanewise_ready h hc, laneResultCounted_of_none _ _ _ fun _ => rfl]

/-! Packed elements (R37, R103). -/

theorem pkWidth_bounds (pk : BitVec 2) : 0 < pkWidth pk ∧ pkWidth pk ≤ 32 := by
  unfold pkWidth
  split
  · decide
  · split <;> decide

theorem elem_packed {j : Nat} (hj : j < 32 / n) (f : Nat → Nat × Events) : elem n (packed n f).1 j = BitVec.ofNat n (f j).1 := by
  have : n * (j + 1) ≤ 32 := (Nat.mul_le_mul_left n hj).trans (Nat.mul_div_le 32 n)
  rw [packed_eq_gathered, elem_gathered hj (by rw [Nat.mul_add] at this; omega)]

theorem packed_events_none {f : Nat → Nat × Events} (h : ∀ j, j < 32 / n → (f j).2 = 0) : (packed n f).2 = 0 := by
  refine BitVec.eq_of_getLsbD_eq fun e _ => Bool.eq_iff_iff.mpr ?_
  rw [packed_eq_gathered, getLsbD_gathered_events]
  constructor
  · rintro ⟨j, hj, hb⟩
    rwa [h j hj] at hb
  · simp

/-- Where elements raise one class of events or nothing, and some element raises it, so does the lane. -/
theorem packed_events_some {f : Nat → Nat × Events} {ev : Events} (h : ∀ j, j < 32 / n → (f j).2 = ev ∨ (f j).2 = 0) {k : Nat}
    (hk : k < 32 / n) (hev : (f k).2 = ev) : (packed n f).2 = ev := by
  refine BitVec.eq_of_getLsbD_eq fun e _ => Bool.eq_iff_iff.mpr ?_
  rw [packed_eq_gathered, getLsbD_gathered_events]
  constructor
  · rintro ⟨j, hj, hb⟩
    rcases h j hj with g | g <;> rw [g] at hb
    · exact hb
    · simp at hb
  · exact fun hb => ⟨k, hk, hev ▸ hb⟩

/-- The shape of the packed forms: `g` gives each element of the active lanes from the element of the source and from what stands in
second place, the like-numbered element of a register or an immediate. -/
def elementwise (i : Instr) (g : Bool → Nat → Nat → Nat → Nat × Events) (y : Ctx → State → Nat → Nat → Nat) (d a : BitVec 7) (s : State) :
    Result :=
  lanewise i d (fun c s l => packed (pkWidth c.mods.pk) fun k =>
    g c.mods.sat (pkWidth c.mods.pk) (element (pkWidth c.mods.pk) (s.readV c.pid a.toNat l) k) (y c s l k)) s

def elementOf (b : BitVec 7) (c : Ctx) (s : State) (l k : Nat) : Nat := element (pkWidth c.mods.pk) (s.readV c.pid b.toNat l) k

def lowImmediate (k : BitVec 8) (c : Ctx) (_ : State) (_ _ : Nat) : Nat := element (pkWidth c.mods.pk) (c.vimm 8 k.toNat) 0

/-- Without sat, `g` on the numbers of two `n`-bit elements is `f` on the elements, and counts nothing. -/
def WrapsTo (n : Nat) (g : Bool → Nat → Nat → Nat → Nat × Events) (f : BitVec n → BitVec n → BitVec n) : Prop :=
  ∀ x y : BitVec n, BitVec.ofNat n (g false n x.toNat y.toNat).1 = f x y ∧ (g false n x.toNat y.toNat).2 = 0

/-- An operation that knows no sat, and an exact one that saturates with it. -/
def uncounted (g : Nat → Nat → Nat → Nat) (_ : Bool) (n x y : Nat) : Nat × Events := (g n x y, evNone)

def saturated (g : Int → Int → Int) (sat : Bool) (n x y : Nat) : Nat × Events := satOrWrap sat n (g (signedOf n x) (signedOf n y))

theorem wrapsTo_uncounted {g : Nat → Nat → Nat → Nat} {f : BitVec n → BitVec n → BitVec n}
    (h : ∀ x y : BitVec n, BitVec.ofNat n (g n x.toNat y.toNat) = f x y) : WrapsTo n (uncounted g) f := fun x y => ⟨h x y, rfl⟩

theorem wrapsTo_saturated (hn : 0 < n) {g : Int → Int → Int} {f : BitVec n → BitVec n → BitVec n}
    (h : ∀ x y : BitVec n, BitVec.ofInt n (g x.toInt y.toInt) = f x y) : WrapsTo n (saturated g) f := fun x y =>
  ⟨by rw [saturated, signedOf_toNat hn, signedOf_toNat hn, ← h]; exact ofNat_wrapInt _ _, rfl⟩

/-- Each element of a packed form without sat. -/
theorem elementwise_wraps {g : Bool → Nat → Nat → Nat → Nat × Events} {f : BitVec n → BitVec n → BitVec n} (h : ready i s c = true)
    (hc : i.commits = false) (hn : n = pkWidth c.mods.pk) (hs : c.mods.sat = false) (hg : WrapsTo n g f) {second : Ctx → State → Nat → Nat → Nat}
    {y : Nat → Nat → BitVec n} (hy : ∀ l j, second c s l j = (y l j).toNat) : ∃ r : Nat → Word,
      elementwise i g second d a s = .next (s.laneResult c d r)
        ∧ ∀ l j, j < 32 / n → elem n (r l) j = f (elem n (s.readV c.pid a.toNat l) j) (y l j) := by
  subst hn
  refine ⟨_, (lanewise_ready h hc _ _).trans (congrArg _ (laneResultCounted_of_none _ _ _ fun l => packed_events_none fun j _ => ?_)),
    fun l j hj => (elem_packed hj _).trans ?_⟩
  · rw [hs, element_eq, hy]
    exact (hg _ _).2
  · rw [hs, element_eq, hy]
    exact (hg _ _).1

/-! Saturation (R103). -/

/-- The signed range of `n`-bit elements. -/
def inSigned (n : Nat) (v : Int) : Prop := -2 ^ (n - 1) ≤ v ∧ v ≤ 2 ^ (n - 1) - 1

theorem clampInt_signed (n : Nat) (v : Int) : (clampInt true n v).1 = max (-2 ^ (n - 1)) (min (2 ^ (n - 1) - 1) v)
    ∧ ((clampInt true n v).2 = false ↔ inSigned n v) := by
  have hp : (0 : Int) < 2 ^ (n - 1) := by positivity
  simp only [clampInt, inSigned, if_true, Int.natCast_pow, Nat.cast_ofNat]
  split
  · simp; omega
  · split
    · simp; omega
    · simp; omega

/-- With sat an exact result is clamped to the signed range of its element. -/
theorem toInt_satOrWrap (hn : 0 < n) (v : Int) :
    (BitVec.ofNat n (satOrWrap true n v).1).toInt = max (-2 ^ (n - 1)) (min (2 ^ (n - 1) - 1) v) := by
  have hp : (0 : Int) < 2 ^ (n - 1) := by positivity
  simp only [satOrWrap, if_true, ofNat_wrapInt]
  rw [(clampInt_signed n v).1, BitVec.toInt_ofInt_eq_self hn (by omega) (by omega)]

theorem satOrWrap_events (v : Int) : (¬ inSigned n v → (satOrWrap true n v).2 = evSaturation) ∧ (inSigned n v → (satOrWrap true n v).2 = 0) := by
  simp only [satOrWrap, if_true, ← (clampInt_signed n v).2]
  cases (clampInt true n v).2 <;> simp [evNone]

/-- Each element of a packed form with sat, and what its lane counts. -/
theorem elementwise_saturates {g : Int → Int → Int} (h : ready i s c = true) (hc : i.commits = false) (hn : n = pkWidth c.mods.pk)
    (hs : c.mods.sat = true) {second : Ctx → State → Nat → Nat → Nat} {y : Nat → Nat → BitVec n}
    (hy : ∀ l j, second c s l j = (y l j).toNat) : ∃ r : Nat → Word × Events,
      elementwise i (saturated g) second d a s = .next (s.laneResultCounted c d r)
        ∧ (∀ l j, j < 32 / n → (elem n (r l).1 j).toInt
          = max (-2 ^ (n - 1)) (min (2 ^ (n - 1) - 1) (g (elem n (s.readV c.pid a.toNat l) j).toInt (y l j).toInt)))
        ∧ ∀ l, ((∃ j, j < 32 / n ∧ ¬ inSigned n (g (elem n (s.readV c.pid a.toNat l) j).toInt (y l j).toInt)) → (r l).2 = evSaturation)
          ∧ ((∀ j, j < 32 / n → inSigned n (g (elem n (s.readV c.pid a.toNat l) j).toInt (y l j).toInt)) → (r l).2 = 0) := by
  have hpos : 0 < n := hn ▸ (pkWidth_bounds _).1
  subst hn
  have hel (l j : Nat) : saturated g c.mods.sat (pkWidth c.mods.pk) (element (pkWidth c.mods.pk) (s.readV c.pid a.toNat l) j) (second c s l j)
      = satOrWrap true (pkWidth c.mods.pk) (g (elem (pkWidth c.mods.pk) (s.readV c.pid a.toNat l) j).toInt (y l j).toInt) := by
    rw [saturated, hs, element_eq, hy, signedOf_toNat hpos, signedOf_toNat hpos]
  refine ⟨_, lanewise_ready h hc _ _, fun l j hj => ?_, fun l => ⟨fun ⟨k, hk, hout⟩ => ?_, fun hin => ?_⟩⟩ <;> simp only [hel]
  · rw [elem_packed hj, toInt_satOrWrap hpos]
  · refine packed_events_some (fun j _ => ?_) hk ((satOrWrap_events _).1 hout)
    exact (em _).elim (fun hin => .inr ((satOrWrap_events _).2 hin)) fun hout => .inl ((satOrWrap_events _).1 hout)
  · exact packed_events_none fun j hj => (satOrWrap_events _).2 (hin j hj)

/-! The packed instructions (R102, R103). -/

theorem ofInt_sub_ofInt (p q : Int) : BitVec.ofInt n (p - q) = BitVec.ofInt n p - BitVec.ofInt n q := by
  rw [Int.sub_eq_add_neg, BitVec.ofInt_add, BitVec.ofInt_neg, BitVec.sub_eq_add_neg]

theorem ofNat_natAbs_sub (p q : Int) : BitVec.ofNat n (p - q).natAbs = if p < q then BitVec.ofInt n q - BitVec.ofInt n p
    else BitVec.ofInt n p - BitVec.ofInt n q := by
  rw [← BitVec.ofInt_natCast]
  split
  · rw [show ((p - q).natAbs : Int) = q - p by omega, ofInt_sub_ofInt]
  · rw [show ((p - q).natAbs : Int) = p - q by omega, ofInt_sub_ofInt]

theorem ofNat_aluAbsdI (hn : 0 < n) (x y : BitVec n) : BitVec.ofNat n (aluAbsdI n x.toNat y.toNat) = if x.slt y then y - x else x - y := by
  rw [aluAbsdI, signedOf_toNat hn, signedOf_toNat hn, ofNat_natAbs_sub, BitVec.ofInt_toInt, BitVec.ofInt_toInt]
  simp only [BitVec.slt_iff_toInt_lt]

theorem ofNat_aluAbsdN (x y : BitVec n) : BitVec.ofNat n (aluAbsdN n x.toNat y.toNat) = if x.ult y then y - x else x - y := by
  rw [aluAbsdN, ofNat_natAbs_sub, BitVec.ofInt_natCast, BitVec.ofInt_natCast, ofNat_toNat_self, ofNat_toNat_self]
  simp only [BitVec.ult_iff_lt, BitVec.lt_def, Int.ofNat_lt]

/-- A packed instruction is elementwise by an operation that wraps to `f`. -/
def ElementwiseBy (n : Nat) (i : Instr) (second : Ctx → State → Nat → Nat → Nat) (d a : BitVec 7) (f : BitVec n → BitVec n → BitVec n) : Prop :=
  ∃ g, (∀ s, exec i s = elementwise i g second d a s) ∧ i.commits = false ∧ WrapsTo n g f

theorem elementwise_of_vectorTwo (hn : 0 < n) {f : BitVec n → BitVec n → BitVec n} (hi : vectorTwo n i = some (d, a, b, f)) :
    ElementwiseBy n i (elementOf b) d a f := by
  unfold vectorTwo at hi
  split at hi
  case h_1 => cases hi; exact ⟨saturated (· + ·), fun _ => rfl, rfl, wrapsTo_saturated hn fun x y => by simp [BitVec.ofInt_add]⟩
  case h_2 => cases hi; exact ⟨saturated (· - ·), fun _ => rfl, rfl, wrapsTo_saturated hn fun x y => by simp [ofInt_sub_ofInt]⟩
  case h_3 => cases hi; exact ⟨saturated (· * ·), fun _ => rfl, rfl, wrapsTo_saturated hn fun x y => by simp [BitVec.ofInt_mul]⟩
  case h_4 => cases hi; exact ⟨uncounted aluAnd, fun _ => rfl, rfl, wrapsTo_uncounted ofNat_aluAnd⟩
  case h_5 => cases hi; exact ⟨uncounted aluOr, fun _ => rfl, rfl, wrapsTo_uncounted ofNat_aluOr⟩
  case h_6 => cases hi; exact ⟨uncounted aluXor, fun _ => rfl, rfl, wrapsTo_uncounted ofNat_aluXor⟩
  case h_7 => cases hi; exact ⟨uncounted aluAndn, fun _ => rfl, rfl, wrapsTo_uncounted ofNat_aluAndn⟩
  case h_8 => cases hi; exact ⟨uncounted aluShl, fun _ => rfl, rfl, wrapsTo_uncounted ofNat_aluShl⟩
  case h_9 => cases hi; exact ⟨uncounted aluShr, fun _ => rfl, rfl, wrapsTo_uncounted ofNat_aluShr⟩
  case h_10 => cases hi; exact ⟨uncounted aluSra, fun _ => rfl, rfl, wrapsTo_uncounted fun x y => ofNat_aluSra x y hn⟩
  case h_11 => cases hi; exact ⟨uncounted aluMinI, fun _ => rfl, rfl, wrapsTo_uncounted fun x y => ofNat_aluMinI x y hn⟩
  case h_12 => cases hi; exact ⟨uncounted aluMinN, fun _ => rfl, rfl, wrapsTo_uncounted ofNat_aluMinN⟩
  case h_13 => cases hi; exact ⟨uncounted aluMaxI, fun _ => rfl, rfl, wrapsTo_uncounted fun x y => ofNat_aluMaxI x y hn⟩
  case h_14 => cases hi; exact ⟨uncounted aluMaxN, fun _ => rfl, rfl, wrapsTo_uncounted ofNat_aluMaxN⟩
  case h_15 => cases hi; exact ⟨uncounted aluAbsdI, fun _ => rfl, rfl, wrapsTo_uncounted (ofNat_aluAbsdI hn)⟩
  case h_16 => cases hi; exact ⟨uncounted aluAbsdN, fun _ => rfl, rfl, wrapsTo_uncounted ofNat_aluAbsdN⟩
  case h_17 => exact nomatch hi

theorem elementwise_of_vectorImm (hn : 0 < n) {k : BitVec 8} {f : BitVec n → BitVec n → BitVec n} (hi : vectorImm n i = some (d, a, k, f)) :
    ElementwiseBy n i (lowImmediate k) d a f := by
  unfold vectorImm at hi
  split at hi
  case h_1 => cases hi; exact ⟨saturated (· + ·), fun _ => rfl, rfl, wrapsTo_saturated hn fun x y => by simp [BitVec.ofInt_add]⟩
  case h_2 => cases hi; exact ⟨saturated (· * ·), fun _ => rfl, rfl, wrapsTo_saturated hn fun x y => by simp [BitVec.ofInt_mul]⟩
  case h_3 => cases hi; exact ⟨uncounted aluAnd, fun _ => rfl, rfl, wrapsTo_uncounted ofNat_aluAnd⟩
  case h_4 => cases hi; exact ⟨uncounted aluOr, fun _ => rfl, rfl, wrapsTo_uncounted ofNat_aluOr⟩
  case h_5 => cases hi; exact ⟨uncounted aluXor, fun _ => rfl, rfl, wrapsTo_uncounted ofNat_aluXor⟩
  case h_6 => cases hi; exact ⟨uncounted aluAndn, fun _ => rfl, rfl, wrapsTo_uncounted ofNat_aluAndn⟩
  case h_7 => cases hi; exact ⟨uncounted aluShl, fun _ => rfl, rfl, wrapsTo_uncounted ofNat_aluShl⟩
  case h_8 => cases hi; exact ⟨uncounted aluShr, fun _ => rfl, rfl, wrapsTo_uncounted ofNat_aluShr⟩
  case h_9 => cases hi; exact ⟨uncounted aluSra, fun _ => rfl, rfl, wrapsTo_uncounted fun x y => ofNat_aluSra x y hn⟩
  case h_10 => cases hi; exact ⟨uncounted aluMinI, fun _ => rfl, rfl, wrapsTo_uncounted fun x y => ofNat_aluMinI x y hn⟩
  case h_11 => cases hi; exact ⟨uncounted aluMinN, fun _ => rfl, rfl, wrapsTo_uncounted ofNat_aluMinN⟩
  case h_12 => cases hi; exact ⟨uncounted aluMaxI, fun _ => rfl, rfl, wrapsTo_uncounted fun x y => ofNat_aluMaxI x y hn⟩
  case h_13 => cases hi; exact ⟨uncounted aluMaxN, fun _ => rfl, rfl, wrapsTo_uncounted ofNat_aluMaxN⟩
  case h_14 => cases hi; exact ⟨uncounted aluAbsdI, fun _ => rfl, rfl, wrapsTo_uncounted (ofNat_aluAbsdI hn)⟩
  case h_15 => cases hi; exact ⟨uncounted aluAbsdN, fun _ => rfl, rfl, wrapsTo_uncounted ofNat_aluAbsdN⟩
  case h_16 => exact nomatch hi

theorem pfxLimit_of_vectorImm {k : BitVec 8} {f : BitVec n → BitVec n → BitVec n} (hi : vectorImm n i = some (d, a, k, f)) : i.pfxLimit ≤ 2 := by
  unfold vectorImm at hi
  split at hi
  case h_16 => exact nomatch hi
  all_goals exact Nat.le_succ 1

/-- The three instructions that take sat, in register form and with an immediate. -/
theorem saturating_cases {g : Int → Int → Int} (hi : saturating i = some g) : i.commits = false ∧ i.pfxLimit ≤ 2
    ∧ (∀ b (f : BitVec n → BitVec n → BitVec n), vectorTwo n i = some (d, a, b, f) →
      ∀ s, exec i s = elementwise i (saturated g) (elementOf b) d a s)
    ∧ ∀ k (f : BitVec n → BitVec n → BitVec n), vectorImm n i = some (d, a, k, f) →
      ∀ s, exec i s = elementwise i (saturated g) (lowImmediate k) d a s := by
  unfold saturating at hi
  split at hi
  case h_6 => exact nomatch hi
  all_goals
    cases hi
    refine ⟨rfl, by simp [Instr.pfxLimit], fun b f h s => ?_, fun k f h s => ?_⟩ <;> cases h
    rfl

/-- An immediate's low bits, as the packed forms read it (R20, R103). -/
theorem lowImmediate_eq (h : ready i s c = true) (hl : i.pfxLimit ≤ 2) (hn : n = pkWidth c.mods.pk) (k : BitVec 8) (l j : Nat) :
    lowImmediate k c s l j = ((widenedImm c.pfx k).truncate n).toNat := by
  subst hn
  have hle := (pkWidth_bounds c.mods.pk).2
  rw [lowImmediate, Ctx.vimm, ready_imm32 h hl, ofNat_toNat_self, element_eq]
  refine congrArg _ (BitVec.eq_of_getLsbD_eq fun p hp => ?_)
  rw [getLsbD_elem]
  simp [hp, show p < 32 by omega]

/-- Settles O21: every packed form is elementwise, by an operation on numbers that wraps or saturates as the rules say. -/
theorem vectorIntegerElementForms : Obligations.VectorIntegerElementForms := by
  unfold Obligations.VectorIntegerElementForms
  refine ⟨fun i s c n d a h hn hs => ⟨fun b f hi => ?_, fun k f hi => ?_⟩, fun i s c n d a g h hn hs hg => ?_⟩
  · obtain ⟨g, he, hc, hw⟩ := elementwise_of_vectorTwo (hn ▸ (pkWidth_bounds _).1) hi
    rw [he]
    exact elementwise_wraps h hc hn hs hw fun l j => by rw [elementOf, element_eq, hn]
  · obtain ⟨g, he, hc, hw⟩ := elementwise_of_vectorImm (hn ▸ (pkWidth_bounds _).1) hi
    rw [he]
    exact elementwise_wraps h hc hn hs hw (lowImmediate_eq h (pfxLimit_of_vectorImm hi) hn k)
  · obtain ⟨hc, hl, htwo, himm⟩ := saturating_cases (n := n) (d := d) (a := a) hg
    have hout (v : Int) : (v < -2 ^ (n - 1) ∨ 2 ^ (n - 1) - 1 < v) ↔ ¬ inSigned n v := by
      rw [inSigned]; omega
    refine ⟨fun b f hi => ?_, fun k f hi => ?_⟩ <;> simp only [hout]
    · rw [htwo b f hi]
      exact elementwise_saturates h hc hn hs fun l j => by rw [elementOf, element_eq, hn]
    · rw [himm k f hi]
      exact elementwise_saturates h hc hn hs (lowImmediate_eq h hl hn k)

end Sys2Proof.Machine
end

section
/-! PROOF. Vector integer instructions on whole lanes (O22). -/
namespace Sys2Proof.Machine

variable {i : Instr} {s : State} {c : Ctx} {d a b : BitVec 7}

/-- The instruction gives each active lane `f` of the lanes of `a` and `b`. -/
theorem exec_of_vectorWhole {f : Word → Word → Word} (h : ready i s c = true) (hi : vectorWhole i = some (d, a, b, f)) :
    exec i s = .next (s.laneResult c d fun l => f (s.readV c.pid a.toNat l) (s.readV c.pid b.toNat l)) := by
  unfold vectorWhole at hi
  split at hi
  case h_1 => cases hi; exact (lanewisePlain_ready h rfl _ _).trans (by simp only [ofNat_aluMulhI _ _ (show 0 < 32 by decide)])
  case h_2 => cases hi; exact (lanewisePlain_ready h rfl _ _).trans (by simp only [ofNat_aluMulhN])
  case h_3 => cases hi; exact (lanewisePlain_ready h rfl _ _).trans (by simp only [fld_toNat, ofNat_bitField_signed (show 0 < 32 by decide) (by decide)])
  case h_4 => cases hi; exact (lanewisePlain_ready h rfl _ _).trans (by simp only [fld_toNat, ofNat_bitField_unsigned])
  case h_5 => cases hi; exact lanewisePlain_ready h rfl _ _
  case h_6 => cases hi; exact (lanewisePlain_ready h rfl _ _).trans (by simp only [ofNat_brev])
  case h_7 => cases hi; exact lanewisePlain_ready h rfl _ _
  case h_8 => exact nomatch hi

/-- A per-lane special register is read into the active lanes. -/
theorem exec_vsr_ready {n : BitVec 12} (h : ready (.vsr d n) s c = true) (hn : n.toNat ≤ 2) :
    exec (.vsr d n) s = .next (s.laneResult c d (s.laneSr c.pid n.toNat)) := by
  rw [exec_vsr, execVsr]
  exact issue_done h (if_pos (if_pos hn))

/-- Of the special registers R16 lists, those past the first three are no lanes' own. -/
theorem srKind_ne_perLane {n : Nat} (hn : 3 ≤ n) : srKind n ≠ some .perLane := by
  unfold srKind
  rw [if_neg (by omega)]
  split_ifs <;> simp

theorem exec_vsr_unlisted {n : BitVec 12} (h : taken (.vsr d n) s c = true) (hn : 3 ≤ n.toNat) :
    exec (.vsr d n) s = .next ((s.takeTrap c.pid 0x01 c.first (BitVec.ofNat 64 c.word) none).unstep c.pid) := by
  rw [exec_vsr, execVsr]
  exact issueWith_of_misnames _ _ h (by simpa [misnames] using srKind_ne_perLane hn)

/-- Settles O22: each form gives every active lane its function on bit vectors. -/
theorem vectorWholeLaneForms : Obligations.VectorWholeLaneForms := by
  unfold Obligations.VectorWholeLaneForms
  intro s c d a b x y
  refine ⟨fun i f => exec_of_vectorWhole, fun h => ?vclz, fun h => ?vbfi, fun h => lanewisePlain_ready h rfl _ _, fun k h => ?vsel,
    fun h => lanewisePlain_ready h rfl _ _, fun k h => ?vmovi, fun h => exec_vsr_ready h (by decide), fun h => exec_vsr_ready h (by decide),
    fun h => exec_vsr_ready h (by decide), fun n hn h => exec_vsr_unlisted h hn⟩
  case vclz => exact ⟨fun l => clz 32 (x l).toNat, lanewisePlain_ready h rfl _ _, fun l => ⟨clz_le 32 _, clz_spec (x l)⟩⟩
  case vbfi =>
    simp only [← ofNat_insertField, ← fld_toNat]
    exact lanewisePlain_ready h rfl _ _
  case vsel =>
    refine (lanewisePlain_ready h rfl _ _).trans ?_
    simp only [apply_ite (s.readV c.pid), ite_apply]
    rfl
  case vmovi =>
    refine (lanewisePlain_ready h rfl _ _).trans ?_
    simp only [Ctx.vimm, ready_imm32 h (show _ ≤ 2 from Nat.le_succ 1), ofNat_toNat_self]

end Sys2Proof.Machine
end

section
/-! PROOF. Sums, products and fused sums of finite values are exact (O24). -/
namespace Sys2Proof.Machine

/-! The number that a value is (R41). -/

/-- A sign as a factor. -/
def signFactor (neg : Bool) : ℚ := if neg then -1 else 1

theorem rat_fin (neg : Bool) (m : Nat) (e : Int) : (FV.fin neg m e).rat = signFactor neg * m * (2 : ℚ) ^ e := rfl

theorem rat_zero (neg : Bool) (e : Int) : (FV.fin neg 0 e).rat = 0 := by simp [FV.rat]

theorem signFactor_bne (x y : Bool) : signFactor (x != y) = signFactor x * signFactor y := by cases x <;> cases y <;> simp [signFactor]

/-- A signed integer of units `2 ^ e`. -/
theorem rat_ofSigned (rnd : Rnd) (i e : Int) : (ofSigned rnd i e).rat = i * (2 : ℚ) ^ e := by
  unfold ofSigned
  split
  · next h => rw [rat_zero, h, Int.cast_zero, zero_mul]
  · have habs : (i.natAbs : ℚ) = |(i : ℚ)| := by rw [Nat.cast_natAbs, Int.cast_abs]
    rw [rat_fin, habs]
    by_cases h : i < 0
    · rw [decide_eq_true h, abs_of_neg (Int.cast_lt_zero.mpr h)]; simp [signFactor]
    · rw [decide_eq_false h, abs_of_nonneg (Int.cast_nonneg (not_lt.mp h))]; simp [signFactor]

/-- A value in units no greater than its own. -/
theorem scaled_rat (neg : Bool) (m : Nat) {e low : Int} (h : low ≤ e) : (scaled neg m e low : ℚ) * 2 ^ low = (FV.fin neg m e).rat := by
  have hpow : (2 : ℚ) ^ (e - low).toNat * 2 ^ low = 2 ^ e := by
    rw [← zpow_natCast, ← zpow_add₀ two_ne_zero, Int.toNat_of_nonneg (by omega), Int.sub_add_cancel]
  rw [rat_fin, ← hpow]
  cases neg <;> simp [scaled, signFactor] <;> ring

/-- Exact sums of finite values (R105). -/
theorem rat_add (rnd : Rnd) {a b : FV} (ha : a.isFin = true) (hb : b.isFin = true) :
    (FV.add rnd a b).1.rat = a.rat + b.rat ∧ (FV.add rnd a b).2 = 0 ∧ (FV.add rnd a b).1.isFin = true := by
  cases a with
  | nan | inf _ => cases ha
  | fin x m e => cases b with
    | nan | inf _ => cases hb
    | fin y n f =>
      have hfin (i e : Int) : (ofSigned rnd i e).isFin = true := by unfold ofSigned; split <;> rfl
      simp only [FV.add]
      split
      · next h =>
        obtain ⟨rfl, rfl⟩ := h
        split <;> simp [rat_zero, evNone, FV.isFin]
      · refine ⟨?_, rfl, hfin _ _⟩
        rw [rat_ofSigned]
        by_cases hm : m = 0
        · subst hm
          simp only [if_pos, rat_zero, zero_add]
          split
          · next hn => rw [hn, rat_zero]; simp
          · exact scaled_rat y n le_rfl
        · by_cases hn : n = 0
          · subst hn
            simp only [if_neg hm, if_pos, rat_zero, add_zero]
            exact scaled_rat x m le_rfl
          · simp only [if_neg hm, if_neg hn]
            rw [Int.cast_add, add_mul, scaled_rat x m (min_le_left e f), scaled_rat y n (min_le_right e f)]

/-- Exact products of finite values (R105). -/
theorem rat_mul {a b : FV} (ha : a.isFin = true) (hb : b.isFin = true) :
    (FV.mul a b).1.rat = a.rat * b.rat ∧ (FV.mul a b).2 = 0 ∧ (FV.mul a b).1.isFin = true := by
  cases a with
  | nan | inf _ => cases ha
  | fin x m e => cases b with
    | nan | inf _ => cases hb
    | fin y n f =>
      refine ⟨?_, rfl, rfl⟩
      simp only [FV.mul, rat_fin, signFactor_bne, Nat.cast_mul, zpow_add₀ (two_ne_zero (α := ℚ))]
      ring

/-- Settles O24: sums by a common exponent, products by their factors, and a fused sum as the sum of a product. -/
theorem floatOperationsAreExact : Obligations.FloatOperationsAreExact := by
  unfold Obligations.FloatOperationsAreExact
  intro r a b c ha hb hc
  obtain ⟨hadd, hadd0, haddf⟩ := rat_add r ha hb
  obtain ⟨hmul, hmul0, hmulf⟩ := rat_mul ha hb
  have hfma : (FV.fma r a b c).1.rat = (FV.mul a b).1.rat + c.rat := (rat_add r hmulf hc).1
  exact ⟨hadd, hmul, hmul ▸ hfma, hadd0, hmul0, haddf, hmulf⟩

end Sys2Proof.Machine
end

section
/-! PROOF. Compares, and the order of floating-point values (O27). -/
namespace Sys2Proof.Machine

variable {s : State} {c : Ctx} {k : BitVec 3} {q : CmpCond} {a b : BitVec 7} {m : CmpMode}

/-! What a compare writes (R117). -/

/-- A predicate's bit under cmb, from its old value and the compare's. -/
def combined (m : CmpMode) (old r : Bool) : Bool :=
  match m with
  | .write => r
  | .and => old && r
  | .or => old || r

/-- `new` holds the compare `f` in the bits of the active lanes, and the old bits of predicate `k` in the others. -/
def ComparedInto (s : State) (c : Ctx) (k : BitVec 3) (m : CmpMode) (f : Nat → Bool) (new : Lanes) : Prop :=
  ∀ l, l < 96 → new.getLsbD l =
    if c.p.mask.getLsbD l then combined m ((s.readK c.pid k.toNat).getLsbD l) (f l) else (s.readK c.pid k.toNat).getLsbD l

theorem writeCompare_combined (s : State) (c : Ctx) (k : BitVec 3) (m : CmpMode) (f : Nat → Bool) :
    ∃ new, ComparedInto s c k m f new ∧ s.writeCompare c k m f = s.writeK c.pid k.toNat new := by
  refine ⟨_, fun l hl => ?_, rfl⟩
  have h := getLsbD_maskOf (c.lanes.filter f) hl
  rw [List.mem_filter, Ctx.lanes, mem_lanesOf] at h
  simp only [BitVec.getLsbD_or, BitVec.getLsbD_and, BitVec.getLsbD_not, hl, decide_true, Bool.true_and]
  cases hm : c.p.mask.getLsbD l
  · simp
  · have hr : (maskOf (c.lanes.filter f)).getLsbD l = f l := by
      rw [hm, eq_self, true_and, ← Bool.eq_iff_iff] at h
      exact h
    cases m <;> simp [hr, combined]

/-- A compare that issues writes its predicate, and completes. -/
theorem issue_compare {i : Instr} {f : Nat → Bool} {body : Ctx → State → Fate} (h : ready i s c = true) (hc : i.commits = false)
    (hb : body c s = .done (s.writeCompare c k m f)) :
    ∃ new, ComparedInto s c k m f new ∧ issue i body s = .next ((s.writeK c.pid k.toNat new).retire c c.nextPc none) := by
  obtain ⟨new, hbits, hw⟩ := writeCompare_combined s c k m f
  exact ⟨new, hbits, issue_done h (by rw [entered_of_not_commits hc, hb, hw])⟩

theorem vcmp_ready {i : Instr} (h : ready i s c = true) (hc : i.commits = false) (k : BitVec 3) (q : CmpCond) (a b : BitVec 7) (m : CmpMode) :
    ∃ new, ComparedInto s c k m (fun l => condHolds q (s.readV c.pid a.toNat l) (s.readV c.pid b.toNat l)) new
      ∧ vcmp i k q a b m s = .next ((s.writeK c.pid k.toNat new).retire c c.nextPc none) :=
  issue_compare h hc (by simp only [scalarCond_toNat (show 0 < 32 by decide)])

theorem exec_vfcmp_ready (h : ready (.vfcmp k q a b m) s c = true) :
    ∃ new, ComparedInto s c k m (fun l => floatCond q c.mods.ftz (s.readV c.pid a.toNat l) (s.readV c.pid b.toNat l)) new
      ∧ exec (.vfcmp k q a b m) s = .next ((s.writeK c.pid k.toNat new).retire c c.nextPc none) := by
  rw [exec_vfcmp, execVfcmp]
  exact issue_compare h rfl rfl

/-! NaNs, which ftz leaves as they are (R43, R106). -/

theorem flush32_of_nan (ftz : Bool) {w : Word} (h : isNan32 w = true) : flush32 ftz w = w := by
  have htop : fld w.toNat 23 8 = 255 := by
    by_contra hne
    have hv : fp32.value w.toNat = .nan := (isNan32_iff w).mp h
    simp only [Fmt.value, show ¬ fld w.toNat fp32.mw fp32.ew = 2 ^ fp32.ew - 1 from hne, false_and, and_false, if_false] at hv
    split at hv <;> cases hv
  simp [flush32, htop]

theorem isNan32_flush (ftz : Bool) (w : Word) : isNan32 (flush32 ftz w) = isNan32 w := by
  cases h : isNan32 w
  · exact isNan32_flush32 ftz w h
  · rw [flush32_of_nan ftz h, h]

/-- A NaN makes every condition false but ne and unord. -/
theorem floatCond_of_nan (q : CmpCond) (ftz : Bool) {x y : Word} (h : isNan32 x = true ∨ isNan32 y = true) :
    floatCond q ftz x y = (q == .ne || q == .unord) := by
  have hun : (isNan32 (flush32 ftz x) || isNan32 (flush32 ftz y)) = true := by simpa [isNan32_flush] using h
  unfold floatCond
  simp only [hun]
  cases q <;> rfl

/-- A minimum or a maximum passes over a NaN. -/
theorem minmax32_of_nan (mx ftz : Bool) {x : Word} (y : Word) (h : isNan32 x = true) :
    minmax32 mx ftz x y = (if isNan32 y = true then nan32 else flush32 ftz y)
      ∧ minmax32 mx ftz y x = if isNan32 y = true then nan32 else flush32 ftz y := by
  cases hy : isNan32 y <;> simp [minmax32, isNan32_flush, h, hy]

/-! Finite values are ordered as numbers (R38, R117). -/

/-- The units of a magnitude code: its fraction below the lowest normal exponent, else the significand, doubled once for each exponent. -/
def Fmt.units (f : Fmt) (k : Nat) : Nat := if k / 2 ^ f.mw = 0 then k % 2 ^ f.mw else (2 ^ f.mw + k % 2 ^ f.mw) * 2 ^ (k / 2 ^ f.mw - 1)

theorem units_strictMono (f : Fmt) : StrictMono f.units := by
  refine strictMono_nat_of_lt_succ fun k => ?_
  have hp := Nat.two_pow_pos f.mw
  have hlt := Nat.mod_lt k hp
  simp only [Fmt.units]
  rcases Nat.lt_or_ge (k % 2 ^ f.mw + 1) (2 ^ f.mw) with h | h
  · have hd : (k + 1) / 2 ^ f.mw = k / 2 ^ f.mw := by
      rw [Nat.succ_div_of_not_dvd]
      intro hdvd
      have := Nat.mod_eq_zero_of_dvd hdvd
      rw [Nat.add_mod, Nat.mod_eq_of_lt (show 1 < 2 ^ f.mw by omega), Nat.mod_eq_of_lt h] at this
      omega
    have hm : (k + 1) % 2 ^ f.mw = k % 2 ^ f.mw + 1 := by rw [← Nat.mod_add_mod, Nat.mod_eq_of_lt h]
    rw [hd, hm]
    split
    · omega
    · exact Nat.mul_lt_mul_of_pos_right (by omega) (Nat.two_pow_pos _)
  · have hm : (k + 1) % 2 ^ f.mw = 0 := by rw [← Nat.mod_add_mod, show k % 2 ^ f.mw + 1 = 2 ^ f.mw by omega, Nat.mod_self]
    have hd : (k + 1) / 2 ^ f.mw = k / 2 ^ f.mw + 1 := Nat.succ_div_of_dvd (Nat.dvd_of_mod_eq_zero hm)
    rw [hd, hm, if_neg (Nat.succ_ne_zero _), Nat.add_sub_cancel, Nat.add_zero]
    split
    · next h0 => rw [h0, Nat.pow_zero, Nat.mul_one]; exact hlt
    · next h0 =>
      obtain ⟨x, hx⟩ := Nat.exists_eq_succ_of_ne_zero h0
      rw [hx, Nat.succ_sub_one, Nat.pow_succ, ← Nat.mul_assoc, Nat.mul_right_comm]
      exact Nat.mul_lt_mul_of_pos_right (by omega) (Nat.two_pow_pos x)

/-- The number that a finite code is. -/
theorem rat_value {f : Fmt} (hf : f.Common) {k : Nat} (hk : k ≤ f.maxMag) (neg : Bool) :
    (f.value (f.signBit neg + k)).rat = signFactor neg * f.units k * (2 : ℚ) ^ f.low := by
  have hp := Nat.two_pow_pos f.mw
  have hparts : k / 2 ^ f.mw * 2 ^ f.mw + k % 2 ^ f.mw = k := Nat.div_add_mod' k _
  have hx : k / 2 ^ f.mw < 2 ^ f.ew := by
    rw [Nat.div_lt_iff_lt_mul hp, ← Nat.pow_add]
    exact hk.trans_lt (maxMag_lt f)
  have hv := value_of_parts hf hx (Nat.mod_lt k hp) (hparts.symm ▸ hk) neg
  rw [hparts] at hv
  rw [hv, Fmt.units]
  split
  · rfl
  · rw [rat_fin, zpow_add₀ two_ne_zero, zpow_natCast]
    push_cast
    ring

/-- A finite FP32 code: its sign and its magnitude, the key that compares it and the number that it is. -/
theorem fp32_parts {w : Word} (h : (fp32.value w.toNat).isFin = true) : ∃ (neg : Bool) (k : Nat),
    valueKey w = (if neg then -(k : Int) else k) ∧ (fp32.value w.toNat).rat = signFactor neg * fp32.units k * (2 : ℚ) ^ fp32.low := by
  have h32 : fp32.Common := ⟨rfl, by decide, .inl ⟨rfl, rfl⟩⟩
  have hw : w.toNat < 2 ^ (fp32.ew + fp32.mw + 1) := w.isLt
  obtain ⟨neg, ⟨-, -, hinf⟩ | ⟨m, x, hh, hcode⟩⟩ := code_cases h32 hw fun hn => by rw [hn] at h; cases h
  · rw [hinf] at h; cases h
  · refine ⟨neg, x * 2 ^ fp32.mw + m, ?_, by rw [hcode]; exact rat_value h32 hh.le neg⟩
    have hlt : x * 2 ^ fp32.mw + m < 2 ^ 31 := hh.le.trans_lt (maxMag_lt fp32)
    generalize x * 2 ^ fp32.mw + m = k at hcode hlt ⊢
    have hs : fp32.signBit neg = neg.toNat * 2 ^ 31 := signBit_eq rfl neg
    have hm : fld w.toNat 0 31 = k := by rw [fld_low]; omega
    have hn : fld w.toNat 31 1 = neg.toNat := by rw [fld]; have := neg.toNat_le; omega
    rw [valueKey, hm, hn]
    cases neg <;> rfl

/-- Of two signed magnitudes the keys compare as the units do. -/
theorem key_lt_iff (x y : Bool) (k j : Nat) : ((if x then -(k : Int) else k) < if y then -(j : Int) else j) ↔
    signFactor x * fp32.units k < signFactor y * fp32.units j := by
  have hkj : fp32.units k < fp32.units j ↔ k < j := (units_strictMono fp32).lt_iff_lt
  have hjk : fp32.units j < fp32.units k ↔ j < k := (units_strictMono fp32).lt_iff_lt
  have hk : 0 < fp32.units k ↔ 0 < k := (units_strictMono fp32).lt_iff_lt (a := 0)
  have hj : 0 < fp32.units j ↔ 0 < j := (units_strictMono fp32).lt_iff_lt (a := 0)
  have hcast (z : Bool) (n : Nat) : signFactor z * n = ((if z then -(n : Int) else n : Int) : ℚ) := by cases z <;> simp [signFactor]
  rw [hcast, hcast, Int.cast_lt]
  cases x <;> cases y <;> simp <;> omega

theorem floatCond_lt_iff {x y : Word} (hx : (fp32.value x.toNat).isFin = true) (hy : (fp32.value y.toNat).isFin = true) :
    floatCond .lt false x y = true ↔ (fp32.value x.toNat).rat < (fp32.value y.toNat).rat := by
  have hnum {w : Word} (hw : (fp32.value w.toNat).isFin = true) : isNan32 w = false := by
    rw [isNan32]; cases hv : fp32.value w.toNat <;> simp_all [FV.isFin]
  obtain ⟨nx, kx, hkx, hrx⟩ := fp32_parts hx
  obtain ⟨ny, ky, hky, hry⟩ := fp32_parts hy
  have hkeys : floatCond .lt false x y = decide (valueKey x < valueKey y) := by simp [floatCond, flush32, hnum hx, hnum hy]
  rw [hkeys, decide_eq_true_iff, hkx, hky, hrx, hry, mul_lt_mul_iff_left₀ (zpow_pos two_pos _), key_lt_iff]

/-- Settles O27: compares by what they write, NaNs by the tests that come first, and finite values by their units. -/
theorem comparesAndFloatOrder : Obligations.ComparesAndFloatOrder := by
  unfold Obligations.ComparesAndFloatOrder
  refine ⟨fun s c k q a b m => ?compares, fun q ftz x y h => ?nan, fun ftz => ?zeros, fun mx ftz x y h => ?overNan, fun x y => floatCond_lt_iff⟩
  case compares =>
    exact ⟨fun h => vcmp_ready h rfl k q a b m, fun h => vcmp_ready h rfl k q a b m, exec_vfcmp_ready⟩
  case nan => exact floatCond_of_nan q ftz (h.imp (isNan32_iff x).mpr (isNan32_iff y).mpr)
  case zeros => cases ftz <;> decide
  case overNan =>
    simp only [← isNan32_iff]
    exact minmax32_of_nan mx ftz y ((isNan32_iff x).mpr h)

end Sys2Proof.Machine
end

section
/-! PROOF. Predicates, lane moves and ballots (O28). -/
namespace Sys2Proof.Machine

variable {i : Instr} {s : State} {c : Ctx}

/-! Predicate instructions (R118). -/

/-- A predicate instruction of two sources: one operation on whole predicates and on flags, which acts bit by bit as `f`. -/
def BitwiseBy (i : Instr) (d a b : BitVec 3) (p : Bool) (f : Bool → Bool → Bool) : Prop :=
  ∃ g h, (∀ s, exec i s = kop i g h d a b p s) ∧ i.commits = false ∧ (∀ x y, h x y = f x y)
    ∧ ∀ (x y : Lanes) l, l < 96 → (g x y).getLsbD l = f (x.getLsbD l) (y.getLsbD l)

theorem bitwise_of_predicateTwo {d a b : BitVec 3} {p : Bool} {f : Bool → Bool → Bool} (hi : predicateTwo i = some (d, a, b, p, f)) :
    BitwiseBy i d a b p f := by
  unfold predicateTwo at hi
  split at hi
  case h_1 => cases hi; exact ⟨_, _, fun _ => rfl, rfl, fun _ _ => rfl, fun _ _ _ _ => BitVec.getLsbD_and⟩
  case h_2 => cases hi; exact ⟨_, _, fun _ => rfl, rfl, fun _ _ => rfl, fun _ _ _ _ => BitVec.getLsbD_or⟩
  case h_3 => cases hi; exact ⟨_, _, fun _ => rfl, rfl, fun x y => by cases x <;> cases y <;> rfl, fun _ _ _ _ => BitVec.getLsbD_xor⟩
  case h_4 => cases hi; exact ⟨fun x y => x &&& ~~~y, _, fun _ => rfl, rfl, fun _ _ => rfl, fun x y l hl => by simp [hl]⟩
  case h_5 => cases hi; exact ⟨fun x _ => ~~~x, _, fun _ => rfl, rfl, fun _ _ => rfl, fun x y l hl => by simp [hl]⟩
  case h_6 => cases hi; exact ⟨_, _, fun _ => rfl, rfl, fun _ _ => rfl, fun _ _ _ _ => rfl⟩
  case h_7 => exact nomatch hi

theorem exec_predicateTwo {d a b : BitVec 3} {f : Bool → Bool → Bool} (h : ready i s c = true) (hi : BitwiseBy i d a b false f) :
    ∃ new : Lanes, (∀ l, l < 96 → new.getLsbD l = f ((s.readK c.pid a.toNat).getLsbD l) ((s.readK c.pid b.toNat).getLsbD l))
      ∧ exec i s = .next ((s.writeK c.pid d.toNat new).retire c c.nextPc none) := by
  obtain ⟨g, _, he, hc, -, hg⟩ := hi
  refine ⟨_, hg _ _, ?_⟩
  rw [he, kop, issue_done h (if_neg Bool.false_ne_true), entered_of_not_commits hc]

theorem exec_flagTwo {d a b : BitVec 3} {f : Bool → Bool → Bool} (h : ready i s c = true) (hi : BitwiseBy i d a b true f) :
    exec i s = .next ((s.onPath c.pid fun p =>
      { p with flags := setFlag p.flags d (f (c.p.flags.getLsbD a.toNat) (c.p.flags.getLsbD b.toNat)) }).retire c c.nextPc none) := by
  obtain ⟨_, g, he, hc, hg, -⟩ := hi
  rw [he, kop, issue_done h (if_pos rfl), entered_of_not_commits hc]
  simp only [flagAt, hg]

/-- A flag written reads back, and the others as before. -/
theorem getLsbD_setFlag (f : BitVec 8) (d g : BitVec 3) (v : Bool) :
    (setFlag f d v).getLsbD g.toNat = if g = d then v else f.getLsbD g.toNat := by
  have hg : g.toNat < 8 := g.isLt
  have hbit : (1#8 <<< d.toNat).getLsbD g.toNat = decide (g = d) := by
    rw [BitVec.getLsbD_shiftLeft, BitVec.getLsbD_one, Bool.eq_iff_iff]
    simp [hg, BitVec.toNat_eq]
    omega
  cases v
  · rw [setFlag, if_neg Bool.false_ne_true, BitVec.getLsbD_and, BitVec.getLsbD_not, hbit]
    by_cases h : g = d <;> simp [h, hg]
  · rw [setFlag, if_pos rfl, BitVec.getLsbD_or, hbit]
    by_cases h : g = d <;> simp [h]

/-! Ballots (R122). -/

theorem exec_vrfl_ready {d a : BitVec 7} (h : ready (.vrfl d a) s c = true) : exec (.vrfl d a) s =
    .next ((s.writeS c.pid d.toNat ((lanesOf c.p.mask).head?.elim 0 (s.readV c.pid a.toNat))).retire c c.nextPc none) := by
  rw [exec_vrfl, execVrfl, issue_done h rfl, entered_of_not_commits rfl, Ctx.lanes]
  cases lanesOf c.p.mask <;> rfl

/-- Settles O28: a predicate instruction by its operation on each bit, and the moves and ballots by the lanes that they read. -/
theorem predicatesLaneMovesAndBallots : Obligations.PredicatesLaneMovesAndBallots := by
  unfold Obligations.PredicatesLaneMovesAndBallots
  refine ⟨fun s c => ⟨fun i d a b f h hi => exec_predicateTwo h (bitwise_of_predicateTwo hi), fun i d a b f h hi =>
      exec_flagTwo h (bitwise_of_predicateTwo hi), getLsbD_setFlag, fun d r h => issue_done h rfl, fun a r h => issue_done h rfl,
      fun a r h => issue_done h rfl, fun d a h => issue_done h rfl, fun d a h => issue_done h rfl⟩,
    fun s c d a b k => ⟨fun h => lanewisePlain_ready h rfl _ _, fun h => lanewisePlain_ready h rfl _ _, fun h => lanewisePlain_ready h rfl _ _,
      fun h => ?vrfl, fun h => issue_done h rfl, fun h => issue_done h rfl⟩⟩
  case vrfl =>
    rw [exec_vrfl_ready h]
    cases (lanesOf c.p.mask).head? <;> rfl

end Sys2Proof.Machine
end

section
/-! PROOF. Quotients and roots before their one rounding (O25). -/
namespace Sys2Proof.Machine

/-! The integer square root. -/

theorem isqrtFrom_spec (k n r : Nat) (hlo : r * r ≤ n) (hhi : n < (r + 2 ^ k) * (r + 2 ^ k)) :
    isqrtFrom k n r * isqrtFrom k n r ≤ n ∧ n < (isqrtFrom k n r + 1) * (isqrtFrom k n r + 1) := by
  induction k generalizing r with
  | zero => exact ⟨hlo, hhi⟩
  | succ k ih =>
    rw [isqrtFrom]
    split
    · next h => exact ih _ h (by rwa [Nat.add_assoc, ← Nat.two_mul, ← Nat.pow_succ'])
    · next h => exact ih r hlo (not_le.mp h)

theorem isqrt_spec (n : Nat) : isqrt n * isqrt n ≤ n ∧ n < (isqrt n + 1) * (isqrt n + 1) := by
  refine isqrtFrom_spec _ _ 0 (Nat.zero_le _) ?_
  calc n < 2 ^ (Nat.log2 n + 1) := Nat.lt_log2_self
    _ ≤ 2 ^ (Nat.log2 n / 2 + 1 + (Nat.log2 n / 2 + 1)) := Nat.pow_le_pow_right (by decide) (by omega)
    _ = (0 + 2 ^ (Nat.log2 n / 2 + 1)) * (0 + 2 ^ (Nat.log2 n / 2 + 1)) := by rw [Nat.zero_add, Nat.pow_add]

/-- A root of a number of at least 78 bits has 40 bits. -/
theorem isqrt_ge {n : Nat} (h : 2 ^ 78 ≤ n) : 2 ^ 39 ≤ isqrt n := by
  by_contra hlt
  have hle : isqrt n + 1 ≤ 2 ^ 39 := by omega
  have := Nat.mul_le_mul hle hle
  have := (isqrt_spec n).2
  omega

/-! A magnitude with one bit more than its significand, set where something is left over. -/

theorem rat_leftover (neg : Bool) (r : Nat) (k : Int) (exact_ : Prop) [Decidable exact_] :
    (FV.fin neg (2 * r + if exact_ then 0 else 1) (k - 1)).rat
      = signFactor neg * if exact_ then (r : ℚ) * 2 ^ k else ((r : ℚ) + 1 / 2) * 2 ^ k := by
  have hk : (2 : ℚ) ^ k = 2 ^ (k - 1) * 2 := by rw [← zpow_add_one₀ two_ne_zero, Int.sub_add_cancel]
  rw [rat_fin, hk]
  split <;> push_cast <;> ring

theorem two_zpow_sq (k : Int) : ((2 : ℚ) ^ k) ^ 2 = 2 ^ (2 * k) := by rw [← zpow_natCast, ← zpow_mul, mul_comm]; rfl

/-! The square root (R110, R111). -/

/-- A value with an even exponent split off. -/
theorem even_units (m : Nat) (e : Int) {j : Nat} {k : Int} (h : e = j + 2 * k) : (m : ℚ) * 2 ^ e = (m * 2 ^ j : Nat) * ((2 : ℚ) ^ k) ^ 2 := by
  rw [two_zpow_sq, h, zpow_add₀ two_ne_zero, zpow_natCast]
  push_cast
  ring

theorem rootOf_eq (m : Nat) (e : Int) : ∃ (j : Nat) (k : Int), 80 ≤ j ∧ e = j + 2 * k ∧ rootOf m e
    = .fin false (2 * isqrt (m * 2 ^ j) + if isqrt (m * 2 ^ j) * isqrt (m * 2 ^ j) = m * 2 ^ j then 0 else 1) (k - 1) := by
  by_cases he : e % 2 = 0
  · exact ⟨80, (e - (80 : Nat)) / 2, le_rfl, by omega, by rw [rootOf, if_pos he]⟩
  · exact ⟨81, (e - (81 : Nat)) / 2, by decide, by omega, by rw [rootOf, if_neg he]⟩

theorem sqrt_neighbours {m : Nat} (hm : 0 < m) (e : Int) : ∃ (r : Nat) (k : Int), 2 ^ 39 ≤ r
    ∧ ((r : ℚ) * 2 ^ k) ^ 2 ≤ (m : ℚ) * 2 ^ e ∧ (m : ℚ) * 2 ^ e < (((r : ℚ) + 1) * 2 ^ k) ^ 2
    ∧ (FV.sqrt (.fin false m e)).2 = 0
    ∧ (FV.sqrt (.fin false m e)).1.rat
      = if ((r : ℚ) * 2 ^ k) ^ 2 = (m : ℚ) * 2 ^ e then (r : ℚ) * 2 ^ k else ((r : ℚ) + 1 / 2) * 2 ^ k := by
  have hsqrt : FV.sqrt (.fin false m e) = (rootOf m e, evNone) := by simp [FV.sqrt, hm.ne']
  obtain ⟨j, k, hj, hek, hroot⟩ := rootOf_eq m e
  have hbig : 2 ^ 78 ≤ m * 2 ^ j :=
    (Nat.pow_le_pow_right (by decide) (show 78 ≤ j by omega)).trans (Nat.le_mul_of_pos_left _ hm)
  obtain ⟨hlo, hhi⟩ := isqrt_spec (m * 2 ^ j)
  have hr := isqrt_ge hbig
  have hu : (0 : ℚ) < (2 ^ k) ^ 2 := by positivity
  rw [hsqrt, hroot, even_units m e hek]
  generalize isqrt (m * 2 ^ j) = r at hlo hhi hr ⊢
  generalize m * 2 ^ j = n at hlo hhi ⊢
  refine ⟨r, k, hr, ?_, ?_, rfl, ?_⟩
  · rw [mul_pow, mul_le_mul_iff_left₀ hu, pow_two]
    exact_mod_cast hlo
  · rw [mul_pow, mul_lt_mul_iff_left₀ hu, pow_two]
    exact_mod_cast hhi
  · have hiff : ((r : ℚ) * 2 ^ k) ^ 2 = n * (2 ^ k) ^ 2 ↔ r * r = n := by
      rw [mul_pow, mul_left_inj' hu.ne', pow_two]
      exact_mod_cast Iff.rfl
    simp only [hiff, rat_leftover, signFactor]
    simp

/-! The reciprocal of the square root (R110, R111). -/

/-- The argument with an even exponent, and the root of its reciprocal. -/
theorem rrootOf_eq {m : Nat} (hm : 0 < m) (e : Int) : ∃ (j : Nat) (x : Int) (n : Nat), 0 < n ∧ (m : ℚ) * 2 ^ e = n * 2 ^ (2 * x)
    ∧ j = 80 + Nat.log2 n ∧ rrootOf m e = .fin false (2 * isqrt (2 ^ (2 * j) / n) +
      if isqrt (2 ^ (2 * j) / n) * isqrt (2 ^ (2 * j) / n) * n = 2 ^ (2 * j) then 0 else 1) (-x - j - 1) := by
  by_cases he : e % 2 = 0
  · refine ⟨_, e / 2, m, hm, by rw [show 2 * (e / 2) = e by omega], rfl, ?_⟩
    simp only [rrootOf, if_pos he]
  · refine ⟨_, (e - 1) / 2, 2 * m, by omega, ?_, rfl, ?_⟩
    · rw [show 2 * ((e - 1) / 2) = e - 1 by omega, zpow_sub_one₀ two_ne_zero]
      push_cast
      ring
    · simp only [rrootOf, if_neg he]

theorem rsqrt_neighbours {m : Nat} (hm : 0 < m) (e : Int) : ∃ (r : Nat) (k : Int), 2 ^ 39 ≤ r
    ∧ ((r : ℚ) * 2 ^ k) ^ 2 * ((m : ℚ) * 2 ^ e) ≤ 1 ∧ 1 < (((r : ℚ) + 1) * 2 ^ k) ^ 2 * ((m : ℚ) * 2 ^ e)
    ∧ (FV.rsqrt (.fin false m e)).2 = 0
    ∧ (FV.rsqrt (.fin false m e)).1.rat
      = if ((r : ℚ) * 2 ^ k) ^ 2 * ((m : ℚ) * 2 ^ e) = 1 then (r : ℚ) * 2 ^ k else ((r : ℚ) + 1 / 2) * 2 ^ k := by
  have hrsqrt : FV.rsqrt (.fin false m e) = (rrootOf m e, evNone) := by simp [FV.rsqrt, hm.ne']
  obtain ⟨j, x, n, hn, hmx, hj, hroot⟩ := rrootOf_eq hm e
  have hlog : n < 2 ^ (Nat.log2 n + 1) := Nat.lt_log2_self
  have hbig : 2 ^ 78 ≤ 2 ^ (2 * j) / n := by
    rw [Nat.le_div_iff_mul_le hn]
    calc 2 ^ 78 * n ≤ 2 ^ 78 * 2 ^ (Nat.log2 n + 1) := Nat.mul_le_mul_left _ hlog.le
      _ ≤ 2 ^ (2 * j) := by rw [← Nat.pow_add]; exact Nat.pow_le_pow_right (by decide) (by omega)
  obtain ⟨hlo, hhi⟩ := isqrt_spec (2 ^ (2 * j) / n)
  have hr := isqrt_ge hbig
  rw [Nat.le_div_iff_mul_le hn] at hlo
  rw [Nat.div_lt_iff_lt_mul hn] at hhi
  rw [hrsqrt, hroot, hmx]
  generalize isqrt (2 ^ (2 * j) / n) = r at hlo hhi hr ⊢
  have hunit (t : ℚ) : (t * 2 ^ (-x - j)) ^ 2 * (n * 2 ^ (2 * x)) = t * t * n / ((2 ^ (2 * j) : Nat) : ℚ) := by
    rw [mul_pow, two_zpow_sq, show 2 * (-x - (j : Int)) = -(2 * x) + -((2 * j : Nat) : Int) by push_cast; ring, zpow_add₀ two_ne_zero,
      zpow_neg, zpow_neg, zpow_natCast]
    push_cast
    field_simp
  have hpos : (0 : ℚ) < ((2 ^ (2 * j) : Nat) : ℚ) := by positivity
  refine ⟨r, -x - j, hr, ?_, ?_, rfl, ?_⟩
  · rw [hunit, div_le_one hpos]
    exact_mod_cast hlo
  · rw [hunit, one_lt_div hpos]
    exact_mod_cast hhi
  · have hiff : ((r : ℚ) * 2 ^ (-x - (j : Int))) ^ 2 * (n * 2 ^ (2 * x)) = 1 ↔ r * r * n = 2 ^ (2 * j) := by
      rw [hunit, div_eq_one_iff_eq hpos.ne']
      exact_mod_cast Iff.rfl
    simp only [hiff, rat_leftover, signFactor]
    simp

/-! The quotient (R110, R111). -/

theorem div_neighbours {m n : Nat} (hm : 0 < m) (hn : 0 < n) (e f : Int) (x y : Bool) : ∃ (r : Nat) (k : Int), 2 ^ 39 ≤ r
    ∧ (r : ℚ) * 2 ^ k ≤ (m : ℚ) * 2 ^ e / ((n : ℚ) * 2 ^ f) ∧ (m : ℚ) * 2 ^ e / ((n : ℚ) * 2 ^ f) < ((r : ℚ) + 1) * 2 ^ k
    ∧ (FV.div (.fin x m e) (.fin y n f)).2 = 0
    ∧ (FV.div (.fin x m e) (.fin y n f)).1.rat = (if x = y then 1 else -1) *
      (if (r : ℚ) * 2 ^ k = (m : ℚ) * 2 ^ e / ((n : ℚ) * 2 ^ f) then (r : ℚ) * 2 ^ k else ((r : ℚ) + 1 / 2) * 2 ^ k) := by
  obtain ⟨j, hj⟩ : ∃ j, j = 80 + Nat.log2 n := ⟨_, rfl⟩
  have hdiv : FV.div (.fin x m e) (.fin y n f)
      = (.fin (x != y) (2 * (m * 2 ^ j / n) + if m * 2 ^ j % n = 0 then 0 else 1) (e - f - j - 1), evNone) := by
    simp [FV.div, ratio, hn.ne', hm.ne', hj]
  have hn0 : (0 : ℚ) < n := Nat.cast_pos.mpr hn
  have hu : (0 : ℚ) < 2 ^ (e - f - (j : Int)) := zpow_pos two_pos _
  have ha : (m : ℚ) * 2 ^ e / (n * 2 ^ f) = ((m * 2 ^ j : Nat) : ℚ) / n * 2 ^ (e - f - (j : Int)) := by
    rw [zpow_sub₀ two_ne_zero, zpow_sub₀ two_ne_zero, zpow_natCast]
    push_cast
    field_simp
  have hsign : signFactor (x != y) = if x = y then 1 else -1 := by cases x <;> cases y <;> rfl
  have hr : 2 ^ 39 ≤ m * 2 ^ j / n := by
    rw [Nat.le_div_iff_mul_le hn]
    calc 2 ^ 39 * n ≤ 2 ^ 39 * 2 ^ (Nat.log2 n + 1) := Nat.mul_le_mul_left _ Nat.lt_log2_self.le
      _ ≤ 2 ^ j := by rw [← Nat.pow_add]; exact Nat.pow_le_pow_right (by decide) (by omega)
      _ ≤ m * 2 ^ j := Nat.le_mul_of_pos_left _ hm
  have hparts := Nat.div_add_mod' (m * 2 ^ j) n
  rw [hdiv, ha]
  generalize m * 2 ^ j = v at hr hparts ⊢
  refine ⟨v / n, e - f - j, hr, ?_, ?_, rfl, ?_⟩
  · rw [mul_le_mul_iff_left₀ hu]
    exact Nat.cast_div_le
  · rw [mul_lt_mul_iff_left₀ hu, div_lt_iff₀ hn0]
    exact_mod_cast (Nat.div_lt_iff_lt_mul hn).mp (Nat.lt_succ_self (v / n))
  · have hiff : ((v / n : Nat) : ℚ) * 2 ^ (e - f - (j : Int)) = v / n * 2 ^ (e - f - (j : Int)) ↔ v % n = 0 := by
      rw [mul_left_inj' hu.ne', eq_div_iff hn0.ne', ← Nat.cast_mul, Nat.cast_inj]
      omega
    simp only [hiff, rat_leftover, hsign]

end Sys2Proof.Machine
end

section
/-! PROOF. Vector floating-point instructions (O25). -/
namespace Sys2Proof.Machine

variable {i : Instr} {s : State} {c : Ctx} {d a b : BitVec 7}

/-! FP32 forms (R105 to R107, R110, R112). -/

theorem exec_of_floatTwo {f : Word → Word → Word × Events} (h : ready i s c = true) (hi : floatTwo c.mods i = some (d, a, b, f)) :
    exec i s = .next (s.laneResultCounted c d fun l => f (s.readV c.pid a.toNat l) (s.readV c.pid b.toNat l)) := by
  unfold floatTwo at hi
  split at hi
  case h_8 => exact nomatch hi
  all_goals
    cases hi
    exact lanewise_ready h rfl _ _

theorem exec_of_floatOne {f : Word → Word × Events} (h : ready i s c = true) (hi : floatOne c.mods i = some (d, a, f)) :
    exec i s = .next (s.laneResultCounted c d fun l => f (s.readV c.pid a.toNat l)) := by
  unfold floatOne at hi
  split at hi
  case h_12 | h_13 =>
    cases hi
    simp only [← ofNat_wrapInt]
    exact lanewise_ready h rfl _ _
  case h_14 => exact nomatch hi
  all_goals
    cases hi
    exact lanewise_ready h rfl _ _

/-! BF16 forms (R108, R109). -/

/-- A BF16 code lies within 16 bits. -/
theorem pack_bf16_lt (rnd : Rnd) (v : FV) : (bf16.pack rnd false v).1 < 2 ^ 16 := by
  have hsign (neg : Bool) : bf16.signBit neg ≤ 2 ^ 15 := by cases neg <;> decide
  have hover (neg : Bool) : (bf16.overflowed rnd false neg).1 < 2 ^ 16 := by cases neg <;> cases rnd <;> decide
  cases v with
  | nan => exact (by decide : bf16.nanCode < 2 ^ 16)
  | inf neg =>
    rw [pack_inf rfl]
    cases neg <;> decide
  | fin neg m e =>
    have := hsign neg
    have hmax : bf16.maxMag < 2 ^ 15 := by decide
    simp only [Fmt.pack]
    split
    · show bf16.signBit neg < _; omega
    · split
      · exact hover neg
      · show bf16.signBit neg + _ < _; omega

/-- A lane of two BF16 elements, each rounded once, with the events of both. -/
def RoundedPair (rnd : Rnd) (f : Nat → FV × Events) (r : Word × Events) : Prop :=
  (∀ j, j < 2 → (elem 16 r.1 j).toNat = (bf16.pack rnd false (f j).1).1)
    ∧ r.2 = (bf16.pack rnd false (f 0).1).2 ||| (f 0).2 ||| (bf16.pack rnd false (f 1).1).2 ||| (f 1).2

theorem bf16Pair_rounded (rnd : Rnd) (f : Nat → FV × Events) : RoundedPair rnd f (bf16Pair rnd f) := by
  refine ⟨fun j hj => ?_, ?_⟩
  · rw [bf16Pair, elem_packed hj, BitVec.toNat_ofNat, Nat.mod_eq_of_lt (pack_bf16_lt _ _)]
  · simp [bf16Pair, packed, List.range_succ, evNone, BitVec.or_assoc]

/-- A BF16 instruction that issues writes two elements a lane. -/
theorem bf16_ready (h : ready i s c = true) (hc : i.commits = false) {f : Nat → Nat → FV × Events} {g : Ctx → State → Nat → Nat → FV × Events}
    (hg : ∀ l j, g c s l j = f l j) : ∃ r : Nat → Word × Events,
      lanewise i d (fun c s l => bf16Pair c.mods.rnd (g c s l)) s = .next (s.laneResultCounted c d r)
        ∧ ∀ l, RoundedPair c.mods.rnd (f l) (r l) := by
  refine ⟨_, lanewise_ready h hc _ _, fun l => ?_⟩
  rw [← funext (hg l)]
  exact bf16Pair_rounded _ _

theorem bfElem_eq (w : Word) (j : Nat) : bfElem w j = bf16.value (elem 16 w j).toNat := by rw [bfElem, element_eq]

/-- A NaN addend of a fused sum counts nothing (R39, R56). -/
theorem fma_nan_events (rnd : Rnd) (u v : FV) : (FV.fma rnd u v .nan).2 = 0 := rfl

/-! Functions at their exact points (R110, R111). -/

/-- 2^a of a whole number below 256 in magnitude. -/
theorem exp2_whole (neg : Bool) {m : Nat} (hm : m < 256) :
    (FV.exp2 (.fin neg m 0)).1.rat = (2 : ℚ) ^ (if neg then -(m : Int) else (m : Int)) ∧ (FV.exp2 (.fin neg m 0)).2 = 0 := by
  by_cases h0 : m = 0
  · subst h0
    cases neg <;> exact ⟨by simp [FV.exp2, FV.rat], rfl⟩
  · have hlog : ¬ (Nat.log2 m : Int) + 0 ≥ 8 := by
      have : Nat.log2 m < 8 := (Nat.log2_lt h0).mpr hm
      omega
    have hx : scaled neg m 0 (-160) = (if neg then -(m : Int) else m) * (2 ^ 160 : Nat) := by cases neg <;> simp [scaled]
    have hexp : FV.exp2 (.fin neg m 0) = (.fin false 1 (if neg then -(m : Int) else m), evNone) := by
      simp only [FV.exp2, if_neg h0, if_neg hlog]
      rw [show min (0 : Int) (-160) = -160 from rfl, hx, show (-(-160 : Int)).toNat = 160 from rfl, Int.mul_emod_left,
        Int.mul_ediv_cancel _ (by decide)]
      rfl
    rw [hexp]
    exact ⟨by simp [FV.rat], rfl⟩

/-- log₂ of a power of two. -/
theorem log2_two_pow (k : Nat) (e : Int) :
    (FV.log2 (.fin false (2 ^ k) e)).1.rat = (k : ℚ) + (e : ℚ) ∧ (FV.log2 (.fin false (2 ^ k) e)).2 = 0 := by
  have hlog : FV.log2 (.fin false (2 ^ k) e) = (ofSigned .rne ((k : Int) + e) 0, evNone) := by
    simp [FV.log2, Nat.log2_two_pow]
  rw [hlog]
  exact ⟨by rw [rat_ofSigned]; push_cast; ring, rfl⟩

/-- Settles O25: each instruction lane by lane, the quotient and the roots by their neighbours, and the exact points one by one. -/
theorem vectorFloatForms : Obligations.VectorFloatForms := by
  unfold Obligations.VectorFloatForms
  refine ⟨fun i s c d a b => ⟨fun f => exec_of_floatTwo, fun f => exec_of_floatOne, fun h => lanewise_ready h rfl _ _,
      fun h => bf16_ready h rfl fun l j => ?vhadd, fun h => bf16_ready h rfl fun l j => ?vhmul, fun h => bf16_ready h rfl fun l j => ?vhfma,
      fun u v w hw => hw ▸ fma_nan_events _ u v⟩,
    fun m e hm => ⟨sqrt_neighbours hm e, rsqrt_neighbours hm e, fun n f x y hn => div_neighbours hm hn e f x y⟩,
    fun neg m => exp2_whole neg, log2_two_pow, ?nan, ?angle, fun m e hm => ?negative,
    fun neg e => ⟨rfl, rfl, rfl, rfl, ?one⟩⟩
  case vhadd | vhmul => simp only [bfElem_eq]
  case vhfma => simp only [bfElem_eq]; rfl
  case nan => simp only [List.forall_mem_cons]; exact ⟨rfl, rfl, rfl, rfl, rfl, rfl, rfl, by simp⟩
  case angle => simp only [List.forall_mem_cons]; exact ⟨fun _ => rfl, fun _ => rfl, by simp⟩
  case negative => simp [FV.sqrt, FV.rsqrt, FV.log2, hm.ne']
  case one => simp only [List.forall_mem_cons]; exact ⟨rfl, rfl, rfl, by simp⟩

end Sys2Proof.Machine
end
